-- ==== Sys2Proof/Word.lean ====
section
/-! DEFINITION. The word types of the model. -/

namespace Sys2Proof

/-- A 64-bit register or address (R16). -/
abbrev Word := BitVec 64

/-- A byte of memory. -/
abbrev Byte := BitVec 8

/-- A slot of a bundle (R206). -/
abbrev SlotWord := BitVec 32

end Sys2Proof
end

