-- ==== Sys2Proof/Syntax.lean ====
section
/-! DEFINITION. The instructions and device steps of the Timbiro T9 as data: one operand shape for each layout of
fields in the opcode table, and the one inductive Instr with a constructor for every row of spec/opcode_table.json. -/

namespace Sys2Proof

/-- Payload of an X slot, bits [26:0] (R207, R215). -/
abbrev XPay := BitVec 27

/-! ### Operand shapes of the slot instructions (R212), fields as the opcode table places them -/

/-- Fields of ADD, SUB, MUL, MULH, MULHU, DIV and others (R237). -/
structure Rrr where
  dst : BitVec 5
  srcA : BitVec 5
  srcB : BitVec 5
  ta : Bool
  tb : Bool
  md : BitVec 3
  deriving DecidableEq, Repr

/-- Fields of CMP, FCMP (R240, R246). -/
structure RrrCond where
  dst : BitVec 3
  srcA : BitVec 5
  srcB : BitVec 5
  ta : Bool
  tb : Bool
  cond : BitVec 3
  deriving DecidableEq, Repr

/-- Fields of SEL, WINIT (R241, R272). -/
structure RrrPred where
  dst : BitVec 5
  srcA : BitVec 5
  srcB : BitVec 5
  ta : Bool
  tb : Bool
  sel : BitVec 3
  deriving DecidableEq, Repr

/-- Fields of PLOG (R241). -/
structure PredOps where
  dst : BitVec 3
  srcA : BitVec 3
  srcB : BitVec 3
  md : BitVec 3
  deriving DecidableEq, Repr

/-- Fields of CLZ, CTZ, POPC (R242). -/
structure Rr where
  dst : BitVec 5
  srcA : BitVec 5
  ta : Bool
  md : BitVec 9
  deriving DecidableEq, Repr

/-- Fields of ADDI (R243). -/
structure Ri where
  dst : BitVec 5
  srcA : BitVec 5
  ta : Bool
  imm : BitVec 9
  deriving DecidableEq, Repr

/-- Fields of CMPI (R240). -/
structure RiCond where
  dst : BitVec 3
  srcA : BitVec 5
  ta : Bool
  cond : BitVec 3
  imm : BitVec 6
  deriving DecidableEq, Repr

/-- Fields of LI (R243). -/
structure Imm15 where
  dst : BitVec 5
  imm : BitVec 15
  deriving DecidableEq, Repr

/-- Fields of FADD, FSUB, FMUL, FMA (R245). -/
structure RrrRound where
  dst : BitVec 5
  srcA : BitVec 5
  srcB : BitVec 5
  ta : Bool
  tb : Bool
  rnd : BitVec 3
  deriving DecidableEq, Repr

/-- Fields of FMIN, FMAX, QPOST (R245, R270). -/
structure RrrPlain where
  dst : BitVec 5
  srcA : BitVec 5
  srcB : BitVec 5
  ta : Bool
  tb : Bool
  deriving DecidableEq, Repr

/-- Fields of FCVT (R247). -/
structure RrRound where
  dst : BitVec 5
  srcA : BitVec 5
  ta : Bool
  rnd : BitVec 3
  deriving DecidableEq, Repr

/-- Fields of LD, LDE, LDE.C (R250, R252). -/
structure LoadOps where
  reg : BitVec 5
  base : BitVec 5
  tb : Bool
  size : BitVec 2
  off : BitVec 6
  deriving DecidableEq, Repr

/-- Fields of ST, STF (R250, R253). -/
structure StoreOps where
  reg : BitVec 5
  base : BitVec 5
  tb : Bool
  td : Bool
  size : BitVec 2
  off : BitVec 6
  deriving DecidableEq, Repr

/-- Fields of LDA (R251). -/
structure AcqOps where
  reg : BitVec 5
  base : BitVec 5
  tb : Bool
  size : BitVec 2
  scope : BitVec 3
  deriving DecidableEq, Repr

/-- Fields of STR (R251). -/
structure RelOps where
  reg : BitVec 5
  base : BitVec 5
  tb : Bool
  td : Bool
  size : BitVec 2
  scope : BitVec 3
  deriving DecidableEq, Repr

/-- Fields of GRSET, GRCLR, TFILL (R254, R259). -/
structure TwoSrc where
  srcA : BitVec 5
  srcB : BitVec 5
  ta : Bool
  tb : Bool
  deriving DecidableEq, Repr

/-- Fields of PREF (R255). -/
structure PrefOps where
  base : BitVec 5
  tb : Bool
  off : BitVec 6
  deriving DecidableEq, Repr

/-- Fields of FENCE (R256). -/
structure ScopeOps where
  scope : BitVec 3
  deriving DecidableEq, Repr

/-- Fields of TLOOK (R259). -/
structure DstSrc where
  dst : BitVec 5
  srcA : BitVec 5
  ta : Bool
  deriving DecidableEq, Repr

/-- Fields of TEVICT (R259). -/
structure OneSrc where
  srcA : BitVec 5
  ta : Bool
  deriving DecidableEq, Repr

/-- Fields of MFS (R260). -/
structure SpecGet where
  reg : BitVec 5
  spec : BitVec 12
  deriving DecidableEq, Repr

/-- Fields of MTS (R260). -/
structure SpecPut where
  reg : BitVec 5
  ta : Bool
  spec : BitVec 12
  deriving DecidableEq, Repr

/-- Fields of AMO.ADD, AMO.AND, AMO.OR, AMO.XOR, AMO.MIN, AMO.MAX and others (R257). -/
structure AmoOps where
  dst : BitVec 5
  base : BitVec 5
  data : BitVec 5
  tb : Bool
  td : Bool
  scope : BitVec 3
  deriving DecidableEq, Repr

/-- Fields of BR, BCALL (R261). -/
structure Jump where
  off : BitVec 20
  deriving DecidableEq, Repr

/-- Fields of BC (R261). -/
structure BranchOps where
  pred : BitVec 3
  neg : Bool
  off : BitVec 16
  deriving DecidableEq, Repr

/-- Fields of RET (R261). -/
structure RetOps where
  reg : BitVec 5
  ta : Bool
  deriving DecidableEq, Repr

/-- Fields of LOOP (R262), and the payload of the X slot that its form takes (R212). -/
structure LoopReg where
  nm1 : BitVec 5
  count : BitVec 5
  ta : Bool
  xs : List XPay
  deriving DecidableEq, Repr

/-- Fields of LOOP.IMM (R262). -/
structure LoopImm where
  nm1 : BitVec 5
  imm : BitVec 8
  deriving DecidableEq, Repr

/-- Fields of TRAP (R409). -/
structure Code8 where
  code : BitVec 8
  deriving DecidableEq, Repr

/-- Fields of SLEEP (R264). -/
structure Count16 where
  count : BitVec 16
  deriving DecidableEq, Repr

/-- Fields of CPY (R268). -/
structure CpyOps where
  dst : BitVec 5
  srcA : BitVec 5
  srcB : BitVec 5
  ta : Bool
  tb : Bool
  md : BitVec 2
  deriving DecidableEq, Repr

/-- Fields of CPYX (R269). -/
structure CpyxOps where
  dst : BitVec 5
  srcA : BitVec 5
  srcB : BitVec 5
  ta : Bool
  tb : Bool
  chan : BitVec 3
  deriving DecidableEq, Repr

/-- Fields of WAITID (R271). -/
structure WaitOps where
  srcA : BitVec 5
  chan : BitVec 5
  ta : Bool
  deriving DecidableEq, Repr

/-- Fields of WARR, WWAIT (R272, R273). -/
structure WellTwo where
  srcA : BitVec 5
  srcB : BitVec 5
  ta : Bool
  tb : Bool
  scope : BitVec 3
  deriving DecidableEq, Repr

/-- Fields of WDROP (R272). -/
structure WellOne where
  srcA : BitVec 5
  ta : Bool
  scope : BitVec 3
  deriving DecidableEq, Repr

/-- Fields of WTEST (R273). -/
structure WellTest where
  dst : BitVec 5
  srcA : BitVec 5
  ta : Bool
  scope : BitVec 3
  deriving DecidableEq, Repr

/-- Fields of BOPEN, BCLOSE (R275, R276). -/
structure BulkOps where
  srcA : BitVec 5
  run : BitVec 5
  ta : Bool
  deriving DecidableEq, Repr

/-- Fields of ELW (R311). -/
structure ElwOps where
  hdr : BitVec 5
  th : Bool
  geom : BitVec 2
  prune : BitVec 2
  bmd : Bool
  deriving DecidableEq, Repr

/-- Fields of ELN (R311). -/
structure ElnOps where
  hdr : BitVec 5
  th : Bool
  geom : BitVec 2
  bmd : Bool
  deriving DecidableEq, Repr

/-- Fields of EWE (R311). -/
structure EweOps where
  hdr : BitVec 5
  th : Bool
  geom : BitVec 2
  bmc : Bool
  deriving DecidableEq, Repr

/-- Fields of EWS (R311). -/
structure EwsOps where
  hdr : BitVec 5
  th : Bool
  hdr2 : BitVec 5
  th2 : Bool
  geom : BitVec 2
  bmc : Bool
  stash : Bool
  deriving DecidableEq, Repr

/-- Fields of EDRAIN (R319). -/
structure Mask4 where
  mask : BitVec 4
  deriving DecidableEq, Repr

/-- Fields of MOV, MOVH, UNPK, FSUM, VTEST (R284, R285, R290, R296, R334). -/
structure WUnaryMod where
  dst : BitVec 5
  srcA : BitVec 5
  sel : BitVec 3
  md : BitVec 2
  deriving DecidableEq, Repr

/-- Fields of LDS (R286). -/
structure WLds where
  dst : BitVec 5
  srcB : BitVec 5
  sel : BitVec 3
  md : BitVec 2
  deriving DecidableEq, Repr

/-- Fields of STS (R286). -/
structure WSts where
  srcA : BitVec 5
  srcB : BitVec 5
  sel : BitVec 3
  md : BitVec 2
  deriving DecidableEq, Repr

/-- Fields of IMM (R287). -/
structure WImm where
  dst : BitVec 5
  immHi : BitVec 5
  immLo : BitVec 5
  sel : BitVec 3
  md : BitVec 2
  deriving DecidableEq, Repr

/-- Fields of ROWCOL (R288). -/
structure WDst where
  dst : BitVec 5
  sel : BitVec 3
  deriving DecidableEq, Repr

/-- Fields of PERM, PACK, FSGN, CELL_FCMP, FSEL, IADD and others (R289, R290, R293, R294, R295, R297). -/
structure WBinMod where
  dst : BitVec 5
  srcA : BitVec 5
  srcB : BitVec 5
  sel : BitVec 3
  md : BitVec 2
  deriving DecidableEq, Repr

/-- Fields of CVT (R299). -/
structure WCvt where
  dst : BitVec 5
  srcA : BitVec 5
  sel : BitVec 3
  part : BitVec 2
  deriving DecidableEq, Repr

/-- Fields of QLOG (R300). -/
structure WQlog where
  dst : BitVec 2
  srcA : BitVec 2
  srcB : BitVec 2
  sel : BitVec 3
  md : BitVec 2
  deriving DecidableEq, Repr

/-- Fields of QSET (R301). -/
structure WQset where
  srcA : BitVec 5
  sel : BitVec 3
  md : BitVec 2
  deriving DecidableEq, Repr

/-- Fields of CELL_FADD, CELL_FSUB, CELL_FMUL, CELL_FMA, CELL_FMIN, CELL_FMAX and others (R292, R297). -/
structure WBin where
  dst : BitVec 5
  srcA : BitVec 5
  srcB : BitVec 5
  sel : BitVec 3
  deriving DecidableEq, Repr

/-- Fields of FRCP, FRSQ, FSQRT, FEXP2, FLOG2 (R292). -/
structure WUnary where
  dst : BitVec 5
  srcA : BitVec 5
  sel : BitVec 3
  deriving DecidableEq, Repr

/-- Fields of SCL (R324). -/
structure WScl where
  srcA : BitVec 5
  srcB : BitVec 5
  sel : BitVec 3
  hand : Bool
  deriving DecidableEq, Repr

/-- Fields of MAC (R322). -/
structure WMac where
  acc : BitVec 2
  srcA : BitVec 5
  srcB : BitVec 5
  sel : BitVec 3
  hi : Bool
  hand : Bool
  deriving DecidableEq, Repr

/-- Fields of MACS, MACV (R325, R329). -/
structure WMacH where
  acc : BitVec 2
  srcA : BitVec 5
  srcB : BitVec 5
  sel : BitVec 3
  hand : Bool
  deriving DecidableEq, Repr

/-- Fields of VBEG (R327). -/
structure WVbeg where
  acc : BitVec 2
  srcA : BitVec 5
  srcB : BitVec 5
  sel : BitVec 3
  md : BitVec 2
  deriving DecidableEq, Repr

/-- Fields of VTHR (R328). -/
structure WVthr where
  srcA : BitVec 5
  sel : BitVec 3
  deriving DecidableEq, Repr

/-- Fields of ACCZ (R330). -/
structure WAccz where
  acc : BitVec 2
  sel : BitVec 3
  deriving DecidableEq, Repr

/-- Fields of ACCRD (R331). -/
structure WAccrd where
  dst : BitVec 5
  acc : BitVec 2
  srcB : BitVec 5
  sel : BitVec 3
  fwd : Bool
  deriving DecidableEq, Repr

/-- Fields of ACCWR (R332). -/
structure WAccwr where
  acc : BitVec 2
  srcA : BitVec 5
  sel : BitVec 3
  deriving DecidableEq, Repr

/-- Fields of AMAX (R333). -/
structure WAmax where
  dst : BitVec 5
  acc : BitVec 2
  sel : BitVec 3
  accum : Bool
  deriving DecidableEq, Repr

/-- Fields of LUP, CHOL (R338, R339). -/
structure Tile1 where
  tile : BitVec 3
  deriving DecidableEq, Repr

/-- Fields of QRH (R340). -/
structure Tile2 where
  tile : BitVec 3
  tau : BitVec 5
  deriving DecidableEq, Repr

/-- Fields of TRSM (R341). -/
structure TileTri where
  tile : BitVec 3
  tri : BitVec 3
  md : BitVec 2
  deriving DecidableEq, Repr

/-- Fields of SELI, SELX (R303, R304). -/
structure SelOps where
  dst : BitVec 3
  srcA : BitVec 5
  srcB : BitVec 5
  md : BitVec 2
  deriving DecidableEq, Repr

/-- Fields of WFLG (R306). -/
structure FlagOps where
  dst : BitVec 5
  qidx : BitVec 2
  md : BitVec 2
  deriving DecidableEq, Repr

/-- Fields of PVST (R343). -/
structure AddrSrc where
  srcA : BitVec 5
  deriving DecidableEq, Repr

/-- Fields of VLD, VST, VGTH, VADD, VSUB, VMUL and others (R352, R353, R355, R356, R358, R359). -/
structure VTriMod where
  dst : BitVec 5
  srcA : BitVec 5
  srcB : BitVec 5
  mask : BitVec 3
  md : BitVec 2
  deriving DecidableEq, Repr

/-- Fields of VSCT, VSEL, VIOTA, VDEDUP, HGLD, HGSC (R354, R360, R361, R362, R370, R371). -/
structure VTri where
  dst : BitVec 5
  srcA : BitVec 5
  srcB : BitVec 5
  mask : BitVec 3
  deriving DecidableEq, Repr

/-- Fields of TSTR (R364). -/
structure VTstr where
  dst : BitVec 5
  srcA : BitVec 5
  mask : BitVec 3
  count : BitVec 2
  deriving DecidableEq, Repr

/-- Fields of VCVT (R357). -/
structure VUnary where
  dst : BitVec 5
  srcA : BitVec 5
  mask : BitVec 3
  deriving DecidableEq, Repr

/-! ### Operands of the device steps -/

/-- The three kinds of queue with a descriptor (R67, R162, R182). -/
inductive QueueKind where
  | launch
  | copy
  | task
  deriving DecidableEq, Repr

/-- Where a host access goes: an offset of the device control space in BAR0, or of the windows in BAR2 (R382, R383). -/
inductive HostAddr where
  | bar0 (o : BitVec 32)
  | bar2 (o : BitVec 39)
  deriving DecidableEq, Repr

/-- A host access: a read, or a posted write with its Relaxed Ordering attribute (R196, R383). -/
inductive HostOp where
  | read (size : Nat)
  | write (relaxed : Bool) (bytes : List (BitVec 8))
  deriving DecidableEq, Repr

/-- A PCI Express AtomicOp (R382). -/
inductive HostAtomic where
  | fetchAdd
  | swap
  | cas
  deriving DecidableEq, Repr

/-- The four edge units of a core, in the order of the EDRAIN mask (R44, R319). -/
inductive EdgeId where
  | west
  | north
  | east
  | south
  deriving DecidableEq, Repr

/-- What a received Bridin flit asks for (R390). -/
inductive FlitKind where
  | load
  | store
  | atomic
  | response
  | queueWrite
  | credit
  | other
  deriving DecidableEq, Repr, Inhabited

/-- A Bridin flit as it leaves or arrives at a port (R390, R392): `key` is the value of the link key under which it is encrypted, and `auth`
says whether its tag verifies under that key. A store's `mask` lists the byte offsets of its data, none for bytes in a
row. `atomic` is the operation of an atomic, or the cause of a response that failed; `scope`, `unit`, `thr`, `gang` and `node` are
what the home's check needs of a synchronisation access (scope 0: none) and of its issuer, the gang token counted from 1 (R201).
`token` names the access that a response answers; a response's `mask` holds the flags of an atomic, and its `tag` the sequence tag
that a store or atomic left (R190). `full` and `scales` stand in a store of a copy engine to a scratchpad: its granules become full,
and these bytes of the sidecar are written (R138, R135); `well` is the address of a well there and the bytes that count at it in the
same access (R175). -/
structure Flit where
  src : Nat
  dst : Nat
  part : Nat
  kind : FlitKind
  counter : Nat
  auth : Bool
  key : BitVec 512
  addr : Nat
  size : Nat
  atomic : Nat
  data : List (BitVec 8)
  mask : List Nat
  scope : Nat
  unit : Nat
  thr : Nat
  gang : Nat
  node : Nat
  token : Nat
  refused : Bool
  poison : Bool
  tag : Option (BitVec 32)
  full : Bool
  scales : List (Nat × BitVec 8)
  well : Option (Nat × Nat)
  deriving DecidableEq, Repr, Inhabited

/-- A key delivery inside an SPDM session (R395): target slot or link key, partition, the key, the policy digest it carries, and
whether decapsulation and unwrap succeed. -/
structure KeyMsg where
  slot : Nat
  part : Nat
  link : Bool
  key : BitVec 512
  policy : BitVec 512
  unwraps : Bool
  deriving DecidableEq, Repr

/-- What Rhoton reads of an island's temperature in °C and of the module's power in watts (R26, R396). -/
structure Reading where
  temp : Nat
  watts : Nat
  deriving DecidableEq, Repr

/-- A clock in MHz and a voltage in millivolts that Rhoton sets (R396). -/
structure ClockSetting where
  mhz : Nat
  millivolts : Nat
  deriving DecidableEq, Repr

/-- A store in which a bit can flip (R468). -/
inductive SoftTarget where
  | sliceClean (line : Nat)
  | sliceDirty (line : Nat)
  | hbm (line : Nat)
  | granule (core : Nat) (g : Nat)
  deriving DecidableEq, Repr

/-- What fails its self-check: a slice or a channel (R470), or a physical unit of a sequencer, by class code and number
(R448). -/
inductive LostUnit where
  | slice (n : Fin 64)
  | channel (ch : Fin 256)
  | part (u : Fin 224) (cls : Fin 8) (k : Fin 2) (stage : Fin 4)
  deriving DecidableEq, Repr

/-! ### The instructions and steps -/

/-- Every row of the opcode table: 187 slot instructions and 71 device steps. -/
inductive Instr where
  | add (o : Rrr)
  | sub (o : Rrr)
  | mul (o : Rrr)
  | mulh (o : Rrr)
  | mulhu (o : Rrr)
  | div (o : Rrr)
  | divu (o : Rrr)
  | rem (o : Rrr)
  | remu (o : Rrr)
  | and (o : Rrr)
  | or (o : Rrr)
  | xor (o : Rrr)
  | andn (o : Rrr)
  | shl (o : Rrr)
  | shr (o : Rrr)
  | sra (o : Rrr)
  | rol (o : Rrr)
  | min (o : Rrr)
  | max (o : Rrr)
  | minu (o : Rrr)
  | maxu (o : Rrr)
  | cmp (o : RrrCond)
  | sel (o : RrrPred)
  | plog (o : PredOps)
  | clz (o : Rr)
  | ctz (o : Rr)
  | popc (o : Rr)
  | addi (o : Ri) (xs : List XPay)
  | cmpi (o : RiCond) (xs : List XPay)
  | li (o : Imm15) (xs : List XPay)
  | fadd (o : RrrRound)
  | fsub (o : RrrRound)
  | fmul (o : RrrRound)
  | fma (o : RrrRound)
  | fmin (o : RrrPlain)
  | fmax (o : RrrPlain)
  | fcmp (o : RrrCond)
  | fcvt (o : RrRound) (xs : List XPay)
  | ld (o : LoadOps) (xs : List XPay)
  | st (o : StoreOps) (xs : List XPay)
  | lda (o : AcqOps) (xs : List XPay)
  | str (o : RelOps) (xs : List XPay)
  | lde (o : LoadOps) (xs : List XPay)
  | ldeC (o : LoadOps) (xs : List XPay)
  | stf (o : StoreOps) (xs : List XPay)
  | grset (o : TwoSrc)
  | grclr (o : TwoSrc)
  | pref (o : PrefOps) (xs : List XPay)
  | fence (o : ScopeOps)
  | tlook (o : DstSrc)
  | tfill (o : TwoSrc)
  | tevict (o : OneSrc)
  | mfs (o : SpecGet)
  | mts (o : SpecPut)
  | amoAdd (o : AmoOps)
  | amoAnd (o : AmoOps)
  | amoOr (o : AmoOps)
  | amoXor (o : AmoOps)
  | amoMin (o : AmoOps)
  | amoMax (o : AmoOps)
  | amoMinu (o : AmoOps)
  | amoMaxu (o : AmoOps)
  | amoSwp (o : AmoOps)
  | amoCas (o : AmoOps)
  | amoFadd (o : AmoOps)
  | amoFmax (o : AmoOps)
  | amoAddD (o : AmoOps)
  | amoAndD (o : AmoOps)
  | amoOrD (o : AmoOps)
  | amoXorD (o : AmoOps)
  | amoMinD (o : AmoOps)
  | amoMaxD (o : AmoOps)
  | amoMinuD (o : AmoOps)
  | amoMaxuD (o : AmoOps)
  | amoSwpD (o : AmoOps)
  | amoCasD (o : AmoOps)
  | br (o : Jump) (xs : List XPay)
  | bc (o : BranchOps) (xs : List XPay)
  | bcall (o : Jump) (xs : List XPay)
  | ret (o : RetOps)
  | loop (o : LoopReg)
  | loopImm (o : LoopImm) (xs : List XPay)
  | exit
  | trig
  | yield
  | trap (o : Code8)
  | eret
  | nop
  | sleep (o : Count16)
  | cpy (o : CpyOps)
  | cpyx (o : CpyxOps)
  | waitid (o : WaitOps)
  | winit (o : RrrPred)
  | warr (o : WellTwo)
  | wdrop (o : WellOne)
  | wwait (o : WellTwo)
  | wtest (o : WellTest)
  | qpost (o : RrrPlain)
  | bopen (o : BulkOps)
  | bclose (o : BulkOps)
  | elw (o : ElwOps)
  | eln (o : ElnOps)
  | ewe (o : EweOps)
  | ews (o : EwsOps)
  | edrain (o : Mask4)
  | mov (o : WUnaryMod) (xs : List XPay)
  | movh (o : WUnaryMod) (xs : List XPay)
  | lds (o : WLds) (xs : List XPay)
  | sts (o : WSts) (xs : List XPay)
  | imm (o : WImm) (xs : List XPay)
  | rowcol (o : WDst) (xs : List XPay)
  | perm (o : WBinMod) (xs : List XPay)
  | pack (o : WBinMod) (xs : List XPay)
  | unpk (o : WUnaryMod) (xs : List XPay)
  | cvt (o : WCvt) (xs : List XPay)
  | qlog (o : WQlog) (xs : List XPay)
  | qset (o : WQset) (xs : List XPay)
  | cellFadd (o : WBin) (xs : List XPay)
  | cellFsub (o : WBin) (xs : List XPay)
  | cellFmul (o : WBin) (xs : List XPay)
  | cellFma (o : WBin) (xs : List XPay)
  | cellFmin (o : WBin) (xs : List XPay)
  | cellFmax (o : WBin) (xs : List XPay)
  | fsgn (o : WBinMod) (xs : List XPay)
  | cellFcmp (o : WBinMod) (xs : List XPay)
  | fsel (o : WBinMod) (xs : List XPay)
  | frcp (o : WUnary) (xs : List XPay)
  | frsq (o : WUnary) (xs : List XPay)
  | fsqrt (o : WUnary) (xs : List XPay)
  | fdiv (o : WBin) (xs : List XPay)
  | fexp2 (o : WUnary) (xs : List XPay)
  | flog2 (o : WUnary) (xs : List XPay)
  | fsum (o : WUnaryMod) (xs : List XPay)
  | iadd (o : WBinMod) (xs : List XPay)
  | isub (o : WBinMod) (xs : List XPay)
  | imul (o : WBinMod) (xs : List XPay)
  | iand (o : WBin) (xs : List XPay)
  | ior (o : WBin) (xs : List XPay)
  | ixor (o : WBin) (xs : List XPay)
  | ishl (o : WBin) (xs : List XPay)
  | ishr (o : WBin) (xs : List XPay)
  | isra (o : WBin) (xs : List XPay)
  | imin (o : WBinMod) (xs : List XPay)
  | imax (o : WBinMod) (xs : List XPay)
  | icmp (o : WBinMod) (xs : List XPay)
  | scl (o : WScl)
  | mac (o : WMac) (xs : List XPay)
  | macs (o : WMacH) (xs : List XPay)
  | macv (o : WMacH) (xs : List XPay)
  | vbeg (o : WVbeg) (xs : List XPay)
  | vthr (o : WVthr)
  | accz (o : WAccz)
  | accrd (o : WAccrd) (xs : List XPay)
  | accwr (o : WAccwr) (xs : List XPay)
  | amax (o : WAmax) (xs : List XPay)
  | vtest (o : WUnaryMod) (xs : List XPay)
  | cellVsel (o : WBinMod) (xs : List XPay)
  | lup (o : Tile1)
  | chol (o : Tile1)
  | qrh (o : Tile2)
  | trsm (o : TileTri)
  | seli (o : SelOps) (xs : List XPay)
  | selx (o : SelOps)
  | wflg (o : FlagOps)
  | wdrain
  | pvst (o : AddrSrc)
  | vld (o : VTriMod) (xs : List XPay)
  | vst (o : VTriMod) (xs : List XPay)
  | vgth (o : VTriMod) (xs : List XPay)
  | vsct (o : VTri) (xs : List XPay)
  | tstr (o : VTstr) (xs : List XPay)
  | vadd (o : VTriMod) (xs : List XPay)
  | vsub (o : VTriMod) (xs : List XPay)
  | vmul (o : VTriMod) (xs : List XPay)
  | vfma (o : VTriMod) (xs : List XPay)
  | vmin (o : VTriMod) (xs : List XPay)
  | vmax (o : VTriMod) (xs : List XPay)
  | vcmp (o : VTriMod) (xs : List XPay)
  | vsel (o : VTri) (xs : List XPay)
  | vcvt (o : VUnary) (xs : List XPay)
  | vred (o : VTriMod) (xs : List XPay)
  | viota (o : VTri) (xs : List XPay)
  | vmov (o : VTriMod) (xs : List XPay)
  | vdedup (o : VTri) (xs : List XPay)
  | vpool (o : VTriMod) (xs : List XPay)
  | hgld (o : VTri)
  | hgsc (o : VTri)
  | queueDescriptorWrite (k : QueueKind) (n : Fin 256) (p : Fin 8) (v : BitVec 128)
  | routeTableWrite (p : Fin 8) (m : Fin 768) (v : BitVec 16)
  | registerWrite (off : BitVec 32) (v : Word)
  | hostWindowAccess (o : HostAddr) (a : HostOp)
  | hostAtomicop (o : HostAddr) (k : HostAtomic) (wide : Bool) (v : Word) (cmp : Word)
  | launchPosted (q : Fin 64)
  | dependencyWrite (q : Fin 64)
  | dispatch (p : Fin 8)
  | trigger (u : Fin 224) (t : Fin 4)
  | threadEnd (u : Fin 224) (t : Fin 4)
  | completionRecord (l : Nat)
  | append (u : Fin 224) (t : Fin 4)
  | copyStart (c : Fin 256)
  | copyUnit (c : Fin 256) (i : Nat)
  | copyLanding (c : Fin 256) (i : Nat)
  | copyComplete (c : Fin 256) (i : Nat)
  | taskStart (q : Fin 32)
  | wellOperation (i : Nat)
  | calendarSlot (ch : Fin 256) (slot : Fin 320)
  | readLanding (i : Nat)
  | storeAck (i : Nat)
  | bankAccess (c : Fin 192)
  | ldeRetry (c : Fin 192)
  | pageWalk (u : Fin 240) (va : Word)
  | blotterSwap (s : Fin 64)
  | layoutTakesEffect (p : Fin 8)
  | bulkReservation (ch : Fin 256)
  | openBankRefresh (ch : Fin 256)
  | scrub (line : Nat)
  | phyRecalibration (ch : Fin 256) (ok : Bool)
  | nibDeparture (c : Fin 192)
  | cellExecute (c : Fin 192)
  | holdDrop (c : Fin 192)
  | holdLimit (c : Fin 192)
  | aggregateValid (c : Fin 192)
  | headerRead (c : Fin 192) (e : EdgeId)
  | streamActivate (c : Fin 192) (e : EdgeId)
  | writerWrite (c : Fin 192) (e : EdgeId)
  | amaxSend (c : Fin 192) (e : EdgeId)
  | strokeStep (c : Fin 192)
  | sleepExpiry (u : Fin 224) (t : Fin 4)
  | faultQueueWrite (p : Fin 8)
  | launchEnd (p : Fin 8)
  | actWrite (p : Fin 8) (i : Fin 1024)
  | resumeEntry (p : Fin 8)
  | contextSave (c : Fin 192)
  | flitReceive (port : Fin 16) (f : Flit)
  | portDown (port : Fin 16)
  | responseTimeout (i : Nat)
  | rhotonSample (i : Fin 64) (supplyLow : Bool) (r : Reading)
  | clockChange (i : Fin 64) (c : ClockSetting)
  | keyDelivery (k : KeyMsg)
  | measurementRequest (i : Nat)
  | replayTimeout (p : Fin 8)
  | islandRestart (i : Fin 64)
  | phyReset (port : Fin 16)
  | selfCheckFailure (u : LostUnit)
  | softError (k : SoftTarget) (double : Bool)
  | moduleReset
  | pcreate
  | pdestroy
  | setcal
  | setres
  | shoot
  | switch
  | resume
  | repair
  | keydrop
  | record
  | replay
  | update
  deriving DecidableEq, Repr

/-- The device steps: the rows of the table that no program word encodes. -/
def Instr.isStep : Instr → Bool
  | .moduleReset => true
  | .pcreate => true
  | .pdestroy => true
  | .setcal => true
  | .setres => true
  | .shoot => true
  | .switch => true
  | .resume => true
  | .repair => true
  | .keydrop => true
  | .record => true
  | .replay => true
  | .update => true
  | .queueDescriptorWrite _ _ _ _ => true
  | .routeTableWrite _ _ _ => true
  | .registerWrite _ _ => true
  | .hostWindowAccess _ _ => true
  | .hostAtomicop _ _ _ _ _ => true
  | .launchPosted _ => true
  | .dependencyWrite _ => true
  | .dispatch _ => true
  | .trigger _ _ => true
  | .threadEnd _ _ => true
  | .completionRecord _ => true
  | .append _ _ => true
  | .copyStart _ => true
  | .copyUnit _ _ => true
  | .copyLanding _ _ => true
  | .copyComplete _ _ => true
  | .taskStart _ => true
  | .wellOperation _ => true
  | .calendarSlot _ _ => true
  | .readLanding _ => true
  | .storeAck _ => true
  | .bankAccess _ => true
  | .ldeRetry _ => true
  | .pageWalk _ _ => true
  | .blotterSwap _ => true
  | .layoutTakesEffect _ => true
  | .bulkReservation _ => true
  | .openBankRefresh _ => true
  | .scrub _ => true
  | .phyRecalibration _ _ => true
  | .nibDeparture _ => true
  | .cellExecute _ => true
  | .holdDrop _ => true
  | .holdLimit _ => true
  | .aggregateValid _ => true
  | .headerRead _ _ => true
  | .streamActivate _ _ => true
  | .writerWrite _ _ => true
  | .amaxSend _ _ => true
  | .strokeStep _ => true
  | .sleepExpiry _ _ => true
  | .faultQueueWrite _ => true
  | .launchEnd _ => true
  | .actWrite _ _ => true
  | .resumeEntry _ => true
  | .contextSave _ => true
  | .flitReceive _ _ => true
  | .portDown _ => true
  | .responseTimeout _ => true
  | .rhotonSample _ _ _ => true
  | .clockChange _ _ => true
  | .keyDelivery _ => true
  | .measurementRequest _ => true
  | .replayTimeout _ => true
  | .islandRestart _ => true
  | .phyReset _ => true
  | .selfCheckFailure _ => true
  | .softError _ _ => true
  | _ => false

end Sys2Proof
end

