-- ==== Sys2Proof/WellFormed.lean ====
section
/-! DEFINITION. Which field values of a slot instruction are reserved encodings (R6, R308, R344, R350, R429). The decoder
places the fields; this file says which of their values are not an instruction, and of which kind of R429. A field that a
rule calls "reserved as 0" gives kind 4 when it is not 0 (as R270 says of QPOST's MOD), a reserved value gives kind 3. -/

namespace Sys2Proof

/-! ### The X slot of a W or V slot (R215) -/

/-- The fields of a W or V slot's X slot; without one every field takes its default 0 (R215). -/
structure XFields where
  rnd : BitVec 3
  fmtA : BitVec 4
  fmtB : BitVec 4
  row : BitVec 5
  qi : BitVec 2
  spec : BitVec 9
  deriving DecidableEq, Repr

/-- The fields of one X payload (R215). -/
def XFields.ofPay (x : XPay) : XFields where
  rnd := x.extractLsb' 24 3
  fmtA := x.extractLsb' 20 4
  fmtB := x.extractLsb' 16 4
  row := x.extractLsb' 11 5
  qi := x.extractLsb' 9 2
  spec := x.extractLsb' 0 9

/-- The fields a W or V slot runs with (R215). -/
def XFields.of (xs : List XPay) : XFields :=
  match xs with
  | [] => XFields.ofPay 0
  | x :: _ => XFields.ofPay x

/-- CROW, SPEC[8:6] (R279). -/
def XFields.crow (x : XFields) : BitVec 3 := x.spec.extractLsb' 6 3

/-! ### Format codes (R28) -/

def fmtRAW : BitVec 4 := 0x0
def fmtFP32 : BitVec 4 := 0x1
def fmtBF16 : BitVec 4 := 0x2
def fmtFP16 : BitVec 4 := 0x3
def fmtF8E4 : BitVec 4 := 0x4
def fmtF8E5 : BitVec 4 := 0x5
def fmtMXI8 : BitVec 4 := 0x6
def fmtMXI6 : BitVec 4 := 0x7
def fmtMXI4 : BitVec 4 := 0x8
def fmtINT8 : BitVec 4 := 0x9
def fmtINT32 : BitVec 4 := 0xA
def fmtNM : BitVec 4 := 0xB

/-- FP32, BF16, FP16, or the default code 0 (R291). -/
def isFloatSel (f : BitVec 4) : Bool := f ≤ 3

/-- The seven formats that CVT, FCVT and VCVT name (R247, R299, R357). -/
def isCvtFormat (f : BitVec 4) : Bool :=
  f == fmtFP32 || f == fmtBF16 || f == fmtFP16 || f == fmtF8E4 || f == fmtF8E5 || f == fmtINT8 || f == fmtINT32

/-- Lanes of a 256-bit operand in a format (R278). -/
def lanesOf (f : BitVec 4) : Nat :=
  if f == fmtFP32 || f == fmtINT32 || f == 0 then 8 else if f == fmtBF16 || f == fmtFP16 then 16 else 32

/-- MXI8, MXI6 or MXI4 (R32). -/
def isMx (f : BitVec 4) : Bool := f == fmtMXI8 || f == fmtMXI6 || f == fmtMXI4

/-- Format of operand A of a MAC: 0 selects BF16 (R320). -/
def macFmtA (x : XFields) : BitVec 4 := if x.fmtA == 0 then fmtBF16 else x.fmtA

/-- Format of operand B of a MAC: 0 selects the format of A (R320). -/
def macFmtB (x : XFields) : BitVec 4 := if x.fmtB == 0 then macFmtA x else x.fmtB

/-- F8E4 or F8E5. -/
def isF8 (f : BitVec 4) : Bool := f == fmtF8E4 || f == fmtF8E5

/-- The accepted pairs of R320. -/
def isMacPair (a b : BitVec 4) : Bool :=
  (isMx a && isMx b) || (a == fmtINT8 && b == fmtINT8) || (isF8 a && isF8 b) ||
  (a == fmtBF16 && b == fmtBF16) || (a == fmtFP16 && b == fmtFP16)

/-- The pair belongs to the integer class of R320. -/
def isIntPair (a b : BitVec 4) : Bool := (isMx a && isMx b) || (a == fmtINT8 && b == fmtINT8)

/-! ### Cell operand codes (R216, R279) -/

def isAccCode (c : BitVec 5) : Bool := 16 ≤ c && c ≤ 19
def isFragCode (c : BitVec 5) : Bool := c ≤ 15
def isHandCode (c : BitVec 5) : Bool := c == 20 || c == 21
/-- f0..f15, c0..c3, h0 and h1. -/
def isWritable (c : BitVec 5) : Bool := c ≤ 21
/-- f0..f15, h0 and h1. -/
def isWritableNoAcc (c : BitVec 5) : Bool := isFragCode c || isHandCode c

/-! ### The reserved kinds -/

/-- The kind of the first failing test, in ascending kind (R429). -/
def firstKind : List (Bool × Nat) → Option Nat
  | [] => none
  | (true, k) :: _ => some k
  | (false, _) :: r => firstKind r

/-- Rounding codes a cell refuses (R41). -/
def badCellRnd (x : XFields) : Bool := 5 ≤ x.rnd
/-- Rounding codes every other unit refuses (R41). -/
def badRnd (r : BitVec 3) : Bool := 4 ≤ r

/-- A move or integer-free W slot without formats of its own: FMTA 0, FMTB 0, ROW and QI as allowed (R215, R280). -/
def moveKind (x : XFields) (spec : Bool) (ops : Bool) (rowOk : Bool) (zero : Bool) : Option Nat :=
  firstKind [(ops || badCellRnd x || x.fmtA != 0 || spec, 3),
    (x.fmtB != 0 || (!rowOk && x.row != 0) || x.qi != 0 || zero, 4)]

/-- SPEC[5:0], an instruction's own use of SPEC; SPEC[8:6] is CROW (R279). -/
def spec6 (x : XFields) : BitVec 6 := x.spec.extractLsb' 0 6

/-- The floating instructions of R291 to R296: FMTA FP32, BF16 or FP16; accumulators only in FP32. -/
def floatKind (x : XFields) (md : Bool) (dst : BitVec 5) (srcs : List (BitVec 5)) (spec : Bool) (qOk : Bool) (zero : Bool) :
    Option Nat :=
  let accs := isAccCode dst || srcs.any isAccCode
  firstKind [(md || badCellRnd x || !isFloatSel x.fmtA || !isWritable dst || (accs && 2 ≤ x.fmtA) || spec, 3),
    (x.fmtB != 0 || x.row != 0 || (!qOk && x.qi != 0) || zero, 4)]

/-- The integer instructions of R297 and R298. -/
def intKind (x : XFields) (md : Bool) (dst : BitVec 5) (srcs : List (BitVec 5)) (spec : Bool) (qOk : Bool) : Option Nat :=
  firstKind [(md || badCellRnd x || !(x.fmtA == 0 || x.fmtA == fmtINT32 || x.fmtA == fmtINT8) || !isWritableNoAcc dst ||
      srcs.any isAccCode || spec, 3),
    (x.fmtB != 0 || x.row != 0 || (!qOk && x.qi != 0), 4)]

/-- Formats of V arithmetic: FP32 by default, BF16, FP16 or INT32 (R355, R358, R363). -/
def isVArith (f : BitVec 4) : Bool := isFloatSel f || f == fmtINT32

/-- The common part of a V slot's X slot (R345). -/
def vKind (x : XFields) (bad : Bool) (fmtBOk : Bool) (zero : Bool) : Option Nat :=
  firstKind [(badRnd x.rnd || bad, 3), (x.row != 0 || x.qi != 0 || (!fmtBOk && x.fmtB != 0) || zero, 4)]

/-- Formats of lane memory accesses (R351). -/
def isLaneFormat (f : BitVec 4) : Bool := f == 0 || isCvtFormat f

/-- FCVT's X slot: FMTS in [26:23], FMTD in [22:19] (R215). -/
def fcvtSrc (x : XPay) : BitVec 4 := x.extractLsb' 23 4
def fcvtDst (x : XPay) : BitVec 4 := x.extractLsb' 19 4

/-- The 64-bit value of SELI.V: {X2, X1, srcA, srcB} (R303). -/
def seliValue (o : SelOps) (xs : List XPay) : Word :=
  match xs with
  | [] => (o.srcA ++ o.srcB).setWidth 64
  | [x1] => (x1 ++ o.srcA ++ o.srcB).setWidth 64
  | x1 :: x2 :: _ => (x2 ++ x1 ++ o.srcA ++ o.srcB).setWidth 64

/-- Two-operand A instructions: MOD 0 or 1 (R238). -/
def rrrKind (o : Rrr) : Option Nat := firstKind [(1 < o.md, 3)]
/-- F arithmetic: the rounding code (R41, R223). -/
def frrKind (o : RrrRound) : Option Nat := firstKind [(badRnd o.rnd, 3)]
/-- CLZ, CTZ and POPC: MOD 0 or 1 (R242). -/
def rrKind (o : Rr) : Option Nat := firstKind [(1 < o.md, 3)]

/-- PERM and PACK: MOD selects a lane width, 3 is reserved (R289, R290). -/
def lanePairKind (o : WBinMod) (x : XFields) : Option Nat :=
  moveKind x (spec6 x != 0) (o.md == 3 || !isWritableNoAcc o.dst || isAccCode o.srcA || isAccCode o.srcB) false false

/-- The reserved kind of R429 of a slot instruction's field values, if any; device steps have none. An X slot beyond the form's
limit is the offending slot itself, and is judged by maxX. QSET accepts in FMTA the default 0 and the seven formats of CVT
(DESIGN CHOICE, log 131). -/
def Instr.reservedKind : Instr → Option Nat
  | .add o | .sub o | .mul o | .mulh o | .mulhu o | .div o | .divu o | .rem o | .remu o | .and o | .or o | .xor o
  | .andn o | .shl o | .shr o | .sra o | .rol o | .min o | .max o | .minu o | .maxu o => rrrKind o
  | .cmp o => firstKind [(o.cond == 7, 3)]
  | .clz o | .ctz o | .popc o => rrKind o
  | .cmpi o _ => firstKind [(o.cond == 7, 3)]
  | .fadd o | .fsub o | .fmul o | .fma o => frrKind o
  | .fcmp o => firstKind [(4 ≤ o.cond, 3)]
  | .fcvt o xs =>
    match xs with
    | x :: _ => firstKind [(badRnd o.rnd || !isCvtFormat (fcvtSrc x) || !isCvtFormat (fcvtDst x), 3),
        (x.extractLsb' 0 19 != 0, 4)]
    | [] => firstKind [(badRnd o.rnd, 3), (true, 5)]
  | .waitid o => firstKind [(16 ≤ o.chan, 3)]
  | .bopen o | .bclose o => firstKind [(8 ≤ o.run, 3)]
  | .elw o => firstKind [(2 ≤ o.geom || o.prune == 3, 3)]
  | .eln o => firstKind [(2 ≤ o.geom, 3)]
  | .ewe o => firstKind [(2 ≤ o.geom, 3)]
  | .ews o => firstKind [(2 ≤ o.geom, 3), (!o.stash && (o.hdr2 != 0 || o.th2), 4)]
  | .mov o xs =>
    let x := XFields.of xs
    moveKind x (spec6 x != 0) (o.md == 3 || !isWritable o.dst) false
      ((o.md == 1 && o.srcA != 0) || (o.md == 2 && o.dst != 0))
  | .movh o xs =>
    let x := XFields.of xs
    moveKind x (spec6 x != 0)
      (2 ≤ o.md || !isWritable o.dst || (o.md == 0 && o.dst == 20) || (o.md == 1 && o.dst == 21)) false false
  | .lds o xs =>
    let x := XFields.of xs
    moveKind x (spec6 x != 0) (2 ≤ o.md || !isWritableNoAcc o.dst || (o.md == 1 && isAccCode o.srcB)) true
      (o.md == 0 && o.srcB != 0)
  | .sts o xs =>
    let x := XFields.of xs
    moveKind x (spec6 x != 0) (2 ≤ o.md || isAccCode o.srcA || (o.md == 1 && isAccCode o.srcB)) true
      (o.md == 0 && o.srcB != 0)
  | .imm o xs => firstKind [(!isWritableNoAcc o.dst, 3), (o.md == 3 && xs.length < 2, 5)]
  | .rowcol o xs =>
    let x := XFields.of xs
    moveKind x (spec6 x != 0) (!isWritableNoAcc o.dst) false false
  | .perm o xs | .pack o xs => lanePairKind o (XFields.of xs)
  | .unpk o xs =>
    let x := XFields.of xs
    moveKind x (4 ≤ spec6 x) (o.md == 3 || !isWritableNoAcc o.dst || isAccCode o.srcA) false false
  | .cvt o xs =>
    match xs with
    | [] => firstKind [(true, 5)]
    | _ =>
      let x := XFields.of xs
      let ls := lanesOf x.fmtA
      let ld := lanesOf x.fmtB
      firstKind [(badCellRnd x || !isCvtFormat x.fmtA || !isCvtFormat x.fmtB || !isWritableNoAcc o.dst || isAccCode o.srcA ||
          spec6 x != 0 || (if ld ≤ ls then ls / ld ≤ o.part.toNat else ld / ls ≤ o.part.toNat), 3),
        (x.row != 0 || x.qi != 0, 4)]
  | .qlog _ xs =>
    let x := XFields.of xs
    moveKind x (spec6 x != 0) false false false
  | .qset o xs =>
    let x := XFields.of xs
    firstKind [(badCellRnd x || !(x.fmtA == 0 || isCvtFormat x.fmtA) || (o.md ≤ 1 && isAccCode o.srcA) || spec6 x != 0, 3),
      (x.fmtB != 0 || x.row != 0 || (2 ≤ o.md && o.srcA != 0), 4)]
  | .cellFadd o xs | .cellFsub o xs | .cellFmul o xs | .cellFma o xs | .cellFmin o xs | .cellFmax o xs | .fdiv o xs =>
    let x := XFields.of xs
    floatKind x false o.dst [o.srcA, o.srcB] (spec6 x != 0) false false
  | .frcp o xs | .frsq o xs | .fsqrt o xs | .fexp2 o xs | .flog2 o xs =>
    let x := XFields.of xs
    floatKind x false o.dst [o.srcA] (spec6 x != 0) false false
  | .fsgn o xs =>
    let x := XFields.of xs
    floatKind x false o.dst [o.srcA, o.srcB] (spec6 x != 0) false (o.md == 3 && o.srcB != 0)
  | .cellFcmp o xs =>
    let x := XFields.of xs
    floatKind x false o.dst [o.srcA, o.srcB] (4 ≤ spec6 x) true false
  | .fsel o xs =>
    let x := XFields.of xs
    floatKind x (2 ≤ o.md) o.dst [o.srcA, o.srcB] (spec6 x != 0) true false
  | .fsum o xs =>
    let x := XFields.of xs
    floatKind x (2 ≤ o.md) o.dst [o.srcA] (spec6 x != 0) false false
  | .iadd o xs | .isub o xs | .imul o xs | .imin o xs | .imax o xs =>
    let x := XFields.of xs
    intKind x (2 ≤ o.md) o.dst [o.srcA, o.srcB] (spec6 x != 0) false
  | .iand o xs | .ior o xs | .ixor o xs | .ishl o xs | .ishr o xs | .isra o xs =>
    let x := XFields.of xs
    intKind x false o.dst [o.srcA, o.srcB] (spec6 x != 0) false
  | .icmp o xs =>
    let x := XFields.of xs
    intKind x false o.dst [o.srcA, o.srcB] (4 ≤ spec6 x) true
  | .mac o xs =>
    let x := XFields.of xs
    let h := macFmtA x == fmtBF16 || macFmtA x == fmtFP16
    firstKind [(badCellRnd x || !isMacPair (macFmtA x) (macFmtB x) || isAccCode o.srcA || isAccCode o.srcB, 3),
      (x.row != 0 || x.qi != 0 || x.spec != 0 || (o.hi && !h), 4)]
  | .macs o xs =>
    let x := XFields.of xs
    let ok := (x.fmtA == fmtINT8 || x.fmtA == fmtMXI8 || isF8 x.fmtA) && (x.fmtB == 0 || x.fmtB == x.fmtA)
    firstKind [(badCellRnd x || !ok || isAccCode o.srcA || !isFragCode o.srcB || o.srcB.getLsbD 0 || x.spec.getLsbD 4 ||
        x.crow != 0, 3),
      (x.row != 0 || x.qi != 0, 4)]
  | .macv o xs =>
    let x := XFields.of xs
    firstKind [(badCellRnd x || !(isMx (macFmtA x) && isMx (macFmtB x)) || isAccCode o.srcA || isAccCode o.srcB, 3),
      (x.row != 0 || x.spec != 0, 4)]
  | .vbeg o xs =>
    let x := XFields.of xs
    firstKind [(o.md == 3, 3), (x.rnd != 0 || x.fmtA != 0 || x.fmtB != 0 || x.row != 0 || x.spec != 0, 4)]
  | .accrd o xs =>
    let x := XFields.of xs
    let f := x.fmtA
    let ok := f == 0 || isCvtFormat f
    firstKind [(badCellRnd x || !ok || !isWritableNoAcc o.dst || (o.fwd && !isHandCode o.dst) || spec6 x != 0 ||
        (lanesOf f == 16 && x.crow.getLsbD 2) || (lanesOf f == 32 && 2 ≤ x.crow), 3),
      (x.fmtB != 0 || x.row != 0, 4)]
  | .accwr o xs =>
    let x := XFields.of xs
    firstKind [(badCellRnd x || isAccCode o.srcA || spec6 x != 0 || x.fmtA != 0, 3), (x.fmtB != 0 || x.row != 0 || x.qi != 0, 4)]
  | .amax o xs =>
    let x := XFields.of xs
    firstKind [(badCellRnd x || !isWritableNoAcc o.dst || x.spec != 0 || x.fmtA != 0, 3),
      (x.fmtB != 0 || x.row != 0 || x.qi != 0, 4)]
  | .vtest o xs =>
    let x := XFields.of xs
    floatKind x false o.dst [o.srcA] (4 ≤ spec6 x) true false
  | .cellVsel o xs =>
    let x := XFields.of xs
    floatKind x (o.md == 3) o.dst [o.srcA, o.srcB] (spec6 x != 0) false false
  | .qrh o => firstKind [(!isFragCode o.tau || o.tau.extractLsb' 1 3 == o.tile, 3)]
  | .trsm o => firstKind [(o.tri == o.tile, 3)]
  | .seli o xs =>
    firstKind [(o.md == 3 || (o.md == 2 && 0x1_0000_0000_0000 ≤ seliValue o xs), 3),
      (o.md == 0 && (o.srcA != 0 || o.srcB != 0), 4), (o.md == 2 && xs.length == 0, 5)]
  | .selx o => firstKind [(o.md == 0 && o.srcB != 0, 4)]
  | .vld o xs | .vst o xs =>
    let x := XFields.of xs
    vKind x (2 ≤ o.md || !isLaneFormat x.fmtA || x.spec != 0) false (o.md == 0 && o.srcB != 0)
  | .vgth o xs =>
    let x := XFields.of xs
    vKind x (2 ≤ o.md || !isLaneFormat x.fmtA || (o.md == 0 && 16 ≤ x.spec)) false false
  | .vsct _ xs =>
    let x := XFields.of xs
    vKind x (!isLaneFormat x.fmtA || 16 ≤ x.spec) false false
  | .tstr o xs =>
    let x := XFields.of xs
    vKind x (!isVArith x.fmtA || x.spec != 0 || 32 < o.dst.toNat + 2 ^ o.count.toNat) false false
  | .vadd o xs | .vsub o xs | .vmul o xs | .vmin o xs | .vmax o xs =>
    let x := XFields.of xs
    vKind x (!isVArith x.fmtA || x.spec != 0 || (x.fmtA == fmtINT32 && 2 ≤ o.md)) false (x.fmtA != fmtINT32 && o.md != 0)
  | .vfma o xs =>
    let x := XFields.of xs
    vKind x (!isVArith x.fmtA || x.spec != 0 || (x.fmtA == fmtINT32 && o.md != 0)) false (x.fmtA != fmtINT32 && o.md != 0)
  | .vcmp o xs =>
    let x := XFields.of xs
    vKind x (!isVArith x.fmtA || x.spec != 0) false (8 ≤ o.dst)
  | .vsel _ xs | .viota _ xs =>
    let x := XFields.of xs
    vKind x (x.fmtA != 0 || x.spec != 0) false false
  | .vcvt _ xs =>
    match xs with
    | [] => firstKind [(true, 5)]
    | _ =>
      let x := XFields.of xs
      vKind x (!isCvtFormat x.fmtA || !isCvtFormat x.fmtB || x.spec != 0) true false
  | .vred o xs =>
    let x := XFields.of xs
    vKind x (o.md == 3 || !isVArith x.fmtA || x.spec != 0) false (o.srcB != 0)
  | .vmov o xs =>
    let x := XFields.of xs
    if o.md == 3 then
      match xs with
      | [] => firstKind [(true, 5)]
      | _ => vKind x (x.fmtA != 0) false (2 ≤ x.spec || o.srcB != 0 || o.mask != 0 ||
          (if x.spec == 0 then 8 ≤ o.dst else 8 ≤ o.srcA))
    else vKind x (x.fmtA != 0 || x.spec != 0) false ((o.md != 2 && o.srcB != 0) || (o.md == 2 && o.mask != 0))
  | .vdedup o xs =>
    let x := XFields.of xs
    vKind x (x.fmtA != 0 || x.spec != 0 || o.dst == 31) false (8 ≤ o.srcB)
  | .vpool _ xs =>
    let x := XFields.of xs
    vKind x (!isVArith x.fmtA || x.spec != 0) false false
  | _ => none

/-- X slots a slot instruction carries. -/
def Instr.xpays : Instr → List XPay
  | .addi _ xs | .cmpi _ xs | .li _ xs | .fcvt _ xs | .ld _ xs | .st _ xs | .lda _ xs | .str _ xs | .lde _ xs | .ldeC _ xs
  | .stf _ xs | .pref _ xs | .br _ xs | .bc _ xs | .bcall _ xs | .loopImm _ xs | .mov _ xs | .movh _ xs | .lds _ xs | .sts _ xs
  | .imm _ xs | .rowcol _ xs | .perm _ xs | .pack _ xs | .unpk _ xs | .cvt _ xs | .qlog _ xs | .qset _ xs | .cellFadd _ xs
  | .cellFsub _ xs | .cellFmul _ xs | .cellFma _ xs | .cellFmin _ xs | .cellFmax _ xs | .fsgn _ xs | .cellFcmp _ xs | .fsel _ xs
  | .frcp _ xs | .frsq _ xs | .fsqrt _ xs | .fdiv _ xs | .fexp2 _ xs | .flog2 _ xs | .fsum _ xs | .iadd _ xs | .isub _ xs
  | .imul _ xs | .iand _ xs | .ior _ xs | .ixor _ xs | .ishl _ xs | .ishr _ xs | .isra _ xs | .imin _ xs | .imax _ xs | .icmp _ xs
  | .mac _ xs | .macs _ xs | .macv _ xs | .vbeg _ xs | .accrd _ xs | .accwr _ xs | .amax _ xs | .vtest _ xs | .cellVsel _ xs
  | .seli _ xs | .vld _ xs | .vst _ xs | .vgth _ xs | .vsct _ xs | .tstr _ xs | .vadd _ xs | .vsub _ xs | .vmul _ xs | .vfma _ xs
  | .vmin _ xs | .vmax _ xs | .vcmp _ xs | .vsel _ xs | .vcvt _ xs | .vred _ xs | .viota _ xs | .vmov _ xs | .vdedup _ xs
  | .vpool _ xs => xs
  | .loop o => o.xs
  | _ => []

/-- How many X slots the instruction's form accepts (R209, R212, R287, R303). -/
def Instr.maxX : Instr → Nat
  | .addi _ _ | .cmpi _ _ | .li _ _ | .imm _ _ => 2
  | .seli o _ => if o.md = 2 then 2 else 0
  | .fcvt _ _ | .ld _ _ | .st _ _ | .lda _ _ | .str _ _ | .lde _ _ | .ldeC _ _
  | .stf _ _ | .pref _ _ | .br _ _ | .bc _ _ | .bcall _ _ | .loop _ | .loopImm _ _ | .mov _ _ | .movh _ _ | .lds _ _ | .sts _ _
  | .rowcol _ _ | .perm _ _ | .pack _ _ | .unpk _ _ | .cvt _ _ | .qlog _ _ | .qset _ _ | .cellFadd _ _
  | .cellFsub _ _ | .cellFmul _ _ | .cellFma _ _ | .cellFmin _ _ | .cellFmax _ _ | .fsgn _ _ | .cellFcmp _ _ | .fsel _ _
  | .frcp _ _ | .frsq _ _ | .fsqrt _ _ | .fdiv _ _ | .fexp2 _ _ | .flog2 _ _ | .fsum _ _ | .iadd _ _ | .isub _ _
  | .imul _ _ | .iand _ _ | .ior _ _ | .ixor _ _ | .ishl _ _ | .ishr _ _ | .isra _ _ | .imin _ _ | .imax _ _ | .icmp _ _
  | .mac _ _ | .macs _ _ | .macv _ _ | .vbeg _ _ | .accrd _ _ | .accwr _ _ | .amax _ _ | .vtest _ _ | .cellVsel _ _
  | .vld _ _ | .vst _ _ | .vgth _ _ | .vsct _ _ | .tstr _ _ | .vadd _ _ | .vsub _ _ | .vmul _ _ | .vfma _ _
  | .vmin _ _ | .vmax _ _ | .vcmp _ _ | .vsel _ _ | .vcvt _ _ | .vred _ _ | .viota _ _ | .vmov _ _ | .vdedup _ _
  | .vpool _ _ => 1
  | _ => 0

/-- The instruction carries no more X slots than its form accepts, and no field value is reserved (R209, R429). -/
def Instr.wf (i : Instr) : Bool := i.xpays.length ≤ i.maxX && i.reservedKind == none

end Sys2Proof
end

