-- ==== Sys2Proof/Machine/Numbers.lean ====
section
/-! DEFINITION. Numbers and arithmetic (R28 to R62): formats, decoding, the one rounding, and the operations on codes. A code
is a Nat below 2^width. Values are exact: a sign, a natural mantissa and a power of two; sticky marks a value strictly
between mant × 2^exp and (mant + 1) × 2^exp. -/

namespace Sys2Proof.Machine

/-! ### Floating formats (R29 to R31) -/

/-- A floating format: width, fraction bits, bias, and whether all-ones exponents are infinities and NaNs. -/
structure FloatFmt where
  width : Nat
  mb : Nat
  bias : Nat
  ieee : Bool
  deriving DecidableEq, Repr

def fp32 : FloatFmt := ⟨32, 23, 127, true⟩
def bf16 : FloatFmt := ⟨16, 7, 127, true⟩
def fp16 : FloatFmt := ⟨16, 10, 15, true⟩
def f8e4 : FloatFmt := ⟨8, 3, 7, false⟩
def f8e5 : FloatFmt := ⟨8, 2, 15, false⟩

/-- The floating format of a format code (R28). -/
def floatFmt (f : BitVec 4) : Option FloatFmt :=
  if f = fmtFP32 then some fp32 else if f = fmtBF16 then some bf16 else if f = fmtFP16 then some fp16
  else if f = fmtF8E4 then some f8e4 else if f = fmtF8E5 then some f8e5 else none

/-- Exponent of the smallest normal. -/
def FloatFmt.emin (F : FloatFmt) : Int := 1 - (F.bias : Int)
/-- The sign bit as a code. -/
def FloatFmt.signBit (F : FloatFmt) : Nat := 2 ^ (F.width - 1)
/-- The exponent field of all ones, in place. -/
def FloatFmt.infCode (F : FloatFmt) : Nat := 2 ^ (F.width - 1) - 2 ^ F.mb
/-- Code of the largest finite value. -/
def FloatFmt.maxCode (F : FloatFmt) : Nat := if F.ieee then F.infCode - 1 else F.signBit - 1
/-- The canonical NaN (R46). -/
def FloatFmt.nan (F : FloatFmt) : Nat := F.infCode + 2 ^ (F.mb - 1)

def FloatFmt.neg (F : FloatFmt) (c : Nat) : Bool := F.signBit ≤ c
def FloatFmt.mag (F : FloatFmt) (c : Nat) : Nat := c % F.signBit
def FloatFmt.isNaN (F : FloatFmt) (c : Nat) : Bool := F.ieee && decide (F.infCode < F.mag c)
def FloatFmt.isInf (F : FloatFmt) (c : Nat) : Bool := F.ieee && F.mag c == F.infCode
def FloatFmt.isSNaN (F : FloatFmt) (c : Nat) : Bool := F.isNaN c && decide (F.mag c < F.nan)
def FloatFmt.isZero (F : FloatFmt) (c : Nat) : Bool := F.mag c == 0
/-- The code with its quiet bit set (R62). -/
def FloatFmt.quiet (F : FloatFmt) (c : Nat) : Nat := if F.isSNaN c then c + 2 ^ (F.mb - 1) else c
def FloatFmt.withSign (F : FloatFmt) (s : Bool) (m : Nat) : Nat := if s then F.signBit + m else m

/-- A verdict word (R39): below 1, above 2. -/
def FloatFmt.verdict (F : FloatFmt) (c : Nat) : Option Nat :=
  if F = fp32 then (if c = 0x7F810000 then some 1 else if c = 0x7F820000 then some 2 else none)
  else if F = bf16 then (if c = 0x7F81 then some 1 else if c = 0x7F82 then some 2 else none)
  else if F = fp16 then (if c = 0x7C01 then some 1 else if c = 0x7C02 then some 2 else none)
  else none

/-- The verdict word of a meaning. -/
def FloatFmt.verdictCode (F : FloatFmt) (k : Nat) : Nat :=
  if F = fp32 then 0x7F800000 + k * 0x10000 else if F = bf16 then 0x7F80 + k else 0x7C00 + k

/-- An exact real: a finite value, zero included, or one known up to sticky. -/
structure Exact where
  neg : Bool
  mant : Nat
  exp : Int
  sticky : Bool
  deriving DecidableEq, Repr

/-- The finite value of a code (R29, R31). -/
def FloatFmt.value (F : FloatFmt) (c : Nat) : Exact :=
  let m := F.mag c
  let e := m / 2 ^ F.mb
  if e = 0 then ⟨F.neg c, m, F.emin - F.mb, false⟩
  else ⟨F.neg c, m % 2 ^ F.mb + 2 ^ F.mb, F.emin - F.mb + ((e : Int) - 1), false⟩

/-! ### Flags (R55) -/

def flagNX : BitVec 8 := 0x01
def flagUF : BitVec 8 := 0x02
def flagOF : BitVec 8 := 0x04
def flagDZ : BitVec 8 := 0x08
def flagNV : BitVec 8 := 0x10
def flagSAT : BitVec 8 := 0x20

/-- A result code and the flags it raises. -/
abbrev Rounded := Nat × BitVec 8

/-! ### Rounding (R41, R42) -/

def rndRNE : Nat := 0
def rndRTZ : Nat := 1
def rndRUP : Nat := 2
def rndRDN : Nat := 3
def rndRSR : Nat := 4

/-- Whether a magnitude of lo + rem / 2^k units, with the lost part not zero, rounds up to lo + 1 (R42). -/
def roundsUp (mode : Nat) (rho : Nat) (neg : Bool) (lo rem k : Nat) (sticky : Bool) : Bool :=
  if mode = rndRTZ then false
  else if mode = rndRUP then !neg
  else if mode = rndRDN then neg
  else if mode = rndRSR then decide (65536 ≤ rem * 65536 / 2 ^ k + rho)
  else if 2 * rem > 2 ^ k || (2 * rem = 2 ^ k && (sticky || lo % 2 = 1)) then true
  else false

/-- A nonnegative magnitude in units of 2^qe: the integer part, the rest out of 2^k, and k. -/
def splitAt (x : Exact) (qe : Int) : Nat × Nat × Nat :=
  if qe ≤ x.exp then (x.mant * 2 ^ (x.exp - qe).toNat, 0, 1)
  else
    let k := (qe - x.exp).toNat
    (x.mant / 2 ^ k, x.mant % 2 ^ k, k)

/-- Overflow of R42: the code for a magnitude past the largest finite value. -/
def overflowCode (F : FloatFmt) (mode : Nat) (neg : Bool) : Nat :=
  if !F.ieee then F.withSign neg F.maxCode
  else
    let toInf := mode = rndRNE || mode = rndRSR || (mode = rndRUP && !neg) || (mode = rndRDN && neg)
    F.withSign neg (if toInf then F.infCode else F.maxCode)

/-- Round(x, F, mode) for an exact value, with its flags (R42, R50, R55). A zero keeps its sign. -/
def roundTo (F : FloatFmt) (mode rho : Nat) (x : Exact) : Rounded :=
  if x.mant = 0 && !x.sticky then (F.withSign x.neg 0, 0)
  else
    let lg : Int := (Nat.log2 x.mant : Int) + x.exp
    let e := max lg F.emin
    let (lo, rem, k) := splitAt x (e - F.mb)
    let inexact := rem != 0 || x.sticky
    let u := if inexact && roundsUp mode rho x.neg lo rem k x.sticky then lo + 1 else lo
    let code := (e - F.emin).toNat * 2 ^ F.mb + u
    if F.maxCode < code then
      (overflowCode F mode x.neg, flagNX ||| (if F.ieee then flagOF else flagSAT))
    else
      (F.withSign x.neg code, if inexact then (if code < 2 ^ F.mb then flagNX ||| flagUF else flagNX) else 0)

/-- RoundInt(x, mode) (R62) as a signed integer, and whether it is inexact. -/
def roundInt (mode rho : Nat) (x : Exact) : Int × Bool :=
  let (lo, rem, k) := splitAt x 0
  let inexact := rem != 0 || x.sticky
  let u : Nat := if inexact && roundsUp mode rho x.neg lo rem k x.sticky then lo + 1 else lo
  (if x.neg then -(u : Int) else (u : Int), inexact)

/-! ### Exact arithmetic -/

/-- Mantissa of a value in units of 2^e, for e at or below its exponent. -/
def Exact.inUnits (x : Exact) (e : Int) : Int :=
  let m : Int := ((x.mant * 2 ^ (x.exp - e).toNat : Nat) : Int)
  if x.neg then -m else m

/-- An integer count of 2^e; a zero takes the given sign. -/
def Exact.ofInt (v : Int) (e : Int) (zeroNeg : Bool) : Exact :=
  ⟨if v = 0 then zeroNeg else decide (v < 0), v.natAbs, e, false⟩

/-- The exact sum; the sign of a zero sum follows R46. -/
def Exact.add (mode : Nat) (x y : Exact) : Exact :=
  let e := min x.exp y.exp
  let zeroNeg := if x.mant = 0 && y.mant = 0 && x.neg = y.neg then x.neg else mode == rndRDN
  Exact.ofInt (x.inUnits e + y.inUnits e) e zeroNeg

def Exact.mul (x y : Exact) : Exact := ⟨x.neg != y.neg, x.mant * y.mant, x.exp + y.exp, false⟩
def Exact.negate (x : Exact) : Exact := { x with neg := !x.neg }
def Exact.scale (x : Exact) (k : Int) : Exact := { x with exp := x.exp + k }

/-- The quotient of nonzero values to at least 64 bits and sticky. -/
def Exact.div (x y : Exact) : Exact :=
  let k := 64 + Nat.log2 y.mant
  let n := x.mant * 2 ^ k
  ⟨x.neg != y.neg, n / y.mant, x.exp - y.exp - k, n % y.mant != 0⟩

/-- The integer square root by its bits from bit i down. -/
def isqrtBits (n : Nat) : Nat → Nat → Nat
  | 0, r => r
  | i + 1, r => if (r + 2 ^ i) * (r + 2 ^ i) ≤ n then isqrtBits n i (r + 2 ^ i) else isqrtBits n i r

def isqrt (n : Nat) : Nat := isqrtBits n (Nat.log2 n / 2 + 1) 0

/-- The square root of a positive value to at least 64 bits and sticky. -/
def Exact.sqrt (x : Exact) : Exact :=
  let k : Nat := 160 + (x.exp % 2).toNat
  let n := x.mant * 2 ^ k
  let r := isqrt n
  ⟨false, r, (x.exp - k) / 2, r * r != n⟩

/-- The reciprocal square root of a positive value to at least 64 bits and sticky. -/
def Exact.rsqrt (x : Exact) : Exact :=
  -- 1 / sqrt(m 2^e) with e even after a shift of m
  let m := x.mant * 2 ^ (x.exp % 2).toNat
  let e := x.exp - x.exp % 2
  let k := 100 + Nat.log2 m
  let r := isqrt (2 ^ (2 * k) / m)
  ⟨false, r, -(k : Int) - e / 2, r * r * m != 2 ^ (2 * k)⟩

/-- ln 2 in units of 2^-320. -/
def ln2Fixed : Nat :=
  0xb17217f7d1cf79abc9e3b39803f2f6af40f343267298b62d8a0d175b8baafa2be7b876206debac98

/-- The exponential series for t in units of 2^-320: terms n, n+1, … of a sum, with the current term. -/
def expSeries (t : Nat) : Nat → Nat → Nat → Nat
  | 0, _, _ => 0
  | fuel + 1, n, term => term + expSeries t fuel (n + 1) (term * t / 2 ^ 320 / (n + 1))

/-- 2^f for a fraction f in units of 2^-320, in the same units. -/
def exp2Fixed (f : Nat) : Nat := expSeries (f * ln2Fixed / 2 ^ 320) 96 0 (2 ^ 320)

/-- Fraction bits of log2(y), for y in 1..2 in units of 2^-320: n bits by repeated squaring. -/
def log2Bits : Nat → Nat → Nat → Nat
  | 0, _, acc => acc
  | n + 1, y, acc =>
    let z := y * y / 2 ^ 320
    if 2 ^ 321 ≤ z then log2Bits n (z / 2) (2 * acc + 1) else log2Bits n z (2 * acc)

/-! ### Operations on codes (R45 to R47) -/

/-- The result when some operand is a NaN: the first, quieted; NV when some operand is signalling (R46). -/
def nanOf (F : FloatFmt) (ops : List Nat) : Option Rounded :=
  match ops.find? F.isNaN with
  | none => none
  | some c => some (F.quiet c, if ops.any F.isSNaN then flagNV else 0)

/-- a + b (R45, R46). -/
def fpAdd (F : FloatFmt) (mode rho a b : Nat) : Rounded :=
  match nanOf F [a, b] with
  | some r => r
  | none =>
    if F.isInf a then (if F.isInf b && F.neg a != F.neg b then (F.nan, flagNV) else (a, 0))
    else if F.isInf b then (b, 0)
    else roundTo F mode rho (Exact.add mode (F.value a) (F.value b))

/-- The code with its sign flipped. -/
def FloatFmt.flip (F : FloatFmt) (c : Nat) : Nat := if F.neg c then c - F.signBit else c + F.signBit

/-- a − b (R45, R46): a NaN operand keeps its own sign. -/
def fpSub (F : FloatFmt) (mode rho a b : Nat) : Rounded :=
  match nanOf F [a, b] with
  | some r => r
  | none => fpAdd F mode rho a (F.flip b)

/-- a × b. -/
def fpMul (F : FloatFmt) (mode rho a b : Nat) : Rounded :=
  match nanOf F [a, b] with
  | some r => r
  | none =>
    if F.isInf a || F.isInf b then
      if F.isZero a || F.isZero b then (F.nan, flagNV) else (F.withSign (F.neg a != F.neg b) F.infCode, 0)
    else roundTo F mode rho ((F.value a).mul (F.value b))

/-- a × b + c with one rounding, the factors in format F and the addend and result in format G. -/
def fpFmaMixed (F G : FloatFmt) (mode rho a b c : Nat) : Rounded :=
  let prodInf := F.isInf a || F.isInf b
  let pneg := F.neg a != F.neg b
  if prodInf then
    if F.isZero a || F.isZero b then (G.nan, flagNV)
    else if G.isInf c && G.neg c != pneg then (G.nan, flagNV)
    else (G.withSign pneg G.infCode, 0)
  else if G.isInf c then (c, 0)
  else roundTo G mode rho (Exact.add mode ((F.value a).mul (F.value b)) (G.value c))

/-- a × b + c with one rounding (R45, R46). -/
def fpFma (F : FloatFmt) (mode rho a b c : Nat) : Rounded :=
  match nanOf F [a, b, c] with
  | some r => r
  | none => fpFmaMixed F F mode rho a b c

/-- a / b (R45). -/
def fpDiv (F : FloatFmt) (mode rho a b : Nat) : Rounded :=
  match nanOf F [a, b] with
  | some r => r
  | none =>
    let s := F.neg a != F.neg b
    if F.isInf a then (if F.isInf b then (F.nan, flagNV) else (F.withSign s F.infCode, 0))
    else if F.isInf b then (F.withSign s 0, 0)
    else if F.isZero b then (if F.isZero a then (F.nan, flagNV) else (F.withSign s F.infCode, flagDZ))
    else if F.isZero a then (F.withSign s 0, 0)
    else roundTo F mode rho ((F.value a).div (F.value b))

/-- The code of 1. -/
def FloatFmt.one (F : FloatFmt) : Nat := F.bias * 2 ^ F.mb

def fpSqrt (F : FloatFmt) (mode rho a : Nat) : Rounded :=
  match nanOf F [a] with
  | some r => r
  | none =>
    if F.isZero a then (a, 0) else if F.neg a then (F.nan, flagNV) else if F.isInf a then (a, 0)
    else roundTo F mode rho (F.value a).sqrt

def fpRsqrt (F : FloatFmt) (mode rho a : Nat) : Rounded :=
  match nanOf F [a] with
  | some r => r
  | none =>
    if F.isZero a then (F.withSign (F.neg a) F.infCode, flagDZ)
    else if F.neg a then (F.nan, flagNV) else if F.isInf a then (0, 0)
    else roundTo F mode rho (F.value a).rsqrt

/-- 2^x (R45): exact for an integer x, else by fixed-point arithmetic far beyond the format's precision. -/
def fpExp2 (F : FloatFmt) (mode rho a : Nat) : Rounded :=
  match nanOf F [a] with
  | some r => r
  | none =>
    if F.isInf a then (if F.neg a then (0, 0) else (a, 0))
    else
      let x := F.value a
      -- x = n + f / 2^320 with 0 <= f < 2^320, for |x| below 2^16; larger |x| lie far past every format's range
      let big := decide (16 ≤ (Nat.log2 x.mant : Int) + x.exp)
      if x.mant ≠ 0 && big then
        roundTo F mode rho ⟨false, 1, if x.neg then -4096 else 4096, false⟩
      else
        let v := x.inUnits (-320)
        let n := v / 2 ^ 320
        let f := (v % 2 ^ 320).toNat
        if f = 0 then roundTo F mode rho ⟨false, 1, n, false⟩
        else roundTo F mode rho ⟨false, exp2Fixed f, n - 320, true⟩

/-- log2 x (R45). -/
def fpLog2 (F : FloatFmt) (mode rho a : Nat) : Rounded :=
  match nanOf F [a] with
  | some r => r
  | none =>
    if F.isZero a then (F.withSign true F.infCode, flagDZ)
    else if F.neg a then (F.nan, flagNV)
    else if F.isInf a then (a, 0)
    else
      let x := F.value a
      let lg := Nat.log2 x.mant
      let e : Int := x.exp + lg
      if x.mant = 2 ^ lg then roundTo F mode rho ⟨decide (e < 0), e.natAbs, 0, false⟩
      else
        let v : Int := e * 2 ^ 144 + (log2Bits 144 (x.mant * 2 ^ (320 - lg)) 0 : Nat)
        if 0 ≤ v then roundTo F mode rho ⟨false, v.toNat, -144, true⟩
        else roundTo F mode rho ⟨true, v.natAbs - 1, -144, true⟩

/-- Order of two codes that are no NaN, −0 below +0 (R47): a below b. -/
def fpBelow (F : FloatFmt) (a b : Nat) : Bool :=
  match F.neg a, F.neg b with
  | true, false => true
  | false, true => false
  | true, true => decide (F.mag b < F.mag a)
  | false, false => decide (F.mag a < F.mag b)

/-- Minimum or maximum (R47). -/
def fpMinMax (F : FloatFmt) (wantMax : Bool) (a b : Nat) : Rounded :=
  let fl := if F.isSNaN a || F.isSNaN b then flagNV else 0
  if F.isNaN a then (if F.isNaN b then (F.quiet a, fl) else (b, fl))
  else if F.isNaN b then (a, fl)
  else if fpBelow F a b == wantMax then (b, fl) else (a, fl)

/-- Numeric comparison of two codes that are no NaN: −0 equals +0 (R246). -/
def fpEq (F : FloatFmt) (a b : Nat) : Bool := a == b || (F.isZero a && F.isZero b)
def fpLt (F : FloatFmt) (a b : Nat) : Bool := fpBelow F a b && !(F.isZero a && F.isZero b)

/-- The four floating conditions and their NV flag (R246). -/
def fpCompare (F : FloatFmt) (cond a b : Nat) : Bool × BitVec 8 :=
  let nan := F.isNaN a || F.isNaN b
  let snan := F.isSNaN a || F.isSNaN b
  match cond with
  | 0 => (!nan && fpEq F a b, if snan then flagNV else 0)
  | 1 => (!nan && fpLt F a b, if nan then flagNV else 0)
  | 2 => (!nan && (fpLt F a b || fpEq F a b), if nan then flagNV else 0)
  | _ => (nan, if snan then flagNV else 0)

/-! ### Conversions (R48 to R54) -/

/-- A two's complement field. -/
def signExt (n v : Nat) : Int := if v % 2 ^ n < 2 ^ (n - 1) then (v % 2 ^ n : Nat) else ((v % 2 ^ n : Nat) : Int) - 2 ^ n

/-- The n-bit two's complement code of an integer. -/
def twos (n : Nat) (v : Int) : Nat := (v % 2 ^ n).toNat

/-- A NaN moved between FP32, BF16 and FP16 (R49). A result that equals a verdict word is marked after widening too, or the round
trip of R53 would lose an FP16 NaN (DEDUCED, assumption 106). -/
def nanConvert (F G : FloatFmt) (c : Nat) : Nat :=
  let frac := F.mag c % 2 ^ F.mb
  let fr := if F.mb ≤ G.mb then frac * 2 ^ (G.mb - F.mb) else frac / 2 ^ (F.mb - G.mb)
  let code := G.withSign (F.neg c) (G.infCode + fr)
  if fr = 0 || (G.verdict code).isSome then code + (3 - code % 4) else code

/-- An exact value saturated to an n-bit integer (R54). -/
def toInteger (n mode rho : Nat) (x : Exact) : Rounded :=
  let (v, inexact) := roundInt mode rho x
  if v < -(2 ^ (n - 1)) then (2 ^ (n - 1), flagSAT ||| flagNX)
  else if 2 ^ (n - 1) ≤ v then (2 ^ (n - 1) - 1, flagSAT ||| flagNX)
  else (twos n v, if inexact then flagNX else 0)

/-- Bits of an element of a format (R28). -/
def fmtWidth (f : BitVec 4) : Nat :=
  if f = fmtFP32 || f = fmtINT32 then 32 else if f = fmtBF16 || f = fmtFP16 then 16
  else if f = fmtMXI6 then 6 else if f = fmtMXI4 then 4 else 8

/-- A finite value to a format that is no MX format, scaled by 2^k (R37, R50, R54). -/
def exactTo (dst : BitVec 4) (mode rho : Nat) (x : Exact) : Rounded :=
  match floatFmt dst with
  | some G => roundTo G mode rho x
  | none => toInteger (fmtWidth dst) mode rho x

/-- A NaN or infinity of a floating source to another format (R40, R49, R50, R54). -/
def specialTo (F : FloatFmt) (dst : BitVec 4) (c : Nat) : Rounded :=
  match floatFmt dst with
  | some G =>
    if G.ieee then
      match F.verdict c with
      | some k => (G.verdictCode k, 0)
      | none => if F.isInf c then (G.withSign (F.neg c) G.infCode, 0) else (nanConvert F G c, 0)
    else (G.withSign (F.neg c) G.maxCode, if F.isInf c then flagSAT else flagNV)
  | none =>
    let n := fmtWidth dst
    if F.isInf c then (if F.neg c then 2 ^ (n - 1) else 2 ^ (n - 1) - 1, flagSAT) else (0, flagNV)

/-- Element width of an MX format. -/
def mxWidth (f : BitVec 4) : Nat := if f = fmtMXI8 then 8 else if f = fmtMXI6 then 6 else 4

/-- An element of an MX block with its block's scale, as one code: E above the n bits of the element. -/
def mxCode (n e c : Nat) : Nat := e * 2 ^ n + c % 2 ^ n

/-- The value of an element of a block that is no NaN block (R32). -/
def mxValue (n e c : Nat) : Exact := ⟨decide (signExt n c < 0), (signExt n c).natAbs, (e : Int) - 127 - ((n : Int) - 2), false⟩

/-- The FP32 code of an element of a NaN block, its own code as payload (R52). -/
def mxNan (n c : Nat) : Nat := 0x7FC00000 + c % 2 ^ n

/-- Convert of one element to a format that is no MX format, with the value scaled by 2^k and one rounding (R37, R48 to R54). An element
of an MX source comes with its scale (`mxCode`). -/
def convertElem (src dst : BitVec 4) (mode rho : Nat) (k : Int) (c : Nat) : Rounded :=
  let n := mxWidth src
  if src = dst && k = 0 then (c, 0)
  else if isMx src then
    if c / 2 ^ n = 255 then specialTo fp32 dst (mxNan n c) else exactTo dst mode rho ((mxValue n (c / 2 ^ n) c).scale k)
  else
    match floatFmt src with
    | some F =>
      if F.isNaN c || F.isInf c then specialTo F dst c
      else exactTo dst mode rho ((F.value c).scale k)
    | none =>
      let v := signExt (fmtWidth src) c
      exactTo dst mode rho ((Exact.ofInt v 0 false).scale k)

/-! ### MX blocks (R32, R51, R52) -/

/-- Sidecar index of the block at a scratchpad offset (R135). -/
def sidecarIndex (fmt : BitVec 4) (off : Nat) : Nat := 8192 * (off / 2 ^ 17) + off % 2 ^ 17 / (4 * mxWidth fmt)

/-- An element of a block as an FP32 code (R52): exact, or the NaN that carries its code. Only −2^(n−1) under E = 254 lies outside
FP32: it becomes −∞, as R42 overflows, without a flag (DEDUCED, assumption 107). -/
def mxToFp32 (n e c : Nat) : Nat :=
  if e = 255 then mxNan n c else (roundTo fp32 rndRNE 0 (mxValue n e c)).1

/-- A source element for a block conversion: a NaN with its code, an infinity, or a value. -/
inductive MxIn where
  | nan (code : Nat)
  | inf (neg : Bool)
  | fin (x : Exact)
  deriving DecidableEq, Repr

/-- The larger magnitude of two exact values, as floor(log2) of the largest: none for all zeros. -/
def maxLog2 : List MxIn → Option Int
  | [] => none
  | .fin x :: r =>
    if x.mant = 0 then maxLog2 r
    else
      let l : Int := (Nat.log2 x.mant : Int) + x.exp
      match maxLog2 r with
      | none => some l
      | some m => some (max l m)
  | _ :: r => maxLog2 r

/-- ToMX (R51): scale, codes, flags. The random values of RSR are drawn by the caller, one for each element. -/
def toMx (n mode : Nat) (rhos : List Nat) (xs : List MxIn) : Nat × List Nat × BitVec 8 :=
  if xs.any (fun x => match x with | .nan _ => true | _ => false) then
    (255, xs.map (fun x => match x with | .nan c => c % 2 ^ n | _ => 0), 0)
  else
    let e : Nat :=
      if xs.any (fun x => match x with | .inf _ => true | _ => false) then 254
      else match maxLog2 xs with
        | none => 0
        | some l => (min (max (l + 127) 0) 254).toNat
    let s : Int := (e : Int) - 127 - ((n : Int) - 2)
    let top : Int := 2 ^ (n - 1)
    let each := fun (i : Nat) (x : MxIn) =>
      match x with
      | .nan _ => ((0 : Nat), (0 : BitVec 8))
      | .inf neg => (twos n (if neg then -(top - 1) else top - 1), flagSAT)
      | .fin v =>
        let (r, inexact) := roundInt mode (rhos.getD i 0) (v.scale (-s))
        if r < -top then (twos n (-top), flagSAT ||| flagNX)
        else if top ≤ r then (twos n (top - 1), flagSAT ||| flagNX)
        else (twos n r, if inexact then flagNX else 0)
    let out := xs.mapIdx each
    (e, out.map (fun p => p.1), out.foldl (fun f p => f ||| p.2) 0)

/-- An element of a source as an input of ToMX, scaled by 2^k; one of an MX source comes with its scale (`mxCode`). -/
def mxIn (src : BitVec 4) (k : Int) (c : Nat) : MxIn :=
  let n := mxWidth src
  if isMx src then (if c / 2 ^ n = 255 then .nan (mxNan n c) else .fin ((mxValue n (c / 2 ^ n) c).scale k))
  else match floatFmt src with
  | some F => if F.isNaN c then .nan c else if F.isInf c then .inf (F.neg c) else .fin ((F.value c).scale k)
  | none => .fin ((Exact.ofInt (signExt (fmtWidth src) c) 0 false).scale k)

/-! ### The random generator (R43, R44) -/

/-- One step of the generator. -/
def nextRandom (s : BitVec 32) : BitVec 32 :=
  let a := s ^^^ (s <<< 13)
  let b := a ^^^ (a >>> 17)
  b ^^^ (b <<< 5)

/-- The 16 bits a step returns. -/
def randomBits (s : BitVec 32) : Nat := (s >>> 16).toNat

end Sys2Proof.Machine
end

