-- ==== Sys2Proof/Decode.lean ====
section
/-! DEFINITION. The decoder and the encoder of slots (R206 to R217, R222 to R229). A slot is STOP, CLASS, OP and twenty
operand bits; ofBody and toBody read and write the operand bits of one shape by the field tables of R212 and of the opcode
table. An encoding whose fixed bits differ from the table's is refused: as kind 3 of R429 where the bits name an operand the
instruction does not accept, or a MOD that R297 calls reserved, as kind 4 otherwise. -/

namespace Sys2Proof

/-- The operand bits [19:0] of a slot (R207). -/
abbrev Body := BitVec 20

/-- Why bytes are not an instruction, by the kinds of R429. -/
inductive DecodeError where
  /-- Fewer bytes than a slot. -/
  | truncated
  /-- Kind 0: class code 0x9..0xF. -/
  | classCode
  /-- Kind 2: opcode reserved in its class map. -/
  | opcode
  /-- Kind 3: reserved value or operand kind. -/
  | value
  /-- Kind 4: nonzero reserved bit or field. -/
  | bits
  /-- Kind 5: an X slot missing, opening a bundle, or one too many. -/
  | xSlot
  deriving DecidableEq, Repr

/-- The kind of R429. -/
def DecodeError.kind : DecodeError → Nat
  | .truncated => 6
  | .classCode => 0
  | .opcode => 2
  | .value => 3
  | .bits => 4
  | .xSlot => 5

/-! ### Operand bits of each shape -/

/-- Operand bits of ADD and its shape (R237). -/
def Rrr.ofBody (b : Body) : Rrr where
  dst := b.extractLsb' 15 5
  srcA := b.extractLsb' 10 5
  srcB := b.extractLsb' 5 5
  ta := b.getLsbD 4
  tb := b.getLsbD 3
  md := b.extractLsb' 0 3

/-- The operand bits that hold these fields. -/
def Rrr.toBody (o : Rrr) : Body :=
  o.dst ++ o.srcA ++ o.srcB ++ BitVec.ofBool o.ta ++ BitVec.ofBool o.tb ++ o.md

/-- Operand bits of CMP and its shape (R240). -/
def RrrCond.ofBody (b : Body) : RrrCond where
  dst := b.extractLsb' 15 3
  srcA := b.extractLsb' 10 5
  srcB := b.extractLsb' 5 5
  ta := b.getLsbD 4
  tb := b.getLsbD 3
  cond := b.extractLsb' 0 3

/-- The operand bits that hold these fields. -/
def RrrCond.toBody (o : RrrCond) : Body :=
  0x0#2 ++ o.dst ++ o.srcA ++ o.srcB ++ BitVec.ofBool o.ta ++ BitVec.ofBool o.tb ++ o.cond

/-- Operand bits of SEL and its shape (R241). -/
def RrrPred.ofBody (b : Body) : RrrPred where
  dst := b.extractLsb' 15 5
  srcA := b.extractLsb' 10 5
  srcB := b.extractLsb' 5 5
  ta := b.getLsbD 4
  tb := b.getLsbD 3
  sel := b.extractLsb' 0 3

/-- The operand bits that hold these fields. -/
def RrrPred.toBody (o : RrrPred) : Body :=
  o.dst ++ o.srcA ++ o.srcB ++ BitVec.ofBool o.ta ++ BitVec.ofBool o.tb ++ o.sel

/-- Operand bits of PLOG and its shape (R241). -/
def PredOps.ofBody (b : Body) : PredOps where
  dst := b.extractLsb' 15 3
  srcA := b.extractLsb' 10 3
  srcB := b.extractLsb' 5 3
  md := b.extractLsb' 0 3

/-- The operand bits that hold these fields. -/
def PredOps.toBody (o : PredOps) : Body :=
  0x0#2 ++ o.dst ++ 0x0#2 ++ o.srcA ++ 0x0#2 ++ o.srcB ++ 0x0#2 ++ o.md

/-- Operand bits of CLZ and its shape (R242). -/
def Rr.ofBody (b : Body) : Rr where
  dst := b.extractLsb' 15 5
  srcA := b.extractLsb' 10 5
  ta := b.getLsbD 9
  md := b.extractLsb' 0 9

/-- The operand bits that hold these fields. -/
def Rr.toBody (o : Rr) : Body :=
  o.dst ++ o.srcA ++ BitVec.ofBool o.ta ++ o.md

/-- Operand bits of ADDI and its shape (R243). -/
def Ri.ofBody (b : Body) : Ri where
  dst := b.extractLsb' 15 5
  srcA := b.extractLsb' 10 5
  ta := b.getLsbD 9
  imm := b.extractLsb' 0 9

/-- The operand bits that hold these fields. -/
def Ri.toBody (o : Ri) : Body :=
  o.dst ++ o.srcA ++ BitVec.ofBool o.ta ++ o.imm

/-- Operand bits of CMPI and its shape (R240). -/
def RiCond.ofBody (b : Body) : RiCond where
  dst := b.extractLsb' 15 3
  srcA := b.extractLsb' 10 5
  ta := b.getLsbD 9
  cond := b.extractLsb' 6 3
  imm := b.extractLsb' 0 6

/-- The operand bits that hold these fields. -/
def RiCond.toBody (o : RiCond) : Body :=
  0x0#2 ++ o.dst ++ o.srcA ++ BitVec.ofBool o.ta ++ o.cond ++ o.imm

/-- Operand bits of LI and its shape (R243). -/
def Imm15.ofBody (b : Body) : Imm15 where
  dst := b.extractLsb' 15 5
  imm := b.extractLsb' 0 15

/-- The operand bits that hold these fields. -/
def Imm15.toBody (o : Imm15) : Body :=
  o.dst ++ o.imm

/-- Operand bits of FADD and its shape (R245). -/
def RrrRound.ofBody (b : Body) : RrrRound where
  dst := b.extractLsb' 15 5
  srcA := b.extractLsb' 10 5
  srcB := b.extractLsb' 5 5
  ta := b.getLsbD 4
  tb := b.getLsbD 3
  rnd := b.extractLsb' 0 3

/-- The operand bits that hold these fields. -/
def RrrRound.toBody (o : RrrRound) : Body :=
  o.dst ++ o.srcA ++ o.srcB ++ BitVec.ofBool o.ta ++ BitVec.ofBool o.tb ++ o.rnd

/-- Operand bits of FMIN and its shape (R245). -/
def RrrPlain.ofBody (b : Body) : RrrPlain where
  dst := b.extractLsb' 15 5
  srcA := b.extractLsb' 10 5
  srcB := b.extractLsb' 5 5
  ta := b.getLsbD 4
  tb := b.getLsbD 3

/-- The operand bits that hold these fields. -/
def RrrPlain.toBody (o : RrrPlain) : Body :=
  o.dst ++ o.srcA ++ o.srcB ++ BitVec.ofBool o.ta ++ BitVec.ofBool o.tb ++ 0x0#3

/-- Operand bits of FCVT and its shape (R247). -/
def RrRound.ofBody (b : Body) : RrRound where
  dst := b.extractLsb' 15 5
  srcA := b.extractLsb' 10 5
  ta := b.getLsbD 4
  rnd := b.extractLsb' 0 3

/-- The operand bits that hold these fields. -/
def RrRound.toBody (o : RrRound) : Body :=
  o.dst ++ o.srcA ++ 0x0#5 ++ BitVec.ofBool o.ta ++ 0x0#1 ++ o.rnd

/-- Operand bits of LD and its shape (R250). -/
def LoadOps.ofBody (b : Body) : LoadOps where
  reg := b.extractLsb' 15 5
  base := b.extractLsb' 10 5
  tb := b.getLsbD 9
  size := b.extractLsb' 6 2
  off := b.extractLsb' 0 6

/-- The operand bits that hold these fields. -/
def LoadOps.toBody (o : LoadOps) : Body :=
  o.reg ++ o.base ++ BitVec.ofBool o.tb ++ 0x0#1 ++ o.size ++ o.off

/-- Operand bits of ST and its shape (R250). -/
def StoreOps.ofBody (b : Body) : StoreOps where
  reg := b.extractLsb' 15 5
  base := b.extractLsb' 10 5
  tb := b.getLsbD 9
  td := b.getLsbD 8
  size := b.extractLsb' 6 2
  off := b.extractLsb' 0 6

/-- The operand bits that hold these fields. -/
def StoreOps.toBody (o : StoreOps) : Body :=
  o.reg ++ o.base ++ BitVec.ofBool o.tb ++ BitVec.ofBool o.td ++ o.size ++ o.off

/-- Operand bits of LDA and its shape (R251). -/
def AcqOps.ofBody (b : Body) : AcqOps where
  reg := b.extractLsb' 15 5
  base := b.extractLsb' 10 5
  tb := b.getLsbD 9
  size := b.extractLsb' 6 2
  scope := b.extractLsb' 3 3

/-- The operand bits that hold these fields. -/
def AcqOps.toBody (o : AcqOps) : Body :=
  o.reg ++ o.base ++ BitVec.ofBool o.tb ++ 0x0#1 ++ o.size ++ o.scope ++ 0x0#3

/-- Operand bits of STR and its shape (R251). -/
def RelOps.ofBody (b : Body) : RelOps where
  reg := b.extractLsb' 15 5
  base := b.extractLsb' 10 5
  tb := b.getLsbD 9
  td := b.getLsbD 8
  size := b.extractLsb' 6 2
  scope := b.extractLsb' 3 3

/-- The operand bits that hold these fields. -/
def RelOps.toBody (o : RelOps) : Body :=
  o.reg ++ o.base ++ BitVec.ofBool o.tb ++ BitVec.ofBool o.td ++ o.size ++ o.scope ++ 0x0#3

/-- Operand bits of GRSET and its shape (R254). -/
def TwoSrc.ofBody (b : Body) : TwoSrc where
  srcA := b.extractLsb' 10 5
  srcB := b.extractLsb' 5 5
  ta := b.getLsbD 4
  tb := b.getLsbD 3

/-- The operand bits that hold these fields. -/
def TwoSrc.toBody (o : TwoSrc) : Body :=
  0x0#5 ++ o.srcA ++ o.srcB ++ BitVec.ofBool o.ta ++ BitVec.ofBool o.tb ++ 0x0#3

/-- Operand bits of PREF and its shape (R255). -/
def PrefOps.ofBody (b : Body) : PrefOps where
  base := b.extractLsb' 10 5
  tb := b.getLsbD 9
  off := b.extractLsb' 0 6

/-- The operand bits that hold these fields. -/
def PrefOps.toBody (o : PrefOps) : Body :=
  0x0#5 ++ o.base ++ BitVec.ofBool o.tb ++ 0x3#3 ++ o.off

/-- Operand bits of FENCE and its shape (R256). -/
def ScopeOps.ofBody (b : Body) : ScopeOps where
  scope := b.extractLsb' 0 3

/-- The operand bits that hold these fields. -/
def ScopeOps.toBody (o : ScopeOps) : Body :=
  0x0#17 ++ o.scope

/-- Operand bits of TLOOK and its shape (R259). -/
def DstSrc.ofBody (b : Body) : DstSrc where
  dst := b.extractLsb' 15 5
  srcA := b.extractLsb' 10 5
  ta := b.getLsbD 9

/-- The operand bits that hold these fields. -/
def DstSrc.toBody (o : DstSrc) : Body :=
  o.dst ++ o.srcA ++ BitVec.ofBool o.ta ++ 0x0#9

/-- Operand bits of TEVICT and its shape (R259). -/
def OneSrc.ofBody (b : Body) : OneSrc where
  srcA := b.extractLsb' 10 5
  ta := b.getLsbD 9

/-- The operand bits that hold these fields. -/
def OneSrc.toBody (o : OneSrc) : Body :=
  0x0#5 ++ o.srcA ++ BitVec.ofBool o.ta ++ 0x0#9

/-- Operand bits of MFS and its shape (R260). -/
def SpecGet.ofBody (b : Body) : SpecGet where
  reg := b.extractLsb' 15 5
  spec := b.extractLsb' 0 12

/-- The operand bits that hold these fields. -/
def SpecGet.toBody (o : SpecGet) : Body :=
  o.reg ++ 0x0#3 ++ o.spec

/-- Operand bits of MTS and its shape (R260). -/
def SpecPut.ofBody (b : Body) : SpecPut where
  reg := b.extractLsb' 15 5
  ta := b.getLsbD 14
  spec := b.extractLsb' 0 12

/-- The operand bits that hold these fields. -/
def SpecPut.toBody (o : SpecPut) : Body :=
  o.reg ++ BitVec.ofBool o.ta ++ 0x0#2 ++ o.spec

/-- Operand bits of AMO_ADD and its shape (R257). -/
def AmoOps.ofBody (b : Body) : AmoOps where
  dst := b.extractLsb' 15 5
  base := b.extractLsb' 10 5
  data := b.extractLsb' 5 5
  tb := b.getLsbD 4
  td := b.getLsbD 3
  scope := b.extractLsb' 0 3

/-- The operand bits that hold these fields. -/
def AmoOps.toBody (o : AmoOps) : Body :=
  o.dst ++ o.base ++ o.data ++ BitVec.ofBool o.tb ++ BitVec.ofBool o.td ++ o.scope

/-- Operand bits of BR and its shape (R261). -/
def Jump.ofBody (b : Body) : Jump where
  off := b.extractLsb' 0 20

/-- The operand bits that hold these fields. -/
def Jump.toBody (o : Jump) : Body :=
  o.off

/-- Operand bits of BC and its shape (R261). -/
def BranchOps.ofBody (b : Body) : BranchOps where
  pred := b.extractLsb' 17 3
  neg := b.getLsbD 16
  off := b.extractLsb' 0 16

/-- The operand bits that hold these fields. -/
def BranchOps.toBody (o : BranchOps) : Body :=
  o.pred ++ BitVec.ofBool o.neg ++ o.off

/-- Operand bits of RET and its shape (R261). -/
def RetOps.ofBody (b : Body) : RetOps where
  reg := b.extractLsb' 15 5
  ta := b.getLsbD 14

/-- The operand bits that hold these fields. -/
def RetOps.toBody (o : RetOps) : Body :=
  o.reg ++ BitVec.ofBool o.ta ++ 0x0#14

/-- Operand bits of LOOP and its shape (R262). -/
def LoopReg.ofBody (b : Body) (xs : List XPay) : LoopReg where
  nm1 := b.extractLsb' 15 5
  count := b.extractLsb' 10 5
  ta := b.getLsbD 9
  xs := xs

/-- The operand bits that hold these fields. -/
def LoopReg.toBody (o : LoopReg) : Body :=
  o.nm1 ++ o.count ++ BitVec.ofBool o.ta ++ 0x0#9

/-- Operand bits of LOOP_IMM and its shape (R262). -/
def LoopImm.ofBody (b : Body) : LoopImm where
  nm1 := b.extractLsb' 15 5
  imm := b.extractLsb' 0 8

/-- The operand bits that hold these fields. -/
def LoopImm.toBody (o : LoopImm) : Body :=
  o.nm1 ++ 0x1#7 ++ o.imm

/-- Operand bits of TRAP and its shape (R409). -/
def Code8.ofBody (b : Body) : Code8 where
  code := b.extractLsb' 0 8

/-- The operand bits that hold these fields. -/
def Code8.toBody (o : Code8) : Body :=
  0x0#12 ++ o.code

/-- Operand bits of SLEEP and its shape (R264). -/
def Count16.ofBody (b : Body) : Count16 where
  count := b.extractLsb' 0 16

/-- The operand bits that hold these fields. -/
def Count16.toBody (o : Count16) : Body :=
  0x0#4 ++ o.count

/-- Operand bits of CPY and its shape (R268). -/
def CpyOps.ofBody (b : Body) : CpyOps where
  dst := b.extractLsb' 15 5
  srcA := b.extractLsb' 10 5
  srcB := b.extractLsb' 5 5
  ta := b.getLsbD 4
  tb := b.getLsbD 3
  md := b.extractLsb' 0 2

/-- The operand bits that hold these fields. -/
def CpyOps.toBody (o : CpyOps) : Body :=
  o.dst ++ o.srcA ++ o.srcB ++ BitVec.ofBool o.ta ++ BitVec.ofBool o.tb ++ 0x0#1 ++ o.md

/-- Operand bits of CPYX and its shape (R269). -/
def CpyxOps.ofBody (b : Body) : CpyxOps where
  dst := b.extractLsb' 15 5
  srcA := b.extractLsb' 10 5
  srcB := b.extractLsb' 5 5
  ta := b.getLsbD 4
  tb := b.getLsbD 3
  chan := b.extractLsb' 0 3

/-- The operand bits that hold these fields. -/
def CpyxOps.toBody (o : CpyxOps) : Body :=
  o.dst ++ o.srcA ++ o.srcB ++ BitVec.ofBool o.ta ++ BitVec.ofBool o.tb ++ o.chan

/-- Operand bits of WAITID and its shape (R271). -/
def WaitOps.ofBody (b : Body) : WaitOps where
  srcA := b.extractLsb' 10 5
  chan := b.extractLsb' 5 5
  ta := b.getLsbD 4

/-- The operand bits that hold these fields. -/
def WaitOps.toBody (o : WaitOps) : Body :=
  0x0#5 ++ o.srcA ++ o.chan ++ BitVec.ofBool o.ta ++ 0x0#4

/-- Operand bits of WARR and its shape (R272). -/
def WellTwo.ofBody (b : Body) : WellTwo where
  srcA := b.extractLsb' 10 5
  srcB := b.extractLsb' 5 5
  ta := b.getLsbD 4
  tb := b.getLsbD 3
  scope := b.extractLsb' 0 3

/-- The operand bits that hold these fields. -/
def WellTwo.toBody (o : WellTwo) : Body :=
  0x0#5 ++ o.srcA ++ o.srcB ++ BitVec.ofBool o.ta ++ BitVec.ofBool o.tb ++ o.scope

/-- Operand bits of WDROP and its shape (R272). -/
def WellOne.ofBody (b : Body) : WellOne where
  srcA := b.extractLsb' 10 5
  ta := b.getLsbD 4
  scope := b.extractLsb' 0 3

/-- The operand bits that hold these fields. -/
def WellOne.toBody (o : WellOne) : Body :=
  0x0#5 ++ o.srcA ++ 0x0#5 ++ BitVec.ofBool o.ta ++ 0x0#1 ++ o.scope

/-- Operand bits of WTEST and its shape (R273). -/
def WellTest.ofBody (b : Body) : WellTest where
  dst := b.extractLsb' 15 5
  srcA := b.extractLsb' 10 5
  ta := b.getLsbD 4
  scope := b.extractLsb' 0 3

/-- The operand bits that hold these fields. -/
def WellTest.toBody (o : WellTest) : Body :=
  o.dst ++ o.srcA ++ 0x0#5 ++ BitVec.ofBool o.ta ++ 0x0#1 ++ o.scope

/-- Operand bits of BOPEN and its shape (R275). -/
def BulkOps.ofBody (b : Body) : BulkOps where
  srcA := b.extractLsb' 10 5
  run := b.extractLsb' 5 5
  ta := b.getLsbD 4

/-- The operand bits that hold these fields. -/
def BulkOps.toBody (o : BulkOps) : Body :=
  0x0#5 ++ o.srcA ++ o.run ++ BitVec.ofBool o.ta ++ 0x0#4

/-- Operand bits of ELW and its shape (R311). -/
def ElwOps.ofBody (b : Body) : ElwOps where
  hdr := b.extractLsb' 15 5
  th := b.getLsbD 14
  geom := b.extractLsb' 6 2
  prune := b.extractLsb' 4 2
  bmd := b.getLsbD 3

/-- The operand bits that hold these fields. -/
def ElwOps.toBody (o : ElwOps) : Body :=
  o.hdr ++ BitVec.ofBool o.th ++ 0x0#6 ++ o.geom ++ o.prune ++ BitVec.ofBool o.bmd ++ 0x0#3

/-- Operand bits of ELN and its shape (R311). -/
def ElnOps.ofBody (b : Body) : ElnOps where
  hdr := b.extractLsb' 15 5
  th := b.getLsbD 14
  geom := b.extractLsb' 6 2
  bmd := b.getLsbD 3

/-- The operand bits that hold these fields. -/
def ElnOps.toBody (o : ElnOps) : Body :=
  o.hdr ++ BitVec.ofBool o.th ++ 0x0#6 ++ o.geom ++ 0x0#2 ++ BitVec.ofBool o.bmd ++ 0x0#3

/-- Operand bits of EWE and its shape (R311). -/
def EweOps.ofBody (b : Body) : EweOps where
  hdr := b.extractLsb' 15 5
  th := b.getLsbD 14
  geom := b.extractLsb' 6 2
  bmc := b.getLsbD 5

/-- The operand bits that hold these fields. -/
def EweOps.toBody (o : EweOps) : Body :=
  o.hdr ++ BitVec.ofBool o.th ++ 0x0#6 ++ o.geom ++ BitVec.ofBool o.bmc ++ 0x0#5

/-- Operand bits of EWS and its shape (R311). -/
def EwsOps.ofBody (b : Body) : EwsOps where
  hdr := b.extractLsb' 15 5
  th := b.getLsbD 14
  hdr2 := b.extractLsb' 9 5
  th2 := b.getLsbD 8
  geom := b.extractLsb' 6 2
  bmc := b.getLsbD 5
  stash := b.getLsbD 4

/-- The operand bits that hold these fields. -/
def EwsOps.toBody (o : EwsOps) : Body :=
  o.hdr ++ BitVec.ofBool o.th ++ o.hdr2 ++ BitVec.ofBool o.th2 ++ o.geom ++ BitVec.ofBool o.bmc ++ BitVec.ofBool o.stash ++ 0x0#4

/-- Operand bits of EDRAIN and its shape (R319). -/
def Mask4.ofBody (b : Body) : Mask4 where
  mask := b.extractLsb' 0 4

/-- The operand bits that hold these fields. -/
def Mask4.toBody (o : Mask4) : Body :=
  0x0#16 ++ o.mask

/-- Operand bits of MOV and its shape (R284). -/
def WUnaryMod.ofBody (b : Body) : WUnaryMod where
  dst := b.extractLsb' 15 5
  srcA := b.extractLsb' 10 5
  sel := b.extractLsb' 2 3
  md := b.extractLsb' 0 2

/-- The operand bits that hold these fields. -/
def WUnaryMod.toBody (o : WUnaryMod) : Body :=
  o.dst ++ o.srcA ++ 0x0#5 ++ o.sel ++ o.md

/-- Operand bits of LDS and its shape (R286). -/
def WLds.ofBody (b : Body) : WLds where
  dst := b.extractLsb' 15 5
  srcB := b.extractLsb' 5 5
  sel := b.extractLsb' 2 3
  md := b.extractLsb' 0 2

/-- The operand bits that hold these fields. -/
def WLds.toBody (o : WLds) : Body :=
  o.dst ++ 0x0#5 ++ o.srcB ++ o.sel ++ o.md

/-- Operand bits of STS and its shape (R286). -/
def WSts.ofBody (b : Body) : WSts where
  srcA := b.extractLsb' 10 5
  srcB := b.extractLsb' 5 5
  sel := b.extractLsb' 2 3
  md := b.extractLsb' 0 2

/-- The operand bits that hold these fields. -/
def WSts.toBody (o : WSts) : Body :=
  0x0#5 ++ o.srcA ++ o.srcB ++ o.sel ++ o.md

/-- Operand bits of IMM and its shape (R287). -/
def WImm.ofBody (b : Body) : WImm where
  dst := b.extractLsb' 15 5
  immHi := b.extractLsb' 10 5
  immLo := b.extractLsb' 5 5
  sel := b.extractLsb' 2 3
  md := b.extractLsb' 0 2

/-- The operand bits that hold these fields. -/
def WImm.toBody (o : WImm) : Body :=
  o.dst ++ o.immHi ++ o.immLo ++ o.sel ++ o.md

/-- Operand bits of ROWCOL and its shape (R288). -/
def WDst.ofBody (b : Body) : WDst where
  dst := b.extractLsb' 15 5
  sel := b.extractLsb' 2 3

/-- The operand bits that hold these fields. -/
def WDst.toBody (o : WDst) : Body :=
  o.dst ++ 0x0#10 ++ o.sel ++ 0x0#2

/-- Operand bits of PERM and its shape (R289). -/
def WBinMod.ofBody (b : Body) : WBinMod where
  dst := b.extractLsb' 15 5
  srcA := b.extractLsb' 10 5
  srcB := b.extractLsb' 5 5
  sel := b.extractLsb' 2 3
  md := b.extractLsb' 0 2

/-- The operand bits that hold these fields. -/
def WBinMod.toBody (o : WBinMod) : Body :=
  o.dst ++ o.srcA ++ o.srcB ++ o.sel ++ o.md

/-- Operand bits of CVT and its shape (R299). -/
def WCvt.ofBody (b : Body) : WCvt where
  dst := b.extractLsb' 15 5
  srcA := b.extractLsb' 10 5
  sel := b.extractLsb' 2 3
  part := b.extractLsb' 0 2

/-- The operand bits that hold these fields. -/
def WCvt.toBody (o : WCvt) : Body :=
  o.dst ++ o.srcA ++ 0x0#5 ++ o.sel ++ o.part

/-- Operand bits of QLOG and its shape (R300). -/
def WQlog.ofBody (b : Body) : WQlog where
  dst := b.extractLsb' 15 2
  srcA := b.extractLsb' 10 2
  srcB := b.extractLsb' 5 2
  sel := b.extractLsb' 2 3
  md := b.extractLsb' 0 2

/-- The operand bits that hold these fields. -/
def WQlog.toBody (o : WQlog) : Body :=
  0x0#3 ++ o.dst ++ 0x0#3 ++ o.srcA ++ 0x0#3 ++ o.srcB ++ o.sel ++ o.md

/-- Operand bits of QSET and its shape (R301). -/
def WQset.ofBody (b : Body) : WQset where
  srcA := b.extractLsb' 10 5
  sel := b.extractLsb' 2 3
  md := b.extractLsb' 0 2

/-- The operand bits that hold these fields. -/
def WQset.toBody (o : WQset) : Body :=
  0x0#5 ++ o.srcA ++ 0x0#5 ++ o.sel ++ o.md

/-- Operand bits of CELL_FADD and its shape (R292). -/
def WBin.ofBody (b : Body) : WBin where
  dst := b.extractLsb' 15 5
  srcA := b.extractLsb' 10 5
  srcB := b.extractLsb' 5 5
  sel := b.extractLsb' 2 3

/-- The operand bits that hold these fields. -/
def WBin.toBody (o : WBin) : Body :=
  o.dst ++ o.srcA ++ o.srcB ++ o.sel ++ 0x0#2

/-- Operand bits of FRCP and its shape (R292). -/
def WUnary.ofBody (b : Body) : WUnary where
  dst := b.extractLsb' 15 5
  srcA := b.extractLsb' 10 5
  sel := b.extractLsb' 2 3

/-- The operand bits that hold these fields. -/
def WUnary.toBody (o : WUnary) : Body :=
  o.dst ++ o.srcA ++ 0x0#5 ++ o.sel ++ 0x0#2

/-- Operand bits of SCL and its shape (R324). -/
def WScl.ofBody (b : Body) : WScl where
  srcA := b.extractLsb' 10 5
  srcB := b.extractLsb' 5 5
  sel := b.extractLsb' 2 3
  hand := b.getLsbD 0

/-- The operand bits that hold these fields. -/
def WScl.toBody (o : WScl) : Body :=
  0x0#5 ++ o.srcA ++ o.srcB ++ o.sel ++ 0x0#1 ++ BitVec.ofBool o.hand

/-- Operand bits of MAC and its shape (R322). -/
def WMac.ofBody (b : Body) : WMac where
  acc := b.extractLsb' 15 2
  srcA := b.extractLsb' 10 5
  srcB := b.extractLsb' 5 5
  sel := b.extractLsb' 2 3
  hi := b.getLsbD 1
  hand := b.getLsbD 0

/-- The operand bits that hold these fields. -/
def WMac.toBody (o : WMac) : Body :=
  0x4#3 ++ o.acc ++ o.srcA ++ o.srcB ++ o.sel ++ BitVec.ofBool o.hi ++ BitVec.ofBool o.hand

/-- Operand bits of MACS and its shape (R325). -/
def WMacH.ofBody (b : Body) : WMacH where
  acc := b.extractLsb' 15 2
  srcA := b.extractLsb' 10 5
  srcB := b.extractLsb' 5 5
  sel := b.extractLsb' 2 3
  hand := b.getLsbD 0

/-- The operand bits that hold these fields. -/
def WMacH.toBody (o : WMacH) : Body :=
  0x4#3 ++ o.acc ++ o.srcA ++ o.srcB ++ o.sel ++ 0x0#1 ++ BitVec.ofBool o.hand

/-- Operand bits of VBEG and its shape (R327). -/
def WVbeg.ofBody (b : Body) : WVbeg where
  acc := b.extractLsb' 15 2
  srcA := b.extractLsb' 10 5
  srcB := b.extractLsb' 5 5
  sel := b.extractLsb' 2 3
  md := b.extractLsb' 0 2

/-- The operand bits that hold these fields. -/
def WVbeg.toBody (o : WVbeg) : Body :=
  0x4#3 ++ o.acc ++ o.srcA ++ o.srcB ++ o.sel ++ o.md

/-- Operand bits of VTHR and its shape (R328). -/
def WVthr.ofBody (b : Body) : WVthr where
  srcA := b.extractLsb' 10 5
  sel := b.extractLsb' 2 3

/-- The operand bits that hold these fields. -/
def WVthr.toBody (o : WVthr) : Body :=
  0x0#5 ++ o.srcA ++ 0x0#5 ++ o.sel ++ 0x0#2

/-- Operand bits of ACCZ and its shape (R330). -/
def WAccz.ofBody (b : Body) : WAccz where
  acc := b.extractLsb' 15 2
  sel := b.extractLsb' 2 3

/-- The operand bits that hold these fields. -/
def WAccz.toBody (o : WAccz) : Body :=
  0x4#3 ++ o.acc ++ 0x0#10 ++ o.sel ++ 0x0#2

/-- Operand bits of ACCRD and its shape (R331). -/
def WAccrd.ofBody (b : Body) : WAccrd where
  dst := b.extractLsb' 15 5
  acc := b.extractLsb' 10 2
  srcB := b.extractLsb' 5 5
  sel := b.extractLsb' 2 3
  fwd := b.getLsbD 0

/-- The operand bits that hold these fields. -/
def WAccrd.toBody (o : WAccrd) : Body :=
  o.dst ++ 0x4#3 ++ o.acc ++ o.srcB ++ o.sel ++ 0x0#1 ++ BitVec.ofBool o.fwd

/-- Operand bits of ACCWR and its shape (R332). -/
def WAccwr.ofBody (b : Body) : WAccwr where
  acc := b.extractLsb' 15 2
  srcA := b.extractLsb' 10 5
  sel := b.extractLsb' 2 3

/-- The operand bits that hold these fields. -/
def WAccwr.toBody (o : WAccwr) : Body :=
  0x4#3 ++ o.acc ++ o.srcA ++ 0x0#5 ++ o.sel ++ 0x0#2

/-- Operand bits of AMAX and its shape (R333). -/
def WAmax.ofBody (b : Body) : WAmax where
  dst := b.extractLsb' 15 5
  acc := b.extractLsb' 10 2
  sel := b.extractLsb' 2 3
  accum := b.getLsbD 0

/-- The operand bits that hold these fields. -/
def WAmax.toBody (o : WAmax) : Body :=
  o.dst ++ 0x4#3 ++ o.acc ++ 0x0#5 ++ o.sel ++ 0x0#1 ++ BitVec.ofBool o.accum

/-- Operand bits of LUP and its shape (R338). -/
def Tile1.ofBody (b : Body) : Tile1 where
  tile := b.extractLsb' 16 3

/-- The operand bits that hold these fields. -/
def Tile1.toBody (o : Tile1) : Body :=
  0x0#1 ++ o.tile ++ 0x0#16

/-- Operand bits of QRH and its shape (R340). -/
def Tile2.ofBody (b : Body) : Tile2 where
  tile := b.extractLsb' 16 3
  tau := b.extractLsb' 10 5

/-- The operand bits that hold these fields. -/
def Tile2.toBody (o : Tile2) : Body :=
  0x0#1 ++ o.tile ++ 0x0#1 ++ o.tau ++ 0x0#10

/-- Operand bits of TRSM and its shape (R341). -/
def TileTri.ofBody (b : Body) : TileTri where
  tile := b.extractLsb' 16 3
  tri := b.extractLsb' 11 3
  md := b.extractLsb' 0 2

/-- The operand bits that hold these fields. -/
def TileTri.toBody (o : TileTri) : Body :=
  0x0#1 ++ o.tile ++ 0x0#2 ++ o.tri ++ 0x0#9 ++ o.md

/-- Operand bits of SELI and its shape (R303). -/
def SelOps.ofBody (b : Body) : SelOps where
  dst := b.extractLsb' 15 3
  srcA := b.extractLsb' 10 5
  srcB := b.extractLsb' 5 5
  md := b.extractLsb' 0 2

/-- The operand bits that hold these fields. -/
def SelOps.toBody (o : SelOps) : Body :=
  0x0#2 ++ o.dst ++ o.srcA ++ o.srcB ++ 0x0#3 ++ o.md

/-- Operand bits of WFLG and its shape (R306). -/
def FlagOps.ofBody (b : Body) : FlagOps where
  dst := b.extractLsb' 15 5
  qidx := b.extractLsb' 10 2
  md := b.extractLsb' 0 2

/-- The operand bits that hold these fields. -/
def FlagOps.toBody (o : FlagOps) : Body :=
  o.dst ++ 0x0#3 ++ o.qidx ++ 0x0#8 ++ o.md

/-- Operand bits of PVST and its shape (R343). -/
def AddrSrc.ofBody (b : Body) : AddrSrc where
  srcA := b.extractLsb' 10 5

/-- The operand bits that hold these fields. -/
def AddrSrc.toBody (o : AddrSrc) : Body :=
  0x0#5 ++ o.srcA ++ 0x0#10

/-- Operand bits of VLD and its shape (R352). -/
def VTriMod.ofBody (b : Body) : VTriMod where
  dst := b.extractLsb' 15 5
  srcA := b.extractLsb' 10 5
  srcB := b.extractLsb' 5 5
  mask := b.extractLsb' 2 3
  md := b.extractLsb' 0 2

/-- The operand bits that hold these fields. -/
def VTriMod.toBody (o : VTriMod) : Body :=
  o.dst ++ o.srcA ++ o.srcB ++ o.mask ++ o.md

/-- Operand bits of VSCT and its shape (R354). -/
def VTri.ofBody (b : Body) : VTri where
  dst := b.extractLsb' 15 5
  srcA := b.extractLsb' 10 5
  srcB := b.extractLsb' 5 5
  mask := b.extractLsb' 2 3

/-- The operand bits that hold these fields. -/
def VTri.toBody (o : VTri) : Body :=
  o.dst ++ o.srcA ++ o.srcB ++ o.mask ++ 0x0#2

/-- Operand bits of TSTR and its shape (R364). -/
def VTstr.ofBody (b : Body) : VTstr where
  dst := b.extractLsb' 15 5
  srcA := b.extractLsb' 10 5
  mask := b.extractLsb' 2 3
  count := b.extractLsb' 0 2

/-- The operand bits that hold these fields. -/
def VTstr.toBody (o : VTstr) : Body :=
  o.dst ++ o.srcA ++ 0x0#5 ++ o.mask ++ o.count

/-- Operand bits of VCVT and its shape (R357). -/
def VUnary.ofBody (b : Body) : VUnary where
  dst := b.extractLsb' 15 5
  srcA := b.extractLsb' 10 5
  mask := b.extractLsb' 2 3

/-- The operand bits that hold these fields. -/
def VUnary.toBody (o : VUnary) : Body :=
  o.dst ++ o.srcA ++ 0x0#5 ++ o.mask ++ 0x0#2

/-! ### The opcode maps -/

/-- The instruction, if re-encoding its operands gives back every operand bit; else the kind of refusal, where m marks the
fixed bits that select an operand's kind. -/
def fixedBits (b enc m : Body) (i : Instr) : Except DecodeError Instr :=
  if enc = b then .ok i else if (b ^^^ enc) &&& m = 0 then .error .bits else .error .value

/-- Opcode map of class A (R222). -/
def decodeA (op : BitVec 7) (b : Body) (xs : List XPay) : Except DecodeError Instr :=
  match op with
  | 0x00#7 => let o := Rrr.ofBody b; fixedBits b o.toBody 0x0 (.add o)
  | 0x01#7 => let o := Rrr.ofBody b; fixedBits b o.toBody 0x0 (.sub o)
  | 0x02#7 => let o := Rrr.ofBody b; fixedBits b o.toBody 0x0 (.mul o)
  | 0x03#7 => let o := Rrr.ofBody b; fixedBits b o.toBody 0x0 (.mulh o)
  | 0x04#7 => let o := Rrr.ofBody b; fixedBits b o.toBody 0x0 (.mulhu o)
  | 0x05#7 => let o := Rrr.ofBody b; fixedBits b o.toBody 0x0 (.div o)
  | 0x06#7 => let o := Rrr.ofBody b; fixedBits b o.toBody 0x0 (.divu o)
  | 0x07#7 => let o := Rrr.ofBody b; fixedBits b o.toBody 0x0 (.rem o)
  | 0x08#7 => let o := Rrr.ofBody b; fixedBits b o.toBody 0x0 (.remu o)
  | 0x09#7 => let o := Rrr.ofBody b; fixedBits b o.toBody 0x0 (.and o)
  | 0x0A#7 => let o := Rrr.ofBody b; fixedBits b o.toBody 0x0 (.or o)
  | 0x0B#7 => let o := Rrr.ofBody b; fixedBits b o.toBody 0x0 (.xor o)
  | 0x0C#7 => let o := Rrr.ofBody b; fixedBits b o.toBody 0x0 (.andn o)
  | 0x0D#7 => let o := Rrr.ofBody b; fixedBits b o.toBody 0x0 (.shl o)
  | 0x0E#7 => let o := Rrr.ofBody b; fixedBits b o.toBody 0x0 (.shr o)
  | 0x0F#7 => let o := Rrr.ofBody b; fixedBits b o.toBody 0x0 (.sra o)
  | 0x10#7 => let o := Rrr.ofBody b; fixedBits b o.toBody 0x0 (.rol o)
  | 0x11#7 => let o := Rrr.ofBody b; fixedBits b o.toBody 0x0 (.min o)
  | 0x12#7 => let o := Rrr.ofBody b; fixedBits b o.toBody 0x0 (.max o)
  | 0x13#7 => let o := Rrr.ofBody b; fixedBits b o.toBody 0x0 (.minu o)
  | 0x14#7 => let o := Rrr.ofBody b; fixedBits b o.toBody 0x0 (.maxu o)
  | 0x15#7 => let o := RrrCond.ofBody b; fixedBits b o.toBody 0x0 (.cmp o)
  | 0x16#7 => let o := RrrPred.ofBody b; fixedBits b o.toBody 0x0 (.sel o)
  | 0x17#7 => let o := PredOps.ofBody b; fixedBits b o.toBody 0x0 (.plog o)
  | 0x18#7 => let o := Rr.ofBody b; fixedBits b o.toBody 0x0 (.clz o)
  | 0x19#7 => let o := Rr.ofBody b; fixedBits b o.toBody 0x0 (.ctz o)
  | 0x1A#7 => let o := Rr.ofBody b; fixedBits b o.toBody 0x0 (.popc o)
  | 0x20#7 => let o := Ri.ofBody b; fixedBits b o.toBody 0x0 (.addi o xs)
  | 0x21#7 => let o := RiCond.ofBody b; fixedBits b o.toBody 0x0 (.cmpi o xs)
  | 0x22#7 => let o := Imm15.ofBody b; fixedBits b o.toBody 0x0 (.li o xs)
  | _ => .error .opcode

/-- Opcode map of class F (R223). -/
def decodeF (op : BitVec 7) (b : Body) (xs : List XPay) : Except DecodeError Instr :=
  match op with
  | 0x00#7 => let o := RrrRound.ofBody b; fixedBits b o.toBody 0x0 (.fadd o)
  | 0x01#7 => let o := RrrRound.ofBody b; fixedBits b o.toBody 0x0 (.fsub o)
  | 0x02#7 => let o := RrrRound.ofBody b; fixedBits b o.toBody 0x0 (.fmul o)
  | 0x03#7 => let o := RrrRound.ofBody b; fixedBits b o.toBody 0x0 (.fma o)
  | 0x04#7 => let o := RrrPlain.ofBody b; fixedBits b o.toBody 0x7 (.fmin o)
  | 0x05#7 => let o := RrrPlain.ofBody b; fixedBits b o.toBody 0x7 (.fmax o)
  | 0x06#7 => let o := RrrCond.ofBody b; fixedBits b o.toBody 0x0 (.fcmp o)
  | 0x07#7 => let o := RrRound.ofBody b; fixedBits b o.toBody 0x0 (.fcvt o xs)
  | _ => .error .opcode

/-- Opcode map of class M (R224). -/
def decodeM (op : BitVec 7) (b : Body) (xs : List XPay) : Except DecodeError Instr :=
  match op with
  | 0x00#7 => let o := LoadOps.ofBody b; fixedBits b o.toBody 0x0 (.ld o xs)
  | 0x01#7 => let o := StoreOps.ofBody b; fixedBits b o.toBody 0x0 (.st o xs)
  | 0x02#7 => let o := AcqOps.ofBody b; fixedBits b o.toBody 0x0 (.lda o xs)
  | 0x03#7 => let o := RelOps.ofBody b; fixedBits b o.toBody 0x0 (.str o xs)
  | 0x04#7 => let o := LoadOps.ofBody b; fixedBits b o.toBody 0x0 (.lde o xs)
  | 0x05#7 => let o := LoadOps.ofBody b; fixedBits b o.toBody 0x0 (.ldeC o xs)
  | 0x06#7 => let o := StoreOps.ofBody b; fixedBits b o.toBody 0x0 (.stf o xs)
  | 0x07#7 => let o := TwoSrc.ofBody b; fixedBits b o.toBody 0x0 (.grset o)
  | 0x08#7 => let o := TwoSrc.ofBody b; fixedBits b o.toBody 0x0 (.grclr o)
  | 0x09#7 => let o := PrefOps.ofBody b; fixedBits b o.toBody 0x0 (.pref o xs)
  | 0x0A#7 => let o := ScopeOps.ofBody b; fixedBits b o.toBody 0x0 (.fence o)
  | 0x0B#7 => let o := DstSrc.ofBody b; fixedBits b o.toBody 0x0 (.tlook o)
  | 0x0C#7 => let o := TwoSrc.ofBody b; fixedBits b o.toBody 0x0 (.tfill o)
  | 0x0D#7 => let o := OneSrc.ofBody b; fixedBits b o.toBody 0x0 (.tevict o)
  | 0x0E#7 => let o := SpecGet.ofBody b; fixedBits b o.toBody 0x0 (.mfs o)
  | 0x0F#7 => let o := SpecPut.ofBody b; fixedBits b o.toBody 0x0 (.mts o)
  | 0x10#7 => let o := AmoOps.ofBody b; fixedBits b o.toBody 0x0 (.amoAdd o)
  | 0x11#7 => let o := AmoOps.ofBody b; fixedBits b o.toBody 0x0 (.amoAnd o)
  | 0x12#7 => let o := AmoOps.ofBody b; fixedBits b o.toBody 0x0 (.amoOr o)
  | 0x13#7 => let o := AmoOps.ofBody b; fixedBits b o.toBody 0x0 (.amoXor o)
  | 0x14#7 => let o := AmoOps.ofBody b; fixedBits b o.toBody 0x0 (.amoMin o)
  | 0x15#7 => let o := AmoOps.ofBody b; fixedBits b o.toBody 0x0 (.amoMax o)
  | 0x16#7 => let o := AmoOps.ofBody b; fixedBits b o.toBody 0x0 (.amoMinu o)
  | 0x17#7 => let o := AmoOps.ofBody b; fixedBits b o.toBody 0x0 (.amoMaxu o)
  | 0x18#7 => let o := AmoOps.ofBody b; fixedBits b o.toBody 0x0 (.amoSwp o)
  | 0x19#7 => let o := AmoOps.ofBody b; fixedBits b o.toBody 0x0 (.amoCas o)
  | 0x1A#7 => let o := AmoOps.ofBody b; fixedBits b o.toBody 0x0 (.amoFadd o)
  | 0x1B#7 => let o := AmoOps.ofBody b; fixedBits b o.toBody 0x0 (.amoFmax o)
  | 0x20#7 => let o := AmoOps.ofBody b; fixedBits b o.toBody 0x0 (.amoAddD o)
  | 0x21#7 => let o := AmoOps.ofBody b; fixedBits b o.toBody 0x0 (.amoAndD o)
  | 0x22#7 => let o := AmoOps.ofBody b; fixedBits b o.toBody 0x0 (.amoOrD o)
  | 0x23#7 => let o := AmoOps.ofBody b; fixedBits b o.toBody 0x0 (.amoXorD o)
  | 0x24#7 => let o := AmoOps.ofBody b; fixedBits b o.toBody 0x0 (.amoMinD o)
  | 0x25#7 => let o := AmoOps.ofBody b; fixedBits b o.toBody 0x0 (.amoMaxD o)
  | 0x26#7 => let o := AmoOps.ofBody b; fixedBits b o.toBody 0x0 (.amoMinuD o)
  | 0x27#7 => let o := AmoOps.ofBody b; fixedBits b o.toBody 0x0 (.amoMaxuD o)
  | 0x28#7 => let o := AmoOps.ofBody b; fixedBits b o.toBody 0x0 (.amoSwpD o)
  | 0x29#7 => let o := AmoOps.ofBody b; fixedBits b o.toBody 0x0 (.amoCasD o)
  | _ => .error .opcode

/-- Opcode map of class B (R225). -/
def decodeB (op : BitVec 7) (b : Body) (xs : List XPay) : Except DecodeError Instr :=
  match op with
  | 0x00#7 => let o := Jump.ofBody b; fixedBits b o.toBody 0x0 (.br o xs)
  | 0x01#7 => let o := BranchOps.ofBody b; fixedBits b o.toBody 0x0 (.bc o xs)
  | 0x02#7 => let o := Jump.ofBody b; fixedBits b o.toBody 0x0 (.bcall o xs)
  | 0x03#7 => let o := RetOps.ofBody b; fixedBits b o.toBody 0x0 (.ret o)
  | 0x04#7 =>
    if b.getLsbD 8 then (let o := LoopImm.ofBody b; fixedBits b o.toBody 0x0 (.loopImm o xs))
    else (let o := LoopReg.ofBody b xs; fixedBits b o.toBody 0x0 (.loop o))
  | 0x05#7 => fixedBits b 0 0 .exit
  | 0x06#7 => fixedBits b 0 0 .trig
  | 0x07#7 => fixedBits b 0 0 .yield
  | 0x08#7 => let o := Code8.ofBody b; fixedBits b o.toBody 0x0 (.trap o)
  | 0x09#7 => fixedBits b 0 0 .eret
  | 0x0A#7 => fixedBits b 0 0 .nop
  | 0x0B#7 => let o := Count16.ofBody b; fixedBits b o.toBody 0x0 (.sleep o)
  | _ => .error .opcode

/-- Opcode map of class C (R226). -/
def decodeC (op : BitVec 7) (b : Body) : Except DecodeError Instr :=
  match op with
  | 0x00#7 => let o := CpyOps.ofBody b; fixedBits b o.toBody 0x0 (.cpy o)
  | 0x01#7 => let o := CpyxOps.ofBody b; fixedBits b o.toBody 0x0 (.cpyx o)
  | 0x02#7 => let o := WaitOps.ofBody b; fixedBits b o.toBody 0x0 (.waitid o)
  | 0x03#7 => let o := RrrPred.ofBody b; fixedBits b o.toBody 0x0 (.winit o)
  | 0x04#7 => let o := WellTwo.ofBody b; fixedBits b o.toBody 0x0 (.warr o)
  | 0x05#7 => let o := WellOne.ofBody b; fixedBits b o.toBody 0x0 (.wdrop o)
  | 0x06#7 => let o := WellTwo.ofBody b; fixedBits b o.toBody 0x0 (.wwait o)
  | 0x07#7 => let o := WellTest.ofBody b; fixedBits b o.toBody 0x0 (.wtest o)
  | 0x08#7 => let o := RrrPlain.ofBody b; fixedBits b o.toBody 0x0 (.qpost o)
  | 0x09#7 => let o := BulkOps.ofBody b; fixedBits b o.toBody 0x0 (.bopen o)
  | 0x0A#7 => let o := BulkOps.ofBody b; fixedBits b o.toBody 0x0 (.bclose o)
  | _ => .error .opcode

/-- Opcode map of class E (R227). -/
def decodeE (op : BitVec 7) (b : Body) : Except DecodeError Instr :=
  match op with
  | 0x00#7 => let o := ElwOps.ofBody b; fixedBits b o.toBody 0x0 (.elw o)
  | 0x01#7 => let o := ElnOps.ofBody b; fixedBits b o.toBody 0x0 (.eln o)
  | 0x02#7 => let o := EweOps.ofBody b; fixedBits b o.toBody 0x0 (.ewe o)
  | 0x03#7 => let o := EwsOps.ofBody b; fixedBits b o.toBody 0x0 (.ews o)
  | 0x04#7 => let o := Mask4.ofBody b; fixedBits b o.toBody 0x0 (.edrain o)
  | _ => .error .opcode

/-- Opcode map of class W (R228). -/
def decodeW (op : BitVec 7) (b : Body) (xs : List XPay) : Except DecodeError Instr :=
  match op with
  | 0x00#7 => let o := WUnaryMod.ofBody b; fixedBits b o.toBody 0x0 (.mov o xs)
  | 0x01#7 => let o := WUnaryMod.ofBody b; fixedBits b o.toBody 0x0 (.movh o xs)
  | 0x02#7 => let o := WLds.ofBody b; fixedBits b o.toBody 0x0 (.lds o xs)
  | 0x03#7 => let o := WSts.ofBody b; fixedBits b o.toBody 0x0 (.sts o xs)
  | 0x04#7 => let o := WImm.ofBody b; fixedBits b o.toBody 0x0 (.imm o xs)
  | 0x05#7 => let o := WDst.ofBody b; fixedBits b o.toBody 0x0 (.rowcol o xs)
  | 0x06#7 => let o := WBinMod.ofBody b; fixedBits b o.toBody 0x0 (.perm o xs)
  | 0x07#7 => let o := WBinMod.ofBody b; fixedBits b o.toBody 0x0 (.pack o xs)
  | 0x08#7 => let o := WUnaryMod.ofBody b; fixedBits b o.toBody 0x0 (.unpk o xs)
  | 0x09#7 => let o := WCvt.ofBody b; fixedBits b o.toBody 0x0 (.cvt o xs)
  | 0x0A#7 => let o := WQlog.ofBody b; fixedBits b o.toBody 0x0 (.qlog o xs)
  | 0x0B#7 => let o := WQset.ofBody b; fixedBits b o.toBody 0x0 (.qset o xs)
  | 0x10#7 => let o := WBin.ofBody b; fixedBits b o.toBody 0x0 (.cellFadd o xs)
  | 0x11#7 => let o := WBin.ofBody b; fixedBits b o.toBody 0x0 (.cellFsub o xs)
  | 0x12#7 => let o := WBin.ofBody b; fixedBits b o.toBody 0x0 (.cellFmul o xs)
  | 0x13#7 => let o := WBin.ofBody b; fixedBits b o.toBody 0x0 (.cellFma o xs)
  | 0x14#7 => let o := WBin.ofBody b; fixedBits b o.toBody 0x0 (.cellFmin o xs)
  | 0x15#7 => let o := WBin.ofBody b; fixedBits b o.toBody 0x0 (.cellFmax o xs)
  | 0x16#7 => let o := WBinMod.ofBody b; fixedBits b o.toBody 0x0 (.fsgn o xs)
  | 0x17#7 => let o := WBinMod.ofBody b; fixedBits b o.toBody 0x0 (.cellFcmp o xs)
  | 0x18#7 => let o := WBinMod.ofBody b; fixedBits b o.toBody 0x0 (.fsel o xs)
  | 0x19#7 => let o := WUnary.ofBody b; fixedBits b o.toBody 0x0 (.frcp o xs)
  | 0x1A#7 => let o := WUnary.ofBody b; fixedBits b o.toBody 0x0 (.frsq o xs)
  | 0x1B#7 => let o := WUnary.ofBody b; fixedBits b o.toBody 0x0 (.fsqrt o xs)
  | 0x1C#7 => let o := WBin.ofBody b; fixedBits b o.toBody 0x0 (.fdiv o xs)
  | 0x1D#7 => let o := WUnary.ofBody b; fixedBits b o.toBody 0x0 (.fexp2 o xs)
  | 0x1E#7 => let o := WUnary.ofBody b; fixedBits b o.toBody 0x0 (.flog2 o xs)
  | 0x1F#7 => let o := WUnaryMod.ofBody b; fixedBits b o.toBody 0x0 (.fsum o xs)
  | 0x20#7 => let o := WBinMod.ofBody b; fixedBits b o.toBody 0x0 (.iadd o xs)
  | 0x21#7 => let o := WBinMod.ofBody b; fixedBits b o.toBody 0x0 (.isub o xs)
  | 0x22#7 => let o := WBinMod.ofBody b; fixedBits b o.toBody 0x0 (.imul o xs)
  | 0x23#7 => let o := WBin.ofBody b; fixedBits b o.toBody 0x3 (.iand o xs)
  | 0x24#7 => let o := WBin.ofBody b; fixedBits b o.toBody 0x3 (.ior o xs)
  | 0x25#7 => let o := WBin.ofBody b; fixedBits b o.toBody 0x3 (.ixor o xs)
  | 0x26#7 => let o := WBin.ofBody b; fixedBits b o.toBody 0x3 (.ishl o xs)
  | 0x27#7 => let o := WBin.ofBody b; fixedBits b o.toBody 0x3 (.ishr o xs)
  | 0x28#7 => let o := WBin.ofBody b; fixedBits b o.toBody 0x3 (.isra o xs)
  | 0x29#7 => let o := WBinMod.ofBody b; fixedBits b o.toBody 0x0 (.imin o xs)
  | 0x2A#7 => let o := WBinMod.ofBody b; fixedBits b o.toBody 0x0 (.imax o xs)
  | 0x2B#7 => let o := WBinMod.ofBody b; fixedBits b o.toBody 0x0 (.icmp o xs)
  | 0x30#7 => let o := WScl.ofBody b; fixedBits b o.toBody 0x0 (.scl o)
  | 0x31#7 => let o := WMac.ofBody b; fixedBits b o.toBody 0xe0000 (.mac o xs)
  | 0x32#7 => let o := WMacH.ofBody b; fixedBits b o.toBody 0xe0000 (.macs o xs)
  | 0x33#7 => let o := WMacH.ofBody b; fixedBits b o.toBody 0xe0000 (.macv o xs)
  | 0x34#7 => let o := WVbeg.ofBody b; fixedBits b o.toBody 0xe0000 (.vbeg o xs)
  | 0x35#7 => let o := WVthr.ofBody b; fixedBits b o.toBody 0x0 (.vthr o)
  | 0x36#7 => let o := WAccz.ofBody b; fixedBits b o.toBody 0xe0000 (.accz o)
  | 0x37#7 => let o := WAccrd.ofBody b; fixedBits b o.toBody 0x7000 (.accrd o xs)
  | 0x38#7 => let o := WAccwr.ofBody b; fixedBits b o.toBody 0xe0000 (.accwr o xs)
  | 0x39#7 => let o := WAmax.ofBody b; fixedBits b o.toBody 0x7002 (.amax o xs)
  | 0x3A#7 => let o := WUnaryMod.ofBody b; fixedBits b o.toBody 0x0 (.vtest o xs)
  | 0x3B#7 => let o := WBinMod.ofBody b; fixedBits b o.toBody 0x0 (.cellVsel o xs)
  | 0x40#7 => let o := Tile1.ofBody b; fixedBits b o.toBody 0x88000 (.lup o)
  | 0x41#7 => let o := Tile1.ofBody b; fixedBits b o.toBody 0x88000 (.chol o)
  | 0x42#7 => let o := Tile2.ofBody b; fixedBits b o.toBody 0x88000 (.qrh o)
  | 0x43#7 => let o := TileTri.ofBody b; fixedBits b o.toBody 0x8c400 (.trsm o)
  | 0x60#7 => let o := SelOps.ofBody b; fixedBits b o.toBody 0x0 (.seli o xs)
  | 0x61#7 => let o := SelOps.ofBody b; fixedBits b o.toBody 0x0 (.selx o)
  | 0x62#7 => let o := FlagOps.ofBody b; fixedBits b o.toBody 0x0 (.wflg o)
  | 0x63#7 => fixedBits b 0 0 .wdrain
  | 0x64#7 => let o := AddrSrc.ofBody b; fixedBits b o.toBody 0x0 (.pvst o)
  | _ => .error .opcode

/-- Opcode map of class V (R229). -/
def decodeV (op : BitVec 7) (b : Body) (xs : List XPay) : Except DecodeError Instr :=
  match op with
  | 0x00#7 => let o := VTriMod.ofBody b; fixedBits b o.toBody 0x0 (.vld o xs)
  | 0x01#7 => let o := VTriMod.ofBody b; fixedBits b o.toBody 0x0 (.vst o xs)
  | 0x02#7 => let o := VTriMod.ofBody b; fixedBits b o.toBody 0x0 (.vgth o xs)
  | 0x03#7 => let o := VTri.ofBody b; fixedBits b o.toBody 0x0 (.vsct o xs)
  | 0x04#7 => let o := VTstr.ofBody b; fixedBits b o.toBody 0x0 (.tstr o xs)
  | 0x08#7 => let o := VTriMod.ofBody b; fixedBits b o.toBody 0x0 (.vadd o xs)
  | 0x09#7 => let o := VTriMod.ofBody b; fixedBits b o.toBody 0x0 (.vsub o xs)
  | 0x0A#7 => let o := VTriMod.ofBody b; fixedBits b o.toBody 0x0 (.vmul o xs)
  | 0x0B#7 => let o := VTriMod.ofBody b; fixedBits b o.toBody 0x0 (.vfma o xs)
  | 0x0C#7 => let o := VTriMod.ofBody b; fixedBits b o.toBody 0x0 (.vmin o xs)
  | 0x0D#7 => let o := VTriMod.ofBody b; fixedBits b o.toBody 0x0 (.vmax o xs)
  | 0x0E#7 => let o := VTriMod.ofBody b; fixedBits b o.toBody 0x0 (.vcmp o xs)
  | 0x0F#7 => let o := VTri.ofBody b; fixedBits b o.toBody 0x0 (.vsel o xs)
  | 0x10#7 => let o := VUnary.ofBody b; fixedBits b o.toBody 0x0 (.vcvt o xs)
  | 0x11#7 => let o := VTriMod.ofBody b; fixedBits b o.toBody 0x0 (.vred o xs)
  | 0x12#7 => let o := VTri.ofBody b; fixedBits b o.toBody 0x0 (.viota o xs)
  | 0x13#7 => let o := VTriMod.ofBody b; fixedBits b o.toBody 0x0 (.vmov o xs)
  | 0x14#7 => let o := VTri.ofBody b; fixedBits b o.toBody 0x0 (.vdedup o xs)
  | 0x15#7 => let o := VTriMod.ofBody b; fixedBits b o.toBody 0x0 (.vpool o xs)
  | 0x18#7 => let o := VTri.ofBody b; fixedBits b o.toBody 0x0 (.hgld o)
  | 0x19#7 => let o := VTri.ofBody b; fixedBits b o.toBody 0x0 (.hgsc o)
  | _ => .error .opcode

/-- One slot with the payloads of the X slots that follow it (R207, R208, R209). Field values are not judged here: that
is Instr.reservedKind. -/
def decodeSlot (w : SlotWord) (xs : List XPay) : Except DecodeError Instr :=
  let op := w.extractLsb' 20 7
  let b := w.extractLsb' 0 20
  match w.extractLsb' 27 4 with
  | 0#4 => decodeA op b xs
  | 1#4 => decodeF op b xs
  | 2#4 => decodeM op b xs
  | 3#4 => decodeB op b xs
  | 4#4 => decodeC op b
  | 5#4 => decodeE op b
  | 6#4 => decodeW op b xs
  | 7#4 => decodeV op b xs
  | 8#4 => .error .xSlot
  | _ => .error .classCode

/-- STOP, bit 31 (R207). -/
def slotStop (w : SlotWord) : Bool := w.getLsbD 31
/-- CLASS, bits [30:27] (R207). -/
def slotClass (w : SlotWord) : BitVec 4 := w.extractLsb' 27 4
/-- An X slot (R208). -/
def isXSlot (w : SlotWord) : Bool := slotClass w == 8

/-- The X slots at the head of the words that follow a slot: their payloads, whether the last of them (or the slot itself)
ends the bundle, and the rest (R209). -/
def takeX (stopped : Bool) : List SlotWord → List XPay × List SlotWord
  | [] => ([], [])
  | w :: ws =>
    if !stopped && isXSlot w then
      let r := takeX (slotStop w) ws
      (w.extractLsb' 0 27 :: r.1, r.2)
    else ([], w :: ws)

/-- The first instruction of a list of slots and the slots after it; more X slots than its form accepts are refused. -/
def decodeWords : List SlotWord → Except DecodeError (Instr × List SlotWord)
  | [] => .error .truncated
  | w :: ws =>
    let t := takeX (slotStop w) ws
    match decodeSlot w t.1 with
    | .error e => .error e
    | .ok i => if t.1.length ≤ i.maxX then .ok (i, t.2) else .error .xSlot

/-- Little-endian words of a list of bytes; bytes short of a word are dropped (R2, R206). -/
def wordsOfBytes : List Byte → List SlotWord
  | b0 :: b1 :: b2 :: b3 :: r => (b3 ++ b2 ++ b1 ++ b0) :: wordsOfBytes r
  | _ => []

/-- The bytes of a slot, as they stand in memory (R2, R206). -/
def bytesOfWord (w : SlotWord) : List Byte :=
  [w.extractLsb' 0 8, w.extractLsb' 8 8, w.extractLsb' 16 8, w.extractLsb' 24 8]

/-- The first instruction of a list of bytes. -/
def decodeBytes (bs : List Byte) : Except DecodeError Instr :=
  match decodeWords (wordsOfBytes bs) with
  | .error e => .error e
  | .ok r => .ok r.1

/-! ### The encoder -/

/-- Class, opcode and operand bits of a slot instruction; device steps have no encoding. -/
def Instr.opBody : Instr → Option (BitVec 4 × BitVec 7 × Body)
  | .add o => some (0, 0x00, o.toBody)
  | .sub o => some (0, 0x01, o.toBody)
  | .mul o => some (0, 0x02, o.toBody)
  | .mulh o => some (0, 0x03, o.toBody)
  | .mulhu o => some (0, 0x04, o.toBody)
  | .div o => some (0, 0x05, o.toBody)
  | .divu o => some (0, 0x06, o.toBody)
  | .rem o => some (0, 0x07, o.toBody)
  | .remu o => some (0, 0x08, o.toBody)
  | .and o => some (0, 0x09, o.toBody)
  | .or o => some (0, 0x0A, o.toBody)
  | .xor o => some (0, 0x0B, o.toBody)
  | .andn o => some (0, 0x0C, o.toBody)
  | .shl o => some (0, 0x0D, o.toBody)
  | .shr o => some (0, 0x0E, o.toBody)
  | .sra o => some (0, 0x0F, o.toBody)
  | .rol o => some (0, 0x10, o.toBody)
  | .min o => some (0, 0x11, o.toBody)
  | .max o => some (0, 0x12, o.toBody)
  | .minu o => some (0, 0x13, o.toBody)
  | .maxu o => some (0, 0x14, o.toBody)
  | .cmp o => some (0, 0x15, o.toBody)
  | .sel o => some (0, 0x16, o.toBody)
  | .plog o => some (0, 0x17, o.toBody)
  | .clz o => some (0, 0x18, o.toBody)
  | .ctz o => some (0, 0x19, o.toBody)
  | .popc o => some (0, 0x1A, o.toBody)
  | .addi o _ => some (0, 0x20, o.toBody)
  | .cmpi o _ => some (0, 0x21, o.toBody)
  | .li o _ => some (0, 0x22, o.toBody)
  | .fadd o => some (1, 0x00, o.toBody)
  | .fsub o => some (1, 0x01, o.toBody)
  | .fmul o => some (1, 0x02, o.toBody)
  | .fma o => some (1, 0x03, o.toBody)
  | .fmin o => some (1, 0x04, o.toBody)
  | .fmax o => some (1, 0x05, o.toBody)
  | .fcmp o => some (1, 0x06, o.toBody)
  | .fcvt o _ => some (1, 0x07, o.toBody)
  | .ld o _ => some (2, 0x00, o.toBody)
  | .st o _ => some (2, 0x01, o.toBody)
  | .lda o _ => some (2, 0x02, o.toBody)
  | .str o _ => some (2, 0x03, o.toBody)
  | .lde o _ => some (2, 0x04, o.toBody)
  | .ldeC o _ => some (2, 0x05, o.toBody)
  | .stf o _ => some (2, 0x06, o.toBody)
  | .grset o => some (2, 0x07, o.toBody)
  | .grclr o => some (2, 0x08, o.toBody)
  | .pref o _ => some (2, 0x09, o.toBody)
  | .fence o => some (2, 0x0A, o.toBody)
  | .tlook o => some (2, 0x0B, o.toBody)
  | .tfill o => some (2, 0x0C, o.toBody)
  | .tevict o => some (2, 0x0D, o.toBody)
  | .mfs o => some (2, 0x0E, o.toBody)
  | .mts o => some (2, 0x0F, o.toBody)
  | .amoAdd o => some (2, 0x10, o.toBody)
  | .amoAnd o => some (2, 0x11, o.toBody)
  | .amoOr o => some (2, 0x12, o.toBody)
  | .amoXor o => some (2, 0x13, o.toBody)
  | .amoMin o => some (2, 0x14, o.toBody)
  | .amoMax o => some (2, 0x15, o.toBody)
  | .amoMinu o => some (2, 0x16, o.toBody)
  | .amoMaxu o => some (2, 0x17, o.toBody)
  | .amoSwp o => some (2, 0x18, o.toBody)
  | .amoCas o => some (2, 0x19, o.toBody)
  | .amoFadd o => some (2, 0x1A, o.toBody)
  | .amoFmax o => some (2, 0x1B, o.toBody)
  | .amoAddD o => some (2, 0x20, o.toBody)
  | .amoAndD o => some (2, 0x21, o.toBody)
  | .amoOrD o => some (2, 0x22, o.toBody)
  | .amoXorD o => some (2, 0x23, o.toBody)
  | .amoMinD o => some (2, 0x24, o.toBody)
  | .amoMaxD o => some (2, 0x25, o.toBody)
  | .amoMinuD o => some (2, 0x26, o.toBody)
  | .amoMaxuD o => some (2, 0x27, o.toBody)
  | .amoSwpD o => some (2, 0x28, o.toBody)
  | .amoCasD o => some (2, 0x29, o.toBody)
  | .br o _ => some (3, 0x00, o.toBody)
  | .bc o _ => some (3, 0x01, o.toBody)
  | .bcall o _ => some (3, 0x02, o.toBody)
  | .ret o => some (3, 0x03, o.toBody)
  | .loop o => some (3, 0x04, o.toBody)
  | .loopImm o _ => some (3, 0x04, o.toBody)
  | .exit => some (3, 0x05, 0)
  | .trig => some (3, 0x06, 0)
  | .yield => some (3, 0x07, 0)
  | .trap o => some (3, 0x08, o.toBody)
  | .eret => some (3, 0x09, 0)
  | .nop => some (3, 0x0A, 0)
  | .sleep o => some (3, 0x0B, o.toBody)
  | .cpy o => some (4, 0x00, o.toBody)
  | .cpyx o => some (4, 0x01, o.toBody)
  | .waitid o => some (4, 0x02, o.toBody)
  | .winit o => some (4, 0x03, o.toBody)
  | .warr o => some (4, 0x04, o.toBody)
  | .wdrop o => some (4, 0x05, o.toBody)
  | .wwait o => some (4, 0x06, o.toBody)
  | .wtest o => some (4, 0x07, o.toBody)
  | .qpost o => some (4, 0x08, o.toBody)
  | .bopen o => some (4, 0x09, o.toBody)
  | .bclose o => some (4, 0x0A, o.toBody)
  | .elw o => some (5, 0x00, o.toBody)
  | .eln o => some (5, 0x01, o.toBody)
  | .ewe o => some (5, 0x02, o.toBody)
  | .ews o => some (5, 0x03, o.toBody)
  | .edrain o => some (5, 0x04, o.toBody)
  | .mov o _ => some (6, 0x00, o.toBody)
  | .movh o _ => some (6, 0x01, o.toBody)
  | .lds o _ => some (6, 0x02, o.toBody)
  | .sts o _ => some (6, 0x03, o.toBody)
  | .imm o _ => some (6, 0x04, o.toBody)
  | .rowcol o _ => some (6, 0x05, o.toBody)
  | .perm o _ => some (6, 0x06, o.toBody)
  | .pack o _ => some (6, 0x07, o.toBody)
  | .unpk o _ => some (6, 0x08, o.toBody)
  | .cvt o _ => some (6, 0x09, o.toBody)
  | .qlog o _ => some (6, 0x0A, o.toBody)
  | .qset o _ => some (6, 0x0B, o.toBody)
  | .cellFadd o _ => some (6, 0x10, o.toBody)
  | .cellFsub o _ => some (6, 0x11, o.toBody)
  | .cellFmul o _ => some (6, 0x12, o.toBody)
  | .cellFma o _ => some (6, 0x13, o.toBody)
  | .cellFmin o _ => some (6, 0x14, o.toBody)
  | .cellFmax o _ => some (6, 0x15, o.toBody)
  | .fsgn o _ => some (6, 0x16, o.toBody)
  | .cellFcmp o _ => some (6, 0x17, o.toBody)
  | .fsel o _ => some (6, 0x18, o.toBody)
  | .frcp o _ => some (6, 0x19, o.toBody)
  | .frsq o _ => some (6, 0x1A, o.toBody)
  | .fsqrt o _ => some (6, 0x1B, o.toBody)
  | .fdiv o _ => some (6, 0x1C, o.toBody)
  | .fexp2 o _ => some (6, 0x1D, o.toBody)
  | .flog2 o _ => some (6, 0x1E, o.toBody)
  | .fsum o _ => some (6, 0x1F, o.toBody)
  | .iadd o _ => some (6, 0x20, o.toBody)
  | .isub o _ => some (6, 0x21, o.toBody)
  | .imul o _ => some (6, 0x22, o.toBody)
  | .iand o _ => some (6, 0x23, o.toBody)
  | .ior o _ => some (6, 0x24, o.toBody)
  | .ixor o _ => some (6, 0x25, o.toBody)
  | .ishl o _ => some (6, 0x26, o.toBody)
  | .ishr o _ => some (6, 0x27, o.toBody)
  | .isra o _ => some (6, 0x28, o.toBody)
  | .imin o _ => some (6, 0x29, o.toBody)
  | .imax o _ => some (6, 0x2A, o.toBody)
  | .icmp o _ => some (6, 0x2B, o.toBody)
  | .scl o => some (6, 0x30, o.toBody)
  | .mac o _ => some (6, 0x31, o.toBody)
  | .macs o _ => some (6, 0x32, o.toBody)
  | .macv o _ => some (6, 0x33, o.toBody)
  | .vbeg o _ => some (6, 0x34, o.toBody)
  | .vthr o => some (6, 0x35, o.toBody)
  | .accz o => some (6, 0x36, o.toBody)
  | .accrd o _ => some (6, 0x37, o.toBody)
  | .accwr o _ => some (6, 0x38, o.toBody)
  | .amax o _ => some (6, 0x39, o.toBody)
  | .vtest o _ => some (6, 0x3A, o.toBody)
  | .cellVsel o _ => some (6, 0x3B, o.toBody)
  | .lup o => some (6, 0x40, o.toBody)
  | .chol o => some (6, 0x41, o.toBody)
  | .qrh o => some (6, 0x42, o.toBody)
  | .trsm o => some (6, 0x43, o.toBody)
  | .seli o _ => some (6, 0x60, o.toBody)
  | .selx o => some (6, 0x61, o.toBody)
  | .wflg o => some (6, 0x62, o.toBody)
  | .wdrain => some (6, 0x63, 0)
  | .pvst o => some (6, 0x64, o.toBody)
  | .vld o _ => some (7, 0x00, o.toBody)
  | .vst o _ => some (7, 0x01, o.toBody)
  | .vgth o _ => some (7, 0x02, o.toBody)
  | .vsct o _ => some (7, 0x03, o.toBody)
  | .tstr o _ => some (7, 0x04, o.toBody)
  | .vadd o _ => some (7, 0x08, o.toBody)
  | .vsub o _ => some (7, 0x09, o.toBody)
  | .vmul o _ => some (7, 0x0A, o.toBody)
  | .vfma o _ => some (7, 0x0B, o.toBody)
  | .vmin o _ => some (7, 0x0C, o.toBody)
  | .vmax o _ => some (7, 0x0D, o.toBody)
  | .vcmp o _ => some (7, 0x0E, o.toBody)
  | .vsel o _ => some (7, 0x0F, o.toBody)
  | .vcvt o _ => some (7, 0x10, o.toBody)
  | .vred o _ => some (7, 0x11, o.toBody)
  | .viota o _ => some (7, 0x12, o.toBody)
  | .vmov o _ => some (7, 0x13, o.toBody)
  | .vdedup o _ => some (7, 0x14, o.toBody)
  | .vpool o _ => some (7, 0x15, o.toBody)
  | .hgld o => some (7, 0x18, o.toBody)
  | .hgsc o => some (7, 0x19, o.toBody)
  | _ => none

/-- A slot from its parts (R207). -/
def slotWord (stop : Bool) (c : BitVec 4) (op : BitVec 7) (b : Body) : SlotWord := BitVec.ofBool stop ++ c ++ op ++ b

/-- X slots with these payloads, STOP on the last (R207, R208). -/
def xWords : List XPay → List SlotWord
  | [] => []
  | x :: xs => (BitVec.ofBool xs.isEmpty ++ 8#4 ++ x) :: xWords xs

/-- The one-instruction bundle of a slot instruction: its slot and its X slots, STOP on the last. -/
def encode (i : Instr) : List SlotWord :=
  match i.opBody with
  | none => []
  | some (c, op, b) => slotWord i.xpays.isEmpty c op b :: xWords i.xpays

/-- The decoder on an instruction whose bits are w, as the opcode table numbers them: the first slot in bits 31..0, a
following word from bit 32 on; nbits bits are given and every bit above them is 0. The words are laid out little-endian, the
first at the lowest address. -/
def decodeTableWord (nbits w : Nat) : Option Instr :=
  let v := w % 2 ^ nbits
  let word (k : Nat) : SlotWord := BitVec.ofNat 32 (v / 2 ^ (32 * k))
  match decodeBytes (bytesOfWord (word 0) ++ bytesOfWord (word 1) ++ bytesOfWord (word 2)) with
  | .ok i => some i
  | .error _ => none

end Sys2Proof
end

