-- ==== Sys2Proof/Config.lean ====
section
/-! DEFINITION. What an implementation fixes and the free values: constants with no body, so that no statement can rest
on a value the specification leaves open. -/

namespace Sys2Proof.Config

/-- Free value number n: any value the specification leaves open after an instruction that goes on (R166, R458). -/
opaque freeByte : Nat → BitVec 8

/-- The format register of a bank of another module's scratchpads, by the bank's address, as a copy of a number finds it, and the sidecar
byte of a block there: state of that module, which no message brings (R135, R166). -/
opaque farBank : Nat → Nat → BitVec 32
opaque farScale : Nat → Nat → BitVec 8

/-- When a gang or task of another module ends, by module and token: a record that an access of it has left here then stands no longer, and
only that module knows the time (R201). -/
opaque gangEndsAt : Nat → Nat → Nat

/-- The partition key that the seal processor generates at the creation of a partition (R157), by its generation. -/
opaque partitionKey : Nat → BitVec 512

/-- Payload byte i of an inbound flit as a recording keeps it, a flit from its 256 recorded bytes, and input region i of a copybook at an address
that the device does not remember: the specification gives neither the bytes of a flit nor a place for the regions (R398 to R401). -/
opaque flitPayload : Flit → Nat → BitVec 8
opaque flitFrom : List (BitVec 8) → Flit
opaque lostRegion : Nat → Nat → Nat × Nat

/-- Whether a firmware image's signature verifies (R393). -/
opaque imageVerifies : List (BitVec 8) → Bool

/-- Whether a firmware image passes its self-test on an island (R484). -/
opaque selfTestPasses : Nat → List (BitVec 8) → Bool

/-- The measurement of index i that boot firmware takes (R394): indices 1 to 4, 3 and 4 over the islands' active images. -/
opaque bootMeasurement : Nat → List (Nat × List (BitVec 8)) → BitVec 512

/-- The clock in MHz to which Rhoton lowers an island above its thermal limit, or with the module past its rating, from its clock and its
temperature (R26, R481). -/
opaque loweredClock : Nat → Nat → Nat

end Sys2Proof.Config
end

