-- ==== Sys2Proof/Machine/SMap.lean ====
section
/-! DEFINITION. Sparse tables: a list of (key, value) pairs in ascending key, where a key that is not listed stands for
the table's default. One lookup and one update serve every numbered collection of the state. -/

namespace Sys2Proof.Machine

/-- A sparse table. -/
abbrev SMap (α : Type) := List (Nat × α)

/-- The value at key k, or the default d. -/
def lookup {α : Type} (d : α) (k : Nat) : SMap α → α
  | [] => d
  | (k', v) :: m => if k' = k then v else lookup d k m

/-- The table with v at key k. -/
def insertAt {α : Type} (k : Nat) (v : α) : SMap α → SMap α
  | [] => [(k, v)]
  | (k', v') :: m => if k' = k then (k, v) :: m else if k < k' then (k, v) :: (k', v') :: m else (k', v') :: insertAt k v m

/-- The table with f applied at key k. -/
def adjust {α : Type} (d : α) (k : Nat) (f : α → α) (m : SMap α) : SMap α := insertAt k (f (lookup d k m)) m

/-- The table without key k. -/
def eraseAt {α : Type} (k : Nat) (m : SMap α) : SMap α := m.filter (fun e => e.1 != k)

/-- Whether key k is listed. -/
def listed {α : Type} (k : Nat) (m : SMap α) : Bool := m.any (fun e => e.1 == k)

end Sys2Proof.Machine
end

