-- ==== Sys2Proof/Machine/State.lean ====
section
/-! DEFINITION. The state of one Timbiro T9 module as plain data, why a step can stop, and the state after module reset. -/

namespace Sys2Proof.Machine

/-- Why a step stops with a fault. Every failure the manual describes is a trap, a parking or the end of a launch, and
so a next state; only the model's own misuse stops here. -/
inductive Fault where
  /-- Raised by step when the agenda, which lists device steps from outside, begins with a slot instruction: the manual
  has no such event. Safe: the hardware never sees it. -/
  | notAnEvent
  deriving DecidableEq, Repr

/-- Why an instruction has no meaning. -/
inductive Refusal where
  /-- Raised by an arm of exec whose instruction is not modelled yet. Safe: the model stops where the hardware goes on. -/
  | notModelled (mnemonic : String)
  deriving DecidableEq, Repr

/-! ### Threads and sequencers (R16, R181) -/

/-- What a unit of work belongs to: nothing, a gang (R63) or a quill task (R182). -/
inductive Owner where
  | none
  | gang (g : Nat)
  | task (t : Nat)
  deriving DecidableEq, Repr

/-- idle: no work. run: resident. exiting: EXIT has committed and the thread waits for its acknowledgements (R263).
dropping: they have come, and its implicit drops are on their way (R178). ended: the thread has ended while its gang goes on. -/
inductive ThreadStatus where
  | idle
  | run
  | exiting
  | dropping
  | ended
  deriving DecidableEq, Repr

/-- The loop buffer (R221): the LOOP's own address, the body's first address, its bundles as fetched so far (address and
slots), its length, the next position, and the repetitions still to run, the current one included. With 0 repetitions the
bundles are skipped as they are fetched. While a trap handler runs, and after it has returned to a place outside the body, susp holds
the address the loop would issue next (R408, R431). -/
structure LoopState where
  at_ : Word
  body : Word
  entries : List (Word × List SlotWord)
  len : Nat
  pos : Nat
  remaining : Nat
  susp : Option Word
  deriving DecidableEq, Repr

/-- A trap that waits for the thread's next bundle boundary (R408), and the bundle that raised it where that has been left behind. -/
structure PendingTrap where
  cause : Nat
  info : Nat
  async : Bool
  cls : Nat
  slot : Nat
  addr : Word
  stat : BitVec 32
  bundle : Option Word
  deriving DecidableEq, Repr

/-- A thread's registers (R16, R181, R236, R406) and its place in issue. -/
structure Thread where
  x : Vector Word 32
  xfull : BitVec 32
  p : BitVec 8
  g : Vector Word 8
  v : Vector (BitVec 1024) 32
  vfull : BitVec 32
  m : Vector (BitVec 32) 8
  pc : Word
  flags : BitVec 15
  /-- The flag bits set in the latest cycle of the unit's island in which one was set, and that cycle (R57). -/
  flagSet : BitVec 8
  flagCycle : Nat
  stag : BitVec 32
  tvec : Word
  tepc : Word
  tcause : BitVec 32
  taddr : Word
  tstat : BitVec 32
  intrap : Bool
  loop : Option LoopState
  status : ThreadStatus
  owner : Owner
  /-- Not ready: its bundle blocked and nothing has happened since (R92). -/
  blocked : Bool
  /-- After YIELD: the threads that must each issue one bundle, unless they are not ready (R264). -/
  yielded : List Nat
  /-- SLEEP committed: the next bundle waits for SLEEP_EXPIRY (R264). -/
  sleeping : Bool
  /-- The cycle of its island from which the next bundle may issue (R5, R234, R264). -/
  waitUntil : Nat
  /-- Stopped at a bundle boundary by parking, a switch or the end of its launch (R88, R414, R417). -/
  stopped : Bool
  /-- WWAIT on a well of another core: the well, the phase it waits to change from, and whether the bank unit has reported it (R273). -/
  wellWait : Option (Nat × Bool × Bool)
  /-- Scope of a FENCE whose paired access has not come yet (R201, R465). -/
  fencePair : Option Nat
  traps : List PendingTrap
  /-- TRIG committed and waiting for acknowledgements: the requests it waits for (R82). -/
  trig : Option (List Nat)
  deriving DecidableEq, Repr

/-- A cached translation of a whole page (R131). -/
structure TlbEntry where
  part : Nat
  vbase : Nat
  size : Nat
  pbase : Nat
  cls : Nat
  kslot : Nat
  w : Bool
  x : Bool
  deriving DecidableEq, Repr

/-- A sequencer: four threads, the thread that holds issue (R92), SLOTMAP (R219), its translation buffer (R131), the
physical units that have failed with the stage in which each fails (R448), and whether the sequencer is retired (R14, R482). -/
structure Seq where
  threads : Vector Thread 4
  cur : Nat
  slotmap : BitVec 8
  tlb : List TlbEntry
  /-- Physical units that have failed: bit 2 · class code + number (R448). -/
  broken : BitVec 16
  /-- The stage in which a failed unit fails, by its bit: 0 check, 1 read, 2 translate, 3 after commit (R448). -/
  stages : SMap Nat
  retired : Bool
  /-- The cycle of its island from which it may issue again: one bundle issues in a cycle (R5, R92). -/
  freeAt : Nat
  deriving DecidableEq, Repr

/-! ### The array of a core (R96) -/

/-- One accumulator: its elements, its inner sums with their count and the element widths of the pair that added to them last, 0
for INT8 (R58, R323), and its bias latch (R38). -/
structure AccState where
  el : BitVec 2048
  inner : BitVec 1536
  kc : Nat
  widthA : Nat
  widthB : Nat
  bias : Option (BitVec 17)
  deriving DecidableEq, Repr

/-- The verdict state of a cell but for its threshold (R326): the accumulator, the predicate, the block counts, and the elements
decided below and above. -/
structure VerdictAcc where
  acc : Nat
  pred : Nat
  nb : Nat
  done : Nat
  below : BitVec 64
  above : BitVec 64
  deriving DecidableEq, Repr

/-- A cell (R96). -/
structure Cell where
  f : Vector (BitVec 256) 16
  c : Vector AccState 4
  va : Option VerdictAcc
  scaleA : BitVec 8
  scaleB : BitVec 8
  tailA : BitVec 8
  tailB : BitVec 8
  vthr : BitVec 32
  h0 : BitVec 256
  h1 : BitVec 256
  q : BitVec 4
  flags : BitVec 8
  s : BitVec 32
  store : SMap (BitVec 256)
  deriving DecidableEq, Repr

/-- A tensor header as an edge unit or a copy read it (R309). -/
structure Header where
  base : Nat
  fmt : BitVec 4
  pfmt : BitVec 4
  cls : Nat
  kslot : Nat
  mord : Bool
  bm : Bool
  kax : Bool
  rsv : Bool
  rnd : BitVec 3
  bias : BitVec 16
  permid : BitVec 16
  rows : Nat
  cols : Nat
  rpitch : Nat
  scale : Nat
  tail : Nat
  amax : Nat
  bmlen : Nat
  bmovf : Bool
  bmcap : Nat
  deriving DecidableEq, Repr

/-- Who issued something: unit, thread, owner, and the bundle, class and slot that a record names (R412). -/
structure Issue where
  unit : Nat
  thr : Nat
  owner : Owner
  bundle : Word
  cls : Nat
  slot : Nat
  deriving DecidableEq, Repr

/-- How a tensor is stored: its storage format, for a bank of format NM its element format and group size, and whether its scales
stand in a sidecar (R134 to R136, R310). -/
structure StoreForm where
  fmt : BitVec 4
  elem : BitVec 4
  nmr : Bool
  side : Bool
  deriving DecidableEq, Repr

/-- A tensor of a stream: its header's address, the header once read and checked, its storage, the core and scratchpad offset of
BASE, SCALE and TAIL, a writer's elements that wait for the rest of their block or for the stream's close, its bytes of data and
of scales that wait for the rest of their granule, and the sidecar scales that go with those bytes (R118, R119, R135, R138, R309,
R310). -/
structure StreamEnd where
  hdrVa : Nat
  hdr : Option Header
  form : StoreForm
  home : Nat × Nat
  scaleHome : Nat × Nat
  tailHome : Nat × Nat
  elems : SMap Nat
  pending : SMap Byte
  scales : SMap Byte
  sides : SMap Byte
  deriving DecidableEq, Repr

/-- A stream of an edge unit (R312): who programmed it and how, its tensor and the transposed one of STASH, whether it has become
active, the groups of pieces it has in all, has given or been assigned, and has written, the running maximum with the numbers of
its AMO.FMAX that are out, whether it is to close, and how far its close has come: 1 everything is written, 2 the last AMO.FMAX is
sent (R121, R319). -/
structure Stream where
  sid : Nat
  by_ : Issue
  /-- Writes of the thread that the header's reading waits for (R312). -/
  after : List Nat
  panel : Bool
  prune : Nat
  bitmap : Bool
  stash : Bool
  fst : StreamEnd
  snd : StreamEnd
  live : Bool
  total : Nat
  taken : Nat
  written : Nat
  amax : BitVec 32
  sent : Nat
  amaxOut : List Nat
  finished : Bool
  closing : Bool
  phase : Nat
  deriving DecidableEq, Repr

/-- An edge unit: its open streams, oldest first, and for a writer the captured pieces not yet written (stream, piece
number, line, value), and the unit's stochastic-rounding state (R44, R118, R312, R319). -/
structure EdgeUnit where
  rs : BitVec 32
  streams : List Stream
  buffer : List (Nat × Nat × Nat × BitVec 256)
  deriving DecidableEq, Repr

/-- An instruction in the nib, with the x register values its W slot read at issue (R107, R203). -/
structure NibEntry where
  wid : Nat
  instr : Instr
  by_ : Issue
  x0 : Word
  x1 : Word
  word : SlotWord
  /-- The first cycle in which it may leave. -/
  since : Nat
  deriving DecidableEq, Repr

/-- One loader's share of a pull (R104): its core, the stream as it stood, the number of the group of pieces, and the loader's
stochastic-rounding state before the group (R44). -/
structure Pull where
  core : Nat
  stm : Stream
  num : Nat
  rs : BitVec 32
  deriving DecidableEq, Repr

/-- The aggregate of a wave instruction for each of q0..q3: some executing cell had 0, some had 1, rows and columns with a
1 (R105). -/
structure Aggregate where
  anyZero : BitVec 4
  anyOne : BitVec 4
  rows : SMap (BitVec 64)
  cols : SMap (BitVec 64)
  deriving DecidableEq, Repr

/-- An instruction on its way through the grid: its selector copy and operand biases, its pulls by array row or column, the streams
and groups that capture it by array row or column, the wave cycles since it left the nib, its aggregate, and the hand-off
registers it left at the east and south sides of arrays (R97, R101, R104, R105, R111, R118, R318). -/
structure WaveEntry where
  wid : Nat
  instr : Instr
  by_ : Issue
  x0 : Word
  x1 : Word
  sel : Word
  beta : Int
  west : List Pull
  north : List Pull
  east : SMap (Nat × Nat)
  south : SMap (Nat × Nat)
  elapsed : Nat
  agg : Aggregate
  trail : SMap (BitVec 256 × BitVec 256)
  /-- Its launch has ended: a piece that is not ready never comes (R417). -/
  forfeit : Bool
  deriving DecidableEq, Repr

/-- A WFLG that waits for the aggregate of a wave instruction (R106, R306). -/
structure WflgWait where
  wid : Nat
  thr : Nat
  dst : Nat
  md : Nat
  qidx : Nat
  deriving DecidableEq, Repr

/-- A library stroke that is expanding: its instruction, the steps done, and the running values of R338, R339 and R474. -/
structure Stroke where
  instr : Instr
  by_ : Issue
  word : SlotWord
  wid : Nat
  prog : Nat
  maxA : BitVec 32
  maxU : BitVec 32
  failed : Bool
  event : Bool
  /-- Its first instruction has left the nib (R337). -/
  begun : Bool
  /-- A step is under way: the island cycle in which its last instruction passes the last cell and PROG rises (R122, R336). -/
  due : Option Nat
  deriving DecidableEq, Repr

/-- The chain a core is in (R65, R109): the cores by chain position, and its arrays by rows and columns. -/
structure Grid where
  cores : List Nat
  ha : Nat
  wa : Nat
  deriving DecidableEq, Repr

/-- The array, edge units, scratchpad bookkeeping and shared core registers of a core. -/
structure CoreArr where
  cells : SMap Cell
  /-- The chain the core was last dispatched in. -/
  grid : Grid
  nib : List NibEntry
  wave : List WaveEntry
  nextWid : Nat
  lastWid : Option Nat
  /-- Aggregates of instructions that have passed the last cell, each with the arithmetic cycle in which it becomes valid; and the
  latest that is valid (R106). -/
  doneAggs : SMap (Nat × Aggregate)
  validAgg : Option (Nat × Aggregate)
  wflgs : List WflgWait
  stroke : Option Stroke
  /-- The last stroke has left the nib: the island cycle in which its last step completes (R122). -/
  progDue : Option Nat
  west : EdgeUnit
  north : EdgeUnit
  east : EdgeUnit
  south : EdgeUnit
  nextSid : Nat
  /-- The arithmetic cycle of the chain's next wave cycle (R97). -/
  waveAt : Nat
  /-- The hold line is raised, for a loader piece (false) or a writer buffer (true), at a grid row and column (R108). -/
  hold : Option (Bool × Nat × Nat)
  /-- The cycle of its island from which the count of the hold's cycles runs (R441). -/
  holdFrom : Nat
  /-- A fault has been found in the wave: the wave cycles since (R437). -/
  waveFault : Option Nat
  prog : BitVec 64
  pivstat : BitVec 32
  growth : BitVec 32
  vthr : BitVec 32
  pv : Vector Word 8
  bfmt : Vector (BitVec 32) 16
  tags : SMap Word
  full : SMap Bool
  gpoison : SMap Bool
  sidecar : SMap Byte
  /-- The first cycle of the core's island in which its bank unit has not applied requests yet (R140, R249). -/
  bankAt : Nat
  gang : Option Nat
  rank : Nat
  /-- The core is unusable until its island restarts or REPAIR acts (R481, R482). -/
  down : Bool
  /-- The switch that saves this core: depth (true: EVICT) and save base of the core (R87, R475). -/
  saving : Option (Bool × Nat)
  /-- What the core saves is on its way to the save area (R90). -/
  saveOut : Bool
  deriving DecidableEq, Repr

/-! ### Memory-side state -/

/-- The key of a line: a partition's key of one generation, or a key slot's key of one generation (R157, R158). -/
inductive Key where
  | partition (p gen : Nat)
  | slot (k gen : Nat)
  deriving DecidableEq, Repr

/-- The latest synchronisation access to a line (R201): its scope, and its issuer's module, node, requester number, thread and gang. -/
structure ScopeRec where
  scope : Nat
  modl : Nat
  node : Nat
  unit : Nat
  thr : Nat
  owner : Owner
  deriving DecidableEq, Repr

/-- What travels with a line (R156, R190, R201, R469): its sequence tag, poison, scope record, and the key it is encrypted with. -/
structure LineMeta where
  tag : BitVec 32
  poison : Bool
  srec : Option ScopeRec
  key : Option Key
  deriving DecidableEq, Repr

/-- A line as HBM holds it while a slice holds a newer copy (R470): its bytes, tag, poison, and the key it is encrypted with. -/
structure HbmLine where
  bytes : List Byte
  tag : BitVec 32
  poison : Bool
  key : Option Key
  deriving DecidableEq, Repr

/-- One way of a slice set (R144): the line, the key it was filled or first written with (R471), and for a dirty line what HBM still
holds. -/
structure Way where
  line : Nat
  key : Key
  old : Option HbmLine
  deriving DecidableEq, Repr

/-- One set of a slice: way number to line, and the fifteen tree bits (R144). -/
structure CacheSet where
  ways : SMap (Option Way)
  tree : BitVec 15
  deriving DecidableEq, Repr

/-- A slice: its sets, its two blotter filters as sets of bit indices, which is current, how many of the filters' swaps since module
reset these fields stand for (R147, R148), and whether it is lost (R470). -/
structure Slice where
  sets : SMap CacheSet
  filterA : SMap Bool
  filterB : SMap Bool
  currentB : Bool
  swaps : Nat
  lost : Bool
  deriving DecidableEq, Repr

/-- Where a calendar's entries come from when no entry is listed: the default layout (R151); the default layout with
entries whose owner lies outside the partition of these blocks as SPARE (R386); FREE (R487). -/
inductive CalBase where
  | default
  | owned (blocks : BitVec 8)
  | free
  deriving DecidableEq, Repr

/-- A calendar: its base and the entries written over it (R150). -/
structure Calendar where
  base : CalBase
  put : SMap (BitVec 16)
  deriving DecidableEq, Repr

/-- A bulk run of a channel: who holds it (unit and thread), the bank, the next line and the last line moved, the number of its
BOPEN, and that of a BCLOSE that waits (R155, R274 to R276). -/
structure BulkRun where
  unit : Nat
  thr : Nat
  bank : Nat
  next : Nat
  last : Option Nat
  opened : Nat
  closing : Option Nat
  deriving DecidableEq, Repr

/-- A request for a run that waits for its rotation boundary: its BOPEN, and its BCLOSE once that has come (R275, R276). -/
structure RunRequest where
  unit : Nat
  thr : Nat
  run : Nat
  bank : Nat
  start : Nat
  opened : Nat
  closing : Option Nat
  deriving DecidableEq, Repr

/-- A channel (R149, R155, R470, R483). -/
structure Channel where
  /-- The first controller cycle whose slot of this channel has not been used. -/
  freeAt : Nat
  cal : Calendar
  shadow : Calendar
  runs : SMap (Option BulkRun)
  runQueue : List RunRequest
  lost : Bool
  recalFails : Nat
  /-- Rotations for which the refresh of an open bank has been put off (R155, R460). -/
  refreshDue : Nat
  /-- The rotation up to whose beginning requests for runs have been looked at (R275). -/
  rotation : Nat
  deriving DecidableEq, Repr

/-! ### Requests of threads -/

/-- The three well operations that wait for acknowledgements (R177, R272): WINIT's participation bitmap by where its pieces of 16 bytes
stand, none for all threads. -/
inductive WellKind where
  | init (n : Nat) (partic : Option (List Nat))
  | arrive (b : Int)
  | drop (implicit : Bool)
  deriving DecidableEq, Repr

/-- The operations of AMO (R257). -/
inductive AmoKind where
  | add | and | or | xor | min | max | minu | maxu | swp | cas | fadd | fmax
  deriving DecidableEq, Repr

/-- What a request does at its home. Offsets count bytes from the request's address. -/
inductive MemOp where
  | load (dst : Nat)
  | lde (dst : Nat) (clear : Bool)
  | store (data : List Byte) (setFull : Bool)
  | amo (k : AmoKind) (data cmp : Word) (dst : Nat)
  | prefetch
  | vload (dst : Nat) (fmt : BitVec 4) (lanes : List (Nat × Nat))
  | vstore (parts : List (Nat × List Byte))
  | granules (count : Nat) (val : Bool)
  | fill (slot : Nat)
  | evict (slot : Nat)
  | tstr (parts : List (Nat × List Byte)) (scales : List (Nat × Byte))
  | hgRead (op : Nat) (index : Nat)
  | hgAdd (op : Nat) (fmt : BitVec 4) (adds : List (Nat × BitVec 32))
  | tlook (dst : Nat) (answer : Word)
  | doneid (dst : Nat) (chan : Nat)
  | wtest (dst : Nat)
  /-- A read for an engine, an edge unit, the scheduler or the host, or of another module's memory for a bundle. -/
  | fetch
  /-- A write by an engine, an append's agent or the device: the copy it belongs to, if any, its pieces, whether it sets their granules
  full, scale bytes of the sidecar, the bytes that count at the copy's well, and whether they are poisoned (R138, R159, R171, R175). -/
  | engine (copy : Option Nat) (parts : List (Nat × List Byte)) (full : Bool) (scales : List (Nat × Byte)) (count : Nat) (poison : Bool)
  /-- A well operation of the thread of a gang thread index (R176). -/
  | well (k : WellKind) (me : Nat)
  /-- Bytes of a copy of another module land at a well here (R175). -/
  | wellLand (k : Nat)
  /-- A writer's running maximum folded into an amax field (R121). -/
  | amax (data : Word)
  deriving DecidableEq, Repr

/-- What a served request brings back: data; an atomic's old value, tag and flags; an acknowledgement with its tag; or a
failure with its cause, status word and, for a scope breach, the record's word (R466). -/
inductive Reply where
  | data (bytes : List Byte)
  /-- Data that are poisoned, for a reader that passes poison on (R469). -/
  | poisoned (bytes : List Byte)
  | old (v : Word) (tag : Option (BitVec 32)) (flags : BitVec 8)
  | ack (tag : Option (BitVec 32)) (flags : BitVec 8)
  | fail (cause : Nat) (status : BitVec 32)
  deriving DecidableEq, Repr

/-- waiting: not served. retry: an LDE that found its granule empty (R252). served: the reply and the time, in eighths of a controller cycle,
at which it lands. sent: on its way to another module since that controller cycle (R479). -/
inductive ReqStatus where
  | waiting
  | retry
  | served (due : Nat) (r : Reply)
  | sent (since : Nat)
  deriving DecidableEq, Repr

/-- What another module has sent for a read by fetch or an engine, not yet used: who asked, the domain physical address, a
cause and status word if the access failed, the bytes and whether they are poisoned (R159, R451, R469). -/
structure Inbox where
  unit : Nat
  thr : Nat
  pa : Nat
  cause : Nat
  status : BitVec 32
  bytes : List Byte
  poison : Bool
  deriving DecidableEq, Repr

/-- Who waits in another module for the answer of an access that arrived over Bridin: module, the token of the answer, and the unit,
thread, gang token and node there (R159, R201). -/
structure Remote where
  modl : Nat
  token : Nat
  unit : Nat
  thr : Nat
  gang : Nat
  node : Nat
  /-- The well here that a copy's landing counts at, with its bytes (R175). -/
  well : Option (Nat × Nat)
  deriving DecidableEq, Repr

/-- An outstanding access of a thread, or one that a port or the host has brought. -/
structure Req where
  id : Nat
  by_ : Issue
  part : Nat
  va : Nat
  pa : Nat
  size : Nat
  cls : Nat
  kslot : Nat
  op : MemOp
  /-- Acquire and release parts, and the scope the home checks (R187, R201). -/
  acquire : Bool
  release : Bool
  check : Option Nat
  /-- Requests this one must wait for: by constraints 1 to 4 of R192 at its issue. -/
  after : List Nat
  /-- The time of its issue in eighths of a controller cycle (R249, R491). -/
  born : Nat
  status : ReqStatus
  /-- A discarded request's reply is dropped (R263, R417). -/
  dropped : Bool
  reply : Option Remote
  deriving DecidableEq, Repr

/-- A hashed-grid operation in progress (R369): its registers (dst is vd or vg), what its slot read, and how far it has come:
phase 0 reads the header, 1 the level's descriptor, 2 the table. -/
structure HgOp where
  id : Nat
  by_ : Issue
  part : Nat
  scatter : Bool
  va : Nat
  dst : Nat
  hdrVa : Nat
  level : Nat
  bit5 : Bool
  mask : BitVec 32
  coords : List (BitVec 1024)
  grads : List (BitVec 1024)
  phase : Nat
  after : List Nat
  header : List Byte
  desc : List Byte
  reads : SMap (List Byte)
  outstanding : Nat
  deriving DecidableEq, Repr

/-! ### Wells, appends, copies, tasks -/

/-- Where an address translated to: the domain physical address, the page's class and key slot (R129). -/
structure Target where
  pa : Nat
  cls : Nat
  kslot : Nat
  deriving DecidableEq, Repr

/-- The kinds of append (R267). -/
inductive AppendKind where
  | cpy (add : Nat)
  | cpyx (chan : Nat)
  | qpost (queue : Nat)
  deriving DecidableEq, Repr

/-- An append in progress (R267): its stage is 0 before its image is read, 1 before the claim, 2 once claimed, 3 with bytes 4..63 on
their way, 4 with the valid word; img is the
packet once its image has been read; num orders it among the thread's BOPEN and BCLOSE. -/
structure Append where
  num : Nat
  by_ : Issue
  part : Nat
  kind : AppendKind
  a : Word
  b : Word
  dst : Nat
  after : List Nat
  stage : Nat
  wi : BitVec 32
  slotVa : Nat
  img : List Byte
  launch : Option Nat
  deriving DecidableEq, Repr

/-- Who put a packet into a ring slot, kept from the append's valid word to the reading of the packet (R163, R184): the issuer, its
launch, the append's number, and the bulk run that its copy names if that is known (R276). -/
structure Origin where
  by_ : Issue
  launch : Option Nat
  num : Nat
  run : Option Nat
  deriving DecidableEq, Repr

/-- A launch, copy or task queue (R67, R162, R182): its descriptor, its read index, and the partition that owns it. -/
structure Queue where
  ring : BitVec 56
  widx : BitVec 56
  en : Bool
  weight : BitVec 4
  prio : BitVec 3
  ridx : BitVec 32
  part : Nat
  doneid : BitVec 32
  origins : SMap Origin
  /-- Launch queues: the launch read last, and the controller cycle before which a launch with DEP = 1 behind it may not leave
  WAITING (R84, R418). -/
  latest : Option Nat
  prevAt : Nat
  /-- EN has risen and the word at WIDX is still to come (R70). -/
  rising : Bool
  /-- The line of the slot at RIDX as it is registered with its home slice, which reports the valid word (R68). -/
  line : Option Target
  deriving DecidableEq, Repr

/-- A piece of a copy's destination that has been read and has not landed: address, bytes, scale bytes of a sidecar, whether
the landing completes granules, poison, and bytes that count against the well (R138, R175). -/
structure Landing where
  va : Nat
  pa : Nat
  bytes : List Byte
  scales : List (Nat × Byte)
  poison : Bool
  count : Nat
  cls : Nat
  kslot : Nat
  deriving DecidableEq, Repr

/-- A copy in flight (R164, R165): the packet and the headers once read; ready once its STAT, headers and well have passed
their checks (R458, R461, R492); the core whose scratchpad is its destination (R153); the next unit by destination row and byte
offset, or by sub-tile (R456), with the line requests of it that wait for the engine (R160); pieces that have not landed; bytes in
granules that are not complete, and whether they count at the well (R138); and how it ends, its status word on its way (R174). -/
structure Copy where
  id : Nat
  chan : Nat
  tid : BitVec 32
  part : Nat
  origin : Option Origin
  pkt : List Byte
  ready : Bool
  sh : Option Header
  dh : Option Header
  stat : Option Target
  well : Option Target
  core : Option Nat
  row : Nat
  off : Nat
  asks : List (Nat × Nat)
  asked : Bool
  landings : List Landing
  held : SMap (Byte × Bool)
  progress : Nat
  flags : BitVec 8
  ecode : Nat
  parked : Bool
  go : Bool
  stopped : Bool
  finished : Bool
  reported : Bool
  deriving DecidableEq, Repr

/-- A quill task (R182 to R184). Once it has ended, its ECODE and flags stand in `done` until its status word, if it has one, is
acknowledged; `posted` while that is on its way (R174). -/
structure Task where
  id : Nat
  quill : Nat
  part : Nat
  gang : Option Nat
  launch : Option Nat
  threads : List Nat
  idx : BitVec 32
  statVa : Nat
  stat : Option Target
  parked : Bool
  go : Bool
  done : Option (Nat × BitVec 8)
  posted : Bool
  deriving DecidableEq, Repr

/-! ### Launches and gangs -/

/-- The states of a launch after QUEUED (R78). -/
inductive LaunchState where
  | waiting
  | eligible
  | running
  | draining
  | done
  deriving DecidableEq, Repr

/-- A launch whose packet the scheduler has read (R71, R78, R94): its loops outermost first as (number, START, COUNT, STEP), its
placement map as (FIRST, DIE), which dependency entries have been met and the lines registered for them, its predecessor in the
queue and the controller cycle before which it may not leave WAITING on its account, iterations dispatched, ended, triggered by TRIG
and ended without one. -/
structure Launch where
  id : Nat
  part : Nat
  queue : Nat
  lwidx : BitVec 32
  pkt : List Byte
  nchain : Nat
  shape : Nat
  tpc : Nat
  dep : Nat
  code : Word
  args : Word
  doneAt : Option Target
  doneVa : Nat
  loops : List (Nat × Int × Nat × Int)
  total : Nat
  place : List (Nat × Nat)
  dep0 : Bool
  dep1 : Bool
  dep0At : Option Target
  dep1At : Option Target
  prev : Option Nat
  notBefore : Nat
  state : LaunchState
  next : Nat
  ended : Nat
  trigd : Nat
  trigEnds : Nat
  flags : BitVec 8
  tstart : Nat
  lastDispatch : Nat
  /-- The first fault's cause, and the address of its END entry once written (R94, R417). -/
  cause : Option (Nat × Nat)
  deriving DecidableEq, Repr

/-- A gang is resident, being switched out, or saved at a depth (R63, R88, R91). -/
inductive GangPlace where
  | resident
  | switching (evict : Bool)
  | saved (evict : Bool)
  deriving DecidableEq, Repr

/-- A gang: one iteration of a launch (R65, R66). Once `ending`, it has ended; it is kept until its launch is done. -/
structure Gang where
  id : Nat
  launch : Nat
  part : Nat
  s : Nat
  cores : List Nat
  ha : Nat
  wa : Nat
  tpc : Nat
  /-- A TRIG has been executed, and the first one has taken effect (R82). -/
  trigUsed : Bool
  trig : Bool
  wells : List Nat
  /-- PARK entries of the gang that have not been resumed (R414, R415). -/
  parks : Nat
  place : GangPlace
  ending : Bool
  deriving DecidableEq, Repr

/-! ### Faults -/

/-- What a PARK entry parks, with the issue that faulted (R412, R414, R416). -/
inductive ParkUnit where
  | none
  | gang (g : Nat) (by_ : Issue)
  | copy (c : Nat)
  | task (t : Nat) (by_ : Issue)
  deriving DecidableEq, Repr

/-- A fault that waits for its entry in the fault queue (R412, R413). -/
structure FaultRec where
  part : Nat
  kind : Nat
  cause : Nat
  req : Nat
  thr : Nat
  cls : Nat
  slot : Nat
  chan : Nat
  addr : Word
  bundle : Word
  status : BitVec 32
  lwidx : BitVec 32
  queue : Nat
  gangid : Nat
  progress : Nat
  unit : ParkUnit
  launch : Option Nat
  deriving DecidableEq, Repr

/-- A core of a switched-out gang at EVICT depth: what RESUME brings back (R87, R91). The save area holds the same; where the
manual gives no layout within it, the device's own record is this one. -/
structure SavedCore where
  gang : Nat
  rank : Nat
  base : Nat
  threads : Vector Thread 4
  arr : CoreArr
  /-- Loads that wait for granules of the core's scratchpad (R252). -/
  waits : List Req
  deriving DecidableEq, Repr

/-- An entry of the fault queue that the device has written and software has not yet answered (R413, R415), with the first action other
than 0 that its home slice has reported. -/
structure QueueEntry where
  idx : Nat
  part : Nat
  unit : ParkUnit
  launch : Option Nat
  act : Nat
  go : Bool
  deriving DecidableEq, Repr

/-! ### Partitions, key slots, islands, ports -/

/-- A partition (R27, R156, R386, R411). -/
structure Partition where
  present : Bool
  blocks : BitVec 8
  ptbase : Nat
  reserve : BitVec 48
  fqbase : Nat
  hwbase : Nat
  latva : Nat
  fwidx : Nat
  gen : Nat
  linkGen : Option Nat
  pointers : SMap (Nat × Nat)
  routes : SMap (BitVec 16)
  pendingCal : Option (SMap Calendar)
  lastDispatch : Option Nat
  lastResume : Option Nat
  flits : Nat
  destroying : Bool
  deriving DecidableEq, Repr

/-- A key slot (R158): the partition it is bound to, the pair of XTS keys it holds, and the generation of that key. -/
structure KeySlot where
  bound : Option Nat
  key : BitVec 512
  gen : Nat
  deriving DecidableEq, Repr

/-- An island (R23, R24, R397, R481): its clock in MHz, the cycles it had counted at the time since which it runs at that clock (R5),
its voltage, a change to (MHz, millivolts) that waits for a wave-free point, whether it is stopped, the active firmware bank, and
the two banks' images. -/
structure Island where
  mhz : Nat
  millivolts : Nat
  base : Nat
  since : Nat
  wanted : Option (Nat × Nat)
  stopped : Bool
  bankB : Bool
  imageA : List Byte
  imageB : List Byte
  updating : Bool
  deriving DecidableEq, Repr

/-- A command that has started and whose effect is not complete (R386, R388): a core, islands or launch it names, or gangs it
switches, and whether the launch has ended by a fault meanwhile (R423). -/
structure Command where
  idx : BitVec 32
  op : Nat
  part : Nat
  arg : Nat
  gangs : List Nat
  failed : Bool
  deriving DecidableEq, Repr

/-- The copybook of a recorded or replayed launch (R398 to R401), with its input regions by address and length and the digests taken of
them, none before they are. -/
structure Copybook where
  part : Nat
  queue : Nat
  base : Nat
  regions : List (Nat × Nat)
  digests : Option (List (List Byte))
  ni : Nat
  nw : Nat
  maxiter : Nat
  maxflit : Nat
  maxwacc : Nat
  /-- Witness lines: virtual address and local line number. -/
  wlines : List (Nat × Nat)
  launch : Option Nat
  niter : Nat
  nflit : Nat
  nwacc : Nat
  flitIdx : Nat
  ovf : Bool
  counts : SMap Nat
  /-- Replay: what the copybook records: the digests, the cores of each iteration, and the witness accesses by line number, requester and
  thread; then the position in each witness line's recorded order. The command that made the copybook names it. -/
  replay : Bool
  inputs : List (List Byte)
  cores : List (List Nat)
  accesses : List (Nat × Nat × Nat)
  lwidx : Option (BitVec 32)
  lineDone : SMap Nat
  /-- The witness lines, by number, at which an access is held: since when, and the line's virtual address. -/
  held : SMap (Nat × Nat)
  diverged : Bool
  command : BitVec 32
  /-- The inbound flits recorded, or still to be re-injected. -/
  flits : List (Nat × Flit)
  deriving DecidableEq, Repr

/-- What the device keeps of a recording that is complete, for a replay (R399 to R401): the copybook's address, and the input regions,
which the witness list gives and the copybook does not, and the flits, whose layout as bytes the manual does not give. -/
structure Recording where
  part : Nat
  base : Nat
  regions : List (Nat × Nat)
  flits : List Flit
  deriving DecidableEq, Repr

/-- A piece of an access of the host: a request to memory, or an access of the device control space (R382, R384). -/
inductive HostPiece where
  | mem (r : Req)
  | readControl (off n : Nat)
  | writeControl (off : Nat) (bytes : List Byte)
  | amoControl (off : Nat) (k : HostAtomic) (wide : Bool) (v cmp : Word)
  deriving DecidableEq, Repr

/-- The three kinds of host access. -/
inductive HostKind where
  | read
  | write (relaxed : Bool)
  | atomic
  deriving DecidableEq, Repr

/-- An access of the host that is under way (R196, R382, R383): its pieces that wait to be sent, by their places, the numbers of its
requests that are out with their places, the answers that have come, and whether one failed. -/
structure HostAccess where
  kind : HostKind
  todo : List (Nat × HostPiece)
  out : List (Nat × Nat)
  got : SMap (List Byte)
  poison : Bool
  failed : Bool
  deriving DecidableEq, Repr

/-- What leaves the module towards the host, the key server or another module, in order. -/
inductive Output where
  | readData (bytes : List Byte) (poison : Bool)
  | completerAbort
  | written
  | atomicResult (v : Word)
  | flit (port : Nat) (f : Flit)
  | spdmError
  | keyLoaded (slot : Nat)
  | measurement (i : Nat) (v : BitVec 512)
  deriving DecidableEq, Repr

/-- The module. -/
structure State where
  seqs : SMap Seq
  /-- The translation cache of each die, for its edge units and copy engines (R131). -/
  dieTlb : SMap (List TlbEntry)
  cores : SMap CoreArr
  /-- Bytes of HBM, scratchpads and the command ring by local address (R125), in canonical form. -/
  mem : List Host.Cell
  lines : SMap LineMeta
  slices : SMap Slice
  channels : SMap Channel
  parts : SMap Partition
  keys : SMap KeySlot
  /-- The value of each delivered key by its generation: what the ciphertext of lines was made with (R157, R158). -/
  keyValues : SMap (BitVec 512)
  islands : SMap Island
  portsDown : SMap Bool
  launchQ : SMap Queue
  copyQ : SMap Queue
  taskQ : SMap Queue
  launches : List Launch
  gangs : List Gang
  saved : List SavedCore
  tasks : List Task
  copies : List Copy
  reqs : List Req
  inbox : List Inbox
  hgOps : List HgOp
  appends : List Append
  faults : List FaultRec
  entries : List QueueEntry
  commands : List Command
  copybooks : List Copybook
  /-- Recordings completed since module reset. -/
  recordings : List Recording
  /-- Accesses of the host that are under way, oldest first. -/
  host : List HostAccess
  /-- Each copy engine's last channel that was served a read request, and a write request (R160). -/
  engines : SMap (Nat × Nat)
  /-- Flits sent and received by each port, the 64-bit counters of the link key's nonces (R392). -/
  flitTx : SMap Nat
  flitRx : SMap Nat
  /-- Images that measurements 3 and 4 have been extended with (R397). -/
  extends3 : List (List Byte)
  extends4 : List (List Byte)
  /-- Active images that are not the factory's, as the last module reset found them (R394, R397). -/
  booted : SMap (List Byte)
  /-- Blocks whose spare core is in use (R14). -/
  sparesUsed : BitVec 8
  modreg : Word
  /-- Module power as Rhoton last read it, in watts (R26, R396). -/
  power : Nat
  cmdWidx : BitVec 32
  cmdRidx : BitVec 32
  /-- Time since module reset in eighths of a controller cycle (R5, R23). -/
  now : Nat
  /-- Fresh numbers for requests, launches, gangs, tasks and copies, and for keys. -/
  nextId : Nat
  nextKey : Nat
  /-- The model's own: how many free values have been taken from Config.freeByte. -/
  freeCount : Nat
  /-- The model's own: device steps that come from outside or are chosen to happen next, first first. -/
  agenda : List Instr
  /-- The model's own: the next step without an agenda is a device step, if one can happen. -/
  devTurn : Bool
  /-- The model's own: device steps chosen so far, by which the choice among those that can happen rotates. -/
  devCount : Nat
  /-- The model's own: the sequencer whose bundle issues next. -/
  curUnit : Nat
  /-- Lines of HBM with one wrong bit, not yet scrubbed, and with two (R468). -/
  latent : SMap Bool
  unfixable : SMap Bool
  corrected : Nat
  output : List Output
  deriving DecidableEq, Repr

/-! ### The state after module reset -/

/-- A thread after reset: every register 0 and full, p0 true (R8, R16). -/
def Thread.reset : Thread where
  x := Vector.replicate 32 0
  xfull := BitVec.allOnes 32
  p := 1
  g := Vector.replicate 8 0
  v := Vector.replicate 32 0
  vfull := BitVec.allOnes 32
  m := Vector.replicate 8 0
  pc := 0
  flags := 0
  stag := 0
  tvec := 0
  tepc := 0
  tcause := 0
  taddr := 0
  tstat := 0
  intrap := false
  loop := none
  status := .idle
  owner := .none
  blocked := false
  yielded := []
  sleeping := false
  waitUntil := 0
  stopped := false
  wellWait := none
  fencePair := none
  flagSet := 0
  flagCycle := 0
  traps := []
  trig := none

/-- SLOTMAP after reset: 0xFA on a quill core, 0x32 on a core (R219). -/
def slotmapReset (unit : Nat) : BitVec 8 := if 192 ≤ unit then 0xFA else 0x32

/-- A sequencer after reset. -/
def Seq.reset (unit : Nat) : Seq where
  threads := Vector.replicate 4 Thread.reset
  cur := 0
  slotmap := slotmapReset unit
  tlb := []
  broken := 0
  stages := []
  retired := false
  freeAt := 0

/-- An accumulator after reset (R96): the bias latch is unset, which the table's 17 zero bits are taken to say (DEDUCED, assumption 116). -/
def AccState.reset : AccState where
  el := 0
  inner := 0
  kc := 0
  widthA := 0
  widthB := 0
  bias := none

/-- The stochastic-rounding state of cell (r, c) at reset (R43). -/
def cellSeed (r c : Nat) : BitVec 32 := 0x9E3779B9#32 ^^^ BitVec.ofNat 32 (256 * r + c)

/-- The stochastic-rounding state of edge unit u at reset: west 0, north 1, east 2, south 3 (R44). -/
def edgeSeed (u : Nat) : BitVec 32 := 0x9E3779B9#32 ^^^ BitVec.ofNat 32 (0x1000 + u)

/-- Cell (r, c), of key 16r + c, after reset (R96). -/
def Cell.reset (key : Nat) : Cell where
  f := Vector.replicate 16 0
  c := Vector.replicate 4 AccState.reset
  va := none
  scaleA := 127
  scaleB := 127
  tailA := 0
  tailB := 0
  vthr := 0
  h0 := 0
  h1 := 0
  q := 0
  flags := 0
  s := cellSeed (key / 16) (key % 16)
  store := []

def EdgeUnit.reset (u : Nat) : EdgeUnit where
  rs := edgeSeed u
  streams := []
  buffer := []

/-- The array and scratchpad bookkeeping of a core after reset. -/
def CoreArr.reset : CoreArr where
  cells := []
  grid := ⟨[], 1, 1⟩
  nib := []
  wave := []
  nextWid := 0
  lastWid := none
  doneAggs := []
  validAgg := none
  wflgs := []
  stroke := none
  progDue := none
  west := EdgeUnit.reset 0
  north := EdgeUnit.reset 1
  east := EdgeUnit.reset 2
  south := EdgeUnit.reset 3
  nextSid := 0
  waveAt := 0
  hold := none
  holdFrom := 0
  waveFault := none
  prog := 0
  pivstat := 0
  growth := 0
  vthr := 0
  pv := Vector.replicate 8 0
  bfmt := Vector.replicate 16 0
  tags := []
  full := []
  gpoison := []
  sidecar := []
  bankAt := 0
  gang := none
  rank := 0
  down := false
  saving := none
  saveOut := false

def LineMeta.reset : LineMeta where
  tag := 0
  poison := false
  srec := none
  key := none

def CacheSet.reset : CacheSet where
  ways := []
  tree := 0

def Slice.reset : Slice where
  sets := []
  filterA := []
  filterB := []
  currentB := false
  swaps := 0
  lost := false

def Calendar.reset : Calendar where
  base := .default
  put := []

def Channel.reset : Channel where
  freeAt := 0
  cal := Calendar.reset
  shadow := Calendar.reset
  runs := []
  runQueue := []
  lost := false
  recalFails := 0
  refreshDue := 0
  rotation := 0

/-- A partition that does not exist. Its route table sends every module through port 0, a reset value that R384 does not give (DESIGN CHOICE,
assumption 112). -/
def Partition.reset : Partition where
  present := false
  blocks := 0
  ptbase := 0
  reserve := 0
  fqbase := 0
  hwbase := 0
  latva := 0
  fwidx := 0
  gen := 0
  linkGen := none
  pointers := []
  routes := []
  pendingCal := none
  lastDispatch := none
  lastResume := none
  flits := 0
  destroying := false

def KeySlot.reset : KeySlot where
  bound := none
  key := 0
  gen := 0

/-- An island runs at the nominal 1.8 GHz (R23). -/
def Island.reset : Island where
  mhz := 1800
  millivolts := 0
  base := 0
  since := 0
  wanted := none
  stopped := false
  bankB := false
  imageA := []
  imageB := []
  updating := false

/-- A queue after reset: disabled, WEIGHT 1, RIDX 0 (R67, R70, R162). -/
def Queue.reset : Queue where
  ring := 0
  widx := 0
  en := false
  weight := 1
  prio := 0
  ridx := 0
  part := 0
  doneid := 0
  origins := []
  latest := none
  prevAt := 0
  rising := false
  line := none

/-- The module right after reset: no partition exists, no work is queued, and every register holds its reset value. -/
def State.reset : State where
  seqs := []
  dieTlb := []
  cores := []
  mem := []
  lines := []
  slices := []
  channels := []
  parts := []
  keys := []
  keyValues := []
  islands := []
  portsDown := []
  launchQ := []
  copyQ := []
  taskQ := []
  launches := []
  gangs := []
  saved := []
  tasks := []
  copies := []
  reqs := []
  inbox := []
  hgOps := []
  appends := []
  faults := []
  entries := []
  commands := []
  copybooks := []
  recordings := []
  host := []
  engines := []
  flitTx := []
  flitRx := []
  extends3 := []
  extends4 := []
  booted := []
  sparesUsed := 0
  modreg := 0
  power := 0
  cmdWidx := 0
  cmdRidx := 0
  now := 0
  nextId := 0
  nextKey := 0
  freeCount := 0
  agenda := []
  devTurn := false
  devCount := 0
  curUnit := 0
  latent := []
  unfixable := []
  corrected := 0
  output := []

end Sys2Proof.Machine
end

