-- ==== Sys2Proof/Machine/Memory.lean ====
section
/-! DEFINITION. Memory as a list of bytes in canonical form, little-endian values (R2), and the local address space of a
module (R125, R126, R133). -/

namespace Sys2Proof.Machine

/-! ### Bytes -/

/-- What an address that is not listed reads as: scratchpads are zeroised at creation (R156); HBM bytes that nothing has
written are not defined there, and the model gives 0 (DESIGN CHOICE, assumption 2). -/
def emptyByte : Byte := 0

/-- The byte at a local address. -/
def memGet : List Host.Cell → Nat → Byte
  | [], _ => emptyByte
  | (a', b) :: m, a => if a' = a then b else if a < a' then emptyByte else memGet m a

/-- Memory with byte b at address a, in canonical form. -/
def memPut (a : Nat) (b : Byte) : List Host.Cell → List Host.Cell
  | [] => if b = emptyByte then [] else [(a, b)]
  | (a', b') :: m =>
    if a' = a then (if b = emptyByte then m else (a, b) :: m)
    else if a < a' then (if b = emptyByte then (a', b') :: m else (a, b) :: (a', b') :: m)
    else (a', b') :: memPut a b m

/-- Every entry lies at lo or above, addresses rise strictly, and no entry equals what an unlisted address reads as. -/
def Memory.wfFrom : Nat → List Host.Cell → Bool
  | _, [] => true
  | lo, (a, b) :: m => decide (lo ≤ a) && decide (b ≠ emptyByte) && Memory.wfFrom (a + 1) m

/-- The canonical form of memory. -/
def Memory.wf (m : List Host.Cell) : Bool := Memory.wfFrom 0 m

/-- n bytes from address a on. -/
def memRead (m : List Host.Cell) (a n : Nat) : List Byte := (List.range n).map (fun i => memGet m (a + i))

/-- Memory with these bytes from address a on. -/
def memWrite (m : List Host.Cell) (a : Nat) : List Byte → List Host.Cell
  | [] => m
  | b :: bs => memWrite (memPut a b m) (a + 1) bs

/-- Memory with every byte of [a, a + n) as nothing had written it. -/
def memClear (m : List Host.Cell) (a n : Nat) : List Host.Cell := m.filter (fun c => c.1 < a || a + n ≤ c.1)

/-- The value of a little-endian list of bytes (R2). -/
def leNat : List Byte → Nat
  | [] => 0
  | b :: bs => b.toNat + 256 * leNat bs

/-- The n low bytes of a value, least significant first (R2). -/
def leBytes : Nat → Nat → List Byte
  | 0, _ => []
  | n + 1, v => BitVec.ofNat 8 v :: leBytes n (v / 256)

/-- The n bytes of a list from offset o on; bytes past its end read 0. -/
def bytesAt (bs : List Byte) (o n : Nat) : List Byte :=
  let r := (bs.drop o).take n
  r ++ List.replicate (n - r.length) 0

/-- A little-endian field of a packet or record. -/
def fieldAt (bs : List Byte) (o n : Nat) : Nat := leNat (bytesAt bs o n)

/-- Bits hi..lo of a number (R10, R62). -/
def bitsOf (v hi lo : Nat) : Nat := v / 2 ^ lo % 2 ^ (hi + 1 - lo)

/-! ### The local address space (R125, R126, R133) -/

/-- Bytes of one stack. -/
def stackBytes : Nat := 0xC00000000

/-- What a local address names. -/
inductive Loc where
  | hbm (stack off : Nat)
  | scratch (core off : Nat)
  | control (off : Nat)
  | hole
  deriving DecidableEq, Repr

def scratchBase : Nat := 0x10000000000
def controlBase : Nat := 0x20000000000

/-- The local address map (R125). -/
def locate (pa : Nat) : Loc :=
  if pa < 8 * stackBytes then .hbm (pa / stackBytes) (pa % stackBytes)
  else if scratchBase ≤ pa && pa < scratchBase + 192 * 0x200000 then
    .scratch ((pa - scratchBase) / 0x200000) ((pa - scratchBase) % 0x200000)
  else if controlBase ≤ pa && pa < controlBase + 0x100000000 then .control (pa - controlBase)
  else .hole

/-- Local address of byte off of a core's scratchpad. -/
def scratchPa (core off : Nat) : Nat := scratchBase + core * 0x200000 + off

/-- Module number of a domain physical address (R124). -/
def moduleOf (pa : Nat) : Nat := pa / 2 ^ 42 % 1024
/-- Local address within its module (R124). -/
def localOf (pa : Nat) : Nat := pa % 2 ^ 42

/-- Line number of a local address (R126). -/
def lineOf (pa : Nat) : Nat := pa / 128

/-- Module channel of an HBM local address (R18, R126). -/
def channelOf (pa : Nat) : Nat := 32 * (pa / stackBytes) + (pa % stackBytes) / 128 % 32
/-- Home slice of an HBM local address (R19, R126). -/
def sliceOf (pa : Nat) : Nat := channelOf pa / 4
/-- Set of the line in its slice (R144). -/
def setOf (pa : Nat) : Nat := (pa % stackBytes) / 4096 % 2048

/-! ### Numbering (R18, R139) -/

/-- Block of a core, quill core, copy engine or port by requester number. -/
def blockOfUnit (u : Nat) : Nat :=
  if u < 192 then u / 24 else if u < 224 then (u - 192) / 4 else if u < 240 then (u - 224) / 2 else (u - 240) / 2

def isQuill (u : Nat) : Bool := 192 ≤ u && u < 224
def isCore (u : Nat) : Bool := u < 192

/-- Die of a block (R12). -/
def dieOfBlock (b : Nat) : Nat := b / 2

/-- Die bridges between two dies (R153): dies stand in a 2 × 2 arrangement. -/
def bridges (d e : Nat) : Nat := (if d % 2 = e % 2 then 0 else 1) + (if d / 2 = e / 2 then 0 else 1)

/-- Island of a core (R24). -/
def islandOfCore (n : Nat) : Nat := 8 * (n / 24) + (n % 24) / 4
/-- Island of a sequencer (R24). -/
def islandOfUnit (u : Nat) : Nat := if u < 192 then islandOfCore u else 8 * blockOfUnit u + 6

/-- Placement row and column of a core (R110). -/
def placeRow (n : Nat) : Nat := 6 * (n / 48 / 2) + (n % 24) / 4
def placeCol (n : Nat) : Nat := 8 * (n / 48 % 2) + 4 * (n / 24 % 2) + n % 24 % 4

/-- The core at a placement position (R110). -/
def coreAt (row col : Nat) : Nat :=
  let d := 2 * (row / 6) + col / 8
  24 * (2 * d + col % 8 / 4) + 4 * (row % 6) + col % 4

end Sys2Proof.Machine
end

