-- ==== Sys2Proof/Machine/Cipher.lean ====
section
/-! DEFINITION. The ciphers that the manual names by their standards: AES-256-XTS of IEEE 1619 over one line of 128 bytes (R157), with AES of
FIPS 197; and SHAKE256 of FIPS 202 with 512 bits of output (R394, R398). -/

namespace Sys2Proof.Machine

/-! ### AES-256 (FIPS 197) -/

/-- A byte times x in the field of 2^8 elements; and the product of two bytes. -/
def gfDouble (a : Byte) : Byte := (a <<< 1) ^^^ (if a.getLsbD 7 then 0x1B else 0)
def gfMul (a b : Byte) : Byte :=
  ((List.range 8).foldl (fun (e : Byte × Byte) i => (if b.getLsbD i then e.1 ^^^ e.2 else e.1, gfDouble e.2)) (0, a)).1

/-- The inverse of a byte, 0 for 0: its 254th power. -/
def gfInv (a : Byte) : Byte :=
  ((List.range 7).foldl (fun (e : Byte × Byte) _ => (gfMul e.1 (gfMul e.2 e.2), gfMul e.2 e.2)) (1, a)).1

/-- The substitution of a byte and its inverse. -/
def subByte (a : Byte) : Byte :=
  let b := gfInv a
  b ^^^ b.rotateLeft 1 ^^^ b.rotateLeft 2 ^^^ b.rotateLeft 3 ^^^ b.rotateLeft 4 ^^^ 0x63
def unsubByte (a : Byte) : Byte := gfInv (a.rotateLeft 1 ^^^ a.rotateLeft 3 ^^^ a.rotateLeft 6 ^^^ 0x05)

def xorBytes (a b : List Byte) : List Byte := List.zipWith (fun x y => x ^^^ y) a b

/-- The words of the key schedule of a key of 32 bytes. -/
def keySchedule (key : List Byte) : List (List Byte) :=
  let first := (List.range 8).map (fun i => bytesAt key (4 * i) 4)
  ((List.range 52).foldl (fun (e : List (List Byte) × Byte) j =>
    let last := e.1.getLastD []
    let t := if j % 8 = 0 then xorBytes (((last.drop 1) ++ last.take 1).map subByte) [e.2, 0, 0, 0]
             else if j % 8 = 4 then last.map subByte else last
    (e.1 ++ [xorBytes (e.1.getD j []) t], if j % 8 = 0 then gfDouble e.2 else e.2)) (first, 1)).1

def roundKey (ws : List (List Byte)) (r : Nat) : List Byte := ((ws.drop (4 * r)).take 4).flatMap (fun w => w)

/-- The rows of a block of 16 bytes, in columns of 4, moved by their numbers to the left, or back. -/
def shiftRows (s : List Byte) : List Byte := (List.range 16).map (fun i => s.getD (i % 4 + 4 * ((i / 4 + i % 4) % 4)) 0)
def unshiftRows (s : List Byte) : List Byte := (List.range 16).map (fun i => s.getD (i % 4 + 4 * ((i / 4 + 4 - i % 4) % 4)) 0)

/-- The columns of a block times a circulant matrix, given by its first row. -/
def mixWith (m : List Byte) (s : List Byte) : List Byte :=
  (List.range 16).map (fun i => (List.range 4).foldl (fun a k => a ^^^ gfMul (s.getD (k + i / 4 * 4) 0) (m.getD ((k + 4 - i % 4) % 4) 0)) 0)

/-- One block of 16 bytes under a key of 32. -/
def aesEncrypt (key block : List Byte) : List Byte :=
  let ws := keySchedule key
  let s := (List.range 13).foldl (fun s r => xorBytes (mixWith [2, 3, 1, 1] (shiftRows (s.map subByte))) (roundKey ws (r + 1))) (xorBytes block (roundKey ws 0))
  xorBytes (shiftRows (s.map subByte)) (roundKey ws 14)
def aesDecrypt (key block : List Byte) : List Byte :=
  let ws := keySchedule key
  let s := (List.range 13).foldl (fun s r => mixWith [14, 11, 13, 9] (xorBytes ((unshiftRows s).map unsubByte) (roundKey ws (13 - r))))
    (xorBytes block (roundKey ws 14))
  xorBytes ((unshiftRows s).map unsubByte) (roundKey ws 0)

/-! ### XTS over a line (IEEE 1619, R157) -/

/-- The tweaks of a line's eight blocks: the encrypted tweak, multiplied by the primitive element for each next block. -/
def tweaks (key : List Byte) (tweak : Nat) : Nat → List (List Byte)
  | 0 => []
  | n + 1 =>
    let rest := tweaks key tweak n
    rest ++ [match rest.getLast? with
      | none => aesEncrypt key (leBytes 16 tweak)
      | some t => leBytes 16 (2 * leNat t % 2 ^ 128 ^^^ (if 2 ^ 127 ≤ leNat t then 0x87 else 0))]

/-- A line under a pair of keys, with a block cipher: the first 32 bytes of the pair, lowest first, encrypt blocks, the others the tweak. -/
def xtsLine (cipher : List Byte → List Byte → List Byte) (keys : BitVec 512) (tweak : Nat) (line : List Byte) : List Byte :=
  let ks := leBytes 64 keys.toNat
  (tweaks (ks.drop 32) tweak 8).zipIdx.flatMap (fun e => xorBytes (cipher (ks.take 32) (xorBytes (bytesAt line (16 * e.2) 16) e.1)) e.1)

def xtsEncrypt : BitVec 512 → Nat → List Byte → List Byte := xtsLine aesEncrypt
def xtsDecrypt : BitVec 512 → Nat → List Byte → List Byte := xtsLine aesDecrypt

/-! ### SHAKE256 (FIPS 202) -/

/-- Rotations of the lanes, by x + 5y; and the round constants. -/
def keccakRot : List Nat := [0, 1, 62, 28, 27, 36, 44, 6, 55, 20, 3, 10, 43, 25, 39, 41, 45, 15, 21, 8, 18, 2, 61, 56, 14]
def keccakConst : List Word :=
  [0x0000000000000001, 0x0000000000008082, 0x800000000000808A, 0x8000000080008000, 0x000000000000808B, 0x0000000080000001,
   0x8000000080008081, 0x8000000000008009, 0x000000000000008A, 0x0000000000000088, 0x0000000080008009, 0x000000008000000A] ++
  [0x000000008000808B, 0x800000000000008B, 0x8000000000008089, 0x8000000000008003, 0x8000000000008002, 0x8000000000000080,
   0x000000000000800A, 0x800000008000000A, 0x8000000080008081, 0x8000000000008080, 0x0000000080000001, 0x8000000080008008]

/-- One round of the permutation of 25 lanes, lane (x, y) at x + 5y. -/
def keccakRound (a : List Word) (rc : Word) : List Word :=
  let at_ := fun (l : List Word) (x y : Nat) => l.getD (x % 5 + 5 * (y % 5)) 0
  let c := (List.range 5).map (fun x => (List.range 5).foldl (fun w y => w ^^^ at_ a x y) 0)
  let d := (List.range 5).map (fun x => c.getD ((x + 4) % 5) 0 ^^^ (c.getD ((x + 1) % 5) 0).rotateLeft 1)
  let b := (List.range 25).map (fun i => (a.getD i 0 ^^^ d.getD (i % 5) 0).rotateLeft (keccakRot.getD i 0))
  let p := (List.range 25).map (fun i => at_ b (i % 5 + 3 * (i / 5)) (i % 5))
  (List.range 25).map (fun i => (p.getD i 0 ^^^ (~~~ at_ p (i % 5 + 1) (i / 5) &&& at_ p (i % 5 + 2) (i / 5))) ^^^ (if i = 0 then rc else 0))

def keccak (a : List Word) : List Word := keccakConst.foldl keccakRound a

/-- Blocks of 136 bytes are taken in, one after another. -/
def absorb (a : List Word) (bs : List Byte) : List Word :=
  (List.range (bs.length / 136)).foldl (fun a n =>
    keccak (a.mapIdx (fun i w => if i < 17 then w ^^^ BitVec.ofNat 64 (fieldAt bs (136 * n + 8 * i) 8) else w))) a

/-- The first 512 bits of SHAKE256 of a string of bytes, byte 0 lowest. -/
def shake256 (bs : List Byte) : BitVec 512 :=
  let k := 136 - bs.length % 136
  let pad := if k = 1 then [0x9F] else [0x1F] ++ List.replicate (k - 2) 0 ++ [0x80]
  BitVec.ofNat 512 (leNat (((absorb (List.replicate 25 0) (bs ++ pad)).take 8).flatMap (fun w => leBytes 8 w.toNat)))

end Sys2Proof.Machine
end

