-- ==== Sys2Proof/Machine/Ops.lean ====
section
/-! DEFINITION. The named operations on the state: reading and updating units, threads and registers; the keys and metadata
of lines; recording a fault; taking a trap and returning from one (R408, R410). -/

namespace Sys2Proof.Machine

/-! ### Units -/

def State.seq (s : State) (u : Nat) : Seq := lookup (Seq.reset u) u s.seqs
def State.thread (s : State) (u t : Nat) : Thread := (s.seq u).threads.getD t Thread.reset
def State.core (s : State) (n : Nat) : CoreArr := lookup CoreArr.reset n s.cores
def State.part (s : State) (p : Nat) : Partition := lookup Partition.reset p s.parts
def State.lineMeta (s : State) (line : Nat) : LineMeta := lookup LineMeta.reset line s.lines
def State.slice (s : State) (i : Nat) : Slice := lookup Slice.reset i s.slices
def State.channel (s : State) (i : Nat) : Channel := lookup Channel.reset i s.channels
def State.island (s : State) (i : Nat) : Island := lookup Island.reset i s.islands
def State.keySlot (s : State) (k : Nat) : KeySlot := lookup KeySlot.reset k s.keys
def CoreArr.cell (c : CoreArr) (key : Nat) : Cell := lookup (Cell.reset key) key c.cells

def State.setSeq (s : State) (u : Nat) (q : Seq) : State := { s with seqs := insertAt u q s.seqs }
def State.setCore (s : State) (n : Nat) (c : CoreArr) : State := { s with cores := insertAt n c s.cores }
def State.setPart (s : State) (p : Nat) (v : Partition) : State := { s with parts := insertAt p v s.parts }
def State.setLine (s : State) (l : Nat) (v : LineMeta) : State := { s with lines := insertAt l v s.lines }
def State.setSlice (s : State) (i : Nat) (v : Slice) : State := { s with slices := insertAt i v s.slices }
def State.setChannel (s : State) (i : Nat) (v : Channel) : State := { s with channels := insertAt i v s.channels }
def State.setIsland (s : State) (i : Nat) (v : Island) : State := { s with islands := insertAt i v s.islands }
def State.setMem (s : State) (m : List Host.Cell) : State := { s with mem := m }
def CoreArr.setCell (c : CoreArr) (key : Nat) (v : Cell) : CoreArr := { c with cells := insertAt key v c.cells }

/-- A sequencer with one of its threads replaced. -/
def Seq.setThread (q : Seq) (t : Nat) (th : Thread) : Seq := { q with threads := q.threads.setIfInBounds t th }

def State.setThread (s : State) (u t : Nat) (th : Thread) : State := s.setSeq u ((s.seq u).setThread t th)
def State.updThread (s : State) (u t : Nat) (f : Thread → Thread) : State := s.setThread u t (f (s.thread u t))
def State.updCore (s : State) (n : Nat) (f : CoreArr → CoreArr) : State := s.setCore n (f (s.core n))
def State.updPart (s : State) (p : Nat) (f : Partition → Partition) : State := s.setPart p (f (s.part p))
def State.updChannel (s : State) (i : Nat) (f : Channel → Channel) : State := s.setChannel i (f (s.channel i))
def State.updIsland (s : State) (i : Nat) (f : Island → Island) : State := s.setIsland i (f (s.island i))

/-! ### Registers of a thread (R210, R211) -/

/-- An x register; x0 reads 0. -/
def Thread.getX (th : Thread) (r : BitVec 5) : Word := if r = 0 then 0 else th.x.getD r.toNat 0
/-- Whether an x register is full; x0 always is. -/
def Thread.fullX (th : Thread) (r : BitVec 5) : Bool := r == 0 || th.xfull.getLsbD r.toNat
/-- A write of an x register, which it leaves full; writes to x0 are discarded. -/
def Thread.setX (th : Thread) (r : BitVec 5) (v : Word) : Thread :=
  if r = 0 then th
  else { th with x := th.x.setIfInBounds r.toNat v, xfull := th.xfull ||| (1#32 <<< r.toNat) }
/-- An x register marked empty until its result lands. -/
def Thread.emptyX (th : Thread) (r : BitVec 5) : Thread :=
  if r = 0 then th else { th with xfull := th.xfull &&& ~~~(1#32 <<< r.toNat) }
/-- An x register marked full again with the value it held (R466). -/
def Thread.refillX (th : Thread) (r : BitVec 5) : Thread := { th with xfull := th.xfull ||| (1#32 <<< r.toNat) }

/-- A predicate; p0 reads true. -/
def Thread.getP (th : Thread) (r : BitVec 3) : Bool := r == 0 || th.p.getLsbD r.toNat
/-- A write of a predicate; writes to p0 are discarded. -/
def Thread.setP (th : Thread) (r : BitVec 3) (b : Bool) : Thread :=
  if r = 0 then th
  else { th with p := if b then th.p ||| (1#8 <<< r.toNat) else th.p &&& ~~~(1#8 <<< r.toNat) }

def Thread.getG (th : Thread) (r : BitVec 3) : Word := th.g.getD r.toNat 0
def Thread.setG (th : Thread) (r : BitVec 3) (v : Word) : Thread := { th with g := th.g.setIfInBounds r.toNat v }

def Thread.getV (th : Thread) (r : Nat) : BitVec 1024 := th.v.getD r 0
def Thread.fullV (th : Thread) (r : Nat) : Bool := th.vfull.getLsbD r
def Thread.setV (th : Thread) (r : Nat) (v : BitVec 1024) : Thread :=
  { th with v := th.v.setIfInBounds r v, vfull := th.vfull ||| (1#32 <<< r) }
def Thread.emptyV (th : Thread) (r : Nat) : Thread := { th with vfull := th.vfull &&& ~~~(1#32 <<< r) }
/-- A mask register; m0 reads all ones (R181). -/
def Thread.getM (th : Thread) (r : BitVec 3) : BitVec 32 := if r = 0 then BitVec.allOnes 32 else th.m.getD r.toNat 0
/-- A write of a mask register; writes to m0 are discarded. -/
def Thread.setM (th : Thread) (r : BitVec 3) (v : BitVec 32) : Thread :=
  if r = 0 then th else { th with m := th.m.setIfInBounds r.toNat v }

/-- The flag byte (R236). -/
def Thread.flagByte (th : Thread) : BitVec 8 := th.flags.setWidth 8
/-- Flags set by an OR in a cycle of the unit's island (R57). -/
def Thread.orFlags (th : Thread) (c : Nat) (f : BitVec 8) : Thread :=
  if f = 0 then th
  else { th with
    flags := th.flags ||| f.setWidth 15
    flagSet := if th.flagCycle = c then th.flagSet ||| f else f
    flagCycle := c }

/-- FLAGS[14:0] written in a cycle: a flag bit that is set in the same cycle ends set (R57, R236). -/
def Thread.writeFlags (th : Thread) (c : Nat) (v : BitVec 15) : Thread :=
  { th with flags := v ||| (if th.flagCycle = c then th.flagSet.setWidth 15 else 0) }
/-- Flags of f whose enable bit in FLAGS[14:8] is 1 (R433). -/
def Thread.enabled (th : Thread) (f : BitVec 8) : BitVec 8 := f &&& ((th.flags.extractLsb' 8 6).setWidth 8)

/-- Flags that an operation of the thread's own bundle raises: set, and a trap after the bundle where enabled (R433). -/
def Thread.raiseOwn (th : Thread) (c : Nat) (f : BitVec 8) (cls slot : Nat) : Thread :=
  let t := th.orFlags c f
  if th.enabled f = 0 then t
  else { t with traps := t.traps ++ [⟨0x14, (th.enabled f).toNat, false, cls, slot, 0, t.flagByte.setWidth 32, none⟩] }

/-- Flags that an agent of the thread raises: set, and an asynchronous trap where enabled (R433). -/
def Thread.raiseAgent (th : Thread) (c : Nat) (f : BitVec 8) : Thread :=
  let t := th.orFlags c f
  if th.enabled f = 0 then t
  else { t with traps := t.traps ++ [⟨0x14, (th.enabled f).toNat, true, 15, 0, 0, t.flagByte.setWidth 32, none⟩] }

/-! ### Ownership -/

/-- The first number below n that a test accepts. -/
def firstBelow (n : Nat) (f : Nat → Bool) : Option Nat := (List.range n).find? f

/-- The partition that owns a block (R27). -/
def State.partOfBlock (s : State) (b : Nat) : Option Nat :=
  firstBelow 8 (fun p => (s.part p).present && (s.part p).blocks.getLsbD b)

/-- The partition of a unit by requester number. -/
def State.partOfUnit (s : State) (u : Nat) : Option Nat :=
  if u < 256 then s.partOfBlock (blockOfUnit u) else if 258 ≤ u then some (u - 258) else none

/-- Whether a partition owns a block. -/
def State.owns (s : State) (p b : Nat) : Bool := (s.part p).present && (s.part p).blocks.getLsbD b

def State.gangOf (s : State) (g : Nat) : Option Gang := s.gangs.find? (fun x => x.id == g)
def State.taskOf (s : State) (t : Nat) : Option Task := s.tasks.find? (fun x => x.id == t)
def State.launchOf (s : State) (l : Nat) : Option Launch := s.launches.find? (fun x => x.id == l)
def State.copyOf (s : State) (c : Nat) : Option Copy := s.copies.find? (fun x => x.id == c)

def State.updGang (s : State) (g : Nat) (f : Gang → Gang) : State :=
  { s with gangs := s.gangs.map (fun x => if x.id = g then f x else x) }
def State.updTask (s : State) (t : Nat) (f : Task → Task) : State :=
  { s with tasks := s.tasks.map (fun x => if x.id = t then f x else x) }
def State.updLaunch (s : State) (l : Nat) (f : Launch → Launch) : State :=
  { s with launches := s.launches.map (fun x => if x.id = l then f x else x) }
def State.updCopy (s : State) (c : Nat) (f : Copy → Copy) : State :=
  { s with copies := s.copies.map (fun x => if x.id = c then f x else x) }

/-- The gang an owner belongs to (R184). -/
def State.ownerGang (s : State) : Owner → Option Nat
  | .none => none
  | .gang g => some g
  | .task t => (s.taskOf t).bind (fun k => k.gang)

/-- The launch an owner belongs to (R63, R184). -/
def State.ownerLaunch (s : State) : Owner → Option Nat
  | .none => none
  | .gang g => (s.gangOf g).map (fun x => x.launch)
  | .task t => (s.taskOf t).bind (fun k => k.launch)

/-- The launch has ended by an unrecoverable fault (R417). -/
def State.launchFailed (s : State) (l : Option Nat) : Bool :=
  match l.bind s.launchOf with
  | some x => x.cause.isSome
  | none => false

/-- The core ranks of the gang of a core, if it holds one: gang, rank. -/
def State.coreGang (s : State) (n : Nat) : Option Gang := (s.core n).gang.bind s.gangOf

/-- Ranks per chain (R65). -/
def Gang.chainSize (g : Gang) : Nat := g.ha * g.wa
/-- Core of a rank. -/
def Gang.coreOf (g : Gang) (rank : Nat) : Nat := g.cores.getD rank 0
/-- Whether the rank leads its chain (R65). -/
def Gang.leads (g : Gang) (rank : Nat) : Bool := rank % g.chainSize == 0

/-! ### Keys and lines (R157, R158, R189, R471) -/

/-- Where this module's addresses begin in the domain (R124). -/
def State.home (s : State) : Nat := s.modreg.toNat % 1024 * 2 ^ 42

/-- The key of an access to a page: the partition key, or the key of the slot a KEYED page names. -/
def State.keyFor (s : State) (p cls kslot : Nat) : Key :=
  if cls = 3 then .slot kslot (s.keySlot kslot).gen else .partition p (s.part p).gen

/-- The key pair that a key's name stands for. -/
def State.keyValue (s : State) : Key → BitVec 512
  | .partition _ gen => Config.partitionKey gen
  | .slot _ gen => lookup 0 gen s.keyValues

/-- The XTS tweak of a line: its domain physical address bits [51:7] (R157). -/
def State.tweak (s : State) (line : Nat) : Nat := s.modreg.toNat % 1024 * 2 ^ 35 + line

/-- n bytes at a local HBM or scratchpad address within one line, as an access under a key sees them: memory holds what was written,
and a line written under another key is what decrypting its ciphertext yields (R157, R471). -/
def State.bytesUnder (s : State) (k : Key) (pa n : Nat) : List Byte :=
  match locate pa with
  | .hbm _ _ =>
    match (s.lineMeta (lineOf pa)).key with
    | none => memRead s.mem pa n
    | some k' =>
      if k' = k || s.keyValue k' = s.keyValue k then memRead s.mem pa n
      else
        let l := lineOf pa
        bytesAt (xtsDecrypt (s.keyValue k) (s.tweak l) (xtsEncrypt (s.keyValue k') (s.tweak l) (memRead s.mem (128 * l) 128))) (pa % 128) n
  | _ => memRead s.mem pa n

/-- Bytes written within one line under a key: a line last written under another key first becomes what the key reads. -/
def State.writeUnder (s : State) (k : Key) (pa : Nat) (bs : List Byte) : State :=
  match locate pa with
  | .hbm _ _ =>
    let l := lineOf pa
    let m0 := match (s.lineMeta l).key with
      | none => s.mem
      | some k' => if k' = k then s.mem else memWrite s.mem (128 * l) (s.bytesUnder k (128 * l) 128)
    { s with mem := memWrite m0 pa bs, lines := insertAt l { s.lineMeta l with key := some k } s.lines }
  | _ => { s with mem := memWrite s.mem pa bs }

/-! ### Slices (R144 to R148) -/

/-- The tree after an access to way w (16 + w walked up to the root): every node on the path points to the other half. -/
def treeTouch (tree : BitVec 15) (w : Nat) : BitVec 15 :=
  [1, 2, 3, 4].foldl (fun t d =>
    let node := (16 + w) / 2 ^ d - 1
    if (16 + w) / 2 ^ (d - 1) % 2 = 0 then t ||| (1#15 <<< node) else t &&& ~~~(1#15 <<< node)) tree

/-- The pseudo-LRU victim: the leaf that the nodes point to. -/
def treeVictim (tree : BitVec 15) : Nat :=
  ([1, 2, 3, 4] : List Nat).foldl (fun n _ => 2 * n + (tree.getLsbD (n - 1)).toNat) 1 - 16

/-- The line held by way w of a set. -/
def CacheSet.way (c : CacheSet) (w : Nat) : Option Way := lookup none w c.ways
/-- The way that holds a line. -/
def CacheSet.find (c : CacheSet) (line : Nat) : Option Nat :=
  firstBelow 16 (fun w => match c.way w with | some x => x.line == line | none => false)
/-- The set with way w most recently used, holding x. -/
def CacheSet.use (c : CacheSet) (w : Nat) (x : Way) : CacheSet :=
  { ways := insertAt w (some x) c.ways, tree := treeTouch c.tree w }
/-- The way a new line takes: the lowest invalid one, else the victim (R144). -/
def CacheSet.room (c : CacheSet) : Nat := (firstBelow 16 (fun w => (c.way w).isNone)).getD (treeVictim c.tree)

/-- The three blotter indices of a line (R147). -/
def blotterBits (line : Nat) : List Nat :=
  let m := (line % 2 ^ 32) ^^^ (bitsOf line 34 32 * 2 ^ 29)
  [0x8D3A6B15, 0xB7C41E29, 0x5E96F2D3].map (fun k => bitsOf (m * k % 2 ^ 32) 31 16)

/-- The line is seen in one filter or the other (R147). -/
def Slice.seen (c : Slice) (line : Nat) : Bool :=
  (blotterBits line).all (fun i => lookup false i c.filterA) || (blotterBits line).all (fun i => lookup false i c.filterB)
/-- The line inserted into the current filter (R147). -/
def Slice.insert (c : Slice) (line : Nat) : Slice :=
  let put := fun (m : SMap Bool) => (blotterBits line).foldl (fun m i => insertAt i true m) m
  if c.currentB then { c with filterB := put c.filterB } else { c with filterA := put c.filterA }

/-- Controller cycles of 2,048 rotations (R148). -/
def swapPeriod : Nat := 2048 * 320

/-- The slice after n swaps since module reset: each clears the filter that is not current and makes it current (R148). -/
def Slice.upTo (c : Slice) (n : Nat) : Slice :=
  if n ≤ c.swaps then c
  else
    let toB := (c.currentB != decide ((n - c.swaps) % 2 = 1))
    let all := decide (2 ≤ n - c.swaps)
    { c with swaps := n, currentB := toB, filterA := if all || !toB then [] else c.filterA, filterB := if all || toB then [] else c.filterB }

def Slice.set (c : Slice) (i : Nat) : CacheSet := lookup CacheSet.reset i c.sets

/-- The way holds a line that HBM does not hold as it is (R145). -/
def Way.dirty (w : Way) : Bool := w.old.isSome

/-- The resident line of a local address (R144). -/
def State.resident (s : State) (pa : Nat) : Option Way :=
  let c := (s.slice (sliceOf pa)).set (setOf pa)
  (c.find (lineOf pa)).bind c.way

/-- A line as HBM would hold it if nothing newer stood in a slice. -/
def State.hbmLine (s : State) (l : Nat) : HbmLine :=
  ⟨memRead s.mem (128 * l) 128, (s.lineMeta l).tag, (s.lineMeta l).poison, (s.lineMeta l).key⟩

/-- A line is written to HBM: errors of what stood there before are gone (R468). -/
def State.writtenBack (s : State) (l : Nat) : State :=
  if lookup false l s.latent || lookup false l s.unfixable then { s with latent := eraseAt l s.latent, unfixable := eraseAt l s.unfixable } else s

/-- A line is read from HBM: one wrong bit is corrected and counted, and with two it is filled poisoned (R468). What HBM holds stays as it is
until the line is scrubbed or written (DEDUCED, assumption 70). -/
def State.filled (s : State) (l : Nat) : State :=
  let s1 := if lookup false l s.latent then { s with corrected := s.corrected + 1 } else s
  if lookup false l s1.unfixable then s1.setLine l { s1.lineMeta l with poison := true } else s1

/-- A dirty line that a slice loses: HBM keeps what it held (R386, R470, R487). -/
def State.revert (s : State) (w : Way) : State :=
  match w.old with
  | none => s
  | some h => { s.setLine w.line { s.lineMeta w.line with tag := h.tag, poison := h.poison, key := h.key } with
                mem := memWrite s.mem (128 * w.line) h.bytes }

/-- All lines of a slice. -/
def Slice.held (c : Slice) : List Way := c.sets.flatMap (fun e => e.2.ways.filterMap (fun w => w.2))

/-- A slice loses what it holds without write-back. -/
def State.discard (s : State) (i : Nat) : State := (s.slice i).held.foldl State.revert s

/-- An access to a line at its home slice under a key (R144 to R148): whether it hits, and the slice after it. A miss allocates
when told to always, or as the class says: ALWAYS and HGRID do, NOALLOC does not, the others when the blotter has seen the
line. A write that finds or allocates the line leaves it dirty; one that does neither is a write to HBM. A dirty victim is written back. -/
def State.touch (s : State) (k : Key) (cls : Nat) (always write : Bool) (pa : Nat) : Bool × State :=
  let i := sliceOf pa
  let c := (s.slice i).upTo (s.now / 8 / swapPeriod)
  let cs := c.set (setOf pa)
  let l := lineOf pa
  let put := fun (cs' : CacheSet) => s.setSlice i { c with sets := insertAt (setOf pa) cs' c.sets }
  match cs.find l with
  | some w =>
    let x := (cs.way w).getD ⟨l, k, none⟩
    (true, put (cs.use w { x with old := if write && !x.dirty then some (s.hbmLine l) else x.old }))
  | none =>
    let s1 := s.filled l
    if always || cls = 2 || cls = 5 || (cls != 4 && c.seen l) then
      let s2 := match cs.way cs.room with | some v => if v.dirty then s1.writtenBack v.line else s1 | none => s1
      (false, s2.setSlice i { c with sets := insertAt (setOf pa) (cs.use cs.room ⟨l, k, if write then some (s1.hbmLine l) else none⟩) c.sets })
    else
      let s2 := if write then s1.writtenBack l else s1
      if cls = 4 then (false, s2) else (false, s2.setSlice i (c.insert l))

/-- Why a local global line cannot be served at its home: lost slice or channel (R470), key slot unbound or of another
partition, key other than the resident line's (R471). -/
def State.homeCause (s : State) (p : Nat) (g : Target) : Option Nat :=
  let pa := localOf g.pa
  match locate pa with
  | .hbm _ _ =>
    if (s.slice (sliceOf pa)).lost || (s.channel (channelOf pa)).lost then some 0x64
    else if g.cls = 3 && decide ((s.keySlot g.kslot).bound ≠ some p) then some 0x62
    else match s.resident pa with
      | some w => if w.key = s.keyFor p g.cls g.kslot then none else some 0x63
      | none => none
  | _ => none

/-- Whether the bytes at a target of this module are poisoned: a line of HBM, as its slice holds it or would fill it, or a granule of a
scratchpad (R468, R469). -/
def State.poisonedAt (s : State) (g : Target) : Bool :=
  let pa := localOf g.pa
  match locate pa with
  | .scratch n o => lookup false (o / 16) (s.core n).gpoison
  | _ => (s.lineMeta (lineOf pa)).poison || (lookup false (lineOf pa) s.unfixable && (s.resident pa).isNone)

/-- The line's sequence tag incremented by a write (R190). -/
def State.bumpTag (s : State) (l : Nat) : State :=
  s.setLine l { s.lineMeta l with tag := (s.lineMeta l).tag + 1 }

/-- NODE of MODREG (R384). -/
def State.nodeNumber (s : State) : Nat := bitsOf s.modreg.toNat 25 16

/-- The value of a partition's link key, if one is loaded (R392). -/
def State.linkKey (s : State) (p : Nat) : Option (BitVec 512) := (s.part p).linkGen.map (fun g => lookup 0 g s.keyValues)

/-- A request flit of a partition to another module (R390). -/
def State.flitFor (s : State) (p dst : Nat) (k : FlitKind) (addr size : Nat) (data : List Byte) : Flit :=
  { src := s.modreg.toNat % 1024, dst := dst, part := p, kind := k, counter := 0, auth := true, key := (s.linkKey p).getD 0,
    addr := addr, size := size, atomic := 0, data := data, mask := [], scope := 0, unit := 0, thr := 0, gang := 0,
    node := s.nodeNumber, token := 0, refused := false, poison := false, tag := none, full := false, scales := [], well := none }

/-- The port by which a flit of partition p leaves for a module, if its route names an own port that is up (R391, R479). Without a link key
nothing can leave, as over a port that is down (R392; DESIGN CHOICE, assumption 143). -/
def State.routePort (s : State) (p m : Nat) : Option Nat :=
  let port := (lookup 0 m (s.part p).routes).toNat % 16
  if s.owns p (port / 2) && !(lookup false port s.portsDown) && (s.part p).linkGen.isSome then some port else none

/-- A flit leaves by its route; without a usable port it is dropped. It carries the port's count of the flits sent (R392). -/
def State.sendFlit (s : State) (p : Nat) (f : Flit) : State :=
  match s.routePort p f.dst with
  | none => s
  | some port =>
    let n := lookup 0 port s.flitTx
    { s with flitTx := insertAt port (n + 1) s.flitTx, output := s.output ++ [.flit port { f with counter := n }] }

/-- Bytes of at most one line of this module as they stand at their home, which reports them. -/
def State.readAt (s : State) (p : Nat) (g : Target) (n : Nat) : List Byte :=
  s.bytesUnder (s.keyFor p g.cls g.kslot) (localOf g.pa) n

/-! ### Requests -/

/-- Requests of one thread that are still out. -/
def State.reqsOf (s : State) (u t : Nat) : List Req := s.reqs.filter (fun r => r.by_.unit == u && r.by_.thr == t)

/-- Writes in the sense of R191: counted until their acknowledgement. -/
def MemOp.isWrite : MemOp → Bool
  | .store _ _ | .amo _ _ _ _ | .vstore _ | .granules _ _ | .evict _ | .tstr _ _ | .hgAdd _ _ _ | .engine _ _ _ _ _ _ => true
  | _ => false

/-- A well operation of a thread (R177). -/
def MemOp.isWell : MemOp → Bool
  | .well _ _ => true
  | _ => false

/-- The read of a line into the tag table and a writer's amax, which go on when their thread ends (R121, R143). -/
def MemOp.isFill : MemOp → Bool
  | .fill _ => true
  | .amax _ => true
  | _ => false

/-- Reads whose landing a FENCE or a release waits for (R191, R192). -/
def MemOp.isRead : MemOp → Bool
  | .load _ | .lde _ _ | .amo _ _ _ _ | .vload _ _ _ | .fill _ | .hgRead _ _ | .wtest _ => true
  | _ => false

/-- Numbers of the thread's hashed-grid operations in progress that write (HGSC) or read (HGLD). -/
def State.hgOut (s : State) (u t : Nat) (scatter : Bool) : List Nat :=
  (s.hgOps.filter (fun h => h.by_.unit == u && h.by_.thr == t && h.scatter == scatter)).map (fun h => h.id)
/-- A read of the tables for an HGSC, which goes on when its thread ends. -/
def State.readsForHgsc (s : State) (o : MemOp) : Bool :=
  match o with
  | .hgRead op _ => s.hgOps.any (fun h => h.id == op && h.scatter)
  | _ => false
/-- Numbers of the thread's outstanding writes (R191). -/
def State.writesOut (s : State) (u t : Nat) : List Nat :=
  ((s.reqsOf u t).filter (fun r => r.op.isWrite)).map (fun r => r.id) ++ s.hgOut u t true
/-- Numbers of the thread's outstanding reads and writes. -/
def State.accessesOut (s : State) (u t : Nat) : List Nat :=
  ((s.reqsOf u t).filter (fun r => r.op.isWrite || r.op.isRead)).map (fun r => r.id) ++ s.hgOut u t true ++ s.hgOut u t false
/-- Numbers of the thread's acquires that have not landed (R192). -/
def State.acquiresOut (s : State) (u t : Nat) : List Nat := ((s.reqsOf u t).filter (fun r => r.acquire)).map (fun r => r.id)
/-- Whether all these requests and hashed-grid operations have finished. -/
def State.finished (s : State) (ids : List Nat) : Bool :=
  ids.all (fun i => s.reqs.all (fun r => r.id != i) && s.hgOps.all (fun h => h.id != i))
/-- A checked synchronisation access of the thread has no answer yet (R201). -/
def State.checkOut (s : State) (u t : Nat) : Bool := (s.reqsOf u t).any (fun r => r.check.isSome)

/-- The controller cycle that a time falls in, and the time at which a controller cycle begins: the controllers run at 1.171875 GHz
(R23, R149). -/
def ccOf (t : Nat) : Nat := t / 8
def timeOfCc (cc : Nat) : Nat := 8 * cc
/-- Controller cycles since module reset. -/
def State.cc (s : State) : Nat := ccOf s.now
/-- Time passes to a moment, unless it has come already; and to the beginning of a controller cycle. -/
def State.passTo (s : State) (t : Nat) : State := { s with now := max s.now t }
def State.ccTo (s : State) (c : Nat) : State := s.passTo (timeOfCc c)

/-- The cycles that an island has counted by a time: a MHz is one cycle in 9,375 eighths of a controller cycle (R5, R23). A stopped
island counts none. -/
def Island.cycles (k : Island) (t : Nat) : Nat := if k.stopped then k.base else k.base + (t - k.since) * k.mhz / 9375
/-- The first time at which an island has counted so many cycles. -/
def Island.timeOf (k : Island) (c : Nat) : Nat := k.since + ((c - k.base) * 9375 + k.mhz - 1) / k.mhz
/-- An island changed: the cycles counted so far stand, and from now on it counts at its new clock. -/
def State.retime (s : State) (i : Nat) (f : Island → Island) : State :=
  s.updIsland i (fun k => f { k with base := k.cycles s.now, since := s.now })
/-- The cycles of the island that clocks a sequencer and, on a core, its array (R5, R230). -/
def State.cycles (s : State) (u : Nat) : Nat := (s.island (islandOfUnit u)).cycles s.now
/-- The first time at which the island of a unit has counted so many cycles. -/
def State.timeOfCycle (s : State) (u c : Nat) : Nat := (s.island (islandOfUnit u)).timeOf c
/-- The time so many cycles after the present one on the clock of a unit. -/
def State.later (s : State) (u n : Nat) : Nat := s.timeOfCycle u (s.cycles u + n)

/-- Flags that an agent of a thread raises now. -/
def State.agentFlags (s : State) (u t : Nat) (f : BitVec 8) : State := s.updThread u t (fun th => th.raiseAgent (s.cycles u) f)

/-- A fresh number. -/
def State.fresh (s : State) : State := { s with nextId := s.nextId + 1 }
/-- A request added at the end of the issue order, with a fresh number; what it must wait for is what is out now: every
access of the thread for a release, every acquire for another access (R192). -/
def State.pushReq (s : State) (r : Req) : State :=
  let w := if r.release then s.accessesOut r.by_.unit r.by_.thr else s.acquiresOut r.by_.unit r.by_.thr
  { s with reqs := s.reqs ++ [{ r with id := s.nextId, after := r.after ++ w }], nextId := s.nextId + 1 }
def State.updReq (s : State) (i : Nat) (f : Req → Req) : State :=
  { s with reqs := s.reqs.map (fun r => if r.id = i then f r else r) }
def State.dropReq (s : State) (i : Nat) : State := { s with reqs := s.reqs.filter (fun r => r.id != i) }

/-! ### Faults (R402 to R405, R412, R417) -/

/-- Threads of all sequencers become ready to be looked at again: something has happened (R92). -/
def Seq.unblock (q : Seq) : Seq := { q with threads := q.threads.map (fun t => { t with blocked := false }) }
def State.unblock (s : State) : State := { s with seqs := s.seqs.map (fun e => (e.1, e.2.unblock)) }

/-- The record of a fault of a thread, task or copy of a launch (R412). -/
def State.faultRec (s : State) (i : Issue) (p kind cause : Nat) (addr : Nat) (status : BitVec 32) (unit : ParkUnit) : FaultRec :=
  let l := (s.ownerLaunch i.owner)
  let lau := l.bind s.launchOf
  let gid := ((s.ownerGang i.owner).bind s.gangOf).map (fun g => g.s)
  { part := p, kind := kind, cause := cause, req := i.unit, thr := i.thr, cls := i.cls, slot := i.slot, chan := 0,
    addr := BitVec.ofNat 64 addr, bundle := i.bundle, status := status,
    lwidx := (lau.map (fun x => x.lwidx)).getD 0, queue := (lau.map (fun x => x.queue)).getD 0, gangid := gid.getD 0,
    progress := 0, unit := unit, launch := l }

/-- A launch ends by an unrecoverable fault: its END entry waits to be written, and the first fault's cause is that of
the completion record; a SWITCH of the launch notes it (R417, R423). A partition without a fault queue records no entry (R411). -/
def State.failLaunch (s : State) (r : FaultRec) : State :=
  let s1 := if (s.part r.part).fqbase = 0 then s else { s with faults := s.faults ++ [{ r with kind := 3, unit := .none }] }
  match r.launch with
  | none => s1
  | some l =>
    { s1.updLaunch l (fun x => if x.cause.isSome then x else { x with cause := some (r.cause, 0) }) with
      commands := s1.commands.map (fun c => if c.op = 6 && c.arg = l then { c with failed := true } else c) }

/-- The flag bytes of a task's threads (R174, R182). -/
def State.taskFlags (s : State) (k : Task) : BitVec 8 :=
  k.threads.foldl (fun f t => f ||| (s.thread (192 + k.quill) t).flagByte) 0

/-- A task posted from outside any launch ends with a cause, which its status word is to report: its threads stop (R447). -/
def State.failTask (s : State) (t cause : Nat) : State :=
  match (s.taskOf t).filter (fun k => k.done.isNone) with
  | none => s
  | some k =>
    let s1 := k.threads.foldl (fun s i => s.updThread (192 + k.quill) i
      (fun th => { th with status := .idle, owner := .none, traps := [], loop := none, trig := none })) s
    { s1 with tasks := s1.tasks.map (fun x => if x.id = t then { x with done := some (cause, s.taskFlags k), parked := false } else x),
              reqs := s1.reqs.map (fun r => if r.by_.owner = .task t then { r with dropped := true } else r),
              hgOps := s1.hgOps.filter (fun h => decide (h.by_.owner ≠ .task t)) }

/-- An unrecoverable fault of a thread, or of an access of a thread (R405, R417, R447). -/
def State.fail (s : State) (i : Issue) (cause addr : Nat) (status : BitVec 32) : State :=
  let p := (s.partOfUnit i.unit).getD 0
  match i.owner with
  | .none => s
  | .gang _ => s.failLaunch (s.faultRec i p 3 cause addr status .none)
  | .task t =>
    match (s.taskOf t).bind (fun k => k.launch) with
    | some _ => s.failLaunch (s.faultRec i p 3 cause addr status .none)
    | none => s.failTask t cause

/-- A recoverable fault of a thread parks its gang or task (R403, R414); without a fault queue it is unrecoverable
(R411). -/
def State.park (s : State) (i : Issue) (addr : Nat) (status : BitVec 32) : State :=
  let p := (s.partOfUnit i.unit).getD 0
  if (s.part p).fqbase = 0 then s.fail i 0x41 addr status
  else match i.owner with
    | .none => s
    | .gang g =>
      let s1 := { s with faults := s.faults ++ [s.faultRec i p 0 0x41 addr status (.gang g i)] }
      s1.updGang g (fun x => { x with parks := x.parks + 1 })
    | .task t =>
      let s1 := { s with faults := s.faults ++ [s.faultRec i p 2 0x41 addr status (.task t i)] }
      s1.updTask t (fun x => { x with parked := true })

/-! ### Traps (R408, R410) -/

/-- TCAUSE's layout (R406). -/
def tcauseWord (t : PendingTrap) : BitVec 32 :=
  BitVec.ofNat 32 ((if t.async then 2 ^ 31 else 0) + t.cause * 2 ^ 16 + t.info * 2 ^ 8 + t.cls * 2 ^ 4 + t.slot)

/-- A trap is taken: the trap registers are written, INTRAP becomes 1, and the next bundle comes from TVEC. With TVEC 0,
or INTRAP already 1, it is an unrecoverable fault, with its own cause or with 0x02 (R408). The bundle is the one a record
names. -/
def State.takeTrap (s : State) (u t : Nat) (tr : PendingTrap) (tepc bundle : Word) : State :=
  let th := s.thread u t
  let i : Issue := ⟨u, t, th.owner, bundle, tr.cls, tr.slot⟩
  if th.tvec = 0 then s.fail i tr.cause tr.addr.toNat tr.stat
  else if th.intrap then s.fail i 0x02 tr.addr.toNat tr.stat
  else s.setThread u t { th with tepc := tepc, tcause := tcauseWord tr, taddr := tr.addr, tstat := tr.stat, intrap := true,
                                 pc := th.tvec, traps := [], waitUntil := max th.waitUntil (s.cycles u + 1),
                                 loop := th.loop.map (fun l => { l with susp := some (l.susp.getD tepc) }) }

/-- The position of an address in a loop's body, as far as its bundles have been fetched (R221). -/
def LoopState.place (l : LoopState) (pc : Word) : Option Nat :=
  match l.entries.findIdx? (fun e => e.1 == pc), l.entries.getLast? with
  | some i, _ => some i
  | none, some e => if l.entries.length < l.len && pc == e.1 + BitVec.ofNat 64 (4 * e.2.length) then some l.entries.length else none
  | none, none => if pc == l.body then some 0 else none

/-- A loop that a trap interrupted, once the thread goes on at an address: from the bundle it would have issued next, or from another of
its body; held as it stands while the thread is elsewhere (R408, R431; DESIGN CHOICE, assumption 27). -/
def LoopState.resume (l : LoopState) (pc : Word) : LoopState :=
  if l.susp = some pc then { l with susp := none }
  else match l.place pc with
    | some i => { l with susp := none, pos := i }
    | none => l

/-- ERET with INTRAP 1: INTRAP becomes 0 and the next bundle comes from TEPC as the bundle read it (R218, R410). A loop that the trap
interrupted is kept (R408, R431); one of the handler's own ends, as by a taken branch (R410). -/
def Thread.eret (th : Thread) (tepc : Word) : Thread :=
  { th with intrap := false, pc := tepc, loop := th.loop.bind (fun l => l.susp.map (fun _ => l.resume tepc)) }

/-- The thread is passing over the bundles of a loop of count 0 (R221). -/
def Thread.skipping (th : Thread) : Bool :=
  match th.loop with
  | some l => l.remaining == 0 && l.susp.isNone
  | none => false

/-- The pending trap of lowest cause; the others are discarded (R408). -/
def lowestTrap : List PendingTrap → Option PendingTrap
  | [] => none
  | t :: ts =>
    match lowestTrap ts with
    | none => some t
    | some t' => if t'.cause < t.cause then some t' else some t

/-- At a bundle boundary the pending trap of lowest cause is taken (R408); a record of it names the bundle that raised it (R412). Bundles
that a loop of count 0 skips are passed over first, since none of them is the next to issue (R221). -/
def State.boundary (s : State) (u t : Nat) (bundle : Word) : State :=
  match if (s.thread u t).skipping then none else lowestTrap (s.thread u t).traps with
  | none => s
  | some tr => s.takeTrap u t tr (s.thread u t).pc (tr.bundle.getD bundle)

end Sys2Proof.Machine
end

