-- ==== Sys2Proof/Machine/Translation.lean ====
section
/-! DEFINITION. Translation of virtual addresses (R124, R127 to R131, R453, R455). -/

namespace Sys2Proof.Machine

/-- Access kinds, numbered as R451 numbers them. -/
inductive Access where
  | read | write | atomic | fetch | walk
  deriving DecidableEq, Repr

def Access.num : Access → Nat
  | .read => 0 | .write => 1 | .atomic => 2 | .fetch => 3 | .walk => 4

/-- The access needs W = 1 (R129). -/
def Access.writes : Access → Bool
  | .write => true | .atomic => true | _ => false

/-- A failed translation: cause and status word (R451). Cause 0x41 is the recoverable one. -/
structure XFault where
  cause : Nat
  status : BitVec 32
  deriving DecidableEq, Repr

/-- The status word of causes 0x40 to 0x46: DETAIL, access kind, level (R451). -/
def xstatus (detail : Nat) (k : Access) (level : Nat) : BitVec 32 := BitVec.ofNat 32 (detail * 2 ^ 24 + k.num * 4 + level)
/-- The status word of other causes: DETAIL alone. -/
def detailStatus (detail : Nat) : BitVec 32 := BitVec.ofNat 32 (detail * 2 ^ 24)

/-- Bytes of a page by SIZE (R129). -/
def pageBytes (size : Nat) : Nat :=
  match size with
  | 0 => 2 ^ 12 | 1 => 2 ^ 16 | 2 => 2 ^ 18 | 3 => 2 ^ 21 | 4 => 2 ^ 25 | 5 => 2 ^ 29 | _ => 2 ^ 33

/-- Level at which a leaf of a SIZE stands (R130). -/
def leafLevel (size : Nat) : Option Nat := if size ≤ 3 then some 0 else if size ≤ 6 then some 1 else none

/-- Whether n bytes at a local address lie in HBM of the partition's own blocks. -/
def State.ownHbm (s : State) (p pa n : Nat) : Bool :=
  match locate pa, locate (pa + n - 1) with
  | .hbm b _, .hbm b' _ => b == b' && s.owns p b
  | _, _ => false

/-- The eight bytes of a page-table entry, read through their home with the partition key (R131, R157). -/
def State.pte (s : State) (p pa : Nat) : Nat := leNat (s.bytesUnder (s.keyFor p 0 0) pa 8)

/-- The slice or channel of an entry of a table is lost: it cannot be read (R470). -/
def State.entryLost (s : State) (pa : Nat) : Bool := (s.slice (sliceOf pa)).lost || (s.channel (channelOf pa)).lost

/-- The leaf of a walk (R128 to R130, R453): levels still to visit, the table's local address. An entry on a poisoned line is cause 0x4C with
STATUS 0, which R469 does not say of a walk; a leaf with reserved CLASS 6 or 7 is invalid as one with reserved bits set, which R453 does not
list (DESIGN CHOICE, assumption 142). -/
def State.walkFrom (s : State) (p va : Nat) (k : Access) : Nat → Nat → Except XFault TlbEntry
  | level, table =>
    if ¬ s.ownHbm p table 16384 then .error ⟨0x44, xstatus 0 k level⟩
    else
      let pa := table + 8 * (va / 2 ^ (12 + 11 * level) % 2048)
      if s.entryLost pa then .error ⟨0x64, 0⟩
      else if s.poisonedAt ⟨s.home + pa, 0, 0⟩ then .error ⟨0x4C, 0⟩
      else
        let e := s.pte p pa
        let cls := bitsOf e 9 7
        if e % 2 = 0 then .error ⟨if cls = 1 then 0x41 else 0x40, xstatus 0 k level⟩
        else if bitsOf e 1 1 = 0 then
          if bitsOf e 11 2 ≠ 0 || bitsOf e 63 52 ≠ 0 || bitsOf e 13 12 ≠ 0 then .error ⟨0x44, xstatus 0 k level⟩
          else match level with
            | 0 => .error ⟨0x44, xstatus 0 k 0⟩
            | l + 1 => s.walkFrom p va k l (bitsOf e 51 12 * 4096)
        else
          let size := bitsOf e 4 2
          let page := pageBytes size
          let base := bitsOf e 51 12 * 4096
          if bitsOf e 63 58 ≠ 0 || bitsOf e 11 10 ≠ 0 || (cls ≠ 3 && bitsOf e 57 52 ≠ 0) || 6 ≤ cls || leafLevel size ≠ some level
              || base % page ≠ 0 then .error ⟨0x44, xstatus 0 k level⟩
          else .ok ⟨p, va / page * page, page, base, cls, bitsOf e 57 52, bitsOf e 5 5 == 1, bitsOf e 6 6 == 1⟩
  termination_by structural l => l

/-- The unit whose cached translations serve an issuer: an edge unit of a core shares its die's cache with the copy engines (R131). -/
def tlbUnit (i : Issue) : Nat := if i.unit < 192 && 8 ≤ i.thr then 224 + 2 * (i.unit / 24) else i.unit

/-- The cached translations that serve a unit: its own buffer, or for a copy engine its die's (R131). -/
def State.cached (s : State) (u : Nat) : List TlbEntry :=
  if 224 ≤ u && u < 240 then lookup [] (dieOfBlock (blockOfUnit u)) s.dieTlb else (s.seq u).tlb

/-- The page of an address: a cached translation of the unit if it has one (R131), else a walk from PTBASE (R128). -/
def State.pageOf (s : State) (p u va : Nat) (k : Access) : Except XFault TlbEntry :=
  match (s.cached u).find? (fun e => e.part == p && e.vbase ≤ va && va < e.vbase + e.size) with
  | some e => .ok e
  | none => s.walkFrom p va k 3 (s.part p).ptbase

/-- Local addresses of the entries that a walk reads, whether or not it comes to a page. -/
def State.walkPath (s : State) (p va : Nat) : Nat → Nat → List Nat
  | level, table =>
    let pa := table + 8 * (va / 2 ^ (12 + 11 * level) % 2048)
    let e := s.pte p pa
    if ¬ s.ownHbm p table 16384 || s.entryLost pa then []
    else if s.poisonedAt ⟨s.home + pa, 0, 0⟩ || e % 2 = 0 || bitsOf e 1 1 = 1 || bitsOf e 11 2 ≠ 0 || bitsOf e 63 52 ≠ 0 || bitsOf e 13 12 ≠ 0 then [pa]
    else pa :: (match level with
      | 0 => []
      | l + 1 => s.walkPath p va l (bitsOf e 51 12 * 4096))
  termination_by structural l => l

/-- A walk's page held by a unit: in its buffer of 128 entries, or for a copy engine or edge unit in its die's cache of 4,096 (R131). The
scheduler and the host hold none. -/
def State.holdPage (s : State) (u : Nat) (e : TlbEntry) : State :=
  let kept := e :: (s.cached u).filter (fun x => !(x.part == e.part && x.vbase == e.vbase))
  if u < 224 then s.setSeq u { s.seq u with tlb := kept.take 128 }
  else if u < 240 then { s with dieTlb := insertAt (dieOfBlock (blockOfUnit u)) (kept.take 4096) s.dieTlb }
  else s

/-- A walk for a unit: each level's line is read through its home and allocated, and the page that it comes to is held (R128 to R131,
R146). -/
def State.walkInto (s : State) (u p va : Nat) : State :=
  let s1 := (s.walkPath p va 3 (s.part p).ptbase).foldl (fun s pa => (s.touch (s.keyFor p 0 0) 0 true false pa).2) s
  match s.walkFrom p va .walk 3 (s.part p).ptbase with
  | .error _ => s1
  | .ok e => s1.holdPage u e

/-- The address is one of the scratchpad window (R127). -/
def inWindow (va : Nat) : Bool := va / 2 ^ 29 == 2 ^ 27 - 1

/-- What the translation of an access leaves behind, whether it succeeds or faults: the walk of a page that the unit does not hold. -/
def State.walked (s : State) (u p va : Nat) : State :=
  if 2 ^ 56 ≤ va || inWindow va || (s.cached u).any (fun e => e.part == p && e.vbase ≤ va && va < e.vbase + e.size) then s
  else s.walkInto u p va

/-- A core that is retired while the spare of its block is in use: its number names no core (R482). -/
def State.noCore (s : State) (n : Nat) : Bool := (s.seq n).retired && s.sparesUsed.getLsbD (n / 24)

/-- Whether a translated address is one the partition may reach: its own HBM and scratchpads, and other modules' memory, but
no device control space (R156, R453). -/
def State.reachable (s : State) (p pa : Nat) : Bool :=
  let l := localOf pa
  if moduleOf pa = s.modreg.toNat % 1024 then
    match locate l with
    | .hbm b _ => s.owns p b
    | .scratch n _ => s.owns p (n / 24) && !s.noCore n
    | _ => false
  else match locate l with
    | .control _ => false
    | .hole => false
    | _ => true

/-- Level at which a page's leaf stands, for the status word. -/
def levelOfPage (size : Nat) : Nat := if size ≤ 2 ^ 21 then 0 else 1

/-- A virtual address of partition p, translated for unit u (R124, R127 to R131). Window addresses name scratchpads of the
partition directly; a fetch through the window is one from a page with X = 0, and its STATUS names the level of an access without a walk, 3
(DEDUCED, assumption 109). -/
def State.translate (s : State) (p u va : Nat) (k : Access) : Except XFault Target :=
  if 2 ^ 56 ≤ va then .error ⟨0x40, xstatus 1 k 3⟩
  else if 2 ^ 27 - 1 = va / 2 ^ 29 then
    let n := bitsOf va 28 21
    if k = .fetch then .error ⟨0x43, xstatus 0 k 3⟩
    else if 192 ≤ n || ¬ s.owns p (n / 24) || s.noCore n then .error ⟨0x48, 0⟩
    else .ok ⟨s.modreg.toNat % 1024 * 2 ^ 42 + scratchPa n (va % 0x200000), 0, 0⟩
  else
    match s.pageOf p u va k with
    | .error e => .error e
    | .ok e =>
      let pa := e.pbase + (va - e.vbase)
      if k.writes && !e.w then .error ⟨0x42, xstatus 0 k (levelOfPage e.size)⟩
      else if k = .fetch && !e.x then .error ⟨0x43, xstatus 0 k (levelOfPage e.size)⟩
      else if ¬ s.reachable p pa then .error ⟨0x45, xstatus 0 k (levelOfPage e.size)⟩
      else .ok ⟨pa, e.cls, e.kslot⟩

/-- An agent's access whose translation faults leaves its walk behind too. -/
def State.walkedFor (s : State) (u p cause va : Nat) : State := if 0x40 ≤ cause && cause ≤ 0x45 then s.walked u p va else s

/-! ### The class of a line for an access from outside (R132, R159) -/

/-- The entries of a table that are not all zero, by their index (R128). -/
def State.tableIndexes (s : State) (table : Nat) : List Nat :=
  (s.mem.filter (fun c => decide (table ≤ c.1) && decide (c.1 < table + 16384))).foldl (fun l c =>
    let i := (c.1 - table) / 8
    if l.contains i then l else l ++ [i]) []

/-- The pages that a table maps and those below it, in ascending virtual address (R128 to R130). -/
def State.leavesFrom (s : State) (p : Nat) : Nat → Nat → Nat → List TlbEntry
  | level, table, vbase =>
    if ¬ s.ownHbm p table 16384 then []
    else (s.tableIndexes table).flatMap (fun i =>
      let va := vbase + i * 2 ^ (12 + 11 * level)
      let e := s.pte p (table + 8 * i)
      if e % 2 = 0 then []
      else if bitsOf e 1 1 = 0 then match level with
        | 0 => []
        | l + 1 => s.leavesFrom p l (bitsOf e 51 12 * 4096) va
      else match s.walkFrom p va .walk level table with
        | .ok t => [t]
        | .error _ => [])
  termination_by structural l => l

/-- Class and key slot with which a module's partition maps a local address: those of the first page in ascending virtual address; PLAIN
where it maps none (R132, R159; DESIGN CHOICE, assumption 140). -/
def State.lineClass (s : State) (p pa : Nat) : Nat × Nat :=
  match (s.leavesFrom p 3 (s.part p).ptbase 0).find? (fun t => t.pbase ≤ s.home + pa && s.home + pa < t.pbase + t.size) with
  | some t => (t.cls, t.kslot)
  | none => (0, 0)

/-- The target is in this module. -/
def State.isLocal (s : State) (g : Target) : Bool := moduleOf g.pa == s.modreg.toNat % 1024

/-- Core and offset of a target that is a scratchpad of this module. -/
def State.scratchOf (s : State) (g : Target) : Option (Nat × Nat) :=
  if s.isLocal g then
    match locate (localOf g.pa) with
    | .scratch n o => some (n, o)
    | _ => none
  else none

end Sys2Proof.Machine
end

