-- ==== Sys2Proof/Machine/Issue.lean ====
section
/-! DEFINITION. Issue of a bundle (R16, R92, R206 to R221, R427 to R432): the checks of its encoding, the four stages, and
what follows its commit. A slot's meaning reads the state before the bundle and answers either why the bundle stops or what
its commit does. -/

namespace Sys2Proof.Machine

/-- The issue of one slot: unit, thread, address of its bundle and of the next one, its position and its word. -/
structure Issuer where
  unit : Nat
  thr : Nat
  pc : Word
  next : Word
  slot : Nat
  word : SlotWord
  deriving DecidableEq, Repr

/-- Why a bundle does not commit at a slot, by the stage that finds it (R218, R427). -/
inductive Stop where
  /-- Found at check: a trap of cause, INFO and TSTAT (R425). -/
  | checkTrap (cause info : Nat) (stat : BitVec 32)
  /-- Found at check: an unrecoverable fault. -/
  | checkFault (cause : Nat) (status : BitVec 32)
  /-- A blocking condition of R17. -/
  | block
  /-- EDRAIN blocks at check while writers it names have open streams, which are to close (R319). -/
  | drain (units : BitVec 4)
  /-- WWAIT on another core's well blocks at check; the wait for a phase other than this one is registered with its bank unit (R273). -/
  | wellBlock (pa : Nat) (ph : Bool)
  /-- Found at read: a trap. -/
  | readTrap (cause info : Nat) (stat : BitVec 32)
  /-- Found at read: an unrecoverable fault. -/
  | readFault (cause : Nat) (addr : Nat) (status : BitVec 32)
  /-- Found at translate: cause 0x41 is recoverable (R450). -/
  | xlate (cause : Nat) (addr : Nat) (status : BitVec 32)
  deriving DecidableEq, Repr

/-- Stages in the order of R427: causes found at check come before the blocking conditions. -/
def Stop.stage : Stop → Nat
  | .checkTrap _ _ _ => 0
  | .checkFault _ _ => 0
  | .block => 1
  | .drain _ => 1
  | .wellBlock _ _ => 1
  | .readTrap _ _ _ => 2
  | .readFault _ _ _ => 2
  | .xlate _ _ _ => 3

/-- What an instruction or device step answers. -/
abbrev Result := Host.Outcome State Fault Refusal

/-- What a slot's commit does. -/
abbrev Commit := State → State

/-- The meaning of a slot. -/
abbrev Slot := Issuer → State → Except Stop Commit

/-- One slot of a bundle: its instruction, position, word and meaning. -/
structure SlotRun where
  instr : Instr
  pos : Nat
  word : SlotWord
  run : Slot

/-! ### Sources and destinations (R210, R211, R432) -/

/-- The first source named with T = 1 that is empty. -/
def emptyT1 (th : Thread) : List (BitVec 5 × Bool) → Option (BitVec 5)
  | [] => none
  | (r, t) :: rs => if t && !th.fullX r then some r else emptyT1 th rs

/-- A slot's x sources, each with its T bit, and x destinations: an empty register blocks, and an empty source with T = 1
traps at read. -/
def ready (th : Thread) (srcs : List (BitVec 5 × Bool)) (dsts : List (BitVec 5)) : Except Stop Unit :=
  if srcs.any (fun r => !r.2 && !th.fullX r.1) || dsts.any (fun r => !th.fullX r) then .error .block
  else match emptyT1 th srcs with
    | some r => .error (.readTrap 0x12 r.toNat 0)
    | none => .ok ()

/-- The same for a slot whose operand values have a cause of their own at read, tested before the causes of higher code (R427). -/
def readyUnless (th : Thread) (srcs : List (BitVec 5 × Bool)) (dsts : List (BitVec 5)) (own : Option Stop) : Except Stop Unit :=
  match ready th srcs dsts, own with
  | .error .block, _ => .error .block
  | _, some e => .error e
  | r, none => r

/-- The thread a slot issues from. -/
def Issuer.th (c : Issuer) (s : State) : Thread := s.thread c.unit c.thr

/-- A commit that changes the issuing thread only. -/
def Issuer.commit (c : Issuer) (f : Thread → Thread) : Commit := fun s => s.updThread c.unit c.thr f

/-- A commit that writes one x register. -/
def Issuer.writeX (c : Issuer) (d : BitVec 5) (v : Word) : Commit := c.commit (fun th => th.setX d v)

/-- The record of who issues, for a slot of a class. -/
def Issuer.issue (c : Issuer) (s : State) (cls : Nat) : Issue := ⟨c.unit, c.thr, (c.th s).owner, c.pc, cls, c.slot⟩

/-- The issuing unit's partition. -/
def Issuer.part (c : Issuer) (s : State) : Nat := (s.partOfUnit c.unit).getD 0

/-- A translation in the translate stage. -/
def Issuer.xlate (c : Issuer) (s : State) (va : Nat) (k : Access) : Except Stop Target :=
  match s.translate (c.part s) c.unit va k with
  | .ok g => .ok g
  | .error e => .error (.xlate e.cause va e.status)

/-! ### The encoding of a bundle (R206 to R209, R217, R429) -/

/-- A register that a slot writes, for the rule of coinciding destinations (R217). -/
inductive Dest where
  | x (r : BitVec 5) | p (r : BitVec 3) | v (r : BitVec 5) | m (r : BitVec 3)
  deriving DecidableEq, Repr

/-- Destinations that name x0, p0 or m0 never coincide (R217). -/
def Dest.real : Dest → Bool
  | .x r => r != 0 | .p r => r != 0 | .v _ => true | .m r => r != 0

/-- The x, p, v and m registers an instruction's fields name as destinations; HGLD's are those that it marks empty at commit (R369). -/
def instrDests : Instr → List Dest
  | .add o | .sub o | .mul o | .mulh o | .mulhu o | .div o | .divu o | .rem o | .remu o | .and o | .or o | .xor o
  | .andn o | .shl o | .shr o | .sra o | .rol o | .min o | .max o | .minu o | .maxu o => [.x o.dst]
  | .cmp o | .fcmp o => [.p o.dst]
  | .sel o => [.x o.dst]
  | .plog o => [.p o.dst]
  | .clz o | .ctz o | .popc o => [.x o.dst]
  | .addi o _ => [.x o.dst]
  | .cmpi o _ => [.p o.dst]
  | .li o _ => [.x o.dst]
  | .fadd o | .fsub o | .fmul o | .fma o => [.x o.dst]
  | .fmin o | .fmax o => [.x o.dst]
  | .fcvt o _ => [.x o.dst]
  | .ld o _ | .lde o _ | .ldeC o _ => [.x o.reg]
  | .lda o _ => [.x o.reg]
  | .tlook o => [.x o.dst]
  | .mfs o => [.x o.reg]
  | .amoAdd o | .amoAnd o | .amoOr o | .amoXor o | .amoMin o | .amoMax o | .amoMinu o | .amoMaxu o | .amoSwp o | .amoCas o
  | .amoFadd o | .amoFmax o | .amoAddD o | .amoAndD o | .amoOrD o | .amoXorD o | .amoMinD o | .amoMaxD o | .amoMinuD o
  | .amoMaxuD o | .amoSwpD o | .amoCasD o => [.x o.dst]
  | .bcall _ _ => [.x 30]
  | .cpy o => [.x o.dst]
  | .cpyx o => [.x o.dst]
  | .wtest o => [.x o.dst]
  | .qpost o => [.x o.dst]
  | .wflg o => [.x o.dst]
  | .vld o _ | .vgth o _ | .vadd o _ | .vsub o _ | .vmul o _ | .vfma o _ | .vmin o _ | .vmax o _ | .vpool o _ => [.v o.dst]
  | .vred o _ => [.v o.dst]
  | .vcmp o _ => [.m (o.dst.setWidth 3)]
  | .vsel o _ | .viota o _ => [.v o.dst]
  | .vcvt o _ => [.v o.dst]
  | .vmov o xs =>
    if o.md = 2 then [.x o.dst]
    else if o.md = 3 then (if (XFields.of xs).spec = 0 then [.m (o.dst.setWidth 3)] else [.x o.dst])
    else [.v o.dst]
  | .vdedup o _ => [.v o.dst, .v (o.dst + 1), .m (o.srcB.setWidth 3)]
  | .hgld o => (List.range (min 8 (32 - o.dst.toNat))).map (fun i => .v (o.dst + BitVec.ofNat 5 i))
  | _ => []

/-- Some destination is named twice. -/
def coincide : List Dest → Bool
  | [] => false
  | d :: ds => (d.real && ds.contains d) || coincide ds

/-- Slots of each class a bundle may hold (R208). -/
def classLimit (quill : Bool) (c : Nat) : Nat :=
  match c with
  | 0 => 2 | 1 => 1 | 2 => 1 | 3 => 1 | 4 => 1 | 5 => if quill then 0 else 1 | 6 => if quill then 0 else 1
  | 7 => if quill then 2 else 0 | _ => 0

/-- A class that the issuing sequencer lacks (R208, R429 kind 1). -/
def classAbsent (quill : Bool) (c : Nat) : Bool := (quill && (c == 5 || c == 6)) || (!quill && c == 7)

/-- TLOOK, TFILL and TEVICT are reserved opcodes on a quill core (R235). -/
def coreOnly : Instr → Bool
  | .tlook _ => true | .tfill _ => true | .tevict _ => true | _ => false

/-- The same by the word. -/
def coreOnlyOp (w : SlotWord) : Bool :=
  let op := w.extractLsb' 20 7
  op == 0x0B || op == 0x0C || op == 0x0D

/-- One slot of a bundle as fetched: its word, position, the payloads and words of its X slots, and the number of earlier slots of
its class. -/
structure RawSlot where
  word : SlotWord
  pos : Nat
  xs : List XPay
  xws : List SlotWord
  earlier : Nat
  deriving DecidableEq, Repr

/-- The slots of a bundle's words (R209): an X slot joins the slot before it; one that opens the bundle stands alone. -/
def rawSlots : Nat → List SlotWord → List RawSlot → List RawSlot
  | _, [], acc => acc.reverse
  | pos, w :: ws, acc =>
    match isXSlot w, acc with
    | true, r :: rs => rawSlots (pos + 1) ws ({ r with xs := r.xs ++ [w.extractLsb' 0 27], xws := r.xws ++ [w] } :: rs)
    | _, _ => rawSlots (pos + 1) ws (⟨w, pos, [], [], (acc.filter (fun r => slotClass r.word == slotClass w)).length⟩ :: acc)

/-- The class code of an instruction (R208). -/
def instrClass (i : Instr) : Nat :=
  match i.opBody with
  | some (c, _, _) => c.toNat
  | none => 15

/-- The reserved kinds a decoded slot raises by itself (R429). -/
def instrKinds (quill : Bool) (i : Instr) : List Nat :=
  (if classAbsent quill (instrClass i) then [1] else []) ++ (if quill && coreOnly i then [2] else []) ++ i.reservedKind.toList

/-- The X slot beyond those that an instruction's form accepts: the offending slot of kind 5 (R209, R215, R429). -/
def excessX (i : Instr) (pos : Nat) (xws : List SlotWord) : Option RawSlot :=
  (xws[i.maxX]?).map (fun w => ⟨w, pos + 1 + i.maxX, [], [], 0⟩)

/-- The reserved kinds one slot raises by itself, in ascending kind (R429). -/
def slotKinds (quill : Bool) (r : RawSlot) : List Nat :=
  let c := (slotClass r.word).toNat
  let absent := (if classAbsent quill c then [1] else []) ++ (if quill && c = 2 && coreOnlyOp r.word then [2] else [])
  let beyond := if c ≤ 7 && !classAbsent quill c && classLimit quill c ≤ r.earlier then [6] else []
  match decodeSlot r.word r.xs with
  | .error e => (if e.kind = 0 then [0] else absent ++ [e.kind]) ++ beyond
  | .ok i => instrKinds quill i ++ beyond

/-- The instructions of a bundle, or the first offending slot in bundle order with its lowest kind (R429). Destinations
that coincide with an earlier slot's, or within the slot, make the slot offending. -/
def checkSlots (quill : Bool) : List Dest → List RawSlot → Except (Nat × RawSlot) (List (Instr × RawSlot))
  | _, [] => .ok []
  | ds, r :: rs =>
    match slotKinds quill r with
    | k :: _ => .error (k, r)
    | [] =>
      match decodeSlot r.word r.xs with
      | .error e => .error (e.kind, r)
      | .ok i =>
        if coincide (instrDests i ++ ds) then .error (7, r)
        else match excessX i r.pos r.xws with
          | some x => .error (5, x)
          | none =>
            match checkSlots quill (instrDests i ++ ds) rs with
            | .error e => .error e
            | .ok is => .ok ((i, r) :: is)

/-- A bundle's words: its instructions, or kind and offending slot. A bundle whose eighth slot does not stop is kind 6 at
that slot (R206, R429). -/
def checkBundle (quill : Bool) (ws : List SlotWord) : Except (Nat × RawSlot) (List (Instr × RawSlot)) :=
  match checkSlots quill [] (rawSlots 0 ws []) with
  | .error e => .error e
  | .ok is =>
    match ws.getLast? with
    | some w => if slotStop w then .ok is else .error (6, ⟨w, ws.length - 1, [], [], 0⟩)
    | none => .error (6, ⟨0, 0, [], [], 0⟩)

/-! ### After commit: the next bundle (R218, R221, R408) -/

/-- The thread after a bundle that took no branch: the next bundle in memory, or in the loop body (R221). A loop that a trap
interrupted does not move while the handler runs, nor while the thread is outside its body afterwards (R408, R431). -/
def Thread.advance (th : Thread) (next : Word) : Thread :=
  match th.loop with
  | none => { th with pc := next }
  | some l =>
    if l.susp.isSome then { th with pc := next, loop := some (if l.susp = some next && !th.intrap then { l with susp := none } else l) }
    else if l.pos + 1 < l.len then { th with pc := next, loop := some { l with pos := l.pos + 1 } }
    else if 1 < l.remaining then { th with pc := l.body, loop := some { l with pos := 0, remaining := l.remaining - 1 } }
    else { th with pc := next, loop := none }

/-- A taken branch, call or return: it ends the loop (R221). -/
def Thread.jump (th : Thread) (target : Word) : Thread := { th with pc := target, loop := none }

/-! ### The bundle -/

/-- The first stop in the order of R427: lowest stage, then lowest slot. -/
def firstStop : List (Nat × Except Stop Commit) → Option (Nat × Stop)
  | [] => none
  | (k, r) :: rs =>
    match r, firstStop rs with
    | .ok _, o => o
    | .error e, none => some (k, e)
    | .error e, some (k', e') => if e'.stage < e.stage then some (k', e') else some (k, e)

/-- The commits of a bundle applied in slot order. -/
def applyCommits : List (Nat × Except Stop Commit) → State → State
  | [], s => s
  | (_, .ok f) :: rs, s => applyCommits rs (f s)
  | (_, .error _) :: rs, s => applyCommits rs s

/-- The class code of a slot word, as records name it. -/
def classNum (w : SlotWord) : Nat := (slotClass w).toNat

/-- The open streams of an edge writer are to close (R319). -/
def EdgeUnit.closeAll (e : EdgeUnit) : EdgeUnit := { e with streams := e.streams.map (fun x => { x with closing := true }) }

/-- The writers that an EDRAIN names: east in bit 2, south in bit 3. -/
def State.closeWriters (s : State) (n : Nat) (m : BitVec 4) : State :=
  s.updCore n (fun k => { k with
    east := if m.getLsbD 2 then k.east.closeAll else k.east
    south := if m.getLsbD 3 then k.south.closeAll else k.south })

/-- A bundle blocks: its thread is not ready, and issue passes to the next thread in ascending number (R92). -/
def State.blockThread (s : State) (u t : Nat) : State :=
  let s1 := s.updThread u t (fun th => { th with blocked := true })
  s1.setSeq u { s1.seq u with cur := (t + 1) % 4 }

/-- What a stopped bundle does: a blocked one leaves its thread not ready; a trap is taken at the bundle; a fault ends the
launch or parks (R404, R427, R428). -/
def State.stopAt (s : State) (u t : Nat) (pc : Word) (slot cls : Nat) (e : Stop) : State :=
  let i : Issue := ⟨u, t, (s.thread u t).owner, pc, cls, slot⟩
  match e with
  | .checkTrap cause info stat => s.takeTrap u t ⟨cause, info, false, cls, slot, 0, stat, none⟩ pc pc
  | .readTrap cause info stat => s.takeTrap u t ⟨cause, info, false, cls, slot, 0, stat, none⟩ pc pc
  | .checkFault cause status => s.fail i cause 0 status
  | .readFault cause addr status => s.fail i cause addr status
  | .block => s.blockThread u t
  | .drain m => (s.closeWriters u m).blockThread u t
  | .wellBlock pa ph =>
    (s.updThread u t (fun th => { th with wellWait := match th.wellWait with
      | some (a, b, seen) => if a = pa && b = ph then some (a, b, seen) else some (pa, ph, false)
      | none => some (pa, ph, false) })).blockThread u t
  | .xlate cause addr status =>
    let s1 := s.walked u ((s.partOfUnit u).getD 0) addr
    if cause = 0x41 then s1.park i addr status else s1.fail i cause addr status

/-- A slot's place among the commits of its bundle: an MTS first, so that a flag set in its cycle ends set (R57, R236), and an EXIT
last, so that it drops the results of every read of its bundle (R263). -/
def commitRank : Instr → Nat
  | .mts _ => 0
  | .exit => 2
  | _ => 1

/-- A bundle's commits in the order they apply. -/
def commitOrder (slots : List SlotRun) (rs : List (Nat × Except Stop Commit)) : List (Nat × Except Stop Commit) :=
  let rank := fun (r : Nat × Except Stop Commit) => ((slots.find? (fun k => k.pos == r.1)).map (fun k => commitRank k.instr)).getD 1
  rs.filter (fun r => rank r == 0) ++ rs.filter (fun r => rank r == 1) ++ rs.filter (fun r => rank r == 2)

/-- Cycles a slot occupies its thread (R234, R348). -/
def slotCycles : Instr → Nat
  | .mul _ | .mulh _ | .mulhu _ => 3
  | .div o | .divu o | .rem o | .remu o => if o.md.getLsbD 0 then 12 else 20
  | .fmin _ | .fmax _ | .fcmp _ => 2
  | .fadd _ | .fsub _ | .fmul _ | .fma _ | .fcvt _ _ => 4
  | .vadd _ xs | .vsub _ xs | .vmin _ xs | .vmax _ xs | .vcmp _ xs => if (XFields.of xs).fmtA = fmtINT32 then 1 else 4
  | .vmul _ _ | .vfma _ _ | .vcvt _ _ | .vdedup _ _ => 4
  | .vred _ _ | .vpool _ _ => 8
  | _ => 1

/-- Cycles a bundle occupies its thread: the most of its slots (R234). -/
def bundleCycles (slots : List SlotRun) : Nat := slots.foldl (fun n k => max n (slotCycles k.instr)) 1

/-- A thread that issues a bundle, which occupies it until a cycle, is no longer waited for by threads of its sequencer that have
yielded (R234, R264). -/
def Seq.issued (q : Seq) (t till : Nat) : Seq :=
  { q with threads := q.threads.mapIdx (fun i th =>
      if i = t then { th with yielded := [], waitUntil := till } else { th with yielded := th.yielded.filter (fun j => j != t) }) }

/-- The physical unit that serves a slot of a class with so many earlier slots of the class in its bundle (R219). -/
def Seq.unitOf (q : Seq) (cls earlier : Nat) : Nat :=
  if cls = 0 then (q.slotmap.getLsbD (min earlier 1)).toNat
  else if cls = 7 then (q.slotmap.getLsbD (2 + min earlier 1)).toNat else 0

/-- The issue groups of a bundle, whose slots have these classes: as many as the slots that one physical unit serves (R219, R220). -/
def Seq.groups (q : Seq) (cs : List Nat) : Nat :=
  (([0, 7] : List Nat).flatMap (fun c => (List.range 2).map (fun k =>
    ((List.range (cs.filter (fun d => d == c)).length).filter (fun e => q.unitOf c e == k)).length))).foldl max 1

/-- A bundle issues in some groups: each takes a cycle of its sequencer, and after the last the bundle occupies its thread for so
many cycles (R220, R234). -/
def State.bundleIssued (s : State) (u t n groups : Nat) : State :=
  s.setSeq u { (s.seq u).issued t (s.cycles u + (groups - 1) + n) with freeAt := s.cycles u + groups }

/-- A slot that a failed physical unit serves: cause 0x38 in the stage in which the unit fails, unless the slot stops for a cause of its
own in an earlier stage or, within that stage, one of lower code; after commit it is imprecise. In every case it ends the launch (R427,
R448). -/
def Seq.selfCheck (q : Seq) (by_ : Issue) (cls earlier : Nat) (r : Except Stop Commit) : Except Stop Commit :=
  let k := q.unitOf cls earlier
  let st := BitVec.ofNat 32 (16 * k + cls)
  if !q.broken.getLsbD (2 * cls + k) then r
  else match lookup 0 (2 * cls + k) q.stages, r with
    | 0, .error (.checkTrap c i w) => .error (.checkTrap c i w)
    | 0, .error (.checkFault c w) => if c < 0x38 then .error (.checkFault c w) else .error (.checkFault 0x38 st)
    | 0, _ => .error (.checkFault 0x38 st)
    | 1, .error (.readFault c a w) => if c < 0x38 then .error (.readFault c a w) else .error (.readFault 0x38 0 st)
    | 1, .error (.xlate _ _ _) => .error (.readFault 0x38 0 st)
    | 1, .error e => .error e
    | 1, .ok _ => .error (.readFault 0x38 0 st)
    | 2, .error (.xlate c a w) => if c < 0x38 then .error (.xlate c a w) else .error (.xlate 0x38 0 st)
    | 2, .error e => .error e
    | 2, .ok _ => .error (.xlate 0x38 0 st)
    | _, .error e => .error e
    | _, .ok f => .ok (fun s => (f s).fail by_ 0x38 0 st)

/-- The results of a bundle's slots, with the classes of the slots before them; by_ names the issue of a slot of a class at a position. -/
def runSlots (q : Seq) (run : SlotRun → Except Stop Commit) (by_ : Nat → Nat → Issue) : List Nat → List SlotRun → List (Nat × Except Stop Commit)
  | _, [] => []
  | cs, k :: ks =>
    let c := classNum k.word
    (k.pos, q.selfCheck (by_ c k.pos) c (cs.filter (fun d => d == c)).length (run k)) :: runSlots q run by_ (c :: cs) ks

/-- The issue of a slot of a class at a position of a thread's bundle. -/
def State.issueAs (s : State) (u t : Nat) (pc : Word) (cls pos : Nat) : Issue := ⟨u, t, (s.thread u t).owner, pc, cls, pos⟩

/-- The stages of a decoded bundle of thread t of unit u: every slot reads the state before it; the first stop in the order
of R427 decides; otherwise the thread moves on and every slot's commit applies; then a pending trap is taken (R218, R408). -/
def State.runBundle (s : State) (u t : Nat) (pc next : Word) (slots : List SlotRun) : State :=
  let rs := runSlots (s.seq u) (fun k => k.run ⟨u, t, pc, next, k.pos, k.word⟩ s) (s.issueAs u t pc) [] slots
  match firstStop rs with
  | some (p, e) => s.stopAt u t pc p (((slots.find? (fun k => k.pos == p)).map (fun k => classNum k.word)).getD 15) e
  | none => (applyCommits (commitOrder slots rs) ((s.bundleIssued u t (bundleCycles slots) ((s.seq u).groups (slots.map (fun k => classNum k.word)))).updThread u t (fun th => th.advance next))).boundary u t pc

/-- The head word of an instruction's own bundle. -/
def headWord (i : Instr) : SlotWord := (encode i).headD 0

/-- The address after an instruction's own bundle. -/
def afterOne (i : Instr) (pc : Word) : Word := pc + BitVec.ofNat 64 (4 * (1 + i.xpays.length))

/-- A slot instruction as a bundle of its own, issued by the thread that holds issue (R92): the check of its encoding
(R429), then its stages. -/
def State.issueOne (s : State) (i : Instr) (f : Slot) : State :=
  let u := s.curUnit
  let t := (s.seq u).cur
  let pc := (s.thread u t).pc
  match instrKinds (isQuill u) i ++ (if coincide (instrDests i) then [7] else []) with
  | k :: _ => s.stopAt u t pc 0 (instrClass i) (.checkTrap 0x10 k (headWord i))
  | [] =>
    match excessX i 0 (encode i).tail with
    | some x => s.stopAt u t pc x.pos (classNum x.word) (.checkTrap 0x10 5 x.word)
    | none => s.runBundle u t pc (afterOne i pc) [⟨i, 0, headWord i, f⟩]

end Sys2Proof.Machine
end

