-- ==== Sys2Proof/Machine/Operands.lean ====
section
/-! DEFINITION. Operand forms: immediates extended by X slots (R214), effective addresses (R248), and the 32-bit forms of the
integer operations (R238). -/

namespace Sys2Proof.Machine

/-- An immediate of k bits extended by up to two X slots, sign-extended to 64 bits (R214). -/
def immediate {k : Nat} (imm : BitVec k) (xs : List XPay) : Word :=
  match xs with
  | [] => imm.signExtend 64
  | [x1] => (x1 ++ imm).signExtend 64
  | x1 :: x2 :: _ => (x2 ++ x1 ++ imm).signExtend 64

/-- The unsigned count of LOOP: IMM8, extended by one X slot (R214, R262). -/
def loopCount (imm : BitVec 8) (xs : List XPay) : Word :=
  match xs with
  | [] => imm.setWidth 64
  | x1 :: _ => (x1 ++ imm).setWidth 64

/-- Bytes of a SIZE field (R213). -/
def sizeBytes (z : BitVec 2) : Nat := 2 ^ z.toNat

/-- ea of form M: base plus the offset in units of size (R214, R248). -/
def eaM (base : Word) (off : BitVec 6) (xs : List XPay) (z : BitVec 2) : Word :=
  base + immediate off xs * BitVec.ofNat 64 (sizeBytes z)

/-- ea of form MS: base plus the X slot's offset in units of size, if there is one (R248). -/
def eaMS (base : Word) (xs : List XPay) (z : BitVec 2) : Word :=
  base + (match xs with | [] => 0 | x :: _ => x.signExtend 64 * BitVec.ofNat 64 (sizeBytes z))

/-- Target of a branch: a count of words from the address of the bundle's first slot (R214, R261). -/
def branchTarget {k : Nat} (pc : Word) (off : BitVec k) (xs : List XPay) : Word := pc + immediate off xs * 4

/-- MOD 1, the suffix .W (R238). -/
def isW (md : BitVec 3) : Bool := md == 1

/-- A two-operand integer result: 64 bits, or with .W the 32-bit result sign-extended (R238). -/
def byWidth (md : BitVec 3) (f64 : Word → Word → Word) (f32 : BitVec 32 → BitVec 32 → BitVec 32) (a b : Word) : Word :=
  if isW md then (f32 (a.setWidth 32) (b.setWidth 32)).signExtend 64 else f64 a b

end Sys2Proof.Machine
end

