-- ==== Sys2Proof/Machine/Flags.lean ====
section
/-! DEFINITION. The conditions and predicate operations of the sequencer (R240, R241), and the setting of flags (R56, R433). -/

namespace Sys2Proof.Machine

/-- The condition codes of CMP and CMPI (R240). -/
def intCond (cond : BitVec 3) (a b : Word) : Bool :=
  match cond.toNat with
  | 0 => a == b
  | 1 => a != b
  | 2 => a.slt b
  | 3 => !a.slt b
  | 4 => a.ult b
  | 5 => !a.ult b
  | _ => (a &&& b) != 0

/-- The operations of PLOG (R241). -/
def predOp (op : BitVec 3) (a b : Bool) : Bool :=
  match op.toNat with
  | 0 => a && b
  | 1 => a || b
  | 2 => xor a b
  | 3 => a && !b
  | 4 => a || !b
  | 5 => !(xor a b)
  | 6 => !(a && b)
  | _ => !(a || b)

/-- A commit that raises flags in FLAGS[7:0] of the issuing thread (R244, R433). -/
def Issuer.raise (c : Issuer) (cls : Nat) (f : BitVec 8) : Commit := fun s => c.commit (fun th => th.raiseOwn (s.cycles c.unit) f cls c.slot) s

end Sys2Proof.Machine
end

