-- ==== Sys2Proof/Machine/Requests.lean ====
section
/-! DEFINITION. Requests on their way to their homes: the bytes they touch and the order of their instants (R192), the tag table's
slots (R142, R143), what the home checks (R201), and how a request enters the issue order or leaves the module (R159, R191, R391). -/

namespace Sys2Proof.Machine

/-! ### Order -/

/-- A list in ascending key, entries of one key in their order. -/
def insertByKey {α : Type} (f : α → Nat) (x : α) : List α → List α
  | [] => [x]
  | y :: ys => if f x < f y then x :: y :: ys else y :: insertByKey f x ys
def sortByKey {α : Type} (f : α → Nat) (l : List α) : List α := l.foldl (fun acc x => insertByKey f x acc) []

/-- Key of a requester's thread in the counts. -/
def accessKey (unit thr : Nat) : Nat := 4 * unit + thr

/-! ### The tag table (R142, R143) -/

/-- V, D and F of a tag-table entry (R142). -/
def tagV (e : Word) : Bool := e.getLsbD 63
def tagD (e : Word) : Bool := e.getLsbD 62
def tagF (e : Word) : Bool := e.getLsbD 61

/-- TAG, virtual address bits [55:7] of the line (R142). -/
def tagLine (e : Word) : Nat := e.toNat % 2 ^ 49
def CoreArr.tag (k : CoreArr) (slot : Nat) : Word := lookup 0 slot k.tags
/-- A tag-table entry from its fields (R142). -/
def tagEntry (v d f : Bool) (line : Nat) : Word :=
  BitVec.ofNat 64 ((if v then 2 ^ 63 else 0) + (if d then 2 ^ 62 else 0) + (if f then 2 ^ 61 else 0) + line % 2 ^ 49)

/-- Scratchpad offset of a slot's data (R141). -/
def tagData (slot : Nat) : Nat := 0x1E0000 + 128 * slot

/-- The slot of a set that is valid with a line (R143). -/
def CoreArr.findTag (k : CoreArr) (line : Nat) : Option Nat :=
  (List.range 4).map (fun w => 4 * (line % 256) + w) |>.find? (fun sl => tagV (k.tag sl) && tagLine (k.tag sl) == line)

/-- A slot of the tag table takes a line: TAG written, V and F set, D cleared, its granules emptied (R143). -/
def CoreArr.startFill (k : CoreArr) (slot line : Nat) : CoreArr :=
  { k with tags := insertAt slot (tagEntry true false true line) k.tags,
           full := (List.range 8).foldl (fun m i => insertAt (tagData slot / 16 + i) false m) k.full }

/-- A slot of the tag table is empty (R143). -/
def CoreArr.clearTag (k : CoreArr) (slot : Nat) : CoreArr :=
  { k with tags := adjust 0 slot (fun e => e &&& 0x3FFFFFFFFFFFFFFF) k.tags }

/-- A write-back is acknowledged: the slot is empty, and a fill that waited for it, and for no other write-back still out, begins (R143). -/
def State.evicted (s : State) (core slot id : Nat) : State :=
  let s1 := s.updCore core (fun k => k.clearTag slot)
  let out := (s1.reqs.filter (fun r => r.by_.unit == core && decide (r.op = .evict slot) && r.id != id)).map (fun r => r.id)
  (s1.reqs.filter (fun r => r.by_.unit == core && decide (r.op = .fill slot) && r.after.contains id && !r.after.any out.contains)).foldl
    (fun s r => s.updCore core (fun k => k.startFill slot (r.va / 128))) s1

/-! ### Bytes and order (R192) -/

/-- Bytes of a lane element (R351). -/
def laneBytes (fmt : BitVec 4) : Nat := fmtWidth fmt / 8

/-- Ranges of bytes that a request touches: offset from its address and length. -/
def MemOp.spans : MemOp → Nat → List (Nat × Nat)
  | .vload _ fmt ls, _ => ls.map (fun l => (l.2, laneBytes fmt))
  | .vstore ps, _ => ps.map (fun p => (p.1, p.2.length))
  | .tstr ps _, _ => ps.map (fun p => (p.1, p.2.length))
  | .engine _ ps _ _ _ _, _ => ps.map (fun p => (p.1, p.2.length))
  | .hgAdd _ fmt as, _ => as.map (fun a => (a.1, laneBytes fmt))
  | .granules n _, _ => [(0, 16 * n)]
  | .prefetch, _ => []
  | _, size => [(0, size)]

/-- The bytes a request touches in the domain: a fill and a write-back touch their slot's data too (R143), a WINIT its bitmap (R176). -/
def State.spansOf (s : State) (r : Req) : List (Nat × Nat) :=
  (r.op.spans r.size).map (fun e => (r.pa + e.1, e.2)) ++
  match r.op with
  | .fill slot | .evict slot => [(s.home + scratchPa r.by_.unit (tagData slot), 128)]
  | .well (.init _ (some ps)) _ => ps.map (fun a => (a, 16))
  | _ => []

/-- Two requests touch a common byte. -/
def State.meet (s : State) (r q : Req) : Bool :=
  (s.spansOf r).any (fun a => (s.spansOf q).any (fun b => a.1 < b.1 + b.2 && b.1 < a.1 + a.2))

/-- A request that has not been served. -/
def Req.open (r : Req) : Bool := r.status == .waiting || r.status == .retry

/-- The place of a request in its thread's program order: that of its hashed-grid operation, or its own. -/
def Req.order (r : Req) : Nat :=
  match r.op with
  | .hgRead op _ => op
  | .hgAdd op _ _ => op
  | _ => r.id

/-- A write-back waits until no fill of its slot is in progress (R143). -/
def State.slotSettled (s : State) (r : Req) : Bool :=
  match r.op with
  | .evict slot => !tagF ((s.core r.by_.unit).tag slot)
  | _ => true

/-- A request may take its instant as far as its thread is concerned: what it waits for has finished, and no earlier open request of
its thread touches a byte of it; the table accesses of an earlier hashed-grid operation are known (R192). -/
def State.inOrder (s : State) (r : Req) : Bool :=
  s.finished r.after && s.slotSettled r &&
  s.reqs.all (fun q =>
    !(q.by_.unit == r.by_.unit && q.by_.thr == r.by_.thr && q.order < r.order && q.open && s.meet q r)) &&
  s.hgOps.all (fun h => !(h.by_.unit == r.by_.unit && h.by_.thr == r.by_.thr && h.id < r.order && h.phase < 2))

/-- The request's instant may come now, at a home of this module. -/
def State.eligible (s : State) (r : Req) : Bool :=
  r.status == .waiting && s.isLocal ⟨r.pa, r.cls, r.kslot⟩ && s.inOrder r

/-! ### The scope checker's question (R201) -/

/-- The scope at which the home checks an access (R201, R465): a thread of a gang or of its tasks, a global line, and either the
access's own scope CORE or wider, or the scope of the FENCE it is paired with, which an atomic never is; an access with both is checked at
its own (DESIGN CHOICE, assumption 110). -/
def State.checkScope (s : State) (u t : Nat) (g : Target) (own : Option Nat) (pairs : Bool) : Option Nat :=
  let th := s.thread u t
  let global := match locate (localOf g.pa) with | .hbm _ _ => true | _ => false
  if (s.ownerGang th.owner).isNone || !global then none
  else match own with
    | some k => if 1 ≤ k then some k else if pairs then th.fencePair else none
    | none => if pairs then th.fencePair else none

/-- The access consumes the FENCE it is paired with: a global load or store (R201). -/
def Thread.pairDone (th : Thread) (g : Target) : Thread :=
  match locate (localOf g.pa) with
  | .hbm _ _ => { th with fencePair := none }
  | _ => th

/-- The owner that stands for a thread in a record: its gang, or its task outside any gang. -/
def State.syncOwner (s : State) (o : Owner) : Owner :=
  match s.ownerGang o with
  | some g => .gang g
  | none => o

/-- The gang token that a request carries to another module: 0 for none. -/
def State.gangToken (s : State) (o : Owner) : Nat := match s.ownerGang o with | some g => g + 1 | none => 0

/-! ### Who posts a packet (R163, R184) -/

/-- Operations that change bytes of a line, counted by its tag (R190). -/
def MemOp.changes : MemOp → Bool
  | .store _ _ | .amo _ _ _ _ | .vstore _ | .evict _ | .hgAdd _ _ _ | .amax _ | .engine _ _ _ _ _ _ => true
  | _ => false

/-- The ring slots whose valid word lies in a range of addresses. -/
def slotsIn (ring bytes lo hi : Nat) : List Nat :=
  ((List.range ((hi - lo) / 64 + 2)).map (fun i => (lo / 64 + i) * 64)).filterMap (fun a =>
    if ring ≤ a && a < ring + bytes && a < hi && lo < a + 4 then some ((a - ring) / 64) else none)

/-- The slots of a ring whose valid word lies among n bytes at an address of the domain. -/
def State.ringSlots (s : State) (q : Queue) (bytes a n : Nat) : List Nat :=
  (List.range (bytes / 4096)).flatMap (fun i =>
    match s.translate q.part (258 + q.part) (q.ring.toNat + 4096 * i) .read with
    | .ok g => (slotsIn g.pa 4096 a (a + n)).map (fun k => 64 * i + k)
    | .error _ => [])

/-- The places that a request writes. -/
def Req.writes (r : Req) : List (Nat × Nat) :=
  match r.op with
  | .tstr ps _ => ps.map (fun p => (p.1, p.2.length))
  | op => if op.changes then op.spans r.size else []

/-- The writer of a valid word of a copy or task ring is the issuer of the packet: a thread here, or somebody outside every launch. An append
names its thread itself (R163, R184, R267). -/
def State.notePosts (s : State) (r : Req) (places : List (Nat × Nat)) : State :=
  let thread := r.reply.isNone && decide (r.by_.unit < 224) && decide (r.by_.thr < 4)
  let agent := r.reply.isNone && decide (r.by_.unit < 224) && decide (4 ≤ r.by_.thr) && decide (r.by_.thr < 8)
  let o : Origin := ⟨r.by_, s.ownerLaunch r.by_.owner, r.id, none⟩
  let mark := fun (bytes : Nat) (q : Queue) =>
    if q.en then
      { q with origins := (places.flatMap (fun p => s.ringSlots q bytes (r.pa + p.1) p.2)).foldl
                            (fun m k => if thread then insertAt k o m else eraseAt k m) q.origins }
    else q
  if places.isEmpty || agent then s
  else { s with copyQ := s.copyQ.map (fun e => (e.1, mark 65536 e.2)), taskQ := s.taskQ.map (fun e => (e.1, mark 16384 e.2)) }

/-! ### Leaving the module (R159, R391, R479) -/

/-- The number of an atomic in a flit. -/
def AmoKind.num : AmoKind → Nat
  | .add => 0 | .and => 1 | .or => 2 | .xor => 3 | .min => 4 | .max => 5 | .minu => 6 | .maxu => 7 | .swp => 8 | .cas => 9
  | .fadd => 10 | .fmax => 11

/-- The numbers that stand in an atomic's flit for adds to a table in BF16 or FP32, and for bytes of a copy that land at a well. -/
def atomBF16 : Nat := 16
def atomFP32 : Nat := 17
def atomWell : Nat := 18

/-- Bytes at places as a flit carries them: the offsets, and the bytes in the same order. -/
def scattered (ps : List (Nat × List Byte)) : List Nat × List Byte :=
  (ps.flatMap (fun p => (List.range p.2.length).map (fun i => p.1 + i)), ps.flatMap (fun p => p.2))

/-- The bytes of a copy that land in a scratchpad count at a well of the same module in the same access (R175). -/
def State.countsThere (s : State) (i pa : Nat) : Option Nat :=
  match locate (localOf pa) with
  | .scratch _ _ => (((s.copyOf i).bind (fun c => c.well)).filter (fun g => moduleOf g.pa == moduleOf pa)).map (fun g => localOf g.pa)
  | _ => none

/-- A granule of a tag-table slot is poisoned (R143, R469). -/
def State.slotPoisoned (s : State) (core slot : Nat) : Bool :=
  (List.range 8).any (fun i => lookup false (tagData slot / 16 + i) (s.core core).gpoison)

/-- The flit of a request. -/
def State.flitOf (s : State) (r : Req) : Flit :=
  let f := fun (k : FlitKind) (mask : List Nat) (data : List Byte) =>
    { s.flitFor r.part (moduleOf r.pa) k (localOf r.pa) r.size data with
      token := r.id, mask := mask, scope := r.check.getD 0, unit := r.by_.unit, thr := r.by_.thr, gang := s.gangToken r.by_.owner }
  let places := fun (ps : List (Nat × List Byte)) => f .store (scattered ps).1 (scattered ps).2
  match r.op with
  | .store d full => { f .store [] d with full := full }
  | .vstore ps => places ps
  | .tstr ps _ => places ps
  | .engine c ps full sc k poison =>
    { places ps with full := full, scales := sc, poison := poison, well := (c.bind (fun i => s.countsThere i r.pa)).map (fun w => (w, k)) }
  | .evict slot => { f .store [] (memRead s.mem (scratchPa r.by_.unit (tagData slot)) 128) with poison := s.slotPoisoned r.by_.unit slot }
  | .amo k v w _ => { f .atomic [] (leBytes 8 v.toNat ++ leBytes 8 w.toNat) with atomic := k.num }
  | .amax v => { f .atomic [] (leBytes 8 v.toNat ++ leBytes 8 0) with atomic := AmoKind.num .fmax }
  | .hgAdd _ fmt as =>
    { f .atomic (as.map (fun a => a.1)) (as.flatMap (fun a => leBytes 4 a.2.toNat)) with atomic := if fmt = fmtBF16 then atomBF16 else atomFP32 }
  | .wellLand k => { f .atomic [] (leBytes 8 k) with atomic := atomWell }
  | _ => f .load [] []

/-- A request for another module leaves by its route once nothing holds it back; without a usable route it fails with cause
0x81 when it would leave (R391, R479). The write-back of a clean slot has nothing to write, wherever its line lies (R143). -/
def State.sendOne (s : State) (r : Req) : State :=
  if r.status ≠ .waiting then s
  else
    let clean := match r.op with | .evict slot => if tagD ((s.core r.by_.unit).tag slot) then none else some slot | _ => none
    if clean.isNone && moduleOf r.pa = s.modreg.toNat % 1024 then s
    else if !s.inOrder r then s
    else match clean with
      | some slot => (s.evicted r.by_.unit slot r.id).dropReq r.id
      | none =>
        match s.routePort r.part (moduleOf r.pa) with
        | none => s.updReq r.id (fun q => { q with status := .served s.now (.fail 0x81 0) })
        | some _ => ((s.sendFlit r.part (s.flitOf r)).updReq r.id (fun q => { q with status := .sent s.cc })).notePosts r r.writes

/-- All requests that may leave do (R159). -/
def State.sendReady (s : State) : State := s.reqs.foldl (fun s r => s.sendOne r) s

/-- A request enters the issue order (R191, R491), its translation walked where it was not held (R131); one for another module leaves at
once if nothing holds it back. -/
def State.submit (s : State) (r : Req) : State := ((s.walked (tlbUnit r.by_) r.part r.va).pushReq r).sendReady

end Sys2Proof.Machine
end

