-- ==== Sys2Proof/Machine/MemoryUnit.lean ====
section
/-! DEFINITION. The M class without atomics and special registers: loads, stores, granule and tag-table operations, PREF and
FENCE (R248 to R256, R259). At commit an access becomes a request, which its home serves later; a destination stays empty
until the result lands (R210). -/

namespace Sys2Proof.Machine

/-! ### Addresses of M slots (R248, R455) -/

/-- The translation of an address that must be a multiple of n; of several causes the lowest is reported (R427, R455). -/
def Issuer.aligned (c : Issuer) (s : State) (va n : Nat) (k : Access) : Except Stop Target :=
  match s.translate (c.part s) c.unit va k with
  | .ok g => if va % n = 0 then .ok g else .error (.xlate 0x47 va 0)
  | .error e => if e.cause < 0x47 || va % n = 0 then .error (.xlate e.cause va e.status) else .error (.xlate 0x47 va 0)

/-- A scratchpad that the unit may name: of the partition, and for a quill task of its gang's cores (R235, R455). -/
def State.mayName (s : State) (u : Nat) (o : Owner) (core : Nat) : Bool :=
  !isQuill u || match (s.ownerGang o).bind s.gangOf with
    | some g => g.cores.contains core
    | none => false

/-- A thread of a quill task names a scratchpad outside its gang's cores (R235, R455). -/
def State.outside (s : State) (u : Nat) (o : Owner) (g : Target) : Bool :=
  match locate (localOf g.pa) with
  | .scratch n _ => isQuill u && !(moduleOf g.pa == s.modreg.toNat % 1024 && s.mayName u o n)
  | _ => false

/-- The translation of an address that must be a multiple of n and, for a quill task, no scratchpad outside its gang's cores (R455). -/
def Issuer.address (c : Issuer) (s : State) (va n : Nat) (k : Access) : Except Stop Target :=
  match c.aligned s va n k with
  | .error e => .error e
  | .ok g => if s.outside c.unit (c.th s).owner g then .error (.xlate 0x49 va (detailStatus 0)) else .ok g

/-- A scratchpad address of n bytes: core, offset and target, or cause 0x49 (R455). -/
def Issuer.scratch (c : Issuer) (s : State) (va n : Nat) (k : Access) : Except Stop (Nat × Nat × Target) :=
  match c.address s va n k with
  | .error e => .error e
  | .ok g =>
    match s.scratchOf g with
    | some (core, off) => .ok (core, off, g)
    | none => .error (.xlate 0x49 va (detailStatus 0))

/-! ### Requests of slots (R187, R191, R192, R201) -/

/-- A request of a slot, not yet numbered. -/
def Issuer.request (c : Issuer) (s : State) (cls va size : Nat) (g : Target) (op : MemOp) : Req :=
  { id := 0, by_ := c.issue s cls, part := c.part s, va := va, pa := g.pa, size := size, cls := g.cls, kslot := g.kslot, op := op,
    acquire := false, release := false, check := none, after := [], born := s.now, status := .waiting,
    dropped := false, reply := none }

/-- The commit of an access (R191, R201, R217): what it does to the thread, and its request, checked at its own scope or at that of the
FENCE whose pair it is. The slots of a bundle come in their order, so the first global access after a FENCE alone is its pair. -/
def Issuer.access (c : Issuer) (f : Thread → Thread) (g : Target) (own : Option Nat) (r : Req) : Commit := fun s =>
  (s.updThread c.unit c.thr (fun th => (f th).pairDone g)).submit { r with check := s.checkScope c.unit c.thr g own true }

/-! ### Loads and stores -/

/-- The bytes of a store of n bytes (R2, R250). -/
def storeBytes (n : Nat) (v : Word) : List Byte := leBytes n v.toNat

/-- A load's commit: its destination is empty until the data lands. -/
def Issuer.loadCommit (c : Issuer) (dst : BitVec 5) (g : Target) (own : Option Nat) (r : Req) : Commit :=
  c.access (fun th => th.emptyX dst) g own r

/-- A posted write's commit. -/
def Issuer.storeCommit (c : Issuer) (g : Target) (own : Option Nat) (r : Req) : Commit := c.access id g own r

/-- LD (R250). -/
def slotLd (o : LoadOps) (xs : List XPay) : Slot := fun c s =>
  let th := c.th s
  match ready th [(o.base, o.tb)] [o.reg] with
  | .error e => .error e
  | .ok _ =>
    let ea := (eaM (th.getX o.base) o.off xs o.size).toNat
    match c.address s ea (sizeBytes o.size) .read with
    | .error e => .error e
    | .ok g =>
      let r := c.request s 2 ea (sizeBytes o.size) g (.load o.reg.toNat)
      .ok (c.loadCommit o.reg g none r)

/-- ST (R250). -/
def slotSt (o : StoreOps) (xs : List XPay) : Slot := fun c s =>
  let th := c.th s
  match ready th [(o.base, o.tb), (o.reg, o.td)] [] with
  | .error e => .error e
  | .ok _ =>
    let ea := (eaM (th.getX o.base) o.off xs o.size).toNat
    match c.address s ea (sizeBytes o.size) .write with
    | .error e => .error e
    | .ok g =>
      let r := c.request s 2 ea (sizeBytes o.size) g (.store (storeBytes (sizeBytes o.size) (th.getX o.reg)) false)
      .ok (c.storeCommit g none r)

/-- LDA: a load with acquire at its scope (R251). -/
def slotLda (o : AcqOps) (xs : List XPay) : Slot := fun c s =>
  let th := c.th s
  match ready th [(o.base, o.tb)] [o.reg] with
  | .error e => .error e
  | .ok _ =>
    let ea := (eaMS (th.getX o.base) xs o.size).toNat
    match c.address s ea (sizeBytes o.size) .read with
    | .error e => .error e
    | .ok g =>
      let r := c.request s 2 ea (sizeBytes o.size) g (.load o.reg.toNat)
      .ok (c.loadCommit o.reg g (some o.scope.toNat) { r with acquire := true })

/-- STR: a store with release at its scope (R251). -/
def slotStr (o : RelOps) (xs : List XPay) : Slot := fun c s =>
  let th := c.th s
  match ready th [(o.base, o.tb), (o.reg, o.td)] [] with
  | .error e => .error e
  | .ok _ =>
    let ea := (eaMS (th.getX o.base) xs o.size).toNat
    match c.address s ea (sizeBytes o.size) .write with
    | .error e => .error e
    | .ok g =>
      let r := c.request s 2 ea (sizeBytes o.size) g (.store (storeBytes (sizeBytes o.size) (th.getX o.reg)) false)
      .ok (c.storeCommit g (some o.scope.toNat) { r with release := true })

/-- Whether the granule that holds a scratchpad offset is full; a poisoned granule reads as full (R138, R468). -/
def CoreArr.granuleFull (k : CoreArr) (off : Nat) : Bool :=
  lookup false (off / 16) k.full || lookup false (off / 16) k.gpoison

/-- The address lies in the issuing core's own scratchpad, in a granule that is empty (R252). -/
def State.ownEmpty (s : State) (p u ea : Nat) : Bool :=
  match s.translate p u ea .read with
  | .error _ => false
  | .ok g => match s.scratchOf g with
    | some (core, off) => core == u && !(s.core core).granuleFull off
    | none => false

/-- LDE and LDE.C (R252): on the issuing core's own scratchpad the bundle blocks while the granule is empty. -/
def slotLdeBase (o : LoadOps) (xs : List XPay) (clear : Bool) : Slot := fun c s =>
  let th := c.th s
  match ready th [(o.base, o.tb)] [o.reg] with
  | .error e => .error e
  | .ok _ =>
    let ea := (eaM (th.getX o.base) o.off xs o.size).toNat
    if s.ownEmpty (c.part s) c.unit ea then .error .block
    else match c.scratch s ea (sizeBytes o.size) .read with
    | .error e => .error e
    | .ok (_, _, g) =>
      .ok (c.loadCommit o.reg g none (c.request s 2 ea (sizeBytes o.size) g (.lde o.reg.toNat clear)))

/-- LDE (R252). -/
def slotLde (o : LoadOps) (xs : List XPay) : Slot := slotLdeBase o xs false
/-- LDE.C (R252). -/
def slotLdeC (o : LoadOps) (xs : List XPay) : Slot := slotLdeBase o xs true

/-- STF: a store that sets its granule full (R253). -/
def slotStf (o : StoreOps) (xs : List XPay) : Slot := fun c s =>
  let th := c.th s
  match ready th [(o.base, o.tb), (o.reg, o.td)] [] with
  | .error e => .error e
  | .ok _ =>
    let ea := (eaM (th.getX o.base) o.off xs o.size).toNat
    match c.scratch s ea (sizeBytes o.size) .write with
    | .error e => .error e
    | .ok (_, _, g) =>
      .ok (c.storeCommit g none (c.request s 2 ea (sizeBytes o.size) g
        (.store (storeBytes (sizeBytes o.size) (th.getX o.reg)) true)))

/-- GRSET and GRCLR (R254). -/
def slotGranules (o : TwoSrc) (val : Bool) : Slot := fun c s =>
  let th := c.th s
  match ready th [(o.srcA, o.ta), (o.srcB, o.tb)] [] with
  | .error e => .error e
  | .ok _ =>
    let ea := (th.getX o.srcA).toNat
    let n := (th.getX o.srcB).toNat % 2 ^ 32
    match c.scratch s ea 16 .write with
    | .error e => .error e
    | .ok (_, off, g) =>
      if 0x200000 < off + 16 * n then .error (.xlate 0x49 ea (detailStatus 1))
      else if n = 0 then .ok (fun s => s)
      else .ok (c.storeCommit g none (c.request s 2 ea 16 g (.granules n val)))

/-- GRSET (R254). -/
def slotGrset (o : TwoSrc) : Slot := slotGranules o true
/-- GRCLR (R254). -/
def slotGrclr (o : TwoSrc) : Slot := slotGranules o false

/-- PREF (R255): a request for the line of a global address on a present page of this module that allocates; otherwise no effect. -/
def slotPref (o : PrefOps) (xs : List XPay) : Slot := fun c s =>
  let th := c.th s
  match ready th [(o.base, o.tb)] [] with
  | .error e => .error e
  | .ok _ =>
    let ea := (eaM (th.getX o.base) o.off xs 3).toNat
    match s.translate (c.part s) c.unit ea .read with
    | .error _ => .ok (fun s => s)
    | .ok g =>
      match locate (localOf g.pa) with
      | .hbm _ _ => if g.cls = 4 || !s.isLocal g then .ok (fun s => s) else .ok (fun s' => s'.submit (c.request s 2 ea 1 g .prefetch))
      | _ => .ok (fun s => s)

/-- FENCE (R191, R256): blocks until the thread's writes are acknowledged and its reads have landed; the first global load
or store after one of scope CORE or wider is checked at its scope, that of the latest such FENCE (R465; DEDUCED, assumption 110). -/
def slotFence (o : ScopeOps) : Slot := fun c s =>
  if s.accessesOut c.unit c.thr = [] then
    .ok (c.commit (fun th => { th with fencePair := if o.scope = 0 then th.fencePair else some o.scope.toNat }))
  else .error .block

/-! ### The tag table (R141 to R143, R259) -/

/-- TLOOK (R143, R218, R259): the slot that holds the line, or −1; the answer comes 2 cycles after commit. Its address is translated as
every M slot's is. -/
def slotTlook (o : DstSrc) : Slot := fun c s =>
  let th := c.th s
  match ready th [(o.srcA, o.ta)] [o.dst] with
  | .error e => .error e
  | .ok _ =>
    let a := (th.getX o.srcA).toNat
    match c.xlate s a .read with
    | .error e => .error e
    | .ok _ =>
    let ans : Word := match (s.core c.unit).findTag (a / 128) with
      | some sl => BitVec.ofNat 64 sl
      | none => BitVec.allOnes 64
    let g : Target := ⟨s.modreg.toNat % 1024 * 2 ^ 42 + scratchPa c.unit 0, 0, 0⟩
    let r := { c.request s 2 a 0 g (.tlook o.dst.toNat ans) with status := .served (s.later c.unit 2) (.old ans none 0) }
    .ok (fun s => (s.updThread c.unit c.thr (fun t => t.emptyX o.dst)).submit r)

/-- A write-back of the slot is out (R143). -/
def State.evicting (s : State) (core slot : Nat) : List Nat :=
  (s.reqs.filter (fun r => r.by_.unit == core && decide (r.op = .evict slot))).map (fun r => r.id)

/-- TFILL (R143, R259, R455). -/
def slotTfill (o : TwoSrc) : Slot := fun c s =>
  let th := c.th s
  match ready th [(o.srcA, o.ta), (o.srcB, o.tb)] [] with
  | .error e => .error e
  | .ok _ =>
    let slot := (th.getX o.srcA).toNat
    let a := (th.getX o.srcB).toNat
    match c.xlate s (a / 128 * 128) .read with
    | .error e => .error e
    | .ok g =>
      let k := s.core c.unit
      if 1024 ≤ slot then .error (.xlate 0x4A a (detailStatus 2))
      else if slot / 4 ≠ a / 128 % 256 then .error (.xlate 0x4A a (detailStatus 0))
      else if (k.findTag (a / 128)).any (fun sl => sl != slot) then .error (.xlate 0x4A a (detailStatus 1))
      else
        let wait := s.evicting c.unit slot
        let r0 := c.request s 2 (a / 128 * 128) 128 g (.fill slot)
        let r := { r0 with after := r0.after ++ wait }
        .ok (fun s =>
          (if wait.isEmpty then s.updCore c.unit (fun k => k.startFill slot (a / 128)) else s).submit r)

/-- TEVICT (R143, R259, R455): a slot without a line has nothing to evict. -/
def slotTevict (o : OneSrc) : Slot := fun c s =>
  let th := c.th s
  match ready th [(o.srcA, o.ta)] [] with
  | .error e => .error e
  | .ok _ =>
    let slot := (th.getX o.srcA).toNat
    if 1024 ≤ slot then .error (.xlate 0x4A slot (detailStatus 2))
    else
      let e := (s.core c.unit).tag slot
      let va := 128 * tagLine e
      if !tagV e then .ok (fun s => s)
      else match c.xlate s va (if tagD e then .write else .read) with
        | .error e => .error e
        | .ok g => .ok (fun s' => s'.submit (c.request s 2 va 128 g (.evict slot)))

/-! ### Each instruction as a bundle of its own -/
/-- LD alone in its bundle. -/
def execLd (o : LoadOps) (xs : List XPay) (s : State) : Result := .next (s.issueOne (.ld o xs) (slotLd o xs))
/-- ST alone in its bundle. -/
def execSt (o : StoreOps) (xs : List XPay) (s : State) : Result := .next (s.issueOne (.st o xs) (slotSt o xs))
/-- LDA alone in its bundle. -/
def execLda (o : AcqOps) (xs : List XPay) (s : State) : Result := .next (s.issueOne (.lda o xs) (slotLda o xs))
/-- STR alone in its bundle. -/
def execStr (o : RelOps) (xs : List XPay) (s : State) : Result := .next (s.issueOne (.str o xs) (slotStr o xs))
/-- LDE alone in its bundle. -/
def execLde (o : LoadOps) (xs : List XPay) (s : State) : Result := .next (s.issueOne (.lde o xs) (slotLde o xs))
/-- LDE_C alone in its bundle. -/
def execLdeC (o : LoadOps) (xs : List XPay) (s : State) : Result := .next (s.issueOne (.ldeC o xs) (slotLdeC o xs))
/-- STF alone in its bundle. -/
def execStf (o : StoreOps) (xs : List XPay) (s : State) : Result := .next (s.issueOne (.stf o xs) (slotStf o xs))
/-- GRSET alone in its bundle. -/
def execGrset (o : TwoSrc) (s : State) : Result := .next (s.issueOne (.grset o) (slotGrset o))
/-- GRCLR alone in its bundle. -/
def execGrclr (o : TwoSrc) (s : State) : Result := .next (s.issueOne (.grclr o) (slotGrclr o))
/-- PREF alone in its bundle. -/
def execPref (o : PrefOps) (xs : List XPay) (s : State) : Result := .next (s.issueOne (.pref o xs) (slotPref o xs))
/-- FENCE alone in its bundle. -/
def execFence (o : ScopeOps) (s : State) : Result := .next (s.issueOne (.fence o) (slotFence o))
/-- TLOOK alone in its bundle. -/
def execTlook (o : DstSrc) (s : State) : Result := .next (s.issueOne (.tlook o) (slotTlook o))
/-- TFILL alone in its bundle. -/
def execTfill (o : TwoSrc) (s : State) : Result := .next (s.issueOne (.tfill o) (slotTfill o))
/-- TEVICT alone in its bundle. -/
def execTevict (o : OneSrc) (s : State) : Result := .next (s.issueOne (.tevict o) (slotTevict o))

end Sys2Proof.Machine
end

