-- ==== Sys2Proof/Machine/Special.lean ====
section
/-! DEFINITION. Special registers: MFS and MTS (R230, R236, R260, R406, R430). -/

namespace Sys2Proof.Machine

/-- The SPEC values that R230 and R406 name. -/
def specNamed (n : Nat) : Bool :=
  n ≤ 0x00D || (0x010 ≤ n && n ≤ 0x017) || (0x020 ≤ n && n ≤ 0x03F) || (0x0C0 ≤ n && n ≤ 0x0C5)

/-- Registers marked Core (R230). -/
def specCoreOnly (n : Nat) : Bool :=
  n == 0x001 || n == 0x004 || (0x007 ≤ n && n ≤ 0x00A) || (0x010 ≤ n && n ≤ 0x017) || (0x030 ≤ n && n ≤ 0x03F)

/-- Registers an MTS may write (R230, R406). -/
def specWritable (n : Nat) : Bool :=
  n == 0x006 || n == 0x008 || (0x010 ≤ n && n ≤ 0x017) || (0x030 ≤ n && n ≤ 0x03F) || n == 0x0C0 || n == 0x0C1

/-- The copy engine of a core or quill core (R161). -/
def engineOf (u : Nat) : Nat :=
  if u < 192 then 2 * (u / 24) + u % 24 % 2 else 2 * ((u - 192) / 4) + (u - 192) % 4 % 2

/-- Die of a sequencer (R12, R230). -/
def dieOfUnit (u : Nat) : Nat := dieOfBlock (blockOfUnit u)

/-- The value of a special register other than DONEIDn (R230, R406). -/
def State.specValue (s : State) (u t n : Nat) : Word :=
  let th := s.thread u t
  let k := s.core u
  if n = 0x000 then BitVec.ofNat 64 (if isQuill u then u - 192 else u)
  else if n = 0x001 then BitVec.ofNat 64 (((s.coreGang u).map (fun g => g.s)).getD 0)
  else if n = 0x002 then BitVec.ofNat 64 (dieOfUnit u)
  else if n = 0x003 then BitVec.ofNat 64 (s.modreg.toNat % 1024)
  else if n = 0x004 then BitVec.ofNat 64 k.rank
  else if n = 0x005 then BitVec.ofNat 64 (s.cycles u)
  else if n = 0x006 then th.flags.setWidth 64
  else if n = 0x007 then k.prog
  else if n = 0x008 then k.pivstat.setWidth 64
  else if n = 0x009 then k.growth.setWidth 64
  else if n = 0x00A then k.vthr.setWidth 64
  else if n = 0x00B then BitVec.ofNat 64 (s.part ((s.partOfUnit u).getD 0)).latva
  else if n = 0x00C then (s.seq u).slotmap.setWidth 64
  else if n = 0x00D then th.stag.setWidth 64
  else if 0x010 ≤ n && n ≤ 0x017 then k.pv.getD (n - 0x010) 0
  else if 0x030 ≤ n && n ≤ 0x03F then (k.bfmt.getD (n - 0x030) 0).setWidth 64
  else if n = 0x0C0 then th.tvec
  else if n = 0x0C1 then th.tepc
  else if n = 0x0C2 then th.tcause.setWidth 64
  else if n = 0x0C3 then th.taddr
  else if n = 0x0C4 then th.tstat.setWidth 64
  else if th.intrap then 1 else 0

/-- A value that a bank format register may not take (R134, R430). -/
def badBankFormat (v : BitVec 32) : Bool :=
  let fmt := v.extractLsb' 0 4
  let elem := v.extractLsb' 4 4
  v.extractLsb' 9 23 != 0 || 0xC ≤ fmt ||
    (if fmt = fmtNM then !(elem == fmtINT8 || elem == fmtMXI8 || isF8 elem) else elem != 0 || v.getLsbD 8)

/-- An MTS value that sets a reserved bit (R55, R430); 32-bit registers take bits [31:0] only (R260). -/
def badSpecValue (n : Nat) (v : Word) : Bool :=
  if n = 0x006 then v.extractLsb' 15 49 != 0 || v.extractLsb' 6 2 != 0
  else if n = 0x008 then v.extractLsb' 24 8 != 0 || v.extractLsb' 0 4 != 0
  else if 0x030 ≤ n && n ≤ 0x03F then badBankFormat (v.setWidth 32)
  else false

/-- The effect of an MTS (R134, R236, R260, R337, R343, R406). -/
def State.putSpec (s : State) (u t n : Nat) (v : Word) : State :=
  if n = 0x006 then s.updThread u t (fun th => th.writeFlags (s.cycles u) (v.setWidth 15))
  else if n = 0x008 then s.updCore u (fun k => { k with pivstat := (k.pivstat &&& 0xFF00000F) ||| (v.setWidth 32 &&& 0x00FFFFF0) })
  else if 0x010 ≤ n && n ≤ 0x017 then s.updCore u (fun k => { k with pv := k.pv.setIfInBounds (n - 0x010) v })
  else if 0x030 ≤ n && n ≤ 0x03F then s.updCore u (fun k => { k with bfmt := k.bfmt.setIfInBounds (n - 0x030) (v.setWidth 32) })
  else if n = 0x0C0 then s.updThread u t (fun th => { th with tvec := v })
  else s.updThread u t (fun th => { th with tepc := v })

/-- MFS (R260): the value in the read stage; for DONEIDn the destination is empty until the engine answers (R210). -/
def slotMfs (o : SpecGet) : Slot := fun c s =>
  let n := o.spec.toNat
  if !specNamed n || (isQuill c.unit && specCoreOnly n) then .error (.checkTrap 0x11 0 (BitVec.ofNat 32 n))
  else match ready (c.th s) [] [o.reg] with
    | .error e => .error e
    | .ok _ =>
      if 0x020 ≤ n && n ≤ 0x02F then
        let r := { c.request s 2 0 0 ⟨s.modreg.toNat % 1024 * 2 ^ 42, 0, 0⟩ (.doneid o.reg.toNat (16 * engineOf c.unit + (n - 0x020))) with
                   status := .served s.now (.data []) }
        .ok (fun s => (s.updThread c.unit c.thr (fun t => t.emptyX o.reg)).submit r)
      else .ok (c.writeX o.reg (s.specValue c.unit c.thr n))

/-- MTS (R260, R430). -/
def slotMts (o : SpecPut) : Slot := fun c s =>
  let n := o.spec.toNat
  let th := c.th s
  if !specNamed n || (isQuill c.unit && specCoreOnly n) || !specWritable n then
    .error (.checkTrap 0x11 1 (BitVec.ofNat 32 n))
  else match ready th [(o.reg, o.ta)] [] with
    | .error e => .error e
    | .ok _ =>
      if badSpecValue n (th.getX o.reg) then .error (.readTrap 0x11 1 (BitVec.ofNat 32 n))
      else .ok (fun s => s.putSpec c.unit c.thr n (th.getX o.reg))

/-! ### Each instruction as a bundle of its own -/
/-- MFS alone in its bundle. -/
def execMfs (o : SpecGet) (s : State) : Result := .next (s.issueOne (.mfs o) (slotMfs o))
/-- MTS alone in its bundle. -/
def execMts (o : SpecPut) (s : State) : Result := .next (s.issueOne (.mts o) (slotMts o))

end Sys2Proof.Machine
end

