-- ==== Sys2Proof/Machine/Control.lean ====
section
/-! DEFINITION. The B class: branches, the loop buffer, EXIT, TRIG, YIELD, SLEEP, TRAP, ERET and NOP (R221, R261 to R265, R408
to R410). -/

namespace Sys2Proof.Machine

/-- BR (R261). -/
def slotBr (o : Jump) (xs : List XPay) : Slot := fun c _ =>
  .ok (c.commit (fun th => th.jump (branchTarget c.pc o.off xs)))

/-- BC: taken when the predicate XOR NEG is 1 (R225, R261). -/
def slotBc (o : BranchOps) (xs : List XPay) : Slot := fun c s =>
  if xor ((c.th s).getP o.pred) o.neg then .ok (c.commit (fun th => th.jump (branchTarget c.pc o.off xs)))
  else .ok (fun s => s)

/-- BCALL: x30 takes the address of the next bundle (R261). -/
def slotBcall (o : Jump) (xs : List XPay) : Slot := fun c s =>
  match ready (c.th s) [] [30] with
  | .error e => .error e
  | .ok _ => .ok (c.commit (fun th => (th.setX 30 c.next).jump (branchTarget c.pc o.off xs)))

/-- RET: a jump to the address in a register (R261). -/
def slotRet (o : RetOps) : Slot := fun c s =>
  let th := c.th s
  match ready th [(o.reg, o.ta)] [] with
  | .error e => .error e
  | .ok _ => .ok (c.commit (fun t => t.jump (th.getX o.reg)))

/-- The start of a loop (R221): n bundles from the next one on, count times; a count of 0 skips them. The bundles to skip are
found by their stop bits as they are fetched, so the loop is entered with no repetition left to issue. -/
def Thread.startLoop (th : Thread) (own next : Word) (n : Nat) (count : Nat) : Thread :=
  { th with pc := next, loop := some ⟨own, next, [], n, 0, count, none⟩ }

/-- The buffer holds a body with a remaining count, and this is not its own LOOP (R431). -/
def loopNested (th : Thread) (pc : Word) : Bool :=
  match th.loop with
  | none => false
  | some l => l.remaining != 0 && l.at_ != pc

/-- LOOP in either form (R221, R262, R431). -/
def slotLoopBase (nm1 : BitVec 5) (srcs : List (BitVec 5 × Bool)) (count : Thread → Nat) : Slot := fun c s =>
  let th := c.th s
  if loopNested th c.pc then .error (.checkTrap 0x13 0 0)
  else match ready th srcs [] with
    | .error e => .error e
    | .ok _ => .ok (c.commit (fun t => t.startLoop c.pc c.next (nm1.toNat + 1) (count th)))

/-- LOOP with a count register. -/
def slotLoop (o : LoopReg) : Slot := slotLoopBase o.nm1 [(o.count, o.ta)] (fun th => (th.getX o.count).toNat)
/-- LOOP with an immediate count. -/
def slotLoopImm (o : LoopImm) (xs : List XPay) : Slot := slotLoopBase o.nm1 [] (fun _ => (loopCount o.imm xs).toNat)

/-- A thread that exits at a place n of its program order closes the bulk runs it holds or waits for, as BCLOSE would (R276, R460). -/
def Channel.leave (ch : Channel) (u t n rotation : Nat) : Channel :=
  if ch.runs.any (fun e => e.2.any (fun r => r.unit == u && r.thr == t)) || ch.runQueue.any (fun r => r.unit == u && r.thr == t) then
    { ch with
      runs := ch.runs.map (fun e => (e.1, e.2.map (fun r => if r.unit = u && r.thr = t then { r with closing := some (r.closing.getD n) } else r))),
      runQueue := ch.runQueue.map (fun r => if r.unit = u && r.thr = t then { r with closing := some (r.closing.getD n) } else r),
      rotation := rotation }
  else ch

/-- A pending result of the thread is discarded: it writes no register when it lands (R263). -/
def MemOp.discard : MemOp → MemOp
  | .amo k v w _ => .amo k v w 0
  | op => op

/-- An LDE of the thread that has not read yet is given up with its result (R252, R263). -/
def Req.givenUp (r : Req) (u t : Nat) : Bool :=
  r.by_.unit == u && r.by_.thr == t && r.open && match r.op with | .lde _ _ => true | _ => false

/-- EXIT (R263): the thread issues nothing more, and its pending results are discarded, the claims of its appends among them; THREAD_END
follows. -/
def slotExit : Slot := fun c _ =>
  .ok (fun s =>
    let s0 := s.updThread c.unit c.thr (fun th => { th with status := .exiting, loop := none, traps := [] })
    let s1 := if isQuill c.unit then s0 else s0.updCore c.unit (fun k => { k with wflgs := k.wflgs.filter (fun f => f.thr != c.thr) })
    { s1 with
      hgOps := s1.hgOps.filter (fun h => h.scatter || !(h.by_.unit == c.unit && h.by_.thr == c.thr)),
      channels := s1.channels.map (fun e => (e.1, e.2.leave c.unit c.thr s1.nextId (s1.cc / 320))),
      appends := s1.appends.map (fun a => if a.by_.unit = c.unit && a.by_.thr = c.thr then { a with dst := 0 } else a),
      reqs := (s1.reqs.filter (fun r => !r.givenUp c.unit c.thr)).map (fun r =>
        if r.by_.unit = c.unit && r.by_.thr = c.thr then
          (if r.op.isWrite then { r with op := r.op.discard }
           else if r.op.isFill || s1.readsForHgsc r.op then r else { r with dropped := true })
        else r) })

/-- The first TRIG that a thread of a gang executes in its iteration waits for what is out now; a later one has no effect (R82). -/
def State.firstTrig (s : State) (u t : Nat) : State :=
  match (s.thread u t).owner with
  | .gang g =>
    if (s.gangOf g).all (fun k => k.trigUsed) then s
    else (s.updGang g (fun k => { k with trigUsed := true })).updThread u t (fun th => { th with trig := some (s.accessesOut u t) })
  | _ => s

/-- TRIG (R82, R264): takes effect once the writes that are out now are acknowledged; no effect on a quill core (R235). -/
def slotTrig : Slot := fun c _ =>
  if isQuill c.unit then .ok (fun s => s)
  else
    .ok (fun s' => s'.firstTrig c.unit c.thr)

/-- The thread gives up issue until every other ready thread has issued one bundle (R264). -/
def Thread.yieldTo (th : Thread) (t : Nat) : Thread := { th with yielded := (List.range 4).filter (fun j => j != t) }

/-- YIELD (R264). -/
def slotYield : Slot := fun c _ => .ok (c.commit (fun th => th.yieldTo c.thr))

/-- SLEEP: the next bundle waits so many cycles after the commit, until SLEEP_EXPIRY; SLEEP 0 acts as YIELD (R264). -/
def slotSleep (o : Count16) : Slot := fun c _ =>
  .ok (fun s => s.updThread c.unit c.thr (fun th =>
    if o.count = 0 then th.yieldTo c.thr
    else { th with sleeping := true, waitUntil := max th.waitUntil (s.cycles c.unit + 1 + o.count.toNat) }))

/-- TRAP (R409): taken after the bundle commits. -/
def slotTrap (o : Code8) : Slot := fun c _ =>
  .ok (c.commit (fun th => { th with traps := th.traps ++ [⟨0x01, o.code.toNat, false, 3, c.slot, 0, 0, none⟩] }))

/-- ERET (R410): with INTRAP 0 a precise fault; an ERET in a loop body not entered by a trap ends the loop. A loop that a trap
interrupted continues at TEPC, which is read before the bundle writes anything (R218). -/
def slotEret : Slot := fun c s =>
  if (c.th s).intrap then .ok (c.commit (fun th => th.eret (c.th s).tepc))
  else .error (.checkFault 0x03 0)

/-- NOP (R265). -/
def slotNop : Slot := fun _ _ => .ok (fun s => s)

/-! ### Each instruction as a bundle of its own -/
/-- BR alone in its bundle. -/
def execBr (o : Jump) (xs : List XPay) (s : State) : Result := .next (s.issueOne (.br o xs) (slotBr o xs))
/-- BC alone in its bundle. -/
def execBc (o : BranchOps) (xs : List XPay) (s : State) : Result := .next (s.issueOne (.bc o xs) (slotBc o xs))
/-- BCALL alone in its bundle. -/
def execBcall (o : Jump) (xs : List XPay) (s : State) : Result := .next (s.issueOne (.bcall o xs) (slotBcall o xs))
/-- RET alone in its bundle. -/
def execRet (o : RetOps) (s : State) : Result := .next (s.issueOne (.ret o) (slotRet o))
/-- LOOP alone in its bundle. -/
def execLoop (o : LoopReg) (s : State) : Result := .next (s.issueOne (.loop o) (slotLoop o))
/-- LOOP_IMM alone in its bundle. -/
def execLoopImm (o : LoopImm) (xs : List XPay) (s : State) : Result := .next (s.issueOne (.loopImm o xs) (slotLoopImm o xs))
/-- EXIT alone in its bundle. -/
def execExit (s : State) : Result := .next (s.issueOne (.exit) slotExit)
/-- TRIG alone in its bundle. -/
def execTrig (s : State) : Result := .next (s.issueOne (.trig) slotTrig)
/-- YIELD alone in its bundle. -/
def execYield (s : State) : Result := .next (s.issueOne (.yield) slotYield)
/-- TRAP alone in its bundle. -/
def execTrap (o : Code8) (s : State) : Result := .next (s.issueOne (.trap o) (slotTrap o))
/-- ERET alone in its bundle. -/
def execEret (s : State) : Result := .next (s.issueOne (.eret) slotEret)
/-- NOP alone in its bundle. -/
def execNop (s : State) : Result := .next (s.issueOne (.nop) slotNop)
/-- SLEEP alone in its bundle. -/
def execSleep (o : Count16) (s : State) : Result := .next (s.issueOne (.sleep o) (slotSleep o))

end Sys2Proof.Machine
end

