-- ==== Sys2Proof/Machine/Calendar.lean ====
section
/-! DEFINITION. The calendars: the default layout, entries, and the latency table (R149 to R153). -/

namespace Sys2Proof.Machine

/-- KIND of a calendar entry (R150). -/
def calKind (e : BitVec 16) : Nat := (e.extractLsb' 12 4).toNat
/-- OWNER of a calendar entry. -/
def calOwner (e : BitVec 16) : Nat := (e.extractLsb' 0 9).toNat
def calEntryOf (kind owner : Nat) : BitVec 16 := BitVec.ofNat 16 (kind * 4096 + owner)

def kindCORE : Nat := 1
def kindQUILL : Nat := 2
def kindLINK : Nat := 3
def kindHOST : Nat := 4
def kindMAINT : Nat := 5
def kindBULK : Nat := 6
def kindSPARE : Nat := 7

/-- The default layout of a full-module partition (R151). -/
def defaultEntry (ch slot : Nat) : BitVec 16 :=
  let m := (slot + 320 - ch % 320) % 320
  let a := m / 40
  let b := m % 40
  if b = 0 then calEntryOf (if a % 2 = 0 then kindMAINT else kindHOST) 0
  else if b ≤ 24 then calEntryOf kindCORE (24 * a + b - 1)
  else if b ≤ 28 then calEntryOf kindQUILL (192 + 4 * a + b - 25)
  else if b ≤ 34 then calEntryOf kindLINK (240 + 2 * a + (b - 29) % 2)
  else if b ≤ 38 then calEntryOf kindBULK a
  else calEntryOf kindSPARE 0

/-- Entries whose owner lies outside the partition's blocks become SPARE (R386). -/
def ownedEntry (blocks : BitVec 8) (e : BitVec 16) : BitVec 16 :=
  let k := calKind e
  if (k = kindCORE || k = kindQUILL || k = kindLINK) && !blocks.getLsbD (blockOfUnit (calOwner e)) then calEntryOf kindSPARE 0
  else e

/-- Entry of a calendar (R150). -/
def Calendar.entry (c : Calendar) (ch slot : Nat) : BitVec 16 :=
  lookup (match c.base with
    | .default => defaultEntry ch slot
    | .owned b => ownedEntry b (defaultEntry ch slot)
    | .free => 0) slot c.put

/-- The slot's entry of a channel in force. -/
def State.calEntry (s : State) (ch slot : Nat) : BitVec 16 := (s.channel ch).cal.entry ch slot

/-- Some slot of the channel belongs to a bulk run. -/
def State.hasRun (s : State) (ch run : Nat) : Bool :=
  (List.range 320).any (fun n => s.calEntry ch n == calEntryOf kindBULK run)

/-- Channels of a set of blocks, and the slots of a channel that hold an entry. -/
def chansOf (blocks : BitVec 8) : List Nat := (List.range 256).filter (fun c => blocks.getLsbD (c / 32))
def slotsHolding (c : Calendar) (ch : Nat) (e : BitVec 16) : List Nat := (List.range 320).filter (fun n => c.entry ch n == e)

/-- A calendar of a channel without the slots of a core. -/
def Calendar.without (c : Calendar) (ch n : Nat) : Calendar :=
  { c with put := (slotsHolding c ch (calEntryOf kindCORE n)).foldl (fun m e => insertAt e (calEntryOf kindSPARE 0) m) c.put }

/-- The entries of a core whose number names none any more become SPARE at the next rotation boundary (R482). -/
def State.spareEntries (s : State) (n : Nat) : State :=
  match s.partOfBlock (n / 24) with
  | none => s
  | some p => s.updPart p (fun k => { k with pendingCal := some ((chansOf k.blocks).map (fun c =>
      (c, (match k.pendingCal with | some m => lookup (s.channel c).cal c m | none => (s.channel c).cal).without c n))) })

/-! ### The latency table (R153) -/

/-- Die bridges between a requester and the die of a channel's block (R153). -/
def State.crossings (s : State) (u ch : Nat) : Nat :=
  let d := dieOfBlock (ch / 32)
  if u < 256 then bridges (dieOfBlock (blockOfUnit u)) d
  else if u = 256 then bridges 0 d
  else if u = 257 then 0
  else bridges (dieOfBlock ((firstBelow 8 (fun b => (s.part (u - 258)).blocks.getLsbD b)).getD 0)) d

/-- HIT of a requester's row without crossings: core, scheduler 73; port 65; quill core, copy engine, host, maintenance 61. -/
def hitBase (u : Nat) : Nat := if u < 192 || 258 ≤ u then 73 else if 240 ≤ u && u < 256 then 65 else 61

def State.latHit (s : State) (u ch : Nat) : Nat := hitBase u + 24 * s.crossings u ch
def State.latMiss (s : State) (u ch : Nat) : Nat := hitBase u + 103 + 24 * s.crossings u ch
def State.latAtom (s : State) (u ch : Nat) : Nat := hitBase u + 15 + 24 * s.crossings u ch

/-- The table's entry for a requester and channel (R153). -/
def State.latEntry (s : State) (u ch : Nat) : Nat :=
  s.latHit u ch + 2 ^ 16 * s.latMiss u ch + 2 ^ 32 * s.latAtom u ch

end Sys2Proof.Machine
end

