-- ==== Sys2Proof/Machine/Device.lean ====
section
/-! DEFINITION. Accesses by virtual address that engines, edge units, the scheduler and the host make on their own behalf, and the
completion of a command (R131, R157, R159, R174, R386, R469 to R471). -/

/-- Packets in the ring of a kind of queue, and the TYPE of its packets. -/
def Sys2Proof.QueueKind.ring (k : Sys2Proof.QueueKind) : Nat := match k with | .launch => 4096 | .copy => 1024 | .task => 256
def Sys2Proof.QueueKind.type (k : Sys2Proof.QueueKind) : Nat := match k with | .launch => 1 | .copy => 2 | .task => 3
/-- The number of a kind of queue among the readers of rings. -/
def Sys2Proof.QueueKind.num (k : Sys2Proof.QueueKind) : Nat := match k with | .launch => 0 | .copy => 1 | .task => 2

namespace Sys2Proof.Machine

/-- A status word (R174). -/
def statusWord (id ecode flags : Nat) : Nat := id % 2 ^ 32 * 2 ^ 32 + 2 ^ 31 + ecode % 256 * 2 ^ 16 + flags % 256

/-- The pieces of a range of virtual addresses that lie in one line each. -/
def linePieces : Nat → Nat → Nat → List (Nat × Nat)
  | 0, _, _ => []
  | fuel + 1, va, n =>
    if n = 0 then []
    else
      let k := min n (128 - va % 128)
      (va, k) :: linePieces fuel (va + k) (n - k)

def pieces (va n : Nat) : List (Nat × Nat) := linePieces (n / 128 + 2) va n

/-! ### Copies as issuers (R161, R165, R171) -/

def Copy.word (c : Copy) : Nat := fieldAt c.pkt 4 4
def Copy.sfmt (c : Copy) : BitVec 4 := BitVec.ofNat 4 (bitsOf c.word 31 28)
def Copy.dfmt (c : Copy) : BitVec 4 := BitVec.ofNat 4 (bitsOf c.word 27 24)
def Copy.rm (c : Copy) : Nat := bitsOf c.word 23 21
def Copy.trans (c : Copy) : Bool := bitsOf c.word 20 20 == 1
def Copy.prune (c : Copy) : Nat := bitsOf c.word 19 18
def Copy.bmap (c : Copy) : Nat := bitsOf c.word 17 16
def Copy.bulk (c : Copy) : Bool := bitsOf c.word 15 15 == 1
def Copy.run (c : Copy) : Nat := bitsOf c.word 14 12
def Copy.hdr (c : Copy) : Bool := bitsOf c.word 11 11 == 1
def Copy.src (c : Copy) : Nat := fieldAt c.pkt 8 8
def Copy.dst (c : Copy) : Nat := fieldAt c.pkt 16 8
def Copy.rows (c : Copy) : Nat := fieldAt c.pkt 24 4
def Copy.rlen (c : Copy) : Nat := fieldAt c.pkt 28 4
def Copy.wellVa (c : Copy) : Nat := fieldAt c.pkt 48 8
def Copy.statVa (c : Copy) : Nat := fieldAt c.pkt 56 8

/-- The copy engine of a copy, as an issuer of reads and writes of its own. -/
def Copy.unit (c : Copy) : Nat := 224 + c.chan / 16
def Copy.issue (c : Copy) : Issue := ⟨c.unit, c.id, .none, 0, 4, 0⟩
def Copy.launch (c : Copy) : Option Nat := c.origin.bind (fun o => o.launch)
def Copy.owner (c : Copy) : Owner := (c.origin.map (fun o => o.by_.owner)).getD .none

/-! ### Line requests of engines, the scheduler and the host (R149, R152, R160, R491) -/

/-- The slots of a channel that serve a requester: those with its own entry; those of an open bulk run for copies of its thread that
name it; those of runs that no BOPEN holds; or, for a core that writes its save area, its own and its share of the latter (R90). -/
inductive Lane where
  | own (u : Nat)
  | save (u : Nat)
  | run (u t r : Nat)
  | free
  deriving DecidableEq, Repr

/-- Line requests that a copy engine presents in one controller cycle, in each direction (R160). -/
def engineLines : Nat := 16

/-- Line requests that an engine has issued in the present controller cycle in a direction. -/
def State.issuedNow (s : State) (u : Nat) (write : Bool) : Nat :=
  (s.reqs.filter (fun r => r.by_.unit == u && ccOf r.born == s.cc && r.op.isWrite == write)).length

/-- A request of an engine, an agent or the device for part of a line, not yet numbered. -/
def lineReq (s : State) (i : Issue) (p va n : Nat) (g : Target) (op : MemOp) : Req :=
  { id := 0, by_ := i, part := p, va := va, pa := g.pa, size := n, cls := g.cls, kslot := g.kslot, op := op, acquire := false,
    release := false, check := none, after := [], born := s.now, status := .waiting, dropped := false, reply := none }

/-- What a read by the device yields: bytes with their poison, a fault, or a wait for answers. -/
inductive DevRead where
  | ok (s : State) (bytes : List Byte) (poison : Bool)
  | fault (cause addr : Nat) (status : BitVec 32)
  | wait (s : State)

/-- A line of HBM, here or in another module, is read by a request, unless that is out already (R152, R159). -/
def State.askLine (s : State) (i : Issue) (p va : Nat) (g : Target) (n : Nat) : State :=
  if s.reqs.any (fun r => r.by_.unit == i.unit && r.by_.thr == i.thr && r.pa == g.pa && r.size == n && r.op == .fetch) then s
  else s.submit (lineReq s i p va n g .fetch)

/-- The target is a scratchpad of this module, which a reader reaches through its bank unit. -/
def State.isNear (s : State) (g : Target) : Bool :=
  s.isLocal g && match locate (localOf g.pa) with | .hbm _ _ => false | _ => true

/-- Bytes of a scratchpad of this module as a reader finds them. -/
def State.readNear (s : State) (g : Target) (n : Nat) : List Byte × Bool :=
  match locate (localOf g.pa) with
  | .scratch c o =>
    (memRead s.mem (localOf g.pa) n,
     (List.range ((o + n - 1) / 16 - o / 16 + 1)).any (fun k => lookup false (o / 16 + k) (s.core c).gpoison))
  | _ => (memRead s.mem (localOf g.pa) n, false)

/-- The answer that has come for an access of an issuer. -/
def State.answered (s : State) (i : Issue) (g : Target) : Option Inbox :=
  s.inbox.find? (fun m => m.unit == i.unit && m.thr == i.thr && m.pa == g.pa)

/-- The answer that has come for a read of n bytes. -/
def State.answeredRead (s : State) (i : Issue) (g : Target) (n : Nat) : Option Inbox :=
  s.inbox.find? (fun m => m.unit == i.unit && m.thr == i.thr && m.pa == g.pa && (m.cause != 0 || m.bytes.length == n))

/-- A reader finds a scratchpad of this module at once, but for a copy engine, which sends its request to the bank unit (R171). -/
def State.readsNear (s : State) (i : Issue) (g : Target) : Bool := s.isNear g && !(decide (224 ≤ i.unit) && decide (i.unit < 240))

/-- One piece of a read. -/
def State.readPiece (s : State) (i : Issue) (p va n : Nat) : DevRead :=
  match s.translate p (tlbUnit i) va .read with
  | .error e => .fault e.cause va e.status
  | .ok g =>
    if s.readsNear i g then .ok s (s.readNear g n).1 (s.readNear g n).2
    else match s.answeredRead i g n with
      | some m => if m.cause ≠ 0 then .fault m.cause va m.status else .ok s m.bytes m.poison
      | none => .wait (s.askLine i p va g n)

/-- The pieces of a read in order. With an answer still out, the rest is asked for as well. -/
def State.readPieces (s : State) (i : Issue) (p : Nat) : List (Nat × Nat) → DevRead
  | [] => .ok s [] false
  | (va, n) :: rest =>
    match s.readPiece i p va n with
    | .fault c a w => .fault c a w
    | .wait s' =>
      match s'.readPieces i p rest with
      | .ok s'' _ _ => .wait s''
      | .wait s'' => .wait s''
      | .fault _ _ _ => .wait s'
    | .ok s' bs b =>
      match s'.readPieces i p rest with
      | .ok s'' bs' b' => .ok s'' (bs ++ bs') (b || b')
      | e => e

/-- The answers kept for an issuer are used up. -/
def State.clearInbox (s : State) (i : Issue) : State :=
  { s with inbox := s.inbox.filter (fun m => !(m.unit == i.unit && m.thr == i.thr)) }

/-- n bytes from a virtual address on. Answers stay until the issuer clears them. -/
def State.readVa (s : State) (i : Issue) (p va n : Nat) : DevRead := s.readPieces i p (pieces va n)

/-- The targets of pieces of an access, all translated before any is touched. -/
def State.targets (s : State) (p u : Nat) (k : Access) : List (Nat × Nat) → Except (Nat × Nat × BitVec 32) (List (Nat × Nat × Target))
  | [] => .ok []
  | (va, n) :: rest =>
    match s.translate p u va k with
    | .error e => .error (e.cause, va, e.status)
    | .ok g =>
      match s.targets p u k rest with
      | .error e => .error e
      | .ok gs => .ok ((va, n, g) :: gs)

/-- Bytes written at translated targets, in order: each piece a request of the issuer to its home; `full` where it sets granules of a
scratchpad full (R138). -/
def State.putPieces (s : State) (i : Issue) (p : Nat) (full : Bool) : List (Nat × Nat × Target) → List Byte → State
  | [], _ => s
  | (va, n, g) :: gs, bs => (s.submit (lineReq s i p va n g (.engine none [(0, bs.take n)] full [] 0 false))).putPieces i p full gs (bs.drop n)

/-- Bytes written from a virtual address on by an agent or an edge writer, or the first fault. -/
def State.writeAs (s : State) (full : Bool) (i : Issue) (p va : Nat) (bs : List Byte) : Except (Nat × Nat × BitVec 32) State :=
  match s.targets p (tlbUnit i) .write (pieces va bs.length) with
  | .error e => .error e
  | .ok gs => .ok (s.putPieces i p full gs bs)

/-- The same for a write that changes no granule bit. -/
def State.writeVa (s : State) (i : Issue) (p va : Nat) (bs : List Byte) : Except (Nat × Nat × BitVec 32) State := s.writeAs false i p va bs

/-! ### The scheduler's own accesses (R139, R152, R385, R386, R398, R412) -/

/-- The scheduler of a partition as an issuer (R139). The accesses that it makes for different things are told apart by a number in place of a
thread: 0 for launches, then the rings. -/
def devIssue (p n : Nat) : Issue := ⟨258 + p, n, .none, 0, 15, 0⟩
def schedIssue (p : Nat) : Issue := devIssue p 0
/-- The reader of a queue's ring, by the kind of queue and its number, and what reads the word at its WIDX. -/
def ringIssue (p kind n : Nat) : Issue := devIssue p (1 + 256 * kind + n)
/-- Commands: what they read and post, the latency table, mirrors of read indices, copybooks, and the fault queue. -/
def cmdIssue (p : Nat) : Issue := devIssue p 800
def postIssue (p : Nat) : Issue := devIssue p 801
def latIssue (p : Nat) : Issue := devIssue p 802
def mirrorIssue (p : Nat) : Issue := devIssue p 803
def bookIssue (p : Nat) : Issue := devIssue p 804
def faultIssue (p : Nat) : Issue := devIssue p 805
/-- The completion record of a launch. -/
def recordIssue (p l : Nat) : Issue := devIssue p (1024 + l)

/-- The entry for a fault of the scheduler (R452). -/
def schedRec (l : Launch) (cause addr : Nat) (status : BitVec 32) : FaultRec :=
  { part := l.part, kind := 3, cause := cause, req := 258 + l.part, thr := 0, cls := 15, slot := 0, chan := 0,
    addr := BitVec.ofNat 64 addr, bundle := 0, status := status, lwidx := l.lwidx, queue := l.queue, gangid := 0, progress := 0,
    unit := .none, launch := some l.id }

/-- An issuer has accesses without an answer. -/
def State.issuing (s : State) (i : Issue) : Bool := s.reqs.any (fun r => r.by_.unit == i.unit && r.by_.thr == i.thr)

/-- Pieces of what the device writes, each a request to its home; those of pages that do not translate are lost. -/
def State.postPieces (s : State) (i : Issue) (p : Nat) (k : Access) (release : Bool) : List (Nat × Nat) → List Byte → State
  | [], _ => s
  | (va, n) :: rest, bs =>
    match s.translate p (tlbUnit i) va k with
    | .ok g => (s.submit { lineReq s i p va n g (.engine none [(0, bs.take n)] false [] 0 false) with release := release }).postPieces i p k release
        rest (bs.drop n)
    | .error _ => (s.walked (tlbUnit i) p va).postPieces i p k release rest (bs.drop n)

/-- Bytes that the device writes from a virtual address on; and bytes that it writes after all that the issuer has written before, as a
release (R94, R386, R412). -/
def State.post (s : State) (i : Issue) (p va : Nat) (bs : List Byte) : State := s.postPieces i p .write false (pieces va bs.length) bs
def State.postLast (s : State) (i : Issue) (p va : Nat) (bs : List Byte) : State := s.postPieces i p .write true (pieces va bs.length) bs

/-- The word at an address as its home slice reports it, in this module. -/
def State.reported (s : State) (p va : Nat) : Option Nat :=
  match s.translate p (258 + p) va .read with
  | .ok g => if s.isLocal g && (s.homeCause p g).isNone then some (leNat (s.readAt p g 4)) else none
  | .error _ => none

/-! ### Commands (R386) -/

/-- Local address of a command ring entry. -/
def cmdPa (idx : Nat) : Nat := controlBase + 0x200000 + 64 * (idx % 1024)

/-- A command's effect is complete: its status word, and the next command may start. -/
def State.finishCommand (s : State) (idx : BitVec 32) (ecode : Nat) : State :=
  { s with mem := memWrite s.mem (cmdPa idx.toNat + 8) (leBytes 8 (statusWord idx.toNat ecode 0)),
           commands := s.commands.filter (fun c => c.idx != idx), cmdRidx := idx + 1 }

/-! ### Rings (R68, R69, R163, R164, R183) -/

/-- The queue of a kind and number. -/
def State.queue (s : State) (k : QueueKind) (n : Nat) : Queue :=
  lookup Queue.reset n (match k with | .launch => s.launchQ | .copy => s.copyQ | .task => s.taskQ)
def State.updQueue (s : State) (k : QueueKind) (n : Nat) (f : Queue → Queue) : State :=
  match k with
  | .launch => { s with launchQ := adjust Queue.reset n f s.launchQ }
  | .copy => { s with copyQ := adjust Queue.reset n f s.copyQ }
  | .task => { s with taskQ := adjust Queue.reset n f s.taskQ }

/-- The valid word of a packet matches a queue's place in its ring (R69, R164). -/
def postedWord (q : Queue) (ring type w : Nat) : Bool := bitsOf w 31 16 = q.ridx.toNat / ring % 65536 && bitsOf w 15 8 = type

/-- Address of the ring slot at RIDX. -/
def Queue.slotVa (q : Queue) (ring : Nat) : Nat := q.ring.toNat + 64 * (q.ridx.toNat % ring)

/-- The line of a ring's slot: the one registered with its home slice, or as it translates now. -/
def State.ringLine (s : State) (q : Queue) (ring : Nat) : Option Target :=
  q.line.or (s.translate q.part (258 + q.part) (q.slotVa ring) .read).toOption

/-- The home slice of the slot at RIDX has a matching valid word there: a packet stands there and has not been read. One of another module is
not seen from here. -/
def State.ringPosted (s : State) (q : Queue) (ring type : Nat) : Bool :=
  q.en && !q.rising && (s.ringLine q ring).any (fun g =>
    s.isLocal g && (s.homeCause q.part g).isNone && postedWord q ring type (leNat (s.readAt q.part g 4)))

/-- The ring slot at RIDX may hold a packet: its home slice has reported one, or it lies in another module, where it is asked for; or the
word at WIDX is still to be read. -/
def State.ringDue (s : State) (q : Queue) (ring type : Nat) : Bool :=
  q.en && (q.rising || s.ringPosted q ring type || (s.ringLine q ring).any (fun g => !s.isLocal g))

/-- The lines of launch queues' slots are registered with their home slices, once they translate (R68, R131). -/
def State.watchRings (s : State) : State :=
  { s with launchQ := s.launchQ.map (fun e =>
      if e.2.en && e.2.line.isNone then
        (e.1, { e.2 with line := (s.translate e.2.part (258 + e.2.part) (e.2.slotVa 4096) .read).toOption })
      else e) }

/-- RIDX of a queue moves to the next slot, and its mirror is written, as a relaxed write (R69, R164, R385). -/
def State.mirror (s : State) (p widx : Nat) (ridx : BitVec 32) : State := s.post (mirrorIssue p) p (widx + 4) (leBytes 4 ridx.toNat)
def State.passSlotOf (s : State) (k : QueueKind) (n : Nat) : State :=
  let q := s.queue k n
  (s.updQueue k n (fun x => { x with ridx := x.ridx + 1, line := none, origins := eraseAt (q.ridx.toNat % k.ring) x.origins })).mirror
    q.part q.widx.toNat (q.ridx + 1)

/-- EN has risen: RIDX, and DONEID, take the word at WIDX once it has been read, and the mirror is written. Where it cannot be read the queue
stays as it is (R70; DESIGN CHOICE, assumption 144). -/
def State.ringRise (s : State) (k : QueueKind) (n : Nat) : State :=
  let q := s.queue k n
  let i := ringIssue q.part k.num n
  match s.readVa i q.part q.widx.toNat 4 with
  | .wait s1 => s1
  | .fault _ _ _ => s
  | .ok s1 bs _ =>
    let w : BitVec 32 := BitVec.ofNat 32 (leNat bs)
    ((s1.clearInbox i).updQueue k n (fun x => { x with rising := false, ridx := w, doneid := w, line := none })).mirror q.part q.widx.toNat w

/-- The packet at a ring slot, read by a line request, the state that waits for it, or why it cannot be read. -/
inductive RingRead where
  | none
  | wait (s : State)
  | packet (s : State) (bytes : List Byte)
  | bad (cause addr : Nat) (status : BitVec 32)

/-- The packet that a queue's reader finds; its answers stay until the packet is taken. A read that fails tells of a packet only where the
home slice has reported one. -/
def State.ringPacket (s : State) (k : QueueKind) (n : Nat) : RingRead :=
  let q := s.queue k n
  let i := ringIssue q.part k.num n
  if !s.ringDue q k.ring k.type then .none
  else if q.rising then .wait (s.ringRise k n)
  else match s.readVa i q.part (q.slotVa k.ring) 64 with
    | .wait s1 => .wait s1
    | .fault c a w => if s.ringPosted q k.ring k.type then .bad c a w else .wait (s.clearInbox i)
    | .ok s1 bs poison =>
      if poison then (if s.ringPosted q k.ring k.type then .bad 0x4C (q.slotVa k.ring) 0 else .wait (s1.clearInbox i))
      else if postedWord q k.ring k.type (fieldAt bs 0 4) then .packet s1 bs else .wait (s1.clearInbox i)

/-- The packet at RIDX is taken. -/
def State.takePacket (s : State) (k : QueueKind) (n : Nat) : State :=
  (s.passSlotOf k n).clearInbox (ringIssue (s.queue k n).part k.num n)

end Sys2Proof.Machine
end

