-- ==== Sys2Proof/Machine/Runs.lean ====
section
/-! DEFINITION. The bulk runs of channels: when a run is granted, held and freed (R155, R170, R274 to R276, R460). -/

namespace Sys2Proof.Machine

/-- Bank of a line within its channel (R274). -/
def bankOf (pa : Nat) : Nat := (pa % stackBytes) / 2 ^ 16 % 16

/-- A packet in its image names a bulk run: its BULK and RUN. -/
def imageRun (img : List Byte) (run : Nat) : Bool := bitsOf (fieldAt img 4 4) 15 15 == 1 && bitsOf (fieldAt img 4 4) 14 12 == run

/-- A packet that a thread's stores have put into a ring slot names a run, as far as this module can tell: one in a ring of another module
may (DESIGN CHOICE, assumption 47). -/
def State.slotRun (s : State) (q : Queue) (slot run : Nat) : Bool :=
  match s.translate q.part (258 + q.part) (q.ring.toNat + 64 * slot) .read with
  | .ok g => !s.isLocal g || imageRun (s.readAt q.part g 64) run
  | .error _ => true

/-- Bulk copies that name a run and precede its BCLOSE in their thread's program order have lines to move, those not yet posted or read
included; a status word is no line of theirs (R276). -/
def State.runInUse (s : State) (r : BulkRun) (run close : Nat) : Bool :=
  let mine := fun (i : Issue) (num : Nat) => i.unit == r.unit && i.thr == r.thr && decide (num < close)
  s.copies.any (fun c => c.bulk && c.run == run && !c.stopped &&
    !(c.finished && c.landings.isEmpty && s.reqs.all (fun q => !(q.by_.unit == c.unit && q.by_.thr == c.id && (match q.op with | .engine none _ _ _ _ _ => false | _ => true)))) &&
    (match c.origin with | some o => mine o.by_ o.num | none => false)) ||
  s.appends.any (fun a => mine a.by_ a.num && (match a.kind with | .cpy _ => a.img.isEmpty || imageRun a.img run | _ => false)) ||
  s.copyQ.any (fun e => e.2.origins.any (fun o => mine o.2.by_ o.2.num && (match o.2.run with | some k => k == run | none => s.slotRun e.2 o.1 run)))

/-- A closing run whose copies have moved is free (R276), from the next rotation boundary on (DESIGN CHOICE, assumption 73). -/
def State.closeRuns (s : State) (ch : Nat) : State :=
  s.updChannel ch (fun k => { k with runs := k.runs.map (fun e =>
    (e.1, e.2.bind (fun r => match r.closing with
      | some n => if s.runInUse r e.1 n then some r else none
      | none => some r))) })

/-- The run and the bank of a request are both free. -/
def Channel.admits (k : Channel) (r : RunRequest) : Bool :=
  (lookup none r.run k.runs).isNone && k.runs.all (fun e => match e.2 with | some x => x.bank != r.bank | none => true)

/-- Requests in ascending requester and thread, each given its run and bank if both are free (R275). -/
def grantRuns : List RunRequest → Channel → Channel
  | [], k => k
  | r :: rest, k =>
    if k.admits r then
      grantRuns rest { k with runs := insertAt r.run (some ⟨r.unit, r.thr, r.bank, r.start, none, r.opened, r.closing⟩) k.runs,
                              runQueue := k.runQueue.erase r }
    else grantRuns rest k

/-- What happens to a channel's runs at a rotation boundary. -/
def State.runBoundary (s : State) (ch : Nat) : State :=
  (s.closeRuns ch).updChannel ch (fun k =>
    { grantRuns (sortByKey (fun r => accessKey r.unit r.thr) k.runQueue) k with rotation := s.cc / 320 })

/-- Something waits for a channel's next rotation boundary. -/
def Channel.pendingRuns (k : Channel) : Bool :=
  !k.runQueue.isEmpty || k.runs.any (fun e => match e.2 with | some r => r.closing.isSome | none => false)

/-- The rotation boundaries that time has passed have had their effect on the runs. -/
def State.boundaries (s : State) : State :=
  ((s.channels.filter (fun e => e.2.pendingRuns && decide (e.2.rotation < s.cc / 320))).map Prod.fst).foldl State.runBoundary s

/-- The run of a channel that a copy of a thread meets: the one its BOPEN opened, not one that a BCLOSE before the copy closes. -/
def State.runOf (s : State) (c : Copy) (ch : Nat) : Option BulkRun :=
  match c.origin, lookup none c.run (s.channel ch).runs with
  | some o, some r =>
    if r.unit = o.by_.unit && r.thr = o.by_.thr && decide (r.opened ≤ o.num) && r.closing.all (fun n => decide (o.num < n)) then some r else none
  | _, _ => none

/-- A request for the copy's run that is still to be granted on a channel. -/
def Channel.waitsFor (k : Channel) (o : Origin) (run : Nat) : Bool :=
  k.runQueue.any (fun r => r.unit == o.by_.unit && r.thr == o.by_.thr && r.run == run && decide (r.opened ≤ o.num) &&
    r.closing.all (fun n => decide (o.num < n)))

/-- The issuing thread held the named run open on some channel at the copy's place in program order, or had asked for it (R460). -/
def State.holdsRun (s : State) (c : Copy) : Bool :=
  match c.origin with
  | none => false
  | some o => s.channels.any (fun e => e.2.waitsFor o c.run || (s.runOf c e.1).isSome)

/-! ### The slots of a request (R152, R170, R171) -/

/-- A line in the bank of the run that a BULK copy's thread holds on the line's channel. -/
def State.inRun (s : State) (c : Copy) (g : Target) : Bool :=
  c.bulk && c.ready && s.isLocal g && (s.runOf c (channelOf (localOf g.pa))).any (fun r => r.bank == bankOf (localOf g.pa))

/-- The slots in which a request travels: a thread's, a port's and the host's in their own; a copy's in those of the core whose thread
issued it, or the lines of its bank in its bulk run; any other in the slots of runs that are not held (R152, R170, R171). A BULK copy's
headers, status word and lines elsewhere than in the run's bank travel in the core's own slots (DESIGN CHOICE, assumption 47). -/
def State.laneOf (s : State) (r : Req) : Lane :=
  let u := r.by_.unit
  if u < 192 && 24 ≤ r.by_.thr then .save u
  else if u < 224 || (240 ≤ u && u ≤ 256) then .own u
  else match (s.copyOf r.by_.thr).filter (fun c => c.unit == u) with
    | some c => (match c.origin with
      | some o =>
        let data := match r.op with | .engine none _ _ _ _ _ => false | _ => true
        if data && s.inRun c ⟨r.pa, r.cls, r.kslot⟩ then .run o.by_.unit o.by_.thr c.run else .own o.by_.unit
      | none => .free)
    | none => .free

end Sys2Proof.Machine
end

