-- ==== Sys2Proof/Machine/Wells.lean ====
section
/-! DEFINITION. Wells at their bank unit (R175 to R180, R420, R464): initialisation, arrivals, drops, landings and the completion of
a phase; and what the faults and landings of copies do, which wells are told of (R403, R414, R417, R457, R458). -/

namespace Sys2Proof.Machine

/-- The counts of a well (R175). -/
structure WellWord where
  phase : Bool
  expect : Nat
  pend : Nat
  bytes : Int
  deriving DecidableEq, Repr

/-- The well at a local address. -/
def State.wellAt (s : State) (pa : Nat) : WellWord :=
  let w := leNat (memRead s.mem pa 4)
  ⟨bitsOf w 31 31 == 1, bitsOf w 19 10, bitsOf w 9 0, signExt 32 (leNat (memRead s.mem (pa + 4) 4))⟩

/-- The well's counts written back; its reserved bits keep what they hold. -/
def State.putWell (s : State) (pa : Nat) (w : WellWord) : State :=
  let old := leNat (memRead s.mem pa 4)
  let v := (if w.phase then 2 ^ 31 else 0) + bitsOf old 30 20 * 2 ^ 20 + w.expect % 1024 * 2 ^ 10 + w.pend % 1024
  { s with mem := memWrite (memWrite s.mem pa (leBytes 4 v)) (pa + 4) (leBytes 4 (twos 32 w.bytes)) }

/-- The completion test after an arrival, a drop or a landing (R176). -/
def WellWord.complete (w : WellWord) : WellWord :=
  if w.pend = 0 && w.bytes = 0 then { w with phase := !w.phase, pend := w.expect } else w

/-- BYTES within its 32 bits (R464). -/
def inBytes (b : Int) : Bool := decide (-(2 ^ 31) ≤ b) && decide (b < 2 ^ 31)

/-- A count changed at a well and the completion test, or the DETAIL of cause 0x50 with the well left as it was (R176, R464). -/
def WellWord.arrive (w : WellWord) (b : Int) : Except Nat WellWord :=
  if w.pend = 0 then .error 1
  else if !inBytes (w.bytes + b) then .error 2
  else .ok { w with bytes := w.bytes + b, pend := w.pend - 1 }.complete

def WellWord.dropOne (w : WellWord) (part : Bool) : Except Nat WellWord :=
  if w.expect = 0 || !part then .error 4
  else if w.pend = 0 then .error 1
  else .ok { w with expect := w.expect - 1, pend := w.pend - 1 }.complete

def WellWord.land (w : WellWord) (k : Nat) : Except Nat WellWord :=
  if !inBytes (w.bytes - k) then .error 3 else .ok { w with bytes := w.bytes - k }.complete

/-- The PART bit of a gang thread index at a well, and its clearing. -/
def State.partBit (s : State) (pa me : Nat) : Bool := (memGet s.mem (pa + 16 + me / 8)).getLsbD (me % 8)
def State.clearPart (s : State) (pa me : Nat) : State :=
  let a := pa + 16 + me / 8
  { s with mem := memPut a (memGet s.mem a &&& ~~~(1#8 <<< (me % 8))) s.mem }

/-- k bytes of a copy land at a well: the DETAIL of cause 0x50 where the count leaves its range (R175, R176, R464). -/
def State.wellLand (s : State) (pa k : Nat) : Except Nat State :=
  match (s.wellAt pa).land k with
  | .error d => .error d
  | .ok w => .ok (s.putWell pa w)

/-- WINIT registers its well with the gang, up to 16 wells (R178, R464). -/
def State.register (s : State) (g pa : Nat) : Option State :=
  match s.gangOf g with
  | none => some s
  | some k =>
    if k.wells.contains pa then some s
    else if 16 ≤ k.wells.length then none
    else some (s.updGang g (fun x => { x with wells := x.wells ++ [pa] }))

/-- WDROP at a well. -/
def State.wellDrop (s : State) (pa me : Nat) : Except Nat State :=
  match (s.wellAt pa).dropOne (s.partBit pa me) with
  | .error d => .error d
  | .ok w => .ok ((s.putWell pa w).clearPart pa me)

/-- The bytes of a participation bitmap from where its pieces of 16 bytes stand (R176). -/
def State.bitmapAt (s : State) (ps : List Nat) : Nat := leNat (ps.flatMap (fun a => memRead s.mem (localOf a) 16))

/-- WINIT's participation operand 0: every dispatched thread of the gang (R176). -/
def allThreads (g : Gang) : Nat := (List.range (4 * g.cores.length)).foldl (fun n i => if i % 4 ≤ g.tpc then n + 2 ^ i else n) 0

/-- A well operation applied at its well (R176, R177, R464). -/
def State.applyWell (s : State) (r : Req) (k : WellKind) (me : Nat) : State :=
  let pa := localOf r.pa
  let bad := fun (cause d : Nat) => s.fail r.by_ cause r.va (detailStatus d)
  match k with
  | .init n partic =>
    let g := (s.ownerGang r.by_.owner).getD 0
    let bits := match partic with
      | some ps => s.bitmapAt ps
      | none => ((s.gangOf g).map allThreads).getD 0
    match s.register g pa with
    | none => bad 0x52 0
    | some s1 =>
      let s2 := s1.putWell pa { s1.wellAt pa with expect := n, pend := n, bytes := 0 }
      { s2 with mem := memWrite s2.mem (pa + 16) (leBytes 96 bits) }
  | .arrive b =>
    match (s.wellAt pa).arrive b with
    | .error d => bad 0x50 d
    | .ok x => s.putWell pa x
  | .drop implicit =>
    if implicit && !s.partBit pa me then s
    else match s.wellDrop pa me with
      | .error d => bad 0x50 d
      | .ok s1 => s1

/-- A well operation enters its thread's order: it waits for the accesses that are out now (R177, R192). -/
def State.pushWell (s : State) (i : Issue) (p va : Nat) (g : Target) (k : WellKind) (me : Nat) : State :=
  s.submit { id := 0, by_ := i, part := p, va := va, pa := g.pa, size := 128, cls := g.cls, kslot := g.kslot, op := .well k me,
             acquire := false, release := true, check := none, after := [], born := s.now, status := .waiting, dropped := false, reply := none }

/-! ### The ends and the landings of copies -/

/-- The entry for a fault of a copy (R412). -/
def State.copyRec (s : State) (c : Copy) (kind cause addr : Nat) (status : BitVec 32) : FaultRec :=
  let lau := c.launch.bind s.launchOf
  let by_ := c.origin.map (fun o => o.by_)
  { part := c.part, kind := kind, cause := cause, req := c.unit, thr := (by_.map (fun i => i.thr)).getD 0,
    cls := if by_.isSome then 4 else 15, slot := (by_.map (fun i => i.slot)).getD 0,
    chan := if kind = 1 then c.chan % 16 else 0, addr := BitVec.ofNat 64 addr,
    bundle := (by_.map (fun i => i.bundle)).getD 0, status := status, lwidx := (lau.map (fun x => x.lwidx)).getD 0,
    queue := (lau.map (fun x => x.queue)).getD 0,
    gangid := (((s.ownerGang c.owner).bind s.gangOf).map (fun g => g.s)).getD 0,
    progress := if kind = 1 then c.progress else 0, unit := if kind = 1 then .copy c.id else .none, launch := c.launch }

/-- A fault of a copy: a not-present page of class DEMAND parks it; any other fault stops it and ends its issuer's launch, or
stands in the status word of a copy posted from outside any launch (R414, R457, R458, R492). -/
def State.copyFault (s0 : State) (c : Copy) (cause addr : Nat) (status : BitVec 32) : State :=
  let s := s0.walkedFor c.unit c.part cause addr
  if cause = 0x41 && (s.part c.part).fqbase != 0 then
    { s.updCopy c.id (fun x => { x with parked := true, go := false }) with faults := s.faults ++ [s.copyRec c 1 cause addr status] }
  else
    let s1 := s.updCopy c.id (fun x => { x with stopped := true, ecode := cause })
    if c.launch.isSome then s1.failLaunch (s.copyRec c 3 cause addr status) else s1

/-- Bytes of a copy have landed: the count at its well, applied here for a well of this module (R175, R464). -/
def State.wellCount (s : State) (i k : Nat) : State :=
  match s.copyOf i with
  | none => s
  | some c =>
    match c.well with
    | none => s
    | some g =>
      if k = 0 || !s.isLocal g then s
      else match s.wellLand (localOf g.pa) k with
        | .ok s1 => s1
        | .error d => s.copyFault c 0x50 c.wellVa (detailStatus d)

/-- Bytes of a copy have been acknowledged by their home: its well is told, by a message when it is another module's (R175). -/
def State.tellWell (s : State) (i k : Nat) : State :=
  match s.copyOf i with
  | none => s
  | some c =>
    match c.well with
    | none => s
    | some g =>
      if k = 0 then s
      else s.submit { id := 0, by_ := c.issue, part := c.part, va := c.wellVa, pa := g.pa, size := 8, cls := g.cls, kslot := g.kslot,
                      op := .wellLand k, acquire := false, release := false, check := none, after := [], born := s.now, status := .waiting,
                      dropped := false, reply := none }

end Sys2Proof.Machine
end

