-- ==== Sys2Proof/Machine/CopySync.lean ====
section
/-! DEFINITION. The C class: appends, WAITID, wells and bulk runs (R266 to R276). -/

namespace Sys2Proof.Machine

/-- Appends of a thread in progress (R267). -/
def State.appendsOf (s : State) (u t : Nat) : List Append := s.appends.filter (fun a => a.by_.unit == u && a.by_.thr == t)

/-- An append enters the thread's queue; its valid word waits for the accesses that are out now (R192, R267). -/
def State.pushAppend (s : State) (a : Append) : State :=
  { s.fresh with appends := s.appends ++ [{ a with num := s.nextId, after := s.accessesOut a.by_.unit a.by_.thr }] }

/-- The commit of an append: the destination is empty until the claim returns (R210, R267). -/
def Issuer.appendCommit (c : Issuer) (i : Issue) (p : Nat) (l : Option Nat) (k : AppendKind) (a b : Word) (dst : BitVec 5) : Commit :=
  fun s => (s.updThread c.unit c.thr (fun t => t.emptyX dst)).pushAppend ⟨0, i, p, k, a, b, dst.toNat, [], 0, 0, 0, [], l⟩

/-- CPY (R268). -/
def slotCpy (o : CpyOps) : Slot := fun c s =>
  let th := c.th s
  if 4 ≤ (s.appendsOf c.unit c.thr).length then .error .block
  else match ready th [(o.srcA, o.ta), (o.srcB, o.tb)] [o.dst] with
  | .error e => .error e
  | .ok _ =>
    .ok (c.appendCommit (c.issue s 4) (c.part s) (s.ownerLaunch th.owner) (.cpy o.md.toNat) (th.getX o.srcA) (th.getX o.srcB) o.dst)

/-- Who posted the packet in a ring slot, if a thread of this module did. -/
def Queue.originAt (q : Queue) (slot : Nat) : Option Origin :=
  if listed slot q.origins then some (lookup ⟨⟨0, 0, .none, 0, 0, 0⟩, none, 0, none⟩ slot q.origins) else none

def State.copyQueue (s : State) (n : Nat) : Queue := lookup Queue.reset n s.copyQ
def State.launchQueue (s : State) (n : Nat) : Queue := lookup Queue.reset n s.launchQ
def State.taskQueue (s : State) (n : Nat) : Queue := lookup Queue.reset n s.taskQ

/-- CPYX: the channel's queue must be enabled (R269, R459). -/
def slotCpyx (o : CpyxOps) : Slot := fun c s =>
  let th := c.th s
  if 4 ≤ (s.appendsOf c.unit c.thr).length then .error .block
  else match ready th [(o.srcA, o.ta), (o.srcB, o.tb)] [o.dst] with
  | .error e => .error e
  | .ok _ =>
    if !(s.copyQueue (16 * engineOf c.unit + o.chan.toNat)).en then .error (.readFault 0x59 0 (detailStatus 0))
    else .ok (c.appendCommit (c.issue s 4) (c.part s) (s.ownerLaunch th.owner) (.cpyx o.chan.toNat) (th.getX o.srcA) (th.getX o.srcB) o.dst)

/-- QPOST (R270, R429, R459). -/
def slotQpost (o : RrrPlain) : Slot := fun c s =>
  let th := c.th s
  if 4 ≤ (s.appendsOf c.unit c.thr).length then .error .block
  else match readyUnless th [(o.srcA, o.ta), (o.srcB, o.tb)] [o.dst]
    (if th.fullX o.srcB && 64 ≤ (th.getX o.srcB).toNat then some (.readTrap 0x10 8 c.word) else none) with
  | .error e => .error e
  | .ok _ =>
    let q := (th.getX o.srcB).toNat
    if !(s.launchQueue q).en || (s.launchQueue q).part != c.part s then .error (.readFault 0x59 0 (detailStatus 0))
    else .ok (c.appendCommit (c.issue s 4) (c.part s) (s.ownerLaunch th.owner) (.qpost q) (th.getX o.srcA) (th.getX o.srcB) o.dst)

/-- WAITID: blocks until copy x and every earlier copy of the channel have completed, and the thread's acquires have landed (R173, R192,
R271). -/
def slotWaitid (o : WaitOps) : Slot := fun c s =>
  let th := c.th s
  match ready th [(o.srcA, o.ta)] [] with
  | .error e => .error e
  | .ok _ =>
    let d := (s.copyQueue (16 * engineOf c.unit + o.chan.toNat)).doneid
    let x : BitVec 32 := (th.getX o.srcA).setWidth 32
    if !(s.acquiresOut c.unit c.thr).isEmpty then .error .block
    else if (d - x - 1).toNat < 2 ^ 31 then .ok (fun s => s) else .error .block

/-! ### Wells (R175 to R177, R272, R273, R464) -/

/-- WINIT and WDROP are not for quill tasks, and no well instruction for a task outside any gang: cause 0x51 at check. -/
def wellAllowed (s : State) (c : Issuer) (drops : Bool) : Except Stop Unit :=
  if isQuill c.unit && (drops || (s.ownerGang (c.th s).owner).isNone) then .error (.checkFault 0x51 (detailStatus 0)) else .ok ()

/-- Gang thread index of the issuing thread (R176). -/
def Issuer.me (c : Issuer) (s : State) : Nat := 4 * (s.core c.unit).rank + c.thr

/-- Where the six pieces of 16 bytes of a participation bitmap stand, or the first fault (R176). -/
def Issuer.bitmap (c : Issuer) (s : State) (p : Nat) : Nat → Except Stop (List Nat)
  | 0 => .ok []
  | n + 1 =>
    match c.bitmap s p n, c.scratch s (p + 16 * n) 16 .read with
    | .error e, _ => .error e
    | .ok _, .error e => .error e
    | .ok gs, .ok (_, _, g) => .ok (gs ++ [g.pa])

/-- WINIT (R176, R272): a participation operand of 0 stands for all dispatched threads of the gang. -/
def slotWinit (o : RrrPred) : Slot := fun c s =>
  let th := c.th s
  match wellAllowed s c true with
  | .error e => .error e
  | .ok _ =>
    let n := (th.getX o.srcB).toNat
    let p := (th.getX o.dst).toNat
    match readyUnless th [(o.srcA, o.ta), (o.srcB, o.tb), (o.dst, false)] []
      (if (th.fullX o.srcB && 1024 ≤ n) || p % 16 ≠ 0 then some (.readTrap 0x10 8 c.word) else none) with
    | .error e => .error e
    | .ok _ =>
      let w := (th.getX o.srcA).toNat
      if 768 < n then .error (.readFault 0x50 w (detailStatus 0))
      else match c.scratch s w 128 .write with
        | .error e => .error e
        | .ok (_, _, g) =>
          let push := fun (ps : Option (List Nat)) => fun (s' : State) => s'.pushWell (c.issue s 4) (c.part s) w g (.init n ps) (c.me s)
          if p = 0 then .ok (push none)
          else match c.bitmap s p 6 with
            | .error e => .error e
            | .ok ps => .ok (push (some ps))

/-- WARR (R176, R272). -/
def slotWarr (o : WellTwo) : Slot := fun c s =>
  let th := c.th s
  match wellAllowed s c false with
  | .error e => .error e
  | .ok _ =>
    match ready th [(o.srcA, o.ta), (o.srcB, o.tb)] [] with
    | .error e => .error e
    | .ok _ =>
      let w := (th.getX o.srcA).toNat
      match c.scratch s w 128 .write with
      | .error e => .error e
      | .ok (_, _, g) =>
        .ok (fun s' => s'.pushWell (c.issue s 4) (c.part s) w g (.arrive ((th.getX o.srcB).setWidth 32).toInt) (c.me s))

/-- WDROP (R176, R272). -/
def slotWdrop (o : WellOne) : Slot := fun c s =>
  let th := c.th s
  match wellAllowed s c true with
  | .error e => .error e
  | .ok _ =>
    match ready th [(o.srcA, o.ta)] [] with
    | .error e => .error e
    | .ok _ =>
      let w := (th.getX o.srcA).toNat
      match c.scratch s w 128 .write with
      | .error e => .error e
      | .ok (_, _, g) =>
        .ok (fun s' => s'.pushWell (c.issue s 4) (c.part s) w g (.drop false) (c.me s))

/-- PHASE of the well at a local address (R175). -/
def State.wellPhase (s : State) (pa : Nat) : Bool := bitsOf (leNat (memRead s.mem pa 4)) 31 31 == 1

/-- An access of the thread that comes before its reading of a well's PHASE is still to take its instant: one that touches the phase's
bytes, a well operation among them, or an acquire that has not landed (R192). -/
def State.wellPending (s : State) (u t pa : Nat) : Bool :=
  (s.reqsOf u t).any (fun r => r.acquire || (r.open && (s.spansOf r).any (fun e => decide (e.1 < pa + 4) && decide (pa < e.1 + e.2))))

/-- Whether a WWAIT on a well of another core may go on: its registered wait has been reported (R273). -/
def Thread.wellSeen (th : Thread) (pa : Nat) (ph : Bool) : Bool :=
  match th.wellWait with
  | some (a, b, seen) => a == pa && b == ph && seen
  | none => false

/-- WWAIT: blocks at check while PHASE equals bit 0 of its operand. For a well of another core the wait is registered with its bank
unit, and goes on once that unit has reported a phase that differs (R273). -/
def slotWwait (o : WellTwo) : Slot := fun c s =>
  let th := c.th s
  match wellAllowed s c false with
  | .error e => .error e
  | .ok _ =>
    match ready th [(o.srcA, o.ta), (o.srcB, o.tb)] [] with
    | .error e => .error e
    | .ok _ =>
      match c.scratch s (th.getX o.srcA).toNat 128 .read with
      | .error e => .error e
      | .ok (core, _, g) =>
        let ph := (th.getX o.srcB).getLsbD 0
        if s.wellPending c.unit c.thr g.pa then .error .block
        else if core = c.unit then (if s.wellPhase (localOf g.pa) = ph then .error .block else .ok (fun s => s))
        else if th.wellSeen (localOf g.pa) ph then .ok (c.commit (fun t => { t with wellWait := none }))
        else .error (.wellBlock (localOf g.pa) ph)

/-- WTEST: PHASE when the bank unit answers (R273). -/
def slotWtest (o : WellTest) : Slot := fun c s =>
  let th := c.th s
  match wellAllowed s c false with
  | .error e => .error e
  | .ok _ =>
    match ready th [(o.srcA, o.ta)] [o.dst] with
    | .error e => .error e
    | .ok _ =>
      let w := (th.getX o.srcA).toNat
      match c.scratch s w 128 .read with
      | .error e => .error e
      | .ok (_, _, g) =>
        .ok (fun s' => (s'.updThread c.unit c.thr (fun t => t.emptyX o.dst)).submit
          { c.request s 4 w 4 g (.wtest o.dst.toNat) with acquire := true })

/-! ### Bulk runs (R155, R274 to R276, R460) -/

/-- The run of a channel that a thread holds, or has asked for. -/
def Channel.holds (ch : Channel) (u t run : Nat) : Bool :=
  (match lookup none run ch.runs with | some r => r.unit == u && r.thr == t && r.closing.isNone | none => false) ||
  ch.runQueue.any (fun r => r.unit == u && r.thr == t && r.run == run && r.closing.isNone)

/-- BOPEN: the request joins the channel's queue of requests (R275, R460). -/
def slotBopen (o : BulkOps) : Slot := fun c s =>
  let th := c.th s
  match ready th [(o.srcA, o.ta)] [] with
  | .error e => .error e
  | .ok _ =>
    let va := (th.getX o.srcA).toNat
    match c.xlate s va .read with
    | .error e => .error e
    | .ok g =>
      let pa := localOf g.pa
      if !(s.isLocal g && s.ownHbm (c.part s) pa 1) || !s.hasRun (channelOf pa) o.run.toNat then
        .error (.xlate 0x61 va (detailStatus 2))
      else .ok (fun s' => s'.fresh.updChannel (channelOf pa) (fun ch =>
        { ch with runQueue := ch.runQueue ++ [⟨c.unit, c.thr, o.run.toNat, bankOf pa, lineOf pa, s'.nextId, none⟩], rotation := s'.cc / 320 }))

/-- BCLOSE: the run, or the one still asked for, is freed once the thread's copies that precede it have moved (R276, R460). -/
def slotBclose (o : BulkOps) : Slot := fun c s =>
  let th := c.th s
  match ready th [(o.srcA, o.ta)] [] with
  | .error e => .error e
  | .ok _ =>
    let va := (th.getX o.srcA).toNat
    match c.xlate s va .read with
    | .error e => .error e
    | .ok g =>
      let ch := channelOf (localOf g.pa)
      if !(s.isLocal g && s.ownHbm (c.part s) (localOf g.pa) 1 && (s.channel ch).holds c.unit c.thr o.run.toNat) then
        .error (.xlate 0x61 va (detailStatus 3))
      else .ok (fun s' => s'.fresh.updChannel ch (fun k =>
        { k with runs := adjust none o.run.toNat (fun r => r.map (fun b =>
                   if b.unit = c.unit && b.thr = c.thr then { b with closing := some (b.closing.getD s'.nextId) } else b)) k.runs,
                 runQueue := k.runQueue.map (fun r => if r.unit = c.unit && r.thr = c.thr && r.run = o.run.toNat then
                   { r with closing := some (r.closing.getD s'.nextId) } else r),
                 rotation := s'.cc / 320 }))

/-! ### Each instruction as a bundle of its own -/
/-- CPY alone in its bundle. -/
def execCpy (o : CpyOps) (s : State) : Result := .next (s.issueOne (.cpy o) (slotCpy o))
/-- CPYX alone in its bundle. -/
def execCpyx (o : CpyxOps) (s : State) : Result := .next (s.issueOne (.cpyx o) (slotCpyx o))
/-- WAITID alone in its bundle. -/
def execWaitid (o : WaitOps) (s : State) : Result := .next (s.issueOne (.waitid o) (slotWaitid o))
/-- WINIT alone in its bundle. -/
def execWinit (o : RrrPred) (s : State) : Result := .next (s.issueOne (.winit o) (slotWinit o))
/-- WARR alone in its bundle. -/
def execWarr (o : WellTwo) (s : State) : Result := .next (s.issueOne (.warr o) (slotWarr o))
/-- WDROP alone in its bundle. -/
def execWdrop (o : WellOne) (s : State) : Result := .next (s.issueOne (.wdrop o) (slotWdrop o))
/-- WWAIT alone in its bundle. -/
def execWwait (o : WellTwo) (s : State) : Result := .next (s.issueOne (.wwait o) (slotWwait o))
/-- WTEST alone in its bundle. -/
def execWtest (o : WellTest) (s : State) : Result := .next (s.issueOne (.wtest o) (slotWtest o))
/-- QPOST alone in its bundle. -/
def execQpost (o : RrrPlain) (s : State) : Result := .next (s.issueOne (.qpost o) (slotQpost o))
/-- BOPEN alone in its bundle. -/
def execBopen (o : BulkOps) (s : State) : Result := .next (s.issueOne (.bopen o) (slotBopen o))
/-- BCLOSE alone in its bundle. -/
def execBclose (o : BulkOps) (s : State) : Result := .next (s.issueOne (.bclose o) (slotBclose o))

end Sys2Proof.Machine
end

