-- ==== Sys2Proof/Machine/Appends.lean ====
section
/-! DEFINITION. The append agent of CPY, CPYX and QPOST (R68, R163, R266 to R270, R459). -/

namespace Sys2Proof.Machine

/-- The queue an append goes to: its kind (0 copy, 1 launch), number, packets in its ring and the packet's TYPE. -/
def Append.target (a : Append) : Bool × Nat :=
  match a.kind with
  | .cpy _ => (false, 16 * engineOf a.by_.unit + fieldAt a.img 0 1 % 16)
  | .cpyx ch => (false, 16 * engineOf a.by_.unit + ch)
  | .qpost q => (true, q)

def Append.queue (s : State) (a : Append) : Queue :=
  if a.target.1 then s.launchQueue a.target.2 else s.copyQueue a.target.2

def Append.ringSize (a : Append) : Nat := if a.target.1 then 4096 else 1024
def Append.typeCode (a : Append) : Nat := if a.target.1 then 1 else 2

/-- The packet that CPY builds from its image (R268), or CPYX from its operands (R269). -/
def Append.packet (a : Append) (img : List Byte) : List Byte :=
  match a.kind with
  | .cpy add =>
    let src := BitVec.ofNat 64 (fieldAt img 8 8) + (if add % 2 = 1 then a.b else 0)
    let dst := BitVec.ofNat 64 (fieldAt img 16 8) + (if 2 ≤ add then a.b else 0)
    img.take 8 ++ leBytes 8 src.toNat ++ leBytes 8 dst.toNat ++ bytesAt img 24 40
  | .cpyx _ => leBytes 4 0 ++ leBytes 4 0x800 ++ leBytes 8 a.a.toNat ++ leBytes 8 a.b.toNat ++ leBytes 40 0
  | .qpost _ => img

/-- The agent's reads and writes, apart from those of the thread itself. -/
def Append.issue (a : Append) : Issue := { a.by_ with thr := 4 + a.by_.thr }

/-- Bytes of the image are still to be written by the thread's earlier stores, or an earlier acquire has not landed (R192,
R267). -/
def State.imageBusy (s : State) (a : Append) : Bool :=
  match s.translate a.part a.by_.unit a.a.toNat .read with
  | .error _ => false
  | .ok g => s.reqs.any (fun q => a.after.contains q.id &&
      (q.acquire || (q.op.isWrite && q.open && (s.spansOf q).any (fun e => decide (e.1 < g.pa + 64) && decide (g.pa < e.1 + e.2)))))

/-- An append that fails claims no slot, or leaves its slot unposted; its launch ends (R452, R459). -/
def State.appendFails (s : State) (j : Nat) (a : Append) (cause addr : Nat) (status : BitVec 32) : State :=
  ({ s.walkedFor a.by_.unit a.part cause addr with appends := s.appends.eraseIdx j }).fail a.by_ cause addr status

def State.setAppend (s : State) (j : Nat) (a : Append) : State := { s with appends := s.appends.set j a }

/-- The image of a CPY names a channel that is enabled, and its reserved bits are 0 (R266, R459). -/
def imageFault (s : State) (a : Append) : Option Nat :=
  match a.kind with
  | .cpy _ => if fieldAt a.img 0 4 / 16 ≠ 0 then some 0x58 else if !(a.queue s).en then some 0x59 else none
  | _ => none

/-- The agent's AMO.ADD of 1 on the queue's write index (R267). -/
def State.claimReq (s : State) (a : Append) (g : Target) : Req :=
  lineReq s a.issue a.part (a.queue s).widx.toNat 4 g (.amo .add 1 0 a.dst)

/-- The claim (R267): AMO.ADD on WIDX with the issuer's key; the old value goes to dst, which becomes full. -/
def State.claim (s : State) (j : Nat) (a : Append) : State :=
  let va := (a.queue s).widx.toNat
  match s.translate a.part a.by_.unit va .atomic with
  | .error e => s.appendFails j a e.cause va e.status
  | .ok g =>
    match s.answered a.issue g with
    | none =>
      if s.issuing a.issue then s
      else (s.submit (s.claimReq a g)).setAppend j a
    | some m =>
      if m.cause ≠ 0 then s.appendFails j a m.cause va m.status
      else
        let wi : BitVec 32 := BitVec.ofNat 32 (leNat m.bytes)
        let mine := (s.thread a.by_.unit a.by_.thr).owner = a.by_.owner
        let s3 := s.updThread a.by_.unit a.by_.thr (fun th => if mine then th.setX (BitVec.ofNat 5 a.dst) (wi.setWidth 64) else th)
        let slot := (a.queue s).ring.toNat + 64 * (wi.toNat % a.ringSize)
        (s3.clearInbox a.issue).setAppend j { a with stage := 2, wi := wi, slotVa := slot }

/-- Stage 0: the image is read and checked (R266, R267). -/
def State.appendImage (s : State) (j : Nat) (a : Append) : State :=
  let ready := fun (s1 : State) (img : List Byte) =>
    let b := { a with img := a.packet img }
    match imageFault s1 b with
    | some c => s1.appendFails j a c (if c = 0x59 then 0 else a.a.toNat) (detailStatus 0)
    | none => s1.setAppend j { b with stage := 1 }
  match a.kind with
  | .cpyx _ => ready s []
  | _ =>
    if s.imageBusy a then s
    else if a.a.toNat % 64 ≠ 0 then s.appendFails j a 0x47 a.a.toNat 0
    else match s.readVa a.issue a.part a.a.toNat 64 with
      | .fault c x w => s.appendFails j a c x w
      | .wait s1 => s1
      | .ok s1 bs poison => if poison then s.appendFails j a 0x4C a.a.toNat 0 else ready (s1.clearInbox a.issue) bs

/-- Stage 2: once the ring has room, bytes 4..63 of the slot. -/
def State.appendFill (s : State) (j : Nat) (a : Append) : State :=
  if (a.wi - (a.queue s).ridx).toNat < a.ringSize then
    match s.writeVa a.issue a.part (a.slotVa + 4) (bytesAt a.img 4 60) with
    | .error (c, x, w) => s.appendFails j a c x w
    | .ok s1 => s1.setAppend j { a with stage := 3 }
  else s

/-- Who posted the packet of a claim index, for its reader (R163). -/
def State.noteOrigin (s : State) (a : Append) : State :=
  let o : Origin := ⟨a.by_, a.launch, a.num, if bitsOf (fieldAt a.img 4 4) 15 15 = 1 then some (bitsOf (fieldAt a.img 4 4) 14 12) else some 8⟩
  if a.target.1 then s
  else { s with copyQ := adjust Queue.reset a.target.2 (fun q => { q with origins := insertAt (a.wi.toNat % 1024) o q.origins }) s.copyQ }

/-- Stage 3: the valid word, a release of the writes that were out when the instruction issued, and of the packet's bytes (R267). -/
def State.appendPost (s : State) (j : Nat) (a : Append) : State :=
  if s.finished a.after && !s.issuing a.issue then
    match s.writeVa a.issue a.part a.slotVa (leBytes 4 (a.wi.toNat / a.ringSize % 65536 * 65536 + a.typeCode * 256)) with
    | .error (c, x, w) => s.appendFails j a c x w
    | .ok s1 => (s1.setAppend j { a with stage := 4 }).noteOrigin a
  else s

/-- Stage 4: the valid word has been acknowledged, and the append is over. -/
def State.appendEnd (s : State) (j : Nat) (a : Append) : State :=
  if s.issuing a.issue then s else { s with appends := s.appends.eraseIdx j }

/-- A write of the agent has failed at its home: the append's launch ends (R452, R459). -/
def State.agentFault (s : State) (a : Append) : Option Inbox :=
  if 2 ≤ a.stage then s.inbox.find? (fun m => m.unit == a.issue.unit && m.thr == a.issue.thr && m.cause != 0) else none

/-- APPEND: the thread's oldest append takes its next stage (R267). One append follows another: a later one of the thread claims once the
earlier one's valid word has been acknowledged (DESIGN CHOICE, assumption 113). -/
def State.appendStep (s : State) (u t : Nat) : State :=
  match s.appends.findIdx? (fun a => a.by_.unit == u && a.by_.thr == t) with
  | none => s
  | some j =>
    match s.appends[j]? with
    | none => s
    | some a =>
      match s.agentFault a with
      | some m => (s.clearInbox a.issue).appendFails j a m.cause a.slotVa m.status
      | none => match a.stage with
        | 0 => s.appendImage j a
        | 1 => s.claim j a
        | 2 => s.appendFill j a
        | 3 => s.appendPost j a
        | _ => s.appendEnd j a

/-- APPEND. -/
def execAppend (u : Fin 224) (t : Fin 4) (s : State) : Result := .next ((s.appendStep u t).unblock)

end Sys2Proof.Machine
end

