-- ==== Sys2Proof/Machine/Float.lean ====
section
/-! DEFINITION. The F class: scalar FP32 (R244 to R247). -/

namespace Sys2Proof.Machine

/-- The first source register that holds a verdict word traps at read (R244, R434). -/
def verdictTrap (rs : List (BitVec 5 × Nat)) : Except Stop Unit :=
  match rs.find? (fun r => (fp32.verdict r.2).isSome) with
  | some r => .error (.readTrap 0x15 r.1.toNat 0)
  | none => .ok ()

/-- The FP32 code of an x register: its bits [31:0] (R244). -/
def fpSource (v : Word) : Nat := (v.setWidth 32).toNat

/-- An F result: written zero-extended, with its flags (R244). -/
def Issuer.fpResult (c : Issuer) (d : BitVec 5) (r : Rounded) : Commit := fun s =>
  c.raise 1 r.2 (c.writeX d (BitVec.ofNat 64 r.1) s)

/-- A two-operand F instruction (R244, R245). -/
def slotFp (dst srcA srcB : BitVec 5) (ta tb : Bool) (f : Nat → Nat → Rounded) : Slot := fun c s =>
  let th := c.th s
  match ready th [(srcA, ta), (srcB, tb)] [dst] with
  | .error e => .error e
  | .ok _ =>
    let a := fpSource (th.getX srcA)
    let b := fpSource (th.getX srcB)
    match verdictTrap [(srcA, a), (srcB, b)] with
    | .error e => .error e
    | .ok _ => .ok (c.fpResult dst (f a b))

/-- FADD (R245). -/
def slotFadd (o : RrrRound) : Slot := slotFp o.dst o.srcA o.srcB o.ta o.tb (fpAdd fp32 o.rnd.toNat 0)
/-- FSUB. -/
def slotFsub (o : RrrRound) : Slot := slotFp o.dst o.srcA o.srcB o.ta o.tb (fpSub fp32 o.rnd.toNat 0)
/-- FMUL. -/
def slotFmul (o : RrrRound) : Slot := slotFp o.dst o.srcA o.srcB o.ta o.tb (fpMul fp32 o.rnd.toNat 0)
/-- FMIN. -/
def slotFmin (o : RrrPlain) : Slot := slotFp o.dst o.srcA o.srcB o.ta o.tb (fpMinMax fp32 false)
/-- FMAX. -/
def slotFmax (o : RrrPlain) : Slot := slotFp o.dst o.srcA o.srcB o.ta o.tb (fpMinMax fp32 true)

/-- FMA: the destination is also the addend, read as T = 0 (R211, R245). -/
def slotFma (o : RrrRound) : Slot := fun c s =>
  let th := c.th s
  match ready th [(o.srcA, o.ta), (o.srcB, o.tb), (o.dst, false)] [o.dst] with
  | .error e => .error e
  | .ok _ =>
    let a := fpSource (th.getX o.srcA)
    let b := fpSource (th.getX o.srcB)
    let d := fpSource (th.getX o.dst)
    match verdictTrap [(o.srcA, a), (o.srcB, b), (o.dst, d)] with
    | .error e => .error e
    | .ok _ => .ok (c.fpResult o.dst (fpFma fp32 o.rnd.toNat 0 a b d))

/-- FCMP (R246). -/
def slotFcmp (o : RrrCond) : Slot := fun c s =>
  let th := c.th s
  match ready th [(o.srcA, o.ta), (o.srcB, o.tb)] [] with
  | .error e => .error e
  | .ok _ =>
    let a := fpSource (th.getX o.srcA)
    let b := fpSource (th.getX o.srcB)
    match verdictTrap [(o.srcA, a), (o.srcB, b)] with
    | .error e => .error e
    | .ok _ =>
      let r := fpCompare fp32 o.cond.toNat a b
      .ok (fun s => c.raise 1 r.2 (c.commit (fun t => t.setP o.dst r.1) s))

/-- Where FCVT places a result: integers sign-extended, the others zero-extended (R247). -/
def fcvtPlace (fmt : BitVec 4) (v : Nat) : Word :=
  if fmt = fmtINT8 then (BitVec.ofNat 8 v).signExtend 64
  else if fmt = fmtINT32 then (BitVec.ofNat 32 v).signExtend 64 else BitVec.ofNat 64 v

/-- A verdict word of a format, given to a conversion to a format without them (R40). -/
def verdictMisuse (src dst : BitVec 4) (v : Nat) : Bool :=
  match floatFmt src with
  | some F => (F.verdict v).isSome && !(dst == fmtFP32 || dst == fmtBF16 || dst == fmtFP16)
  | none => false

/-- FCVT (R247): the source code in its low bits; a verdict word to a format without them traps (R40, R434). -/
def slotFcvt (o : RrRound) (xs : List XPay) : Slot := fun c s =>
  let th := c.th s
  match ready th [(o.srcA, o.ta)] [o.dst] with
  | .error e => .error e
  | .ok _ =>
    let x := xs.headD 0
    let src := fcvtSrc x
    let dst := fcvtDst x
    let v := (th.getX o.srcA).toNat % 2 ^ fmtWidth src
    if verdictMisuse src dst v then .error (.readTrap 0x15 o.srcA.toNat 0)
    else
      let r := convertElem src dst o.rnd.toNat 0 0 v
      .ok (fun s => c.raise 1 r.2 (c.writeX o.dst (fcvtPlace dst r.1) s))

/-! ### Each instruction as a bundle of its own -/
/-- FADD alone in its bundle. -/
def execFadd (o : RrrRound) (s : State) : Result := .next (s.issueOne (.fadd o) (slotFadd o))
/-- FSUB alone in its bundle. -/
def execFsub (o : RrrRound) (s : State) : Result := .next (s.issueOne (.fsub o) (slotFsub o))
/-- FMUL alone in its bundle. -/
def execFmul (o : RrrRound) (s : State) : Result := .next (s.issueOne (.fmul o) (slotFmul o))
/-- FMA alone in its bundle. -/
def execFma (o : RrrRound) (s : State) : Result := .next (s.issueOne (.fma o) (slotFma o))
/-- FMIN alone in its bundle. -/
def execFmin (o : RrrPlain) (s : State) : Result := .next (s.issueOne (.fmin o) (slotFmin o))
/-- FMAX alone in its bundle. -/
def execFmax (o : RrrPlain) (s : State) : Result := .next (s.issueOne (.fmax o) (slotFmax o))
/-- FCMP alone in its bundle. -/
def execFcmp (o : RrrCond) (s : State) : Result := .next (s.issueOne (.fcmp o) (slotFcmp o))
/-- FCVT alone in its bundle. -/
def execFcvt (o : RrRound) (xs : List XPay) (s : State) : Result := .next (s.issueOne (.fcvt o xs) (slotFcvt o xs))

end Sys2Proof.Machine
end

