-- ==== Sys2Proof/Machine/Atomics.lean ====
section
/-! DEFINITION. The atomics (R257, R258): what an atomic does to the old value at its home, and the AMO slots. -/

namespace Sys2Proof.Machine

/-- The new value of an atomic on n bytes, with the flags of the FP32 forms; none where the old value is a verdict word that
FADD or FMAX may not read (R257, R258, R434). -/
def amoNew (k : AmoKind) (n : Nat) (old s cmp : Nat) : Option (Nat × BitVec 8) :=
  let w := 8 * n
  match k with
  | .add => some ((old + s) % 2 ^ w, 0)
  | .and => some (old &&& s, 0)
  | .or => some (old ||| s, 0)
  | .xor => some (old ^^^ s, 0)
  | .min => some (if signExt w s < signExt w old then s else old, 0)
  | .max => some (if signExt w old < signExt w s then s else old, 0)
  | .minu => some (if s < old then s else old, 0)
  | .maxu => some (if old < s then s else old, 0)
  | .swp => some (s, 0)
  | .cas => some (if old = cmp then s else old, 0)
  | .fadd => if (fp32.verdict old).isSome then none else some (fpAdd fp32 rndRNE 0 old s)
  | .fmax => if (fp32.verdict old).isSome then none else some (fpMinMax fp32 true old s)

/-- The data of FADD and FMAX may not be a verdict word (R434). -/
def amoDataOk (k : AmoKind) (v : Nat) : Bool :=
  match k with
  | .fadd | .fmax => (fp32.verdict v).isNone
  | _ => true

/-- An atomic of n bytes (R257): acquire and release at its scope, relaxed when THREAD (R187). CAS also reads its destination,
waiting for it as T = 0 does (R212). -/
def slotAmo (o : AmoOps) (k : AmoKind) (n : Nat) : Slot := fun c s =>
  let th := c.th s
  match ready th ([(o.base, o.tb), (o.data, o.td)] ++ (if k = .cas then [(o.dst, false)] else [])) [o.dst] with
  | .error e => .error e
  | .ok _ =>
    let ea := (th.getX o.base).toNat
    let v := (th.getX o.data).toNat % 2 ^ (8 * n)
    let cmp := (th.getX o.dst).toNat % 2 ^ (8 * n)
    if !amoDataOk k v then .error (.readTrap 0x15 o.data.toNat 0)
    else match c.address s ea n .atomic with
      | .error e => .error e
      | .ok g =>
        let r := c.request s 2 ea n g (.amo k (BitVec.ofNat 64 v) (BitVec.ofNat 64 cmp) o.dst.toNat)
        let sync := o.scope != 0
        .ok (fun s' => (s'.updThread c.unit c.thr (fun t => t.emptyX o.dst)).submit
          { r with acquire := sync, release := sync, check := s'.checkScope c.unit c.thr g (some o.scope.toNat) false })

/-- AMO.ADD (R257). -/
def slotAmoAdd (o : AmoOps) : Slot := slotAmo o .add 4
/-- AMO.AND (R257). -/
def slotAmoAnd (o : AmoOps) : Slot := slotAmo o .and 4
/-- AMO.OR (R257). -/
def slotAmoOr (o : AmoOps) : Slot := slotAmo o .or 4
/-- AMO.XOR (R257). -/
def slotAmoXor (o : AmoOps) : Slot := slotAmo o .xor 4
/-- AMO.MIN (R257). -/
def slotAmoMin (o : AmoOps) : Slot := slotAmo o .min 4
/-- AMO.MAX (R257). -/
def slotAmoMax (o : AmoOps) : Slot := slotAmo o .max 4
/-- AMO.MINU (R257). -/
def slotAmoMinu (o : AmoOps) : Slot := slotAmo o .minu 4
/-- AMO.MAXU (R257). -/
def slotAmoMaxu (o : AmoOps) : Slot := slotAmo o .maxu 4
/-- AMO.SWP (R257). -/
def slotAmoSwp (o : AmoOps) : Slot := slotAmo o .swp 4
/-- AMO.CAS (R257). -/
def slotAmoCas (o : AmoOps) : Slot := slotAmo o .cas 4
/-- AMO.FADD (R257). -/
def slotAmoFadd (o : AmoOps) : Slot := slotAmo o .fadd 4
/-- AMO.FMAX (R257). -/
def slotAmoFmax (o : AmoOps) : Slot := slotAmo o .fmax 4
/-- AMO.ADD.D (R257). -/
def slotAmoAddD (o : AmoOps) : Slot := slotAmo o .add 8
/-- AMO.AND.D (R257). -/
def slotAmoAndD (o : AmoOps) : Slot := slotAmo o .and 8
/-- AMO.OR.D (R257). -/
def slotAmoOrD (o : AmoOps) : Slot := slotAmo o .or 8
/-- AMO.XOR.D (R257). -/
def slotAmoXorD (o : AmoOps) : Slot := slotAmo o .xor 8
/-- AMO.MIN.D (R257). -/
def slotAmoMinD (o : AmoOps) : Slot := slotAmo o .min 8
/-- AMO.MAX.D (R257). -/
def slotAmoMaxD (o : AmoOps) : Slot := slotAmo o .max 8
/-- AMO.MINU.D (R257). -/
def slotAmoMinuD (o : AmoOps) : Slot := slotAmo o .minu 8
/-- AMO.MAXU.D (R257). -/
def slotAmoMaxuD (o : AmoOps) : Slot := slotAmo o .maxu 8
/-- AMO.SWP.D (R257). -/
def slotAmoSwpD (o : AmoOps) : Slot := slotAmo o .swp 8
/-- AMO.CAS.D (R257). -/
def slotAmoCasD (o : AmoOps) : Slot := slotAmo o .cas 8

/-! ### Each instruction as a bundle of its own -/
/-- AMO_ADD alone in its bundle. -/
def execAmoAdd (o : AmoOps) (s : State) : Result := .next (s.issueOne (.amoAdd o) (slotAmoAdd o))
/-- AMO_AND alone in its bundle. -/
def execAmoAnd (o : AmoOps) (s : State) : Result := .next (s.issueOne (.amoAnd o) (slotAmoAnd o))
/-- AMO_OR alone in its bundle. -/
def execAmoOr (o : AmoOps) (s : State) : Result := .next (s.issueOne (.amoOr o) (slotAmoOr o))
/-- AMO_XOR alone in its bundle. -/
def execAmoXor (o : AmoOps) (s : State) : Result := .next (s.issueOne (.amoXor o) (slotAmoXor o))
/-- AMO_MIN alone in its bundle. -/
def execAmoMin (o : AmoOps) (s : State) : Result := .next (s.issueOne (.amoMin o) (slotAmoMin o))
/-- AMO_MAX alone in its bundle. -/
def execAmoMax (o : AmoOps) (s : State) : Result := .next (s.issueOne (.amoMax o) (slotAmoMax o))
/-- AMO_MINU alone in its bundle. -/
def execAmoMinu (o : AmoOps) (s : State) : Result := .next (s.issueOne (.amoMinu o) (slotAmoMinu o))
/-- AMO_MAXU alone in its bundle. -/
def execAmoMaxu (o : AmoOps) (s : State) : Result := .next (s.issueOne (.amoMaxu o) (slotAmoMaxu o))
/-- AMO_SWP alone in its bundle. -/
def execAmoSwp (o : AmoOps) (s : State) : Result := .next (s.issueOne (.amoSwp o) (slotAmoSwp o))
/-- AMO_CAS alone in its bundle. -/
def execAmoCas (o : AmoOps) (s : State) : Result := .next (s.issueOne (.amoCas o) (slotAmoCas o))
/-- AMO_FADD alone in its bundle. -/
def execAmoFadd (o : AmoOps) (s : State) : Result := .next (s.issueOne (.amoFadd o) (slotAmoFadd o))
/-- AMO_FMAX alone in its bundle. -/
def execAmoFmax (o : AmoOps) (s : State) : Result := .next (s.issueOne (.amoFmax o) (slotAmoFmax o))
/-- AMO_ADD_D alone in its bundle. -/
def execAmoAddD (o : AmoOps) (s : State) : Result := .next (s.issueOne (.amoAddD o) (slotAmoAddD o))
/-- AMO_AND_D alone in its bundle. -/
def execAmoAndD (o : AmoOps) (s : State) : Result := .next (s.issueOne (.amoAndD o) (slotAmoAndD o))
/-- AMO_OR_D alone in its bundle. -/
def execAmoOrD (o : AmoOps) (s : State) : Result := .next (s.issueOne (.amoOrD o) (slotAmoOrD o))
/-- AMO_XOR_D alone in its bundle. -/
def execAmoXorD (o : AmoOps) (s : State) : Result := .next (s.issueOne (.amoXorD o) (slotAmoXorD o))
/-- AMO_MIN_D alone in its bundle. -/
def execAmoMinD (o : AmoOps) (s : State) : Result := .next (s.issueOne (.amoMinD o) (slotAmoMinD o))
/-- AMO_MAX_D alone in its bundle. -/
def execAmoMaxD (o : AmoOps) (s : State) : Result := .next (s.issueOne (.amoMaxD o) (slotAmoMaxD o))
/-- AMO_MINU_D alone in its bundle. -/
def execAmoMinuD (o : AmoOps) (s : State) : Result := .next (s.issueOne (.amoMinuD o) (slotAmoMinuD o))
/-- AMO_MAXU_D alone in its bundle. -/
def execAmoMaxuD (o : AmoOps) (s : State) : Result := .next (s.issueOne (.amoMaxuD o) (slotAmoMaxuD o))
/-- AMO_SWP_D alone in its bundle. -/
def execAmoSwpD (o : AmoOps) (s : State) : Result := .next (s.issueOne (.amoSwpD o) (slotAmoSwpD o))
/-- AMO_CAS_D alone in its bundle. -/
def execAmoCasD (o : AmoOps) (s : State) : Result := .next (s.issueOne (.amoCasD o) (slotAmoCasD o))

end Sys2Proof.Machine
end

