-- ==== Sys2Proof/Machine/Witness.lean ====
section
/-! DEFINITION. Witness lines of recorded and replayed launches (R398 to R401, R489, R490). -/

namespace Sys2Proof.Machine

/-- Offsets of the flit and witness regions of a copybook (R400). -/
def Copybook.flitBase (c : Copybook) : Nat := c.base + 2048 + 208 * c.maxiter
def Copybook.accessBase (c : Copybook) : Nat := c.flitBase + 272 * c.maxflit

/-- The witness line number of a local line. -/
def Copybook.lineNo (c : Copybook) (line : Nat) : Option Nat := (c.wlines.map (fun w => w.2)).idxOf? line

/-- Copybooks of launches that have begun, recorded or replayed, that watch a line. -/
def State.watching (s : State) (line : Nat) : List Copybook :=
  s.copybooks.filter (fun c => c.launch.isSome && (c.lineNo line).isSome)

/-- A copybook replaced by the command that made it. -/
def State.updCopybook (s : State) (c : Copybook) (f : Copybook → Copybook) : State :=
  { s with copybooks := s.copybooks.map (fun k => if k.command = c.command then f k else k) }

/-- Bytes of a record of a copybook, on their way to memory. -/
def State.putBook (s : State) (c : Copybook) (at_ : Nat) (bs : List Byte) : State := s.post (bookIssue c.part) c.part at_ bs

/-- The thread of a request: that of its agent or its edge unit, and 0 for what is no thread's (R140, R412). -/
def Req.thread (r : Req) : Nat := if r.by_.unit < 224 then r.by_.thr % 4 else 0

/-- A region of a recording is full: OVF is set in the copybook's header (R400, R489). -/
def State.overflowBook (s : State) (c : Copybook) : State :=
  if c.ovf then s else (s.putBook c (c.base + 64) (leBytes 4 2)).updCopybook c (fun k => { k with ovf := true })

/-- The record of a store or atomic at a witness line, after it has taken its instant (R398, R400, R489). -/
def State.recordAccess (s : State) (c : Copybook) (unit thr line : Nat) : State :=
  let n := lookup 0 (accessKey unit thr) c.counts + 1
  let s1 :=
    if c.nwacc < c.maxwacc then
      s.putBook c (c.accessBase + 16 * c.nwacc)
        (leBytes 1 ((c.lineNo line).getD 0) ++ leBytes 2 unit ++ leBytes 1 thr ++ leBytes 4 n ++
          leBytes 4 (s.lineMeta line).tag.toNat ++ leBytes 4 0)
    else s.overflowBook c
  s1.updCopybook c (fun k =>
    { k with counts := insertAt (accessKey unit thr) n k.counts,
             nwacc := if c.nwacc < c.maxwacc then k.nwacc + 1 else k.nwacc })

/-- The recorded accesses that the witness region of a copybook holds: line number, requester, thread (R400). -/
def recordedAccesses (bs : List Byte) (n : Nat) : List (Nat × Nat × Nat) :=
  (List.range n).map (fun i => (fieldAt bs (16 * i) 1 % 64, fieldAt bs (16 * i + 1) 2 % 512, fieldAt bs (16 * i + 3) 1 % 4))

/-- What a replay says of an access that reaches a witness line. -/
inductive WitnessTurn where
  | go
  | hold
  | diverge (detail : Nat)
  deriving DecidableEq, Repr

/-- The turn of an access of a requester's thread at a line of a replayed launch (R401, R490). -/
def Copybook.witnessTurn (c : Copybook) (unit thr line : Nat) : WitnessTurn :=
  if c.diverged then .go
  else
    let rs := c.accesses
    let w := (c.lineNo line).getD 0
    let mine := (rs.filter (fun r => r.2.1 == unit && r.2.2 == thr)).length
    if mine = 0 then .diverge 0
    else if mine ≤ lookup 0 (accessKey unit thr) c.counts then .diverge 1
    else match (rs.filter (fun r => r.1 == w))[lookup 0 w c.lineDone]? with
      | some r => if r.2.1 = unit && r.2.2 = thr then .go else .hold
      | none => .hold

/-- A replayed launch diverges: it ends with cause 0x89, and REPLAY completes with that code (R490). -/
def State.diverge (s : State) (c : Copybook) (detail va : Nat) : State :=
  let l := c.launch.bind s.launchOf
  let r : FaultRec :=
    { part := c.part, kind := 3, cause := 0x89, req := 258 + c.part, thr := 0, cls := 15, slot := 0, chan := 0,
      addr := BitVec.ofNat 64 va, bundle := 0, status := detailStatus detail, lwidx := (l.map (fun x => x.lwidx)).getD 0,
      queue := c.queue, gangid := 0, progress := 0, unit := .none, launch := c.launch }
  ((s.failLaunch r).updCopybook c (fun k => { k with diverged := true, held := [] })).finishCommand c.command 0x89

/-- The replay position after an access has applied. -/
def Copybook.passed (c : Copybook) (unit thr line : Nat) : Copybook :=
  let w := (c.lineNo line).getD 0
  { c with counts := adjust 0 (accessKey unit thr) (fun n => n + 1) c.counts,
           lineDone := adjust 0 w (fun n => n + 1) c.lineDone, held := eraseAt w c.held }

/-- Whether a store or atomic may apply at a line now (R401). -/
def State.witnessFree (s : State) (unit thr line : Nat) : Bool :=
  (s.watching line).all (fun c => !c.replay || decide (c.witnessTurn unit thr line = .go))

/-- A store or atomic waits at a line of a replayed launch: the launch diverges, or the wait is noted (R490). -/
def State.witnessWait (s : State) (unit thr line : Nat) : State :=
  ((s.watching line).filter (fun c => c.replay)).foldl (fun s c =>
    let va := (((c.wlines.find? (fun w => w.2 == line)).map (fun w => w.1)).getD 0)
    match c.witnessTurn unit thr line with
    | .go => s
    | .hold => s.updCopybook c (fun k =>
        let n := (k.lineNo line).getD 0
        { k with held := if listed n k.held then k.held else insertAt n (s.cc, va) k.held })
    | .diverge d => s.diverge c d va) s

/-- A store or atomic is held at its home: it waits for accesses recorded before it, and its wait is noted. Others may be served (R401). -/
def State.witnessHeld (s : State) (unit thr line : Nat) : Bool :=
  (s.watching line).any (fun c => c.replay && decide (c.witnessTurn unit thr line = .hold) && listed ((c.lineNo line).getD 0) c.held)

/-- A store or atomic has applied at a line. -/
def State.witnessDone (s : State) (unit thr line : Nat) : State :=
  (s.watching line).foldl (fun s c =>
    if c.replay then s.updCopybook c (fun k => if k.diverged then k else k.passed unit thr line)
    else s.recordAccess c unit thr line) s

/-- Of the witness lines at which an access is held, the one that has been held at longest: since when, and its address. -/
def Copybook.firstHeld (c : Copybook) : Option (Nat × Nat) :=
  c.held.foldl (fun m e => match m with | none => some e.2 | some h => if e.2.1 < h.1 then some e.2 else some h) none

/-- REPLAY_TIMEOUT: an access held 2^26 controller cycles (R490). -/
def State.replayTimeout (s : State) (p : Nat) : State :=
  match s.copybooks.find? (fun c => c.part == p && c.replay && !c.diverged && c.firstHeld.isSome) with
  | none => s
  | some c =>
    let h := c.firstHeld.getD (0, 0)
    (s.ccTo (h.1 + 2 ^ 26)).diverge c 2 h.2

end Sys2Proof.Machine
end

