-- ==== Sys2Proof/Machine/Homes.lean ====
section
/-! DEFINITION. What a request does at its home: global lines in their calendar slot (R145, R152, R188 to R190, R201), scratchpads
at their bank unit (R133, R138, R140, R249). -/

namespace Sys2Proof.Machine

/-! ### The scope checker (R201, R465, R466) -/

/-- The threads of a gang have stopped (R201, R417). -/
def State.threadsGone (s : State) (g : Gang) : Bool :=
  g.cores.all (fun n => (List.range 4).all (fun t => decide ((s.thread n t).owner ≠ .gang g.id)))

/-- A gang has ended, or a task outside any gang: its threads have ended, or its launch has and its threads have stopped (R201). -/
def State.ownerEnded (s : State) (o : Owner) : Bool :=
  match o with
  | .none => true
  | .gang g => match s.gangOf g with
    | some k => k.ending || (s.launchFailed (some k.launch) && s.threadsGone k)
    | none => true
  | .task t => (s.taskOf t).all (fun k => k.done.isSome)

/-- A gang or task of another module, of which a record here tells no more than its number, has ended by a time that this module does not see
(a free value; DESIGN CHOICE, assumption 32). -/
def State.awayEnded (s : State) (q : ScopeRec) : Bool :=
  decide (Config.gangEndsAt q.modl (match q.owner with | .none => 0 | .gang g => g + 1 | .task t => t + 1) ≤ s.now)

/-- Whether party q lies inside party p's instance of a scope (R186); modules of equal NODE form a node (R384). -/
def insideScope (scope : Nat) (p q : ScopeRec) : Bool :=
  let sameModule := p.modl == q.modl
  if scope = 0 then sameModule && p.unit == q.unit && p.thr == q.thr
  else if scope = 1 then sameModule && p.unit == q.unit
  else if scope = 2 then sameModule && decide (p.owner = q.owner)
  else if scope = 3 then sameModule && dieOfBlock (blockOfUnit p.unit) == dieOfBlock (blockOfUnit q.unit)
  else if scope = 4 then sameModule
  else if scope = 5 then p.node == q.node
  else true

/-- The check of a synchronisation access: the record's status word when the access is inconsistent. -/
def State.scopeBreach (s : State) (line : Nat) (me : ScopeRec) : Option (BitVec 32) :=
  match (s.lineMeta line).srec with
  | none => none
  | some q =>
    if (if q.modl = s.modreg.toNat % 1024 then s.ownerEnded q.owner else s.awayEnded q) then none
    else if insideScope me.scope me q && insideScope q.scope q me then none
    else some (BitVec.ofNat 32 (q.modl * 2 ^ 22 + q.unit * 2 ^ 13 + q.thr * 2 ^ 11 + q.scope * 2 ^ 8 + me.scope))

/-- The record a request would leave. -/
def State.syncRec (s : State) (r : Req) (scope : Nat) : ScopeRec :=
  match r.reply with
  | some m => ⟨scope, m.modl, m.node, m.unit, m.thr, if m.gang = 0 then .none else .gang (m.gang - 1)⟩
  | none => ⟨scope, s.modreg.toNat % 1024, s.nodeNumber, r.by_.unit, r.by_.thr, s.syncOwner r.by_.owner⟩

/-! ### At a home slice -/

/-- Bytes at offsets of a line replaced. -/
def patch (base : Nat) (k : Key) (s : State) : List (Nat × List Byte) → State
  | [] => s
  | (o, bs) :: rest => patch base k (s.writeUnder k (base + o) bs) rest

/-- Whether pieces cover a whole unit of n bytes. -/
def covers (n : Nat) (parts : List (Nat × List Byte)) : Bool :=
  (List.range n).all (fun i => parts.any (fun p => p.1 ≤ i && i < p.1 + p.2.length))

/-- old + sum rounded once to a table's format, old in that format and sum in FP32 (R371). -/
def addInto (F : FloatFmt) (old sum : Nat) : Rounded :=
  let w := old * 2 ^ (32 - F.width)
  match nanOf fp32 [w, sum] with
  | some r => (nanConvert fp32 F r.1, r.2)
  | none =>
    if fp32.isInf w || fp32.isInf sum then
      let r := fpAdd fp32 rndRNE 0 w sum
      (if fp32.isNaN r.1 then F.nan else F.withSign (fp32.neg r.1) F.infCode, r.2)
    else roundTo F rndRNE 0 (Exact.add rndRNE (fp32.value w) (fp32.value sum))

/-- The format of a hashed-grid table. -/
def tableFmt (fmt : BitVec 4) : FloatFmt := if fmt = fmtBF16 then bf16 else fp32

/-- The adds of an HGSC request applied to a slot: new codes and flags, or none at a verdict word (R371, R434). -/
def hgNew (fmt : BitVec 4) (old : Nat → Nat) : List (Nat × BitVec 32) → Option (List (Nat × List Byte) × BitVec 8)
  | [] => some ([], 0)
  | (o, v) :: rest =>
    let F := tableFmt fmt
    if (F.verdict (old o)).isSome then none
    else match hgNew fmt old rest with
      | none => none
      | some (ps, f) =>
        let r := addInto F (old o) v.toNat
        some ((o, leBytes (laneBytes fmt) r.1) :: ps, f ||| r.2)

/-- The effect of an operation on bytes of a home, read by `old` (offset, length): the bytes written, the reply without its tag,
and whether it consumes data (R188, R257, R258, R351, R371). -/
structure Effect where
  parts : List (Nat × List Byte)
  reply : Reply

def MemOp.effect (op : MemOp) (size : Nat) (old : Nat → Nat → List Byte) : Effect :=
  match op with
  | .load _ | .lde _ _ | .fill _ | .hgRead _ _ | .wtest _ | .fetch => ⟨[], .data (old 0 size)⟩
  | .vload _ fmt ls => ⟨[], .data (ls.flatMap (fun l => old l.2 (laneBytes fmt)))⟩
  | .store d _ => ⟨[(0, d)], .ack none 0⟩
  | .engine _ ps _ _ _ _ => ⟨ps, .ack none 0⟩
  | .amax v =>
    let x := fpMinMax fp32 true (leNat (old 0 size)) v.toNat
    ⟨[(0, leBytes size x.1)], .ack none 0⟩
  | .evict _ => ⟨[], .ack none 0⟩
  | .vstore ps => ⟨ps, .ack none 0⟩
  | .tstr ps _ => ⟨ps, .ack none 0⟩
  | .amo k v w _ =>
    let o := leNat (old 0 size)
    match amoNew k size o v.toNat w.toNat with
    | none => ⟨[], .fail 0x33 0⟩
    | some (x, f) => ⟨[(0, leBytes size x)], .old (BitVec.ofNat 64 o) none f⟩
  | .hgAdd _ fmt as =>
    match hgNew fmt (fun o => leNat (old o (laneBytes fmt))) as with
    | none => ⟨[], .fail 0x33 0⟩
    | some (ps, f) => ⟨ps, .ack none f⟩
  | .granules _ _ | .prefetch | .tlook _ _ | .doneid _ _ | .well _ _ | .wellLand _ => ⟨[], .ack none 0⟩

/-- A reply with the tag its write left. -/
def Reply.tagged (r : Reply) (t : BitVec 32) : Reply :=
  match r with
  | .ack _ f => .ack (some t) f
  | .old v _ f => .old v (some t) f
  | r => r

/-- Operations whose poisoned source is a fault (R469); the others write and see no data. -/
def MemOp.consumes : MemOp → Bool
  | .load _ | .lde _ _ | .amo _ _ _ _ | .fill _ | .vload _ _ _ | .hgRead _ _ | .hgAdd _ _ _ | .amax _ => true
  | _ => false

/-- Operations that allocate whatever the class says (R146, R255). -/
def MemOp.allocates : MemOp → Bool
  | .amo _ _ _ _ | .hgAdd _ _ _ | .prefetch | .amax _ => true
  | _ => false

/-- The row of the latency table for a request: its requester's, or that of the core whose scratchpad a copy's line is for (R153). -/
def State.latencyRow (s : State) (r : Req) : Nat :=
  if 224 ≤ r.by_.unit && r.by_.unit < 240 then (((s.copyOf r.by_.thr).bind (fun c => c.core)).getD r.by_.unit) else r.by_.unit

/-- Cycles from the slot to the landing (R153, R257). -/
def State.latency (s : State) (r : Req) (hit : Bool) : Nat :=
  let ch := channelOf (localOf r.pa)
  let u := s.latencyRow r
  match r.op with
  | .amo _ _ _ _ => if hit then s.latAtom u ch else s.latMiss u ch + s.latAtom u ch - s.latHit u ch
  | .hgAdd _ _ _ | .amax _ => if hit then s.latAtom u ch else s.latMiss u ch + s.latAtom u ch - s.latHit u ch
  | .store _ _ | .vstore _ | .evict _ | .engine _ _ _ _ _ _ => s.latHit u ch
  | _ => if hit then s.latHit u ch else s.latMiss u ch

/-- The request's answer, to land after n controller cycles. -/
def State.answer (s : State) (i : Nat) (n : Nat) (r : Reply) : State :=
  s.updReq i (fun q => { q with status := .served (timeOfCc (s.cc + n)) r })

/-- A bank unit's answer: to its own core it lands 3 cycles later (R249). -/
def State.bankAnswer (s : State) (core i : Nat) (r : Reply) : State :=
  s.updReq i (fun q => { q with status := .served (if q.by_.unit = core then s.later core 3 else s.now) r })

/-- The write-back of a tag-table slot carries the slot's bytes (R143). -/
def State.outgoing (s : State) (r : Req) (e : Effect) : List (Nat × List Byte) :=
  match r.op with
  | .evict slot => [(0, memRead s.mem (scratchPa r.by_.unit (tagData slot)) 128)]
  | _ => e.parts

/-- The write brings poison with it: a copy's of poisoned data, or the write-back of a slot with a poisoned granule (R469). -/
def State.poisons (s : State) (r : Req) : Bool :=
  match r.op with
  | .engine _ _ _ _ _ poison => poison
  | .evict slot => s.slotPoisoned r.by_.unit slot
  | _ => false

/-- A request applied at its home slice: its access takes its instant (R145, R189), unless the home fails it. -/
def State.applyGlobal (s : State) (r : Req) : State :=
  let g : Target := ⟨r.pa, r.cls, r.kslot⟩
  let pa := localOf r.pa
  let l := lineOf pa
  let k := s.keyFor r.part r.cls r.kslot
  match s.homeCause r.part g with
  | some c => s.answer r.id (s.latency r true) (.fail c 0)
  | none =>
    match r.check.bind (fun sc => s.scopeBreach l (s.syncRec r sc)) with
    | some w => s.answer r.id (s.latency r true) (.fail 0x4B w)
    | none =>
      let s1 := match r.check with
        | some sc => s.setLine l { s.lineMeta l with srec := some (s.syncRec r sc) }
        | none => s
      let e := r.op.effect r.size (fun o n => s1.bytesUnder k (pa + o) n)
      let parts := s1.outgoing r e
      let fails := match e.reply with | .fail _ _ => true | _ => false
      let (hit, s2) := s1.touch k r.cls r.op.allocates (r.op.changes && !fails) pa
      let poison := s.poisonedAt g
      if poison && r.op.consumes then s2.answer r.id (s.latency r hit) (.fail 0x4C 0)
      else if poison && r.op = .fetch then s2.answer r.id (s.latency r hit) (.poisoned (s1.bytesUnder k pa r.size))
      else if fails || !r.op.changes then s2.answer r.id (s.latency r hit) e.reply
      else
        let s3 :=
          if poison && !covers 128 (parts.map (fun p => (p.1 + pa % 128, p.2))) then s2
          else
            let s' := patch pa k s2 parts
            s'.setLine l { s'.lineMeta l with poison := s.poisons r }
        let s4 := ((s3.bumpTag l).witnessDone r.by_.unit r.thread l).notePosts r (parts.map (fun p => (p.1, p.2.length)))
        s4.answer r.id (s.latency r hit) (e.reply.tagged (s4.lineMeta l).tag)

/-- A prefetch leaves nothing behind but the line (R255); a write-back of a clean slot has nothing to write (R143). -/
def State.serveGlobal (s : State) (r : Req) : State :=
  match r.op with
  | .evict slot =>
    if !tagD ((s.core r.by_.unit).tag slot) then (s.evicted r.by_.unit slot r.id).dropReq r.id
    else if !s.witnessFree r.by_.unit r.thread (lineOf (localOf r.pa)) then
      s.witnessWait r.by_.unit r.thread (lineOf (localOf r.pa))
    else s.applyGlobal r
  | .prefetch =>
    if (s.homeCause r.part ⟨r.pa, r.cls, r.kslot⟩).isSome then s.dropReq r.id
    else ((s.touch (s.keyFor r.part r.cls r.kslot) r.cls true false (localOf r.pa)).2).dropReq r.id
  | _ =>
    if r.op.changes && !s.witnessFree r.by_.unit r.thread (lineOf (localOf r.pa)) then
      s.witnessWait r.by_.unit r.thread (lineOf (localOf r.pa))
    else s.applyGlobal r

/-! ### CALENDAR_SLOT (R149, R152) -/

/-- The first controller cycle from c on that is slot n. -/
def cycleOfSlot (c n : Nat) : Nat := c + (n + 320 - c % 320) % 320

/-- The request is one for a channel of this module. -/
def State.onChannel (s : State) (r : Req) (ch : Nat) : Bool :=
  moduleOf r.pa == s.modreg.toNat % 1024 &&
  match locate (localOf r.pa) with
  | .hbm _ _ => channelOf (localOf r.pa) == ch
  | _ => false

/-- The requester whose requests a calendar entry serves: CORE, QUILL and LINK entries name it, and HOST is 256 (R139, R150). -/
def slotOwner (e : BitVec 16) : Option Nat :=
  if calKind e = kindCORE || calKind e = kindQUILL || calKind e = kindLINK then some (calOwner e)
  else if calKind e = kindHOST then some 256 else none

/-- The core, of those of a channel's partition that write their save areas, whose turn the bulk-run slot of a cycle is: equal shares (R90). -/
def State.saver (s : State) (ch c : Nat) : Option Nat :=
  let ns := (s.cores.filter (fun e => e.2.saveOut && decide (s.partOfBlock (e.1 / 24) = s.partOfBlock (ch / 32)))).map Prod.fst
  ns[(c / 320 + c) % ns.length]?

/-- Whether the slot of a channel in a controller cycle serves the requests of a lane (R90, R150, R152, R155). -/
def State.servesLane (s : State) (ch c : Nat) (l : Lane) : Bool :=
  let e := s.calEntry ch (c % 320)
  let run := lookup none (calOwner e) (s.channel ch).runs
  match l with
  | .own u => slotOwner e == some u
  | .save u => slotOwner e == some u || (calKind e == kindBULK && run.isNone && s.saver ch c == some u)
  | .run u t r => calKind e == kindBULK && calOwner e == r && run.any (fun b => b.unit == u && b.thr == t)
  | .free => calKind e == kindBULK && run.isNone

/-- The request that a slot of a channel serves in a controller cycle: of those that reached the stage in time, the first in the order of
issue, or in the slots of a run that is not held the first of the lowest requester number. A request reaches the stage at least one cycle
after its issue and is in a slot from the next cycle on (R152, R491). One that a replay holds at its home lets others be served (R401). -/
def State.slotRequest (s : State) (ch c : Nat) : Option Req :=
  let e := s.calEntry ch (c % 320)
  let rs := s.reqs.filter (fun r => s.onChannel r ch && decide (ccOf r.born + 2 ≤ c) && s.servesLane ch c (s.laneOf r) && s.eligible r &&
    !(r.op.changes && s.witnessHeld r.by_.unit r.thread (lineOf (localOf r.pa))))
  if calKind e = kindBULK then (sortByKey (fun (r : Req) => r.by_.unit) rs).head? else rs.head?

/-- A channel's slot in the present controller cycle, once. -/
def State.serveSlot (s : State) (ch : Nat) : State :=
  if s.cc < (s.channel ch).freeAt then s
  else
    let s1 := s.updChannel ch (fun k => { k with freeAt := s.cc + 1 })
    match s1.slotRequest ch s.cc with
    | none => s1
    | some r => s1.serveGlobal r

/-- CALENDAR_SLOT: the next cycle that is this slot of the channel. The slice's lower channels have had their slots of that cycle before,
since a slice takes the misses of one cycle in ascending channel (R148). -/
def State.calendarSlot (s : State) (ch slot : Nat) : State :=
  let c := cycleOfSlot (max s.cc (s.channel ch).freeAt) slot
  (((List.range (ch % 4)).map (fun i => ch / 4 * 4 + i)).foldl State.serveSlot (s.ccTo c).boundaries).serveSlot ch

/-! ### At a bank unit (R133, R138, R140, R143, R249 to R254, R365) -/

/-- The granules that byte offsets [o, o + n) lie in. -/
def granulesOf (o n : Nat) : List Nat := if n = 0 then [] else (List.range ((o + n - 1) / 16 - o / 16 + 1)).map (fun i => o / 16 + i)

def CoreArr.setGranules (k : CoreArr) (gs : List Nat) (v : Bool) : CoreArr :=
  { k with full := gs.foldl (fun m g => insertAt g v m) k.full }

/-- A write of bytes at offsets of a core's scratchpad: a partial write of a poisoned granule is discarded, a whole one clears
the poison (R469), and a valid slot's data becomes dirty (R143). -/
def State.bankWrite (s : State) (core off : Nat) (bs : List Byte) : State :=
  let k := s.core core
  let keep := (List.range bs.length).filter (fun i =>
    let g := (off + i) / 16
    !lookup false g k.gpoison || (decide (off ≤ 16 * g) && decide (16 * g + 16 ≤ off + bs.length)))
  let mem := keep.foldl (fun m i => memPut (scratchPa core (off + i)) (bs.getD i 0) m) s.mem
  let whole := (granulesOf off bs.length).filter (fun g => decide (off ≤ 16 * g) && decide (16 * g + 16 ≤ off + bs.length))
  let slots := ((List.range bs.length).filter (fun i => 0x1E0000 ≤ off + i)).map (fun i => (off + i - 0x1E0000) / 128)
  ({ s with mem := mem }).updCore core (fun k =>
    { k with gpoison := whole.foldl (fun m g => if lookup false g m then insertAt g false m else m) k.gpoison,
             tags := slots.foldl (fun m sl => if tagV (lookup 0 sl m) then insertAt sl (lookup 0 sl m ||| (1#64 <<< 62)) m else m) k.tags })

/-- Bytes written at pieces of a scratchpad. -/
def State.bankPatch (s : State) (core off : Nat) : List (Nat × List Byte) → State
  | [] => s
  | (o, bs) :: rest => (s.bankWrite core (off + o) bs).bankPatch core off rest

/-- Scale bytes of a core's sidecars (R135). -/
def CoreArr.putScales (k : CoreArr) (ss : List (Nat × Byte)) : CoreArr :=
  { k with sidecar := ss.foldl (fun m e => insertAt e.1 e.2 m) k.sidecar }

/-- Bytes that land in a scratchpad count in the same access at a well of this module: that of the copy here, or the one that a copy of
another module names (R175). -/
def State.landCount (s : State) (r : Req) (c : Option Nat) (k : Nat) : Except Nat State :=
  match c, r.reply.bind (fun m => m.well) with
  | some i, _ => .ok (s.wellCount i k)
  | none, some w => s.wellLand w.1 w.2
  | none, none => .ok s

/-- A request applied at the bank unit of a core, at an offset. -/
def State.applyBank (s : State) (r : Req) (core off : Nat) : State :=
  let k := s.core core
  let pa := localOf r.pa
  let e := r.op.effect r.size (fun o n => memRead s.mem (pa + o) n)
  let touched := (r.op.spans r.size).flatMap (fun p => granulesOf (off + p.1) p.2)
  let poison := touched.any (fun g => lookup false g k.gpoison)
  match r.op with
  | .lde _ clear =>
    if !k.granuleFull off then s.updReq r.id (fun q => { q with status := .retry })
    else if poison then s.bankAnswer core r.id (.fail 0x4C 0)
    else (if clear then s.updCore core (fun k => k.setGranules [off / 16] false) else s).bankAnswer core r.id e.reply
  | .granules n v =>
    let now := min n 8
    let s1 := s.updCore core (fun k => k.setGranules ((List.range now).map (fun i => off / 16 + i)) v)
    if n ≤ 8 then s1.bankAnswer core r.id (.ack none 0)
    else s1.updReq r.id (fun q => { q with op := .granules (n - 8) v, pa := q.pa + 128 })
  | .tstr ps ss =>
    let gs := ps.flatMap (fun p => granulesOf (off + p.1) p.2.length)
    if gs.any (fun g => lookup false g k.full || lookup false g k.gpoison) then s.bankAnswer core r.id (.fail 0x4D (detailStatus 0))
    else (((s.bankPatch core off ps).updCore core (fun k => (k.setGranules gs true).putScales ss))).bankAnswer core r.id (.ack none 0)
  | .engine c ps full ss k poisons =>
    let gs := ps.flatMap (fun p => granulesOf (off + p.1) p.2.length)
    let s1 := (s.bankPatch core off ps).updCore core (fun a =>
      let a1 := (if full then a.setGranules gs true else a).putScales ss
      { a1 with gpoison := if poisons then gs.foldl (fun m g => insertAt g true m) a1.gpoison else a1.gpoison })
    match s1.landCount r c k with
    | .ok s2 => s2.bankAnswer core r.id (.ack none 0)
    | .error d => s1.bankAnswer core r.id (.fail 0x50 (detailStatus d))
  | .well k me => (s.applyWell r k me).dropReq r.id
  | .wellLand k =>
    match s.wellLand pa k with
    | .ok s1 => s1.bankAnswer core r.id (.ack none 0)
    | .error d => s.bankAnswer core r.id (.fail 0x50 (detailStatus d))
  | .fetch => s.bankAnswer core r.id (if poison then .poisoned (memRead s.mem pa r.size) else e.reply)
  | .store d full =>
    let s1 := s.bankWrite core off d
    (if full then s1.updCore core (fun k => k.setGranules [off / 16] true) else s1).bankAnswer core r.id (.ack none 0)
  | _ =>
    if poison && r.op.consumes then s.bankAnswer core r.id (.fail 0x4C 0)
    else (s.bankPatch core off e.parts).bankAnswer core r.id e.reply

/-- A request's place among the operations of a bank cycle: ascending requester number, then thread number, that of an agent or an edge
unit being its thread's (R140). -/
def Req.bankKey (r : Req) : Nat := r.by_.unit * 4 + r.thread

/-- A request for a core's scratchpad applies in the bank unit's cycle c: it was issued in an earlier cycle, and if it has found its
granule empty before, the granule has become full since (R249, R252). -/
def State.bankTakes (s : State) (core c : Nat) (r : Req) : Bool :=
  match locate (localOf r.pa) with
  | .scratch n off =>
    n == core && (decide ((s.island (islandOfUnit core)).cycles r.born < c) || (s.island (islandOfUnit core)).stopped) &&
    (s.eligible r || (r.status == .retry && (s.core core).granuleFull off))
  | _ => false

/-- Requests for a core's scratchpad that apply in one bank cycle: at most one chunk of each, in ascending requester and thread,
and in issue order within a thread (R140). -/
def State.bankQueue (s : State) (core c : Nat) : List Nat :=
  (sortByKey Req.bankKey (s.reqs.filter (s.bankTakes core c))).map (fun r => r.id)

/-- One request of the queue, if it may still apply. -/
def State.bankOne (s : State) (core : Nat) (i : Nat) : State :=
  match s.reqs.find? (fun r => r.id == i) with
  | none => s
  | some r =>
    match locate (localOf r.pa) with
    | .scratch _ off => (s.applyBank r core off).notePosts r r.writes
    | _ => s

/-- The bank unit's next cycle of a core's scratchpad (R133, R140, R249, R252). -/
def State.bankCycle (s : State) (core : Nat) : State :=
  let c := max (s.cycles core) (s.core core).bankAt
  let s1 := (s.passTo (s.timeOfCycle core c)).updCore core (fun k => { k with bankAt := c + 1 })
  (s1.bankQueue core c).foldl (fun s i => s.bankOne core i) s1

/-- A bank unit's cycle of the present time, if it has not been yet. -/
def State.bankNow (s : State) (core : Nat) : State := if (s.core core).bankAt ≤ s.cycles core then s.bankCycle core else s

/-- The other cores of whose wells the landings of a core's bank cycle count bytes. -/
def State.wellCores (s : State) (core c : Nat) : List Nat :=
  (s.reqs.filter (s.bankTakes core c)).filterMap (fun r => match r.op with
    | .engine (some i) _ _ _ _ _ => (s.countsThere i r.pa).bind (fun w => match locate w with
      | .scratch n _ => if n = core then none else some n
      | _ => none)
    | _ => none)

/-- The bank unit's next cycle of a core's scratchpad. A copy's landing that counts at a well of another core takes its place after the
operations of that well's bank cycle from cores and quill cores, whose requester numbers are lower (R140, R175, R179). -/
def State.bankAccess (s : State) (core : Nat) : State :=
  let c := max (s.cycles core) (s.core core).bankAt
  ((s.wellCores core c).foldl State.bankNow (s.passTo (s.timeOfCycle core c))).bankCycle core

/-- A request that found its granule empty and would now find it full (R252). -/
def State.retryReady (s : State) (r : Req) (core : Nat) : Bool :=
  r.status == .retry && match locate (localOf r.pa) with
    | .scratch n off => n == core && (s.core n).granuleFull off
    | _ => false

/-- WELL_OPERATION: the bank cycle of the well of one of the operations on their way (R177, R179). -/
def State.wellOperation (s : State) (i : Nat) : State :=
  match (s.reqs.filter (fun r => match r.op with | .well _ _ => true | _ => false))[i]? with
  | none => s
  | some r => match locate (localOf r.pa) with
    | .scratch n _ => s.bankAccess n
    | _ => s

/-! ### As device steps -/

/-- CALENDAR_SLOT. -/
def execCalendarSlot (ch : Fin 256) (slot : Fin 320) (s : State) : Result := .next ((s.calendarSlot ch slot).unblock)
/-- BANK_ACCESS. -/
def execBankAccess (c : Fin 192) (s : State) : Result := .next ((s.bankAccess c).unblock)
/-- LDE_RETRY: a bank cycle too, the first after a granule has become full; the requests that waited for it take their places among the
others (R252). -/
def execLdeRetry (c : Fin 192) (s : State) : Result := .next ((s.bankAccess c).unblock)
/-- WELL_OPERATION. -/
def execWellOperation (i : Nat) (s : State) : Result := .next ((s.wellOperation i).unblock)
/-- REPLAY_TIMEOUT. -/
def execReplayTimeout (p : Fin 8) (s : State) : Result := .next ((s.replayTimeout p).unblock)

end Sys2Proof.Machine
end

