-- ==== Sys2Proof/Machine/Layout.lean ====
section
/-! DEFINITION. Tensor headers and the storage of their elements (R32, R33, R116, R134 to R137, R309, R310, R461), and the
conversion of elements by engines (R37, R40). -/

namespace Sys2Proof.Machine

/-! ### Headers (R309) -/

/-- The header in 64 bytes. -/
def headerOf (bs : List Byte) : Header :=
  let w := fieldAt bs 8 4
  let addrs := [fieldAt bs 0 8, fieldAt bs 32 8, fieldAt bs 40 8, fieldAt bs 48 8]
  { base := fieldAt bs 0 8
    fmt := BitVec.ofNat 4 (bitsOf w 31 28)
    pfmt := BitVec.ofNat 4 (bitsOf w 27 24)
    cls := bitsOf w 23 21
    kslot := bitsOf w 20 15
    mord := bitsOf w 14 14 == 1
    bm := bitsOf w 13 13 == 1
    kax := bitsOf w 12 12 == 1
    rsv := bitsOf w 11 3 != 0 || fieldAt bs 28 4 != 0 || addrs.any (fun a => decide (2 ^ 56 ≤ a))
    rnd := BitVec.ofNat 3 (bitsOf w 2 0)
    bias := BitVec.ofNat 16 (fieldAt bs 12 2)
    permid := BitVec.ofNat 16 (fieldAt bs 14 2)
    rows := fieldAt bs 16 4
    cols := fieldAt bs 20 4
    rpitch := fieldAt bs 24 4
    scale := fieldAt bs 32 8
    tail := fieldAt bs 40 8
    amax := fieldAt bs 48 8
    bmlen := fieldAt bs 56 4
    bmovf := bitsOf (fieldAt bs 60 4) 31 31 == 1
    bmcap := bitsOf (fieldAt bs 60 4) 30 0 }

/-- DETAIL 3 of cause 0x5A: a nonzero reserved bit or a reserved code, and a hashed-grid header (R461). -/
def Header.reserved (h : Header) : Bool :=
  h.rsv || decide (0xC ≤ h.fmt) || decide (0xC ≤ h.pfmt) || decide (6 ≤ h.cls) || h.cls == 2 || decide (5 ≤ h.rnd)

/-- ROWS and COLS within 1..2^24 (R309). -/
def Header.sized (h : Header) : Bool := decide (1 ≤ h.rows ∧ h.rows ≤ 2 ^ 24 ∧ 1 ≤ h.cols ∧ h.cols ≤ 2 ^ 24)

/-! ### Storage (R310) -/

/-- A tensor as it is stored: its storage format (RAW for bytes), for NM the element format and group, whether scales lie in a
sidecar, and where its elements lie. -/
structure Tensor where
  fmt : BitVec 4
  elem : BitVec 4
  nmr : Bool
  sidecar : Bool
  base : Nat
  pitch : Nat
  rows : Nat
  cols : Nat
  scale : Nat
  tail : Nat
  kax : Bool
  bias : Int
  deriving DecidableEq, Repr

/-- Elements of one stored cell: a block of an MX format, a unit of NM, else one element. -/
def Tensor.cellElems (t : Tensor) : Nat := if isMx t.fmt then 32 else if t.fmt = fmtNM then 64 else 1
/-- Bytes of one stored cell (R135, R136). -/
def Tensor.cellBytes (t : Tensor) : Nat := if isMx t.fmt then 4 * mxWidth t.fmt else if t.fmt = fmtNM then 48 else fmtWidth t.fmt / 8

/-- Blocks run along columns: MX with KAX = 1. -/
def Tensor.down (t : Tensor) : Bool := isMx t.fmt && t.kax

/-- Address of the cell that holds element (a, b) (R310). -/
def Tensor.cellVa (t : Tensor) (a b : Nat) : Nat :=
  if t.down then t.base + a / 32 * t.pitch + b * t.cellBytes
  else t.base + a * t.pitch + b / t.cellElems * t.cellBytes

/-- Place of an element in its cell. -/
def Tensor.posIn (t : Tensor) (a b : Nat) : Nat := if t.down then a % 32 else b % t.cellElems

/-- Index of an element's block in the scale and tail arrays (R310). -/
def Tensor.scaleIndex (t : Tensor) (a b : Nat) : Nat := if t.down then a / 32 * t.cols + b else a * (t.cols / 32) + b / 32

/-- Rows of bytes and the bytes of each. -/
def Tensor.byteRows (t : Tensor) : Nat := if t.down then (t.rows + 31) / 32 else t.rows
def Tensor.rowBytes (t : Tensor) : Nat :=
  if t.down then t.cols * t.cellBytes else (t.cols + t.cellElems - 1) / t.cellElems * t.cellBytes

/-- The scales of the tensor stand in its scale array. -/
def Tensor.arrayScales (t : Tensor) : Bool := isMx t.fmt && !t.sidecar

/-- The format register of the bank that an address of this module's scratchpads lies in. -/
def State.bankAt (s : State) (p u va : Nat) : Option (BitVec 32) :=
  match s.translate p u va .read with
  | .ok g => (s.scratchOf g).map (fun e => (s.core e.1).bfmt.getD (e.2 / 2 ^ 17) 0)
  | .error _ => none

/-- A tensor in a bank of a format register: its format, unless that is RAW (R134, R166, R310). -/
def Tensor.inBank (t : Tensor) (r : BitVec 32) : Tensor :=
  let f := r.extractLsb' 0 4
  if f = fmtRAW then t else { t with fmt := f, elem := r.extractLsb' 4 4, nmr := r.getLsbD 8, sidecar := isMx f }

/-- The tensor of a storage place: a bank whose register is not RAW gives its format, else the given one does (R134, R166,
R310). -/
def State.stored (s : State) (p u : Nat) (t : Tensor) : Tensor :=
  match s.bankAt p u t.base with
  | none => t
  | some r => t.inBank r

/-- The tensor of a header in a format (R310). -/
def Header.tensor (h : Header) (fmt : BitVec 4) : Tensor :=
  { fmt := fmt, elem := h.pfmt, nmr := false, sidecar := false, base := h.base, pitch := h.rpitch, rows := h.rows, cols := h.cols,
    scale := h.scale, tail := h.tail, kax := h.kax, bias := h.bias.toInt }

/-- The tensor as bytes, for a copy that moves them unchanged (R166). -/
def Tensor.asBytes (t : Tensor) : Tensor :=
  { t with fmt := fmtRAW, kax := false, sidecar := false, rows := t.byteRows, cols := t.rowBytes }

/-! ### Ranges of bytes and what they hold -/

/-- Ranges with neighbours joined and repetitions dropped. -/
def joinRanges : List (Nat × Nat) → List (Nat × Nat)
  | [] => []
  | (a, n) :: rest =>
    match joinRanges rest with
    | [] => [(a, n)]
    | (b, m) :: r =>
      if b = a + n then (a, n + m) :: r
      else if b ≤ a && a + n ≤ b + m then (b, m) :: r
      else (a, n) :: (b, m) :: r

/-- The bytes of ranges that have been read, by address. -/
abbrev Snap := List (Nat × List Byte)

/-- The bytes of ranges, read one after another. -/
def splitSnap : List (Nat × Nat) → List Byte → Snap
  | [], _ => []
  | (a, n) :: rest, bs => (a, bs.take n) :: splitSnap rest (bs.drop n)

/-- n bytes at an address of a snapshot; none that was not read. -/
def Snap.bytes (m : Snap) (va n : Nat) : List Byte :=
  match m.find? (fun e => decide (e.1 ≤ va) && decide (va + n ≤ e.1 + e.2.length)) with
  | some e => bytesAt e.2 (va - e.1) n
  | none => List.replicate n 0

/-- The first translation fault of ranges: cause, address and status. -/
def State.firstFault (s : State) (p u : Nat) (k : Access) (rs : List (Nat × Nat)) : Option (Nat × Nat × BitVec 32) :=
  (rs.flatMap (fun r => pieces r.1 r.2)).findSome? (fun e =>
    match s.translate p u e.1 k with
    | .ok _ => none
    | .error x => some (x.cause, e.1, x.status))

/-- The cells of a rectangle of elements, and their scales in an array. -/
def Tensor.cellRanges (t : Tensor) (a0 a1 b0 b1 : Nat) : List (Nat × Nat) :=
  joinRanges ((List.range (a1 - a0)).flatMap (fun i =>
    joinRanges ((List.range (b1 - b0)).map (fun j => (t.cellVa (a0 + i) (b0 + j), t.cellBytes)))))
def Tensor.scaleRanges (t : Tensor) (a0 a1 b0 b1 : Nat) : List (Nat × Nat) :=
  if t.arrayScales then
    joinRanges ((List.range (a1 - a0)).flatMap (fun i =>
      joinRanges ((List.range (b1 - b0)).map (fun j => (t.scale + t.scaleIndex (a0 + i) (b0 + j), 1)))))
  else []

/-- Where the block of an element stands for its sidecar byte: at its elements, or for a compressed tensor, whose elements have no fixed
place, as block number of the scale array counted from BASE (R135, R137). -/
def Tensor.sideVa (t : Tensor) (bitmap : Bool) (a b : Nat) : Nat :=
  if bitmap then t.base + t.scaleIndex a b * t.cellBytes else t.cellVa a b

/-- The scale byte of an element's block: from the array, or from the sidecar of the bank that holds the block. That of a bank in another
module is a free value (DESIGN CHOICE, assumption 42). -/
def State.scaleOf (s : State) (p u : Nat) (t : Tensor) (bitmap : Bool) (m : Snap) (a b : Nat) : Nat :=
  if t.sidecar then
    match s.translate p u (t.sideVa bitmap a b) .read with
    | .ok g => match s.scratchOf g with
      | some (n, o) => (lookup 0 (sidecarIndex t.fmt o) (s.core n).sidecar).toNat
      | none => (Config.farScale g.pa s.now).toNat
    | .error _ => 0
  else leNat (m.bytes (t.scale + t.scaleIndex a b) 1)

/-! ### Elements -/

/-- Code i of a packed block of n-bit elements (R33). -/
def packedCode (n : Nat) (cell : List Byte) (i : Nat) : Nat := leNat cell / 2 ^ (n * i) % 2 ^ n

/-- A dense element of an NM unit: its kept code, or 0 (R116, R136). -/
def nmCode (cell : List Byte) (i : Nat) : Nat :=
  let mask := fieldAt cell 32 8
  if bitsOf mask i i = 1 then fieldAt cell ((List.range i).foldl (fun n j => n + bitsOf mask j j) 0) 1 else 0

/-- A stored element as format and code, that of an MX element with its scale. -/
def Tensor.element (t : Tensor) (cell : List Byte) (scale pos : Nat) : BitVec 4 × Nat :=
  if isMx t.fmt then (t.fmt, mxCode (mxWidth t.fmt) scale (packedCode (mxWidth t.fmt) cell pos))
  else if t.fmt = fmtNM then
    if t.elem = fmtMXI8 then (fmtMXI8, mxCode 8 (fieldAt cell (40 + pos / 32) 1) (nmCode cell pos)) else (t.elem, nmCode cell pos)
  else (t.fmt, leNat cell)

/-- Elements to one block of an MX format: codes, scale, flags. A verdict word sets NV (R40, R51). -/
def engineBlock (n mode : Nat) (rhos : List Nat) (k : Int) (xs : List (BitVec 4 × Nat)) : Nat × List Nat × BitVec 8 :=
  let r := toMx n mode rhos (xs.map (fun x => mxIn x.1 k x.2))
  let nv := xs.any (fun x => match floatFmt x.1 with | some F => (F.verdict x.2).isSome | none => false)
  (r.1, r.2.1, if nv then r.2.2 ||| flagNV else r.2.2)

/-- The codes of 64 dense elements in an 8-bit element format, the scales of their two blocks, and flags (R37, R51, R136). -/
def unitCodes (elem : BitVec 4) (mode : Nat) (k : Int) (xs : List (BitVec 4 × Nat)) : List Nat × List Nat × BitVec 8 :=
  if elem = fmtMXI8 then
    let r0 := engineBlock 8 mode [] k (xs.take 32)
    let r1 := engineBlock 8 mode [] k (xs.drop 32)
    (r0.2.1 ++ r1.2.1, [r0.1, r1.1], r0.2.2 ||| r1.2.2)
  else
    let rs := xs.map (fun x => convertElem x.1 elem mode 0 k x.2)
    (rs.map (fun r => r.1), [0, 0], rs.foldl (fun f r => f ||| r.2) 0)

/-- An NM unit: its 32 kept codes, its mask word, and its two scales (R136). -/
def unitBytes (kept : List Nat) (mask : Nat) (scales : List Nat) : List Byte :=
  (List.range 32).map (fun i => BitVec.ofNat 8 (kept.getD i 0)) ++ leBytes 8 mask ++ leBytes 1 (scales.getD 0 0) ++ leBytes 1 (scales.getD 1 0) ++
  leBytes 6 0

/-- An NM unit of the kept ones among 64 dense elements, converted to an element format (R136, R166). -/
def convertUnit (elem : BitVec 4) (mode : Nat) (k : Int) (mask : Nat) (xs : List (BitVec 4 × Nat)) : List Byte × BitVec 8 :=
  let at_ := fun (i : Nat) => bitsOf mask i i == 1
  let r := unitCodes elem mode k (xs.mapIdx (fun i x => if at_ i then x else (fmtINT8, 0)))
  (unitBytes (((List.range 64).filter at_).map (fun i => r.1.getD i 0)) mask r.2.1, r.2.2)

/-- Codes of n bits packed in ascending index (R33). -/
def packBits (n : Nat) (cs : List Nat) : Nat := (cs.mapIdx (fun i c => c % 2 ^ n * 2 ^ (n * i))).foldl (· + ·) 0

/-! ### Pruning (R116) -/

/-- The magnitude of an 8-bit code. -/
def pruneMagnitude (fmt : BitVec 4) (c : Nat) : Nat := if isF8 fmt then c % 128 else (signExt 8 c).natAbs

/-- Element i of a group is kept: fewer than half the group's elements come before it in the order of magnitude and index. -/
def pruneKept (fmt : BitVec 4) (group : List Nat) (i : Nat) : Bool :=
  let mi := pruneMagnitude fmt (group.getD i 0)
  let before := (List.range group.length).filter (fun j =>
    let mj := pruneMagnitude fmt (group.getD j 0)
    decide (mi < mj) || (mj == mi && decide (j < i)))
  decide (before.length < group.length / 2)

/-- The mask of 64 dense codes: groups of 8 for 4-in-8, of 4 for 2-in-4. -/
def pruneMask (fmt : BitVec 4) (m : Nat) (codes : List Nat) : List Bool :=
  (List.range codes.length).map (fun i => pruneKept fmt (bytesOfGroup codes (i / m * m) m) (i % m))
where
  /-- The m codes from o on. -/
  bytesOfGroup (codes : List Nat) (o m : Nat) : List Nat := (List.range m).map (fun j => codes.getD (o + j) 0)

/-- The kept codes and the mask word. -/
def pruneUnit (fmt : BitVec 4) (m : Nat) (codes : List Nat) : List Nat × Nat :=
  let mask := pruneMask fmt m codes
  (((List.range codes.length).filter (fun i => mask.getD i false)).map (fun i => codes.getD i 0),
   (List.range codes.length).foldl (fun n i => if mask.getD i false then n + 2 ^ i else n) 0)

end Sys2Proof.Machine
end

