-- ==== Sys2Proof/Machine/Cells.lean ====
section
/-! DEFINITION. What a cell sees of its surroundings, and the effects of the cell instructions (R96, R102 to R104, R278 to R301). -/

namespace Sys2Proof.Machine

/-! ### Operands (R102 to R104, R216, R278, R279) -/

/-- What a wave instruction brings to a cell and what the cell sees around it: grid row and column, chain position, the neighbours'
hand-off registers, the edge pieces as the cell reads them, the operand bias sum, and the two x values read at issue. -/
structure CellEnv where
  row : Nat
  col : Nat
  pos : Nat
  w0 : BitVec 256
  w1 : BitVec 256
  n0 : BitVec 256
  n1 : BitVec 256
  e0 : BitVec 256
  e1 : BitVec 256
  s0 : BitVec 256
  s1 : BitVec 256
  ew : BitVec 256
  en : BitVec 256
  beta : Int
  x0 : Word
  x1 : Word

/-- A cell after an instruction, or the cause and DETAIL that make it act as deselected (R435). -/
abbrev CellResult := Except (Nat × Nat) Cell

/-- Lane i of w bits (R278). -/
def laneOf (v : BitVec 256) (w i : Nat) : Nat := (v.extractLsb' (w * i) w).toNat

/-- The lanes of an operand of a w-bit format, n of them. -/
def lanesIn (v : BitVec 256) (w n : Nat) : List Nat := (List.range n).map (fun i => laneOf v w i)

/-- An operand with these lanes of w bits; lanes past the list are 0. -/
def packLanes (w : Nat) (ls : List Nat) : BitVec 256 :=
  BitVec.ofNat 256 ((ls.mapIdx (fun i x => x % 2 ^ w * 2 ^ (w * i))).foldl (· + ·) 0)

/-- FP32 code of element e = 8i + j of an accumulator. -/
def AccState.elem (a : AccState) (e : Nat) : Nat := (a.el.extractLsb' (32 * e) 32).toNat
/-- Inner sum of an element (R58). -/
def AccState.innerSum (a : AccState) (e : Nat) : Int := (a.inner.extractLsb' (24 * e) 24).toInt

/-- Elements from their codes. -/
def packElems (cs : List Nat) : BitVec 2048 := BitVec.ofNat 2048 ((cs.mapIdx (fun i x => x % 2 ^ 32 * 2 ^ (32 * i))).foldl (· + ·) 0)
/-- Inner sums from integers. -/
def packSums (vs : List Int) : BitVec 1536 := BitVec.ofNat 1536 ((vs.mapIdx (fun i x => twos 24 x * 2 ^ (24 * i))).foldl (· + ·) 0)

/-- Row j of an accumulator as an operand (R278). -/
def AccState.rowOf (a : AccState) (j : Nat) : BitVec 256 := a.el.extractLsb' (256 * j) 256
/-- The accumulator with row j replaced. -/
def AccState.setRow (a : AccState) (j : Nat) (v : BitVec 256) : AccState :=
  { a with el := packElems ((List.range 64).map (fun e => if e / 8 = j then laneOf v 32 (e % 8) else a.elem e)) }

def Cell.frag (c : Cell) (i : Nat) : BitVec 256 := c.f.getD i 0
def Cell.acc (c : Cell) (k : Nat) : AccState := c.c.getD k AccState.reset
def Cell.setAcc (c : Cell) (k : Nat) (a : AccState) : Cell := { c with c := c.c.setIfInBounds k a }
def Cell.getQ (c : Cell) (k : Nat) : Bool := c.q.getLsbD k
def Cell.setQ (c : Cell) (k : Nat) (b : Bool) : Cell := { c with q := if b then c.q ||| (1#4 <<< k) else c.q &&& ~~~(1#4 <<< k) }

/-- A source operand by its code (R216, R279). -/
def Cell.operand (c : Cell) (v : CellEnv) (crow : Nat) (code : BitVec 5) : BitVec 256 :=
  let n := code.toNat
  if n < 16 then c.frag n
  else if n < 20 then (c.acc (n - 16)).rowOf crow
  else match n with
    | 20 => c.h0 | 21 => c.h1 | 22 => v.w0 | 23 => v.w1 | 24 => v.n0 | 25 => v.n1 | 26 => v.e0 | 27 => v.e1 | 28 => v.s0 | 29 => v.s1
    | 30 => v.ew | _ => v.en

/-- A write of a destination operand. -/
def Cell.put (c : Cell) (crow : Nat) (code : BitVec 5) (v : BitVec 256) : Cell :=
  let n := code.toNat
  if n < 16 then { c with f := c.f.setIfInBounds n v }
  else if n < 20 then c.setAcc (n - 16) ((c.acc (n - 16)).setRow crow v)
  else if n = 20 then { c with h0 := v }
  else { c with h1 := v }

/-- Flags ORed into the cell's flag byte (R282). -/
def Cell.orFlags (c : Cell) (f : BitVec 8) : Cell := { c with flags := c.flags ||| f }

/-- CROW as a row number. -/
def xRow (x : XFields) : Nat := x.crow.toNat

/-! ### Lanes computed in order, with the cell's random bits (R43, R282) -/

/-- Results of the elements i, i+1, …, n of them in ascending order: under RSR each draws once, whatever it is. -/
def drawLanes (rsr : Bool) (f : Nat → Nat → Rounded) : Nat → Nat → BitVec 32 → List Nat × BitVec 8 × BitVec 32
  | 0, _, s => ([], 0, s)
  | n + 1, i, s =>
    let s' := if rsr then nextRandom s else s
    let r := f i (if rsr then randomBits s' else 0)
    let t := drawLanes rsr f n (i + 1) s'
    (r.1 :: t.1, r.2 ||| t.2.1, t.2.2)

/-- The format of an instruction: FMTA, or its default (R280). -/
def xFmt (x : XFields) (dflt : BitVec 4) : BitVec 4 := if x.fmtA = 0 then dflt else x.fmtA

/-- The floating format of FMTA with default FP32 (R291). -/
def xFloat (x : XFields) : FloatFmt := (floatFmt (xFmt x fmtFP32)).getD fp32

/-- Some lane of an operand holds a verdict word of the format. -/
def anyVerdict (F : FloatFmt) (v : BitVec 256) : Bool := (lanesIn v F.width (256 / F.width)).any (fun c => (F.verdict c).isSome)

/-- A lane-wise floating result that may round. -/
def Cell.floatLanes (c : Cell) (x : XFields) (dst : BitVec 5) (srcs : List (BitVec 256)) (rounds : Bool)
    (f : FloatFmt → Nat → Nat → (Nat → Nat → Nat) → Rounded) : CellResult :=
  let F := xFloat x
  if srcs.any (anyVerdict F) then .error (0x20, 0)
  else
    let r := drawLanes (rounds && x.rnd == 4) (fun i rho => f F x.rnd.toNat rho (fun k _ => laneOf (srcs.getD k 0) F.width i))
      (256 / F.width) 0 c.s
    .ok (({ c with s := r.2.2 }.put (xRow x) dst (packLanes F.width r.1)).orFlags r.2.1)

/-! ### Data movement (R284 to R290) -/

/-- MOV, MOV.RDS, MOV.WRS (R284). The cell of the reset value of S is that of its own array. -/
def cellMov (o : WUnaryMod) (xs : List XPay) (v : CellEnv) (c : Cell) : CellResult :=
  let x := XFields.of xs
  if o.md = 0 then .ok (c.put (xRow x) o.dst (c.operand v (xRow x) o.srcA))
  else if o.md = 1 then .ok (c.put (xRow x) o.dst (packLanes 32 [c.s.toNat, c.flags.toNat]))
  else
    let a := c.operand v (xRow x) o.srcA
    let s : BitVec 32 := a.setWidth 32
    .ok { c with s := if s = 0 then cellSeed (v.row % 16) (v.col % 16) else s, flags := a.extractLsb' 32 8 &&& 0x3F }

/-- MOVH (R285). -/
def cellMovh (o : WUnaryMod) (xs : List XPay) (v : CellEnv) (c : Cell) : CellResult :=
  let x := XFields.of xs
  let a := c.operand v (xRow x) o.srcA
  .ok ((c.put (xRow x) o.dst a).put 0 (if o.md = 0 then 20 else 21) a)

/-- The row of the cell store (R286). -/
def storeRow (x : XFields) (md : BitVec 2) (b : BitVec 256) : Nat :=
  if md = 1 then (x.row.toNat + laneOf b 32 0 % 32) % 32 else x.row.toNat

/-- LDS (R286). -/
def cellLds (o : WLds) (xs : List XPay) (v : CellEnv) (c : Cell) : CellResult :=
  let x := XFields.of xs
  .ok (c.put 0 o.dst (lookup 0 (storeRow x o.md (c.operand v 0 o.srcB)) c.store))

/-- STS (R286). -/
def cellSts (o : WSts) (xs : List XPay) (v : CellEnv) (c : Cell) : CellResult :=
  let x := XFields.of xs
  .ok { c with store := insertAt (storeRow x o.md (c.operand v 0 o.srcB)) (c.operand v 0 o.srcA) c.store }

/-- V of IMM: 10 bits, 27 more from each X slot, sign-extended (R287). -/
def immValue (o : WImm) (xs : List XPay) : Word :=
  match xs with
  | [] => (o.immHi ++ o.immLo).signExtend 64
  | [x1] => (x1 ++ o.immHi ++ o.immLo).signExtend 64
  | x1 :: x2 :: _ => (x2 ++ x1 ++ o.immHi ++ o.immLo).signExtend 64

/-- IMM (R287). -/
def cellImm (o : WImm) (xs : List XPay) (_v : CellEnv) (c : Cell) : CellResult :=
  let w := match o.md.toNat with | 0 => 32 | 1 => 16 | 2 => 8 | _ => 64
  .ok (c.put 0 o.dst (packLanes w (List.replicate (256 / w) (immValue o xs).toNat)))

/-- ROWCOL (R288). -/
def cellRowcol (o : WDst) (_xs : List XPay) (v : CellEnv) (c : Cell) : CellResult :=
  .ok (c.put 0 o.dst (packLanes 32 [v.row, v.col, v.row % 16, v.col % 16, v.pos]))

/-- The lane width that MOD names (R289, R290). -/
def permWidth (md : BitVec 2) : Nat := match md.toNat with | 0 => 32 | 1 => 16 | _ => 8

/-- PERM (R289). -/
def cellPerm (o : WBinMod) (_xs : List XPay) (v : CellEnv) (c : Cell) : CellResult :=
  let w := permWidth o.md
  let a := c.operand v 0 o.srcA
  let b := c.operand v 0 o.srcB
  let one := fun (i : Nat) => if 2 ^ (w - 1) ≤ laneOf b w i then 0 else laneOf a w (laneOf b w i % (256 / w))
  .ok (c.put 0 o.dst (packLanes w ((List.range (256 / w)).map one)))

/-- PACK (R290). -/
def cellPack (o : WBinMod) (_xs : List XPay) (v : CellEnv) (c : Cell) : CellResult :=
  let w := permWidth o.md
  .ok (c.put 0 o.dst (packLanes (w / 2) (lanesIn (c.operand v 0 o.srcA) w (256 / w) ++ lanesIn (c.operand v 0 o.srcB) w (256 / w))))

/-- UNPK (R290). -/
def cellUnpk (o : WUnaryMod) (xs : List XPay) (v : CellEnv) (c : Cell) : CellResult :=
  let w := permWidth o.md
  let x := XFields.of xs
  let a := c.operand v 0 o.srcA
  let one := fun (k : Nat) =>
    let l := laneOf a (w / 2) (k + 256 / w * (x.spec.getLsbD 0).toNat)
    if x.spec.getLsbD 1 then twos w (signExt (w / 2) l) else l
  .ok (c.put 0 o.dst (packLanes w ((List.range (256 / w)).map one)))

/-! ### Floating point (R291 to R296) -/

/-- CELL_FADD (R292). -/
def cellFaddEffect (o : WBin) (xs : List XPay) (v : CellEnv) (c : Cell) : CellResult :=
  let x := XFields.of xs
  c.floatLanes x o.dst [c.operand v (xRow x) o.srcA, c.operand v (xRow x) o.srcB] true (fun F m rho l => fpAdd F m rho (l 0 0) (l 1 0))
/-- CELL_FSUB (R292). -/
def cellFsubEffect (o : WBin) (xs : List XPay) (v : CellEnv) (c : Cell) : CellResult :=
  let x := XFields.of xs
  c.floatLanes x o.dst [c.operand v (xRow x) o.srcA, c.operand v (xRow x) o.srcB] true (fun F m rho l => fpSub F m rho (l 0 0) (l 1 0))
/-- CELL_FMUL (R292). -/
def cellFmulEffect (o : WBin) (xs : List XPay) (v : CellEnv) (c : Cell) : CellResult :=
  let x := XFields.of xs
  c.floatLanes x o.dst [c.operand v (xRow x) o.srcA, c.operand v (xRow x) o.srcB] true (fun F m rho l => fpMul F m rho (l 0 0) (l 1 0))
/-- CELL_FMA (R292): the destination's old lanes are the addend. -/
def cellFmaEffect (o : WBin) (xs : List XPay) (v : CellEnv) (c : Cell) : CellResult :=
  let x := XFields.of xs
  c.floatLanes x o.dst [c.operand v (xRow x) o.srcA, c.operand v (xRow x) o.srcB, c.operand v (xRow x) o.dst] true
    (fun F m rho l => fpFma F m rho (l 0 0) (l 1 0) (l 2 0))
/-- CELL_FMIN (R47, R292). -/
def cellFminEffect (o : WBin) (xs : List XPay) (v : CellEnv) (c : Cell) : CellResult :=
  let x := XFields.of xs
  c.floatLanes x o.dst [c.operand v (xRow x) o.srcA, c.operand v (xRow x) o.srcB] false (fun F _ _ l => fpMinMax F false (l 0 0) (l 1 0))
/-- CELL_FMAX (R47, R292). -/
def cellFmaxEffect (o : WBin) (xs : List XPay) (v : CellEnv) (c : Cell) : CellResult :=
  let x := XFields.of xs
  c.floatLanes x o.dst [c.operand v (xRow x) o.srcA, c.operand v (xRow x) o.srcB] false (fun F _ _ l => fpMinMax F true (l 0 0) (l 1 0))
/-- FDIV (R292). -/
def cellFdiv (o : WBin) (xs : List XPay) (v : CellEnv) (c : Cell) : CellResult :=
  let x := XFields.of xs
  c.floatLanes x o.dst [c.operand v (xRow x) o.srcA, c.operand v (xRow x) o.srcB] true (fun F m rho l => fpDiv F m rho (l 0 0) (l 1 0))
/-- FRCP (R292). -/
def cellFrcp (o : WUnary) (xs : List XPay) (v : CellEnv) (c : Cell) : CellResult :=
  let x := XFields.of xs
  c.floatLanes x o.dst [c.operand v (xRow x) o.srcA] true (fun F m rho l => fpDiv F m rho F.one (l 0 0))
/-- FRSQ (R292). -/
def cellFrsq (o : WUnary) (xs : List XPay) (v : CellEnv) (c : Cell) : CellResult :=
  let x := XFields.of xs
  c.floatLanes x o.dst [c.operand v (xRow x) o.srcA] true (fun F m rho l => fpRsqrt F m rho (l 0 0))
/-- FSQRT (R292). -/
def cellFsqrt (o : WUnary) (xs : List XPay) (v : CellEnv) (c : Cell) : CellResult :=
  let x := XFields.of xs
  c.floatLanes x o.dst [c.operand v (xRow x) o.srcA] true (fun F m rho l => fpSqrt F m rho (l 0 0))
/-- FEXP2 (R292). -/
def cellFexp2 (o : WUnary) (xs : List XPay) (v : CellEnv) (c : Cell) : CellResult :=
  let x := XFields.of xs
  c.floatLanes x o.dst [c.operand v (xRow x) o.srcA] true (fun F m rho l => fpExp2 F m rho (l 0 0))
/-- FLOG2 (R292). -/
def cellFlog2 (o : WUnary) (xs : List XPay) (v : CellEnv) (c : Cell) : CellResult :=
  let x := XFields.of xs
  c.floatLanes x o.dst [c.operand v (xRow x) o.srcA] true (fun F m rho l => fpLog2 F m rho (l 0 0))

/-- The sign of FSGN's result (R293). -/
def signOp (F : FloatFmt) (md : BitVec 2) (a b : Nat) : Nat :=
  F.withSign (match md.toNat with
    | 0 => F.neg b
    | 1 => !F.neg b
    | 2 => F.neg a != F.neg b
    | _ => false) (F.mag a)

/-- FSGN (R293). -/
def cellFsgn (o : WBinMod) (xs : List XPay) (v : CellEnv) (c : Cell) : CellResult :=
  let x := XFields.of xs
  let b := if o.md = 3 then 0 else c.operand v (xRow x) o.srcB
  c.floatLanes x o.dst [c.operand v (xRow x) o.srcA, b] false (fun F _ _ l => (signOp F o.md (l 0 0) (l 1 0), 0))

/-- The lane mask of outcomes, and q[QI] by .L0 and .ALL (R294). -/
def Cell.putMask (c : Cell) (x : XFields) (dst : BitVec 5) (w : Nat) (outs : List Bool) : Cell :=
  let q := if x.spec.getLsbD 1 then outs.headD false else if x.spec.getLsbD 0 then outs.all (fun b => b) else outs.any (fun b => b)
  (c.put (xRow x) dst (packLanes w (outs.map (fun b => if b then 2 ^ w - 1 else 0)))).setQ x.qi.toNat q

/-- CELL_FCMP (R246, R294). -/
def cellFcmpEffect (o : WBinMod) (xs : List XPay) (v : CellEnv) (c : Cell) : CellResult :=
  let x := XFields.of xs
  let F := xFloat x
  let a := c.operand v (xRow x) o.srcA
  let b := c.operand v (xRow x) o.srcB
  if anyVerdict F a || anyVerdict F b then .error (0x20, 0)
  else
    let rs := (List.range (256 / F.width)).map (fun i => fpCompare F o.md.toNat (laneOf a F.width i) (laneOf b F.width i))
    .ok ((c.putMask x o.dst F.width (rs.map (fun r => r.1))).orFlags (rs.foldl (fun f r => f ||| r.2) 0))

/-- FSEL (R295). -/
def cellFsel (o : WBinMod) (xs : List XPay) (v : CellEnv) (c : Cell) : CellResult :=
  let x := XFields.of xs
  let w := (xFloat x).width
  let a := c.operand v (xRow x) o.srcA
  let b := c.operand v (xRow x) o.srcB
  let d := c.operand v (xRow x) o.dst
  if o.md = 0 then .ok (c.put (xRow x) o.dst (if c.getQ x.qi.toNat then a else b))
  else .ok (c.put (xRow x) o.dst (packLanes w ((List.range (256 / w)).map (fun i =>
    if 2 ^ (w - 1) ≤ laneOf d w i then laneOf a w i else laneOf b w i))))

/-- The running sum of FSUM: each step adds one lane (R61, R296). -/
def sumLanes (F : FloatFmt) (mode : Nat) : Nat → BitVec 8 → BitVec 32 → List Nat → Nat × BitVec 8 × BitVec 32
  | t, fl, s, [] => (t, fl, s)
  | t, fl, s, a :: as =>
    let s' := if mode = rndRSR then nextRandom s else s
    let r := fpAdd F mode (if mode = rndRSR then randomBits s' else 0) t a
    sumLanes F mode r.1 (fl ||| r.2) s' as

/-- FSUM, FSUM.ACC (R296). -/
def cellFsum (o : WUnaryMod) (xs : List XPay) (v : CellEnv) (c : Cell) : CellResult :=
  let x := XFields.of xs
  let F := xFloat x
  let a := c.operand v (xRow x) o.srcA
  let d := laneOf (c.operand v (xRow x) o.dst) F.width 0
  let ls := lanesIn a F.width (256 / F.width)
  if anyVerdict F a || (o.md = 1 && (F.verdict d).isSome) then .error (0x20, 0)
  else
    let r := if o.md = 1 then sumLanes F x.rnd.toNat d 0 c.s ls else sumLanes F x.rnd.toNat (ls.headD 0) 0 c.s ls.tail
    .ok (({ c with s := r.2.2 }.put (xRow x) o.dst (packLanes F.width [r.1])).orFlags r.2.1)

/-! ### Integer (R297, R298) -/

/-- A lane-wise integer result on two's complement lanes. DESIGN CHOICE (log 78): it draws no number from
S, also where an X slot gives RND = RSR: R282 lets the elements an instruction rounds draw, and an exact
or clamped integer is not rounded; the moves draw none for the same reason. -/
def Cell.intLanes (c : Cell) (v : CellEnv) (xs : List XPay) (dst srcA srcB : BitVec 5) (f : Nat → Nat → Nat → Nat) : CellResult :=
  let w := fmtWidth (xFmt (XFields.of xs) fmtINT32)
  let a := c.operand v 0 srcA
  let b := c.operand v 0 srcB
  .ok (c.put 0 dst (packLanes w ((List.range (256 / w)).map (fun i => f w (laneOf a w i) (laneOf b w i)))))

/-- An exact integer to w bits: its low bits, or clamped to the signed range. -/
def satInt (sat : Bool) (w : Nat) (r : Int) : Nat :=
  twos w (if sat then max (-(2 ^ (w - 1))) (min (2 ^ (w - 1) - 1) r) else r)

/-- IADD (R297). -/
def cellIadd (o : WBinMod) (xs : List XPay) (v : CellEnv) (c : Cell) : CellResult :=
  c.intLanes v xs o.dst o.srcA o.srcB (fun w a b => satInt (o.md == 1) w (signExt w a + signExt w b))
/-- ISUB (R297). -/
def cellIsub (o : WBinMod) (xs : List XPay) (v : CellEnv) (c : Cell) : CellResult :=
  c.intLanes v xs o.dst o.srcA o.srcB (fun w a b => satInt (o.md == 1) w (signExt w a - signExt w b))
/-- IMUL (R297). -/
def cellImul (o : WBinMod) (xs : List XPay) (v : CellEnv) (c : Cell) : CellResult :=
  c.intLanes v xs o.dst o.srcA o.srcB (fun w a b => satInt (o.md == 1) w (signExt w a * signExt w b))
/-- IAND (R297). -/
def cellIand (o : WBin) (xs : List XPay) (v : CellEnv) (c : Cell) : CellResult :=
  c.intLanes v xs o.dst o.srcA o.srcB (fun _ a b => a &&& b)
/-- IOR (R297). -/
def cellIor (o : WBin) (xs : List XPay) (v : CellEnv) (c : Cell) : CellResult :=
  c.intLanes v xs o.dst o.srcA o.srcB (fun _ a b => a ||| b)
/-- IXOR (R297). -/
def cellIxor (o : WBin) (xs : List XPay) (v : CellEnv) (c : Cell) : CellResult :=
  c.intLanes v xs o.dst o.srcA o.srcB (fun _ a b => a ^^^ b)
/-- ISHL (R297). -/
def cellIshl (o : WBin) (xs : List XPay) (v : CellEnv) (c : Cell) : CellResult :=
  c.intLanes v xs o.dst o.srcA o.srcB (fun w a b => a * 2 ^ (b % w))
/-- ISHR (R297). -/
def cellIshr (o : WBin) (xs : List XPay) (v : CellEnv) (c : Cell) : CellResult :=
  c.intLanes v xs o.dst o.srcA o.srcB (fun w a b => a / 2 ^ (b % w))
/-- ISRA (R297). -/
def cellIsra (o : WBin) (xs : List XPay) (v : CellEnv) (c : Cell) : CellResult :=
  c.intLanes v xs o.dst o.srcA o.srcB (fun w a b => twos w (signExt w a / 2 ^ (b % w)))

/-- Unsigned with .U, else signed. -/
def intBelow (uns : Bool) (w a b : Nat) : Bool := if uns then decide (a < b) else decide (signExt w a < signExt w b)

/-- IMIN (R297). -/
def cellImin (o : WBinMod) (xs : List XPay) (v : CellEnv) (c : Cell) : CellResult :=
  c.intLanes v xs o.dst o.srcA o.srcB (fun w a b => if intBelow (o.md == 1) w b a then b else a)
/-- IMAX (R297). -/
def cellImax (o : WBinMod) (xs : List XPay) (v : CellEnv) (c : Cell) : CellResult :=
  c.intLanes v xs o.dst o.srcA o.srcB (fun w a b => if intBelow (o.md == 1) w a b then b else a)

/-- The conditions of ICMP (R298). -/
def cellIntCond (md : BitVec 2) (w a b : Nat) : Bool :=
  match md.toNat with
  | 0 => a == b
  | 1 => intBelow false w a b
  | 2 => !intBelow false w b a
  | _ => intBelow true w a b

/-- ICMP (R298). -/
def cellIcmp (o : WBinMod) (xs : List XPay) (v : CellEnv) (c : Cell) : CellResult :=
  let x := XFields.of xs
  let w := fmtWidth (xFmt x fmtINT32)
  let a := c.operand v 0 o.srcA
  let b := c.operand v 0 o.srcB
  .ok (c.putMask x o.dst w ((List.range (256 / w)).map (fun i => cellIntCond o.md w (laneOf a w i) (laneOf b w i))))

/-! ### Conversion and predicates (R299 to R301) -/

/-- CVT (R299): one draw for each element under RSR, copied elements too. -/
def cellCvt (o : WCvt) (xs : List XPay) (v : CellEnv) (c : Cell) : CellResult :=
  let x := XFields.of xs
  let ws := fmtWidth x.fmtA
  let wd := fmtWidth x.fmtB
  let a := c.operand v 0 o.srcA
  let n := min (256 / ws) (256 / wd)
  let p := o.part.toNat
  let src := fun (i : Nat) => if ws ≤ wd then laneOf a ws (p * n + i) else laneOf a ws i
  if (List.range n).any (fun i => verdictLane x.fmtA x.fmtB (src i)) then .error (0x20, 1)
  else
    let r := drawLanes (x.rnd == 4) (fun i rho => convertElem x.fmtA x.fmtB x.rnd.toNat rho 0 (src i)) n 0 c.s
    let old := c.operand v 0 o.dst
    let out := if ws ≤ wd then r.1
      else (List.range (256 / wd)).map (fun i => if p * n ≤ i && i < p * n + n then r.1.getD (i - p * n) 0 else laneOf old wd i)
    .ok (({ c with s := r.2.2 }.put 0 o.dst (packLanes wd out)).orFlags r.2.1)
where
  /-- A verdict word given to a conversion to a format that has none (R40, R435). -/
  verdictLane (src dst : BitVec 4) (c : Nat) : Bool :=
    (match floatFmt src with | some F => (F.verdict c).isSome | none => false) && !(dst == fmtFP32 || dst == fmtBF16 || dst == fmtFP16)

/-- QLOG (R300). -/
def cellQlog (o : WQlog) (_xs : List XPay) (_v : CellEnv) (c : Cell) : CellResult :=
  let a := c.getQ o.srcA.toNat
  let b := c.getQ o.srcB.toNat
  .ok (c.setQ o.dst.toNat (match o.md.toNat with | 0 => a && b | 1 => a || b | 2 => xor a b | _ => a && !b))

/-- QSET (R301). -/
def cellQset (o : WQset) (xs : List XPay) (v : CellEnv) (c : Cell) : CellResult :=
  let x := XFields.of xs
  let w := fmtWidth (xFmt x fmtINT32)
  let ls := lanesIn (c.operand v 0 o.srcA) w (256 / w)
  .ok (c.setQ x.qi.toNat (match o.md.toNat with
    | 0 => ls.any (fun l => l != 0)
    | 1 => ls.all (fun l => l != 0)
    | 2 => false
    | _ => true))

end Sys2Proof.Machine
end

