-- ==== Sys2Proof/Machine/Accum.lean ====
section
/-! DEFINITION. The MAC block, the verdict monitor and the accumulators of a cell (R58 to R60, R318 to R335, R435). No effect
writes anything before every check of R435 has passed. -/

namespace Sys2Proof.Machine

/-! ### Promotion (R58, R323) -/

/-- c + v × 2^k with one rounding, to FP32 under RNE (R58). -/
def addScaled (c : Nat) (v k : Int) : Rounded :=
  match nanOf fp32 [c] with
  | some r => r
  | none => if fp32.isInf c then (c, 0) else roundTo fp32 rndRNE 0 (Exact.add rndRNE (fp32.value c) (Exact.ofInt v k false))

/-- One element promoted with block scales ea and eb and the widths of its pair; INT8 uses 2^0 and no scale. -/
def promoteElem (wa wb ea eb c : Nat) (v : Int) : Rounded :=
  if wa = 0 then addScaled c v 0
  else if ea = 255 || eb = 255 then (if fp32.isNaN c then c else fp32.nan, 0)
  else addScaled c v ((ea : Int) - 127 - ((wa : Int) - 2) + ((eb : Int) - 127 - ((wb : Int) - 2)))

/-- The elements of accumulator k that are decided: those of the cell's VA only (R326). -/
def Cell.decided (c : Cell) (k : Nat) : BitVec 64 :=
  match c.va with
  | some a => if a.acc = k then a.below ||| a.above else 0
  | none => 0

/-- The verdict word of a decided element of accumulator k: 1 below, 2 above. -/
def Cell.verdictOf (c : Cell) (k e : Nat) : Nat :=
  match c.va with
  | some a => if a.acc = k then (if a.below.getLsbD e then 1 else if a.above.getLsbD e then 2 else 0) else 0
  | none => 0

/-- An element of accumulator k that is read holds a verdict word; `dec` are not read (R435, 0x20 DETAIL 5). -/
def Cell.holdsVerdict (c : Cell) (k : Nat) (dec : BitVec 64) : Bool :=
  (List.range 64).any (fun e => !dec.getLsbD e && (fp32.verdict ((c.acc k).elem e)).isSome)

/-- Elements promoted, but for those that keep their value and inner sum; KC becomes 0 (R58). -/
def Cell.promoteBut (c : Cell) (k : Nat) (dec : BitVec 64) : Cell :=
  let a := c.acc k
  let r := (List.range 64).map (fun e =>
    if dec.getLsbD e then (a.elem e, (0 : BitVec 8))
    else promoteElem a.widthA a.widthB c.scaleA.toNat c.scaleB.toNat (a.elem e) (a.innerSum e))
  (c.setAcc k { a with
    el := packElems (r.map (fun x => x.1))
    inner := packSums ((List.range 64).map (fun e => if dec.getLsbD e then a.innerSum e else 0))
    kc := 0 }).orFlags (r.foldl (fun f x => f ||| x.2) 0)

/-- Promote(c): every element takes its inner sum; the sums and KC become 0 (R58, R323). -/
def Cell.promote (c : Cell) (k : Nat) : Cell := c.promoteBut k 0
/-- MACV promotes the undecided elements (R329). -/
def Cell.promoteOpen (c : Cell) (k : Nat) : Cell := c.promoteBut k (c.decided k)

/-- ACCRD, ACCWR and AMAX first promote a pending inner sum, whose elements may hold no verdict word (R323, R435). -/
def Cell.settle (c : Cell) (k : Nat) : CellResult :=
  if (c.acc k).kc = 0 then .ok c
  else if c.holdsVerdict k 0 then .error (0x20, 5)
  else .ok (c.promote k)

/-! ### MAC, MACS, MACV (R320 to R325, R329) -/

/-- Element width of an MX format as an accumulator records it; 0 for INT8. -/
def pairWidth (f : BitVec 4) : Nat := if isMx f then mxWidth f else 0

/-- The signed codes of a fragment of 32 elements. -/
def fragCodes (f : BitVec 4) (v : BitVec 256) : List Int :=
  let n := if isMx f then mxWidth f else 8
  (lanesIn v n 32).map (signExt n)

/-- Checks common to MAC, MACS and MACV before their own: the bias sum against a set latch (R435). -/
def Cell.biasBad (c : Cell) (k : Nat) (beta : Int) : Bool :=
  match (c.acc k).bias with
  | some l => decide (l.toInt ≠ beta)
  | none => false

/-- An active VA: from VBEG until DONE reaches NB or an ACCZ names it (R435). -/
def Cell.active (c : Cell) (k : Nat) : Bool :=
  match c.va with
  | some a => a.acc == k && decide (a.done < a.nb)
  | none => false

/-- The cause that stops a MAC or MACS on accumulator k, of the float class or adding n reduction indices (R435). -/
def Cell.macFault (c : Cell) (k : Nat) (beta : Int) (float : Bool) (n : Nat) : Option (Nat × Nat) :=
  let kc := (c.acc k).kc
  if c.biasBad k beta then some (0x22, 0)
  else if float && kc != 0 then some (0x23, 0)
  else if c.active k then some (0x23, 1)
  else if !float && decide (32 < kc + n) then some (0x23, 5)
  else if (float || kc + n == 32) && c.holdsVerdict k 0 then some (0x20, 5)
  else none

/-- A bias latch that is unset takes the bias sum (R38, R318). -/
def AccState.latch (a : AccState) (beta : Int) : AccState :=
  match a.bias with
  | some _ => a
  | none => { a with bias := some (BitVec.ofInt 17 beta) }

/-- The accumulator after exact products have been added to its inner sums; sums of decided elements stay. -/
def AccState.addSums (a : AccState) (dec : BitVec 64) (wa wb n : Nat) (f : Nat → Int) : AccState :=
  { a with
    inner := packSums ((List.range 64).map (fun e => if dec.getLsbD e then a.innerSum e else a.innerSum e + f e))
    kc := a.kc + n
    widthA := wa
    widthB := wb }

/-- Promotion when KC has come to 32. -/
def Cell.promoteFull (c : Cell) (k : Nat) : Cell := if (c.acc k).kc = 32 then c.promote k else c

/-- The hand-off of .H (R322). -/
def Cell.handOff (c : Cell) (hand : Bool) (a b : BitVec 256) : Cell := if hand then { c with h0 := a, h1 := b } else c

/-- One step of the float class: C + a × b to FP32 with one rounding, NaNs in the order a, b, C (R46, R60). -/
def macTerm (Fa Fb : FloatFmt) (mode rho a b c : Nat) : Rounded :=
  let nv := if Fa.isSNaN a || Fb.isSNaN b || fp32.isSNaN c then flagNV else 0
  if Fa.isNaN a then (fp32.quiet (nanConvert Fa fp32 a), nv)
  else if Fb.isNaN b then (fp32.quiet (nanConvert Fb fp32 b), nv)
  else if fp32.isNaN c then (fp32.quiet c, nv)
  else
    let neg := Fa.neg a != Fb.neg b
    if Fa.isInf a || Fb.isInf b then
      if Fa.isZero a || Fb.isZero b || (fp32.isInf c && fp32.neg c != neg) then (fp32.nan, flagNV)
      else (fp32.withSign neg fp32.infCode, 0)
    else if fp32.isInf c then (c, 0)
    else roundTo fp32 mode rho (Exact.add mode ((Fa.value a).mul (Fb.value b)) (fp32.value c))

/-- Steps of the float class in order, each on one element: (element, a, b). -/
def macSteps (Fa Fb : FloatFmt) (mode : Nat) : List (Nat × Nat × Nat) → List Nat → BitVec 8 → BitVec 32 →
    List Nat × BitVec 8 × BitVec 32
  | [], el, fl, s => (el, fl, s)
  | (e, a, b) :: rest, el, fl, s =>
    let s' := if mode = rndRSR then nextRandom s else s
    let r := macTerm Fa Fb mode (if mode = rndRSR then randomBits s' else 0) a b (el.getD e 0)
    macSteps Fa Fb mode rest (el.set e r.1) (fl ||| r.2) s'

/-- The float class on accumulator k. -/
def Cell.macFloat (c : Cell) (k : Nat) (fa fb : BitVec 4) (mode : Nat) (beta : Int) (steps : List (Nat × Nat × Nat)) : Cell :=
  let a := (c.acc k).latch beta
  let r := macSteps ((floatFmt fa).getD fp32) ((floatFmt fb).getD fp32) mode steps ((List.range 64).map a.elem) 0 c.s
  (({ c with s := r.2.2 } : Cell).setAcc k { a with el := packElems r.1 }).orFlags r.2.1

/-- MAC (R322). -/
def cellMac (o : WMac) (xs : List XPay) (v : CellEnv) (c : Cell) : CellResult :=
  let x := XFields.of xs
  let fa := macFmtA x
  let fb := macFmtB x
  let k := o.acc.toNat
  let a := c.operand v 0 o.srcA
  let b := c.operand v 0 o.srcB
  let w := fmtWidth fa
  let float := !isIntPair fa fb
  let half := fa == fmtBF16 || fa == fmtFP16
  if half && (anyVerdict ((floatFmt fa).getD fp32) a || anyVerdict ((floatFmt fb).getD fp32) b) then .error (0x20, 2)
  else match c.macFault k v.beta float 4 with
    | some e => .error e
    | none =>
      if float then
        let kp := if half then 2 else 4
        let ks := if half then [o.hi.toNat] else [0, 1, 2, 3]
        let steps := ks.flatMap (fun kk => (List.range 64).map (fun e => (e, laneOf a w (kp * (e / 8) + kk), laneOf b w (8 * kk + e % 8))))
        .ok ((c.macFloat k fa fb x.rnd.toNat v.beta steps).handOff o.hand a b)
      else
        let ca := fragCodes fa a
        let cb := fragCodes fb b
        let sum := fun (e : Nat) => ([0, 1, 2, 3] : List Nat).foldl (fun t kk =>
          t + ca.getD (4 * (e / 8) + kk) 0 * cb.getD (8 * kk + e % 8) 0) 0
        .ok (((c.setAcc k (((c.acc k).latch v.beta).addSums 0 (pairWidth fa) (pairWidth fb) 4 sum)).promoteFull k).handOff o.hand a b)

/-- The dense indices that a mask keeps in row i, ascending; none unless every group of the row keeps half (R116, R325). -/
def maskRow (p24 : Bool) (mask : BitVec 256) (i : Nat) : Option (List Nat) :=
  let ks := (List.range 8).filter (fun k => mask.getLsbD (8 * i + k))
  let low := (ks.filter (fun k => k < 4)).length
  if p24 then (if low = 2 && ks.length = 4 then some ks else none) else if ks.length = 4 then some ks else none

/-- MACS (R325). -/
def cellMacs (o : WMacH) (xs : List XPay) (v : CellEnv) (c : Cell) : CellResult :=
  let x := XFields.of xs
  let fa := x.fmtA
  let k := o.acc.toNat
  let a := c.operand v 0 o.srcA
  let lo := c.operand v 0 o.srcB
  let hi := c.operand v 0 (o.srcB + 1)
  let mask := c.frag (x.spec.extractLsb' 0 4).toNat
  let rows := (List.range 8).map (maskRow (x.spec.getLsbD 5) mask)
  let float := isF8 fa
  if rows.any (fun r => r.isNone) then .error (0x21, 1)
  else match c.macFault k v.beta float 8 with
    | some e => .error e
    | none =>
      let kept := fun (i : Nat) => ((rows.getD i none).getD [])
      let bLane := fun (kk j : Nat) => laneOf (if kk < 4 then lo else hi) 8 (8 * (kk % 4) + j)
      if float then
        let steps := (List.range 8).flatMap (fun i => (List.range 4).flatMap (fun n => (List.range 8).map (fun j =>
          (8 * i + j, laneOf a 8 (4 * i + n), bLane ((kept i).getD n 0) j))))
        .ok ((c.macFloat k fa fa x.rnd.toNat v.beta steps).handOff o.hand a lo)
      else
        let sum := fun (e : Nat) => (List.range 4).foldl (fun t n =>
          t + signExt 8 (laneOf a 8 (4 * (e / 8) + n)) * signExt 8 (bLane ((kept (e / 8)).getD n 0) (e % 8))) 0
        .ok (((c.setAcc k (((c.acc k).latch v.beta).addSums 0 (pairWidth fa) (pairWidth fa) 8 sum)).promoteFull k).handOff o.hand a lo)

/-- The verdict on one element after a promotion: 1 below, 2 above, 0 none (R329). -/
def monitor (va : VerdictAcc) (thr : Nat) (ta tb : Nat) (latch : Int) (code : Nat) : Nat :=
  let t := if va.pred = 2 then thr else 0
  if fp32.isNaN code || fp32.isInf code || fp32.isNaN t then 0
  else
    let s := (fp32.value code).scale latch
    let rem := va.nb - va.done
    let bound : Exact := ⟨false, rem, (ta : Int) + tb - 247, false⟩
    let mag := Exact.add rndRNE { s with neg := false } bound
    let allow : Exact := ⟨false, va.nb * mag.mant, mag.exp - 23, false⟩
    let reach := Exact.add rndRNE bound allow
    let hi := (roundTo fp32 rndRUP 0 (Exact.add rndRNE s reach)).1
    let lo := (roundTo fp32 rndRDN 0 (Exact.add rndRNE s reach.negate)).1
    if fpLt fp32 hi t then 1 else if va.pred = 0 && fpLt fp32 t lo then 2 else 0

/-- The verdict state after the monitor has looked at every undecided element of accumulator k. -/
def Cell.judge (c : Cell) (k : Nat) (va : VerdictAcc) : VerdictAcc :=
  let a := c.acc k
  let latch := (a.bias.map BitVec.toInt).getD 0
  (List.range 64).foldl (fun w e =>
    if (va.below ||| va.above).getLsbD e then w
    else match monitor va c.vthr.toNat c.tailA.toNat c.tailB.toNat latch (a.elem e) with
      | 1 => { w with below := w.below ||| (1#64 <<< e) }
      | 2 => { w with above := w.above ||| (1#64 <<< e) }
      | _ => w) va

/-- MACV (R329). -/
def cellMacv (o : WMacH) (xs : List XPay) (v : CellEnv) (c : Cell) : CellResult :=
  let x := XFields.of xs
  let fa := macFmtA x
  let fb := macFmtB x
  let k := o.acc.toNat
  let a := c.operand v 0 o.srcA
  let b := c.operand v 0 o.srcB
  let kc := (c.acc k).kc
  if c.biasBad k v.beta then .error (0x22, 0)
  else match c.va with
    | none => .error (0x23, 3)
    | some va =>
      if va.acc ≠ k then .error (0x23, 3)
      else if va.nb ≤ va.done then .error (0x23, 2)
      else if 32 < kc + 4 then .error (0x23, 5)
      else if kc + 4 = 32 && c.holdsVerdict k (c.decided k) then .error (0x20, 5)
      else
        let ca := fragCodes fa a
        let cb := fragCodes fb b
        let sum := fun (e : Nat) => ([0, 1, 2, 3] : List Nat).foldl (fun t kk =>
          t + ca.getD (4 * (e / 8) + kk) 0 * cb.getD (8 * kk + e % 8) 0) 0
        let c1 := (c.setAcc k (((c.acc k).latch v.beta).addSums (c.decided k) (pairWidth fa) (pairWidth fb) 4 sum)).handOff o.hand a b
        if kc + 4 = 32 then
          let c2 := c1.promoteOpen k
          let va2 := c2.judge k { va with done := va.done + 1 }
          .ok (({ c2 with va := some va2 } : Cell).setQ x.qi.toNat (va2.below ||| va2.above == BitVec.allOnes 64))
        else .ok c1

/-- SCL (R324). -/
def cellScl (o : WScl) (v : CellEnv) (c : Cell) : CellResult :=
  let a := c.operand v 0 o.srcA
  let b := c.operand v 0 o.srcB
  .ok (({ c with scaleA := a.extractLsb' 0 8, tailA := a.extractLsb' 8 8, scaleB := b.extractLsb' 0 8, tailB := b.extractLsb' 8 8 } :
    Cell).handOff o.hand a b)

/-! ### Verdicts and accumulator access (R327, R328, R330 to R335) -/

/-- VBEG (R327). -/
def cellVbeg (o : WVbeg) (xs : List XPay) (v : CellEnv) (c : Cell) : CellResult :=
  let x := XFields.of xs
  .ok (({ c with
    va := some { acc := o.acc.toNat, pred := o.md.toNat, nb := (v.x0.setWidth 16).toNat, done := 0, below := 0, above := 0 }
    vthr := if o.md = 2 then v.x1.setWidth 32 else 0 } : Cell).setQ x.qi.toNat false)

/-- VTHR (R328). -/
def cellVthr (_o : WVthr) (v : CellEnv) (c : Cell) : CellResult :=
  let t := (v.x0.setWidth 32).toNat
  if fp32.isNaN t then .ok c else .ok { c with vthr := BitVec.ofNat 32 (fpMinMax fp32 true c.vthr.toNat t).1 }

/-- ACCZ (R330): of the VA, it ends the verdict state. -/
def cellAccz (o : WAccz) (_v : CellEnv) (c : Cell) : CellResult :=
  let k := o.acc.toNat
  let c1 := c.setAcc k AccState.reset
  .ok (match c.va with
    | some a => if a.acc = k then { c1 with va := none } else c1
    | none => c1)

/-- An element as ACCRD reads it: the verdict word of a decided element, else C × 2^sh converted once (R38, R331). -/
def accRead (f : BitVec 4) (mode : Nat) (sh : Int) (verdict code rho : Nat) : Rounded :=
  match floatFmt f with
  | some F => if verdict ≠ 0 then (F.verdictCode verdict, 0) else scaled
  | none => scaled
where
  /-- Convert of the scaled element. -/
  scaled : Rounded :=
    if fp32.isNaN code || fp32.isInf code then (if f = fmtFP32 then (code, 0) else specialTo fp32 f code)
    else exactTo f mode rho ((fp32.value code).scale sh)

/-- ACCRD (R331). Under RSR one draw is made for each lane that is converted, so none where .FWD passes a neighbour's register on (DESIGN
CHOICE, assumption 114). A verdict word read in another format than FP32, BF16 or FP16 is misuse, decided or not (R344). -/
def cellAccrd (o : WAccrd) (xs : List XPay) (v : CellEnv) (c : Cell) : CellResult :=
  let x := XFields.of xs
  let f := xFmt x fmtFP32
  let k := o.acc.toNat
  let w := fmtWidth f
  let rp := 32 / w
  let row0 := rp * (xRow x % (8 / rp))
  let es := (List.range (8 * rp)).map (fun i => 8 * row0 + i)
  let dec := c.decided k
  if o.fwd && !c.getQ x.qi.toNat then
    match c.settle k with
    | .error e => .error e
    | .ok c1 => .ok (c1.put 0 o.dst (if o.dst = 20 then v.w0 else v.n1))
  else
    let narrow := !(f == fmtFP32 || f == fmtBF16 || f == fmtFP16)
    if narrow && es.any (fun e => dec.getLsbD e) then .error (0x20, 4)
    else match c.settle k with
      | .error e => .error e
      | .ok c1 =>
        let a := c1.acc k
        if narrow && es.any (fun e => (fp32.verdict (a.elem e)).isSome) then .error (0x20, 4)
        else
          let sh := (a.bias.map BitVec.toInt).getD 0 - (v.x1.setWidth 16).toInt
          let r := drawLanes (x.rnd == 4) (fun i rho => accRead f x.rnd.toNat sh (c.verdictOf k (es.getD i 0)) (a.elem (es.getD i 0)) rho)
            (8 * rp) 0 c1.s
          .ok ((({ c1 with s := r.2.2 } : Cell).put 0 o.dst (packLanes w r.1)).orFlags r.2.1)

/-- ACCWR (R332). -/
def cellAccwr (o : WAccwr) (xs : List XPay) (v : CellEnv) (c : Cell) : CellResult :=
  let x := XFields.of xs
  let k := o.acc.toNat
  let a := c.operand v 0 o.srcA
  if anyVerdict fp32 a then .error (0x20, 3)
  else match c.settle k with
    | .error e => .error e
    | .ok c1 =>
      let keep : BitVec 64 := ~~~(0xFF#64 <<< (8 * xRow x))
      let c2 := c1.setAcc k { (c1.acc k).setRow (xRow x) a with bias := none }
      .ok { c2 with va := c2.va.map (fun w => if w.acc = k then { w with below := w.below &&& keep, above := w.above &&& keep } else w) }

/-- RoundUp(|C × 2^latch|, FP32) (R333). -/
def amaxElem (code : Nat) (latch : Int) : Nat :=
  if fp32.isInf code then fp32.infCode else (roundTo fp32 rndRUP 0 { (fp32.value code).scale latch with neg := false }).1

/-- AMAX, AMAX.ACC (R333). -/
def cellAmax (o : WAmax) (_xs : List XPay) (v : CellEnv) (c : Cell) : CellResult :=
  let k := o.acc.toNat
  let old := laneOf (c.operand v 0 o.dst) 32 0
  if o.accum && (fp32.verdict old).isSome then .error (0x20, 5)
  else match c.settle k with
    | .error e => .error e
    | .ok c1 =>
      let a := c1.acc k
      let latch := (a.bias.map BitVec.toInt).getD 0
      let m := (List.range 64).foldl (fun m e =>
        if (c.decided k).getLsbD e || fp32.isNaN (a.elem e) then m else (fpMinMax fp32 true m (amaxElem (a.elem e) latch)).1) 0
      .ok (c1.put 0 o.dst (packLanes 32 [if o.accum then (fpMinMax fp32 true m old).1 else m]))

/-- The test that VTEST and VSEL make of a lane: 0 any verdict, 1 below, 2 above, 3 none (R334, R335). -/
def verdictTest (F : FloatFmt) (md : BitVec 2) (c : Nat) : Bool :=
  match md.toNat with
  | 0 => (F.verdict c).isSome
  | 1 => F.verdict c == some 1
  | 2 => F.verdict c == some 2
  | _ => (F.verdict c).isNone

/-- VTEST (R334). -/
def cellVtest (o : WUnaryMod) (xs : List XPay) (v : CellEnv) (c : Cell) : CellResult :=
  let x := XFields.of xs
  let F := xFloat x
  .ok (c.putMask x o.dst F.width ((lanesIn (c.operand v (xRow x) o.srcA) F.width (256 / F.width)).map (verdictTest F o.md)))

/-- VSEL of a cell (R335). -/
def cellVselEffect (o : WBinMod) (xs : List XPay) (v : CellEnv) (c : Cell) : CellResult :=
  let x := XFields.of xs
  let F := xFloat x
  let a := c.operand v (xRow x) o.srcA
  let b := c.operand v (xRow x) o.srcB
  .ok (c.put (xRow x) o.dst (packLanes F.width ((List.range (256 / F.width)).map (fun i =>
    if verdictTest F o.md (laneOf a F.width i) then laneOf b F.width i else laneOf a F.width i))))

/-! ### The effect of a wave instruction in an executing cell (R282) -/

/-- What each wave instruction does in an executing cell; nothing for what is no wave instruction. -/
def cellEffect (i : Instr) (v : CellEnv) (c : Cell) : CellResult :=
  match i with
  | .mov o xs => cellMov o xs v c
  | .movh o xs => cellMovh o xs v c
  | .lds o xs => cellLds o xs v c
  | .sts o xs => cellSts o xs v c
  | .imm o xs => cellImm o xs v c
  | .rowcol o xs => cellRowcol o xs v c
  | .perm o xs => cellPerm o xs v c
  | .pack o xs => cellPack o xs v c
  | .unpk o xs => cellUnpk o xs v c
  | .cvt o xs => cellCvt o xs v c
  | .qlog o xs => cellQlog o xs v c
  | .qset o xs => cellQset o xs v c
  | .cellFadd o xs => cellFaddEffect o xs v c
  | .cellFsub o xs => cellFsubEffect o xs v c
  | .cellFmul o xs => cellFmulEffect o xs v c
  | .cellFma o xs => cellFmaEffect o xs v c
  | .cellFmin o xs => cellFminEffect o xs v c
  | .cellFmax o xs => cellFmaxEffect o xs v c
  | .fsgn o xs => cellFsgn o xs v c
  | .cellFcmp o xs => cellFcmpEffect o xs v c
  | .fsel o xs => cellFsel o xs v c
  | .frcp o xs => cellFrcp o xs v c
  | .frsq o xs => cellFrsq o xs v c
  | .fsqrt o xs => cellFsqrt o xs v c
  | .fdiv o xs => cellFdiv o xs v c
  | .fexp2 o xs => cellFexp2 o xs v c
  | .flog2 o xs => cellFlog2 o xs v c
  | .fsum o xs => cellFsum o xs v c
  | .iadd o xs => cellIadd o xs v c
  | .isub o xs => cellIsub o xs v c
  | .imul o xs => cellImul o xs v c
  | .iand o xs => cellIand o xs v c
  | .ior o xs => cellIor o xs v c
  | .ixor o xs => cellIxor o xs v c
  | .ishl o xs => cellIshl o xs v c
  | .ishr o xs => cellIshr o xs v c
  | .isra o xs => cellIsra o xs v c
  | .imin o xs => cellImin o xs v c
  | .imax o xs => cellImax o xs v c
  | .icmp o xs => cellIcmp o xs v c
  | .scl o => cellScl o v c
  | .mac o xs => cellMac o xs v c
  | .macs o xs => cellMacs o xs v c
  | .macv o xs => cellMacv o xs v c
  | .vbeg o xs => cellVbeg o xs v c
  | .vthr o => cellVthr o v c
  | .accz o => cellAccz o v c
  | .accrd o xs => cellAccrd o xs v c
  | .accwr o xs => cellAccwr o xs v c
  | .amax o xs => cellAmax o xs v c
  | .vtest o xs => cellVtest o xs v c
  | .cellVsel o xs => cellVselEffect o xs v c
  | _ => .ok c

end Sys2Proof.Machine
end

