-- ==== Sys2Proof/Machine/Wave.lean ====
section
/-! DEFINITION. The W and E classes as slots of a bundle (R106, R107, R122, R302 to R307, R311, R312, R319, R322 to R343, R440): what
enters the nib, what acts in the sequencer, and how the edge units are programmed. -/

namespace Sys2Proof.Machine

/-! ### The nib (R107, R122) -/

/-- A core leads its chain: its rank is the first of one (R65, R113). -/
def State.leadsChain (s : State) (n : Nat) : Bool :=
  match s.coreGang n with
  | some g => g.leads (s.core n).rank
  | none => true

/-- A W slot on a core that does not lead its chain (R440). -/
def Issuer.leading (c : Issuer) (s : State) : Except Stop Unit :=
  if s.leadsChain c.unit then .ok () else .error (.checkFault 0x16 0)

/-- A library stroke whose last instruction has not left the nib blocks W slots (R122). -/
def State.strokeOn (s : State) (n : Nat) : Bool := (s.core n).stroke.isSome

/-- The nib takes an instruction with the x values read at issue, which may leave from a cycle on; it is the last one that
entered (R106). -/
def CoreArr.enter (k : CoreArr) (i : Instr) (by_ : Issue) (x0 x1 : Word) (w : SlotWord) (since : Nat) : CoreArr :=
  { k with nib := k.nib ++ [⟨k.nextWid, i, by_, x0, x1, w, since⟩], nextWid := k.nextWid + 1, lastWid := some k.nextWid }

/-- A wave instruction: it blocks while the nib is full or a stroke expands, and enters the nib at commit (R107, R122). -/
def slotWave (i : Instr) (srcs : List (BitVec 5)) (check : Thread → Except Stop Unit) (also : Word → Word → CoreArr → CoreArr) : Slot :=
    fun c s =>
  let th := c.th s
  match c.leading s with
  | .error e => .error e
  | .ok _ =>
    if 8 ≤ (s.core c.unit).nib.length || s.strokeOn c.unit then .error .block
    else match ready th (srcs.map (fun r => (r, false))) [] with
      | .error e => .error e
      | .ok _ =>
        match check th with
        | .error e => .error e
        | .ok _ =>
          let x0 := th.getX (srcs.getD 0 0)
          let x1 := th.getX (srcs.getD 1 0)
          .ok (fun s => s.updCore c.unit (fun k => also x0 x1 (k.enter i (c.issue s 6) x0 x1 c.word (s.cycles c.unit))))

/-- A wave instruction that reads no x register. -/
def slotPlain (i : Instr) : Slot := slotWave i [] (fun _ => .ok ()) (fun _ _ k => k)

/-- MOV (R284). -/
def slotMov (o : WUnaryMod) (xs : List XPay) : Slot := slotPlain (.mov o xs)
/-- MOVH (R285). -/
def slotMovh (o : WUnaryMod) (xs : List XPay) : Slot := slotPlain (.movh o xs)
/-- LDS (R286). -/
def slotLds (o : WLds) (xs : List XPay) : Slot := slotPlain (.lds o xs)
/-- STS (R286). -/
def slotSts (o : WSts) (xs : List XPay) : Slot := slotPlain (.sts o xs)
/-- IMM (R287). -/
def slotImm (o : WImm) (xs : List XPay) : Slot := slotPlain (.imm o xs)
/-- ROWCOL (R288). -/
def slotRowcol (o : WDst) (xs : List XPay) : Slot := slotPlain (.rowcol o xs)
/-- PERM (R289). -/
def slotPerm (o : WBinMod) (xs : List XPay) : Slot := slotPlain (.perm o xs)
/-- PACK (R290). -/
def slotPack (o : WBinMod) (xs : List XPay) : Slot := slotPlain (.pack o xs)
/-- UNPK (R290). -/
def slotUnpk (o : WUnaryMod) (xs : List XPay) : Slot := slotPlain (.unpk o xs)
/-- CVT (R299). -/
def slotCvt (o : WCvt) (xs : List XPay) : Slot := slotPlain (.cvt o xs)
/-- QLOG (R300). -/
def slotQlog (o : WQlog) (xs : List XPay) : Slot := slotPlain (.qlog o xs)
/-- QSET (R301). -/
def slotQset (o : WQset) (xs : List XPay) : Slot := slotPlain (.qset o xs)
/-- CELL_FADD (R292). -/
def slotCellFadd (o : WBin) (xs : List XPay) : Slot := slotPlain (.cellFadd o xs)
/-- CELL_FSUB (R292). -/
def slotCellFsub (o : WBin) (xs : List XPay) : Slot := slotPlain (.cellFsub o xs)
/-- CELL_FMUL (R292). -/
def slotCellFmul (o : WBin) (xs : List XPay) : Slot := slotPlain (.cellFmul o xs)
/-- CELL_FMA (R292). -/
def slotCellFma (o : WBin) (xs : List XPay) : Slot := slotPlain (.cellFma o xs)
/-- CELL_FMIN (R292). -/
def slotCellFmin (o : WBin) (xs : List XPay) : Slot := slotPlain (.cellFmin o xs)
/-- CELL_FMAX (R292). -/
def slotCellFmax (o : WBin) (xs : List XPay) : Slot := slotPlain (.cellFmax o xs)
/-- FSGN (R293). -/
def slotFsgn (o : WBinMod) (xs : List XPay) : Slot := slotPlain (.fsgn o xs)
/-- CELL_FCMP (R294). -/
def slotCellFcmp (o : WBinMod) (xs : List XPay) : Slot := slotPlain (.cellFcmp o xs)
/-- FSEL (R295). -/
def slotFsel (o : WBinMod) (xs : List XPay) : Slot := slotPlain (.fsel o xs)
/-- FRCP (R292). -/
def slotFrcp (o : WUnary) (xs : List XPay) : Slot := slotPlain (.frcp o xs)
/-- FRSQ (R292). -/
def slotFrsq (o : WUnary) (xs : List XPay) : Slot := slotPlain (.frsq o xs)
/-- FSQRT (R292). -/
def slotFsqrt (o : WUnary) (xs : List XPay) : Slot := slotPlain (.fsqrt o xs)
/-- FDIV (R292). -/
def slotFdiv (o : WBin) (xs : List XPay) : Slot := slotPlain (.fdiv o xs)
/-- FEXP2 (R292). -/
def slotFexp2 (o : WUnary) (xs : List XPay) : Slot := slotPlain (.fexp2 o xs)
/-- FLOG2 (R292). -/
def slotFlog2 (o : WUnary) (xs : List XPay) : Slot := slotPlain (.flog2 o xs)
/-- FSUM (R296). -/
def slotFsum (o : WUnaryMod) (xs : List XPay) : Slot := slotPlain (.fsum o xs)
/-- IADD (R297). -/
def slotIadd (o : WBinMod) (xs : List XPay) : Slot := slotPlain (.iadd o xs)
/-- ISUB (R297). -/
def slotIsub (o : WBinMod) (xs : List XPay) : Slot := slotPlain (.isub o xs)
/-- IMUL (R297). -/
def slotImul (o : WBinMod) (xs : List XPay) : Slot := slotPlain (.imul o xs)
/-- IAND (R297). -/
def slotIand (o : WBin) (xs : List XPay) : Slot := slotPlain (.iand o xs)
/-- IOR (R297). -/
def slotIor (o : WBin) (xs : List XPay) : Slot := slotPlain (.ior o xs)
/-- IXOR (R297). -/
def slotIxor (o : WBin) (xs : List XPay) : Slot := slotPlain (.ixor o xs)
/-- ISHL (R297). -/
def slotIshl (o : WBin) (xs : List XPay) : Slot := slotPlain (.ishl o xs)
/-- ISHR (R297). -/
def slotIshr (o : WBin) (xs : List XPay) : Slot := slotPlain (.ishr o xs)
/-- ISRA (R297). -/
def slotIsra (o : WBin) (xs : List XPay) : Slot := slotPlain (.isra o xs)
/-- IMIN (R297). -/
def slotImin (o : WBinMod) (xs : List XPay) : Slot := slotPlain (.imin o xs)
/-- IMAX (R297). -/
def slotImax (o : WBinMod) (xs : List XPay) : Slot := slotPlain (.imax o xs)
/-- ICMP (R298). -/
def slotIcmp (o : WBinMod) (xs : List XPay) : Slot := slotPlain (.icmp o xs)
/-- SCL (R324). -/
def slotScl (o : WScl) : Slot := slotPlain (.scl o)
/-- MAC (R322). -/
def slotMac (o : WMac) (xs : List XPay) : Slot := slotPlain (.mac o xs)
/-- MACS (R325). -/
def slotMacs (o : WMacH) (xs : List XPay) : Slot := slotPlain (.macs o xs)
/-- MACV (R329). -/
def slotMacv (o : WMacH) (xs : List XPay) : Slot := slotPlain (.macv o xs)
/-- ACCZ (R330). -/
def slotAccz (o : WAccz) : Slot := slotPlain (.accz o)
/-- ACCRD: the output bias is read at issue (R331). -/
def slotAccrd (o : WAccrd) (xs : List XPay) : Slot := slotWave (.accrd o xs) [0, o.srcB] (fun _ => .ok ()) (fun _ _ k => k)
/-- ACCWR (R332). -/
def slotAccwr (o : WAccwr) (xs : List XPay) : Slot := slotPlain (.accwr o xs)
/-- AMAX (R333). -/
def slotAmax (o : WAmax) (xs : List XPay) : Slot := slotPlain (.amax o xs)
/-- VTEST (R334). -/
def slotVtest (o : WUnaryMod) (xs : List XPay) : Slot := slotPlain (.vtest o xs)
/-- VSEL of a cell (R335). -/
def slotCellVsel (o : WBinMod) (xs : List XPay) : Slot := slotPlain (.cellVsel o xs)

/-- VBEG: NB and the threshold are read at issue, and VTHR takes the threshold (R327, R429 kind 8). -/
def slotVbeg (o : WVbeg) (xs : List XPay) : Slot := fun c s =>
  if o.md != 2 && o.srcB != 0 then .error (.checkTrap 0x10 8 c.word)
  else
    slotWave (.vbeg o xs) [o.srcA, o.srcB]
      (fun th =>
        let nb := th.getX o.srcA
        if nb.extractLsb' 16 48 != 0 || nb.setWidth 16 == 0#16 then .error (.readTrap 0x10 8 c.word) else .ok ())
      (fun _ x1 k => { k with vthr := x1.setWidth 32 }) c s

/-- VTHR (R328). -/
def slotVthr (o : WVthr) : Slot :=
  slotWave (.vthr o) [o.srcA] (fun _ => .ok ()) (fun x0 _ k => { k with vthr := x0.setWidth 32 })

/-! ### Library strokes (R122, R336) -/

/-- A library stroke: it blocks while the nib is full or a stroke expands, and waits behind the nib. It counts as one wave instruction
(R107, R122, R228). -/
def slotStroke (i : Instr) : Slot := fun c s =>
  match c.leading s with
  | .error e => .error e
  | .ok _ =>
    if 8 ≤ (s.core c.unit).nib.length || s.strokeOn c.unit then .error .block
    else .ok (fun s => s.updCore c.unit (fun k =>
      { k with
        stroke := some { instr := i, by_ := c.issue s 6, word := c.word, wid := k.nextWid, prog := 0, maxA := 0, maxU := 0, failed := false,
                         event := false, begun := false, due := none }
        nextWid := k.nextWid + 1
        lastWid := some k.nextWid }))

/-- LUP (R338). -/
def slotLup (o : Tile1) : Slot := slotStroke (.lup o)
/-- CHOL (R339). -/
def slotChol (o : Tile1) : Slot := slotStroke (.chol o)
/-- QRH (R340). -/
def slotQrh (o : Tile2) : Slot := slotStroke (.qrh o)
/-- TRSM (R341). -/
def slotTrsm (o : TileTri) : Slot := slotStroke (.trsm o)

/-! ### Selectors and flags (R302 to R307) -/

/-- The selector register an instruction of the nib names. -/
def waveSel : Instr → BitVec 3
  | .mov o _ | .movh o _ | .unpk o _ | .fsum o _ | .vtest o _ => o.sel
  | .lds o _ => o.sel
  | .sts o _ => o.sel
  | .imm o _ => o.sel
  | .rowcol o _ => o.sel
  | .perm o _ | .pack o _ | .fsgn o _ | .cellFcmp o _ | .fsel o _ | .iadd o _ | .isub o _ | .imul o _ | .imin o _ | .imax o _ | .icmp o _
  | .cellVsel o _ => o.sel
  | .cvt o _ => o.sel
  | .qlog o _ => o.sel
  | .qset o _ => o.sel
  | .cellFadd o _ | .cellFsub o _ | .cellFmul o _ | .cellFma o _ | .cellFmin o _ | .cellFmax o _ | .fdiv o _ | .iand o _ | .ior o _
  | .ixor o _ | .ishl o _ | .ishr o _ | .isra o _ => o.sel
  | .frcp o _ | .frsq o _ | .fsqrt o _ | .fexp2 o _ | .flog2 o _ => o.sel
  | .scl o => o.sel
  | .mac o _ => o.sel
  | .macs o _ | .macv o _ => o.sel
  | .vbeg o _ => o.sel
  | .vthr o => o.sel
  | .accz o => o.sel
  | .accrd o _ => o.sel
  | .accwr o _ => o.sel
  | .amax o _ => o.sel
  | _ => 0

/-- The nib holds an instruction of the thread that names a g register (R305). -/
def State.nibNames (s : State) (u t : Nat) (g : BitVec 3) : Bool :=
  (s.core u).nib.any (fun e => e.by_.thr == t && waveSel e.instr == g)

/-- A write of a g register by SELI or SELX (R302, R305). -/
def slotSelect (dst : BitVec 3) (srcs : List (BitVec 5)) (f : Thread → Word) : Slot := fun c s =>
  let th := c.th s
  match c.leading s with
  | .error e => .error e
  | .ok _ =>
    if s.strokeOn c.unit || s.nibNames c.unit c.thr dst then .error .block
    else match ready th (srcs.map (fun r => (r, false))) [] with
      | .error e => .error e
      | .ok _ => .ok (c.commit (fun t => t.setG dst (f th)))

/-- Rows or columns 0..n of a selector field. -/
def firstBits (n : BitVec 5) : Word := BitVec.ofNat 64 (2 ^ (min 16 (n.toNat + 1)) - 1)

/-- SELI (R303). -/
def slotSeli (o : SelOps) (xs : List XPay) : Slot :=
  slotSelect o.dst [] (fun _ =>
    if o.md = 0 then 0xFFFFFFFFFFFF
    else if o.md = 1 then 0xFFFF00000000 ||| (firstBits o.srcB <<< 16) ||| firstBits o.srcA
    else seliValue o xs)

/-- SELX (R304). -/
def slotSelx (o : SelOps) : Slot :=
  slotSelect o.dst (if o.md = 1 then [o.srcA, o.srcB] else [o.srcA]) (fun th =>
    let a := th.getX o.srcA
    let g := th.getG o.dst
    match o.md.toNat with
    | 0 => a &&& 0xFFFFFFFFFFFF
    | 1 => (g &&& 0xFFFF00000000) ||| ((th.getX o.srcB &&& 0xFFFF) <<< 16) ||| (a &&& 0xFFFF)
    | 2 => g &&& (0xFFFF0000FFFF ||| ((a &&& 0xFFFF) <<< 16))
    | _ => g &&& (0xFFFFFFFF0000 ||| (a &&& 0xFFFF)))

/-- The aggregate when no cell executes (R105). -/
def Aggregate.empty : Aggregate := ⟨0, 0, [], []⟩

/-- The part of an aggregate that WFLG names, for q register k (R105, R306). -/
def Aggregate.part (a : Aggregate) (md : Nat) (k : Nat) : Word :=
  match md with
  | 0 => if a.anyZero.getLsbD k then 0 else 1
  | 1 => if a.anyOne.getLsbD k then 1 else 0
  | 2 => lookup 0 k a.rows
  | _ => lookup 0 k a.cols

/-- WFLG: the aggregate of the last wave instruction that entered the nib; the destination is empty until it is valid (R106,
R306). -/
def slotWflg (o : FlagOps) : Slot := fun c s =>
  match c.leading s with
  | .error e => .error e
  | .ok _ =>
    if s.strokeOn c.unit then .error .block
    else match ready (c.th s) [] [o.dst] with
      | .error e => .error e
      | .ok _ =>
        let k := s.core c.unit
        match k.lastWid with
        | none => .ok (c.writeX o.dst (Aggregate.empty.part o.md.toNat o.qidx.toNat))
        | some w =>
          match k.validAgg with
          | some (v, a) =>
            if v = w then .ok (c.writeX o.dst (a.part o.md.toNat o.qidx.toNat)) else .ok (pending c w)
          | none => .ok (pending c w)
where
  /-- The destination waits for the aggregate. -/
  pending (c : Issuer) (w : Nat) : Commit := fun s =>
    if o.dst = 0 then s
    else (s.updThread c.unit c.thr (fun t => t.emptyX o.dst)).updCore c.unit (fun k =>
      { k with wflgs := k.wflgs ++ [⟨w, c.thr, o.dst.toNat, o.md.toNat, o.qidx.toNat⟩] })

/-- The wave of a core has drained: every instruction that has left its nib has passed the last cell of the grid (R123). -/
def CoreArr.drained (k : CoreArr) : Bool := k.wave.isEmpty && k.stroke.all (fun t => t.due.isNone) && k.progDue.isNone

/-- The nib is empty, no stroke is left to issue, and the wave has drained (R307). -/
def State.waveDrained (s : State) (n : Nat) : Bool :=
  let k := s.core n
  k.nib.isEmpty && k.stroke.isNone && k.drained

/-- WDRAIN (R307). -/
def slotWdrain : Slot := fun c s =>
  match c.leading s with
  | .error e => .error e
  | .ok _ => if s.waveDrained c.unit then .ok (fun s => s) else .error .block

/-- PVST: the 64 pivot bytes as posted relaxed stores (R343). -/
def slotPvst (o : AddrSrc) : Slot := fun c s =>
  let th := c.th s
  match c.leading s with
  | .error e => .error e
  | .ok _ =>
    if s.strokeOn c.unit || ((s.core c.unit).progDue.isSome && (s.core c.unit).prog != 64) then .error .block
    else match ready th [(o.srcA, false)] [] with
      | .error e => .error e
      | .ok _ =>
        let va := (th.getX o.srcA).toNat
        let words := List.range 8
        match words.foldl (fun (r : Except Stop (List (Nat × Target))) j =>
          match r with
          | .error e => .error e
          | .ok ts => match c.address s (va + 8 * j) 8 .write with
            | .error e => .error e
            | .ok g => .ok (ts ++ [(va + 8 * j, g)])) (.ok []) with
        | .error e => .error e
        | .ok ts => .ok (fun s => (ts.zip words).foldl (fun s e =>
            c.storeCommit e.1.2 none (c.request s 6 e.1.1 8 e.1.2 (.store (leBytes 8 ((s.core c.unit).pv.getD e.2 0).toNat) false)) s) s)

/-! ### Edge units (R311, R312, R319, R440) -/

/-- The edge unit of a core. -/
def CoreArr.edge (k : CoreArr) (e : EdgeId) : EdgeUnit :=
  match e with | .west => k.west | .north => k.north | .east => k.east | .south => k.south
def CoreArr.setEdge (k : CoreArr) (e : EdgeId) (v : EdgeUnit) : CoreArr :=
  match e with
  | .west => { k with west := v } | .north => { k with north := v } | .east => { k with east := v } | .south => { k with south := v }
def State.updEdge (s : State) (n : Nat) (e : EdgeId) (f : EdgeUnit → EdgeUnit) : State :=
  s.updCore n (fun k => k.setEdge e (f (k.edge e)))

/-- The unit is a writer. -/
def writer (e : EdgeId) : Bool := match e with | .east => true | .south => true | _ => false

/-- The edge unit takes part in the wave of its chain (R113). -/
def Grid.takesPart (g : Grid) (pos : Nat) (e : EdgeId) : Bool :=
  match e with
  | .west => pos % g.wa == 0
  | .north => decide (pos / g.wa = 0)
  | .east => pos % g.wa == g.wa - 1
  | .south => pos / g.wa == g.ha - 1

/-- The position of a core in its chain. -/
def State.chainPos (s : State) (n : Nat) : Nat :=
  match s.coreGang n with
  | some g => (s.core n).rank % g.chainSize
  | none => 0

/-- The chain of a core's gang; a core without one stands alone. -/
def State.chainGrid (s : State) (n : Nat) : Grid :=
  match s.coreGang n with
  | some g => ⟨(s.core n).grid.cores, g.ha, g.wa⟩
  | none => ⟨[n], 1, 1⟩

/-- Streams that count towards the two of an edge unit: those not finished (R312). -/
def EdgeUnit.held (u : EdgeUnit) : List Stream := u.streams.filter (fun x => !x.finished)

/-- A tensor of a stream before its header is read. -/
def StreamEnd.unread (va : Nat) : StreamEnd where
  hdrVa := va
  hdr := none
  form := ⟨0, 0, false, false⟩
  home := (0, 0)
  scaleHome := (0, 0)
  tailHome := (0, 0)
  elems := []
  pending := []
  scales := []
  sides := []

/-- An E slot that programs an edge unit; its x registers behave as with T = 0 whatever the bit holds (R211, R311, R312, R440). -/
def slotStream (e : EdgeId) (srcs : List (BitVec 5)) (panel : Bool) (prune : Nat) (bitmap stash : Bool) : Slot := fun c s =>
  let th := c.th s
  if !(s.chainGrid c.unit).takesPart (s.chainPos c.unit) e then .error (.checkFault 0x16 1)
  else if 2 ≤ ((s.core c.unit).edge e).held.length then .error .block
  else match ready th (srcs.map (fun r => (r, false))) [] with
    | .error x => .error x
    | .ok _ =>
      let va := (th.getX (srcs.getD 0 0)).toNat
      let va2 := (th.getX (srcs.getD 1 0)).toNat
      .ok (fun s => s.updCore c.unit (fun k =>
        let u := k.edge e
        let stm : Stream :=
          { sid := k.nextSid, by_ := c.issue s 5, after := s.writesOut c.unit c.thr, panel := panel, prune := prune, bitmap := bitmap,
            stash := stash, fst := StreamEnd.unread va, snd := StreamEnd.unread va2, live := false, total := 0, taken := 0,
            written := 0, amax := 0, sent := 0, amaxOut := [], finished := false, closing := false, phase := 0 }
        { k.setEdge e { u with streams := u.streams ++ [stm] } with nextSid := k.nextSid + 1 }))

/-- ELW (R311). -/
def slotElw (o : ElwOps) : Slot := slotStream .west [o.hdr] (o.geom == 1) o.prune.toNat o.bmd false
/-- ELN (R311). -/
def slotEln (o : ElnOps) : Slot := slotStream .north [o.hdr] (o.geom == 1) 0 o.bmd false
/-- EWE (R311). -/
def slotEwe (o : EweOps) : Slot := slotStream .east [o.hdr] (o.geom == 1) 0 o.bmc false
/-- EWS (R311). -/
def slotEws (o : EwsOps) : Slot :=
  slotStream .south (if o.stash then [o.hdr, o.hdr2] else [o.hdr]) (o.geom == 1) 0 o.bmc o.stash

/-- The edge units that EDRAIN's mask names (R319). -/
def drainUnits (m : BitVec 4) : List EdgeId :=
  (if m.getLsbD 0 then [EdgeId.west] else []) ++ (if m.getLsbD 1 then [EdgeId.north] else []) ++
  (if m.getLsbD 2 then [EdgeId.east] else []) ++ (if m.getLsbD 3 then [EdgeId.south] else [])

/-- The core whose nib feeds the wave of a core's array: the leading core of its chain (R109, R113). -/
def State.waveCore (s : State) (n : Nat) : Nat := (s.chainGrid n).cores.getD 0 n

/-- EDRAIN: it blocks until the wave of its chain has drained and the named writers have closed every stream, and ends the named loaders'
streams (R319). -/
def slotEdrain (o : Mask4) : Slot := fun c s =>
  let k := s.core c.unit
  let us := drainUnits o.mask
  if !(s.core (s.waveCore c.unit)).drained then .error .block
  else if us.any (fun e => writer e && !(k.edge e).streams.isEmpty) then .error (.drain o.mask)
  else .ok (fun s => (us.filter (fun e => !writer e)).foldl (fun s e => s.updEdge c.unit e (fun u => { u with streams := [] })) s)

/-! ### Each instruction as a bundle of its own -/
/-- ELW alone in its bundle. -/
def execElw (o : ElwOps) (s : State) : Result := .next (s.issueOne (.elw o) (slotElw o))
/-- ELN alone in its bundle. -/
def execEln (o : ElnOps) (s : State) : Result := .next (s.issueOne (.eln o) (slotEln o))
/-- EWE alone in its bundle. -/
def execEwe (o : EweOps) (s : State) : Result := .next (s.issueOne (.ewe o) (slotEwe o))
/-- EWS alone in its bundle. -/
def execEws (o : EwsOps) (s : State) : Result := .next (s.issueOne (.ews o) (slotEws o))
/-- EDRAIN alone in its bundle. -/
def execEdrain (o : Mask4) (s : State) : Result := .next (s.issueOne (.edrain o) (slotEdrain o))
/-- MOV alone in its bundle. -/
def execMov (o : WUnaryMod) (xs : List XPay) (s : State) : Result := .next (s.issueOne (.mov o xs) (slotMov o xs))
/-- MOVH alone in its bundle. -/
def execMovh (o : WUnaryMod) (xs : List XPay) (s : State) : Result := .next (s.issueOne (.movh o xs) (slotMovh o xs))
/-- LDS alone in its bundle. -/
def execLds (o : WLds) (xs : List XPay) (s : State) : Result := .next (s.issueOne (.lds o xs) (slotLds o xs))
/-- STS alone in its bundle. -/
def execSts (o : WSts) (xs : List XPay) (s : State) : Result := .next (s.issueOne (.sts o xs) (slotSts o xs))
/-- IMM alone in its bundle. -/
def execImm (o : WImm) (xs : List XPay) (s : State) : Result := .next (s.issueOne (.imm o xs) (slotImm o xs))
/-- ROWCOL alone in its bundle. -/
def execRowcol (o : WDst) (xs : List XPay) (s : State) : Result := .next (s.issueOne (.rowcol o xs) (slotRowcol o xs))
/-- PERM alone in its bundle. -/
def execPerm (o : WBinMod) (xs : List XPay) (s : State) : Result := .next (s.issueOne (.perm o xs) (slotPerm o xs))
/-- PACK alone in its bundle. -/
def execPack (o : WBinMod) (xs : List XPay) (s : State) : Result := .next (s.issueOne (.pack o xs) (slotPack o xs))
/-- UNPK alone in its bundle. -/
def execUnpk (o : WUnaryMod) (xs : List XPay) (s : State) : Result := .next (s.issueOne (.unpk o xs) (slotUnpk o xs))
/-- CVT alone in its bundle. -/
def execCvt (o : WCvt) (xs : List XPay) (s : State) : Result := .next (s.issueOne (.cvt o xs) (slotCvt o xs))
/-- QLOG alone in its bundle. -/
def execQlog (o : WQlog) (xs : List XPay) (s : State) : Result := .next (s.issueOne (.qlog o xs) (slotQlog o xs))
/-- QSET alone in its bundle. -/
def execQset (o : WQset) (xs : List XPay) (s : State) : Result := .next (s.issueOne (.qset o xs) (slotQset o xs))
/-- CELL_FADD alone in its bundle. -/
def execCellFadd (o : WBin) (xs : List XPay) (s : State) : Result := .next (s.issueOne (.cellFadd o xs) (slotCellFadd o xs))
/-- CELL_FSUB alone in its bundle. -/
def execCellFsub (o : WBin) (xs : List XPay) (s : State) : Result := .next (s.issueOne (.cellFsub o xs) (slotCellFsub o xs))
/-- CELL_FMUL alone in its bundle. -/
def execCellFmul (o : WBin) (xs : List XPay) (s : State) : Result := .next (s.issueOne (.cellFmul o xs) (slotCellFmul o xs))
/-- CELL_FMA alone in its bundle. -/
def execCellFma (o : WBin) (xs : List XPay) (s : State) : Result := .next (s.issueOne (.cellFma o xs) (slotCellFma o xs))
/-- CELL_FMIN alone in its bundle. -/
def execCellFmin (o : WBin) (xs : List XPay) (s : State) : Result := .next (s.issueOne (.cellFmin o xs) (slotCellFmin o xs))
/-- CELL_FMAX alone in its bundle. -/
def execCellFmax (o : WBin) (xs : List XPay) (s : State) : Result := .next (s.issueOne (.cellFmax o xs) (slotCellFmax o xs))
/-- FSGN alone in its bundle. -/
def execFsgn (o : WBinMod) (xs : List XPay) (s : State) : Result := .next (s.issueOne (.fsgn o xs) (slotFsgn o xs))
/-- CELL_FCMP alone in its bundle. -/
def execCellFcmp (o : WBinMod) (xs : List XPay) (s : State) : Result := .next (s.issueOne (.cellFcmp o xs) (slotCellFcmp o xs))
/-- FSEL alone in its bundle. -/
def execFsel (o : WBinMod) (xs : List XPay) (s : State) : Result := .next (s.issueOne (.fsel o xs) (slotFsel o xs))
/-- FRCP alone in its bundle. -/
def execFrcp (o : WUnary) (xs : List XPay) (s : State) : Result := .next (s.issueOne (.frcp o xs) (slotFrcp o xs))
/-- FRSQ alone in its bundle. -/
def execFrsq (o : WUnary) (xs : List XPay) (s : State) : Result := .next (s.issueOne (.frsq o xs) (slotFrsq o xs))
/-- FSQRT alone in its bundle. -/
def execFsqrt (o : WUnary) (xs : List XPay) (s : State) : Result := .next (s.issueOne (.fsqrt o xs) (slotFsqrt o xs))
/-- FDIV alone in its bundle. -/
def execFdiv (o : WBin) (xs : List XPay) (s : State) : Result := .next (s.issueOne (.fdiv o xs) (slotFdiv o xs))
/-- FEXP2 alone in its bundle. -/
def execFexp2 (o : WUnary) (xs : List XPay) (s : State) : Result := .next (s.issueOne (.fexp2 o xs) (slotFexp2 o xs))
/-- FLOG2 alone in its bundle. -/
def execFlog2 (o : WUnary) (xs : List XPay) (s : State) : Result := .next (s.issueOne (.flog2 o xs) (slotFlog2 o xs))
/-- FSUM alone in its bundle. -/
def execFsum (o : WUnaryMod) (xs : List XPay) (s : State) : Result := .next (s.issueOne (.fsum o xs) (slotFsum o xs))
/-- IADD alone in its bundle. -/
def execIadd (o : WBinMod) (xs : List XPay) (s : State) : Result := .next (s.issueOne (.iadd o xs) (slotIadd o xs))
/-- ISUB alone in its bundle. -/
def execIsub (o : WBinMod) (xs : List XPay) (s : State) : Result := .next (s.issueOne (.isub o xs) (slotIsub o xs))
/-- IMUL alone in its bundle. -/
def execImul (o : WBinMod) (xs : List XPay) (s : State) : Result := .next (s.issueOne (.imul o xs) (slotImul o xs))
/-- IAND alone in its bundle. -/
def execIand (o : WBin) (xs : List XPay) (s : State) : Result := .next (s.issueOne (.iand o xs) (slotIand o xs))
/-- IOR alone in its bundle. -/
def execIor (o : WBin) (xs : List XPay) (s : State) : Result := .next (s.issueOne (.ior o xs) (slotIor o xs))
/-- IXOR alone in its bundle. -/
def execIxor (o : WBin) (xs : List XPay) (s : State) : Result := .next (s.issueOne (.ixor o xs) (slotIxor o xs))
/-- ISHL alone in its bundle. -/
def execIshl (o : WBin) (xs : List XPay) (s : State) : Result := .next (s.issueOne (.ishl o xs) (slotIshl o xs))
/-- ISHR alone in its bundle. -/
def execIshr (o : WBin) (xs : List XPay) (s : State) : Result := .next (s.issueOne (.ishr o xs) (slotIshr o xs))
/-- ISRA alone in its bundle. -/
def execIsra (o : WBin) (xs : List XPay) (s : State) : Result := .next (s.issueOne (.isra o xs) (slotIsra o xs))
/-- IMIN alone in its bundle. -/
def execImin (o : WBinMod) (xs : List XPay) (s : State) : Result := .next (s.issueOne (.imin o xs) (slotImin o xs))
/-- IMAX alone in its bundle. -/
def execImax (o : WBinMod) (xs : List XPay) (s : State) : Result := .next (s.issueOne (.imax o xs) (slotImax o xs))
/-- ICMP alone in its bundle. -/
def execIcmp (o : WBinMod) (xs : List XPay) (s : State) : Result := .next (s.issueOne (.icmp o xs) (slotIcmp o xs))
/-- SCL alone in its bundle. -/
def execScl (o : WScl) (s : State) : Result := .next (s.issueOne (.scl o) (slotScl o))
/-- MAC alone in its bundle. -/
def execMac (o : WMac) (xs : List XPay) (s : State) : Result := .next (s.issueOne (.mac o xs) (slotMac o xs))
/-- MACS alone in its bundle. -/
def execMacs (o : WMacH) (xs : List XPay) (s : State) : Result := .next (s.issueOne (.macs o xs) (slotMacs o xs))
/-- MACV alone in its bundle. -/
def execMacv (o : WMacH) (xs : List XPay) (s : State) : Result := .next (s.issueOne (.macv o xs) (slotMacv o xs))
/-- VBEG alone in its bundle. -/
def execVbeg (o : WVbeg) (xs : List XPay) (s : State) : Result := .next (s.issueOne (.vbeg o xs) (slotVbeg o xs))
/-- VTHR alone in its bundle. -/
def execVthr (o : WVthr) (s : State) : Result := .next (s.issueOne (.vthr o) (slotVthr o))
/-- ACCZ alone in its bundle. -/
def execAccz (o : WAccz) (s : State) : Result := .next (s.issueOne (.accz o) (slotAccz o))
/-- ACCRD alone in its bundle. -/
def execAccrd (o : WAccrd) (xs : List XPay) (s : State) : Result := .next (s.issueOne (.accrd o xs) (slotAccrd o xs))
/-- ACCWR alone in its bundle. -/
def execAccwr (o : WAccwr) (xs : List XPay) (s : State) : Result := .next (s.issueOne (.accwr o xs) (slotAccwr o xs))
/-- AMAX alone in its bundle. -/
def execAmax (o : WAmax) (xs : List XPay) (s : State) : Result := .next (s.issueOne (.amax o xs) (slotAmax o xs))
/-- VTEST alone in its bundle. -/
def execVtest (o : WUnaryMod) (xs : List XPay) (s : State) : Result := .next (s.issueOne (.vtest o xs) (slotVtest o xs))
/-- CELL_VSEL alone in its bundle. -/
def execCellVsel (o : WBinMod) (xs : List XPay) (s : State) : Result := .next (s.issueOne (.cellVsel o xs) (slotCellVsel o xs))
/-- LUP alone in its bundle. -/
def execLup (o : Tile1) (s : State) : Result := .next (s.issueOne (.lup o) (slotLup o))
/-- CHOL alone in its bundle. -/
def execChol (o : Tile1) (s : State) : Result := .next (s.issueOne (.chol o) (slotChol o))
/-- QRH alone in its bundle. -/
def execQrh (o : Tile2) (s : State) : Result := .next (s.issueOne (.qrh o) (slotQrh o))
/-- TRSM alone in its bundle. -/
def execTrsm (o : TileTri) (s : State) : Result := .next (s.issueOne (.trsm o) (slotTrsm o))
/-- SELI alone in its bundle. -/
def execSeli (o : SelOps) (xs : List XPay) (s : State) : Result := .next (s.issueOne (.seli o xs) (slotSeli o xs))
/-- SELX alone in its bundle. -/
def execSelx (o : SelOps) (s : State) : Result := .next (s.issueOne (.selx o) (slotSelx o))
/-- WFLG alone in its bundle. -/
def execWflg (o : FlagOps) (s : State) : Result := .next (s.issueOne (.wflg o) (slotWflg o))
/-- WDRAIN alone in its bundle. -/
def execWdrain (s : State) : Result := .next (s.issueOne (.wdrain) slotWdrain)
/-- PVST alone in its bundle. -/
def execPvst (o : AddrSrc) (s : State) : Result := .next (s.issueOne (.pvst o) (slotPvst o))

end Sys2Proof.Machine
end

