-- ==== Sys2Proof/Machine/Streams.lean ====
section
/-! DEFINITION. The streams of the edge units: HEADER_READ and STREAM_ACTIVATE, and the pieces that a loader delivers (R104, R108, R114 to
R117, R310 to R318, R438, R439, R461, R463). -/

namespace Sys2Proof.Machine

/-! ### Who reads for an edge unit -/

/-- The number of an edge unit: west 0, north 1, east 2, south 3 (R44). -/
def edgeNum (e : EdgeId) : Nat := match e with | .west => 0 | .north => 1 | .east => 2 | .south => 3

/-- An edge unit as a reader and writer of memory for a stream: it stands beside the four threads of its core, with the number of the
programming thread in its own. -/
def Stream.reader (x : Stream) (n : Nat) (e : EdgeId) : Issue := { x.by_ with unit := n, thr := 8 + 4 * edgeNum e + x.by_.thr }

/-- Conversions of an edge unit flag its programming thread (R56). -/
def State.flagStream (s : State) (x : Stream) (f : BitVec 8) : State :=
  if f = 0 || decide ((s.thread x.by_.unit x.by_.thr).owner ≠ x.by_.owner) then s
  else s.agentFlags x.by_.unit x.by_.thr f

/-- A stream replaced by its number, in its edge unit. -/
def EdgeUnit.upd (u : EdgeUnit) (sid : Nat) (f : Stream → Stream) : EdgeUnit :=
  { u with streams := u.streams.map (fun x => if x.sid = sid then f x else x) }
/-- A stream removed from its edge unit with what was captured for it. -/
def EdgeUnit.drop (u : EdgeUnit) (sid : Nat) : EdgeUnit :=
  { u with streams := u.streams.filter (fun x => x.sid != sid), buffer := u.buffer.filter (fun b => b.1 != sid) }

/-! ### Storage of a stream (R134, R310, R317) -/

/-- The storage form of a tensor whose BASE lies in a bank with this format register. -/
def storeForm (r : BitVec 32) (h : Header) : StoreForm :=
  let f := r.extractLsb' 0 4
  if f ≠ fmtRAW then ⟨f, r.extractLsb' 4 4, r.getLsbD 8, isMx f⟩
  else ⟨if h.fmt = fmtRAW then h.pfmt else h.fmt, h.pfmt, false, false⟩

/-- The tensor of a stream in scratchpad offsets: base, scale and tail are offsets in their cores. -/
def StreamEnd.tensor (x : StreamEnd) : Tensor :=
  match x.hdr with
  | none => ⟨0, 0, false, false, 0, 0, 0, 0, 0, 0, false, 0⟩
  | some h =>
    { h.tensor x.form.fmt with elem := x.form.elem, nmr := x.form.nmr, sidecar := x.form.side, base := x.home.2, scale := x.scaleHome.2,
                               tail := x.tailHome.2 }

/-- Lanes of a LINE piece: 256 bits of PFMT, 32 for an MX format (R278, R313). -/
def lineLanes (pfmt : BitVec 4) : Nat := if isMx pfmt then 32 else 256 / fmtWidth pfmt

/-- Reduction indices of a PANEL data piece (R314). -/
def panelKp (pfmt : BitVec 4) (masked : Bool) : Nat := if masked then 8 else if fmtWidth pfmt = 16 then 2 else 4

/-- The stream delivers mask pieces: it is pruned, or its bank has format NM (R314). -/
def Stream.masked (x : Stream) : Bool := x.prune != 0 || x.fst.form.fmt == fmtNM

/-- Pieces that come before or among the data pieces of one block, or of one data piece where there are no scales: (count, data
pieces in it). -/
def blockPieces (mx masked : Bool) (kp : Nat) : Nat × Nat :=
  let g := if mx then 32 / kp else 1
  ((if mx then 1 else 0) + g * (if masked then 2 else 1), g)

/-- Groups of pieces of a loader stream (R313, R314). -/
def loaderTotal (west : Bool) (panel masked : Bool) (h : Header) : Nat :=
  if !panel then (h.rows + 15) / 16 * (h.cols / lineLanes h.pfmt)
  else
    let kp := panelKp h.pfmt masked
    let red := if west then h.cols else h.rows
    let lim := if west then h.rows else h.cols
    let b := blockPieces (isMx h.pfmt) masked kp
    (lim + 127) / 128 * (red / kp / b.2 * b.1)

/-- Accumulator rows of a captured PANEL piece (R316). -/
def panelRows (pfmt : BitVec 4) : Nat := 32 / fmtWidth pfmt

/-- Groups of pieces of a writer stream (R313, R316). -/
def writerTotal (east panel : Bool) (h : Header) : Nat :=
  if !panel then (h.rows + 15) / 16 * (h.cols / lineLanes h.pfmt)
  else
    let nj := 8 / panelRows h.pfmt
    let along := if east then h.cols else h.rows
    let lim := if east then h.rows else h.cols
    nj * (along / 8) * ((lim + 127) / 128)

/-! ### Header checks (R311, R314, R316, R317, R461) -/

/-- Formats with lanes: every format but RAW and NM. -/
def laneFormat (f : BitVec 4) : Bool := f != fmtRAW && f != fmtNM && decide (f < 0xC)

/-- PFMT of a PANEL loader, and of any writer (R317). -/
def panelFormat (f : BitVec 4) : Bool :=
  f == fmtINT8 || isF8 f || isMx f || f == fmtBF16 || f == fmtFP16

/-- DETAIL 1 for a loader: PFMT or a multiple that R313, R314 or R317 requires. -/
def loaderGeometry (west : Bool) (x : Stream) (h : Header) (f : StoreForm) : Bool :=
  let nm := f.fmt == fmtNM
  let masked := x.prune != 0 || nm
  let red := if west then h.cols else h.rows
  let mxOk := !isMx h.pfmt || f.fmt == h.pfmt || (nm && f.elem == h.pfmt)
  let pruneOk := x.prune == 0 || ((h.pfmt == fmtINT8 || h.pfmt == fmtMXI8 || isF8 h.pfmt) && (f.fmt == h.pfmt || (nm && f.elem == h.pfmt)))
  let storeOk := !isMx f.fmt || (if h.kax then h.rows % 32 == 0 else h.cols % 32 == 0)
  laneFormat h.pfmt && mxOk && pruneOk && storeOk && (west || !nm) &&
    (if !x.panel then h.cols % lineLanes h.pfmt == 0
     else panelFormat h.pfmt && (!nm || f.elem == h.pfmt) && (!isMx h.pfmt || nm || h.kax == !west) &&
       red % (if masked then 64 else if isMx h.pfmt then 32 else panelKp h.pfmt false) == 0)

/-- DETAIL 1 for a writer. A PANEL writer whose COLS (east) or ROWS (south) is no multiple of 8 is among them, since R316 divides it by 8
(DESIGN CHOICE, assumption 133). -/
def writerGeometry (east : Bool) (x : Stream) (h : Header) (f : StoreForm) : Bool :=
  let storeOk := !isMx f.fmt || (if h.kax then h.rows % 32 == 0 else h.cols % 32 == 0)
  isCvtFormat h.pfmt && f.fmt != fmtNM && storeOk &&
    (if !x.panel then h.cols % lineLanes h.pfmt == 0 else (if east then h.cols else h.rows) % 8 == 0)

/-- Bytes of a stream's extent from BASE on: its rows, or its bitmap and value region (R461). -/
def extentBytes (t : Tensor) (bitmap : Bool) (values : Nat) : Nat :=
  if bitmap then bitmapLen (t.rows * t.cols) + (values * fmtWidth t.fmt + 7) / 8
  else (t.byteRows - 1) * t.pitch + t.rowBytes
where
  /-- Bytes of a bitmap of n bits (R137). -/
  bitmapLen (n : Nat) : Nat := (n + 127) / 128 * 16

/-- A scratchpad address of the partition: core and offset, or a failure: a translation fault, or 0x5A DETAIL 0. -/
def State.streamHome (s : State) (p u va : Nat) (k : Access) : Except (Nat × Nat × BitVec 32) (Nat × Nat) :=
  match s.translate p u va k with
  | .error e => .error (e.cause, va, e.status)
  | .ok g =>
    match s.scratchOf g with
    | some r => .ok r
    | none => .error (0x5A, va, detailStatus 0)

/-- The places and the storage of a stream's tensor, or why its header is invalid (R461). The reserved fields come first, then the
size, the options, the home of BASE, the geometry, the homes of the sidecars and the extent. -/
def State.checkEnd (s : State) (p u : Nat) (e : EdgeId) (x : Stream) (y : StreamEnd) (h : Header) (swapped : Option Header) :
    Except (Nat × Nat × BitVec 32) StreamEnd :=
  let bad := fun (d : Nat) => (Except.error (0x5A, y.hdrVa, detailStatus d) : Except (Nat × Nat × BitVec 32) StreamEnd)
  let k : Access := if writer e then .write else .read
  if h.reserved then bad 3
  else if !h.sized then bad 1
  else if !x.panel && (x.stash || x.prune != 0) then bad 4
  else if (match swapped with | some g => g.rows != h.cols || g.cols != h.rows | none => false) then bad 4
  else match s.streamHome p u h.base k with
    | .error f => .error f
    | .ok home =>
      let r := (s.core home.1).bfmt.getD (home.2 / 2 ^ 17) 0
      let f := storeForm r h
      let scaled := isMx f.fmt && !f.side
      let tailed := !writer e && x.panel && isMx h.pfmt && h.mord
      let geo := match swapped with
        | some _ => f.fmt != fmtNM && (!isMx f.fmt || (if h.kax then h.rows % 32 == 0 else h.cols % 32 == 0))
        | none => match e with
          | .west => loaderGeometry true x h f
          | .north => loaderGeometry false x h f
          | .east => writerGeometry true x h f
          | .south => writerGeometry false x h f
      if !geo then bad 1
      else match (if scaled then s.streamHome p u h.scale k else .ok (0, 0)), (if tailed then s.streamHome p u h.tail k else .ok (0, 0)) with
      | .error f, _ => .error f
      | _, .error f => .error f
      | .ok sh, .ok th =>
        let y' := { y with hdr := some h, form := f, home := home, scaleHome := sh, tailHome := th }
        let last := home.2 + extentBytes y'.tensor x.bitmap h.bmcap - 1
        if last / 2 ^ 20 ≠ home.2 / 2 ^ 20 then bad 2
        else if (List.range 16).any (fun b => decide (home.2 / 2 ^ 17 ≤ b) && decide (b ≤ last / 2 ^ 17) && decide ((s.core home.1).bfmt.getD b 0 ≠ r)) then bad 2
        else .ok y'

/-! ### HEADER_READ (R312) -/

/-- The first stream of a unit with a header to read whose thread's earlier writes have been acknowledged. -/
def State.toRead (s : State) (n : Nat) (e : EdgeId) : Option Stream :=
  ((s.core n).edge e).streams.find? (fun x => (x.fst.hdr.isNone || (x.stash && x.snd.hdr.isNone)) && s.finished x.after)

/-- A stream whose header cannot be used ends, and its launch with it (R452, R461). -/
def State.failStream (s : State) (n : Nat) (e : EdgeId) (x : Stream) (f : Nat × Nat × BitVec 32) : State :=
  (((s.walkedFor (tlbUnit (x.reader n e)) ((s.partOfUnit n).getD 0) f.1 f.2.1).updEdge n e (fun u => u.drop x.sid)).clearInbox (x.reader n e)).fail
    x.by_ f.1 f.2.1 f.2.2

/-- The oldest of three finished open streams closes (R319). -/
def EdgeUnit.closeThird (u : EdgeUnit) : EdgeUnit :=
  let f := u.streams.filter (fun x => x.finished && !x.closing)
  if 3 ≤ f.length then
    match f.head? with
    | some x => u.upd x.sid (fun z => { z with closing := true })
    | none => u
  else u

/-- Captures assigned to a stream beyond its groups: where capture `num` of the stream goes instead, if anywhere (R118). -/
def EdgeUnit.passedOn (u : EdgeUnit) (x : Stream) (num : Nat) : Option (Nat × Nat) :=
  if num < x.total then some (x.sid, num)
  else match (u.streams.filter (fun z => !z.finished && !z.closing && z.sid != x.sid)).head? with
    | none => none
    | some z => if z.fst.hdr.isSome && decide (z.total ≤ z.taken + (num - x.total)) then none else some (z.sid, z.taken + (num - x.total))

/-- A writer's stream with the captures it was assigned before its groups were known: those it has groups for stay, and the next stream
takes the others, in the buffer and on their way (R118, R312). -/
def EdgeUnit.recount (u : EdgeUnit) (sid : Nat) : EdgeUnit × (Nat × Nat → Option (Nat × Nat)) :=
  match u.streams.find? (fun x => x.sid == sid) with
  | none => (u, some)
  | some x =>
    let go := fun (c : Nat × Nat) => if c.1 = sid then u.passedOn x c.2 else some c
    let extra := (List.range (x.taken - x.total)).filterMap (fun i => u.passedOn x (x.total + i))
    ({ u with
       streams := u.streams.map (fun z =>
         if z.sid = sid then { z with taken := min z.taken z.total, finished := decide (z.total ≤ z.taken) }
         else
           let t := z.taken + (extra.filter (fun c => c.1 == z.sid)).length
           { z with taken := t, finished := z.finished || (z.fst.hdr.isSome && t == z.total) })
       buffer := u.buffer.filterMap (fun b => (go (b.1, b.2.1)).map (fun c => (c.1, c.2, b.2.2))) }, go)

/-- The same for the captures of instructions on their way through the core's chain. -/
def State.recount (s : State) (n : Nat) (e : EdgeId) (sid : Nat) : State :=
  let r := ((s.core n).edge e).recount sid
  let g := s.chainGrid n
  let a := match e with | .east => s.chainPos n / g.wa | _ => s.chainPos n % g.wa
  let move := fun (m : SMap (Nat × Nat)) => m.filterMap (fun c => if c.1 = a then (r.2 c.2).map (fun v => (c.1, v)) else some c)
  (s.updEdge n e (fun _ => r.1.closeThird)).updCore (s.waveCore n) (fun k => { k with wave := k.wave.map (fun w =>
    match e with | .east => { w with east := move w.east } | _ => { w with south := move w.south }) })

/-- HEADER_READ: an edge unit reads the next header of a stream and checks it. -/
def State.headerRead (s : State) (n : Nat) (e : EdgeId) : State :=
  match s.toRead n e with
  | none => s
  | some x =>
    let second := x.fst.hdr.isSome
    let y := if second then x.snd else x.fst
    let p := (s.partOfUnit n).getD 0
    let i := x.reader n e
    if y.hdrVa % 64 ≠ 0 then s.failStream n e x (0x47, y.hdrVa, 0)
    else match s.readVa i p y.hdrVa 64 with
      | .wait s1 => s1
      | .fault c a w => s.failStream n e x (c, a, w)
      | .ok s1 bs poison =>
        let h := headerOf bs
        if poison then s1.failStream n e x (0x4C, y.hdrVa, 0)
        else match s1.checkEnd p (tlbUnit i) e x y h (if second then x.fst.hdr else none) with
          | .error f => s1.failStream n e x f
          | .ok y' =>
            if !writer e && h.bmovf then s1.failStream n e x (0x5B, y.hdrVa, 0)
            else
              let total := match e with
                | .west => loaderTotal true x.panel (x.prune != 0 || y'.form.fmt == fmtNM) h
                | .north => loaderTotal false x.panel (x.prune != 0 || y'.form.fmt == fmtNM) h
                | .east => writerTotal true x.panel h
                | .south => writerTotal false x.panel h
              let s2 := (s1.clearInbox i).updEdge n e (fun u => u.upd x.sid (fun z =>
                if second then { z with snd := y' } else { z with fst := y', total := total }))
              if writer e && !second then s2.recount n e x.sid else s2

/-! ### STREAM_ACTIVATE (R312, R463) -/

/-- Bytes of a core's scratchpad. -/
def State.scratchBytes (s : State) (core off n : Nat) : List Byte := memRead s.mem (scratchPa core off) n

/-- All headers of a stream are read. -/
def Stream.known (x : Stream) : Bool := x.fst.hdr.isSome && (!x.stash || x.snd.hdr.isSome)

/-- Bytes of the bitmap of a tensor (R137). -/
def Tensor.mapBytes (t : Tensor) : Nat := (t.rows * t.cols + 127) / 128 * 16

/-- The bitmap agrees with BMLEN, which BMCAP bounds (R463). -/
def State.bitmapOk (s : State) (y : StreamEnd) : Bool :=
  match y.hdr with
  | none => false
  | some h =>
    let t := y.tensor
    let m := leNat (s.scratchBytes y.home.1 t.base t.mapBytes)
    (List.range (t.rows * t.cols)).foldl (fun n i => n + bitsOf m i i) 0 == h.bmlen && decide (h.bmlen ≤ h.bmcap)

/-- STREAM_ACTIVATE: the oldest stream that has not finished is known to be active, once its headers are read. -/
def State.streamActivate (s : State) (n : Nat) (e : EdgeId) : State :=
  match ((s.core n).edge e).held.head? with
  | none => s
  | some x =>
    if x.live || !x.known then s
    else s.updEdge n e (fun u => u.upd x.sid (fun z => { z with live := true }))

/-! ### What a loader delivers (R104, R313 to R315, R317) -/

/-- What a group of pieces is: data, or a scale or mask piece, for the data piece of this band and step. -/
inductive PieceKind where
  | line
  | data (band q : Nat)
  | scale (band q : Nat)
  | mask (band q : Nat)
  deriving DecidableEq, Repr

/-- PFMT of a stream. -/
def Stream.pfmt (x : Stream) : BitVec 4 := (x.fst.hdr.map (fun h => h.pfmt)).getD 0

/-- The kind of group number p of a loader stream (R314). -/
def Stream.kind (x : Stream) (west : Bool) (p : Nat) : PieceKind :=
  match x.fst.hdr with
  | none => .line
  | some h =>
    if !x.panel then .line
    else
      let mx := isMx h.pfmt
      let kp := panelKp h.pfmt x.masked
      let b := blockPieces mx x.masked kp
      let per := (if west then h.cols else h.rows) / kp / b.2 * b.1
      let band := p / per
      let i := p % per
      let j := i % b.1
      if mx && j = 0 then .scale band (i / b.1 * b.2)
      else
        let j' := if mx then j - 1 else j
        if x.masked then
          (if j' % 2 = 0 then .mask band (i / b.1 * b.2 + j' / 2) else .data band (i / b.1 * b.2 + j' / 2))
        else .data band (i / b.1 * b.2 + j')

/-- Element (i, k) of the data piece of a band and step on line u, if it lies in the tensor (R314). -/
def panelElem (west : Bool) (h : Header) (kp band q u i k : Nat) : Option (Nat × Nat) :=
  let x := 8 * (16 * band + u) + i
  let y := q * kp + k
  if west then (if x < h.rows then some (x, y) else none) else (if x < h.cols then some (y, x) else none)

/-- The lanes of a data piece with their elements, in ascending lane. -/
def Stream.refs (x : Stream) (west : Bool) (p u : Nat) : List (Nat × Nat × Nat) :=
  match x.fst.hdr with
  | none => []
  | some h =>
    match x.kind west p with
    | .line =>
      let l := lineLanes h.pfmt
      let ns := h.cols / l
      let line := p / ns * 16 + u
      if line < h.rows then (List.range l).map (fun e => (e, line, p % ns * l + e)) else []
    | .data band q =>
      let kp := panelKp h.pfmt x.masked
      (List.range (8 * kp)).filterMap (fun l =>
        (panelElem west h kp band q u (if west then l / kp else l % 8) (if west then l % kp else l / 8)).map (fun ab => (l, ab.1, ab.2)))
    | _ => []

/-- Conversions draw from the unit's random state under RSR, one for each element converted (R44). -/
def Stream.draws (x : Stream) (west : Bool) (p u : Nat) : Nat :=
  match x.fst.hdr with
  | none => 0
  | some h =>
    let src := if x.fst.form.fmt = fmtNM then x.fst.form.elem else x.fst.form.fmt
    if h.rnd = 4 && src ≠ h.pfmt then (x.refs west p u).length else 0

/-- The random state after n draws. -/
def advanceRandom : Nat → BitVec 32 → BitVec 32
  | 0, s => s
  | n + 1, s => advanceRandom n (nextRandom s)

/-- The random values of n draws. -/
def randoms : Nat → BitVec 32 → List Nat
  | 0, _ => []
  | n + 1, s => randomBits (nextRandom s) :: randoms n (nextRandom s)

/-- Draws of the lines below u of a group. -/
def Stream.drawsBelow (x : Stream) (west : Bool) (p u : Nat) : Nat := (List.range u).foldl (fun n v => n + x.draws west p v) 0

/-- Offset of the bytes of an element's code, in a tensor that is not bitmap-compressed: offset, length, and the bit it begins at. -/
def Tensor.codeBytes (t : Tensor) (a b : Nat) : Nat × Nat × Nat :=
  let o := t.cellVa a b
  if isMx t.fmt then
    let bit := mxWidth t.fmt * t.posIn a b
    (o + bit / 8, (bit % 8 + mxWidth t.fmt + 7) / 8, bit % 8)
  else (o, t.cellBytes, 0)

/-- The stored code of an element of a stream, with the granules read: a dense element, one of a bitmap-compressed tensor, or one of an
NM unit (R117, R136, R310). -/
def State.storedCode (s : State) (y : StreamEnd) (bitmap : Bool) (a b : Nat) : Nat × List Nat :=
  let t := y.tensor
  let w := fmtWidth t.fmt
  if bitmap then
    let i := a * t.cols + b
    let m := leNat (s.scratchBytes y.home.1 t.base t.mapBytes)
    let at_ := t.base + i / 8
    if bitsOf m i i = 0 then (0, granulesOf at_ 1)
    else
      let bit := w * (List.range i).foldl (fun n j => n + bitsOf m j j) 0
      let o := t.base + t.mapBytes + bit / 8
      let n := (bit % 8 + w + 7) / 8
      (leNat (s.scratchBytes y.home.1 o n) / 2 ^ (bit % 8) % 2 ^ w, granulesOf at_ 1 ++ granulesOf o n)
  else if t.fmt = fmtNM then (nmCode (s.scratchBytes y.home.1 (t.cellVa a b) 48) (b % 64), granulesOf (t.cellVa a b) 48)
  else
    let c := t.codeBytes a b
    (leNat (s.scratchBytes y.home.1 c.1 c.2.1) / 2 ^ c.2.2 % 2 ^ w, granulesOf c.1 c.2.1)

/-- The scale of an element's block with the granules that cover it: (core, granule) (R135, R136, R310). -/
def State.blockScale (s : State) (y : StreamEnd) (bitmap : Bool) (a b : Nat) : Nat × List (Nat × Nat) :=
  let t := y.tensor
  if t.fmt = fmtNM then
    let o := t.cellVa a b + 40 + b % 64 / 32
    (leNat (s.scratchBytes y.home.1 o 1), [(y.home.1, o / 16)])
  else if t.sidecar then
    ((lookup 0 (sidecarIndex t.fmt (t.sideVa bitmap a b)) (s.core y.home.1).sidecar).toNat,
     (if bitmap then granulesOf (t.base + (a * t.cols + b) / 8) 1 else granulesOf (t.cellVa a b) t.cellBytes).map (fun g => (y.home.1, g)))
  else
    let o := t.scale + t.scaleIndex a b
    (leNat (s.scratchBytes y.scaleHome.1 o 1), [(y.scaleHome.1, o / 16)])

/-- The tail of an element's block, with its granule (R310). -/
def State.blockTail (s : State) (y : StreamEnd) (a b : Nat) : Nat × List (Nat × Nat) :=
  let o := y.tensor.tail + y.tensor.scaleIndex a b
  (leNat (s.scratchBytes y.tailHome.1 o 1), [(y.tailHome.1, o / 16)])

/-- What a loader finds for a line of a group: the piece and its flags, not ready yet, or a cause that withholds it. -/
inductive PieceTurn where
  | ready (v : BitVec 256) (flags : BitVec 8)
  | notReady
  | withheld (cause detail : Nat)

/-- The rows or columns of a panel line that lie in the tensor, by the element at reduction index y. -/
def panelLines (west : Bool) (h : Header) (band u y : Nat) : List (Nat × Nat) :=
  (List.range 8).filterMap (fun i =>
    let x := 8 * (16 * band + u) + i
    if west then (if x < h.rows then some (x, y) else none) else (if x < h.cols then some (y, x) else none))

/-- An element re-expressed from scale e to the larger scale of the piece (R315). -/
def reExpress (n : Nat) (big e c : Nat) : Nat × BitVec 8 :=
  if big ≤ e then (c, 0)
  else
    let r := roundInt rndRNE 0 ⟨decide (signExt n c < 0), (signExt n c).natAbs, (e : Int) - big, false⟩
    (twos n r.1, if r.2 then flagNX else 0)

/-- Granules all full; and whether one of them is poisoned. -/
def State.allFull (s : State) (gs : List (Nat × Nat)) : Bool := gs.all (fun g => lookup false g.2 (s.core g.1).full)
def State.anyPoison (s : State) (gs : List (Nat × Nat)) : Bool := gs.any (fun g => lookup false g.2 (s.core g.1).gpoison)

/-- A piece of these granules: not ready until all are full, withheld when one is poisoned (R108, R469). -/
def State.deliver (s : State) (gs : List (Nat × Nat)) (r : BitVec 256 × BitVec 8) : PieceTurn :=
  if !s.allFull gs then .notReady else if s.anyPoison gs then .withheld 0x4C 0 else .ready r.1 r.2

/-- The stored codes of row i of a pruned or NM panel piece as its mask byte and kept codes (R116, R136, R315), with the granules read for
the mask and for the codes. -/
structure PrunedRow where
  mask : Nat
  kept : List Nat
  maskReads : List (Nat × Nat)
  codeReads : List (Nat × Nat)

def State.prunedRow (s : State) (x : Stream) (a b0 : Nat) : PrunedRow :=
  let y := x.fst
  let t := y.tensor
  let fmt := x.pfmt
  if t.fmt = fmtNM then
    let o := t.cellVa a b0
    let i := b0 % 64
    { mask := leNat (s.scratchBytes y.home.1 (o + 32 + i / 8) 1)
      kept := (s.scratchBytes y.home.1 (o + i / 2) 4).map (fun c => c.toNat)
      maskReads := [(y.home.1, (o + 32 + i / 8) / 16)]
      codeReads := (granulesOf (o + i / 2) 4).map (fun g => (y.home.1, g)) }
  else
    let cs := (List.range 8).map (fun k => s.storedCode y x.bitmap a (b0 + k))
    let u := pruneUnit fmt (if x.prune = 1 then 8 else 4) (cs.map (fun c => c.1))
    let gs := cs.flatMap (fun c => c.2.map (fun g => (y.home.1, g)))
    { mask := u.2, kept := u.1, maskReads := gs, codeReads := gs }

/-- Every group of a row's mask keeps half its elements (R116). -/
def maskHalves (p24 : Bool) (mask : Nat) : Bool :=
  let n := fun (lo hi : Nat) => (List.range (hi - lo)).foldl (fun t i => t + bitsOf mask (lo + i) (lo + i)) 0
  if p24 then n 0 4 == 2 && n 4 8 == 2 else n 0 8 == 4

/-- The piece of line u of a pulled group (R104, R313 to R317). -/
def State.pieceValue (s : State) (west : Bool) (pl : Pull) (u : Nat) : PieceTurn :=
  let x := pl.stm
  let y := x.fst
  match y.hdr with
  | none => .notReady
  | some h =>
    let n := if isMx h.pfmt then mxWidth h.pfmt else 8
    let w := fmtWidth h.pfmt
    let big := fun (band q : Nat) =>
      let b0 := q * panelKp h.pfmt x.masked
      let ss := (panelLines west h band u b0).map (fun ab => s.blockScale y x.bitmap ab.1 ab.2)
      ((ss.map (fun c => c.1)).foldl max 0, ss.flatMap (fun c => c.2))
    match x.kind west pl.num with
    | .scale band q =>
      let b0 := q * panelKp h.pfmt x.masked
      let e := big band q
      let ts := if h.mord then (panelLines west h band u b0).map (fun ab => s.blockTail y ab.1 ab.2) else []
      s.deliver (e.2 ++ ts.flatMap (fun c => c.2)) (packLanes 8 [e.1, (ts.map (fun c => c.1)).foldl max 0], 0)
    | .mask band q =>
      let rows := (List.range 8).map (fun i =>
        (panelElem west h 8 band q u i 0).map (fun ab => s.prunedRow x ab.1 ab.2))
      let gs := rows.flatMap (fun r => (r.map (fun p => p.maskReads)).getD [])
      let p24 := if y.form.fmt = fmtNM then y.form.nmr else x.prune == 2
      let none_ := if p24 then 0x33 else 0x0F
      let ms := rows.map (fun r => (r.map (fun p => p.mask)).getD none_)
      if s.allFull gs && !s.anyPoison gs && ms.any (fun m => !maskHalves p24 m) then .withheld 0x21 0
      else s.deliver gs (packLanes 8 ms, 0)
    | .data band q =>
      if x.masked then
        let e := if isMx h.pfmt then big band q else (0, [])
        let rows := (List.range 8).map (fun i => (panelElem west h 8 band q u i 0).map (fun ab =>
          (s.prunedRow x ab.1 ab.2, if isMx h.pfmt then (s.blockScale y x.bitmap ab.1 ab.2).1 else 0)))
        let cs := rows.flatMap (fun r => match r with
          | none => List.replicate 4 (0, 0)
          | some (p, sc) => (List.range 4).map (fun k => if isMx h.pfmt then reExpress n e.1 sc (p.kept.getD k 0) else (p.kept.getD k 0, 0)))
        s.deliver (e.2 ++ rows.flatMap (fun r => (r.map (fun p => p.1.codeReads)).getD []))
          (packLanes w (cs.map (fun c => c.1)), cs.foldl (fun f c => f ||| c.2) 0)
      else dense s west pl u h y (if isMx h.pfmt then some (big band q) else none)
    | .line => dense s west pl u h y none
where
  /-- A piece of dense elements, converted to PFMT; an MX PFMT keeps the codes, re-expressed to the scale of the piece. -/
  dense (s : State) (west : Bool) (pl : Pull) (u : Nat) (h : Header) (y : StreamEnd) (big : Option (Nat × List (Nat × Nat))) : PieceTurn :=
    let x := pl.stm
    let t := y.tensor
    let rhos := randoms (x.draws west pl.num u) (advanceRandom (x.drawsBelow west pl.num u) pl.rs)
    let src := if t.fmt = fmtNM then t.elem else t.fmt
    let one := fun (i : Nat) (r : Nat × Nat × Nat) =>
      let c := s.storedCode y x.bitmap r.2.1 r.2.2
      let gs := c.2.map (fun g => (y.home.1, g))
      if src = h.pfmt then
        match big with
        | some e =>
          let sc := s.blockScale y x.bitmap r.2.1 r.2.2
          let v := reExpress (mxWidth h.pfmt) e.1 sc.1 c.1
          (r.1, v.1, v.2, gs)
        | none => (r.1, c.1, (0 : BitVec 8), gs)
      else if isMx src then
        let sc := s.blockScale y x.bitmap r.2.1 r.2.2
        let v := convertElem src h.pfmt h.rnd.toNat (rhos.getD i 0) 0 (mxCode (mxWidth src) sc.1 c.1)
        (r.1, v.1, v.2, gs ++ sc.2)
      else
        let v := convertElem src h.pfmt h.rnd.toNat (rhos.getD i 0) 0 c.1
        (r.1, v.1, v.2, gs)
    let es := (x.refs west pl.num u).mapIdx one
    let lanes := (List.range (256 / fmtWidth h.pfmt)).map (fun l => ((es.find? (fun e => e.1 == l)).map (fun e => e.2.1)).getD 0)
    s.deliver ((match big with | some e => e.2 | none => []) ++ es.flatMap (fun e => e.2.2.2))
      (packLanes (fmtWidth h.pfmt) lanes, es.foldl (fun f e => f ||| e.2.2.1) 0)

/-- The piece of line u of a pulled group. The other loader of the core may not hold an active stream in the same bank group of the same
scratchpad (R438); `other` is that loader's stream, active or supplying the same instruction. A decompressing stream counts its bitmap
once the bitmap's granules are full, and delivers nothing before that nor where the count disagrees (R463). -/
def State.pieceTurn (s : State) (west : Bool) (pl : Pull) (other : List Stream) (u : Nat) : PieceTurn :=
  let x := pl.stm
  if other.any (fun o => o.fst.hdr.isSome && o.fst.home.1 == x.fst.home.1 && o.fst.home.2 / 2 ^ 20 == x.fst.home.2 / 2 ^ 20) then
    .withheld 0x24 (if west then 0 else 1)
  else if x.bitmap then
    if !(granulesOf x.fst.tensor.base x.fst.tensor.mapBytes).all (fun g => lookup false g (s.core x.fst.home.1).full) then .notReady
    else if !s.bitmapOk x.fst then .withheld 0x5C 0
    else s.pieceValue west pl u
  else s.pieceValue west pl u

/-! ### As device steps -/

/-- HEADER_READ. -/
def execHeaderRead (c : Fin 192) (e : EdgeId) (s : State) : Result := .next ((s.headerRead c e).unblock)
/-- STREAM_ACTIVATE. -/
def execStreamActivate (c : Fin 192) (e : EdgeId) (s : State) : Result := .next ((s.streamActivate c e).unblock)

end Sys2Proof.Machine
end

