-- ==== Sys2Proof/Machine/Array.lean ====
section
/-! DEFINITION. The wave: leaving the nib, one wave cycle of a chain, the hold line and aggregates (R97 to R113, R118, R282, R318,
R435 to R441). -/

namespace Sys2Proof.Machine

/-! ### What a wave instruction names (R104, R112, R118, R279) -/

/-- The source operand codes of a wave instruction. -/
def waveSources : Instr → List (BitVec 5)
  | .mov o _ | .movh o _ | .unpk o _ | .fsum o _ | .vtest o _ => [o.srcA]
  | .lds o _ => [o.srcB]
  | .sts o _ => [o.srcA, o.srcB]
  | .perm o _ | .pack o _ | .fsgn o _ | .cellFcmp o _ | .fsel o _ | .iadd o _ | .isub o _ | .imul o _ | .imin o _ | .imax o _ | .icmp o _
  | .cellVsel o _ => [o.srcA, o.srcB]
  | .cvt o _ => [o.srcA]
  | .qset o _ => [o.srcA]
  | .cellFadd o _ | .cellFsub o _ | .cellFmul o _ | .cellFma o _ | .cellFmin o _ | .cellFmax o _ | .fdiv o _ | .iand o _ | .ior o _
  | .ixor o _ | .ishl o _ | .ishr o _ | .isra o _ => [o.srcA, o.srcB]
  | .frcp o _ | .frsq o _ | .fsqrt o _ | .fexp2 o _ | .flog2 o _ => [o.srcA]
  | .scl o => [o.srcA, o.srcB]
  | .mac o _ => [o.srcA, o.srcB]
  | .macs o _ | .macv o _ => [o.srcA, o.srcB]
  | .accwr o _ => [o.srcA]
  | _ => []

/-- The destination codes a wave instruction writes, its hand-offs included. -/
def waveDests : Instr → List (BitVec 5)
  | .mov o _ => if o.md = 2 then [] else [o.dst]
  | .movh o _ => [o.dst, if o.md = 0 then 20 else 21]
  | .unpk o _ | .fsum o _ | .vtest o _ => [o.dst]
  | .lds o _ => [o.dst]
  | .imm o _ => [o.dst]
  | .rowcol o _ => [o.dst]
  | .perm o _ | .pack o _ | .fsgn o _ | .cellFcmp o _ | .fsel o _ | .iadd o _ | .isub o _ | .imul o _ | .imin o _ | .imax o _ | .icmp o _
  | .cellVsel o _ => [o.dst]
  | .cvt o _ => [o.dst]
  | .cellFadd o _ | .cellFsub o _ | .cellFmul o _ | .cellFma o _ | .cellFmin o _ | .cellFmax o _ | .fdiv o _ | .iand o _ | .ior o _
  | .ixor o _ | .ishl o _ | .ishr o _ | .isra o _ => [o.dst]
  | .frcp o _ | .frsq o _ | .fsqrt o _ | .fexp2 o _ | .flog2 o _ => [o.dst]
  | .scl o => if o.hand then [20, 21] else []
  | .mac o _ => if o.hand then [20, 21] else []
  | .macs o _ | .macv o _ => if o.hand then [20, 21] else []
  | .accrd o _ => [o.dst]
  | .amax o _ => [o.dst]
  | _ => []

/-- It names ew, or en (R104). -/
def namesWest (i : Instr) : Bool := (waveSources i).contains 30
def namesNorth (i : Instr) : Bool := (waveSources i).contains 31
/-- It names an e or s operand (R112). -/
def namesAhead (i : Instr) : Bool := (waveSources i).any (fun c => 26 ≤ c && c ≤ 29)
/-- It writes h0, or h1 (R118). -/
def givesEast (i : Instr) : Bool := (waveDests i).contains 20
def givesSouth (i : Instr) : Bool := (waveDests i).contains 21

/-- Wave cycles before the next instruction may leave the nib (R283, R320, R325, R333). -/
def occupancy : Instr → Nat
  | .fdiv _ _ | .fsqrt _ _ | .frsq _ _ | .frcp _ _ | .fexp2 _ _ | .flog2 _ _ => 4
  | .fsum _ _ => 2
  | .mac _ xs | .macv _ xs =>
    let a := macFmtA (XFields.of xs)
    let b := macFmtB (XFields.of xs)
    if a = fmtMXI4 && b = fmtMXI4 then 1
    else if isMx a && isMx b && (a = fmtMXI4 || b = fmtMXI4) then 2
    else if a = fmtBF16 || a = fmtFP16 then 2 else 4
  | .macs _ _ => 4
  | .amax _ _ => 2
  | _ => 1

/-! ### The grid of a chain (R109, R111, R113) -/

/-- The core at an array position. -/
def Grid.at_ (g : Grid) (a b : Nat) : Nat := g.cores.getD (a * g.wa + b) 0

/-- Die boundaries crossed to an array position (R111). -/
def Grid.crossings (g : Grid) (a b : Nat) : Nat :=
  let die := fun (i j : Nat) => dieOfBlock (g.at_ i j / 24)
  ((List.range b).filter (fun j => die 0 j != die 0 (j + 1))).length + ((List.range a).filter (fun i => die i b != die (i + 1) b)).length

def Grid.rows (g : Grid) : Nat := 16 * g.ha
def Grid.cols (g : Grid) : Nat := 16 * g.wa
/-- The core and the cell of a grid position, and its chain position. -/
def Grid.coreOf (g : Grid) (r c : Nat) : Nat := g.at_ (r / 16) (c / 16)
def Grid.posOf (g : Grid) (r c : Nat) : Nat := r / 16 * g.wa + c / 16
/-- Wave cycles from the nib to a cell (R97, R111). -/
def Grid.delay (g : Grid) (r c : Nat) : Nat := r + c + 2 * g.crossings (r / 16) (c / 16)
/-- Wave cycles from the nib to the last cell (R123). -/
def Grid.span (g : Grid) : Nat := g.delay (g.rows - 1) (g.cols - 1)

/-- The cells that an instruction reaches so many wave cycles after it left the nib, in ascending row. -/
def Grid.reached (g : Grid) (t : Nat) : List (Nat × Nat) :=
  (List.range g.rows).flatMap (fun r => ((List.range g.cols).filter (fun c => g.delay r c == t)).map (fun c => (r, c)))

/-- The chain that the wave of a core runs through. -/
def CoreArr.chain (k : CoreArr) (n : Nat) : Grid := if k.grid.cores.isEmpty then ⟨[n], 1, 1⟩ else k.grid

/-- Cores of the loaders and writers that take part, by array row or column (R113). -/
def Grid.westCores (g : Grid) : List Nat := (List.range g.ha).map (fun a => g.at_ a 0)
def Grid.northCores (g : Grid) : List Nat := (List.range g.wa).map (fun b => g.at_ 0 b)
def Grid.eastCores (g : Grid) : List Nat := (List.range g.ha).map (fun a => g.at_ a (g.wa - 1))
def Grid.southCores (g : Grid) : List Nat := (List.range g.wa).map (fun b => g.at_ (g.ha - 1) b)

/-! ### A wave fault (R426, R437) -/

/-- A wave STATUS word. -/
def waveStatus (detail pos row col : Nat) : BitVec 32 := BitVec.ofNat 32 (detail % 256 * 2 ^ 24 + pos % 16 * 2 ^ 20 + row % 64 * 2 ^ 6 + col % 64)

/-- The one report of a core, found in a wave cycle; `age` counts the wave cycles from it to the next departure. -/
def State.waveFails (s : State) (n : Nat) (i : Issue) (cause detail pos row col age : Nat) : State :=
  match (s.core n).waveFault with
  | some _ => s
  | none => (s.updCore n (fun k => { k with waveFault := some age })).fail i cause 0 (waveStatus detail pos row col)

/-! ### The hold line (R108, R118, R438) -/

/-- Other streams that R438 tests a pull against: the other loader's active stream, and the one that supplies the same instruction. Streams
in scratchpads of different cores share no bank group (DEDUCED, assumption 117). -/
def State.rivals (s : State) (west : Bool) (w : WaveEntry) (pl : Pull) : List Stream :=
  let k := s.core pl.core
  let u := if west then k.north else k.west
  u.held.head?.toList ++ ((if west then w.north else w.west).filter (fun q => q.core == pl.core)).map (fun q => q.stm)

/-- The piece that the instruction pulled for a grid row, or for a grid column. -/
def State.pieceFor (s : State) (west : Bool) (w : WaveEntry) (line : Nat) : Option PieceTurn :=
  ((if west then w.west else w.north)[line / 16]?).map (fun pl => s.pieceTurn west pl (s.rivals west w pl) (line % 16))

/-- A group of pieces waits in a writer's buffer, or the buffer has room for it (R118). -/
def EdgeUnit.roomFor (u : EdgeUnit) (cap : Nat × Nat) : Bool :=
  let groups := (u.buffer.map (fun b => (b.1, b.2.1))).foldl (fun (gs : List (Nat × Nat)) x => if gs.contains x then gs else gs ++ [x]) []
  groups.contains cap || decide (groups.length < 16)

/-- What holds the wave at a cell that an instruction reaches: a loader's piece (false) or a writer's buffer (true) (R108). -/
def State.heldAt (s : State) (g : Grid) (w : WaveEntry) (r c : Nat) : Option Bool :=
  let waits := fun (t : Option PieceTurn) => !w.forfeit && match t with | some .notReady => true | _ => false
  if (c == 0 && waits (s.pieceFor true w r)) || (r == 0 && waits (s.pieceFor false w c)) then some false
  else
    let full := fun (n : Nat) (e : EdgeId) (cap : Option (Nat × Nat)) => match cap with
      | none => false
      | some x => !((s.core n).edge e).roomFor x
    let cap := fun (m : SMap (Nat × Nat)) (i : Nat) => lookup none i (m.map (fun e => (e.1, some e.2)))
    if (c + 1 == g.cols && full (g.coreOf r c) .east (cap w.east (r / 16))) || (r + 1 == g.rows && full (g.coreOf r c) .south (cap w.south (c / 16)))
    then some true else none

/-- The first border cell that holds the wave in its present cycle, with the instruction there. -/
def State.blocker (s : State) (n : Nat) : Option (Bool × Nat × Nat × WaveEntry) :=
  let k := s.core n
  let g := k.chain n
  k.wave.findSome? (fun w => (g.reached w.elapsed).findSome? (fun p => (s.heldAt g w p.1 p.2).map (fun b => (b, p.1, p.2, w))))

/-! ### NIB_DEPARTURE (R98, R101, R107, R112, R118, R318, R436) -/

/-- Streams of a writer that take captures: not finished, and not to close. -/
def EdgeUnit.accepting (u : EdgeUnit) : List Stream := u.streams.filter (fun x => !x.finished && !x.closing)

/-- Every loader that holds a stream has read the header of the one that supplies the next pull (R107). -/
def State.loadersKnown (s : State) (g : Grid) : Bool :=
  g.westCores.all (fun n => (s.core n).west.held.head?.all (fun x => x.fst.hdr.isSome)) &&
  g.northCores.all (fun n => (s.core n).north.held.head?.all (fun x => x.fst.hdr.isSome))

/-- The gang of a core is not being switched out (R88). -/
def State.mayDepart (s : State) (n : Nat) : Bool :=
  match s.coreGang n with
  | some g => decide (g.place = .resident)
  | none => true

/-- The occupancy and the spacing since the previous instruction (R98, R112). -/
def CoreArr.spaced (k : CoreArr) (g : Grid) (i : Instr) : Bool :=
  match k.wave.getLast? with
  | none => true
  | some w => decide (occupancy w.instr ≤ w.elapsed) && (!(namesAhead i && 0 < g.crossings (g.ha - 1) (g.wa - 1)) || decide (3 ≤ w.elapsed))

/-- No report of an earlier wave cycle than the last, and none of this cycle (R437). -/
def CoreArr.unfaulted (k : CoreArr) : Bool := match k.waveFault with | none => true | some a => a == 1

/-- The instruction at the head of the nib may leave it now. -/
def State.departs (s : State) (n : Nat) (i : Instr) : Bool :=
  let k := s.core n
  let g := k.chain n
  k.hold.isNone && (s.blocker n).isNone && k.stroke.all (fun t => !t.begun) && k.unfaulted && s.mayDepart n && k.spaced g i && s.loadersKnown g

/-- The header that the next pull of a loader uses, or that would (R318). -/
def EdgeUnit.nextHeader (u : EdgeUnit) : Option Header := (u.held.head?).bind (fun x => x.fst.hdr)

/-- One group of pieces pulled from a loader (R104, R114). -/
def State.pull (s : State) (n : Nat) (e : EdgeId) : State × Option Pull :=
  let u := (s.core n).edge e
  match u.held.head? with
  | none => (s, none)
  | some x =>
    let num := x.taken
    let rs := advanceRandom (x.drawsBelow (match e with | .west => true | _ => false) num 16) u.rs
    let streams := if num + 1 = x.total then u.streams.filter (fun z => z.sid != x.sid)
      else u.streams.map (fun z => if z.sid = x.sid then { z with taken := num + 1 } else z)
    (s.updEdge n e (fun v => { v with rs := rs, streams := streams }), some ⟨n, x, num, u.rs⟩)

/-- One group pulled from each loader of a side. -/
def State.pullAll (s : State) (e : EdgeId) : List Nat → State × List Pull
  | [] => (s, [])
  | n :: ns =>
    let a := s.pull n e
    let b := a.1.pullAll e ns
    (b.1, a.2.toList ++ b.2)

/-- The instruction is assigned to a writer's stream: stream and group (R118, R312, R319). -/
def State.assign (s : State) (n : Nat) (e : EdgeId) : State × Option (Nat × Nat) :=
  match ((s.core n).edge e).accepting.head? with
  | none => (s, none)
  | some x =>
    (s.updEdge n e (fun u => (u.upd x.sid (fun z => { z with taken := z.taken + 1, finished := z.taken + 1 == z.total })).closeThird),
     some (x.sid, x.taken))

/-- The writers of a side, by array row or column. -/
def State.assignAll (s : State) (e : EdgeId) : Nat → List Nat → State × SMap (Nat × Nat)
  | _, [] => (s, [])
  | a, n :: ns =>
    let x := s.assign n e
    let y := x.1.assignAll e (a + 1) ns
    (y.1, (match x.2 with | some v => [(a, v)] | none => []) ++ y.2)

/-- The MACV of two streams in different orders of their blocks; a pull with no stream (R436). -/
def State.departureFault (s : State) (g : Grid) (i : Instr) : Option (Nat × Nat) :=
  let w := (s.core (g.at_ 0 0)).west.nextHeader
  let n := (s.core (g.at_ 0 0)).north.nextHeader
  let ord := fun (h : Option Header) => (h.map (fun x => (x.mord, x.permid))).getD (false, 0)
  let macv := match i with | .macv _ _ => true | _ => false
  if macv && ord w != ord n then some (0x23, 4)
  else if namesWest i && g.westCores.any (fun c => (s.core c).west.held.isEmpty) then some (0x25, 0)
  else if namesNorth i && g.northCores.any (fun c => (s.core c).north.held.isEmpty) then some (0x25, 1)
  else none

/-- An instruction that leaves the nib: discarded with a report, or on its way with its selector, biases, pieces and captures. -/
def State.leaveNib (s : State) (n : Nat) (e : NibEntry) : State :=
  let g := (s.core n).chain n
  let s1 := s.updCore n (fun k => { k with nib := k.nib.drop 1, waveAt := if k.wave.isEmpty then max k.waveAt (max (s.cycles n) e.since) else k.waveAt })
  match s1.departureFault g e.instr with
  | some f =>
    (s1.updCore n (fun k => { k with doneAggs := insertAt e.wid (k.waveAt + 2, Aggregate.empty) k.doneAggs })).waveFails n e.by_ f.1 f.2 0 0 0
      (if occupancy e.instr = 1 then 0 else 2)
  | none =>
    let bias := fun (u : EdgeUnit) => (u.nextHeader.map (fun h => h.bias.toInt)).getD 0
    let beta := bias (s1.core (g.at_ 0 0)).west + bias (s1.core (g.at_ 0 0)).north
    let sel := (s1.thread n e.by_.thr).getG (waveSel e.instr)
    let pw := if namesWest e.instr then s1.pullAll .west g.westCores else (s1, [])
    let pn := if namesNorth e.instr then pw.1.pullAll .north g.northCores else (pw.1, [])
    let ce := if givesEast e.instr then pn.1.assignAll .east 0 g.eastCores else (pn.1, [])
    let cs := if givesSouth e.instr then ce.1.assignAll .south 0 g.southCores else (ce.1, [])
    cs.1.updCore n (fun k => { k with wave := k.wave ++ [
      { wid := e.wid, instr := e.instr, by_ := e.by_, x0 := e.x0, x1 := e.x1, sel := sel, beta := beta, west := pw.2, north := pn.2,
        east := ce.2, south := cs.2, elapsed := 0, agg := Aggregate.empty, trail := [], forfeit := false }] })

/-- The OP of PIVSTAT (R337). -/
def strokeOp : Instr → Nat
  | .lup _ => 1 | .chol _ => 2 | .qrh _ => 3 | _ => 4

/-- Wave cycles of a step, from its first instruction's leaving the nib to PROG's rise (R336). -/
def strokeCycles : Instr → Nat
  | .lup _ => 70 | .chol _ => 62 | .qrh _ => 96 | _ => 40

/-- Wave cycles from a stroke's last instruction in the nib to PROG's rise: the way through the leading array, on whose cells alone
a stroke acts (R122, R336; assumption 85). -/
def strokeTail : Nat := 30

/-- The first instruction of a stroke's next step leaves the nib; the first of all sets PROG and PIVSTAT (R122, R337). A stroke that was
saved behind its last step has only its end before it. -/
def CoreArr.startStep (k : CoreArr) (c : Nat) (t : Stroke) : CoreArr :=
  let due := c + (if 64 ≤ t.prog then 0 else strokeCycles t.instr)
  { k with
    stroke := some { t with begun := true, due := some due }
    waveAt := c
    prog := if t.begun then k.prog else 0
    progDue := none
    pivstat := if t.begun then k.pivstat else BitVec.ofNat 32 (strokeOp t.instr * 16) }

/-- NIB_DEPARTURE: the head of the nib leaves it; behind an empty nib the first instruction of a stroke's next step does (R107, R122,
R337, R342). -/
def State.nibDeparture (s : State) (n : Nat) : State :=
  let k := s.core n
  match k.nib with
  | e :: _ => if s.departs n e.instr then s.leaveNib n e else s
  | [] =>
    match k.stroke with
    | none => s
    | some t =>
      if t.due.isNone && k.hold.isNone && (s.blocker n).isNone && k.unfaulted && s.mayDepart n && k.spaced (k.chain n) .wdrain then
        s.updCore n (fun k => k.startStep (if k.wave.isEmpty then max k.waveAt (s.cycles n) else k.waveAt) t)
      else s

/-! ### One wave cycle (R97, R99, R101 to R108, R111, R118, R282, R435, R437, R438) -/

def Cell.hs (c : Cell) : BitVec 256 × BitVec 256 := (c.h0, c.h1)

/-- The cell of a grid position. -/
def State.gridCell (s : State) (g : Grid) (r c : Nat) : Cell := (s.core (g.coreOf r c)).cell (16 * (r % 16) + c % 16)
def State.setGridCell (s : State) (g : Grid) (r c : Nat) (v : Cell) : State :=
  s.updCore (g.coreOf r c) (fun k => k.setCell (16 * (r % 16) + c % 16) v)

/-- What an instruction sees from a cell (R102 to R104, R111): towards west and north the hand-off registers after the instruction
itself, kept by the instruction across the sides of arrays; towards east and south those before it. -/
def State.cellEnv (s : State) (g : Grid) (w : WaveEntry) (r c : Nat) (ew en : BitVec 256) : CellEnv :=
  let kept := fun (r c : Nat) => lookup ((0 : BitVec 256), (0 : BitVec 256)) (64 * r + c) w.trail
  let west := if c = 0 then (0, 0) else if c % 16 = 0 then kept r (c - 1) else (s.gridCell g r (c - 1)).hs
  let north := if r = 0 then (0, 0) else if r % 16 = 0 then kept (r - 1) c else (s.gridCell g (r - 1) c).hs
  let east := if c + 1 = g.cols then (0, 0) else (s.gridCell g r (c + 1)).hs
  let south := if r + 1 = g.rows then (0, 0) else (s.gridCell g (r + 1) c).hs
  { row := r, col := c, pos := g.posOf r c, w0 := west.1, w1 := west.2, n0 := north.1, n1 := north.2, e0 := east.1, e1 := east.2,
    s0 := south.1, s1 := south.2, ew := if c = 0 then ew else west.1, en := if r = 0 then en else north.2, beta := w.beta, x0 := w.x0,
    x1 := w.x1 }

/-- The cell executes the instruction (R101). -/
def WaveEntry.selects (w : WaveEntry) (g : Grid) (r c : Nat) : Bool :=
  w.sel.getLsbD (32 + g.posOf r c) && w.sel.getLsbD (r % 16) && w.sel.getLsbD (16 + c % 16)

/-- An executing cell's predicates join the aggregate (R105). -/
def Aggregate.join (a : Aggregate) (q : BitVec 4) (r c : Nat) : Aggregate :=
  let mark := fun (m : SMap (BitVec 64)) (i : Nat) => [0, 1, 2, 3].foldl (fun m k => if q.getLsbD k then adjust 0 k (fun v => v ||| (1#64 <<< i)) m else m) m
  { anyZero := a.anyZero ||| ~~~q, anyOne := a.anyOne ||| q, rows := mark a.rows r, cols := mark a.cols c }

/-- The hand-off register that a writer captures as the instruction leaves a border cell (R118). -/
def State.capture (s : State) (n : Nat) (e : EdgeId) (cap : Option (Nat × Nat)) (line : Nat) (v : BitVec 256) : State :=
  match cap with
  | none => s
  | some x => s.updEdge n e (fun u => if u.streams.any (fun z => z.sid == x.1) then { u with buffer := u.buffer ++ [(x.1, x.2, line, v)] } else u)

/-- A fault found in a cell: cause, DETAIL, row, column, and the issuer of the instruction. -/
abbrev CellFault := Nat × Nat × Nat × Nat × Issue

/-- The piece of a border cell: its value, its flags, and whether it is missing: withheld with a cause, or lost (R417). -/
def pieceAt (t : Option PieceTurn) : BitVec 256 × BitVec 8 × Bool × Option (Nat × Nat) :=
  match t with
  | none => (0, 0, false, none)
  | some (.ready v f) => (v, f, false, none)
  | some .notReady => (0, 0, true, none)
  | some (.withheld c d) => (0, 0, true, some (c, d))

/-- The lower of two causes. -/
def lowerCause : Option (Nat × Nat) → Option (Nat × Nat) → Option (Nat × Nat)
  | none, b => b
  | a, none => a
  | some a, some b => if b.1 < a.1 then some b else some a

/-- An instruction at one cell: it executes or skips, gives its hand-offs to the writers, and leaves them at the sides of arrays. A cell of a
core whose island has stopped executes nothing (R481). -/
def State.cellStep (s : State) (g : Grid) (w : WaveEntry) (r c : Nat) : State × WaveEntry × Option CellFault :=
  let pw := if c = 0 then pieceAt (s.pieceFor true w r) else (0, 0, false, none)
  let pn := if r = 0 then pieceAt (s.pieceFor false w c) else (0, 0, false, none)
  let flag := fun (s : State) (west : Bool) (line : Nat) (f : BitVec 8) =>
    match (if west then w.west else w.north)[line / 16]? with
    | some pl => s.flagStream pl.stm f
    | none => s
  let s0 := flag (flag s true r pw.2.1) false c pn.2.1
  let cell := s0.gridCell g r c
  let cause := lowerCause pw.2.2.2 pn.2.2.2
  let alive := !(s0.core (g.coreOf r c)).down
  let run := alive && w.selects g r c && !pw.2.2.1 && !pn.2.2.1
  let res : CellResult := if run then cellEffect w.instr (s0.cellEnv g w r c pw.1 pn.1) cell else .ok cell
  let (cell', fault, done) := match res with
    | .ok v => (v, cause, run)
    | .error e => (cell, some e, false)
  let s1 := if done then s0.setGridCell g r c cell' else s0
  let cap := fun (m : SMap (Nat × Nat)) (i : Nat) => lookup none i (m.map (fun e => (e.1, some e.2)))
  let s2 := if alive && c + 1 = g.cols then s1.capture (g.coreOf r c) .east (cap w.east (r / 16)) (r % 16) cell'.h0 else s1
  let s3 := if alive && r + 1 = g.rows then s2.capture (g.coreOf r c) .south (cap w.south (c / 16)) (c % 16) cell'.h1 else s2
  let w' := { w with
    agg := if done then w.agg.join cell'.q r c else w.agg
    trail := if c % 16 = 15 || r % 16 = 15 then insertAt (64 * r + c) cell'.hs w.trail else w.trail }
  (s3, w', fault.map (fun f => (f.1, f.2, r, c, w.by_)))

/-- An instruction at the cells it reaches in this cycle. -/
def State.cellsStep (s : State) (g : Grid) : WaveEntry → List (Nat × Nat) → State × WaveEntry × List CellFault
  | w, [] => (s, w, [])
  | w, p :: ps =>
    let a := s.cellStep g w p.1 p.2
    let b := a.1.cellsStep g a.2.1 ps
    (b.1, b.2.1, a.2.2.toList ++ b.2.2)

/-- Every instruction on its way, oldest first: each reaches its cells of this cycle. -/
def State.entriesStep (s : State) (g : Grid) : List WaveEntry → State × List WaveEntry × List CellFault
  | [] => (s, [], [])
  | w :: ws =>
    let a := s.cellsStep g w (g.reached w.elapsed)
    let b := a.1.entriesStep g ws
    (b.1, { a.2.1 with elapsed := w.elapsed + 1 } :: b.2.1, a.2.2 ++ b.2.2)

/-- The fault of a cycle that is reported: the lowest row, the oldest instruction first (R437). -/
def reportOf : List CellFault → Option CellFault
  | [] => none
  | f :: fs =>
    match reportOf fs with
    | none => some f
    | some h => if h.2.2.1 < f.2.2.1 then some h else some f

/-- One wave cycle of a chain whose hold line is not raised and stays so. -/
def State.waveCycle (s : State) (n : Nat) : State :=
  let g := (s.core n).chain n
  let a := s.entriesStep g (s.core n).wave
  let past := a.2.1.filter (fun w => decide (g.span < w.elapsed))
  let s1 := a.1.updCore n (fun k => { k with
    wave := a.2.1.filter (fun w => decide (w.elapsed ≤ g.span))
    doneAggs := past.foldl (fun m w => insertAt w.wid (k.waveAt + 2, w.agg) m) k.doneAggs
    waveAt := k.waveAt + 1
    waveFault := k.waveFault.map (fun t => t + 1) })
  match reportOf a.2.2 with
  | none => s1
  | some f => s1.waveFails n f.2.2.2.2 f.1 f.2.1 (g.posOf f.2.2.1 f.2.2.2.1) f.2.2.1 f.2.2.2.1 1

/-- CELL_EXECUTE: a wave cycle of the chain that the core leads; a border cell without its piece or without room in the writer's
buffer raises the hold line instead, and none passes while it is raised. -/
def State.cellExecute (s : State) (n : Nat) : State :=
  if (s.core n).hold.isSome then s
  else match s.blocker n with
    | some b => s.updCore n (fun k => { k with hold := some (b.1, b.2.1, b.2.2.1), holdFrom := k.waveAt })
    | none => s.waveCycle n

/-- The hold line drops in a cycle: what was to come in or after the first cycle of the hold comes as many cycles later (R97, R108). -/
def CoreArr.dropHold (k : CoreArr) (c : Nat) : CoreArr :=
  let later := fun (d : Nat) => if k.waveAt ≤ d then d + (c - k.waveAt) else d
  { k with
    hold := none
    waveAt := max k.waveAt c
    doneAggs := k.doneAggs.map (fun e => (e.1, later e.2.1, e.2.2))
    stroke := k.stroke.map (fun t => { t with due := t.due.map later })
    progDue := k.progDue.map later }

/-- HOLD_DROP: nothing holds the wave any more, and the hold line drops in the next cycle: what a cycle fills or makes room for is
ready in the one after it (R108, R140). -/
def State.holdDrop (s : State) (n : Nat) : State :=
  if (s.core n).hold.isSome && (s.blocker n).isNone then s.updCore n (fun k => k.dropHold (s.cycles n + 1)) else s

/-- Something of a launch is parked (R441). -/
def State.launchParked (s : State) (l : Nat) : Bool :=
  s.gangs.any (fun g => g.launch == l && g.parks != 0) || s.copies.any (fun c => c.parked && c.origin.bind (fun o => o.launch) == some l) ||
  s.tasks.any (fun t => t.parked && t.launch == some l)

/-- The gang of a core has not been switched out and nothing of its launch is parked: the cycles of a hold count, also those in which a
SWITCH waits for the wave to drain (R423, R441). -/
def State.holdCounts (s : State) (n : Nat) : Bool :=
  match s.coreGang n with
  | some g => (match g.place with | .saved _ => false | _ => true) && !s.launchParked g.launch
  | none => false

/-- A hold whose cycles do not count now counts from 0 when they do again (R441). -/
def State.watchHolds (s : State) : State :=
  { s with cores := s.cores.map (fun e => if e.2.hold.isSome && !s.holdCounts e.1 then (e.1, { e.2 with holdFrom := s.cycles e.1 }) else e) }

/-- The cycle in which a hold's count reaches its limit (R441). -/
def CoreArr.holdDue (k : CoreArr) : Nat := k.holdFrom + 2 ^ 26

/-- HOLD_LIMIT: the count of a hold reaches 2^26. -/
def State.holdLimit (s : State) (n : Nat) : State :=
  match (s.core n).hold, s.blocker n with
  | some _, some (b, r, c, w) =>
    if s.holdCounts n && (s.core n).waveFault.isNone then
      (s.passTo (s.timeOfCycle n (s.core n).holdDue)).waveFails n w.by_ 0x26 (if b then 1 else 0) (((s.core n).chain n).posOf r c) r c 1
    else s
  | _, _ => s

/-! ### AGGREGATE_VALID (R105, R106, R306) -/

/-- The wave cycles of a chain before a cycle have elapsed, and the hold line is not raised in it (R97, R108). -/
def State.waveReached (s : State) (n c : Nat) : Bool :=
  let k := s.core n
  k.wave.isEmpty || decide (c < k.waveAt) || (c == k.waveAt && k.hold.isNone && (s.blocker n).isNone)

/-- A thread gets the result of a WFLG in a cycle, and a bundle that waits on it issues in the next one or later (R306). -/
def Thread.flagged (th : Thread) (d : BitVec 5) (v : Word) (c : Nat) : Thread :=
  { th.setX d v with waitUntil := max th.waitUntil (c + 1) }

/-- AGGREGATE_VALID: the aggregate of the oldest instruction that has passed the last cell becomes valid in its wave cycle,
and WFLGs that sampled it get their result. -/
def State.aggregateValid (s : State) (n : Nat) : State :=
  match (s.core n).doneAggs with
  | [] => s
  | (wid, (due, a)) :: rest =>
    if !s.waveReached n due then s else
    let k := s.core n
    let mine := k.wflgs.filter (fun f => f.wid == wid)
    let s1 := (s.passTo (s.timeOfCycle n due)).updCore n (fun k => { k with doneAggs := rest, validAgg := some (wid, a), wflgs := k.wflgs.filter (fun f => f.wid != wid) })
    mine.foldl (fun s f => s.updThread n f.thr (fun t => t.flagged (BitVec.ofNat 5 f.dst) (a.part f.md f.qidx) due)) s1

/-! ### As device steps -/

/-- NIB_DEPARTURE. -/
def execNibDeparture (c : Fin 192) (s : State) : Result := .next ((s.nibDeparture c).unblock)
/-- CELL_EXECUTE. -/
def execCellExecute (c : Fin 192) (s : State) : Result := .next ((s.cellExecute c).unblock)
/-- HOLD_DROP. -/
def execHoldDrop (c : Fin 192) (s : State) : Result := .next ((s.holdDrop c).unblock)
/-- HOLD_LIMIT. -/
def execHoldLimit (c : Fin 192) (s : State) : Result := .next ((s.holdLimit c).unblock)
/-- AGGREGATE_VALID. -/
def execAggregateValid (c : Fin 192) (s : State) : Result := .next ((s.aggregateValid c).unblock)

end Sys2Proof.Machine
end

