-- ==== Sys2Proof/Machine/Copies.lean ====
section
/-! DEFINITION. Copies (R160 to R175, R194, R309, R310, R456 to R458, R460 to R464, R469, R492): the start of a copy with its checks,
its units, the landing of their bytes, and completion. -/

namespace Sys2Proof.Machine

/-! ### The packet's checks (R458) -/

/-- DETAIL of cause 0x58 found in the packet itself. -/
def Copy.invalid (c : Copy) : Option Nat :=
  let geo := fieldAt c.pkt 24 8 ≠ 0 ∨ fieldAt c.pkt 32 8 ≠ 0 ∨ fieldAt c.pkt 40 4 ≠ 0
  let options := (if c.trans then 1 else 0) + (if c.prune = 0 then 0 else 1) + (if c.bmap = 0 then 0 else 1)
  if fieldAt c.pkt 0 1 ≠ 0 || bitsOf c.word 10 0 ≠ 0 || fieldAt c.pkt 44 4 ≠ 0 || 0xC ≤ c.sfmt || 0xC ≤ c.dfmt || 4 ≤ c.rm ||
      c.prune = 3 || c.bmap = 3 || c.wellVa % 128 ≠ 0 || c.statVa % 8 ≠ 0 ||
      [c.src, c.dst, c.wellVa, c.statVa].any (fun a => decide (2 ^ 56 ≤ a)) then some 0
  else if c.hdr && decide geo then some 1
  else if !c.hdr && (c.rows = 0 || 2 ^ 24 < c.rows || c.rlen = 0 || 2 ^ 24 < c.rlen) then some 1
  else if (1 : Nat) < options || (c.bmap ≠ 0 && !c.hdr) || (c.run ≠ 0 && !c.bulk) then some 2
  else none

/-! ### The two endpoints (R166, R310) -/

/-- An endpoint of a copy without headers. In a bank whose register is RAW an MX format has no scale array of its own, and the model takes
the one at address 0 (DESIGN CHOICE, assumption 134). -/
def plainTensor (fmt : BitVec 4) (base pitch rows cols : Nat) (bias : Nat) : Tensor :=
  { fmt := fmt, elem := fmt, nmr := false, sidecar := false, base := base, pitch := pitch, rows := rows, cols := cols, scale := 0,
    tail := 0, kax := false, bias := (BitVec.ofNat 16 bias).toInt }

/-- The format register of the bank that an endpoint lies in, here or in another module, whose registers are free values for each copy
(DESIGN CHOICE, assumption 42). -/
def State.endBank (s : State) (c : Copy) (va : Nat) : Option (BitVec 32) :=
  match s.translate c.part c.unit va .read with
  | .error _ => none
  | .ok g => match locate (localOf g.pa) with
    | .scratch n o => if s.isLocal g then some ((s.core n).bfmt.getD (o / 2 ^ 17) 0) else some (Config.farBank (g.pa - o % 2 ^ 17) c.id)
    | _ => none

/-- An endpoint as its bank stores it (R166). -/
def State.endStored (s : State) (c : Copy) (t : Tensor) : Tensor :=
  match s.endBank c t.base with
  | none => t
  | some r => t.inBank r

/-- Source and destination as they are stored, before bytes are told from elements. -/
def State.copyEnds (s : State) (c : Copy) : Tensor × Tensor :=
  let src0 := match c.sh with
    | some h => h.tensor h.fmt
    | none => plainTensor c.sfmt c.src (fieldAt c.pkt 32 4) c.rows c.rlen (fieldAt c.pkt 40 2)
  let src := s.endStored c src0
  let (r, k) := if c.trans then (src.cols, src.rows) else (src.rows, src.cols)
  let dst0 := match c.dh with
    | some h => { h.tensor h.fmt with rows := r, cols := k }
    | none => plainTensor c.dfmt c.dst (fieldAt c.pkt 36 4) r k (fieldAt c.pkt 42 2)
  (src, s.endStored c dst0)

/-- An endpoint as bytes: RLEN counts them, or a header's rows do (R166). -/
def Copy.asBytes (c : Copy) (t : Tensor) : Tensor :=
  if c.hdr then t.asBytes else { t with fmt := fmtRAW, kax := false, sidecar := false }

/-- Source and destination of a copy; with a RAW endpoint both are bytes, a row of the source deciding how many (R166). -/
def State.copyTensors (s : State) (c : Copy) : Tensor × Tensor :=
  let e := s.copyEnds c
  if e.1.fmt = fmtRAW || e.2.fmt = fmtRAW then
    let src := c.asBytes e.1
    let (r, k) := if c.trans then (src.cols, src.rows) else (src.rows, src.cols)
    (src, { c.asBytes e.2 with rows := r, cols := k })
  else e

/-- The endpoint is an MX or NM tensor in global memory. -/
def State.globalBlocks (s : State) (c : Copy) (t : Tensor) : Bool :=
  (isMx t.fmt || t.fmt == fmtNM) && match s.translate c.part c.unit t.base .read with
    | .ok g => (match locate (localOf g.pa) with | .hbm _ _ => true | _ => false)
    | .error _ => false

/-- Conditions that need the endpoints: DETAIL of cause 0x58 (R166 to R169, R458). -/
def State.copyInvalid (s : State) (c : Copy) : Option Nat :=
  let e := s.copyEnds c
  let t := s.copyTensors c
  let okPrune := (e.1.fmt == fmtINT8 || e.1.fmt == fmtMXI8 || isF8 e.1.fmt) && e.1.cols % 64 == 0 &&
    (s.endBank c e.2.base).any (fun r => r.extractLsb' 0 4 == fmtNM && r.getLsbD 8 == (c.prune == 2))
  if 2 ^ 31 ≤ t.2.byteRows * t.2.rowBytes then some 1
  else if c.trans && (t.1.rows % 16 ≠ 0 || t.1.cols % 16 ≠ 0) then some 1
  else if c.prune ≠ 0 && !okPrune then some 2
  else if !c.hdr && (s.globalBlocks c e.1 || s.globalBlocks c e.2) then some 2
  else none

/-! ### Bulk runs (R170, R274, R460) -/

/-- The line after one in an open bank: the next of its row, then the first of the next row (R274). -/
def nextBulkLine (line : Nat) : Nat := if line / 32 % 16 = 15 then line - 15 * 32 + 8192 else line + 32

/-- What a line of the copy meets: a run that is still to be granted, a line outside the open bank or out of order, or the run after the
line has moved. -/
inductive BulkTurn where
  | wait
  | breach (va : Nat)
  | ok (s : State)

/-- The lines of a unit on the copy's global side move in the order of the run (R170, R274, R460); one of another module lies outside every
open bank. The line moved last may be addressed again (DESIGN CHOICE, assumption 136). -/
def State.bulkLines (s : State) (c : Copy) : List (Nat × Target) → BulkTurn
  | [] => .ok s
  | (va, g) :: rest =>
    let pa := localOf g.pa
    if !s.isLocal g then .breach va
    else match s.runOf c (channelOf pa) with
    | none => if c.origin.any (fun o => (s.channel (channelOf pa)).waitsFor o c.run) then .wait else .breach va
    | some r =>
      let l := lineOf pa
      let put := fun (x : BulkRun) => s.updChannel (channelOf pa) (fun ch => { ch with runs := insertAt c.run (some x) ch.runs })
      if r.last = some l then s.bulkLines c rest
      else if r.next = l then (put { r with next := nextBulkLine l, last := some l }).bulkLines c rest
      else .breach va

/-- The lines of a unit in global memory: on the source side, or else on the destination side. -/
def State.bulkSide (s : State) (c : Copy) (rs ws : List (Nat × Nat)) : List (Nat × Target) :=
  let lines := fun (k : Access) (l : List (Nat × Nat)) => (l.flatMap (fun r => pieces r.1 r.2)).filterMap (fun e =>
    match s.translate c.part c.unit e.1 k with
    | .ok g => (match locate (localOf g.pa) with | .hbm _ _ => some (e.1, g) | _ => none)
    | .error _ => none)
  match lines .read rs with
  | [] => lines .write ws
  | l => l

/-- Copies of a channel in flight. -/
def State.copiesOn (s : State) (ch : Nat) : List Copy := s.copies.filter (fun c => c.chan == ch)

/-- Earlier copies of the channel that still have requests to issue (R164). -/
def State.copyBehind (s : State) (c : Copy) : Bool :=
  (s.copiesOn c.chan).any (fun x => x.id < c.id && !x.parked && !x.stopped && (!x.finished || !x.landings.isEmpty))

/-! ### The engine's turns (R160) -/

/-- The next channel of an engine after one, of those that a test accepts, in ascending number and round; after reset the turn begins
after channel 0 (DESIGN CHOICE, assumption 135). -/
def nextChannel (e last : Nat) (f : Nat → Bool) : Option Nat :=
  ((List.range 16).map (fun i => 16 * e + (last + 1 + i) % 16)).find? f

/-- The copy of a channel that issues line requests: the oldest that has any. -/
def State.asking (s : State) (ch : Nat) : Option Copy := (s.copiesOn ch).find? (fun c => !c.asks.isEmpty && !c.stopped)

/-- One read request of an engine: that of the channel whose turn it is, one line a turn, at most 16 in a controller cycle. -/
def State.engineRead (s : State) (e : Nat) : State :=
  let t := lookup (0, 0) e s.engines
  match nextChannel e t.1 (fun ch => (s.asking ch).isSome) with
  | none => s
  | some ch =>
    match s.asking ch with
    | none => s
    | some c =>
      if engineLines ≤ s.issuedNow c.unit false then s
      else match c.asks with
        | [] => s
        | (va, n) :: rest =>
          let s1 := { s.updCopy c.id (fun x => { x with asks := rest }) with engines := insertAt e (ch % 16, t.2) s.engines }
          match s.translate c.part c.unit va .read with
          | .error x => s.copyFault c x.cause va x.status
          | .ok g => s1.askLine c.issue c.part va g n

/-- The lines of a range that the engine must ask for. -/
def State.farPieces (s : State) (c : Copy) (ps : List (Nat × Nat)) : List (Nat × Nat) :=
  ps.filter (fun e => match s.translate c.part c.unit e.1 .read with
    | .ok g => (s.answeredRead c.issue g e.2).isNone
    | .error _ => false)

/-! ### The start of a copy (R164, R309, R458, R461, R492) -/

/-- A header of a copy, asked for in the engine's turns after the lines of the channel's earlier copies, then read and checked: its address,
and whether it is decompressed from (R160, R164, R461, R463). -/
inductive HeaderTurn where
  | ok (s : State) (h : Header)
  | fault (cause addr : Nat) (status : BitVec 32)
  | wait (s : State)

def State.copyHeader (s : State) (c : Copy) (va : Nat) (unpack : Bool) : HeaderTurn :=
  if va % 64 ≠ 0 then .fault 0x47 va 0
  else if s.copyBehind c then .wait s
  else if !c.asks.isEmpty then .wait (s.engineRead (c.chan / 16))
  else if !c.asked then .wait (s.updCopy c.id (fun x => { x with asked := true, asks := s.farPieces c (pieces va 64) }))
  else match s.readVa c.issue c.part va 64 with
    | .wait s1 => .wait s1
    | .fault x a w => .fault x a w
    | .ok s1 bs poison =>
      let h := headerOf bs
      if poison then .fault 0x4C va 0
      else if h.reserved then .fault 0x5A va (detailStatus 3)
      else if !h.sized then .fault 0x5A va (detailStatus 1)
      else if isMx h.fmt && (if h.kax then h.rows else h.cols) % 32 ≠ 0 then .fault 0x5A va (detailStatus 1)
      else if unpack && h.bmovf then .fault 0x5B va 0
      else .ok s1 h

/-- The core whose scratchpad an address lies in, here. -/
def State.coreAtVa (s : State) (p u va : Nat) : Option Nat :=
  match s.translate p u va .write with
  | .ok g => (s.scratchOf g).map Prod.fst
  | .error _ => none

/-- The packet's own conditions, those of its endpoints too where no header gives them (R458); then STAT, the headers, the well and the
conditions that need them; then the copy may run. A step is repeated when the copy was parked in it. -/
def State.copyPrepare (s : State) (c : Copy) : State :=
  let put := fun (s : State) (c : Copy) => s.updCopy c.id (fun _ => c)
  let c0 := { c with asked := false }
  match c.invalid.or (if c.hdr then none else s.copyInvalid c) with
  | some d =>
    let stat := if c.statVa = 0 || c.statVa % 8 ≠ 0 then none
      else match s.translate c.part c.unit c.statVa .write with | .ok g => some g | .error _ => none
    (put s { c with stat := stat }).copyFault c 0x58 0 (detailStatus d)
  | none =>
    if c.statVa ≠ 0 && c.stat.isNone then
      match s.translate c.part c.unit c.statVa .write with
      | .error e => s.copyFault c e.cause c.statVa e.status
      | .ok g => put s { c with stat := some g }
    else if c.hdr && c.sh.isNone then
      match s.copyHeader c c.src (c.bmap == 2) with
      | .wait s1 => s1
      | .fault x a w => (put s c0).copyFault c0 x a w
      | .ok s1 h => put s1 { c0 with sh := some h }
    else if c.hdr && c.dh.isNone then
      match s.copyHeader c c.dst false with
      | .wait s1 => s1
      | .fault x a w => (put s c0).copyFault c0 x a w
      | .ok s1 h => put s1 { c0 with dh := some h }
    else if c.wellVa ≠ 0 && c.well.isNone then
      match s.translate c.part c.unit c.wellVa .write with
      | .error e => s.copyFault c e.cause c.wellVa e.status
      | .ok g =>
        match locate (localOf g.pa) with
        | .scratch _ _ => put s { c with well := some g }
        | _ => s.copyFault c 0x49 c.wellVa (detailStatus 0)
    else
      match s.copyInvalid c with
      | some d => s.copyFault c 0x58 0 (detailStatus d)
      | none =>
        if c.bulk && !s.holdsRun c then s.copyFault c 0x61 0 (detailStatus 0)
        else (put s { c with ready := true, core := s.coreAtVa c.part c.unit (s.copyTensors c).2.base }).clearInbox c.issue

/-- The copy is waiting for its first unit: its checks are made as far as they come. -/
def State.copyPrepareAll (s : State) (i : Nat) : Nat → State
  | 0 => s
  | n + 1 =>
    match s.copyOf i with
    | none => s
    | some c => if c.ready || c.parked || c.stopped then s else (s.copyPrepare c).copyPrepareAll i n

/-- DONEID: the smallest transfer identifier whose copy has not completed (R172). -/
def State.newDoneid (s : State) (ch : Nat) : BitVec 32 :=
  let q := s.copyQueue ch
  (s.copiesOn ch).foldl (fun m c => if (c.tid - q.doneid).toNat < (m - q.doneid).toNat then c.tid else m) q.ridx

def State.updCopyQ (s : State) (ch : Nat) (f : Queue → Queue) : State := { s with copyQ := adjust Queue.reset ch f s.copyQ }

/-- The island of a channel's copy engine has stopped (R481). -/
def State.engineDown (s : State) (ch : Nat) : Bool := (s.island (islandOfUnit (224 + ch / 16))).stopped

/-- COPY_START: the channel reads the packet at RIDX and starts its copy (R164, R458, R492). -/
def State.copyStart (s : State) (ch : Nat) : State :=
  let q := s.copyQueue ch
  if !q.en || 8 ≤ (s.copiesOn ch).length || s.engineDown ch then s
  else match s.ringPacket .copy ch with
    | .none => s
    | .wait s1 => s1
    | .bad _ _ _ => s.clearInbox (ringIssue q.part 1 ch)
    | .packet s0 pkt =>
      let o := q.originAt (q.ridx.toNat % 1024)
      let c : Copy :=
        { id := s0.nextId, chan := ch, tid := q.ridx, part := q.part, origin := o, pkt := pkt, ready := false, sh := none, dh := none,
          stat := none, well := none, core := none, row := 0, off := 0, asks := [], asked := false, landings := [], held := [], progress := 0,
          flags := 0, ecode := 0, parked := false, go := false, stopped := false, finished := false, reported := false }
      let s1 := s0.fresh.takePacket .copy ch
      if s.launchFailed c.launch then s1.updCopyQ ch (fun q => { q with doneid := s1.newDoneid ch })
      else ({ s1 with copies := s1.copies ++ [c] }).copyPrepareAll c.id 8

/-! ### The bytes of a unit (R37, R116, R117, R119, R136, R166 to R169) -/

/-- Where the elements of a copy's source come from: one element as format and code, and a whole block as codes and scale. -/
structure Source where
  elem : Nat → Nat → BitVec 4 × Nat
  block : Nat → Nat → List Nat × Nat

/-- The source of a copy that is no bitmap tensor, from the bytes read. -/
def State.plainSource (s : State) (c : Copy) (t : Tensor) (m : Snap) : Source where
  elem a b :=
    if t.rows ≤ a || t.cols ≤ b then (fmtINT8, 0)
    else t.element (m.bytes (t.cellVa a b) t.cellBytes) (s.scaleOf c.part c.unit t false m a b) (t.posIn a b)
  block a b :=
    let cell := m.bytes (t.cellVa a b) t.cellBytes
    (if isMx t.fmt then (List.range 32).map (packedCode (mxWidth t.fmt) cell) else cell.map (fun x => x.toNat),
     s.scaleOf c.part c.unit t false m a b)

/-- A cell of the destination in bytes, its scale and flags: the elements from (a, b) on, down or along. -/
def Copy.cell (c : Copy) (src dst : Tensor) (f : Source) (free : Nat → Byte) (a b : Nat) : List Byte × Nat × BitVec 8 :=
  let k : Int := src.bias - dst.bias
  let at_ := fun (i : Nat) =>
    let x := if dst.down then a + i else a
    let y := if dst.down then b else b + i
    if c.trans then (y, x) else (x, y)
  let first := at_ 0
  let sameWay := if c.trans then src.down != dst.down else src.down == dst.down
  if isMx dst.fmt then
    let n := mxWidth dst.fmt
    if src.fmt = dst.fmt && k = 0 && sameWay then
      let r := f.block first.1 first.2
      (leBytes (4 * n) (packBits n r.1), r.2, 0)
    else
      let r := engineBlock n c.rm [] k ((List.range 32).map (fun i => f.elem (at_ i).1 (at_ i).2))
      (leBytes (4 * n) (packBits n r.2.1), r.1, r.2.2)
  else if dst.fmt = fmtNM then
    let xs := (List.range 64).map (fun i => f.elem (at_ i).1 (at_ i).2)
    if c.prune ≠ 0 then
      let pair := if src.fmt = fmtMXI8 then [f.block first.1 first.2, f.block first.1 (first.2 + 32)] else []
      let r := pruneUnit src.fmt (if c.prune = 1 then 8 else 4) (if src.fmt = fmtMXI8 then pair.flatMap (fun p => p.1) else xs.map (fun x => x.2))
      if src.fmt = dst.elem && k = 0 then (unitBytes r.1 r.2 (pair.map (fun p => p.2)), 0, 0)
      else
        let u := convertUnit dst.elem c.rm k r.2 xs
        (u.1, 0, u.2)
    else if src.fmt = fmtNM && !c.trans then
      let cell := (f.block first.1 first.2).1.map (BitVec.ofNat 8)
      if src.elem = dst.elem && k = 0 then (cell, 0, 0)
      else
        let u := convertUnit dst.elem c.rm k (fieldAt cell 32 8) xs
        (u.1, 0, u.2)
    else ((List.range 48).map (fun i => free (64 * (a * dst.cols + b) + i)), 0, 0)
  else
    let x := f.elem first.1 first.2
    let r := if dst.fmt = fmtRAW then (x.2, 0) else convertElem x.1 dst.fmt c.rm 0 k x.2
    (leBytes dst.cellBytes r.1, 0, r.2)

/-- Bytes at ascending places joined to pieces. -/
def joinParts : List (Nat × List Byte) → List (Nat × List Byte)
  | [] => []
  | (a, x) :: rest =>
    match joinParts rest with
    | (b, ys) :: r => if b = a + x.length then (a, x ++ ys) :: r else (a, x) :: (b, ys) :: r
    | [] => [(a, x)]

/-- What a unit writes: pieces by address, scales by the address of their block and of their place in a scale array, flags. -/
structure UnitOut where
  parts : List (Nat × List Byte)
  scales : List (Nat × Nat × Byte)
  flags : BitVec 8

/-- A rectangle of the destination's elements, from (i0, j0) up to (i1, j1). -/
structure Rect where
  i0 : Nat
  i1 : Nat
  j0 : Nat
  j1 : Nat

/-- The destination elements of a run of n bytes from byte off of byte row `row`. -/
def Tensor.runRect (t : Tensor) (row off n : Nat) : Rect :=
  let k0 := off / t.cellBytes
  let k1 := (off + n - 1) / t.cellBytes + 1
  if t.down then ⟨32 * row, 32 * row + 32, k0, k1⟩ else ⟨row, row + 1, k0 * t.cellElems, k1 * t.cellElems⟩

/-- Address of a byte row. -/
def Tensor.rowVa (t : Tensor) (row : Nat) : Nat := t.base + row * t.pitch

/-- Bytes of 16 elements along the direction of storage. -/
def Tensor.segBytes (t : Tensor) : Nat := if isMx t.fmt then 2 * mxWidth t.fmt else if t.fmt = fmtNM then 12 else 16 * t.cellBytes

/-- A run's cells in order, their bytes joined and the run cut from them. -/
def Copy.runOut (c : Copy) (src dst : Tensor) (f : Source) (free : Nat → Byte) (row off n : Nat) : UnitOut :=
  let k0 := off / dst.cellBytes
  let ks := List.range ((off + n - 1) / dst.cellBytes + 1 - k0)
  let pos := fun (i : Nat) => if dst.down then (32 * row, k0 + i) else (row, (k0 + i) * dst.cellElems)
  let cells := ks.map (fun i => c.cell src dst f free (pos i).1 (pos i).2)
  let bytes := (cells.flatMap (fun x => x.1)).drop (off - k0 * dst.cellBytes)
  let starts := ks.filter (fun i => off ≤ (k0 + i) * dst.cellBytes)
  { parts := [(dst.rowVa row + off, bytes.take n)],
    scales := if isMx dst.fmt then starts.map (fun i =>
        (dst.cellVa (pos i).1 (pos i).2, dst.scale + dst.scaleIndex (pos i).1 (pos i).2, BitVec.ofNat 8 (cells.getD i ([], 0, 0)).2.1))
      else [],
    flags := cells.foldl (fun w x => w ||| x.2.2) 0 }

/-- A 16×16 sub-tile of a transposing copy: source rows 16·ti on and columns 16·tj on (R167). -/
def Copy.tileOut (c : Copy) (src dst : Tensor) (f : Source) (free : Nat → Byte) (ti tj : Nat) : UnitOut :=
  let one := fun (i : Nat) =>
    let a := if dst.down then 16 * tj else 16 * tj + i
    let b := if dst.down then 16 * ti + i else 16 * ti
    let e := dst.cellElems
    let a0 := if dst.down then a / 32 * 32 else a
    let b0 := if dst.down then b else b / e * e
    if e = 1 then
      let cs := (List.range 16).map (fun j => c.cell src dst f free a (b + j))
      ((dst.cellVa a b, cs.flatMap (fun x => x.1)), [], cs.foldl (fun w x => w ||| x.2.2) 0)
    else
      let x := c.cell src dst f free a0 b0
      let o := dst.posIn a b / 16 * dst.segBytes
      ((dst.cellVa a b + o, bytesAt x.1 o dst.segBytes),
       if isMx dst.fmt && o = 0 then [(dst.cellVa a b, dst.scale + dst.scaleIndex a b, BitVec.ofNat 8 x.2.1)] else [], x.2.2)
  let rs := (List.range 16).map one
  { parts := rs.map (fun r => r.1), scales := rs.flatMap (fun r => r.2.1), flags := rs.foldl (fun w r => w ||| r.2.2) 0 }

/-- Bytes of a bitmap of n bits (R137). -/
def bitmapBytes (n : Nat) : Nat := (n + 127) / 128 * 16

/-- Bytes of n packed codes. -/
def packedBytes (fmt : BitVec 4) (n : Nat) : Nat := (n * fmtWidth fmt + 7) / 8

/-- The dense codes of a bitmap-compressed source (R117): the code of an element, from its bitmap and value region. -/
def bitmapCode (fmt : BitVec 4) (bitmap values : List Byte) (i : Nat) : Nat :=
  let m := leNat bitmap
  if bitsOf m i i = 1 then packedCode (fmtWidth fmt) values ((List.range i).foldl (fun n j => n + bitsOf m j j) 0) else 0

/-- The source of a decompressing copy. -/
def State.bitmapSource (s : State) (c : Copy) (t : Tensor) (m : Snap) (n : Nat) : Source where
  elem a b :=
    let code := bitmapCode t.fmt (m.bytes t.base (bitmapBytes (t.rows * t.cols))) (m.bytes (t.base + bitmapBytes (t.rows * t.cols)) n)
      (a * t.cols + b)
    if isMx t.fmt then (t.fmt, mxCode (mxWidth t.fmt) (s.scaleOf c.part c.unit t true m a b) code) else (t.fmt, code)
  block a b :=
    ((List.range 32).map (fun i => bitmapCode t.fmt (m.bytes t.base (bitmapBytes (t.rows * t.cols)))
        (m.bytes (t.base + bitmapBytes (t.rows * t.cols)) n) (if t.down then (a + i) * t.cols + b else a * t.cols + b + i)),
     s.scaleOf c.part c.unit t true m a b)

/-- The dense codes of the destination of a compressing copy in ascending index, their scales and flags. -/
def Copy.denseCodes (c : Copy) (src dst : Tensor) (f : Source) : List Nat × List (Nat × Nat × Byte) × BitVec 8 :=
  let w := fmtWidth dst.fmt
  let n := dst.rows * dst.cols
  if isMx dst.fmt then
    let starts := (List.range (n / 32)).map (fun i =>
      if dst.down then (i / dst.cols * 32, i % dst.cols) else (i / (dst.cols / 32), i % (dst.cols / 32) * 32))
    let blocks := starts.map (fun b => c.cell src dst f (fun _ => 0) b.1 b.2)
    let codeOf := fun (a b : Nat) => packedCode w (blocks.getD (dst.scaleIndex a b) ([], 0, 0)).1 (dst.posIn a b)
    ((List.range n).map (fun i => codeOf (i / dst.cols) (i % dst.cols)),
     blocks.mapIdx (fun i x => (dst.base, dst.scale + i, BitVec.ofNat 8 x.2.1)), blocks.foldl (fun g x => g ||| x.2.2) 0)
  else
    let cells := (List.range dst.rows).flatMap (fun a => (List.range dst.cols).map (fun b => c.cell src dst f (fun _ => 0) a b))
    (cells.map (fun x => leNat x.1), [], cells.foldl (fun g x => g ||| x.2.2) 0)

/-- Bitmap, value region up to its capacity, and the length fields of the header (R119, R137, R462). -/
structure Packed where
  bitmap : List Byte
  values : List Byte
  stored : Nat

def packDense (fmt : BitVec 4) (cap : Nat) (codes : List Nat) : Packed :=
  let kept := codes.filter (fun x => x != 0)
  let put := kept.take cap
  { bitmap := leBytes (bitmapBytes codes.length) ((codes.mapIdx (fun i x => if x = 0 then 0 else 2 ^ i)).foldl (· + ·) 0),
    values := leBytes (packedBytes fmt put.length) (packBits (fmtWidth fmt) put), stored := kept.length }

/-- BMLEN, and BMOVF with BMCAP, as header bytes 56..63. -/
def lengthFields (stored cap : Nat) : List Byte := leBytes 4 stored ++ leBytes 4 (cap + if cap < stored then 2 ^ 31 else 0)

/-! ### Overlap (R166, R458) -/

/-- Some row of a source touches a range of bytes. -/
def Tensor.touches (t : Tensor) (lo hi : Nat) : Bool :=
  if hi ≤ t.base || t.byteRows = 0 then false
  else
    let r := if t.pitch = 0 then t.byteRows - 1 else min (t.byteRows - 1) ((hi - 1 - t.base) / t.pitch)
    decide (lo < t.rowVa r + t.rowBytes)

/-- Destination and source share a byte: every destination byte then takes an unspecified value. -/
def overlaps (src dst : Tensor) : Bool :=
  let last := fun (t : Tensor) => t.rowVa (t.byteRows - 1) + t.rowBytes
  decide (src.base < last dst) && decide (dst.base < last src) &&
  (List.range dst.byteRows).any (fun r => src.touches (dst.rowVa r) (dst.rowVa r + dst.rowBytes))

/-! ### COPY_UNIT (R456, R457) -/

/-- The landings of a piece: one for each line of 128 bytes, with the sidecar scales of the blocks that begin in it; those of a
compressed tensor go with its first byte. -/
def State.landingsOf (s : State) (c : Copy) (dst : Tensor) (poison counted : Bool) (scales : List (Nat × Nat × Byte)) (p : Nat × List Byte) :
    List Landing :=
  (pieces p.1 p.2.length).filterMap (fun e =>
    match s.translate c.part c.unit e.1 .write with
    | .error _ => none
    | .ok g =>
      let past := fun (x : Nat × Nat × Byte) => if c.bmap = 1 then (x.2.1 - dst.scale) * dst.cellBytes else 0
      let sc := if dst.sidecar then (scales.filter (fun x => decide (e.1 ≤ x.1) && decide (x.1 < e.1 + e.2))).map (fun x =>
          (sidecarIndex dst.fmt (localOf g.pa + (x.1 - e.1) + past x - scratchBase), x.2.2)) else []
      some ⟨e.1, g.pa, bytesAt p.2 (e.1 - p.1) e.2, sc.map (fun x => (x.1 % 2 ^ 17, x.2)), poison, if counted then e.2 else 0, g.cls,
        g.kslot⟩)

/-- Scale bytes for a scale array, neighbours joined. -/
def joinBytes : List (Nat × Byte) → List (Nat × List Byte)
  | [] => []
  | (a, x) :: rest =>
    match joinBytes rest with
    | (b, ys) :: r => if b = a + 1 then (a, x :: ys) :: r else (a, [x]) :: (b, ys) :: r
    | [] => [(a, [x])]

/-- Flags for a thread of a gang that EVICT has taken from its cores: they are observed after resumption (R88). -/
def State.savedFlags (s : State) (u t : Nat) (o : Owner) (f : BitVec 8) : State :=
  match (match o with | .gang g => s.gangOf g | _ => none) with
  | none => s
  | some k => { s with saved := s.saved.map (fun c =>
      if c.gang = k.id && k.coreOf c.rank = u then
        { c with threads := c.threads.setIfInBounds t ((c.threads.getD t Thread.reset).raiseAgent (s.cycles u) f) }
      else c) }

/-- The agent flags of a conversion reach the thread that issued the copy while it serves the same owner (R56, R88, R433). -/
def State.copyFlags (s : State) (c : Copy) (f : BitVec 8) : State :=
  let s1 := s.updCopy c.id (fun x => { x with flags := x.flags ||| f })
  match c.origin with
  | none => s1
  | some o =>
    if f ≠ 0 && decide ((s1.thread o.by_.unit o.by_.thr).owner = o.by_.owner) && decide (o.by_.owner ≠ .none) then
      s1.agentFlags o.by_.unit o.by_.thr f
    else if f ≠ 0 then s1.savedFlags o.by_.unit o.by_.thr o.by_.owner f
    else s1

/-- What the next unit reads and writes, by address, before any access: the ranges of its source and of its destination, the
bytes it counts, and the copy after it. -/
structure UnitPlan where
  rect : Rect
  reads : List (Nat × Nat)
  writes : List (Nat × Nat)
  after : Copy

/-- The source rectangle of a destination rectangle. -/
def Copy.sourceRect (c : Copy) (r : Rect) : Rect := if c.trans then ⟨r.j0, r.j1, r.i0, r.i1⟩ else r

/-- A rectangle cut to a tensor. -/
def Rect.cut (r : Rect) (t : Tensor) : Rect := ⟨r.i0, min r.i1 t.rows, r.j0, min r.j1 t.cols⟩

/-- The cells and scales of a rectangle of a tensor. -/
def Tensor.rectRanges (t : Tensor) (r : Rect) : List (Nat × Nat) :=
  t.cellRanges r.i0 r.i1 r.j0 r.j1 ++ t.scaleRanges r.i0 r.i1 r.j0 r.j1

/-- Bytes of the run at a copy's position. -/
def Copy.runLen (c : Copy) (dst : Tensor) : Nat :=
  if c.prune ≠ 0 then 48 else min (dst.rowBytes - c.off) (128 - (dst.rowVa c.row + c.off) % 128)

/-- The position after a run. -/
def Copy.advance (c : Copy) (dst : Tensor) (n : Nat) : Copy :=
  let c1 := if c.off + n < dst.rowBytes then { c with off := c.off + n } else { c with row := c.row + 1, off := 0 }
  { c1 with finished := decide (dst.byteRows ≤ c1.row), progress := c.progress + n }

/-- Whole blocks around a rectangle, for a destination of blocks. -/
def Tensor.widen (t : Tensor) (r : Rect) : Rect :=
  let e := t.cellElems
  if t.down then { r with i0 := r.i0 / 32 * 32, i1 := (r.i1 + 31) / 32 * 32 }
  else { r with j0 := r.j0 / e * e, j1 := (r.j1 + e - 1) / e * e }

def Copy.plan (c : Copy) (src dst : Tensor) : UnitPlan :=
  if c.bmap ≠ 0 then
    let all : Rect := ⟨0, src.rows, 0, src.cols⟩
    let n := src.rows * src.cols
    let h := c.sh.getD (headerOf [])
    let d := c.dh.getD (headerOf [])
    let w := fmtWidth src.fmt
    let reads :=
      if c.bmap = 2 then [(src.base, bitmapBytes n), (src.base + bitmapBytes n, packedBytes src.fmt h.bmlen)] ++
        src.scaleRanges 0 src.rows 0 src.cols
      else src.rectRanges all
    let writes :=
      if c.bmap = 1 then [(dst.base, bitmapBytes n), (dst.base + bitmapBytes n, packedBytes dst.fmt (min n d.bmcap)), (c.dst + 56, 8)] ++
        dst.scaleRanges 0 dst.rows 0 dst.cols
      else dst.rectRanges ⟨0, dst.rows, 0, dst.cols⟩
    ⟨⟨0, dst.rows, 0, dst.cols⟩, if w = 0 then [] else reads.filter (fun r => r.2 != 0), writes.filter (fun r => r.2 != 0),
     { c with finished := true }⟩
  else if c.trans then
    let nj := src.cols / 16
    let ti := c.row / nj
    let tj := c.row % nj
    let r := dst.widen ⟨16 * tj, 16 * tj + 16, 16 * ti, 16 * ti + 16⟩
    ⟨r, src.rectRanges ((c.sourceRect r).cut src), dst.rectRanges (r.cut dst),
     { c with row := c.row + 1, finished := decide (src.rows / 16 * nj ≤ c.row + 1), progress := c.progress + 16 * dst.segBytes }⟩
  else
    let n := c.runLen dst
    let r := dst.runRect c.row c.off n
    ⟨r, src.rectRanges ((c.sourceRect r).cut src),
     (dst.rowVa c.row + c.off, n) :: dst.scaleRanges r.i0 (min r.i1 dst.rows) r.j0 (min r.j1 dst.cols), c.advance dst n⟩

/-- The bitmap's population count agrees with BMLEN, which is within BMCAP (R463). -/
def bitmapAgrees (h : Header) (bitmap : List Byte) (n : Nat) : Bool :=
  let m := leNat bitmap
  (List.range n).foldl (fun k i => k + bitsOf m i i) 0 == h.bmlen && decide (h.bmlen ≤ h.bmcap)

/-- The outcome of a unit whose source bytes are at hand: what it writes and counts, what it writes uncounted, and an ECODE
without a fault. -/
def State.unitOut (s : State) (c : Copy) (src dst : Tensor) (m : Snap) : UnitOut × List (Nat × List Byte) × Nat :=
  let free := fun (i : Nat) => Config.freeByte (s.freeCount + i)
  let f := if c.bmap = 2 then s.bitmapSource c src m (packedBytes src.fmt (c.sh.getD (headerOf [])).bmlen) else s.plainSource c src m
  if c.bmap = 1 then
    let d := c.dh.getD (headerOf [])
    let dense := c.denseCodes src dst f
    let p := packDense dst.fmt d.bmcap dense.1
    (⟨[(dst.base, p.bitmap), (dst.base + p.bitmap.length, p.values)], dense.2.1, dense.2.2⟩,
     [(c.dst + 56, lengthFields p.stored d.bmcap)], if d.bmcap < p.stored then 0x5D else 0)
  else if c.bmap = 2 then
    let rs := (List.range dst.byteRows).map (fun r => c.runOut src dst f free r 0 dst.rowBytes)
    (⟨rs.flatMap (fun r => r.parts), rs.flatMap (fun r => r.scales), rs.foldl (fun w r => w ||| r.flags) 0⟩, [], 0)
  else if c.trans then (c.tileOut src dst f free (c.row / (src.cols / 16)) (c.row % (src.cols / 16)), [], 0)
  else (c.runOut src dst f free c.row c.off (c.runLen dst), [], 0)

/-- The unit's accesses are issued: what it read is converted, and its bytes are on their way to land. -/
def State.issueUnit (s : State) (c after : Copy) (src dst : Tensor) (m : Snap) (poison : Bool) : State :=
  let o := s.unitOut c src dst m
  let parts := if overlaps src dst then
      (o.1.parts.mapIdx (fun i p => (p.1, (List.range p.2.length).map (fun j => Config.freeByte (s.freeCount + 4096 * i + j)))))
    else o.1.parts
  let arrays := if dst.sidecar then [] else joinBytes (o.1.scales.map (fun x => (x.2.1, x.2.2)))
  let ls := (parts.flatMap (s.landingsOf c dst poison true o.1.scales)) ++ arrays.flatMap (s.landingsOf c dst poison true []) ++
    o.2.1.flatMap (s.landingsOf c dst false false [])
  let s1 := s.updCopy c.id (fun _ => { after with landings := c.landings ++ ls, ecode := if o.2.2 ≠ 0 then o.2.2 else if poison then 0x4C else c.ecode })
  ({ s1 with freeCount := s1.freeCount + 4096 * 4096 }).copyFlags c o.1.flags

/-- Requests of the copy that have no answer. -/
def State.copyOut (s : State) (c : Copy) : Bool := s.issuing c.issue

/-- The core whose scratchpad, here, some row of an endpoint reaches passes a test. -/
def State.endTouches (s : State) (c : Copy) (t : Tensor) (f : Nat → Bool) : Bool :=
  (List.range t.byteRows).any (fun r => (pieces (t.rowVa r) t.rowBytes).any (fun e => (s.coreAtVa c.part c.unit e.1).any f))

/-- Some row of a copy's destination, or of either endpoint, lies in the scratchpad of a core that passes a test; of a copy that is not ready
it may. -/
def State.landsIn (s : State) (c : Copy) (f : Nat → Bool) : Bool := !c.ready || s.endTouches c (s.copyTensors c).2 f
def State.copyTouches (s : State) (c : Copy) (f : Nat → Bool) : Bool :=
  !c.ready || s.endTouches c (s.copyTensors c).1 f || s.endTouches c (s.copyTensors c).2 f

/-- The scratchpad of a core is being written to a save area at EVICT depth, and nothing lands in it any more (R89). -/
def State.sealed (s : State) (n : Nat) : Bool := (s.core n).saveOut && (s.core n).saving.any (fun e => e.1)

/-- Cores that EVICT has taken from a gang. -/
def State.awayCore (s : State) (k : Gang) (n : Nat) : Bool :=
  (match k.place with | .switching e => e | .saved e => e | .resident => false) && k.cores.contains n && decide ((s.core n).gang ≠ some k.id)

/-- A parked copy continues once its GO has been observed and its gang is on its cores (R421), a SWITCH that waits for it included (R423). A
copy that touches the scratchpad of a core that EVICT has taken from its gang waits until the gang is back (R89); others go on (R88). -/
def State.copyRuns (s : State) (c : Copy) : Bool :=
  let g := (s.ownerGang c.owner).bind s.gangOf
  (!c.parked || (c.go && g.all (fun k => match k.place with | .saved _ => false | _ => true))) &&
  g.all (fun k => !k.cores.any (s.awayCore k) || !s.copyTouches c (s.awayCore k)) &&
  (s.cores.all (fun e => !s.sealed e.1) || !s.copyTouches c s.sealed)

/-- The accesses of the next unit (R456): its faults, then its lines, which the engine asks for in its turns, then what they hold. -/
def State.nextUnit_ (s : State) (c : Copy) : State :=
  let t := s.copyTensors c
  let pl := c.plan t.1 t.2
  let ps := pl.reads.flatMap (fun r => pieces r.1 r.2)
  if !c.asks.isEmpty then s.engineRead (c.chan / 16)
  else if !c.asked then
    match s.firstFault c.part c.unit .read pl.reads with
    | some (x, a, w) => s.copyFault c x a w
    | none =>
      match s.firstFault c.part c.unit .write pl.writes with
      | some (x, a, w) => s.copyFault c x a w
      | none =>
        let begin := fun (s : State) => s.updCopy c.id (fun x => { x with asked := true, asks := s.farPieces c ps })
        if c.bulk then
          match s.bulkLines c (s.bulkSide c pl.reads pl.writes) with
          | .wait => s
          | .breach va => s.copyFault c 0x61 va (detailStatus 1)
          | .ok s2 => begin s2
        else begin s
  else
    match s.readPieces c.issue c.part ps with
    | .wait s1 => s1
    | .fault x a w => s.copyFault c x a w
    | .ok s1 bs poison =>
      let m := splitSnap pl.reads bs
      let h := c.sh.getD (headerOf [])
      if c.bmap = 2 && !bitmapAgrees h (m.bytes t.1.base (bitmapBytes (t.1.rows * t.1.cols))) (t.1.rows * t.1.cols) then
        s.copyFault c 0x5C t.1.base 0
      else (s1.clearInbox c.issue).issueUnit c { pl.after with asked := false } t.1 t.2 m poison

/-- COPY_UNIT: the next unit of a copy, unless it is parked, stopped, or behind an earlier copy of its channel. A copy whose
launch has ended stops (R417). -/
def State.copyUnit (s : State) (ch i : Nat) : State :=
  match s.copyOf i with
  | none => s
  | some c =>
    if c.chan ≠ ch || c.stopped || c.finished || s.engineDown ch then s
    else if s.launchFailed c.launch then s.updCopy i (fun x => { x with stopped := true, ecode := 7, parked := false })
    else if !s.copyRuns c then s
    else
      let c1 := { c with parked := false, go := false }
      let s1 := s.updCopy i (fun _ => c1)
      if !c1.ready then s1.copyPrepareAll i 8
      else if !c1.asked && (s1.copyBehind c1 || (c1.trans && (!c1.landings.isEmpty || s1.copyOut c1))) then s1
      else s1.nextUnit_ c1

/-! ### COPY_LANDING (R138, R171, R175, R469) -/

/-- Some byte of the destination in a range has not been issued yet. -/
def Copy.unissued (c : Copy) (src dst : Tensor) (lo hi : Nat) : Bool :=
  if c.finished || hi ≤ dst.base then false
  else
    let top := if dst.pitch = 0 then dst.byteRows - 1 else min (dst.byteRows - 1) ((hi - 1 - dst.base) / dst.pitch)
    if c.trans then
      (List.range (hi - lo)).any (fun x =>
        (List.range (top + 1)).any (fun r =>
          decide (dst.rowVa r ≤ lo + x) && decide (lo + x < dst.rowVa r + dst.rowBytes) &&
            (let o := lo + x - dst.rowVa r
             let ti := if dst.down then o / dst.cellBytes / 16 else o / dst.segBytes
             let tj := if dst.down then 2 * r + o % dst.cellBytes / dst.segBytes else r / 16
             decide (c.row ≤ ti * (src.cols / 16) + tj))))
    else if c.row < top then decide (lo < dst.rowVa top + dst.rowBytes)
    else c.row == top && decide (dst.rowVa top + c.off < hi) && decide (lo < dst.rowVa top + dst.rowBytes)

/-- The granules of a landing that it completes: no byte of the operation for them is still to come (R138). -/
def State.completes (s : State) (c : Copy) (l : Landing) (rest : List Landing) : List Nat :=
  let t := s.copyTensors c
  let off := (localOf l.pa - scratchBase) % 0x200000
  (granulesOf off l.bytes.length).filter (fun g =>
    let lo := l.va + 16 * g - off
    !rest.any (fun x => decide (x.va < lo + 16) && decide (lo < x.va + x.bytes.length)) && !c.unissued t.1 t.2 lo (lo + 16))

/-- Bytes of a landing by their place, with whether they count at the well. -/
def Landing.cells (l : Landing) : List (Nat × Byte × Bool) :=
  (List.range l.bytes.length).map (fun i => (l.pa + i, l.bytes.getD i 0, decide (0 < l.count)))

/-- One piece is on its way to its home. In a scratchpad, here or in another module, the bytes of a granule stay with the engine until
the last of them has come, and become visible together with its bit (R138, R171). -/
def State.landPiece (s : State) (c : Copy) (l : Landing) (rest : List Landing) : State :=
  let g : Target := ⟨l.pa, l.cls, l.kslot⟩
  let put := fun (s : State) (op : MemOp) => s.submit (lineReq s c.issue c.part l.va l.bytes.length g op)
  match locate (localOf l.pa) with
  | .hbm _ _ =>
    put (s.updCopy c.id (fun x => { x with landings := rest })) (.engine (some c.id) [(0, l.bytes)] false [] l.count l.poison)
  | _ =>
    let gs := s.completes c l rest
    let off := (localOf l.pa - scratchBase) % 0x200000
    let whole := fun (a : Nat) => gs.contains (((localOf a - scratchBase) % 0x200000) / 16)
    let all := l.cells ++ c.held.map (fun e => (e.1, e.2.1, e.2.2))
    let mine := all.filter (fun e => l.pa / 128 == e.1 / 128 && whole e.1)
    let held := (all.filter (fun e => !(l.pa / 128 == e.1 / 128 && whole e.1))).foldl (fun m e => insertAt e.1 e.2 m) []
    let s1 := s.updCopy c.id (fun x => { x with landings := rest, held := held })
    let lo := l.pa / 128 * 128
    let parts := gs.filterMap (fun k =>
      let a := l.pa - off + 16 * k
      let bs := (List.range 16).filterMap (fun i => (mine.find? (fun e => e.1 == a + i)).map (fun e => (i, e.2.1)))
      if bs.isEmpty then none else some (a - lo, bs))
    let ps := parts.flatMap (fun p => p.2.map (fun b => (p.1 + b.1, [b.2])))
    if ps.isEmpty && l.scales.isEmpty then s1
    else s1.submit { lineReq s1 c.issue c.part l.va 128 { g with pa := lo } (.engine (some c.id) (joinParts ps) true l.scales
                       (mine.filter (fun e => e.2.2)).length l.poison) with va := l.va / 128 * 128 }

/-- The copy of a channel whose landings are next. -/
def State.landing (s : State) (ch : Nat) : Option Copy := (s.copiesOn ch).find? (fun c => !c.landings.isEmpty)

/-- COPY_LANDING: the oldest piece of a copy of the channel whose turn it is goes to its home (R160, R164): one line a turn, at most 16 in
a controller cycle. -/
def State.copyLanding (s : State) (ch i : Nat) : State :=
  match s.copyOf i with
  | none => s
  | some k =>
    let e := ch / 16
    let t := lookup (0, 0) e s.engines
    if k.chan ≠ ch || k.landings.isEmpty || s.engineDown ch then s
    else match (nextChannel e t.2 (fun n => (s.landing n).isSome)).bind s.landing with
      | none => s
      | some c =>
        if engineLines ≤ s.issuedNow c.unit true then s
        else match c.landings with
          | [] => s
          | l :: rest => { s with engines := insertAt e (t.1, c.chan % 16) s.engines }.landPiece c l rest

/-! ### COPY_COMPLETE (R172, R174, R416, R417, R492) -/

/-- COPY_COMPLETE: every byte of the copy has landed or been acknowledged and its well has been told; its status word is written, and
once that is acknowledged DONEID passes over what is complete. -/
def State.copyComplete (s : State) (ch i : Nat) : State :=
  match s.copyOf i with
  | none => s
  | some c =>
    if c.chan ≠ ch || !(c.finished || c.stopped) || (c.parked && !c.stopped) || (!c.landings.isEmpty) || s.copyOut c then s
    else if c.stat.isSome && !c.reported then
      match c.stat with
      | some g =>
        (s.updCopy i (fun x => { x with reported := true })).submit (lineReq s c.issue c.part c.statVa 8 g
          (.engine none [(0, leBytes 8 (statusWord c.tid.toNat c.ecode c.flags.toNat))] true [] 0 false))
      | none => s
    else
      let s2 := { s with copies := s.copies.filter (fun x => x.id != i) }.clearInbox c.issue
      s2.updCopyQ ch (fun q => { q with doneid := s2.newDoneid ch })

/-! ### As device steps -/

/-- COPY_START. -/
def execCopyStart (c : Fin 256) (s : State) : Result := .next ((s.copyStart c).unblock)
/-- COPY_UNIT. -/
def execCopyUnit (c : Fin 256) (i : Nat) (s : State) : Result := .next ((s.copyUnit c i).unblock)
/-- COPY_LANDING. -/
def execCopyLanding (c : Fin 256) (i : Nat) (s : State) : Result := .next ((s.copyLanding c i).unblock)
/-- COPY_COMPLETE. -/
def execCopyComplete (c : Fin 256) (i : Nat) (s : State) : Result := .next ((s.copyComplete c i).unblock)

end Sys2Proof.Machine
end

