-- ==== Sys2Proof/Machine/ControlSpace.lean ====
section
/-! DEFINITION. The device control space (R67, R70, R162, R182, R384, R385, R391, R459), and the accesses of the host on their way (R196,
R382, R383, R454, R466). -/

namespace Sys2Proof.Machine

/-! ### The device control space (R384) -/

/-- ROUTE_TABLE_WRITE: an entry with a reserved bit set is ignored. -/
def State.routeTableWrite (s : State) (p m : Nat) (v : BitVec 16) : State :=
  if v.extractLsb' 4 12 ≠ 0 then s else s.updPart p (fun k => { k with routes := insertAt m v k.routes })

/-- A write to the device control space: MODREG, CMDWIDX, an entry of a calendar shadow, an entry of a route table, or four bytes of the
command ring; other offsets are reserved. -/
def State.registerWrite (s : State) (off : Nat) (v : Word) : State :=
  if off = 0 then { s with modreg := v &&& 0x3FF03FF }
  else if off = 8 then { s with cmdWidx := v.setWidth 32 }
  else if 0x100000 ≤ off && off < 0x100000 + 640 * 256 then
    let o := off - 0x100000
    s.updChannel (o / 640) (fun c => { c with shadow := { c.shadow with put := insertAt (o % 640 / 2) (v.setWidth 16 &&& 0xF1FF) c.shadow.put } })
  else if 0x200000 ≤ off && off < 0x210000 then
    { s with mem := memWrite s.mem (controlBase + off / 4 * 4) (leBytes 4 v.toNat) }
  else if 0x300000 ≤ off && off < 0x300000 + 1536 * 8 then
    s.routeTableWrite ((off - 0x300000) / 1536) ((off - 0x300000) % 1536 / 2) (v.setWidth 16)
  else s

/-- A descriptor holds a reserved value (R67, R162, R459). -/
def badDescriptor (k : QueueKind) (v : Nat) : Bool :=
  let ring := match k with | .launch => 0x40000 | .copy => 0x10000 | .task => 0x4000
  let low := match k with | .launch => bitsOf v 6 3 == 0 | _ => bitsOf v 6 0 != 0
  bitsOf v 71 64 ≠ 0 || low || bitsOf v 127 72 % ring ≠ 0 || bitsOf v 63 8 % 4 ≠ 0

/-- The queue that a descriptor makes of one: when EN goes from 0 to 1, RIDX and DONEID are to be taken from the word at WIDX (R70). -/
def enabledQueue (q : Queue) (p v : Nat) : Queue :=
  let en := bitsOf v 7 7 == 1
  { q with ring := BitVec.ofNat 56 (bitsOf v 127 72), widx := BitVec.ofNat 56 (bitsOf v 63 8), en := en, part := p,
           weight := BitVec.ofNat 4 (bitsOf v 6 3), prio := BitVec.ofNat 3 (bitsOf v 2 0), rising := en && (q.rising || !q.en), line := none }

/-- The word at WIDX of a queue that a descriptor write has enabled is asked for (R70). -/
def State.queueWritten (s : State) (k : QueueKind) (n : Nat) : State := if (s.queue k n).rising then s.ringRise k n else s

/-- The queue holds work that is not finished, or a posted packet that has not been read, as its home slice reports it: its descriptor does
not change (R67, R162). -/
def State.queueHolds (s : State) (k : QueueKind) (n : Nat) : Bool :=
  s.ringPosted (s.queue k n) k.ring k.type ||
  match k with
  | .launch => s.launches.any (fun l => l.queue == n)
  | .copy => s.copies.any (fun c => c.chan == n)
  | .task => s.tasks.any (fun t => t.quill == n)

/-- QUEUE_DESCRIPTOR_WRITE: a launch queue serves the partition that the write names; a copy or task queue that of its block. A write
while the queue holds unfinished work changes nothing (DESIGN CHOICE, assumption 108). -/
def State.queueDescriptorWrite (s : State) (k : QueueKind) (n p : Nat) (v : BitVec 128) : State :=
  let w := v.toNat
  if badDescriptor k w || s.queueHolds k n then s
  else match k with
    | .launch =>
      if 64 ≤ n || !(s.part p).present then s
      else
        ({ s with launchQ := insertAt n (enabledQueue (s.launchQueue n) p w) s.launchQ } : State).queueWritten .launch n
    | .copy =>
      match s.partOfBlock (n / 32) with
      | none => s
      | some b =>
        ({ s with copyQ := insertAt n (enabledQueue (s.copyQueue n) b w) s.copyQ } : State).queueWritten .copy n
    | .task =>
      if 32 ≤ n then s
      else match s.partOfBlock (n / 4) with
        | none => s
        | some b =>
          ({ s with taskQ := insertAt n (enabledQueue (s.taskQueue n) b w) s.taskQ } : State).queueWritten .task n

/-- The descriptor of a queue as its register reads (R67, R162, R182). -/
def Queue.word (q : Queue) (launch : Bool) : Nat :=
  q.ring.toNat * 2 ^ 72 + q.widx.toNat * 2 ^ 8 + (if q.en then 128 else 0) + if launch then q.weight.toNat * 8 + q.prio.toNat else 0

/-- A byte of the device control space (R384); reserved offsets read 0. -/
def State.controlByte (s : State) (off : Nat) : Byte :=
  let of := fun (v o : Nat) => BitVec.ofNat 8 (v / 256 ^ o)
  if off < 8 then of s.modreg.toNat off
  else if off < 16 then of s.cmdWidx.toNat (off - 8)
  else if 0x10000 ≤ off && off < 0x10400 then of ((s.launchQueue ((off - 0x10000) / 16)).word true) (off % 16)
  else if 0x10400 ≤ off && off < 0x11400 then of ((s.copyQueue ((off - 0x10400) / 16)).word false) (off % 16)
  else if 0x11400 ≤ off && off < 0x11600 then of ((s.taskQueue ((off - 0x11400) / 16)).word false) (off % 16)
  else if 0x100000 ≤ off && off < 0x100000 + 640 * 256 then
    let o := off - 0x100000
    of ((s.channel (o / 640)).shadow.entry (o / 640) (o % 640 / 2)).toNat (o % 2)
  else if 0x200000 ≤ off && off < 0x210000 then memGet s.mem (controlBase + off)
  else if 0x300000 ≤ off && off < 0x300000 + 1536 * 8 then
    let o := off - 0x300000
    of (lookup 0 (o % 1536 / 2) (s.part (o / 1536)).routes).toNat (o % 2)
  else 0

def State.controlRead (s : State) (off n : Nat) : List Byte := (List.range n).map (fun i => s.controlByte (off + i))

/-- The queue whose descriptor stands at an offset. -/
def descriptorAt (off : Nat) : Option (QueueKind × Nat) :=
  if 0x10000 ≤ off && off < 0x10400 then some (.launch, (off - 0x10000) / 16)
  else if 0x10400 ≤ off && off < 0x11400 then some (.copy, (off - 0x10400) / 16)
  else if 0x11400 ≤ off && off < 0x11600 then some (.task, (off - 0x11400) / 16)
  else none

/-- Bytes written to the device control space: a descriptor as a whole, anything else in units of its register. -/
def State.controlWrite (s : State) (off : Nat) (bs : List Byte) : State :=
  match descriptorAt off with
  | some (k, n) =>
    if bs.length = 16 && off % 16 = 0 then
      s.queueDescriptorWrite k n (match k with | .launch => (s.launchQueue n).part | _ => 0) (BitVec.ofNat 128 (leNat bs))
    else s
  | none =>
    let w := if off < 16 then 8 else if 0x200000 ≤ off && off < 0x210000 then 4 else 2
    (List.range ((bs.length + w - 1) / w)).foldl (fun s i => s.registerWrite (off + w * i) (BitVec.ofNat 64 (fieldAt bs (w * i) w))) s

/-! ### The host's accesses (R196, R382, R383, R454, R466) -/

/-- The host as an issuer. -/
def hostIssue : Issue := ⟨256, 0, .none, 0, 15, 0⟩

/-- The atomic of a PCI Express AtomicOp (R382). -/
def hostAmo (k : HostAtomic) : AmoKind :=
  match k with | .fetchAdd => .add | .swap => .swp | .cas => .cas

/-- A piece's answer for the host: its bytes, none for a store, and whether they are poisoned. -/
def HostAccess.take (h : HostAccess) (place : Nat) (a : Reply) : HostAccess :=
  match a with
  | .data bs => { h with got := insertAt place bs h.got }
  | .poisoned bs => { h with got := insertAt place bs h.got, poison := true }
  | .old v _ _ => { h with got := insertAt place (leBytes 8 v.toNat) h.got }
  | .ack _ _ => h
  | .fail _ _ => { h with failed := true }

/-- What the host receives once an access is over: a read's data, an AtomicOp's old value, or a Completer Abort; a posted write ends
without an answer, which the model notes. -/
def HostAccess.result (h : HostAccess) : Output :=
  match h.kind with
  | .write _ => .written
  | .read => if h.failed then .completerAbort else .readData (h.got.flatMap Prod.snd) h.poison
  | .atomic => if h.failed then .completerAbort else .atomicResult (BitVec.ofNat 64 (leNat (h.got.flatMap Prod.snd)))

/-- An access of the host may go ahead of an earlier one that is under way: reads and AtomicOps order nothing after them, and only a
posted write with Relaxed Ordering passes an earlier posted write (R196). -/
def HostKind.mayPass (k earlier : HostKind) : Bool :=
  match earlier with
  | .write _ => decide (k = .write true)
  | _ => true

/-- One piece is done, or sent, by the access at a place of the list. -/
def State.hostPiece (s : State) (k place : Nat) (x : HostPiece) : State :=
  let upd := fun (s : State) (f : HostAccess → HostAccess) => { s with host := s.host.modify k f }
  match x with
  | .mem r => (upd s (fun h => { h with out := h.out ++ [(s.nextId, place)] })).submit r
  | .readControl off n => upd s (fun h => h.take place (.data (s.controlRead off n)))
  | .writeControl off bs => s.controlWrite off bs
  | .amoControl off o wide v cmp =>
    let n := if wide then 8 else 4
    let old := leNat (s.controlRead off n)
    match amoNew (hostAmo o) n old v.toNat cmp.toNat with
    | some (new, _) => upd (s.controlWrite off (leBytes n new)) (fun h => h.take place (.old (BitVec.ofNat 64 old) none 0))
    | none => upd s (fun h => { h with failed := true })

/-- An access is over: nothing of it is still to be sent or answered. -/
def HostAccess.finished (h : HostAccess) : Bool := h.todo.isEmpty && h.out.isEmpty

/-- The pieces of the access at a place of the list go, if no earlier access holds it back. -/
def State.hostSend (s : State) (k : Nat) : State :=
  match s.host[k]? with
  | none => s
  | some h =>
    if (s.host.take k).all (fun e => e.finished || h.kind.mayPass e.kind) then
      h.todo.foldl (fun s e => s.hostPiece k e.1 e.2) { s with host := s.host.modify k (fun h => { h with todo := [] }) }
    else s

/-- Accesses of the host that may go do, and those that are over are answered in their order. -/
def State.hostPump (s : State) : State :=
  let s1 := (List.range s.host.length).foldl State.hostSend s
  { s1 with output := s1.output ++ (s1.host.filter (fun h => h.finished)).map HostAccess.result,
            host := s1.host.filter (fun h => !h.finished) }

/-- An access of the host arrives (R382, R383). -/
def State.hostArrive (s : State) (k : HostKind) (ps : List HostPiece) : State :=
  ({ s with host := s.host ++ [⟨k, ps.mapIdx (fun i x => (i, x)), [], [], false, false⟩] } : State).hostPump

/-- The answer of one of the host's requests. -/
def State.hostAnswer (s : State) (id : Nat) (a : Reply) : State :=
  ({ s with host := s.host.map (fun (h : HostAccess) => match h.out.find? (fun e => e.1 == id) with
      | some e => { h.take e.2 a with out := h.out.filter (fun x => x.1 != id) }
      | none => h) } : State).hostPump

end Sys2Proof.Machine
end

