-- ==== Sys2Proof/Machine/Lanes.lean ====
section
/-! DEFINITION. The lanes of the V unit: operands, masks, lane formats and lane memory requests (R345 to R351). -/

namespace Sys2Proof.Machine

/-! ### Lanes (R345, R346) -/

/-- Lane l of a v register. -/
def lane (v : BitVec 1024) (l : Nat) : BitVec 32 := v.extractLsb' (32 * l) 32

/-- A v register from its 32 lanes. -/
def ofLanes (f : Nat → BitVec 32) : BitVec 1024 :=
  (List.range 32).foldl (fun v l => v ||| ((f l).setWidth 1024 <<< (32 * l))) 0

/-- A v register with the active lanes replaced. -/
def mergeLanes (m : BitVec 32) (old : BitVec 1024) (f : Nat → BitVec 32) : BitVec 1024 :=
  ofLanes (fun l => if m.getLsbD l then f l else lane old l)

/-- The active lanes in ascending order. -/
def activeLanes (m : BitVec 32) : List Nat := (List.range 32).filter (fun l => m.getLsbD l)

/-- The lane format: FP32 where FMTA is 0. -/
def laneFmt (f : BitVec 4) : BitVec 4 := if f = 0 then fmtFP32 else f

/-- A code of a format as a lane holds it (R345). -/
def placeLane (f : BitVec 4) (c : Nat) : BitVec 32 :=
  if f = fmtINT8 then (BitVec.ofNat 8 c).signExtend 32 else BitVec.ofNat 32 c

/-- The code of a lane. -/
def laneCode (f : BitVec 4) (v : BitVec 32) : Nat := v.toNat % 2 ^ fmtWidth f

/-- x sources as T = 0, v sources and destinations full (R211, R347). -/
def vready (th : Thread) (xs : List (BitVec 5)) (vs : List Nat) : Except Stop Unit :=
  if xs.any (fun r => !th.fullX r) || vs.any (fun r => !th.fullV r) then .error .block else .ok ()

/-- The first active lane that holds a verdict word in one of these sources, and the register (R434). -/
def verdictLane (F : FloatFmt) (m : BitVec 32) (srcs : List (Nat × BitVec 1024)) : Option (Nat × Nat) :=
  (activeLanes m).findSome? (fun l =>
    (srcs.find? (fun r => (F.verdict ((lane r.2 l).toNat % 2 ^ F.width)).isSome)).map (fun r => (r.1, l)))

/-- A verdict word in a source of arithmetic traps at read; integer lanes are never verdict words (R349, R434). -/
def verdictCheck (fmt : BitVec 4) (m : BitVec 32) (srcs : List (Nat × BitVec 1024)) : Except Stop Unit :=
  match floatFmt fmt with
  | none => .ok ()
  | some F =>
    match verdictLane F m srcs with
    | some (r, l) => .error (.readTrap 0x15 (128 + r) (BitVec.ofNat 32 l))
    | none => .ok ()

/-- A commit that writes a v register and raises flags. -/
def Issuer.writeV (c : Issuer) (d : Nat) (v : BitVec 1024) (f : BitVec 8) : Commit := fun s =>
  c.raise 7 f (c.commit (fun th => th.setV d v) s)

/-- The flags of the active lanes' results. -/
def laneFlags (m : BitVec 32) (f : Nat → BitVec 8) : BitVec 8 := (activeLanes m).foldl (fun a l => a ||| f l) 0

/-! ### Lane memory accesses (R351, R452) -/

/-- A status word that names a lane in its low five bits (R452). -/
def laneStatus (w : BitVec 32) (l : Nat) : BitVec 32 := (w &&& 0xFFFFFFE0) ||| BitVec.ofNat 32 l

/-- A stop whose status word names a lane. -/
def Stop.named (e : Stop) (l : Nat) : Stop :=
  match e with
  | .xlate cause a w => .xlate cause a (laneStatus w l)
  | e => e

/-- The cause of a stop found at translate. -/
def Stop.cause : Stop → Nat
  | .xlate cause _ _ => cause
  | _ => 0

/-- All results, or the stop of lowest cause, of several the first (R427, R452). -/
def collect {α : Type} : List (Except Stop α) → Except Stop (List α)
  | [] => .ok []
  | r :: rs =>
    match r, collect rs with
    | .ok a, .ok as => .ok (a :: as)
    | .ok _, .error e => .error e
    | .error e, .ok _ => .error e
    | .error e, .error e' => if e'.cause < e.cause then .error e' else .error e

/-- The translation of one lane's address: a multiple of the element size, and no scratchpad outside the gang's cores
(R351, R455). -/
def Issuer.laneAddress (c : Issuer) (s : State) (l va z : Nat) (k : Access) : Except Stop Target :=
  match c.address s va z k with
  | .error e => .error (e.named l)
  | .ok g => .ok g

/-- The lanes with their addresses translated, or the fault of lowest cause, in the lowest lane that has it (R427, R452; DEDUCED, assumption
138). -/
def Issuer.laneTargets (c : Issuer) (s : State) (z : Nat) (k : Access) (ls : List (Nat × Nat)) : Except Stop (List (Nat × Nat × Target)) :=
  collect (ls.map (fun p => match c.laneAddress s p.1 p.2 z k with
    | .error e => .error e
    | .ok g => .ok (p.1, p.2, g)))

/-- Lanes that travel as one request: those of one global line; a scratchpad lane travels alone (R351). -/
structure LaneGroup where
  va : Nat
  target : Target
  line : Option Nat
  lanes : List (Nat × Nat)

/-- The groups of the lanes, in the order of their first lanes: lane and offset in the line. -/
def State.laneGroups (s : State) : List (Nat × Nat × Target) → List LaneGroup → List LaneGroup
  | [], gs => gs
  | (l, va, g) :: rest, gs =>
    match s.scratchOf g with
    | some _ => s.laneGroups rest (gs ++ [⟨va, g, none, [(l, 0)]⟩])
    | none =>
      let line := g.pa / 128
      if gs.any (fun x => x.line == some line) then
        s.laneGroups rest (gs.map (fun x => if x.line == some line then { x with lanes := x.lanes ++ [(l, g.pa % 128)] } else x))
      else s.laneGroups rest (gs ++ [⟨va, { g with pa := 128 * line }, some line, [(l, g.pa % 128)]⟩])

/-- The commit of a lane instruction's requests, one after another: the first global one can be a FENCE's pair (R201, R465). -/
def Issuer.laneCommit (c : Issuer) (s : State) (gs : List LaneGroup) (op : LaneGroup → MemOp) : Commit := fun s' =>
  gs.foldl (fun t x => c.access id x.target none (c.request s 7 x.va 128 x.target (op x)) t) s'

end Sys2Proof.Machine
end

