-- ==== Sys2Proof/Machine/Quill.lean ====
section
/-! DEFINITION. The V class without the hashed-grid instructions (R345 to R365). -/

namespace Sys2Proof.Machine

/-! ### Loads, stores, gathers and scatters (R351 to R354) -/

/-- The commit of VLD and VGTH: the destination is empty until every active lane has landed (R347). -/
def Issuer.laneLoad (c : Issuer) (s : State) (d : Nat) (fmt : BitVec 4) (ts : List (Nat × Nat × Target)) : Commit :=
  let gs := s.laneGroups ts []
  fun s' => if gs.isEmpty then s' else c.laneCommit s gs (fun x => .vload d fmt x.lanes) (s'.updThread c.unit c.thr (fun th => th.emptyV d))

/-- The commit of VST and VSCT. -/
def Issuer.laneStore (c : Issuer) (s : State) (v : BitVec 1024) (fmt : BitVec 4) (ts : List (Nat × Nat × Target)) : Commit :=
  c.laneCommit s (s.laneGroups ts []) (fun x => .vstore (x.lanes.map (fun p => (p.2, leBytes (laneBytes fmt) (lane v p.1).toNat))))

/-- The addresses of the active lanes. -/
def laneAddresses (m : BitVec 32) (f : Nat → Word) : List (Nat × Nat) := (activeLanes m).map (fun l => (l, (f l).toNat))

/-- Lane l of a strided row (R352). -/
def stridedLane (th : Thread) (o : VTriMod) (z : Nat) (l : Nat) : Word :=
  th.getX o.srcA + BitVec.ofNat 64 l * (if o.md = 0 then BitVec.ofNat 64 z else th.getX o.srcB)

/-- x registers that a strided form reads. -/
def stridedRegs (o : VTriMod) : List (BitVec 5) := if o.md = 0 then [o.srcA] else [o.srcA, o.srcB]

/-- VLD (R352). -/
def slotVld (o : VTriMod) (xs : List XPay) : Slot := fun c s =>
  let th := c.th s
  let fmt := laneFmt (XFields.of xs).fmtA
  let z := laneBytes fmt
  match vready th (stridedRegs o) [o.dst.toNat] with
  | .error e => .error e
  | .ok _ =>
    match c.laneTargets s z .read (laneAddresses (th.getM o.mask) (stridedLane th o z)) with
    | .error e => .error e
    | .ok ts => .ok (c.laneLoad s o.dst.toNat fmt ts)

/-- VST (R352). -/
def slotVst (o : VTriMod) (xs : List XPay) : Slot := fun c s =>
  let th := c.th s
  let fmt := laneFmt (XFields.of xs).fmtA
  let z := laneBytes fmt
  match vready th (stridedRegs o) [o.dst.toNat] with
  | .error e => .error e
  | .ok _ =>
    match c.laneTargets s z .write (laneAddresses (th.getM o.mask) (stridedLane th o z)) with
    | .error e => .error e
    | .ok ts => .ok (c.laneStore s (th.getV o.dst.toNat) fmt ts)

/-- The address of lane l of VGTH.E and VSCT (R353, R354). -/
def indexedLane (base : Word) (vb : BitVec 1024) (sh l : Nat) : Word := base + ((lane vb l).signExtend 64 <<< sh)

/-- VGTH (R353). -/
def slotVgth (o : VTriMod) (xs : List XPay) : Slot := fun c s =>
  let th := c.th s
  let x := XFields.of xs
  let fmt := laneFmt x.fmtA
  let z := laneBytes fmt
  match vready th [o.srcA] [o.srcB.toNat, o.dst.toNat] with
  | .error e => .error e
  | .ok _ =>
    let base := th.getX o.srcA
    let vb := th.getV o.srcB.toNat
    let sh := (x.spec.extractLsb' 0 4).toNat
    let k := (x.spec.extractLsb' 4 5).toNat
    let addr := fun l => if o.md = 0 then indexedLane base vb sh l else indexedLane base vb sh k + BitVec.ofNat 64 (l * z)
    match c.laneTargets s z .read (laneAddresses (th.getM o.mask) addr) with
    | .error e => .error e
    | .ok ts => .ok (c.laneLoad s o.dst.toNat fmt ts)

/-- VSCT (R354). -/
def slotVsct (o : VTri) (xs : List XPay) : Slot := fun c s =>
  let th := c.th s
  let x := XFields.of xs
  let fmt := laneFmt x.fmtA
  match vready th [o.srcA] [o.srcB.toNat, o.dst.toNat] with
  | .error e => .error e
  | .ok _ =>
    let addr := indexedLane (th.getX o.srcA) (th.getV o.srcB.toNat) (x.spec.extractLsb' 0 4).toNat
    match c.laneTargets s (laneBytes fmt) .write (laneAddresses (th.getM o.mask) addr) with
    | .error e => .error e
    | .ok ts => .ok (c.laneStore s (th.getV o.dst.toNat) fmt ts)

/-! ### Arithmetic (R355 to R357) -/

/-- A signed value clamped to 32 bits. -/
def clamp32 (v : Int) : Nat := twos 32 (max (-(2 ^ 31)) (min v (2 ^ 31 - 1)))

/-- One lane of an INT32 operation: wrapped, or clamped with .SAT. -/
def intLane (sat : Bool) (v : Int) : Nat := if sat then clamp32 v else twos 32 v

/-- A lane operation on two sources, and the old destination where it accumulates. -/
def slotLanes (o : VTriMod) (xs : List XPay) (acc : Bool) (f : FloatFmt → Nat → Nat → Nat → Nat → Rounded)
    (g : Int → Int → Int → Nat → Nat → Nat) : Slot := fun c s =>
  let th := c.th s
  let x := XFields.of xs
  let fmt := laneFmt x.fmtA
  let m := th.getM o.mask
  match vready th [] [o.srcA.toNat, o.srcB.toNat, o.dst.toNat] with
  | .error e => .error e
  | .ok _ =>
    let a := th.getV o.srcA.toNat
    let b := th.getV o.srcB.toNat
    let d := th.getV o.dst.toNat
    match verdictCheck fmt m ([(o.srcA.toNat, a), (o.srcB.toNat, b)] ++ (if acc then [(o.dst.toNat, d)] else [])) with
    | .error e => .error e
    | .ok _ =>
      let r := fun l =>
        let p := laneCode fmt (lane a l)
        let q := laneCode fmt (lane b l)
        let w := laneCode fmt (lane d l)
        match floatFmt fmt with
        | some F => f F x.rnd.toNat p q w
        | none => (g (signExt 32 p) (signExt 32 q) (signExt 32 w) p q, 0)
      .ok (c.writeV o.dst.toNat (mergeLanes m d (fun l => placeLane fmt (r l).1)) (laneFlags m (fun l => (r l).2)))

/-- VADD (R355). -/
def slotVadd (o : VTriMod) (xs : List XPay) : Slot :=
  slotLanes o xs false (fun F r a b _ => fpAdd F r 0 a b) (fun a b _ _ _ => intLane (o.md == 1) (a + b))
/-- VSUB (R355). -/
def slotVsub (o : VTriMod) (xs : List XPay) : Slot :=
  slotLanes o xs false (fun F r a b _ => fpSub F r 0 a b) (fun a b _ _ _ => intLane (o.md == 1) (a - b))
/-- VMUL (R355). -/
def slotVmul (o : VTriMod) (xs : List XPay) : Slot :=
  slotLanes o xs false (fun F r a b _ => fpMul F r 0 a b) (fun a b _ _ _ => intLane (o.md == 1) (a * b))
/-- VFMA (R355). -/
def slotVfma (o : VTriMod) (xs : List XPay) : Slot :=
  slotLanes o xs true (fun F r a b d => fpFma F r 0 a b d) (fun a b d _ _ => intLane false (a * b + d))
/-- VMIN (R355). -/
def slotVmin (o : VTriMod) (xs : List XPay) : Slot :=
  slotLanes o xs false (fun F _ a b _ => fpMinMax F false a b) (fun a b _ p q => if o.md = 1 then min p q else twos 32 (min a b))
/-- VMAX (R355). -/
def slotVmax (o : VTriMod) (xs : List XPay) : Slot :=
  slotLanes o xs false (fun F _ a b _ => fpMinMax F true a b) (fun a b _ p q => if o.md = 1 then max p q else twos 32 (max a b))

/-- The conditions of VCMP on INT32 lanes (R356). -/
def intLaneCond (md : BitVec 2) (a b : BitVec 32) : Bool :=
  match md.toNat with
  | 0 => a == b
  | 1 => a.slt b
  | 2 => !b.slt a
  | _ => a.ult b

/-- A mask from its bits. -/
def maskOf (f : Nat → Bool) : BitVec 32 := (List.range 32).foldl (fun v l => if f l then v ||| (1#32 <<< l) else v) 0

/-- VCMP (R356). -/
def slotVcmp (o : VTriMod) (xs : List XPay) : Slot := fun c s =>
  let th := c.th s
  let fmt := laneFmt (XFields.of xs).fmtA
  let m := th.getM o.mask
  match vready th [] [o.srcA.toNat, o.srcB.toNat] with
  | .error e => .error e
  | .ok _ =>
    let a := th.getV o.srcA.toNat
    let b := th.getV o.srcB.toNat
    match verdictCheck fmt m [(o.srcA.toNat, a), (o.srcB.toNat, b)] with
    | .error e => .error e
    | .ok _ =>
      let r := fun l =>
        match floatFmt fmt with
        | some F => fpCompare F o.md.toNat (laneCode fmt (lane a l)) (laneCode fmt (lane b l))
        | none => (intLaneCond o.md (lane a l) (lane b l), 0)
      .ok (fun s => c.raise 7 (laneFlags m (fun l => (r l).2))
        (c.commit (fun t => t.setM (o.dst.setWidth 3) (maskOf (fun l => m.getLsbD l && (r l).1))) s))

/-- The first active lane whose verdict word a conversion does not accept (R40). -/
def convertMisuse (src dst : BitVec 4) (m : BitVec 32) (v : BitVec 1024) : Option Nat :=
  (activeLanes m).find? (fun l => verdictMisuse src dst (laneCode src (lane v l)))

/-- VCVT (R357). -/
def slotVcvt (o : VUnary) (xs : List XPay) : Slot := fun c s =>
  let th := c.th s
  let x := XFields.of xs
  let m := th.getM o.mask
  match vready th [] [o.srcA.toNat, o.dst.toNat] with
  | .error e => .error e
  | .ok _ =>
    let a := th.getV o.srcA.toNat
    match convertMisuse x.fmtA x.fmtB m a with
    | some l => .error (.readTrap 0x15 (128 + o.srcA.toNat) (BitVec.ofNat 32 l))
    | none =>
      let r := fun l => convertElem x.fmtA x.fmtB x.rnd.toNat 0 0 (laneCode x.fmtA (lane a l))
      .ok (c.writeV o.dst.toNat (mergeLanes m (th.getV o.dst.toNat) (fun l => placeLane x.fmtB (r l).1))
        (laneFlags m (fun l => (r l).2)))

/-! ### Reductions and pooling (R61, R358, R363) -/

/-- One combining step: a sum rounded or taken modulo 2^32, a minimum or a maximum. -/
def combine (fmt : BitVec 4) (rnd : Nat) (op : Nat) (t a : Nat) : Rounded :=
  match floatFmt fmt with
  | some F => if op = 0 then fpAdd F rnd 0 t a else fpMinMax F (op == 2) t a
  | none =>
    if op = 0 then ((t + a) % 2 ^ 32, 0)
    else (twos 32 (if op = 2 then max (signExt 32 t) (signExt 32 a) else min (signExt 32 t) (signExt 32 a)), 0)

/-- Combining in list order from a start value. -/
def combineAll (fmt : BitVec 4) (rnd op : Nat) : Nat → List Nat → Rounded
  | t, [] => (t, 0)
  | t, a :: as =>
    let r := combine fmt rnd op t a
    let q := combineAll fmt rnd op r.1 as
    (q.1, r.2 ||| q.2)

/-- VRED (R358). -/
def slotVred (o : VTriMod) (xs : List XPay) : Slot := fun c s =>
  let th := c.th s
  let x := XFields.of xs
  let fmt := laneFmt x.fmtA
  let m := th.getM o.mask
  match vready th [] [o.srcA.toNat, o.dst.toNat] with
  | .error e => .error e
  | .ok _ =>
    let a := th.getV o.srcA.toNat
    match verdictCheck fmt m [(o.srcA.toNat, a)] with
    | .error e => .error e
    | .ok _ =>
      let r := match (activeLanes m).map (fun l => laneCode fmt (lane a l)) with
        | [] => (0, 0)
        | t :: rest => combineAll fmt x.rnd.toNat o.md.toNat t rest
      .ok (c.writeV o.dst.toNat (ofLanes (fun l => if l = 0 then placeLane fmt r.1 else 0)) r.2)

/-- What a segment without contributors holds (R363). -/
def emptySegment (fmt : BitVec 4) (md : Nat) (old : BitVec 32) : BitVec 32 :=
  if md = 0 then 0
  else if md = 1 then
    match floatFmt fmt with
    | some F => BitVec.ofNat 32 (F.withSign true F.infCode)
    | none => 0x80000000
  else old

/-- The active lanes that contribute to segment t. -/
def contributors (m : BitVec 32) (b : BitVec 1024) (t : Nat) : List Nat :=
  (activeLanes m).filter (fun l => (lane b l).toNat == t)

/-- VPOOL (R363). The lanes of the old destination that are combined are read as well, with MOD 2 and 3. -/
def slotVpool (o : VTriMod) (xs : List XPay) : Slot := fun c s =>
  let th := c.th s
  let x := XFields.of xs
  let fmt := laneFmt x.fmtA
  let m := th.getM o.mask
  match vready th [] [o.srcA.toNat, o.srcB.toNat, o.dst.toNat] with
  | .error e => .error e
  | .ok _ =>
    let a := th.getV o.srcA.toNat
    let b := th.getV o.srcB.toNat
    let d := th.getV o.dst.toNat
    let accum := 2 ≤ o.md
    let op := if o.md = 0 || o.md = 2 then 0 else 2
    match verdictCheck fmt m [(o.srcA.toNat, a)] with
    | .error e => .error e
    | .ok _ =>
      match (if accum then verdictCheck fmt (maskOf (fun t => !(contributors m b t).isEmpty)) [(o.dst.toNat, d)] else .ok ()) with
      | .error e => .error e
      | .ok _ =>
        let r := fun t =>
          let vs := (contributors m b t).map (fun l => laneCode fmt (lane a l))
          match vs with
          | [] => (none, (0 : BitVec 8))
          | v :: rest =>
            let q := if accum then combineAll fmt x.rnd.toNat op (laneCode fmt (lane d t)) vs
                     else combineAll fmt x.rnd.toNat op v rest
            (some q.1, q.2)
        let val := fun t => match (r t).1 with
          | some v => placeLane fmt v
          | none => emptySegment fmt o.md.toNat (lane d t)
        .ok (c.writeV o.dst.toNat (ofLanes val) (laneFlags (BitVec.allOnes 32) (fun t => (r t).2)))

/-! ### Moves, indices and masks (R359 to R362) -/

/-- VSEL (R361). -/
def slotVsel (o : VTri) (_xs : List XPay) : Slot := fun c s =>
  let th := c.th s
  match vready th [] [o.srcA.toNat, o.srcB.toNat, o.dst.toNat] with
  | .error e => .error e
  | .ok _ => .ok (c.writeV o.dst.toNat (mergeLanes (th.getM o.mask) (th.getV o.srcB.toNat) (lane (th.getV o.srcA.toNat))) 0)

/-- VIOTA (R360). -/
def slotViota (o : VTri) (_xs : List XPay) : Slot := fun c s =>
  let th := c.th s
  match vready th [o.srcA, o.srcB] [o.dst.toNat] with
  | .error e => .error e
  | .ok _ =>
    .ok (c.writeV o.dst.toNat (mergeLanes (th.getM o.mask) (th.getV o.dst.toNat)
      (fun l => (th.getX o.srcA + BitVec.ofNat 64 l * th.getX o.srcB).setWidth 32)) 0)

/-- VMOV (R359). -/
def slotVmov (o : VTriMod) (xs : List XPay) : Slot := fun c s =>
  let th := c.th s
  let m := th.getM o.mask
  let d := o.dst.toNat
  let frommask := (XFields.of xs).spec != 0
  match o.md.toNat with
  | 0 =>
    match vready th [] [o.srcA.toNat, d] with
    | .error e => .error e
    | .ok _ => .ok (c.writeV d (mergeLanes m (th.getV d) (lane (th.getV o.srcA.toNat))) 0)
  | 1 =>
    match vready th [o.srcA] [d] with
    | .error e => .error e
    | .ok _ => .ok (c.writeV d (mergeLanes m (th.getV d) (fun _ => (th.getX o.srcA).setWidth 32)) 0)
  | 2 =>
    match vready th [o.srcB, o.dst] [o.srcA.toNat] with
    | .error e => .error e
    | .ok _ => .ok (c.writeX o.dst ((lane (th.getV o.srcA.toNat) ((th.getX o.srcB).toNat % 32)).setWidth 64))
  | _ =>
    if frommask then
      match vready th [o.dst] [] with
      | .error e => .error e
      | .ok _ => .ok (c.writeX o.dst ((th.getM (o.srcA.setWidth 3)).setWidth 64))
    else
      match vready th [o.srcA] [] with
      | .error e => .error e
      | .ok _ => .ok (c.commit (fun t => t.setM (o.dst.setWidth 3) ((th.getX o.srcA).setWidth 32)))

/-- The distinct values of the active lanes in order of first occurrence, and each active lane's place among them (R362). -/
def dedup (v : BitVec 1024) : List Nat → List (BitVec 32) → List (Nat × Nat) → List (BitVec 32) × List (Nat × Nat)
  | [], ds, mp => (ds, mp)
  | l :: ls, ds, mp =>
    match ds.idxOf? (lane v l) with
    | some e => dedup v ls ds (mp ++ [(l, e)])
    | none => dedup v ls (ds ++ [lane v l]) (mp ++ [(l, ds.length)])

/-- VDEDUP (R362). -/
def slotVdedup (o : VTri) (_xs : List XPay) : Slot := fun c s =>
  let th := c.th s
  let d := o.dst.toNat
  match vready th [] [o.srcA.toNat, d, d + 1] with
  | .error e => .error e
  | .ok _ =>
    let r := dedup (th.getV o.srcA.toNat) (activeLanes (th.getM o.mask)) [] []
    let vals := ofLanes (fun l => r.1.getD l 0)
    let map := ofLanes (fun l => match r.2.find? (fun e => e.1 == l) with
      | some e => BitVec.ofNat 32 e.2
      | none => 0xFFFFFFFF)
    .ok (c.commit (fun t => ((t.setV d vals).setV (d + 1) map).setM (o.srcB.setWidth 3) (BitVec.ofNat 32 (2 ^ r.1.length - 1))))

/-! ### TSTR (R364, R365) -/

/-- Codes of n bits packed from bit 0 on (R33). -/
def packCodes (n : Nat) (cs : List Nat) : Nat := (cs.mapIdx (fun i c => c % 2 ^ n * 2 ^ (n * i))).foldl (· + ·) 0

/-- Bytes of a block of 32 elements in an MX bank (R135). -/
def mxBlockBytes (d : BitVec 4) : Nat := 4 * mxWidth d

/-- One register as it is written in format d: its bytes, its scale where the bank is MX, and flags. A verdict word becomes a
NaN and sets NV, for an MX destination too (R40, R349, R364). -/
def tstrRegister (fmt d : BitVec 4) (rnd : Nat) (m : BitVec 32) (v : BitVec 1024) : List Byte × Option Byte × BitVec 8 :=
  let cs := (List.range 32).map (fun l => if m.getLsbD l then laneCode fmt (lane v l) else 0)
  if isMx d then
    let r := toMx (mxWidth d) rnd [] (cs.map (mxIn fmt 0))
    let nv := cs.any (fun c => match floatFmt fmt with | some F => (F.verdict c).isSome | none => false)
    (leBytes (mxBlockBytes d) (packCodes (mxWidth d) r.2.1), some (BitVec.ofNat 8 r.1), if nv then r.2.2 ||| flagNV else r.2.2)
  else
    let rs := cs.map (fun c => convertElem fmt d rnd 0 0 c)
    (rs.flatMap (fun r => leBytes (fmtWidth d / 8) r.1), none, rs.foldl (fun f r => f ||| r.2) 0)

/-- Bytes of one register in format d. -/
def tstrWidth (d : BitVec 4) : Nat := if isMx d then mxBlockBytes d else 32 * (fmtWidth d / 8)

/-- The lane whose element holds the first bit of granule n of a range in format d (R452; DEDUCED, assumption 138). -/
def tstrLane (d : BitVec 4) (n : Nat) : Nat := 128 * n / (if isMx d then mxWidth d else fmtWidth d) % 32

/-- A range may begin at an offset of a bank in format d: on a block boundary of an MX format, and for MXI6 at an even block and with an
even number of registers (R364). An offset elsewhere is not a multiple of the access size (R455; DEDUCED, assumption 138). -/
def tstrBegins (d : BitVec 4) (off n : Nat) : Bool :=
  !isMx d || (off % tstrWidth d == 0 && (d != fmtMXI6 || (off / tstrWidth d % 2 == 0 && n % 2 == 0)))

/-- Where granule n of the range at an address lies: core and scratchpad offset (R364). -/
def Issuer.tstrGranule (c : Issuer) (s : State) (va l n : Nat) : Except Stop (Nat × Nat) :=
  match c.xlate s (va + 16 * n) .write with
  | .error e => .error (e.named l)
  | .ok g =>
    let o := (c.th s).owner
    match s.scratchOf g with
    | none => .error (.xlate 0x49 (va + 16 * n) (laneStatus (detailStatus 0) l))
    | some (core, off) =>
      if (s.ownerGang o).isSome && !s.mayName c.unit o core then .error (.xlate 0x49 (va + 16 * n) (laneStatus (detailStatus 0) l))
      else .ok (core, off)

/-- The format in which a TSTR of lanes of a format writes at a scratchpad offset of a core: its bank's, or the lanes' (R364). -/
def State.tstrFormat (s : State) (fmt : BitVec 4) (core off : Nat) : BitVec 4 :=
  let b := ((s.core core).bfmt.getD (off / 2 ^ 17) 0).extractLsb' 0 4
  if b = 0 then fmt else b

/-- The places of all granules of a range of n registers, or the fault of lowest cause (R364, R427, R455). -/
def Issuer.tstrPlaces (c : Issuer) (s : State) (va n : Nat) (d : BitVec 4) (off : Nat) : Except Stop (List (Nat × Nat)) :=
  let begins : Except Stop (Nat × Nat) :=
    if va % 16 = 0 && tstrBegins d (off % 2 ^ 17) n then .ok (0, 0) else .error (.xlate 0x47 va 0)
  match collect (begins :: (List.range ((n * tstrWidth d + 15) / 16)).map (fun i => c.tstrGranule s va (tstrLane d i) i)) with
  | .error e => .error e
  | .ok ps => .ok ps.tail

/-- What a TSTR writes, by offsets from the start of its bank: the bytes of each granule, and the scale of each block at the sidecar index
of the place where the block begins (R135, R364, R365). -/
def tstrOp (d : BitVec 4) (rs : List (List Byte × Option Byte × BitVec 8)) (ps : List (Nat × Nat)) : MemOp :=
  let bytes := rs.flatMap (fun x => x.1)
  let begins := fun (i : Nat) => let o := i * tstrWidth d; (ps.getD (o / 16) (0, 0)).2 + o % 16
  .tstr (ps.mapIdx (fun i p => (p.2 % 2 ^ 17, (bytes.drop (16 * i)).take 16)))
    ((rs.mapIdx (fun i x => x.2.1.map (fun e => (sidecarIndex d (begins i), e)))).filterMap id)

/-- TSTR (R185, R364, R365, R427, R455). The address is checked for the format of the bank that its first granule lies in, and all granules
are written in one access of the bank unit, or none (R455). -/
def slotTstr (o : VTstr) (xs : List XPay) : Slot := fun c s =>
  let th := c.th s
  let x := XFields.of xs
  let fmt := laneFmt x.fmtA
  let n := 2 ^ o.count.toNat
  let va := (th.getX o.srcA).toNat
  match vready th [o.srcA] ((List.range n).map (fun i => o.dst.toNat + i)) with
  | .error e => .error e
  | .ok _ =>
    match c.tstrGranule s va 0 0 with
    | .error e => .error (if 0x47 < e.cause && va % 16 ≠ 0 then .xlate 0x47 va 0 else e)
    | .ok at_ =>
      let d := s.tstrFormat fmt at_.1 at_.2
      match c.tstrPlaces s va n d at_.2 with
      | .error e => .error e
      | .ok ps =>
        if (s.ownerGang th.owner).isNone then .error (.xlate 0x4D va (detailStatus 1))
        else if d = fmtNM || ps.any (fun p => p.1 != at_.1 || p.2 / 2 ^ 17 != at_.2 / 2 ^ 17) then .error (.xlate 0x4D va (detailStatus 2))
        else
          let rs := (List.range n).map (fun i => tstrRegister fmt d x.rnd.toNat (th.getM o.mask) (th.getV (o.dst.toNat + i)))
          let bank : Target := ⟨s.home + scratchPa at_.1 (at_.2 / 2 ^ 17 * 2 ^ 17), 0, 0⟩
          .ok (fun s' => (s'.agentFlags c.unit c.thr (rs.foldl (fun f r => f ||| r.2.2) 0)).submit
            (c.request s 7 va (n * tstrWidth d) bank (tstrOp d rs ps)))

/-! ### Each instruction as a bundle of its own -/
/-- VLD alone in its bundle. -/
def execVld (o : VTriMod) (xs : List XPay) (s : State) : Result := .next (s.issueOne (.vld o xs) (slotVld o xs))
/-- VST alone in its bundle. -/
def execVst (o : VTriMod) (xs : List XPay) (s : State) : Result := .next (s.issueOne (.vst o xs) (slotVst o xs))
/-- VGTH alone in its bundle. -/
def execVgth (o : VTriMod) (xs : List XPay) (s : State) : Result := .next (s.issueOne (.vgth o xs) (slotVgth o xs))
/-- VSCT alone in its bundle. -/
def execVsct (o : VTri) (xs : List XPay) (s : State) : Result := .next (s.issueOne (.vsct o xs) (slotVsct o xs))
/-- TSTR alone in its bundle. -/
def execTstr (o : VTstr) (xs : List XPay) (s : State) : Result := .next (s.issueOne (.tstr o xs) (slotTstr o xs))
/-- VADD alone in its bundle. -/
def execVadd (o : VTriMod) (xs : List XPay) (s : State) : Result := .next (s.issueOne (.vadd o xs) (slotVadd o xs))
/-- VSUB alone in its bundle. -/
def execVsub (o : VTriMod) (xs : List XPay) (s : State) : Result := .next (s.issueOne (.vsub o xs) (slotVsub o xs))
/-- VMUL alone in its bundle. -/
def execVmul (o : VTriMod) (xs : List XPay) (s : State) : Result := .next (s.issueOne (.vmul o xs) (slotVmul o xs))
/-- VFMA alone in its bundle. -/
def execVfma (o : VTriMod) (xs : List XPay) (s : State) : Result := .next (s.issueOne (.vfma o xs) (slotVfma o xs))
/-- VMIN alone in its bundle. -/
def execVmin (o : VTriMod) (xs : List XPay) (s : State) : Result := .next (s.issueOne (.vmin o xs) (slotVmin o xs))
/-- VMAX alone in its bundle. -/
def execVmax (o : VTriMod) (xs : List XPay) (s : State) : Result := .next (s.issueOne (.vmax o xs) (slotVmax o xs))
/-- VCMP alone in its bundle. -/
def execVcmp (o : VTriMod) (xs : List XPay) (s : State) : Result := .next (s.issueOne (.vcmp o xs) (slotVcmp o xs))
/-- VSEL alone in its bundle. -/
def execVsel (o : VTri) (xs : List XPay) (s : State) : Result := .next (s.issueOne (.vsel o xs) (slotVsel o xs))
/-- VCVT alone in its bundle. -/
def execVcvt (o : VUnary) (xs : List XPay) (s : State) : Result := .next (s.issueOne (.vcvt o xs) (slotVcvt o xs))
/-- VRED alone in its bundle. -/
def execVred (o : VTriMod) (xs : List XPay) (s : State) : Result := .next (s.issueOne (.vred o xs) (slotVred o xs))
/-- VIOTA alone in its bundle. -/
def execViota (o : VTri) (xs : List XPay) (s : State) : Result := .next (s.issueOne (.viota o xs) (slotViota o xs))
/-- VMOV alone in its bundle. -/
def execVmov (o : VTriMod) (xs : List XPay) (s : State) : Result := .next (s.issueOne (.vmov o xs) (slotVmov o xs))
/-- VDEDUP alone in its bundle. -/
def execVdedup (o : VTri) (xs : List XPay) (s : State) : Result := .next (s.issueOne (.vdedup o xs) (slotVdedup o xs))
/-- VPOOL alone in its bundle. -/
def execVpool (o : VTriMod) (xs : List XPay) (s : State) : Result := .next (s.issueOne (.vpool o xs) (slotVpool o xs))

end Sys2Proof.Machine
end

