-- ==== Sys2Proof/Machine/HashGrid.lean ====
section
/-! DEFINITION. The hashed-grid instructions HGLD and HGSC, and what follows each of their reads (R366 to R371, R434, R445,
R446). -/

namespace Sys2Proof.Machine

/-! ### Headers, descriptors and slots (R366 to R368) -/

/-- A hashed-grid header and the descriptor of a level, as read. -/
structure HgTable where
  fmt : BitVec 4
  dims : Nat
  feats : Nat
  levels : Nat
  ldesc : Nat
  tbase : Nat
  res : Nat
  logSlots : Nat
  offset : Nat
  deriving DecidableEq, Repr

def HgOp.table (h : HgOp) : HgTable where
  fmt := BitVec.ofNat 4 (bitsOf (fieldAt h.header 8 4) 31 28)
  dims := fieldAt h.header 12 4 % 8 + 1
  feats := 2 ^ bitsOf (fieldAt h.header 12 4) 9 8
  levels := bitsOf (fieldAt h.header 12 4) 7 3 + 1
  ldesc := fieldAt h.header 0 8
  tbase := fieldAt h.header 16 8
  res := fieldAt h.desc 0 4
  logSlots := fieldAt h.desc 4 1 % 32
  offset := fieldAt h.desc 8 8

/-- The first condition of R446 that the header alone breaks. -/
def HgOp.headerFault (h : HgOp) : Option Nat :=
  let t := h.table
  let w := fieldAt h.header 8 4
  let reserved := bitsOf w 27 24 ≠ 0 || bitsOf w 20 0 ≠ 0 || bitsOf (fieldAt h.header 12 4) 31 10 ≠ 0 || fieldAt h.header 24 40 ≠ 0
  if !(t.fmt == fmtFP32 || t.fmt == fmtBF16) then some 0
  else if reserved || h.bit5 then some 1
  else if t.levels ≤ h.level then some 2
  else if bitsOf w 23 21 ≠ 2 then some 5
  else if t.ldesc % 16 ≠ 0 || t.tbase % 128 ≠ 0 then some 6
  else none

/-- The first condition of R446 that the descriptor breaks. -/
def HgOp.descFault (h : HgOp) : Option Nat :=
  let t := h.table
  if fieldAt h.desc 4 1 / 32 ≠ 0 || fieldAt h.desc 5 3 ≠ 0 then some 1
  else if t.res = 0 || 2 ^ 24 < t.res then some 3
  else if 24 < t.logSlots || t.offset % 128 ≠ 0 then some 4
  else none

/-- The hash multipliers (R368). -/
def hashK : List Nat := [0x00000001, 0x9B1C5D27, 0x6A3E8F05, 0xC4D21B6B, 0x2F7A9E13, 0xE85B3C41, 0x53C9F0A7, 0xB06D4E39]

/-- The slot of a grid point (R368). -/
def HgTable.slot (t : HgTable) (g : List Nat) : Nat :=
  if (t.res + 1) ^ t.dims ≤ 2 ^ t.logSlots then
    (g.mapIdx (fun d x => x * (t.res + 1) ^ d)).foldl (· + ·) 0
  else
    let h := (g.mapIdx (fun d x => x * hashK.getD d 0 % 2 ^ 32)).foldl (· ^^^ ·) 0
    (h ^^^ (h / 2 ^ 16)) % 2 ^ t.logSlots

/-- Virtual address of a slot (R367). -/
def HgTable.slotVa (t : HgTable) (n : Nat) : Nat := (t.tbase + t.offset + n * t.feats * (fmtWidth t.fmt / 8)) % 2 ^ 64

/-- An integer as an FP32 code, exact below 2^24 + 1. -/
def fpOfNat (n : Nat) : Nat := (roundTo fp32 rndRNE 0 ⟨false, n, 0, false⟩).1

/-- The integer part of a non-negative FP32 value. -/
def fpFloor (c : Nat) : Nat :=
  let x := fp32.value c
  if x.neg then 0 else if 0 ≤ x.exp then x.mant * 2 ^ x.exp.toNat else x.mant / 2 ^ (-x.exp).toNat

/-- One coordinate: its cell index, its fraction, the complement of the fraction, and flags (R369). -/
def HgTable.place (t : HgTable) (x : Nat) : Nat × Nat × Nat × BitVec 8 :=
  let p := fpMul fp32 rndRNE 0 x (fpOfNat t.res)
  let i := min (fpFloor p.1) (t.res - 1)
  let f := (fpSub fp32 rndRNE 0 p.1 (fpOfNat i)).1
  let u := fpSub fp32 rndRNE 0 fp32.one f
  (i, f, u.1, p.2 ||| u.2)

/-- Product of factors in ascending order, each rounded (R61). -/
def productFrom : Nat → List Nat → Rounded
  | w, [] => (w, 0)
  | w, u :: us =>
    let r := fpMul fp32 rndRNE 0 w u
    let q := productFrom r.1 us
    (q.1, r.2 ||| q.2)

/-- The corners of a point in ascending order: weight and slot, and the flags raised (R369). -/
def HgTable.corners (t : HgTable) (xs : List Nat) : List (Nat × Nat) × BitVec 8 :=
  let ps := xs.map t.place
  let cs := (List.range (2 ^ t.dims)).map (fun b =>
    let us := ps.mapIdx (fun d p => if b / 2 ^ d % 2 = 1 then p.2.1 else p.2.2.1)
    let g := ps.mapIdx (fun d p => p.1 + b / 2 ^ d % 2)
    (productFrom (us.headD 0) us.tail, t.slot g))
  (cs.map (fun c => (c.1.1, c.2)), (ps.map (fun p => p.2.2.2) ++ cs.map (fun c => c.1.2)).foldl (· ||| ·) 0)

/-- The coordinates of a lane's point. -/
def HgOp.point (h : HgOp) (dims l : Nat) : List Nat := ((h.coords.take dims).map (fun v => (lane v l).toNat))

/-- A coordinate outside 0.0 to 1.0, or a NaN (R445). −0.0 lies in range. -/
def badCoordinate (x : Nat) : Bool := fp32.isNaN x || (fp32.neg x && fp32.mag x != 0) || fpLt fp32 fp32.one x

/-- The lowest active lane, and in it the lowest dimension, whose coordinate is out of range. -/
def HgOp.badPoint (h : HgOp) (dims : Nat) : Option (Nat × Nat) :=
  (activeLanes h.mask).findSome? (fun l => ((h.point dims l).findIdx? badCoordinate).map (fun d => (l, d)))

/-- The active lanes with their corners. -/
def HgOp.lanes (h : HgOp) : List (Nat × List (Nat × Nat) × BitVec 8) :=
  (activeLanes h.mask).map (fun l => (l, h.table.corners (h.point h.table.dims l)))

/-- The distinct slots of all active lanes in order of their first (lane, corner). -/
def HgOp.slots (h : HgOp) : List Nat :=
  (h.lanes.flatMap (fun x => x.2.1.map (fun c => c.2))).foldl (fun acc n => if acc.contains n then acc else acc ++ [n]) []

/-! ### Issue (R369) -/

/-- Registers a to min(a + 7, 31). -/
def upToEight (a : Nat) : List Nat := (List.range 8).filterMap (fun i => if a + i < 32 then some (a + i) else none)

def State.hgOf (s : State) (i : Nat) : Option HgOp := s.hgOps.find? (fun h => h.id == i)
def State.updHg (s : State) (i : Nat) (f : HgOp → HgOp) : State := { s with hgOps := s.hgOps.map (fun h => if h.id = i then f h else h) }

/-- The operation is over. -/
def State.dropHg (s : State) (i : Nat) : State :=
  { s with hgOps := s.hgOps.filter (fun h => h.id != i),
           reqs := s.reqs.filter (fun r => match r.op with | .hgRead op _ => op != i | _ => true) }

/-- v registers of a thread marked full as they stand. -/
def State.refillV (s : State) (u t : Nat) (rs : List Nat) : State :=
  s.updThread u t (fun th => { th with vfull := rs.foldl (fun f r => f ||| (1#32 <<< r)) th.vfull })

/-- A fault of an operation after commit: nothing is written, read or added any more (R434, R445, R446). -/
def State.hgFault (s : State) (h : HgOp) (cause addr : Nat) (status : BitVec 32) : State :=
  ((s.walkedFor h.by_.unit h.part cause addr).dropHg h.id).fail h.by_ cause addr status

/-- A read of the operation, in a page of class HGRID (R366, R369, R452). -/
def State.hgRead (s : State) (h : HgOp) (index va n : Nat) : State :=
  match s.translate h.part h.by_.unit va .read with
  | .error e => s.hgFault h e.cause va e.status
  | .ok g =>
    if g.cls ≠ 2 then s.hgFault h 0x5E va 0
    else
      let r : Req := { id := s.nextId, by_ := h.by_, part := h.part, va := va, pa := g.pa, size := n, cls := g.cls,
                       kslot := g.kslot, op := .hgRead h.id index, acquire := false, release := false, check := none,
                       after := h.after, born := s.now, status := .waiting, dropped := false, reply := none }
      (({ s.walked h.by_.unit h.part va with reqs := s.reqs ++ [r], nextId := s.nextId + 1 }).updHg h.id
        (fun h => { h with outstanding := h.outstanding + 1 })).sendReady

/-- The commit of HGLD and HGSC: the operation begins with the read of its header. -/
def Issuer.hgCommit (c : Issuer) (s0 : State) (o : VTri) (scatter : Bool) : Commit := fun s =>
  let th := c.th s0
  let xh := (th.getX o.srcB).toNat
  let h : HgOp :=
    { id := s.nextId, by_ := c.issue s0 7, part := c.part s0, scatter := scatter, va := o.srcA.toNat, dst := o.dst.toNat,
      hdrVa := xh / 64 * 64, level := xh % 32, bit5 := bitsOf xh 5 5 == 1, mask := th.getM o.mask,
      coords := (upToEight o.srcA.toNat).map th.getV, grads := if scatter then (upToEight o.dst.toNat).map th.getV else [],
      phase := 0, after := s.acquiresOut c.unit c.thr, header := [], desc := [], reads := [], outstanding := 0 }
  let s1 := if scatter then s
            else s.updThread c.unit c.thr (fun t => (upToEight o.dst.toNat).foldl (fun t r => t.emptyV r) t)
  { s1 with hgOps := s1.hgOps ++ [h], nextId := h.id + 1 }.hgRead h 0 h.hdrVa 64

/-- HGLD (R369, R370). -/
def slotHgld (o : VTri) : Slot := fun c s =>
  match vready (c.th s) [o.srcB] (upToEight o.srcA.toNat ++ upToEight o.dst.toNat) with
  | .error e => .error e
  | .ok _ => .ok (c.hgCommit s o false)

/-- HGSC (R369, R371). -/
def slotHgsc (o : VTri) : Slot := fun c s =>
  match vready (c.th s) [o.srcB] (upToEight o.srcA.toNat ++ upToEight o.dst.toNat) with
  | .error e => .error e
  | .ok _ => .ok (c.hgCommit s o true)

/-! ### After the reads -/

/-- A quill status word (R426). -/
def quillStatus (detail d l : Nat) : BitVec 32 := BitVec.ofNat 32 (detail * 2 ^ 24 + d * 2 ^ 5 + l)

/-- A verdict word among the gradients of an active lane: register and lane (R371, R434). -/
def HgOp.badGradient (h : HgOp) : Option (Nat × Nat) :=
  verdictLane fp32 h.mask ((h.grads.take h.table.feats).mapIdx (fun i v => (h.dst + i, v)))

/-- The contributions to a slot in ascending (lane, corner): gradient times weight for one feature, summed in FP32 (R371). -/
def HgOp.slotSum (h : HgOp) (n k : Nat) : Rounded :=
  let cs := h.lanes.flatMap (fun x => (x.2.1.filter (fun c => c.2 == n)).map (fun c =>
    fpMul fp32 rndRNE 0 (lane (h.grads.getD k 0) x.1).toNat c.1))
  match cs with
  | [] => (0, 0)
  | c :: rest => rest.foldl (fun t r => let q := fpAdd fp32 rndRNE 0 t.1 r.1; (q.1, t.2 ||| r.2 ||| q.2)) c

/-- The add of one slot, as a request (R371). -/
def State.hgAddOne (s : State) (h : HgOp) (n : Nat) : State :=
  match s.hgOf h.id with
  | none => s
  | some _ =>
    let t := h.table
    let va := t.slotVa n
    match s.translate h.part h.by_.unit va .atomic with
    | .error e => s.hgFault h e.cause va e.status
    | .ok g =>
      if g.cls ≠ 2 then s.hgFault h 0x5E va 0
      else
        let z := fmtWidth t.fmt / 8
        let adds := (List.range t.feats).map (fun k => (k * z, BitVec.ofNat 32 (h.slotSum n k).1))
        let r : Req := { id := s.nextId, by_ := h.by_, part := h.part, va := va, pa := g.pa, size := t.feats * z, cls := g.cls,
                         kslot := g.kslot, op := .hgAdd h.id t.fmt adds, acquire := false, release := false, check := none,
                         after := h.after, born := s.now, status := .waiting, dropped := false, reply := none }
        (({ s.walked h.by_.unit h.part va with reqs := s.reqs ++ [r], nextId := s.nextId + 1 }).updHg h.id
          (fun h => { h with outstanding := h.outstanding + 1 })).sendReady

/-- The flags that forming the add of a slot raises: its products and sums, and the weights of the lanes that add to it. -/
def HgOp.slotFlags (h : HgOp) (n : Nat) : BitVec 8 :=
  ((List.range h.table.feats).map (fun k => (h.slotSum n k).2)).foldl (· ||| ·)
    (((h.lanes.filter (fun x => x.2.1.any (fun c => c.2 == n))).map (fun x => x.2.2)).foldl (· ||| ·) 0)

/-- The same, for the add of an operation at an address: the thread receives them with its acknowledgement (R371, R433). -/
def State.hgFlags (s : State) (op va : Nat) : BitVec 8 :=
  match s.hgOf op with
  | none => 0
  | some h => match h.slots.find? (fun n => h.table.slotVa n == va) with
    | some n => h.slotFlags n
    | none => 0

/-- One feature of one lane: FMA over the corners in ascending order (R370). -/
def interpolate (t : HgTable) (reads : SMap (List Byte)) (slots : List Nat) (k : Nat) : Rounded → List (Nat × Nat) → Rounded
  | acc, [] => acc
  | acc, (w, n) :: cs =>
    let z := fmtWidth t.fmt / 8
    let v := fieldAt (lookup [] ((slots.idxOf? n).getD 0) reads) (k * z) z * 2 ^ (32 - fmtWidth t.fmt)
    let r := fpFma fp32 rndRNE 0 w v acc.1
    interpolate t reads slots k (r.1, acc.2 ||| r.2) cs

/-- A verdict word among the table values read: the lowest lane that uses it (R434). -/
def HgOp.badValue (h : HgOp) : Option Nat :=
  let t := h.table
  let z := fmtWidth t.fmt / 8
  let bad := fun n => (List.range t.feats).any (fun k =>
    ((tableFmt t.fmt).verdict (fieldAt (lookup [] ((h.slots.idxOf? n).getD 0) h.reads) (k * z) z)).isSome)
  (h.lanes.find? (fun x => x.2.1.any (fun c => bad c.2))).map (fun x => x.1)

/-- HGLD's results are formed (R370): the outputs become full. -/
def State.hgFinishLoad (s : State) (h : HgOp) : State :=
  match h.badValue with
  | some l => s.hgFault h 0x33 h.hdrVa (quillStatus 0 0 l)
  | none =>
    let t := h.table
    let val := fun k l =>
      match h.lanes.find? (fun x => x.1 == l) with
      | some x => interpolate t h.reads h.slots k (0, 0) x.2.1
      | none => (0, 0)
    let flags := (List.range t.feats).foldl (fun f k => f ||| laneFlags h.mask (fun l => (val k l).2))
      ((h.lanes.map (fun x => x.2.2)).foldl (· ||| ·) 0)
    let s1 := (s.dropHg h.id).updThread h.by_.unit h.by_.thr (fun th =>
      (List.range t.feats).foldl (fun th k =>
        th.setV (h.dst + k) (mergeLanes h.mask (th.getV (h.dst + k)) (fun l => BitVec.ofNat 32 (val k l).1))) th)
    (s1.refillV h.by_.unit h.by_.thr ((upToEight h.dst).take t.feats)).agentFlags h.by_.unit h.by_.thr flags

/-- The slots of the table that an operation touches, all translated and in pages of class HGRID, or the first fault: found before any
access of the table (R461). -/
def State.hgHomes (s : State) (h : HgOp) (k : Access) : List Nat → Except (Nat × Nat × BitVec 32) Unit
  | [] => .ok ()
  | n :: ns =>
    let va := h.table.slotVa n
    match s.translate h.part h.by_.unit va k with
    | .error e => .error (e.cause, va, e.status)
    | .ok g => if g.cls ≠ 2 then .error (0x5E, va, 0) else s.hgHomes h k ns

/-- A slot of the table on a poisoned line of this module: an HGSC that meets one adds nothing (R469). -/
def State.hgPoison (s : State) (h : HgOp) : Option Nat :=
  (h.slots.map h.table.slotVa).find? (fun va => match s.translate h.part h.by_.unit va .atomic with
    | .ok g => s.isLocal g && s.poisonedAt g
    | .error _ => false)

/-- The lowest active lane that adds to the slot at an address (R434). -/
def HgOp.laneAt (h : HgOp) (va : Nat) : Nat :=
  ((h.lanes.find? (fun x => x.2.1.any (fun c => h.table.slotVa c.2 == va))).map (fun x => x.1)).getD 0

/-- Header and descriptor are read: the tests of R434, R445 and R446, then the reads of the table or the adds. -/
def State.hgTables (s : State) (h : HgOp) : State :=
  let t := h.table
  match h.descFault with
  | some d => s.hgFault h 0x31 h.hdrVa (quillStatus d 0 0)
  | none =>
    if 32 < h.va + t.dims then s.hgFault h 0x32 h.hdrVa (quillStatus 0 0 0)
    else if 32 < h.dst + t.feats then s.hgFault h 0x32 h.hdrVa (quillStatus 1 0 0)
    else match h.badPoint t.dims with
      | some (l, d) => s.hgFault h 0x30 h.hdrVa (quillStatus 0 d l)
      | none =>
        let s1 := s.updHg h.id (fun x => { x with phase := 2 })
        if h.scatter then
          match h.badGradient with
          | some (r, l) =>
            (s1.dropHg h.id).updThread h.by_.unit h.by_.thr (fun th =>
              { th with traps := th.traps ++ [⟨0x15, 128 + r, true, 7, h.by_.slot, 0, BitVec.ofNat 32 l, some h.by_.bundle⟩] })
          | none =>
            if h.slots.isEmpty then s1.dropHg h.id
            else match s.hgHomes h .atomic h.slots with
            | .error f => s.hgFault h f.1 f.2.1 f.2.2
            | .ok _ => match s.hgPoison h with
              | some va => s.hgFault h 0x4C va 0
              | none => h.slots.foldl (fun s n => s.hgAddOne h n) s1
        else
          if h.slots.isEmpty then s1.hgFinishLoad h
          else match s.hgHomes h .read h.slots with
          | .error f => s.hgFault h f.1 f.2.1 f.2.2
          | .ok _ => (List.range h.slots.length).foldl (fun s i =>
            match s.hgOf h.id with
            | some x => s.hgRead x (2 + i) (t.slotVa (h.slots.getD i 0)) (t.feats * (fmtWidth t.fmt / 8))
            | none => s) s1

/-- A read of an operation has landed. -/
def State.hgLanded (s : State) (op index : Nat) (bs : List Byte) : State :=
  match s.hgOf op with
  | none => s
  | some h0 =>
    let s1 := s.updHg op (fun x => { x with outstanding := x.outstanding - 1 })
    let h := { h0 with outstanding := h0.outstanding - 1 }
    if index = 0 then
      let h1 := { h with header := bs }
      let s2 := if h1.scatter then s1 else s1.refillV h1.by_.unit h1.by_.thr ((upToEight h1.dst).drop h1.table.feats)
      match h1.headerFault with
      | some d => s2.hgFault h1 0x31 h1.hdrVa (quillStatus d 0 0)
      | none =>
        let h2 := { h1 with phase := 1 }
        (s2.updHg op (fun _ => h2)).hgRead h2 1 (h2.table.ldesc + 16 * h2.level) 16
    else if index = 1 then
      let h1 := { h with desc := bs }
      (s1.updHg op (fun _ => h1)).hgTables h1
    else
      let h1 := { h with reads := insertAt (index - 2) bs h.reads }
      let s2 := s1.updHg op (fun _ => h1)
      if h1.outstanding = 0 then s2.hgFinishLoad h1 else s2

/-- An add of an operation has been acknowledged (R371). -/
def State.hgAcked (s : State) (op : Nat) : State :=
  match s.hgOf op with
  | none => s
  | some h =>
    if h.outstanding ≤ 1 then s.dropHg op else s.updHg op (fun x => { x with outstanding := x.outstanding - 1 })

/-! ### Each instruction as a bundle of its own -/
/-- HGLD alone in its bundle. -/
def execHgld (o : VTri) (s : State) : Result := .next (s.issueOne (.hgld o) (slotHgld o))
/-- HGSC alone in its bundle. -/
def execHgsc (o : VTri) (s : State) : Result := .next (s.issueOne (.hgsc o) (slotHgsc o))

end Sys2Proof.Machine
end

