-- ==== Sys2Proof/Machine/Landing.lean ====
section
/-! DEFINITION. What an answer does when it reaches the unit that asked (R143, R190, R210, R252, R257, R258, R347, R351, R365,
R405, R433, R464, R466, R469): results, acknowledgements and failures. -/

namespace Sys2Proof.Machine

/-- The tag of a thread's latest write (R190). -/
def Thread.tagged (th : Thread) (t : Option (BitVec 32)) : Thread :=
  match t with
  | some v => { th with stag := v }
  | none => th

/-- The x register of a number. -/
def xNum (n : Nat) : BitVec 5 := BitVec.ofNat 5 n

/-- A result in an x register (R210). -/
def State.landX (s : State) (i : Issue) (dst : Nat) (v : Word) : State := s.updThread i.unit i.thr (fun th => th.setX (xNum dst) v)

/-- Lanes of a v register that have landed; the register is full with the last request for it (R347, R351). -/
def State.landLanes (s : State) (i : Issue) (dst : Nat) (fmt : BitVec 4) (lanes : List (Nat × Nat)) (bs : List Byte) : State :=
  let more := s.reqs.any (fun r => r.by_.unit == i.unit && r.by_.thr == i.thr &&
    match r.op with | .vload d _ _ => d == dst | _ => false)
  let z := fmtWidth fmt / 8
  let val := fun (l : Nat) => (lanes.findIdx? (fun e => e.1 == l)).map (fun j => placeLane fmt (fieldAt bs (j * z) z))
  s.updThread i.unit i.thr (fun th =>
    let v := ofLanes (fun l => (val l).getD (lane (th.getV dst) l))
    if more then { th with v := th.v.setIfInBounds dst v } else th.setV dst v)

/-- Requests for one v register are all in: it is full as it stands. -/
def State.settleV (s : State) (i : Issue) (dst : Nat) : State :=
  if s.reqs.any (fun r => r.by_.unit == i.unit && r.by_.thr == i.thr && match r.op with | .vload d _ _ => d == dst | _ => false) then s
  else s.refillV i.unit i.thr [dst]

/-- A line has arrived in a slot of the tag table: its granules are full and F is clear (R143). An LDE that waits for one of them is tried
again in the bank cycle after (R252), so those of this cycle come first. -/
def State.landFill (s : State) (core slot : Nat) (bs : List Byte) : State :=
  let s0 := s.bankNow core
  let s1 := { s0 with mem := memWrite s0.mem (scratchPa core (tagData slot)) bs }
  s1.updCore core (fun k =>
    let k1 := k.setGranules ((List.range 8).map (fun i => tagData slot / 16 + i)) true
    { k1 with tags := adjust 0 slot (fun e => e &&& 0xDFFFFFFFFFFFFFFF) k1.tags,
              gpoison := (List.range 8).foldl (fun m i => if lookup false (tagData slot / 16 + i) m then insertAt (tagData slot / 16 + i) false m else m) k1.gpoison })

/-- Registers that a failed access had marked empty hold again what they held (R466). -/
def State.refill (s : State) (i : Issue) (op : MemOp) : State :=
  match op with
  | .load d | .lde d _ | .amo _ _ _ d | .tlook d _ | .doneid d _ | .wtest d => s.updThread i.unit i.thr (fun th => th.refillX (xNum d))
  | .vload d _ _ => s.settleV i d
  | _ => s

/-- The issue is one of an append's agent (R267). -/
def Issue.isAgent (i : Issue) : Bool := i.unit < 224 && 4 ≤ i.thr && i.thr < 8

/-- The issue is one of an append's agent or of the scheduler, who look for the answers of their atomics. -/
def Issue.keeps (i : Issue) : Bool := i.isAgent || decide (258 ≤ i.unit)

/-- An answer is kept for its issuer, who looks for it under the target's address. -/
def State.keep (s : State) (r : Req) (cause : Nat) (status : BitVec 32) (bs : List Byte) (poison : Bool) : State :=
  { s with inbox := s.inbox ++ [⟨r.by_.unit, r.by_.thr, r.pa, cause, status, bs, poison⟩] }

/-- What a successful answer does. -/
def State.landOk (s : State) (r : Req) (a : Reply) : State :=
  let i := r.by_
  let flags := fun (s : State) (f : BitVec 8) => if f = 0 then s else s.agentFlags i.unit i.thr f
  match r.op, a with
  | .load d, .data bs => s.landX i d (BitVec.ofNat 64 (leNat bs))
  | .lde d _, .data bs => s.landX i d (BitVec.ofNat 64 (leNat bs))
  | .wtest d, .data bs => s.landX i d (if bitsOf (leNat bs) 31 31 = 1 then 1 else 0)
  | .doneid d ch, _ => s.landX i d ((s.copyQueue ch).doneid.setWidth 64)
  | .tlook d v, _ => s.landX i d v
  | .amo _ _ _ d, .old v t f =>
    if i.keeps then s.keep r 0 0 (leBytes r.size v.toNat) false else flags (s.updThread i.unit i.thr (fun th => (th.setX (xNum d) v).tagged t)) f
  | .vload d fmt ls, .data bs => s.landLanes i d fmt ls bs
  | .fill slot, .data bs => s.landFill i.unit slot bs
  | .evict slot, _ => s.evicted i.unit slot r.id
  | .hgRead op n, .data bs => s.hgLanded op n bs
  | .amax _, _ => s
  | .hgAdd op _ _, .ack t f => flags ((s.updThread i.unit i.thr (fun th => th.tagged t)).hgAcked op) (f ||| s.hgFlags op r.va)
  | .fetch, .data bs => s.keep r 0 0 bs false
  | .fetch, .poisoned bs => s.keep r 0 0 bs true
  | .engine (some c) _ _ _ k _, _ => if (s.countsThere c r.pa).isSome then s else s.tellWell c k
  | .engine none _ _ _ _ _, _ => s
  | _, .ack t f => flags (s.updThread i.unit i.thr (fun th => th.tagged t)) f
  | _, _ => s

/-- The lane a failed lane request names (R452). -/
def MemOp.lane (op : MemOp) : Nat :=
  match op with
  | .vload _ _ ls => (ls.headD (0, 0)).1
  | _ => 0

/-- A write of an engine or of the scheduler fails at its home: an append's agent is told; an edge unit's write ends the launch of the stream's
thread; a copy's status word is a fault of the copy, a task's of its launch; a completion record's is a fault of its launch, whose first one
it may be (R405, R452, R454, R470, R471, R479, R483, R492). Nobody is told of another write of the scheduler. -/
def State.writeFails (s : State) (r : Req) (cause : Nat) (status : BitVec 32) : State :=
  let i := r.by_
  if i.isAgent then s.keep r cause status [] false
  else if i.unit < 192 then (if i.thr < 24 then s.fail { i with thr := i.thr % 4 } cause r.va status else s)
  else if i.unit < 224 then
    (if (s.ownerLaunch i.owner).isSome then s.failLaunch (s.faultRec { i with thr := 0 } r.part 3 cause r.va status .none) else s)
  else if i.unit < 240 then
    match s.copyOf i.thr with
    | some k => s.copyFault k cause r.va status
    | none => s
  else match s.launchOf (i.thr - 1024) with
    | some l => if i.thr < 1024 || l.cause.isSome then s
                else (s.failLaunch (schedRec l cause r.va status)).updLaunch l.id (fun x => { x with state := .draining })
    | none => s

/-- What a failed answer does (R405, R466, R469). -/
def State.landFail (s : State) (r : Req) (cause : Nat) (status : BitVec 32) : State :=
  let i := r.by_
  if cause = 0x4B then
    (s.refill i r.op).updThread i.unit i.thr (fun th =>
      { th with traps := th.traps ++ [⟨0x4B, 0, false, i.cls, i.slot, BitVec.ofNat 64 r.va, status, some i.bundle⟩] })
  else match r.op with
    | .fetch => s.keep r cause status [] false
    | .amo _ _ _ _ => if i.keeps then s.keep r cause status [] false else s.fail i cause r.va status
    | .engine none _ _ _ _ _ => s.writeFails r cause status
    | .engine (some c) _ _ _ _ _ => match s.copyOf c with
      | some k => s.copyFault k cause (if cause = 0x50 then k.wellVa else r.va) status
      | none => s
    | .wellLand _ => match s.copyOf i.thr with
      | some k => s.copyFault k cause r.va status
      | none => s
    | .hgRead op _ => match s.hgOf op with
      | some h => s.hgFault h cause r.va status
      | none => s
    | .hgAdd op _ _ => match s.hgOf op with
      | some h => s.hgFault h cause r.va (if cause = 0x33 then quillStatus 0 0 (h.laneAt r.va) else status)
      | none => s
    | .vload d _ _ => (s.settleV i d).fail i cause r.va (laneStatus status r.op.lane)
    | _ => s.fail i cause r.va status

/-- The answer of an access that arrived over Bridin goes back to its module: data with their poison, the old value of an atomic, the
tag of a store or an atomic, or the cause of a failure (R159, R190, R205, R466, R469). -/
def State.respond (s : State) (r : Req) (m : Remote) (a : Reply) : State :=
  let f := { s.flitFor r.part m.modl .response (localOf r.pa) r.size [] with token := m.token }
  match a with
  | .data bs => s.sendFlit r.part { f with data := bs }
  | .poisoned bs => s.sendFlit r.part { f with data := bs, poison := true }
  | .old v t g => s.sendFlit r.part { f with data := leBytes 8 v.toNat, mask := [g.toNat], tag := t }
  | .ack t g => s.sendFlit r.part { f with mask := [g.toNat], tag := t }
  | .fail c w => s.sendFlit r.part { f with atomic := c, data := leBytes 4 w.toNat }

/-- An answer arrives: the request is over, and requests that waited for it may leave. -/
def State.landReq (s : State) (r : Req) (due : Nat) (a : Reply) : State :=
  let s1 := (s.dropReq r.id).passTo due
  let s2 := if r.dropped && !r.op.isFill && (match r.op with | .evict _ => false | _ => true) then s1
    else match r.reply with
      | some m => s1.respond r m a
      | none =>
        if r.by_.unit = 256 then s1.hostAnswer r.id a
        else match a with
          | .fail c w => s1.landFail r c w
          | a => s1.landOk r a
  s2.sendReady

/-- Answers that READ_LANDING brings: results of loads, atomics, table reads and fills; the rest are acknowledgements. -/
def MemOp.landsData (op : MemOp) : Bool :=
  match op with
  | .store _ _ | .vstore _ | .granules _ _ | .evict _ | .tstr _ _ | .hgAdd _ _ _ | .engine _ _ _ _ _ _ | .amax _ | .well _ _ | .wellLand _ => false
  | _ => true

/-- The served request of a number, if its answer is of a kind. -/
def State.arrive (s : State) (data : Bool) (i : Nat) : State :=
  match s.reqs.find? (fun r => r.id == i) with
  | none => s
  | some r =>
    match r.status with
    | .served due a => if r.op.landsData == data then s.landReq r due a else s
    | _ => s

/-- READ_LANDING: the result of the request of a number arrives. -/
def execReadLanding (i : Nat) (s : State) : Result := .next ((s.arrive true i).unblock)
/-- STORE_ACK: the acknowledgement of the request of a number arrives. -/
def execStoreAck (i : Nat) (s : State) : Result := .next ((s.arrive false i).unblock)

end Sys2Proof.Machine
end

