-- ==== Sys2Proof/Machine/SaveArea.lean ====
section
/-! DEFINITION. The save area of a core (R87, R474): the records of its threads, sequencer, edge units, library stroke and cells. The
manual orders the fields; the places of the fields inside a record are the model's (assumption 59). -/

namespace Sys2Proof.Machine

/-- A record filled up with zeros to its size. -/
def padTo (n : Nat) (bs : List Byte) : List Byte := bs ++ List.replicate (n - bs.length) 0

/-- Words of a record. -/
def wordsOf (n : Nat) (bs : List Byte) (o k : Nat) : Vector (BitVec n) k := Vector.ofFn (fun (i : Fin k) => BitVec.ofNat n (fieldAt bs (o + n / 8 * i) (n / 8)))

/-! ### Threads: 512 bytes each -/

def Thread.saved (th : Thread) : List Byte :=
  padTo 512 ((th.x.toList.drop 1).flatMap (fun w => leBytes 8 w.toNat) ++ leBytes 8 th.xfull.toNat ++ th.g.toList.flatMap (fun w => leBytes 8 w.toNat) ++
    leBytes 8 th.pc.toNat ++ leBytes 8 th.tvec.toNat ++ leBytes 8 th.tepc.toNat ++ leBytes 8 th.taddr.toNat ++ leBytes 4 th.tcause.toNat ++
    leBytes 4 th.tstat.toNat ++ leBytes 4 th.stag.toNat ++ leBytes 2 th.flags.toNat ++ leBytes 1 th.p.toNat ++ leBytes 1 (if th.intrap then 1 else 0))

/-- A thread from its record. A register that was empty at the switch and whose result has landed since keeps it, and flags set since stay set
(R88, R91). -/
def Thread.restored (th : Thread) (bs : List Byte) : Thread :=
  let full : BitVec 32 := BitVec.ofNat 32 (fieldAt bs 248 8)
  let landed := th.xfull &&& ~~~full
  { th with x := Vector.ofFn (fun (i : Fin 32) => if i = 0 then 0 else if landed.getLsbD i then th.x.getD i 0 else BitVec.ofNat 64 (fieldAt bs (8 * (i.val - 1)) 8)),
            xfull := full ||| landed, g := wordsOf 64 bs 256 8, pc := BitVec.ofNat 64 (fieldAt bs 320 8),
            tvec := BitVec.ofNat 64 (fieldAt bs 328 8), tepc := BitVec.ofNat 64 (fieldAt bs 336 8), taddr := BitVec.ofNat 64 (fieldAt bs 344 8),
            tcause := BitVec.ofNat 32 (fieldAt bs 352 4) &&& 0x80FFFFFF, tstat := BitVec.ofNat 32 (fieldAt bs 356 4), stag := BitVec.ofNat 32 (fieldAt bs 360 4),
            flags := (BitVec.ofNat 15 (fieldAt bs 364 2) &&& 0x7F3F) ||| th.flagByte.setWidth 15, p := BitVec.ofNat 8 (fieldAt bs 366 1), intrap := fieldAt bs 367 1 == 1 }

/-! ### The sequencer and the edge units -/

/-- Words of a loop buffer that a record holds; the device keeps the others, and where the bundles begin. -/
def loopWords : Nat := 90

/-- A loop's head and its buffer. -/
def LoopState.head (l : LoopState) : List Byte :=
  leBytes 8 l.at_.toNat ++ leBytes 8 l.body.toNat ++ leBytes 8 l.len ++ leBytes 8 l.pos ++ leBytes 8 l.remaining
def LoopState.buffer (l : LoopState) : List Byte :=
  padTo (4 * loopWords) (((l.entries.flatMap Prod.snd).take loopWords).flatMap (fun w => leBytes 4 w.toNat))

/-- The bundles of a loop buffer with the words that a record holds, from the n-th word on. -/
def rewords (bs : List Byte) : Nat → List (Word × List SlotWord) → List (Word × List SlotWord)
  | _, [] => []
  | n, e :: rest =>
    (e.1, e.2.mapIdx (fun i w => if n + i < loopWords then BitVec.ofNat 32 (fieldAt bs (4 * (n + i)) 4) else w)) :: rewords bs (n + e.2.length) rest

/-- A loop from its head and its buffer. -/
def LoopState.restored (l : LoopState) (head buffer : List Byte) : LoopState :=
  { l with at_ := BitVec.ofNat 64 (fieldAt head 0 8), body := BitVec.ofNat 64 (fieldAt head 8 8), len := fieldAt head 16 8, pos := fieldAt head 24 8,
           remaining := fieldAt head 32 8, entries := rewords buffer 0 l.entries }

/-- Loops' heads, the nib, the claims of the appends under way, and the loop buffers (R87, R221). -/
def State.seqRecord (s : State) (n : Nat) : List Byte :=
  let heads := (List.range 4).flatMap (fun t => padTo 40 (((s.thread n t).loop.map LoopState.head).getD []))
  let nib := ((s.core n).nib.take 8).flatMap (fun e => leBytes 4 e.word.toNat ++ leBytes 4 e.by_.thr ++ leBytes 8 e.x0.toNat ++ leBytes 8 e.x1.toNat)
  let ids := ((s.appends.filter (fun a => a.by_.unit == n)).take 16).flatMap (fun a => leBytes 8 a.slotVa ++ leBytes 4 a.wi.toNat ++ leBytes 4 a.dst)
  heads ++ padTo 192 nib ++ padTo 256 ids ++ (List.range 4).flatMap (fun t => padTo (4 * loopWords) (((s.thread n t).loop.map LoopState.buffer).getD []))

/-- A thread's loop, and the x values that the nib's instructions carry, from the sequencer's record. -/
def Thread.loopRestored (th : Thread) (t : Nat) (bs : List Byte) : Thread :=
  { th with loop := th.loop.map (fun l => l.restored (bytesAt bs (40 * t) 40) (bytesAt bs (608 + 4 * loopWords * t) (4 * loopWords))) }
def CoreArr.nibRestored (k : CoreArr) (bs : List Byte) : CoreArr :=
  { k with nib := k.nib.mapIdx (fun i e => { e with
      x0 := BitVec.ofNat 64 (fieldAt bs (160 + 24 * i + 8) 8), x1 := BitVec.ofNat 64 (fieldAt bs (160 + 24 * i + 16) 8) }) }

/-- An edge unit: its generator, and the header and the position of each stream. -/
def EdgeUnit.saved (e : EdgeUnit) : List Byte :=
  padTo 256 (leBytes 4 e.rs.toNat ++ (e.streams.take 7).flatMap (fun m =>
    leBytes 8 m.fst.hdrVa ++ leBytes 8 m.snd.hdrVa ++ leBytes 8 m.taken ++ leBytes 8 m.written))

/-- An edge unit from its record: its generator and the positions of its streams. -/
def EdgeUnit.restored (e : EdgeUnit) (bs : List Byte) : EdgeUnit :=
  { e with rs := BitVec.ofNat 32 (fieldAt bs 0 4),
           streams := e.streams.mapIdx (fun i m => if i < 7 then
             { m with fst := { m.fst with hdrVa := fieldAt bs (4 + 32 * i) 8 }, snd := { m.snd with hdrVa := fieldAt bs (12 + 32 * i) 8 },
                      taken := fieldAt bs (20 + 32 * i) 8, written := fieldAt bs (28 + 32 * i) 8 } else m) }

def CoreArr.edgesRestored (k : CoreArr) (bs : List Byte) : CoreArr :=
  { k with west := k.west.restored (bytesAt bs 0 256), north := k.north.restored (bytesAt bs 256 256), east := k.east.restored (bytesAt bs 512 256),
           south := k.south.restored (bytesAt bs 768 256) }

def CoreArr.edgeRecord (k : CoreArr) : List Byte := k.west.saved ++ k.north.saved ++ k.east.saved ++ k.south.saved

/-! ### The library stroke (R474) -/

def CoreArr.strokeRecord (k : CoreArr) : List Byte :=
  let active := k.stroke.filter (fun t => t.begun)
  let head := match active with
    | some t => leBytes 4 t.word.toNat ++ leBytes 4 (2 ^ 31 + t.prog)
    | none => leBytes 4 0 ++ leBytes 4 k.prog.toNat
  let tail := match active with
    | some t => leBytes 4 t.maxA.toNat ++ leBytes 4 t.maxU.toNat ++ leBytes 4 (if t.failed then 1 else 0)
    | none => leBytes 12 0
  head ++ k.pv.toList.flatMap (fun w => leBytes 8 w.toNat) ++ leBytes 4 k.pivstat.toNat ++ leBytes 4 k.growth.toNat ++ tail ++ leBytes 164 0

/-! ### Cells: 2,432 bytes each -/

/-- An accumulator's part of the latches: its bias, the count of its inner sums and the widths of the pair that added to them. -/
def AccState.latches (a : AccState) : List Byte :=
  leBytes 4 (match a.bias with | some b => 2 ^ 31 + b.toNat | none => 0) ++ leBytes 1 a.kc ++ leBytes 1 a.widthA ++ leBytes 1 a.widthB

/-- An accumulator from its elements, its inner sums and its latches. -/
def accFrom (el inner latches : List Byte) : AccState :=
  let b := fieldAt latches 0 4
  ⟨BitVec.ofNat 2048 (leNat el), BitVec.ofNat 1536 (leNat inner), fieldAt latches 4 1, fieldAt latches 5 1, fieldAt latches 6 1,
   if bitsOf b 31 31 = 1 then some (BitVec.ofNat 17 b) else none⟩

/-- The verdict state of a cell: 21 bytes. -/
def verdictBytes (v : Option VerdictAcc) : List Byte :=
  match v with
  | some v => leBytes 1 (128 + v.acc * 8 + v.pred) ++ leBytes 2 v.nb ++ leBytes 2 v.done ++ leBytes 8 v.below.toNat ++ leBytes 8 v.above.toNat
  | none => leBytes 21 0

def verdictFrom (bs : List Byte) : Option VerdictAcc :=
  let h := fieldAt bs 0 1
  if bitsOf h 7 7 = 0 then none
  else some ⟨bitsOf h 4 3, bitsOf h 2 0, fieldAt bs 1 2, fieldAt bs 3 2, BitVec.ofNat 64 (fieldAt bs 5 8), BitVec.ofNat 64 (fieldAt bs 13 8)⟩

def Cell.saved (c : Cell) : List Byte :=
  padTo 2432 (c.f.toList.flatMap (fun w => leBytes 32 w.toNat) ++ c.c.toList.flatMap (fun a => leBytes 256 a.el.toNat) ++
    c.c.toList.flatMap (fun a => leBytes 192 a.inner.toNat) ++ leBytes 32 c.h0.toNat ++ leBytes 32 c.h1.toNat ++ leBytes 1 c.q.toNat ++
    leBytes 1 c.flags.toNat ++ leBytes 4 c.s.toNat ++ c.c.toList.flatMap AccState.latches ++ leBytes 1 c.scaleA.toNat ++ leBytes 1 c.scaleB.toNat ++
    leBytes 1 c.tailA.toNat ++ leBytes 1 c.tailB.toNat ++ leBytes 4 c.vthr.toNat ++ verdictBytes c.va)

def Cell.restored (c : Cell) (bs : List Byte) : Cell :=
  { c with f := wordsOf 256 bs 0 16,
           c := Vector.ofFn (fun (i : Fin 4) => accFrom (bytesAt bs (512 + 256 * i.val) 256) (bytesAt bs (1536 + 192 * i.val) 192) (bytesAt bs (2374 + 7 * i.val) 7)),
           h0 := BitVec.ofNat 256 (fieldAt bs 2304 32), h1 := BitVec.ofNat 256 (fieldAt bs 2336 32), q := BitVec.ofNat 4 (fieldAt bs 2368 1),
           flags := BitVec.ofNat 8 (fieldAt bs 2369 1) &&& 0x3F, s := BitVec.ofNat 32 (fieldAt bs 2370 4), scaleA := BitVec.ofNat 8 (fieldAt bs 2402 1),
           scaleB := BitVec.ofNat 8 (fieldAt bs 2403 1), tailA := BitVec.ofNat 8 (fieldAt bs 2404 1), tailB := BitVec.ofNat 8 (fieldAt bs 2405 1),
           vthr := BitVec.ofNat 32 (fieldAt bs 2406 4), va := verdictFrom (bytesAt bs 2410 21) }

/-! ### Core memory -/

/-- Cell stores, granule bits, tag table and bank formats of a core from its save area, reserved bits as 0 (R6, R87). -/
def CoreArr.memoryFrom (k : CoreArr) (stores granules tags fmts : List Byte) : CoreArr :=
  { k with cells := (List.range 256).foldl (fun m c => insertAt c { lookup (Cell.reset c) c m with
             store := (List.range 32).map (fun r => (r, BitVec.ofNat 256 (fieldAt stores (1024 * c + 32 * r) 32))) } m) k.cells,
           full := (List.range 131072).map (fun i => (i, (granules.getD (i / 8) 0).getLsbD (i % 8))),
           tags := (List.range 1024).map (fun i => (i, BitVec.ofNat 64 (fieldAt tags (8 * i) 8))),
           bfmt := (wordsOf 32 fmts 0 16).map (fun w => w &&& 0x1FF) }

/-- Bytes of the core memory other than the scratchpad: cell stores, granule bits, tag table, bank formats. -/
def CoreArr.storeBytes (k : CoreArr) : List Byte :=
  (List.range 256).flatMap (fun c => (List.range 32).flatMap (fun r => leBytes 32 (lookup 0 r (k.cell c).store).toNat))
def CoreArr.granuleBytes (k : CoreArr) : List Byte :=
  (List.range 16384).map (fun i =>
    BitVec.ofNat 8 ((List.range 8).foldl (fun b j => b + if lookup false (8 * i + j) k.full then 2 ^ j else 0) 0))
def CoreArr.tagBytes (k : CoreArr) : List Byte := (List.range 1024).flatMap (fun i => leBytes 8 (lookup 0 i k.tags).toNat)
def CoreArr.fmtBytes (k : CoreArr) : List Byte := k.bfmt.toList.flatMap (fun w => leBytes 4 w.toNat)

end Sys2Proof.Machine
end

