-- ==== Sys2Proof/Machine/Scheduler.lean ====
section
/-! DEFINITION. Launches (R63 to R86, R94, R195, R385, R398, R400, R401, R418, R452, R459): the reading and checking of a packet,
dependences, placement, dispatch, triggers, and the completion record. -/

namespace Sys2Proof.Machine

/-! ### Packets and records (R71 to R73, R76, R459) -/

def Launch.word (l : Launch) : Nat := fieldAt l.pkt 4 4
def Launch.loopsVa (l : Launch) : Nat := fieldAt l.pkt 24 8
def Launch.placeVa (l : Launch) : Nat := fieldAt l.pkt 32 8
/-- A dependency entry: 0 or 1. -/
def Launch.entry (l : Launch) (i : Nat) : Nat := fieldAt l.pkt (40 + 8 * i) 8

/-- Rows and columns of a chain shape (R65). -/
def shapeDims (shape : Nat) : Nat × Nat :=
  match shape with
  | 0 => (1, 1) | 1 => (1, 2) | 2 => (2, 1) | 3 => (2, 2) | _ => (4, 4)

/-- The object of a dependency entry: its address, whether it is a record, and the phase to wait past (R72). -/
def depVa (e : Nat) : Nat := e / 64 * 64
def depRecord (e : Nat) : Bool := bitsOf e 1 1 == 1
def depOn (e : Nat) : Bool := e % 2 == 1

/-- A core of the partition that takes part in execution: not retired and not down (R14, R448, R481, R482). -/
def State.coreEnabled (s : State) (p n : Nat) : Bool := s.owns p (n / 24) && !(s.seq n).retired && !(s.core n).down
def State.enabledCores (s : State) (p : Nat) : Nat := ((List.range 192).filter (s.coreEnabled p)).length

/-- DETAIL of cause 0x58 found in the packet itself, in ascending order; 6 is a gang too large (R459). -/
def State.launchInvalid (s : State) (l : Launch) : Option Nat :=
  let w := l.word
  let d := shapeDims l.shape
  let addr := fun (a n : Nat) => a % n ≠ 0 || decide (2 ^ 56 ≤ a)
  let dep := fun (i : Nat) => depOn (l.entry i) && (addr (depVa (l.entry i)) (if depRecord (l.entry i) then 64 else 128))
  if fieldAt l.pkt 0 1 ≠ 0 || bitsOf w 31 24 ≠ 0 || bitsOf w 8 0 ≠ 0 || 5 ≤ l.shape || l.dep = 3 then some 0
  else if addr l.code.toNat 4 || addr l.loopsVa 64 || addr l.placeVa 8 || dep 0 || dep 1 || addr l.doneVa 64 then some 1
  else if bitsOf (l.entry 0) 5 3 ≠ 0 || bitsOf (l.entry 1) 5 3 ≠ 0 then some 5
  else if 192 < l.nchain * d.1 * d.2 || s.enabledCores l.part < l.nchain * d.1 * d.2 then some 6
  else none

/-- Loop numbers outermost first, as a loop-nest record orders them. -/
def loopOrder (bs : List Byte) : List Nat :=
  let w := fieldAt bs 0 4
  [bitsOf w 9 8, bitsOf w 11 10, bitsOf w 5 4, bitsOf w 7 6].take (bitsOf w 2 0)

/-- The loops of a record, outermost first, if it is valid (R73). -/
def loopNest (bs : List Byte) : Option (List (Nat × Int × Nat × Int)) :=
  let w := fieldAt bs 0 4
  let n := bitsOf w 2 0
  let ord := loopOrder bs
  let spare := [bitsOf w 9 8, bitsOf w 11 10, bitsOf w 5 4, bitsOf w 7 6].drop n
  let loops := ord.map (fun k => (k, signExt 32 (fieldAt bs (8 + 12 * k) 4), fieldAt bs (12 + 12 * k) 4, signExt 32 (fieldAt bs (16 + 12 * k) 4)))
  let total := loops.foldl (fun t x => t * x.2.2.1) 1
  if n = 0 || 4 < n || bitsOf w 31 12 ≠ 0 || bitsOf w 3 3 ≠ 0 || fieldAt bs 4 4 ≠ 0 || fieldAt bs 56 8 ≠ 0 ||
      spare.any (fun x => x != 0) || !(List.range n).all (fun k => ord.contains k) || total = 0 || 2 ^ 40 < total then none
  else some loops

/-- Iterations of a loop nest. -/
def loopTotal (ls : List (Nat × Int × Nat × Int)) : Nat := ls.foldl (fun t x => t * x.2.2.1) 1

/-- Entries of a placement map, if it is valid (R76). -/
def placement (bs : List Byte) (n : Nat) : Option (List (Nat × Nat)) :=
  let es := (List.range n).map (fun i => fieldAt bs (8 + 8 * i) 8)
  let bad := es.any (fun e => bitsOf e 63 48 ≠ 0 || bitsOf e 7 2 ≠ 0)
  let rising := (List.range (n - 1)).all (fun i => decide (bitsOf (es.getD i 0) 47 8 < bitsOf (es.getD (i + 1) 0) 47 8))
  if bad || !rising then none else some (es.map (fun e => (bitsOf e 47 8, e % 4)))

/-- The index values of an iteration by loop number (R74). -/
def loopIndices : List (Nat × Int × Nat × Int) → Nat → List (Nat × Int)
  | [], _ => []
  | (k, start, count, step) :: inner, s =>
    let below := loopTotal inner
    (k, start + step * ((s / below % count : Nat) : Int)) :: loopIndices inner (s % below)

/-- index[k] of iteration n of a launch. -/
def Launch.index (l : Launch) (n k : Nat) : Int := (((loopIndices l.loops n).find? (fun e => e.1 == k)).map (fun e => e.2)).getD 0

/-! ### Reading by the scheduler (R452) -/

/-- Bytes that the scheduler of a partition reads; without them yet, the step ends there. -/
def State.withBytes (s : State) (p va n : Nat) (bad : Nat → Nat → BitVec 32 → State) (k : State → List Byte → State) : State :=
  match s.readVa (schedIssue p) p va n with
  | .wait s1 => s1
  | .fault c a w => bad c a w
  | .ok s1 bs poison => if poison then bad 0x4C va 0 else k s1 bs

def State.updLaunchQ (s : State) (q : Nat) (f : Queue → Queue) : State := { s with launchQ := adjust Queue.reset q f s.launchQ }

/-- A launch that the scheduler has read is the latest of its queue (R84). -/
def State.follow (s : State) (l : Launch) : State :=
  s.updLaunchQ l.queue (fun x => if x.latest = some l.id then x else { x with latest := some l.id, prevAt := 0 })

/-! ### Copybooks of recorded launches (R398, R400, R488, R489) -/

/-- The copybook of a launch: recorded or replayed. -/
def State.bookOf (s : State) (l : Nat) (replay : Bool) : Option Copybook :=
  s.copybooks.find? (fun c => decide (c.launch = some l) && c.replay == replay)

/-- Bytes 64..127 of a copybook's header as far as they are known (R400). -/
def Copybook.counts64 (c : Copybook) (done : Bool) : List Byte :=
  leBytes 4 ((if done then 1 else 0) + if c.ovf then 2 else 0) ++ leBytes 4 (c.ni * 256 + c.nw) ++
    leBytes 8 c.niter ++ leBytes 8 c.nflit ++ leBytes 8 c.nwacc ++ leBytes 8 c.maxiter ++ leBytes 8 c.maxflit ++ leBytes 8 c.maxwacc ++ leBytes 8 0

/-- The queue's next launch begins under its copybook: the packet as read, and the witness lines; what is still to come and what is reserved is
0 (R398, R400). -/
def State.beginBook (s : State) (l : Launch) : State :=
  match s.copybooks.find? (fun c => c.part == l.part && c.queue == l.queue && !c.replay && c.launch.isNone) with
  | none => s
  | some c =>
    (s.putBook c c.base (padTo 2048 (padTo 1152 (l.pkt.take 64 ++ c.counts64 false) ++ c.wlines.flatMap (fun w => leBytes 8 w.1)))).updCopybook c
      (fun k => { k with launch := some l.id })

/-- A replayed packet that the scheduler reads is the copybook's launch. -/
def State.beginReplay (s : State) (l : Launch) : State :=
  match s.copybooks.find? (fun c => c.part == l.part && c.queue == l.queue && c.replay && c.launch.isNone && decide (c.lwidx = some l.lwidx)) with
  | none => s
  | some c => s.updCopybook c (fun k => { k with launch := some l.id })

/-- The record of a dispatch (R398, R400, R489). -/
def State.recordDispatch (s : State) (l n : Nat) (cores : List Nat) : State :=
  match s.bookOf l false with
  | none => s
  | some c =>
    if c.niter < c.maxiter then
      (s.putBook c (c.base + 2048 + 208 * c.niter)
        (leBytes 8 n ++ (List.range 192).map (fun k => BitVec.ofNat 8 (cores.getD k 255)) ++ leBytes 8 s.cc)).updCopybook c
        (fun k => { k with niter := k.niter + 1 })
    else s.overflowBook c

/-- The bytes of input regions, with those that have not come asked for; a region that cannot be read stands for no bytes (DESIGN CHOICE,
assumption 65). -/
def State.regionBytes (s : State) (i : Issue) (p : Nat) : List (Nat × Nat) → State × Option (List (List Byte))
  | [] => (s, some [])
  | (va, n) :: rest =>
    let r : State × Option (List Byte) := match s.readVa i p va n with
      | .wait s1 => (s1, none)
      | .fault _ _ _ => (s, some [])
      | .ok s1 bs _ => (s1, some bs)
    let more := r.1.regionBytes i p rest
    (more.1, match r.2, more.2 with | some x, some xs => some (x :: xs) | _, _ => none)

/-- The digests of a copybook's input regions are taken (R398, R399, R488): before the first dispatch, once the regions have been read. -/
def State.takeDigests (s : State) (c : Copybook) : State :=
  let i := devIssue c.part 806
  match s.regionBytes i c.part c.regions with
  | (s1, none) => s1
  | (s1, some bs) => (s1.clearInbox i).updCopybook c (fun k => { k with digests := some (bs.map (fun b => leBytes 64 (shake256 b).toNat)) })

/-- Copybooks of a partition's launches that may dispatch for the first time and whose digests are still to be taken. -/
def State.undigested (s : State) (p : Nat) : List Copybook :=
  s.copybooks.filter (fun c => c.part == p && c.digests.isNone && c.launch.any (fun i => (s.launchOf i).any (fun l => decide (l.state = .eligible))))

def State.recordDigests (s : State) (l : Nat) : State :=
  match s.bookOf l false with
  | none => s
  | some c => s.putBook c (c.base + 128) ((c.digests.getD []).flatMap (fun d => d))

/-! ### The end of a packet's reading -/

/-- The packet of a launch has been read: what was kept for the reading is used up, and a copybook that waits for the launch takes it. -/
def State.readEnds (s : State) (l : Launch) : State :=
  (((s.clearInbox (schedIssue l.part)).clearInbox (ringIssue l.part 0 l.queue)).beginBook l).beginReplay l

/-- A launch that ends before its first dispatch (R452, R459). -/
def State.endUnbegun (s : State) (l : Launch) (cause addr : Nat) (status : BitVec 32) : State :=
  let s1 := if listed l.id (s.launches.map (fun x => (x.id, ()))) then s else ({ s.fresh with launches := s.launches ++ [l] } : State).readEnds l
  let s2 := (s1.updLaunch l.id (fun x => { x with state := .draining, total := 0, next := 0 })).follow l
  (s2.passSlotOf .launch l.queue).failLaunch (schedRec l cause addr status)

/-! ### Dependences (R72, R78, R84, R418) -/

/-- The predecessor's iterations are all dispatched and triggered; a predecessor that failed counts once its record is
written, which removes it. -/
def State.prevTriggered (s : State) (l : Launch) : Bool :=
  match l.prev.bind s.launchOf with
  | none => true
  | some x => x.cause.isNone && x.next == x.total && x.trigd + x.trigEnds == x.total

/-- The dependence on the launch before it in the queue is met. -/
def State.depMet (s : State) (l : Launch) : Bool :=
  if l.dep = 1 then s.prevTriggered l && decide (l.notBefore ≤ s.cc) else if l.dep = 2 then (l.prev.bind s.launchOf).isNone else true

/-- An iteration of a launch has become triggered, or the launch has failed and its record stands: the launch behind it in its queue
does not leave WAITING for it before the next controller cycle (R84, R418). -/
def State.noteTriggered (s : State) (l : Nat) : State :=
  { s with launches := s.launches.map (fun x => if x.prev = some l then { x with notBefore := s.cc + 1 } else x),
           launchQ := s.launchQ.map (fun e => if e.2.latest = some l then (e.1, { e.2 with prevAt := s.cc + 1 }) else e) }

/-- A launch with every dependence met may dispatch (R78). -/
def State.eligibleNow (s : State) (i : Nat) : State :=
  match s.launchOf i with
  | none => s
  | some l =>
    if l.state = .waiting && l.cause.isNone && s.depMet l && l.dep0 && l.dep1 then
      s.updLaunch i (fun x => { x with state := .eligible, lastDispatch := s.cc })
    else s

/-- A dependency entry is met by what its object holds. -/
def entryMet (e : Nat) (bs : List Byte) : Bool :=
  let top := bitsOf (fieldAt bs 0 4) 31 31
  if depRecord e then top == 1 else top != bitsOf e 2 2

/-- A registered line of this module meets its entry as it stands. -/
def State.entrySeen (s : State) (l : Launch) (i : Nat) (g : Option Target) : Bool :=
  match g with
  | some g => s.isLocal g && entryMet (l.entry i) (s.readAt l.part g 4)
  | none => false

/-- Registered entries of a waiting launch are looked at after every write; once met, one stays met (R72). -/
def State.watchLaunch (s : State) (l : Launch) : Launch :=
  if l.state = .waiting && l.cause.isNone then
    { l with dep0 := l.dep0 || s.entrySeen l 0 l.dep0At, dep1 := l.dep1 || s.entrySeen l 1 l.dep1At }
  else l
def State.watchDeps (s : State) : State := { s with launches := s.launches.map s.watchLaunch }

/-- One entry of a waiting launch looked at and its line registered; once met it stays met (R72). -/
def State.lookEntry (s : State) (i which : Nat) : State :=
  match s.launchOf i with
  | none => s
  | some l =>
    let e := l.entry which
    let met := if which = 0 then l.dep0 else l.dep1
    if met || l.cause.isSome || l.state ≠ .waiting then s
    else s.withBytes l.part (depVa e) 4 (fun c a w => s.endUnbegun l c a w) (fun s1 bs =>
      let at_ := (s1.translate l.part (258 + l.part) (depVa e) .read).toOption
      (s1.clearInbox (schedIssue l.part)).updLaunch i (fun x =>
        if which = 0 then { x with dep0 := entryMet e bs, dep0At := at_ } else { x with dep1 := entryMet e bs, dep1At := at_ }))

/-- The waiting launch at the head of a queue. -/
def State.headLaunch (s : State) (q : Nat) : Option Launch :=
  s.launches.find? (fun l => l.queue == q && l.cause.isNone && decide (l.state ≠ .draining ∧ l.state ≠ .done))

/-- DEPENDENCY_WRITE: the entries and the dependence of a queue's head launch are looked at again. -/
def State.dependencyWrite (s : State) (q : Nat) : State :=
  match s.headLaunch q with
  | none => s
  | some l => ((s.lookEntry l.id 0).lookEntry l.id 1).eligibleNow l.id

/-! ### LAUNCH_POSTED (R69, R78, R459) -/

/-- The launch that a packet describes, before its records are read. -/
def State.newLaunch (s : State) (q : Nat) (k : Queue) (pkt : List Byte) : Launch :=
  let w := fieldAt pkt 4 4
  let doneVa := fieldAt pkt 56 8
  { id := s.nextId, part := k.part, queue := q, lwidx := k.ridx, pkt := pkt, nchain := bitsOf w 23 16 + 1, shape := bitsOf w 15 13,
    tpc := bitsOf w 12 11, dep := bitsOf w 10 9, code := BitVec.ofNat 64 (fieldAt pkt 8 8), args := BitVec.ofNat 64 (fieldAt pkt 16 8),
    doneAt := if doneVa % 64 ≠ 0 then none
              else match s.translate k.part (258 + k.part) doneVa .write with | .ok g => some g | .error _ => none,
    doneVa := doneVa, loops := [], total := 1, place := [], dep0 := !depOn (fieldAt pkt 40 8), dep1 := !depOn (fieldAt pkt 48 8),
    dep0At := none, dep1At := none, prev := k.latest, notBefore := k.prevAt, state := .waiting, next := 0, ended := 0, trigd := 0, trigEnds := 0, flags := 0, tstart := 0, lastDispatch := 0,
    cause := none }

/-- Reads of the scheduler that are asked for ahead of their use. -/
def State.askAhead (s : State) (i : Issue) (p va n : Nat) : State :=
  match s.readVa i p va n with
  | .wait s1 => s1
  | _ => s

/-- Bytes of the line of a placement map's header, from the header on. -/
def placeHead (va : Nat) : Nat := 128 - va % 128

/-- The records of a launch are read in parallel, and the first line of CODE with them (R389). -/
def State.askRecords (s : State) (l : Launch) : State :=
  let i := schedIssue l.part
  let s1 := s.askAhead i l.part (l.code.toNat / 128 * 128) 128
  let s2 := if l.loopsVa = 0 then s1 else s1.askAhead i l.part l.loopsVa 64
  if l.placeVa = 0 then s2 else s2.askAhead i l.part l.placeVa (placeHead l.placeVa)

/-- The loop nest is read, or a single iteration stands for it. -/
def State.readLoops (s : State) (l : Launch) (k : State → Launch → State) : State :=
  if l.loopsVa = 0 then k s l
  else s.withBytes l.part l.loopsVa 64 (fun c a w => s.endUnbegun l c a w) (fun s1 bs =>
    match loopNest bs with
    | none => s1.endUnbegun l 0x58 l.loopsVa (detailStatus 3)
    | some ls => k s1 { l with loops := ls, total := loopTotal ls })

/-- The placement map is read, if there is one: the line of its header, and what lies beyond it. -/
def State.readPlace (s : State) (l : Launch) (k : State → Launch → State) : State :=
  if l.placeVa = 0 then k s l
  else
    let h := placeHead l.placeVa
    s.withBytes l.part l.placeVa h (fun c a w => s.endUnbegun l c a w) (fun s1 hd =>
      let n := bitsOf (fieldAt hd 0 8) 6 0
      if n = 0 || 64 < n || bitsOf (fieldAt hd 0 8) 63 7 ≠ 0 then s1.endUnbegun l 0x58 l.placeVa (detailStatus 4)
      else s1.withBytes l.part (l.placeVa + h) (8 + 8 * n - h) (fun c a w => s1.endUnbegun l c a w) (fun s2 bs =>
        match placement (hd ++ bs) n with
        | none => s2.endUnbegun l 0x58 l.placeVa (detailStatus 4)
        | some es => k s2 { l with place := es }))

/-- The translation of DONE is needed for the completion record (R452). -/
def State.checkDone (s : State) (l : Launch) (k : State → Launch → State) : State :=
  match s.translate l.part (258 + l.part) l.doneVa .write with
    | .ok _ => k s l
    | .error e => s.endUnbegun l e.cause l.doneVa e.status

/-- The first line of CODE is read on the threads' behalf and delivered with the dispatch; a read that fails reports nothing, and each thread's
own fetch finds out (R389). The model's fetches read the line as it stands when the bundle issues (DESIGN CHOICE, assumption 145). -/
def State.readCode (s : State) (l : Launch) (k : State → Launch → State) : State :=
  match s.readVa (schedIssue l.part) l.part (l.code.toNat / 128 * 128) 128 with
  | .wait s1 => s1
  | _ => k s l

/-- LAUNCH_POSTED: the scheduler reads the packet at RIDX of a queue whose earlier launches have dispatched all they will. A packet that it
cannot read is a launch that ends (R452); where its completion record would stand nobody knows. -/
def State.launchPosted (s : State) (q : Nat) : State :=
  let k := s.launchQueue q
  let busy := s.launches.any (fun l => l.queue == q && l.cause.isNone && l.state != .draining && l.state != .done)
  if !k.en || busy then s
  else match s.ringPacket .launch q with
    | .none => s
    | .wait s1 => s1
    | .bad c a w => s.endUnbegun { s.newLaunch q k [] with doneAt := none } c a w
    | .packet s pkt =>
      let l := s.newLaunch q k pkt
      match s.launchInvalid l with
      | some d => s.endUnbegun l 0x58 0 (detailStatus d)
      | none =>
        (s.askRecords l).readLoops l (fun s l => s.readPlace l (fun s l => s.readCode l (fun s l => s.checkDone l (fun s l =>
          (((({ s.fresh with launches := s.launches ++ [l] } : State).follow l).readEnds l).dependencyWrite q)))))

/-! ### Placement (R77, R110, R111) -/

/-- Distance between dies, and the dies in the order of their distance from a preferred one. -/
def dieRanking (d : Nat) : List Nat :=
  ([0, 1, 2] : List Nat).flatMap (fun k => (List.range 4).filter (fun e => bridges d e == k))

/-- The die an iteration prefers (R76). -/
def Launch.prefers (l : Launch) (n : Nat) : Nat := ((l.place.filter (fun e => e.1 ≤ n)).getLast?.map (fun e => e.2)).getD 0

/-- Urgent work narrows the partition (R86): a launch at PRIO 7 is eligible or running. -/
def State.urgent (s : State) (p : Nat) : Bool :=
  s.launches.any (fun l => l.part == p && l.cause.isNone && (s.launchQueue l.queue).prio.toNat == 7 &&
    decide (l.state = .eligible ∨ l.state = .running))

/-- A core is free for an iteration of a launch (R14, R66, R77, R86, R388, R482). -/
def State.coreFree (s : State) (l : Launch) (n : Nat) : Bool :=
  s.coreEnabled l.part n && (s.core n).gang.isNone && !(s.island (islandOfCore n)).stopped && !(s.island (islandOfCore n)).updating &&
  (s.core n).saving.isNone && s.commands.all (fun c => !(c.op == 8 && c.arg == n)) &&
  !(s.urgent l.part && (s.launchQueue l.queue).prio.toNat != 7 &&
    (s.part l.part).reserve.getLsbD (6 * (n / 24) + n % 24 / 4))

/-- The cores of a rectangle by chain position, if it lies in the placement grid. -/
def rectCores (lead ha wa : Nat) : Option (List Nat) :=
  let r := placeRow lead
  let c := placeCol lead
  if r + ha ≤ 12 && c + wa ≤ 16 then some ((List.range (ha * wa)).map (fun k => coreAt (r + k / wa) (c + k % wa))) else none

/-- The rectangle with its top left at a core can take a chain beside the cores already taken, at a clock if one is fixed. -/
def State.candidate (s : State) (l : Launch) (taken : List Nat) (clock : Option Nat) (lead : Nat) : Option (List Nat) :=
  let d := shapeDims l.shape
  match rectCores lead d.1 d.2 with
  | none => none
  | some cs =>
    let mhz := (s.island (islandOfCore lead)).mhz
    if cs.all (fun n => s.coreFree l n && !taken.contains n && (s.island (islandOfCore n)).mhz == mhz) && (clock.getD mhz == mhz) then some cs
    else none

/-- The cores of the chains still to place, in order (R77). -/
def State.placeChains (s : State) (l : Launch) (dies : List Nat) : Nat → List Nat → Option Nat → Option (List Nat)
  | 0, taken, _ => some taken
  | k + 1, taken, clock =>
    match dies.findSome? (fun d => ((List.range 48).map (fun i => 48 * d + i)).findSome? (fun n =>
        (s.candidate l taken clock n).map (fun cs => (n, cs)))) with
    | none => none
    | some (n, cs) => s.placeChains l dies k (taken ++ cs) (some ((s.island (islandOfCore n)).mhz))

/-- The islands of a set of cores run at one clock (R25). -/
def State.oneClock (s : State) (ns : List Nat) : Bool :=
  ns.all (fun n => (s.island (islandOfCore n)).mhz == (s.island (islandOfCore (ns.headD 0))).mhz)

/-- The cores of the next iteration of a launch, if it can be placed now. -/
def State.placeNext (s : State) (l : Launch) : Option (List Nat) :=
  match s.bookOf l.id true with
  | some c =>
    let ns := c.cores.getD l.next []
    if ns.all (s.coreFree l) && s.oneClock ns then some ns else none
  | none => s.placeChains l (dieRanking (l.prefers l.next)) l.nchain [] none

/-! ### The choice (R79 to R81) -/

/-- Controller cycles in 64 µs at 1.171875 GHz. -/
def agingCycles : Nat := 75000

/-- The effective level of the head launch of a queue. -/
def State.level (s : State) (l : Launch) : Nat :=
  let p := (s.launchQueue l.queue).prio.toNat
  if p = 7 then 7 else min 6 (p + (s.cc - l.lastDispatch) / agingCycles)

/-- The launches of a partition that can dispatch now, in ascending queue number, with their cores. -/
def State.dispatchable (s : State) (p : Nat) : List (Launch × List Nat) :=
  (List.range 64).filterMap (fun q =>
    match s.headLaunch q with
    | none => none
    | some l =>
      if l.part = p && decide (l.state = .eligible ∨ l.state = .running) && l.next < l.total &&
          (l.next != 0 || s.copybooks.all (fun c => c.launch != some l.id || c.digests.isSome)) then
        (s.placeNext l).map (fun cs => (l, cs))
      else none)

/-- The next queue number above a pointer, wrapping, among those that can dispatch. -/
def nextAbove (at_ : Nat) (qs : List Nat) : Option Nat :=
  match qs.find? (fun q => at_ < q) with
  | some q => some q
  | none => qs.head?

/-- The queue that is served at a level, and the pointer after it: the one at the pointer, else the next (R81). -/
def servedQueue (pointer : Nat × Nat) (qs : List Nat) : Option (Nat × (Nat × Nat)) :=
  if qs.contains pointer.1 then some (pointer.1, (pointer.1, pointer.2 + 1)) else (nextAbove pointer.1 qs).map (fun q => (q, (q, 1)))

/-- A pointer whose queue cannot dispatch, or has made WEIGHT dispatches, moves at once to the next queue of its level that can (R81). -/
def movePointer (weight : Nat) (pointer : Nat × Nat) (qs : List Nat) : Nat × Nat :=
  if qs.contains pointer.1 && decide (pointer.2 < weight) then pointer
  else match nextAbove pointer.1 qs with
    | some q => (q, 0)
    | none => pointer

/-- The pointers of a partition's levels, on the launches that can dispatch. -/
def State.movePointers (s : State) (p : Nat) (can : List (Launch × List Nat)) : State :=
  s.updPart p (fun k => { k with pointers := (List.range 8).foldl (fun m v =>
    let old := lookup (0, 0) v m
    let new := movePointer (s.launchQueue old.1).weight.toNat old ((can.filter (fun e => s.level e.1 == v)).map (fun e => e.1.queue))
    if new = old then m else insertAt v new m) k.pointers })

/-- The pointers of every partition that has a launch to dispatch. -/
def State.watchPointers (s : State) : State :=
  ((List.range 8).filter (fun p => s.launches.any (fun l => l.part == p && decide (l.state = .eligible ∨ l.state = .running)))).foldl
    (fun s p => s.movePointers p (s.dispatchable p)) s

/-! ### DISPATCH (R65, R66, R75, R83, R236, R406) -/

/-- A thread at dispatch or task start: x, p, FLAGS and the trap registers as the rules preload them, every register full: what an earlier
owner waited for has been discarded (R417). -/
def Thread.start (th : Thread) (code : Word) (pre : List (Nat × Word)) (o : Owner) : Thread :=
  { th with x := pre.foldl (fun v e => v.setIfInBounds e.1 e.2) (Vector.replicate 32 0), xfull := BitVec.allOnes 32,
            vfull := BitVec.allOnes 32, p := 1,
            pc := code, flags := 0, tvec := 0, tepc := 0, tcause := 0, taddr := 0, tstat := 0, intrap := false, loop := none,
            status := .run, owner := o, blocked := false, yielded := [], sleeping := false, waitUntil := 0, stopped := false, wellWait := none,
            fencePair := none, flagSet := 0,
            traps := [], trig := none }

/-- A core takes part in a gang at a rank: its threads start, its special registers and its cells' flag bytes are cleared. -/
def State.startCore (s : State) (l : Launch) (g n rank : Nat) (grid : Grid) : State :=
  let pre := fun (t : Nat) => [(23, l.args), (24, BitVec.ofInt 64 (l.index l.next 0)), (25, BitVec.ofInt 64 (l.index l.next 1)),
    (26, BitVec.ofInt 64 (l.index l.next 2)), (27, BitVec.ofInt 64 (l.index l.next 3)), (28, BitVec.ofNat 64 rank), (29, BitVec.ofNat 64 t)]
  let s1 := s.updCore n (fun k =>
    { k with gang := some g, rank := rank, grid := grid, lastWid := none, waveFault := none, prog := 0, pivstat := 0, growth := 0,
             cells := k.cells.map (fun e => (e.1, { e.2 with flags := 0 })) })
  (List.range (l.tpc + 1)).foldl (fun s t =>
    s.updThread n t (fun th => { th.start l.code (pre t) (.gang g) with g := Vector.replicate 8 0 })) s1

/-- The next iteration of a launch begins on these cores. -/
def State.dispatchOn (s : State) (l : Launch) (cores : List Nat) : State :=
  let d := shapeDims l.shape
  let g : Gang := { id := s.nextId, launch := l.id, part := l.part, s := l.next, cores := cores, ha := d.1, wa := d.2, tpc := l.tpc,
                    trigUsed := false, trig := false, wells := [], parks := 0, place := .resident, ending := false }
  let s1 := if l.next = 0 then (s.passSlotOf .launch l.queue).recordDigests l.id else s
  let s2 := s1.recordDispatch l.id l.next cores
  let s3 := { s2.fresh with gangs := s2.gangs ++ [g] }
  let chain := fun (k : Nat) => (⟨(cores.drop (k / g.chainSize * g.chainSize)).take g.chainSize, d.1, d.2⟩ : Grid)
  let s4 := (List.range cores.length).foldl (fun s k => s.startCore l g.id (cores.getD k 0) k (chain k)) s3
  (s4.updLaunch l.id (fun x =>
    { x with next := x.next + 1, state := if x.next + 1 = x.total then .draining else .running, lastDispatch := s.cc,
             tstart := if x.next = 0 then s.cc else x.tstart })).updPart l.part (fun k => { k with lastDispatch := some s.cc })

/-- A replayed launch checks its input digests before its first dispatch (R401, R488). -/
def State.replayDiffers (s : State) (l : Launch) : Option Copybook :=
  match s.bookOf l.id true with
  | none => none
  | some c => if l.next = 0 && decide (c.digests ≠ some c.inputs) then some c else none

/-- The launch dispatches nothing, and the command reports cause 0x88; no other record does (R478, R488). -/
def State.withdraw (s : State) (l : Launch) (c : Copybook) : State :=
  let s1 := s.passSlotOf .launch l.queue
  ({ s1 with copybooks := s1.copybooks.filter (fun b => b != c), launches := s1.launches.filter (fun x => x.id != l.id) } : State).finishCommand
    c.command 0x88

/-! ### TRIGGER and the ends of threads, gangs and tasks (R57, R66, R82 to R84, R178, R183, R184, R263, R420) -/

/-- TRIGGER: a thread's TRIG takes effect once its writes are acknowledged; only the first of an iteration counts. -/
def State.trigger (s : State) (u t : Nat) : State :=
  match (s.thread u t).trig, (s.thread u t).owner with
  | some w, .gang g =>
    if !s.finished w || s.launchFailed (s.ownerLaunch (.gang g)) then s
    else
      let s1 := s.updThread u t (fun th => { th with trig := none })
      match s.gangOf g with
      | none => s1
      | some k =>
        if k.trig then s1
        else ((s1.updGang g (fun x => { x with trig := true })).updLaunch k.launch (fun x => { x with trigd := x.trigd + 1 })).noteTriggered k.launch
  | _, _ => s

/-- The flag bytes of a gang's threads and cells (R57). -/
def State.gangFlags (s : State) (g : Gang) : BitVec 8 :=
  g.cores.foldl (fun f n =>
    let th := (List.range (g.tpc + 1)).foldl (fun f t => f ||| (s.thread n t).flagByte) f
    (s.core n).cells.foldl (fun f e => f ||| e.2.flags) th) 0

/-! ### Unit instances found failed (R14, R219, R448, R482) -/

/-- The physical instance that serves a logical one, given which of the two have failed. -/
def survivor (logical : Nat) (dead0 dead1 : Bool) : Nat :=
  if logical = 0 then (if dead0 then 1 else 0) else (if dead1 then 0 else if dead0 then 1 else logical)

/-- Woenatis firmware at a sequencer on which nothing is resident: SLOTMAP names surviving instances, and a sequencer without one of
some class is retired. -/
def Seq.firmware (q : Seq) (unit : Nat) : Seq :=
  let dead := fun (cls k : Nat) => q.broken.getLsbD (2 * cls + k)
  let both := fun (cls : Nat) => dead cls 0 && dead cls 1
  let single := fun (cls : Nat) => dead cls 0 || dead cls 1
  let lacks := both 0 || single 1 || single 2 || single 3 || single 4 ||
    (if isQuill unit then both 7 else single 5 || single 6)
  let bit := fun (n : Nat) (b : Bool) => if b then 2 ^ n else 0
  let a := bit 0 (survivor 0 (dead 0 0) (dead 0 1) == 1) + bit 1 (survivor 1 (dead 0 0) (dead 0 1) == 1) + bit 4 (!dead 0 0) + bit 5 (!dead 0 1)
  let v := bit 2 (survivor 0 (dead 7 0) (dead 7 1) == 1) + bit 3 (survivor 1 (dead 7 0) (dead 7 1) == 1) + bit 6 (!dead 7 0) + bit 7 (!dead 7 1)
  if q.broken = 0 then q
  else if lacks then { q with retired := true }
  else { q with slotmap := BitVec.ofNat 8 (a + if isQuill unit then v else 0) }

/-- Nothing is resident on a sequencer. -/
def Seq.vacant (q : Seq) : Bool := (List.range 4).all (fun t => decide ((q.threads.getD t Thread.reset).owner = .none))

def State.firmware (s : State) (u : Nat) : State :=
  if (s.seq u).vacant && (s.seq u).broken != 0 then
    let s1 := s.setSeq u ((s.seq u).firmware u)
    if isCore u && s1.noCore u && !(s.seq u).retired then s1.spareEntries u else s1
  else s

/-- What another module has sent for the fetches of threads of a unit is dropped, and so is what it is still to send: no later owner
of the threads sees it (R7). -/
def State.dropFetches (s : State) (u : Nat) (ts : List Nat) : State :=
  { s with inbox := s.inbox.filter (fun m => !(m.unit == u && ts.contains m.thr)),
           reqs := s.reqs.map (fun r => if r.by_.unit = u && ts.contains r.by_.thr && r.op = .fetch then { r with dropped := true } else r) }

/-- The threads of a unit belong to nothing any more, and firmware may act on the sequencer. -/
def State.clearThreads (s : State) (u : Nat) (ts : List Nat) : State :=
  ((ts.foldl (fun s t => s.updThread u t (fun th =>
    { th with status := .idle, owner := .none, traps := [], loop := none, trig := none, stopped := false, sleeping := false, waitUntil := 0,
              yielded := [], blocked := false })) s).dropFetches u ts).firmware u

/-- Every thread of a gang has ended: its flags go to the launch, and its cores are free (R57, R66, R82). -/
def State.gangEnd (s : State) (g : Gang) : State :=
  let f := s.gangFlags g
  let s1 := g.cores.foldl (fun s n => (s.clearThreads n (List.range 4)).updCore n (fun k => { k with gang := none, saving := none })) s
  let s2 := (s1.updGang g.id (fun x => { x with ending := true, wells := [] })).updLaunch g.launch (fun x =>
    { x with ended := x.ended + 1, trigEnds := if g.trig then x.trigEnds else x.trigEnds + 1, flags := x.flags ||| f })
  if g.trig then s2 else s2.noteTriggered g.launch

/-- A gang whose threads have all ended ends. -/
def State.gangMayEnd (s : State) (i : Nat) : State :=
  match s.gangOf i with
  | none => s
  | some g =>
    if !g.ending && g.cores.all (fun n => (List.range (g.tpc + 1)).all (fun t => (s.thread n t).status == .ended)) then s.gangEnd g else s

/-- A task has ended: its status word is to report its ECODE and flags (R174, R182). -/
def State.taskEnds (s : State) (i ecode : Nat) (flags : BitVec 8) : State :=
  s.updTask i (fun x => { x with done := some (ecode, flags), parked := false })

/-- The issuer of a task's status word: the quill core, on the task's behalf. -/
def Task.reporter (k : Task) : Issue := ⟨192 + k.quill, 24 + k.id, .task k.id, 0, 15, 0⟩

/-- The status word of a task that has ended is on its way, and once it is acknowledged the task is over. -/
def State.reportTask (s : State) (k : Task) : State :=
  match k.done, k.stat with
  | none, _ => s
  | some (e, f), some g =>
    if k.posted then (if s.issuing k.reporter then s else { s with tasks := s.tasks.filter (fun x => x.id != k.id) })
    else (s.updTask k.id (fun x => { x with posted := true })).submit (lineReq s k.reporter k.part k.statVa 8 g
      (.engine none [(0, leBytes 8 (statusWord k.idx.toNat e f.toNat))] false [] 0 false))
  | some _, none => { s with tasks := s.tasks.filter (fun x => x.id != k.id) }
def State.reportTasks (s : State) : State := s.tasks.foldl State.reportTask s

/-- A task whose threads have all ended ends: its flags go to its launch or its status word, and its threads are free (R183,
R184). -/
def State.taskMayEnd (s : State) (i : Nat) : State :=
  match s.taskOf i with
  | none => s
  | some k =>
    if k.done.isNone && k.threads.all (fun t => (s.thread (192 + k.quill) t).status == .ended) then
      let f := s.taskFlags k
      let s1 := (s.clearThreads (192 + k.quill) k.threads).taskEnds i 0 f
      match k.launch with
      | some l => s1.updLaunch l (fun x => { x with flags := x.flags ||| f })
      | none => s1
    else s

/-- The implicit drops of a thread at the registered wells of its gang, on their way to the bank units one after another in ascending
address (R178, R179). -/
def State.implicitDrops (s : State) (u t : Nat) (g : Gang) : State :=
  let i : Issue := ⟨u, t, .gang g.id, (s.thread u t).pc, 15, 0⟩
  let me := 4 * (s.core u).rank + t
  ((sortByKey (fun w => w) g.wells).foldl (fun (a : State × List Nat) w =>
    (a.1.submit { lineReq a.1 i g.part w 128 ⟨a.1.home + w, 0, 0⟩ (.well (.drop true) me) with after := a.2 }, [a.1.nextId])) (s, [])).1

/-- The thread has ended (R66, R178, R183). -/
def State.threadEnded (s : State) (u t : Nat) : State :=
  let s1 := s.updThread u t (fun x => { x with status := .ended })
  match (s.thread u t).owner with
  | .none => s1
  | .gang g => if (s.gangOf g).isSome then s1.gangMayEnd g else s1
  | .task k => s1.taskMayEnd k

/-- THREAD_END: a thread that has executed EXIT performs its implicit drops once its writes are acknowledged, and ends once they have
applied (R178, R263). -/
def State.threadEnd (s : State) (u t : Nat) : State :=
  let th := s.thread u t
  let busy := !(s.writesOut u t).isEmpty || s.reqs.any (fun r => r.by_.unit == u && r.by_.thr == t && r.op.isWell) || th.trig.isSome
  if busy || s.launchFailed (s.ownerLaunch th.owner) then s
  else match th.status, (s.ownerGang th.owner).bind s.gangOf with
    | .exiting, some k =>
      if k.wells.isEmpty || isQuill u then s.threadEnded u t
      else (s.implicitDrops u t k).updThread u t (fun x => { x with status := .dropping })
    | .exiting, none => s.threadEnded u t
    | .dropping, _ => s.threadEnded u t
    | _, _ => s

/-! ### DISPATCH (R79, R81, R85) -/

/-- What falls in the controller cycle of a dispatch decision comes before it: triggers and ends are recorded, then dependency entries
are looked at again (R85). -/
def State.settleCycle (s : State) (p : Nat) : State :=
  let us := (s.seqs.filter (fun e => s.partOfUnit e.1 == some p)).map (fun e => e.1)
  let s1 := us.foldl (fun s u => (List.range 4).foldl (fun s t => s.trigger u t) s) s
  let s2 := us.foldl (fun s u => (List.range 4).foldl (fun s t => s.threadEnd u t) s) s1
  (List.range 64).foldl (fun s q => if (s.headLaunch q).any (fun l => l.part == p) then s.dependencyWrite q else s) s2.watchDeps

/-- The decision: the highest level that can dispatch, its queue by weighted round-robin, and the launch's next iteration. -/
def State.dispatchChoice (s : State) (p : Nat) : Option State :=
  let can := s.dispatchable p
  let s1 := s.movePointers p can
  let top := (can.map (fun e => s1.level e.1)).foldl max 0
  let at_ := can.filter (fun e => s1.level e.1 == top)
  match servedQueue (lookup (0, 0) top (s1.part p).pointers) (at_.map (fun e => e.1.queue)) with
  | none => none
  | some (q, ptr) =>
    match at_.find? (fun e => e.1.queue == q) with
    | none => none
    | some (l, cores) =>
      match s1.replayDiffers l with
      | some c => some (s1.withdraw l c)
      | none => some ((s1.updPart p (fun k => { k with pointers := insertAt top ptr k.pointers })).dispatchOn l cores)

/-- DISPATCH: the partition's scheduler chooses a queue and dispatches the next iteration of its head launch, at most one gang
every 8 controller cycles. The digests that a copybook needs before the first one are taken first. -/
def State.dispatch (s0 : State) (p : Nat) : State :=
  let s := (s0.undigested p).foldl State.takeDigests s0
  let s1 := match (s.part p).lastDispatch with | some c => s.ccTo (c + 8) | none => s
  ((s1.settleCycle p).dispatchChoice p).getD s

/-! ### COMPLETION_RECORD (R78, R94, R398, R417) -/

/-- Something of the launch is still under way: gangs, copies, tasks, appends, or packets posted and not read. -/
def State.launchBusy (s : State) (i : Nat) : Bool :=
  s.gangs.any (fun g => g.launch == i && !g.ending) || s.copies.any (fun c => decide (c.launch = some i)) ||
  s.tasks.any (fun t => decide (t.launch = some i)) || s.appends.any (fun a => decide (a.launch = some i)) ||
  s.copyQ.any (fun q => q.2.origins.any (fun o => decide (o.2.launch = some i))) ||
  s.taskQ.any (fun q => q.2.origins.any (fun o => decide (o.2.launch = some i)))

/-- The completion record, its status word last: TEND is the time at which the record leaves (DESIGN CHOICE, assumption 146). -/
def State.writeRecord (s : State) (l : Launch) : State :=
  match l.doneAt with
  | none => s
  | some g =>
    let c := l.cause.getD (0, 0)
    let body := leBytes 4 l.lwidx.toNat ++ leBytes 8 l.ended ++ leBytes 8 l.tstart ++ leBytes 8 s.cc ++ leBytes 8 l.trigd ++ leBytes 8 c.2 ++
      leBytes 16 0
    let word := 2 ^ 31 + c.1 % 256 * 2 ^ 16 + l.queue % 64 * 2 ^ 8 + l.flags.toNat
    let i := recordIssue l.part l.id
    let put := fun (s : State) (o : Nat) (bs : List Byte) =>
      lineReq s i l.part (l.doneVa + o) bs.length { g with pa := g.pa + o } (.engine none [(0, bs)] false [] 0 false)
    let s1 := s.submit (put s 4 body)
    s1.submit { put s1 0 (leBytes 4 word) with release := true }

/-- A recorded or replayed launch is complete (R398, R401). -/
def State.closeBooks (s : State) (l : Launch) : State :=
  let s1 := match s.bookOf l.id false with
    | some c =>
      let s1 := s.postLast (bookIssue c.part) c.part (c.base + 64) (c.counts64 true)
      { s1 with copybooks := s1.copybooks.filter (fun b => b != c), recordings := s1.recordings ++ [Recording.mk c.part c.base c.regions (c.flits.map Prod.snd)] }
    | none => s
  match s1.bookOf l.id true with
  | some c =>
    let s2 := { s1 with copybooks := s1.copybooks.filter (fun b => b != c) }
    if c.diverged then s2 else s2.finishCommand c.command ((l.cause.getD (0, 0)).1)
  | none => s1

/-- The completion record has been written: the launch is over (R78, R418). -/
def State.launchDone (s : State) (l : Launch) : State :=
  let s0 := s.closeBooks l
  let s1 := if l.cause.isSome then s0.noteTriggered l.id else s0
  { s1 with launches := s1.launches.filter (fun x => x.id != l.id), gangs := s1.gangs.filter (fun g => g.launch != l.id) }

/-- COMPLETION_RECORD: a launch that has dispatched all it will and whose work is over writes its record; after a fault, once its END
entries are written (R413, R417). Once the record is acknowledged, the launch is done. -/
def State.completionRecord (s : State) (i : Nat) : State :=
  match s.launchOf i with
  | none => s
  | some l =>
    let ready := (l.cause.isSome || decide (l.state = .draining)) && !s.launchBusy i && s.faults.all (fun f => decide (f.launch ≠ some i)) &&
      (l.cause.isNone || !s.issuing (faultIssue l.part))
    if l.state = .done then (if s.issuing (recordIssue l.part i) then s else s.launchDone l)
    else if ready then (s.writeRecord l).updLaunch i (fun x => { x with state := .done })
    else s

/-! ### As device steps -/

/-- LAUNCH_POSTED. -/
def execLaunchPosted (q : Fin 64) (s : State) : Result := .next ((s.launchPosted q).unblock)
/-- DEPENDENCY_WRITE. -/
def execDependencyWrite (q : Fin 64) (s : State) : Result := .next ((s.dependencyWrite q).unblock)
/-- DISPATCH. -/
def execDispatch (p : Fin 8) (s : State) : Result := .next ((s.dispatch p).unblock)
/-- TRIGGER. -/
def execTrigger (u : Fin 224) (t : Fin 4) (s : State) : Result := .next ((s.trigger u t).unblock)
/-- THREAD_END. -/
def execThreadEnd (u : Fin 224) (t : Fin 4) (s : State) : Result := .next ((s.threadEnd u t).unblock)
/-- COMPLETION_RECORD. -/
def execCompletionRecord (l : Nat) (s : State) : Result := .next ((s.completionRecord l).unblock)

end Sys2Proof.Machine
end

