-- ==== Sys2Proof/Machine/Strokes.lean ====
section
/-! DEFINITION. Library strokes: tile factorizations and the triangular solve (R122, R336 to R342, R442 to R444). -/

namespace Sys2Proof.Machine

/-! ### Tiles (R336) -/

/-- A tile by rows, or its transpose by columns: each element an FP32 code with the flags that its results have raised. -/
abbrev Tile := List (List Rounded)

def Tile.elem (m : Tile) (i k : Nat) : Rounded := (m.getD i []).getD k (0, 0)
def Tile.transpose (m : Tile) : Tile := (List.range 64).map (fun k => (List.range 64).map (fun i => m.elem i k))

/-- The tile in an even fragment pair. -/
def CoreArr.tile (k : CoreArr) (n : Nat) : Tile :=
  (List.range 64).map (fun r => (List.range 64).map (fun c =>
    (laneOf ((k.cell (16 * (r / 4) + c / 4)).frag (n + r % 4 / 2)) 32 (4 * (r % 2) + c % 4), (0 : BitVec 8))))

/-- The eight elements of one fragment of a cell. -/
def Tile.fragment (m : Tile) (u v h : Nat) : List Rounded :=
  (List.range 8).map (fun l => m.elem (4 * u + 2 * h + l / 4) (4 * v + l % 4))

/-- The cells with a tile stored, its flags in their flag bytes, and h0 and h1 zero. -/
def CoreArr.storeTile (k : CoreArr) (n : Nat) (m : Tile) : CoreArr :=
  (List.range 256).foldl (fun k p =>
    let lo := m.fragment (p / 16) (p % 16) 0
    let hi := m.fragment (p / 16) (p % 16) 1
    let c := k.cell p
    k.setCell p ({ c with
      f := (c.f.setIfInBounds n (packLanes 32 (lo.map Prod.fst))).setIfInBounds (n + 1) (packLanes 32 (hi.map Prod.fst))
      h0 := 0
      h1 := 0 }.orFlags ((lo ++ hi).foldl (fun (f : BitVec 8) (x : Rounded) => f ||| x.2) 0))) k

/-! ### Arithmetic under RNE (R45, R46, R61, R336) -/

/-- A result in the place of an element. -/
def replace (old new : Rounded) : Rounded := (new.1, old.2 ||| new.2)
/-- Flags of results that a cell does not keep. -/
def noting (x : Rounded) (f : BitVec 8) : Rounded := (x.1, x.2 ||| f)

/-- c − a × b with one rounding; a NaN keeps its sign. -/
def fpNegFma (a b c : Nat) : Rounded :=
  match nanOf fp32 [a, b, c] with
  | some r => r
  | none => fpFma fp32 rndRNE 0 (fp32.flip a) b c

/-- Magnitude with |NaN| above every number (R338). -/
def pivotRank (c : Nat) : Nat := if fp32.isNaN c then fp32.signBit else fp32.mag c
/-- The largest magnitude, NaNs ignored. -/
def maxMagnitude (m : Nat) (cs : List Nat) : Nat := cs.foldl (fun m c => if fp32.isNaN c then m else max m (fp32.mag c)) m

/-! ### One step of each stroke -/

/-- The lowest index with the largest rank. -/
def pivotOf (m : Tile) (j : Nat) : Nat :=
  (List.range' j (64 - j)).foldl (fun p i => if pivotRank (m.elem p j).1 < pivotRank (m.elem i j).1 then i else p) j

/-- Rows j and p exchanged. -/
def Tile.swapRows (m : Tile) (j p : Nat) : Tile := (m.set j (m.getD p [])).set p (m.getD j [])

/-- A row below the pivot row: its multiplier, and the rest less its multiple of the pivot row. -/
def eliminate (j : Nat) (piv row : List Rounded) : List Rounded :=
  let x := row.getD j (0, 0)
  let l := replace x (fpDiv fp32 rndRNE 0 x.1 (piv.getD j (0, 0)).1)
  row.mapIdx (fun k y => if k < j then y else if k = j then l else replace y (fpNegFma l.1 (piv.getD k (0, 0)).1 y.1))

/-- LUP (R338): the tile, the pivot row, and whether the step has an event. -/
def lupStep (m : Tile) (j : Nat) : Tile × Nat × Bool :=
  let p := pivotOf m j
  if fp32.isZero (m.elem p j).1 then (m, p, true)
  else
    let m1 := m.swapRows j p
    (m1.mapIdx (fun i row => if i ≤ j then row else eliminate j (m1.getD j []) row), p, false)

/-- CHOL (R339): the tile, and whether the step fails. -/
def cholStep (m : Tile) (j : Nat) : Tile × Bool :=
  let d := m.elem j j
  if fp32.isNaN d.1 || fp32.neg d.1 || fp32.isZero d.1 then (m, true)
  else
    let l := replace d (fpSqrt fp32 rndRNE 0 d.1)
    let col := (List.range 64).map (fun i => if i < j then (0, 0) else if i = j then l else
      replace (m.elem i j) (fpDiv fp32 rndRNE 0 (m.elem i j).1 l.1))
    (m.mapIdx (fun i row => row.mapIdx (fun k x =>
      if i < j || k < j || i < k then x
      else if k = j then col.getD i (0, 0)
      else replace x (fpNegFma (col.getD i (0, 0)).1 (col.getD k (0, 0)).1 x.1))), false)

/-- A sum of products by FMA in ascending order, with its flags. -/
def sumProducts (start : Rounded) (ps : List (Nat × Nat)) : Rounded :=
  ps.foldl (fun w p => replace w (fpFma fp32 rndRNE 0 p.1 p.2 w.1)) start

/-- A column to the right of the reflection: v by row, tau, and the column. -/
def reflect (j : Nat) (v : List Nat) (tau : Nat) (col : List Rounded) : List Rounded :=
  let below := fun (xs : List Nat) => xs.drop (j + 1)
  let top := col.getD j (0, 0)
  let w := sumProducts (top.1, 0) ((below v).zip (below (col.map Prod.fst)))
  let t := replace w (fpMul fp32 rndRNE 0 tau w.1)
  col.mapIdx (fun i x =>
    if i < j then x
    else if i = j then noting (replace x (fpSub fp32 rndRNE 0 x.1 t.1)) t.2
    else replace x (fpNegFma (v.getD i 0) t.1 x.1))

/-- QRH (R340): the tile and tau of the column. -/
def qrhStep (m : Tile) (j : Nat) : Tile × Nat :=
  let cols := m.transpose
  let col := cols.getD j []
  let d := col.getD j (0, 0)
  let xs := (col.map Prod.fst).drop j
  let s := sumProducts (0, 0) (xs.zip xs)
  let norm := replace s (fpSqrt fp32 rndRNE 0 s.1)
  if fp32.isZero norm.1 then
    (Tile.transpose (cols.set j (col.set j (noting d norm.2))), 0)
  else
    let alpha := if fp32.neg d.1 then norm.1 else fp32.flip norm.1
    let dd := fpSub fp32 rndRNE 0 d.1 alpha
    let tau := fpDiv fp32 rndRNE 0 (fp32.flip dd.1) alpha
    let col' := col.mapIdx (fun i x =>
      if i < j then x
      else if i = j then (alpha, x.2 ||| norm.2 ||| dd.2 ||| tau.2)
      else replace x (fpDiv fp32 rndRNE 0 x.1 dd.1))
    let v := col'.map Prod.fst
    (Tile.transpose (cols.mapIdx (fun k c => if k < j then c else if k = j then col' else reflect j v tau.1 c)), tau.1)

/-- One column of TRSM with the row j to solve: the column of T, the diagonal unless it is taken as 1, and the rows to come. -/
def solveColumn (lower : Bool) (j : Nat) (t : List Nat) (diag : Option Nat) (col : List Rounded) : List Rounded :=
  let b := col.getD j (0, 0)
  let x := match diag with
    | none => b
    | some d => replace b (fpDiv fp32 rndRNE 0 b.1 d)
  col.mapIdx (fun i y =>
    if i = j then x
    else if (if lower then j < i else i < j) then replace y (fpNegFma (t.getD i 0) x.1 y.1)
    else y)

/-- TRSM (R341): the B tile, and whether a diagonal element of T is zero. -/
def trsmStep (md : BitVec 2) (t b : Tile) (s : Nat) : Tile × Bool :=
  let lower := decide (md.toNat < 2)
  let j := if lower then s else 63 - s
  let unit := !md.getLsbD 0
  let d := (t.elem j j).1
  let tcol := (List.range 64).map (fun i => (t.elem i j).1)
  (Tile.transpose ((Tile.transpose b).map (solveColumn lower j tcol (if unit then none else some d))), !unit && fp32.isZero d)

/-! ### The stroke of a core -/

/-- τ of column j in its diagonal cell (R340). -/
def CoreArr.putTau (k : CoreArr) (f j tau : Nat) : CoreArr :=
  let p := 17 * (j / 4)
  let c := k.cell p
  let old := c.frag f
  k.setCell p { c with f := c.f.setIfInBounds f (packLanes 32 ((List.range 4).map (fun i => if i = j % 4 then tau else laneOf old 32 i))) }

/-- Entry j of PV0..PV7 (R338). -/
def CoreArr.putPivot (k : CoreArr) (j p : Nat) : CoreArr :=
  let w := k.pv.getD (j / 8) 0
  let keep := w.toNat - w.toNat / 2 ^ (8 * (j % 8)) % 256 * 2 ^ (8 * (j % 8))
  { k with pv := k.pv.setIfInBounds (j / 8) (BitVec.ofNat 64 (keep + p * 2 ^ (8 * (j % 8)))) }

/-- The step that PROG names, and whether it has an event. -/
def CoreArr.strokeWork (k : CoreArr) (t : Stroke) : CoreArr × Stroke × Bool :=
  let j := t.prog
  match t.instr with
  | .lup o =>
    let n := 2 * o.tile.toNat
    let m := k.tile n
    let t1 := if j = 0 then { t with maxA := BitVec.ofNat 32 (maxMagnitude 0 (m.flatten.map Prod.fst)), maxU := 0 } else t
    let r := lupStep m j
    (((k.storeTile n r.1).putPivot j r.2.1),
      { t1 with maxU := BitVec.ofNat 32 (maxMagnitude t1.maxU.toNat (((r.1.getD j []).map Prod.fst).drop j)) }, r.2.2)
  | .chol o =>
    if t.failed then (k, t, false)
    else
      let n := 2 * o.tile.toNat
      let r := cholStep (k.tile n) j
      (k.storeTile n r.1, { t with failed := r.2 }, r.2)
  | .qrh o =>
    let n := 2 * o.tile.toNat
    let r := qrhStep (k.tile n) j
    ((k.storeTile n r.1).putTau o.tau.toNat j r.2, t, false)
  | .trsm o =>
    let n := 2 * o.tile.toNat
    let r := trsmStep o.md (k.tile (2 * o.tri.toNat)) (k.tile n) j
    (k.storeTile n r.1, t, r.2)
  | _ => (k, t, false)

/-- An event of step j: COUNT, and FIRST for the first of the stroke (R337). -/
def pivotEvent (p : BitVec 32) (first : Bool) (j : Nat) : BitVec 32 :=
  let v := p.toNat
  let old := if first then j else bitsOf v 15 8
  BitVec.ofNat 32 (bitsOf v 31 24 * 2 ^ 24 + (bitsOf v 23 16 + 1) % 256 * 2 ^ 16 + old * 2 ^ 8 + bitsOf v 7 0)

/-- The first event of a stroke raises 0x28 where FLAGS.PTE of its thread is 1 (R442). -/
def State.eventTrap (s : State) (n : Nat) (t : Stroke) (j : Nat) (p : BitVec 32) : State :=
  s.updThread n t.by_.thr (fun h => if h.flags.getLsbD 14 then { h with traps := h.traps ++ [⟨0x28, j, true, 15, 0, 0, p, none⟩] } else h)

/-- GROWTH at the end of LUP (R338). -/
def growthOf (t : Stroke) : BitVec 32 :=
  if t.maxA = 0 then 0 else BitVec.ofNat 32 (fpDiv fp32 rndRNE 0 t.maxU.toNat t.maxA.toNat).1

/-- The last instruction of the stroke has left the nib: PROG rises in cycle `due`, and the aggregate is that of no executing cell
(R122). -/
def CoreArr.endStroke (k : CoreArr) (n : Nat) (t : Stroke) (due : Nat) : CoreArr :=
  { k with
    stroke := none
    progDue := some due
    growth := (match t.instr with | .lup _ => growthOf t | _ => k.growth)
    doneAggs := insertAt t.wid (due - strokeTail + (k.chain n).span + 2, Aggregate.empty) k.doneAggs }

/-- The island cycle in which a step's work is done: that of PROG's rise; for the last step that in which its last instruction leaves the
nib, since later instructions follow it through the grid from then on (R122). -/
def Stroke.workAt (t : Stroke) (due : Nat) : Nat := if t.prog < 63 then due else due - strokeTail

/-- PROG rises with a step that has completed, and the next step begins at once unless the gang is being switched out (R88, R122). -/
def CoreArr.stepDone (k : CoreArr) (t : Stroke) (due : Nat) (go : Bool) : CoreArr :=
  let k1 := { k with stroke := some { t with due := none }, prog := BitVec.ofNat 64 t.prog, waveAt := max k.waveAt due }
  if go then k1.startStep due { t with due := none } else k1

/-- Behind a stroke: PROG reaches 64 in cycle `due`, and the wave has drained of the stroke once its last instruction has passed the
last cell of the chain (R122, R123). -/
def CoreArr.behindStroke (k : CoreArr) (n due : Nat) : CoreArr :=
  { k with prog := 64, progDue := if k.prog = 64 || (k.chain n).span = strokeTail then none else some (due - strokeTail + (k.chain n).span) }

/-- STROKE_STEP: a step of the library stroke of a core completes, or its last instruction leaves the nib; behind the stroke, PROG rises
for its last step, and its last instruction passes the last cell. -/
def State.strokeStep (s : State) (n : Nat) : State :=
  let k := s.core n
  match k.stroke.bind (fun t => t.due.map (fun d => (t, d))), k.progDue with
  | some (t, due), _ =>
    if !k.wave.isEmpty || k.waveFault.isSome then s
    else
      let s0 := s.passTo (s.timeOfCycle n (t.workAt due))
      if 64 ≤ t.prog then s0.setCore n (k.endStroke n t due)
      else
        let r := k.strokeWork t
        let t' := { r.2.1 with prog := t.prog + 1, event := t.event || r.2.2 }
        let k1 := { r.1 with pivstat := if r.2.2 then pivotEvent r.1.pivstat (!t.event) t.prog else r.1.pivstat }
        let s1 := s0.setCore n (if t.prog = 63 then k1.endStroke n t' due else k1.stepDone t' due (s.mayDepart n))
        if r.2.2 && !t.event then s1.eventTrap n t t.prog k1.pivstat else s1
  | none, some due =>
    if !s.waveReached n due then s
    else (s.passTo (s.timeOfCycle n due)).updCore n (fun k => k.behindStroke n due)
  | none, none => s

/-! ### A stroke that ends with its launch (R443) -/

/-- A value that some instructions of a step may have changed: unchanged where the whole step leaves it so, else a free value. -/
def between {w : Nat} (old new : BitVec w) (free : Nat) : BitVec w :=
  if old = new then old else BitVec.ofNat w (leNat ((List.range (w / 8)).map (fun i => Config.freeByte (free + i))))

/-- A cell after some instructions of a step that takes it from one state to another (R443). -/
def Cell.between (a b : Cell) (free : Nat) : Cell :=
  { a with f := Vector.ofFn (fun (i : Fin 16) => Machine.between (a.frag i) (b.frag i) (free + 32 * i)),
           h0 := Machine.between a.h0 b.h0 (free + 512), h1 := Machine.between a.h1 b.h1 (free + 544),
           flags := a.flags ||| (b.flags &&& Config.freeByte (free + 576)) }

/-- A core after some instructions of a step. -/
def CoreArr.between (a b : CoreArr) (event : Bool) (free : Nat) : CoreArr :=
  let cells := (List.range 256).foldl (fun k p => k.setCell p ((a.cell p).between (b.cell p) (free + 1024 * p))) a
  { cells with
    pv := Vector.ofFn (fun (i : Fin 8) => Machine.between (a.pv.getD i 0) (b.pv.getD i 0) (free + 2 ^ 18 + 8 * i))
    pivstat := if event && (Config.freeByte (free + 2 ^ 18 + 64)).getLsbD 0 then b.pivstat else a.pivstat }

/-- Free values that the cut of a stroke may take. -/
def cutFree : Nat := 2 ^ 19

/-- The stroke of a core whose launch ends in cycle c: a step whose instructions have all left the nib completes; of one whose instructions
have left in part, what it was to change holds free values, since the rules give no order of a step's instructions (R443,
assumption 132). -/
def CoreArr.stopStroke (k : CoreArr) (c free : Nat) : CoreArr :=
  match k.stroke.bind (fun t => t.due.map (fun d => (t, d))) with
  | some (t, due) =>
    let r := k.strokeWork t
    let k1 := { r.1 with pivstat := if r.2.2 then pivotEvent r.1.pivstat (!t.event) t.prog else r.1.pivstat }
    if 64 ≤ t.prog then { k with stroke := none }
    else if due ≤ c + strokeTail then { k1 with stroke := none, prog := BitVec.ofNat 64 (t.prog + 1) }
    else { k.between k1 r.2.2 free with stroke := none }
  | none => { k with stroke := none }

/-! ### As a device step -/

/-- STROKE_STEP. -/
def execStrokeStep (c : Fin 192) (s : State) : Result := .next ((s.strokeStep c).unblock)

end Sys2Proof.Machine
end

