-- ==== Sys2Proof/Machine/Recovery.lean ====
section
/-! DEFINITION. Quill tasks (R182 to R184, R447, R459, R492), the fault queue (R411 to R416), and the end of a launch (R416, R417,
R420, R424, R443, R448). -/

namespace Sys2Proof.Machine

/-! ### TASK_START (R182 to R184, R459, R492) -/

/-- DETAIL of cause 0x58 in a TASK packet. -/
def taskInvalid (pkt : List Byte) : Option Nat :=
  let addr := fun (a n : Nat) => a % n ≠ 0 || decide (2 ^ 56 ≤ a)
  if fieldAt pkt 0 1 ≠ 0 || bitsOf (fieldAt pkt 4 4) 31 2 ≠ 0 || fieldAt pkt 40 24 ≠ 0 then some 0
  else if addr (fieldAt pkt 8 8) 4 || addr (fieldAt pkt 32 8) 8 then some 1
  else none

/-- Threads of a quill core that serve no task and have nothing on its way; a task takes the lowest of them (DESIGN CHOICE, assumption 111). -/
def State.freeThreads (s : State) (u : Nat) : List Nat :=
  (List.range 4).filter (fun t => (s.thread u t).status == .idle && (s.reqsOf u t).isEmpty &&
    s.hgOps.all (fun h => !(h.by_.unit == u && h.by_.thr == t)))

def State.updTaskQ (s : State) (q : Nat) (f : Queue → Queue) : State := { s with taskQ := adjust Queue.reset q f s.taskQ }

/-- The issuer that the record of a task's own fault names. -/
def Task.issue (k : Task) : Issue := ⟨192 + k.quill, 0, .task k.id, 0, 15, 0⟩

/-- STAT is translated; a fault there parks the task or ends it (R492). -/
def State.taskStat (s : State) (i : Nat) : State :=
  match s.taskOf i with
  | none => s
  | some k =>
    if k.statVa = 0 || k.stat.isSome then s
    else match s.translate k.part (192 + k.quill) k.statVa .write with
      | .ok g => s.updTask i (fun x => { x with stat := some g })
      | .error e => if e.cause = 0x41 then s.park k.issue k.statVa e.status else s.fail k.issue e.cause k.statVa e.status

/-- The address of STAT as far as it can be written: for a task that reports without running. -/
def State.statOnly (s : State) (p u va : Nat) : Option Target :=
  if va = 0 || va % 8 ≠ 0 then none
  else match s.translate p u va .write with
    | .ok g => some g
    | .error _ => none

/-- A task begins: its threads are bound and its STAT is translated. -/
def State.beginTask (s : State) (q : Nat) (k : Queue) (o : Option Origin) (pkt : List Byte) (ts : List Nat) : State :=
  let u := 192 + q
  let t : Task :=
    { id := s.nextId, quill := q, part := k.part, gang := (o.bind (fun x => s.ownerGang x.by_.owner)), launch := o.bind (fun x => x.launch),
      threads := ts, idx := k.ridx, statVa := fieldAt pkt 32 8, stat := none, parked := false, go := false, done := none, posted := false }
  let pre := fun (n : Nat) => [(23, BitVec.ofNat 64 (fieldAt pkt 16 8)), (24, BitVec.ofNat 64 (fieldAt pkt 24 8)), (28, BitVec.ofNat 64 q),
    (29, BitVec.ofNat 64 n)]
  let s1 := { s.fresh with tasks := s.tasks ++ [t] }
  let s2 := (List.range ts.length).foldl (fun s n =>
    s.updThread u (ts.getD n 0) (fun th => th.start (BitVec.ofNat 64 (fieldAt pkt 8 8)) (pre n) (.task t.id))) s1
  s2.taskStat t.id

/-- A task that starts no thread reports a cause: 0x07 where its launch has ended, and its launch ends by any other (R417, R447, R459). -/
def State.taskRefused (s : State) (q : Nat) (k : Queue) (o : Option Origin) (pkt : List Byte) (cause detail : Nat) : State :=
  let va := fieldAt pkt 32 8
  let t : Task :=
    { id := s.nextId, quill := q, part := k.part, gang := o.bind (fun x => s.ownerGang x.by_.owner), launch := o.bind (fun x => x.launch),
      threads := [], idx := k.ridx, statVa := va, stat := s.statOnly k.part (192 + q) va, parked := false, go := false, done := none, posted := false }
  let s1 : State := { s.fresh with tasks := s.tasks ++ [t] }
  if s.launchFailed t.launch then s1.taskEnds t.id 7 0
  else if t.launch.isSome then (s1.fail t.issue cause 0 (detailStatus detail)).taskEnds t.id cause 0
  else s1.taskEnds t.id cause 0

/-- TASK_START: a quill core reads the packet at RIDX and starts its task when enough of its threads are free. A task whose launch
has ended starts no thread and ends at once (R417). -/
def State.taskStart (s : State) (q : Nat) : State :=
  let k := s.taskQueue q
  let u := 192 + q
  if !k.en || (s.seq u).retired || (s.island (islandOfUnit u)).stopped then s
  else match s.ringPacket .task q with
    | .none => s
    | .wait s1 => s1
    | .bad _ _ _ => s.clearInbox (ringIssue k.part 2 q)
    | .packet s pkt =>
      let o := k.originAt (k.ridx.toNat % 256)
      let n := bitsOf (fieldAt pkt 4 4) 1 0 + 1
      let ts := (s.freeThreads u).take n
      let read := s.takePacket .task q
      if s.launchFailed (o.bind (fun x => x.launch)) then read.taskRefused q k o pkt 7 0
      else match taskInvalid pkt with
        | some d => read.taskRefused q k o pkt 0x58 d
        | none => if ts.length < n then s else read.beginTask q k o pkt ts

/-! ### FAULT_QUEUE_WRITE (R412 to R414) -/

/-- Address of an entry of the fault queue. -/
def State.entryVa (s : State) (p idx : Nat) : Nat := (s.part p).fqbase + 64 * (idx % 1024)

/-- Bytes 4..63 of an entry, the ACT word zero (R412). -/
def FaultRec.body (r : FaultRec) : List Byte :=
  leBytes 4 (r.cause * 2 ^ 24 + r.req % 512 * 2 ^ 15 + r.thr % 4 * 2 ^ 13 + r.cls % 16 * 2 ^ 9 + r.slot % 8 * 2 ^ 6 + r.chan % 16 * 4) ++
  leBytes 8 r.addr.toNat ++ leBytes 8 r.bundle.toNat ++ leBytes 4 r.status.toNat ++ leBytes 4 r.lwidx.toNat ++ leBytes 4 (r.queue % 64) ++
  leBytes 4 0 ++ leBytes 8 r.gangid ++ leBytes 8 0 ++ leBytes 8 r.progress

/-- Bytes 0..3 of an entry (R412). -/
def validWord (fwidx kind : Nat) : Nat := fwidx / 1024 % 65536 * 65536 + 5 * 256 + kind

/-- A word of an entry as its home slice reports it; what the device is writing there is still to come. -/
def State.entryWord (s : State) (p va : Nat) : Option Nat :=
  if s.reqs.any (fun r => r.by_.unit == (faultIssue p).unit && r.by_.thr == (faultIssue p).thr && r.va / 64 == va / 64) then none else s.reported p va

/-- FAULT_QUEUE_WRITE: the oldest fault of a partition that waits is recorded once the entry at FWIDX is free: bytes 4..63 first, and the
valid word after them as a release. An entry that cannot be written is lost (DESIGN CHOICE, assumption 147). -/
def State.faultQueueWrite (s : State) (p : Nat) : State :=
  match s.faults.find? (fun r => r.part == p) with
  | none => s
  | some r =>
    let w := (s.part p).fwidx
    let va := s.entryVa p w
    if (s.reported p va).getD 0 ≠ 0 || s.issuing (faultIssue p) then s
    else
      let s1 := ((s.post (faultIssue p) p (va + 4) r.body).postLast (faultIssue p) p va (leBytes 4 (validWord w r.kind))).updPart p
        (fun k => { k with fwidx := w + 1 })
      let s2 := { s1 with faults := s1.faults.erase r, entries := s1.entries ++ [⟨w, p, r.unit, r.launch, 0, false⟩] }
      match r.kind, r.launch with
      | 3, some l => s2.updLaunch l (fun x => { x with cause := x.cause.map (fun c => if c.2 = 0 then (c.1, va) else c) })
      | _, _ => s2

/-! ### ACT_WRITE and RESUME_ENTRY (R413, R415, R416, R421, R459) -/

/-- The device has acted on an entry: it writes zero to its valid word, and the entry describes nothing any more. -/
def State.freeEntry (s : State) (e : QueueEntry) : State :=
  { s.post (faultIssue e.part) e.part (s.entryVa e.part e.idx) (leBytes 4 0) with entries := s.entries.filter (fun x => !(x.part == e.part && x.idx == e.idx)) }

/-- The issue that an ABORT's record names: the one that faulted (R412, R416). -/
def ParkUnit.issue (k : ParkUnit) : Option Issue :=
  match k with
  | .none => Option.none
  | .gang _ i => some i
  | .copy _ => Option.none
  | .task _ i => some i

/-- ABORT ends the launch of the parked unit with cause 0x04; a copy or task posted from outside any launch ends alone. -/
def State.abort (s : State) (e : QueueEntry) : State :=
  match e.unit with
  | .copy c => match s.copyOf c with
    | some k => (s.updCopy c (fun x => { x with parked := false })).copyFault { k with parked := false } 4 0 0
    | none => s
  | k => match k.issue with
    | some i => s.fail i 4 0 0
    | none => s

/-- The action in an entry's ACT word: 1 is GO, 2 and 3 are ABORT. -/
def State.actOf (s : State) (e : QueueEntry) : Nat := bitsOf ((s.entryWord e.part (s.entryVa e.part e.idx + 48)).getD 0) 1 0

/-- A write of an action to an entry's ACT word is reported by its home slice (R413). -/
def QueueEntry.watchAct (e : QueueEntry) (s : State) : QueueEntry := if e.act = 0 then { e with act := s.actOf e } else e

def State.watchActs (s : State) : State := { s with entries := s.entries.map (fun e => e.watchAct s) }

/-- ACT_WRITE: software has written the ACT word of an entry. -/
def State.actWrite (s : State) (p i : Nat) : State :=
  match (s.entries.filter (fun e => e.part == p && e.idx % 1024 == i)).getLast? with
  | none => s
  | some e =>
    let act := (e.watchAct s).act
    if act = 0 || e.go then s
    else if e.unit = .none then s.freeEntry e
    else if act = 1 then { s with entries := s.entries.map (fun x => if x.part = p && x.idx = e.idx then { x with go := true } else x) }
    else (s.abort e).freeEntry e

/-- The entry parks a task. -/
def ParkUnit.parksTask (k : ParkUnit) (t : Nat) : Bool :=
  match k with
  | .task x _ => x == t
  | _ => false

/-- The unit of an entry is resumed; a task whose gang's switch waits for it goes on at once (R421, R423). -/
def State.resumeUnit (s : State) (e : QueueEntry) : State :=
  match e.unit with
  | .none => s
  | .gang g _ => s.updGang g (fun x => { x with parks := x.parks - 1 })
  | .copy c => s.updCopy c (fun x => { x with go := true })
  | .task t _ =>
    let more := s.entries.any (fun x => x.unit.parksTask t) || s.faults.any (fun r => r.unit.parksTask t)
    let switching := ((s.taskOf t).bind (fun k => k.gang.bind s.gangOf)).any (fun g => match g.place with | .switching _ => true | _ => false)
    if more then s else (s.updTask t (fun x => { x with parked := false, go := switching })).taskStat t

/-- RESUME_ENTRY: among entries whose GO has been observed, the oldest resumes; at most one in 8 controller cycles. -/
def State.resumeEntry (s : State) (p : Nat) : State :=
  let oldest := (s.entries.filter (fun e => e.part == p && e.go)).foldl (fun (m : Option QueueEntry) e =>
    match m with | none => some e | some x => if e.idx < x.idx then some e else some x) none
  match oldest with
  | none => s
  | some e =>
    let s1 := match (s.part p).lastResume with | some c => s.ccTo (c + 8) | none => s
    ((s1.freeEntry e).resumeUnit e).updPart p (fun k => { k with lastResume := some s1.cc })

/-! ### LAUNCH_END (R417, R424, R443) -/

/-- A unit's thread belongs to an owner that ends. -/
def State.stopThread (s : State) (u t : Nat) : State :=
  { s.clearThreads u [t] with
    reqs := (s.reqs.filter (fun r => !(r.by_.unit == u && r.by_.thr == t && r.op.isWell) && !r.givenUp u t)).map
      (fun r => if r.by_.unit = u && r.by_.thr = t then { r with dropped := true } else r),
    hgOps := s.hgOps.filter (fun h => !(h.by_.unit == u && h.by_.thr == t)) }

/-- The bulk runs and requests for runs of a thread leave the channels. -/
def State.dropRuns (s : State) (u t : Nat) : State :=
  { s with channels := s.channels.map (fun e => (e.1, { e.2 with
      runs := e.2.runs.map (fun r => (r.1, r.2.bind (fun b => if b.unit = u && b.thr = t then none else some b))),
      runQueue := e.2.runQueue.filter (fun r => !(r.unit == u && r.thr == t)) })) }

/-- The array of a core whose launch ends in a cycle: the nib and an expanding stroke are gone, loader streams have ended, and what has
left the nib runs on (R417, R443). -/
def CoreArr.cut (k : CoreArr) (c free : Nat) : CoreArr :=
  { k.stopStroke c free with
           nib := [], wflgs := [],
           west := { k.west with streams := [] }, north := { k.north with streams := [] },
           wave := k.wave.map (fun w => { w with forfeit := true }) }

/-- Cores that a gang holds: all of them, but for those that EVICT has taken from it (R91). -/
def State.heldCores (s : State) (g : Gang) : List Nat := g.cores.filter (fun n => decide ((s.core n).gang = some g.id))

/-- Threads and cores of a gang whose launch has ended stop (R417). -/
def State.cutGang (s : State) (g : Gang) : State :=
  (s.heldCores g).foldl (fun s n =>
    let s1 := (List.range (g.tpc + 1)).foldl (fun s t => (s.stopThread n t).dropRuns n t) s
    { s1.updCore n (fun k => k.cut (s1.cycles n) s1.freeCount) with freeCount := s1.freeCount + cutFree }) s

/-- A place is in a core's scratchpad. -/
def State.inPad (s : State) (n : Nat) (g : Target) : Bool :=
  match locate (localOf g.pa) with
  | .scratch m _ => s.isLocal g && m == n
  | _ => false

/-- The writer streams of cores whose launch has ended close once the wave is through, so that what they have captured is written whole
(R417); those without a capture end. -/
def EdgeUnit.lastTurn (e : EdgeUnit) : EdgeUnit :=
  { e with streams := (e.streams.filter (fun x => x.taken != 0)).map (fun x => { x with closing := true }) }
def State.closeGang (s : State) (g : Gang) : State :=
  (s.heldCores g).foldl (fun s n =>
    if (s.core (s.waveCore n)).wave.isEmpty then s.updCore n (fun k => { k with east := k.east.lastTurn, south := k.south.lastTurn }) else s) s

/-- Everything of a gang that was in flight on its cores has finished (R417): the wave, the writers' captured pieces, its
accesses, and what quill cores and engines write to its scratchpads. -/
def State.gangQuiet (s : State) (g : Gang) : Bool :=
  (s.heldCores g).all (fun n =>
    let k := s.core n
    k.wave.isEmpty && k.east.buffer.isEmpty && k.south.buffer.isEmpty && k.east.streams.isEmpty && k.south.streams.isEmpty &&
    s.reqs.all (fun r => r.by_.unit != n && !(decide (192 ≤ r.by_.unit) && r.op.isWrite && s.inPad n ⟨r.pa, r.cls, r.kslot⟩)) &&
    s.copies.all (fun c => c.landings.all (fun l => !s.inPad n ⟨l.pa, l.cls, l.kslot⟩)))

/-- The cores of a gang whose launch has ended become free. Its iteration does not count as ended, so the flags of its threads and cells do
not join those of the launch (R57 speaks of an iteration's end, R417 of ITER alone; DESIGN CHOICE, assumption 139). -/
def State.freeCores (s : State) (g : Gang) : State :=
  let s1 := (s.heldCores g).foldl (fun s n =>
    s.updCore n (fun k => { k with gang := none, saving := none, saveOut := false, hold := none, waveFault := none,
                                   east := { k.east with streams := [] }, south := { k.south with streams := [] } })) s
  { s1.updGang g.id (fun x => { x with ending := true, wells := [] }) with saved := s1.saved.filter (fun x => x.gang != g.id) }

/-- A gang of an ended launch: it stops, and the cores that it holds become free when it is quiet. -/
def State.endGang (s : State) (g : Gang) : State :=
  let s1 := (s.cutGang g).closeGang g
  if s1.gangQuiet g then s1.freeCores g else s1

/-- A task of an ended launch reports 0x07 (R417). -/
def State.endTask (s : State) (k : Task) : State :=
  let s1 := k.threads.foldl (fun s t => (s.stopThread (192 + k.quill) t).dropRuns (192 + k.quill) t) s
  s1.taskEnds k.id 7 (s.taskFlags k)

/-- Copies of an ended launch stop at their next line. -/
def State.endCopies (s : State) (l : Nat) : State :=
  { s with copies := s.copies.map (fun c => if c.launch = some l && !c.finished then
      { c with stopped := true, parked := false, ecode := if c.ecode = 0 then 7 else c.ecode } else c) }

/-- What the end of a launch does as far as it can go now. -/
def State.endLaunch (s : State) (l : Launch) : State :=
  let s1 := (s.tasks.filter (fun k => decide (k.launch = some l.id) && k.done.isNone)).foldl (fun s k => s.endTask k) s
  ((s1.gangs.filter (fun g => g.launch == l.id && !g.ending)).foldl (fun s g => s.endGang g) (s1.endCopies l.id))

/-- LAUNCH_END: the launches of a partition that have ended by a fault stop what they have running. -/
def State.launchEnd (s : State) (p : Nat) : State :=
  (s.launches.filter (fun l => l.part == p && l.cause.isSome)).foldl (fun s l => s.endLaunch l) s

/-! ### SLEEP_EXPIRY (R264) -/

/-- SLEEP_EXPIRY: the time of a thread's SLEEP is over. -/
def State.sleepExpiry (s : State) (u t : Nat) : State :=
  if (s.thread u t).sleeping then
    (s.updThread u t (fun th => { th with sleeping := false })).passTo (s.timeOfCycle u (s.thread u t).waitUntil)
  else s

/-! ### As device steps -/

/-- TASK_START. -/
def execTaskStart (q : Fin 32) (s : State) : Result := .next ((s.taskStart q).unblock)
/-- FAULT_QUEUE_WRITE. -/
def execFaultQueueWrite (p : Fin 8) (s : State) : Result := .next ((s.faultQueueWrite p).unblock)
/-- ACT_WRITE. -/
def execActWrite (p : Fin 8) (i : Fin 1024) (s : State) : Result := .next ((s.actWrite p i).unblock)
/-- RESUME_ENTRY. -/
def execResumeEntry (p : Fin 8) (s : State) : Result := .next ((s.resumeEntry p).unblock)
/-- LAUNCH_END. -/
def execLaunchEnd (p : Fin 8) (s : State) : Result := .next ((s.launchEnd p).unblock)
/-- SLEEP_EXPIRY. -/
def execSleepExpiry (u : Fin 224) (t : Fin 4) (s : State) : Result := .next ((s.sleepExpiry u t).unblock)

end Sys2Proof.Machine
end

