-- ==== Sys2Proof/Machine/Links.lean ====
section
/-! DEFINITION. What reaches the module from outside (R67, R70, R162, R182, R382 to R385, R390 to R396, R398, R401, R454, R459, R479,
R480, R485): writes to the device control space, host accesses, Bridin flits and ports, keys and measurements. -/

namespace Sys2Proof.Machine

/-! ### The host's windows (R382, R383, R454) -/

/-- Partition and virtual address of an offset in BAR2, if its window maps something (R383). -/
def State.window (s : State) (o : Nat) : Option (Nat × Nat) :=
  let p := bitsOf o 38 36
  if (s.part p).present && (s.part p).hwbase ≠ 0 then some (p, (s.part p).hwbase + bitsOf o 35 0) else none

/-- The pieces of a host access through a window, each to its home: none without a page or without its permission. -/
def State.hostPieces (s : State) (o n : Nat) (k : Access) (op : Nat → Nat → MemOp) : Option (List HostPiece) :=
  match s.window o with
  | none => none
  | some (p, va) =>
    match s.targets p 256 k (pieces va n) with
    | .error _ => none
    | .ok gs => some (gs.map (fun e => .mem (lineReq s hostIssue p e.1 e.2.1 e.2.2 (op (e.1 - va) e.2.1))))

/-- A read or an AtomicOp is answered with Completer Abort. -/
def State.hostAbort (s : State) : State := { s with output := s.output ++ [.completerAbort] }

/-- HOST_WINDOW_ACCESS: a read, or a posted write, of the device control space or of what a window's partition maps. Without a page, or
without its permission, it changes nothing, and a read is aborted. -/
def State.hostWindowAccess (s : State) (o : HostAddr) (a : HostOp) : State :=
  match o, a with
  | .bar0 o, .read n => s.hostArrive .read [.readControl o.toNat n]
  | .bar0 o, .write relaxed bs => s.hostArrive (.write relaxed) [.writeControl o.toNat bs]
  | .bar2 o, .read n =>
    match s.hostPieces o.toNat n .read (fun _ _ => .fetch) with
    | some ps => s.hostArrive .read ps
    | none => s.hostAbort
  | .bar2 o, .write relaxed bs =>
    match s.hostPieces o.toNat bs.length .write (fun at_ n => .store (bytesAt bs at_ n) false) with
    | some ps => s.hostArrive (.write relaxed) ps
    | none => s

/-- HOST_ATOMICOP. -/
def State.hostAtomicop (s : State) (o : HostAddr) (k : HostAtomic) (wide : Bool) (v cmp : Word) : State :=
  let n := if wide then 8 else 4
  let cut := fun (w : Word) => BitVec.ofNat 64 (w.toNat % 2 ^ (8 * n))
  match o with
  | .bar0 o => if o.toNat % n ≠ 0 then s.hostAbort else s.hostArrive .atomic [.amoControl o.toNat k wide v cmp]
  | .bar2 o =>
    if o.toNat % n ≠ 0 then s.hostAbort
    else match s.hostPieces o.toNat n .atomic (fun _ _ => .amo (hostAmo k) (cut v) (cut cmp) 0) with
      | some ps => s.hostArrive .atomic ps
      | none => s.hostAbort

/-! ### Bridin (R159, R390 to R392, R398, R401, R454, R479) -/

/-- The atomic of a number in a flit. -/
def amoOfNum (n : Nat) : AmoKind :=
  ([.add, .and, .or, .xor, .min, .max, .minu, .maxu, .swp, .cas, .fadd, .fmax] : List AmoKind).getD n .add

/-- The pieces of bytes that a flit writes: at the offsets of its mask, or from its address on. -/
def flitPieces (f : Flit) : List (Nat × List Byte) := if f.mask.isEmpty then [(0, f.data)] else joinBytes (f.mask.zip f.data)

/-- A write flit that an engine has sent, or that carries more than bytes: granules set full, scale bytes, or poison. -/
def flitByEngine (f : Flit) : Bool := f.well.isSome || f.full || !f.scales.isEmpty || f.poison || (decide (224 ≤ f.unit) && decide (f.unit < 240))

/-- What an arriving request does at its home. -/
def flitOp (f : Flit) : MemOp :=
  match f.kind with
  | .load => .fetch
  | .atomic =>
    if f.atomic < 16 then .amo (amoOfNum f.atomic) (BitVec.ofNat 64 (fieldAt f.data 0 8)) (BitVec.ofNat 64 (fieldAt f.data 8 8)) 0
    else if f.atomic = atomWell then .wellLand (fieldAt f.data 0 8)
    else .hgAdd 0 (if f.atomic = atomBF16 then fmtBF16 else fmtFP32)
      ((List.range f.mask.length).map (fun i => (f.mask.getD i 0, BitVec.ofNat 32 (fieldAt f.data (4 * i) 4))))
  | _ => if flitByEngine f then .engine none (flitPieces f) f.full f.scales 0 f.poison else .vstore (flitPieces f)

/-- Whether an arriving access names memory of the partition, outside the device control space (R454). -/
def State.flitReaches (s : State) (p : Nat) (f : Flit) : Bool :=
  !(s.part p).destroying &&
  match locate f.addr with
  | .hbm b _ => s.owns p b
  | .scratch n _ => s.owns p (n / 24) && !s.noCore n
  | _ => false

/-- A refusal goes back to the module that asked: by the route of the partition that the port belongs to, or, where there is none, by the port
that the access came in by, and under the key of the access itself (R454, R487; DESIGN CHOICE, assumption 149). -/
def State.refuse (s : State) (port : Nat) (p : Option Nat) (f : Flit) : State :=
  let q := (p.bind (fun p => s.routePort p f.src)).getD port
  let n := lookup 0 q s.flitTx
  { s with flitTx := insertAt q (n + 1) s.flitTx,
           output := s.output ++ [.flit q { s.flitFor f.part f.src .response f.addr f.size [] with token := f.token, refused := true, key := f.key, counter := n }] }

/-- A place in a scratchpad of the partition. -/
def State.padOf (s : State) (p a : Nat) : Bool := match locate a with | .scratch n _ => s.owns p (n / 24) | _ => false

/-- An access from another module enters through the port's slots. -/
def State.enterFlit (s : State) (port p : Nat) (f : Flit) : State :=
  let c := s.lineClass p f.addr
  let r : Req :=
    { id := s.nextId, by_ := ⟨240 + port, 0, .none, 0, 15, 0⟩, part := p, va := f.addr,
      pa := s.modreg.toNat % 1024 * 2 ^ 42 + f.addr, size := f.size, cls := c.1, kslot := c.2, op := flitOp f, acquire := false,
      release := false, check := if f.scope = 0 then none else some f.scope, after := [], born := s.now, status := .waiting,
      dropped := false, reply := some ⟨f.src, f.token, f.unit, f.thr, f.gang, f.node, f.well.filter (fun w => s.padOf p w.1)⟩ }
  { s.fresh with reqs := s.reqs ++ [r] }

/-- STATUS of cause 0x46: the kind of the access that another module has refused, and the level of its page's leaf (R451, R454). -/
def State.refusedStatus (s : State) (r : Req) : BitVec 32 :=
  let kind : Access := match r.op with
    | .amo _ _ _ _ | .amax _ | .hgAdd _ _ _ => .atomic
    | .fetch => if decide (r.by_.unit < 224) && decide (r.by_.thr < 4) then .fetch else .read
    | op => if op.isWrite then .write else .read
  xstatus 0 kind (match s.pageOf r.part (tlbUnit r.by_) r.va kind with | .ok e => levelOfPage e.size | .error _ => 0)

/-- The reply that a response carries for an access. -/
def State.flitReply (s : State) (f : Flit) (r : Req) : Reply :=
  let g : BitVec 8 := BitVec.ofNat 8 (f.mask.getD 0 0)
  if f.refused then .fail 0x46 (s.refusedStatus r)
  else if f.atomic ≠ 0 then .fail f.atomic (BitVec.ofNat 32 (fieldAt f.data 0 4))
  else if f.poison && r.op.consumes then .fail 0x4C 0
  else match r.op, (r.op.effect r.size (fun o n => bytesAt f.data o n)).reply with
    | .amo _ _ _ _, _ => .old (BitVec.ofNat 64 (fieldAt f.data 0 8)) f.tag g
    | _, .data bs => if f.poison then .poisoned bs else .data bs
    | _, _ => .ack f.tag g

/-- A response ends the wait of the access it names; another is dropped. -/
def State.takeResponse (s : State) (f : Flit) : State :=
  match s.reqs.find? (fun r => r.id == f.token && (match r.status with | .sent _ => moduleOf r.pa == f.src | _ => false)) with
  | none => s
  | some r => s.updReq r.id (fun q => { q with status := .served s.now (s.flitReply f r) })

/-- A flit for this module, accepted by its partition; one of a reserved kind does nothing. -/
def State.acceptFlit (s : State) (port p : Nat) (f : Flit) : State :=
  match f.kind with
  | .response => s.takeResponse f
  | .credit | .other => s
  | _ => if s.flitReaches p f then s.enterFlit port p f else s.refuse port (some p) f

/-- A flit as it is received and authenticated, its tag bytes 0 (R390, R400): the payload's layout is not the manual's, and its bytes are free. -/
def flitBytes (f : Flit) : List Byte :=
  let kind := match f.kind with | .load => 0 | .store => 1 | .atomic => 2 | .response => 3 | .queueWrite => 4 | .credit => 5 | .other => 6
  let head := f.src % 1024 + f.dst % 1024 * 2 ^ 10 + f.part % 8 * 2 ^ 20 + kind * 2 ^ 24 + f.counter % 2 ^ 32 * 2 ^ 32
  leBytes 8 head ++ (List.range 224).map (Config.flitPayload f) ++ leBytes 24 0

/-- The record of an inbound flit in each copybook of the partition that records (R398, R400, R489). -/
def State.recordFlit (s : State) (port p : Nat) (f : Flit) : State :=
  (s.copybooks.filter (fun c => c.part == p && !c.replay && c.launch.isSome)).foldl (fun s c =>
    if c.nflit < c.maxflit then
      (s.putBook c (c.flitBase + 272 * c.nflit) (leBytes 8 port ++ leBytes 8 (s.part p).flits ++ flitBytes f)).updCopybook c
        (fun k => { k with nflit := k.nflit + 1, flits := k.flits ++ [(port, f)] })
    else s.overflowBook c) s

/-- A port has received a flit that authenticates (R392). -/
def State.countFlit (s : State) (port : Nat) : State := { s with flitRx := adjust 0 port (fun n => n + 1) s.flitRx }

/-- A recorded flit as the replay takes it: a response answers the oldest access that waits for one from its module, of its address and
size, and stays until there is one (DEDUCED, assumption 129). -/
def State.replayed (s : State) (f : Flit) : Option Flit :=
  match f.kind with
  | .response =>
    (s.reqs.find? (fun r => moduleOf r.pa == f.src && localOf r.pa == f.addr && r.size == f.size &&
      match r.status with | .sent _ => true | _ => false)).map (fun r => { f with token := r.id })
  | _ => some f

/-- The replayed launch whose next recorded flit is this one (R401). -/
def State.injected (s : State) (port : Nat) (f : Flit) : Option Copybook :=
  s.copybooks.find? (fun c => c.replay && c.launch.isSome && !c.diverged && decide (c.flits.head? = some (port, f)))

/-- A flit addressed to the partition that owns the port. During a replay live ones are withheld (R401). -/
def State.localFlit (s : State) (port p : Nat) (f : Flit) : State :=
  if s.copybooks.any (fun c => c.part == p && c.replay && c.launch.isSome && !c.diverged) then s.countFlit port
  else (((s.countFlit port).recordFlit port p f).updPart p (fun k => { k with flits := k.flits + 1 })).acceptFlit port p f

/-- The flit asks for an access. -/
def flitAsks (f : Flit) : Bool := match f.kind with | .load | .store | .atomic | .queueWrite => true | _ => false

/-- FLIT_RECEIVE: a flit arrives at a port, or a replay re-injects the next recorded one. -/
def State.flitReceive (s : State) (port : Nat) (f : Flit) : State :=
  match s.injected port f with
  | some c => (match s.replayed f with
    | some g => (s.updCopybook c (fun k => { k with flits := k.flits.drop 1 })).acceptFlit port c.part g
    | none => s)
  | none =>
    let here := decide (f.dst = s.modreg.toNat % 1024)
    if lookup false port s.portsDown then s
    else match s.partOfBlock (port / 2) with
      | none => if here && flitAsks f then s.refuse port none f else s
      | some p =>
        if f.auth && decide (s.linkKey p = some f.key) && f.part == p then
          if here then s.localFlit port p f
          else match s.routePort p f.dst with
            | some q => { s.countFlit port with output := s.output ++ [.flit q f] }
            | none => s.countFlit port
        else if here && flitAsks f then s.refuse port (some p) f
        else s

/-- PORT_DOWN: a port has lost its lanes, or its FEC has failed too often. -/
def State.portDown (s : State) (port : Nat) : State := { s with portsDown := insertAt port true s.portsDown }

/-- PHY_RESET: Rhoton resets the PHY of a port's island, and the island's ports are retrained (R480). -/
def State.phyReset (s : State) (port : Nat) : State :=
  { s with portsDown := insertAt (port / 2 * 2) false (insertAt (port / 2 * 2 + 1) false s.portsDown) }

/-- RESPONSE_TIMEOUT: an access that has left has had no answer for 2^22 controller cycles (R479). -/
def State.responseTimeout (s : State) (i : Nat) : State :=
  match s.reqs.find? (fun r => r.id == i) with
  | none => s
  | some r =>
    match r.status with
    | .sent c =>
      let s1 := s.ccTo (c + 2 ^ 22)
      s1.updReq i (fun q => { q with status := .served s1.now (.fail 0x81 0) })
    | _ => s

/-! ### Keys and measurements (R393 to R395, R397, R485) -/

/-- The layout of a partition as its measurement digests it: block mask, calendar entries, reserve, key-slot bindings (R394). -/
def State.layoutBytes (s : State) (p : Nat) : List Byte :=
  let k := s.part p
  let chans := (List.range 256).filter (fun c => k.blocks.getLsbD (c / 32))
  leBytes 1 k.blocks.toNat ++ chans.flatMap (fun c => (List.range 320).flatMap (fun n => leBytes 2 (s.calEntry c n).toNat)) ++
  leBytes 6 k.reserve.toNat ++ (List.range 64).map (fun i => if (s.keySlot i).bound = some p then 1 else 0)

/-- The measurement of an index (R394, R397). -/
def State.measurement (s : State) (i : Nat) : Option (BitVec 512) :=
  let extend := fun (m : BitVec 512) (img : List Byte) => shake256 (leBytes 64 m.toNat ++ img)
  if i = 1 || i = 2 then some (Config.bootMeasurement i s.booted)
  else if i = 3 then some (s.extends3.foldl extend (Config.bootMeasurement 3 s.booted))
  else if i = 4 then some (s.extends4.foldl extend (Config.bootMeasurement 4 s.booted))
  else if 16 ≤ i && i < 24 && (s.part (i - 16)).present then some (shake256 (s.layoutBytes (i - 16)))
  else none

/-- MEASUREMENT_REQUEST: an SPDM request for a measurement. -/
def State.measurementRequest (s : State) (i : Nat) : State :=
  { s with output := s.output ++ [match s.measurement i with | some v => .measurement i v | none => .spdmError] }

/-- KEY_DELIVERY: a key server delivers a model key or a link key (R395, R485). -/
def State.keyDelivery (s : State) (k : KeyMsg) : State :=
  if 64 ≤ k.slot || (s.keySlot k.slot).bound.isSome || !(s.part k.part).present || s.measurement (16 + k.part) ≠ some k.policy || !k.unwraps then
    { s with output := s.output ++ [.spdmError] }
  else
    let s1 := { s with keys := insertAt k.slot ⟨some k.part, k.key, s.nextKey⟩ s.keys, keyValues := insertAt s.nextKey k.key s.keyValues,
                       nextKey := s.nextKey + 1, output := s.output ++ [.keyLoaded k.slot] }
    if k.link then s1.updPart k.part (fun x => { x with linkGen := some s.nextKey }) else s1

/-! ### As device steps -/

/-- REGISTER_WRITE. -/
def execRegisterWrite (off : BitVec 32) (v : Word) (s : State) : Result := .next ((s.registerWrite off.toNat v).unblock)
/-- QUEUE_DESCRIPTOR_WRITE. -/
def execQueueDescriptorWrite (k : QueueKind) (n : Fin 256) (p : Fin 8) (v : BitVec 128) (s : State) : Result :=
  .next ((s.queueDescriptorWrite k n p v).unblock)
/-- ROUTE_TABLE_WRITE. -/
def execRouteTableWrite (p : Fin 8) (m : Fin 768) (v : BitVec 16) (s : State) : Result := .next ((s.routeTableWrite p m v).unblock)
/-- HOST_WINDOW_ACCESS. -/
def execHostWindowAccess (o : HostAddr) (a : HostOp) (s : State) : Result := .next ((s.hostWindowAccess o a).unblock)
/-- HOST_ATOMICOP. -/
def execHostAtomicop (o : HostAddr) (k : HostAtomic) (wide : Bool) (v : Word) (cmp : Word) (s : State) : Result :=
  .next ((s.hostAtomicop o k wide v cmp).unblock)
/-- FLIT_RECEIVE. -/
def execFlitReceive (port : Fin 16) (f : Flit) (s : State) : Result := .next ((s.flitReceive port f).unblock)
/-- PORT_DOWN. -/
def execPortDown (port : Fin 16) (s : State) : Result := .next ((s.portDown port).unblock)
/-- PHY_RESET. -/
def execPhyReset (port : Fin 16) (s : State) : Result := .next ((s.phyReset port).unblock)
/-- RESPONSE_TIMEOUT. -/
def execResponseTimeout (i : Nat) (s : State) : Result := .next ((s.responseTimeout i).unblock)
/-- MEASUREMENT_REQUEST. -/
def execMeasurementRequest (i : Nat) (s : State) : Result := .next ((s.measurementRequest i).unblock)
/-- KEY_DELIVERY. -/
def execKeyDelivery (k : KeyMsg) (s : State) : Result := .next ((s.keyDelivery k).unblock)

end Sys2Proof.Machine
end

