-- ==== Sys2Proof/Machine/Commands.lean ====
section
/-! DEFINITION. The partition commands (R86 to R91, R153, R154, R156, R342, R386 to R388, R397 to R401, R411, R421, R423, R444, R459,
R467, R474, R475, R482, R484, R486 to R489). A command whose effect takes time is looked at again each time its step occurs. -/

namespace Sys2Proof.Machine

/-! ### The command ring (R386, R387, R459) -/

/-- The entry that the module reads next, if it has been posted. -/
def State.command (s : State) : Option (List Byte) :=
  let bs := memRead s.mem (cmdPa s.cmdRidx.toNat) 64
  if bitsOf (fieldAt bs 0 4) 31 16 = s.cmdRidx.toNat / 1024 % 65536 && bitsOf (fieldAt bs 0 4) 15 8 = 4 then some bs else none

def cmdOp (bs : List Byte) : Nat := fieldAt bs 5 1
def cmdPart (bs : List Byte) : Nat := fieldAt bs 4 1 % 8

/-- Bits of a command that must be 0: bytes 0, 4..7 apart from OP and the partition number, and what the operation does not list. -/
def cmdReserved (bs : List Byte) : Bool :=
  let z := fun (o n : Nat) => fieldAt bs o n == 0
  let args := match cmdOp bs with
    | 1 => z 17 7 && z 38 2
    | 2 => z 16 48
    | 3 => z 16 48
    | 4 => z 22 42
    | 5 => z 32 32
    | 6 => bitsOf (fieldAt bs 16 1) 7 6 == 0 && z 17 3 && bitsOf (fieldAt bs 24 1) 7 1 == 0 && z 25 7 && z 40 24
    | 7 => bitsOf (fieldAt bs 16 1) 7 6 == 0 && z 17 3 && z 24 8 && z 40 24
    | 8 => z 17 47
    | 9 => bitsOf (fieldAt bs 16 1) 7 6 == 0 && z 17 47
    | 10 => bitsOf (fieldAt bs 16 1) 7 6 == 0 && z 17 7 && z 40 24
    | 11 => bitsOf (fieldAt bs 16 1) 7 6 == 0 && z 17 7 && z 32 32
    | 12 => z 36 28
    | _ => false
  !(args && fieldAt bs 0 1 == 0 && bitsOf (fieldAt bs 4 1) 7 3 == 0 && z 6 2)

/-- Core islands of a set of blocks. -/
def ownIslands (blocks : BitVec 8) (mask : Nat) : Bool :=
  (List.range 48).all (fun i => bitsOf mask i i == 0 || blocks.getLsbD (i / 6))

/-- Arguments that are out of their range. -/
def State.badArguments (s : State) (bs : List Byte) : Bool :=
  let p := cmdPart bs
  let k := s.part p
  let mis := fun (o n : Nat) => decide (fieldAt bs o 8 % n ≠ 0) || decide (2 ^ 56 ≤ fieldAt bs o 8)
  let mask : BitVec 8 := BitVec.ofNat 8 (fieldAt bs 16 1)
  match cmdOp bs with
  | 1 => k.present || mask == 0 || (List.range 8).any (fun b => mask.getLsbD b && (s.partOfBlock b).isSome) ||
         !ownIslands mask (fieldAt bs 32 6) || mis 24 16384 || mis 40 65536 || mis 48 (2 ^ 36) || mis 56 65536
  | 4 => !k.present || !ownIslands k.blocks (fieldAt bs 16 6)
  | 5 => !k.present || mis 16 4096 || mis 24 4096 || fieldAt bs 24 8 == 0
  | 6 => !k.present || mis 32 65536
  | 7 => !k.present || mis 32 65536
  | 8 => !k.present || decide (192 ≤ fieldAt bs 16 1) || !s.owns p (fieldAt bs 16 1 / 24)
  | 9 => !k.present || decide ((s.keySlot (fieldAt bs 16 1)).bound ≠ some p)
  | 12 => !k.present || mis 24 4096
  | _ => !k.present

/-- The command of an operation that waits at the head of the ring: its partition and bytes. A command with a reserved OP or a
reserved bit completes with 0x58. -/
def State.commandStep (s : State) (op : Nat) (run : State → Nat → List Byte → State) : State :=
  match s.command with
  | none => s
  | some bs =>
    if cmdOp bs = 0 || 12 < cmdOp bs then s.finishCommand s.cmdRidx 0x58
    else if cmdOp bs ≠ op then s
    else if s.commands.all (fun c => c.idx != s.cmdRidx) && (cmdReserved bs || s.badArguments bs) then s.finishCommand s.cmdRidx 0x58
    else run s (cmdPart bs) bs

/-- The command has started. -/
def State.started (s : State) : Bool := s.commands.any (fun c => c.idx == s.cmdRidx)
def State.start (s : State) (op p arg : Nat) (gangs : List Nat) : State :=
  { s with commands := s.commands ++ [⟨s.cmdRidx, op, p, arg, gangs, false⟩] }
def State.complete (s : State) (ecode : Nat) : State := s.finishCommand s.cmdRidx ecode

/-- What a command has read is used up, and the command is complete. -/
def State.commandEnds (s : State) (p ecode : Nat) : State := (s.clearInbox (cmdIssue p)).complete ecode

/-- Ranges of memory that a command of a partition reads. Without their bytes yet the step ends there; a read that fails completes the command
with its cause (DESIGN CHOICE, assumption 148). -/
def State.withRanges (s : State) (p : Nat) (rs : List (Nat × Nat)) (k : State → List Byte → State) : State :=
  match s.readPieces (cmdIssue p) p (rs.flatMap (fun r => pieces r.1 r.2)) with
  | .wait s1 => s1
  | .fault c _ _ => s.commandEnds p c
  | .ok s1 bs poison => if poison then s.commandEnds p 0x4C else k s1 bs

/-! ### PCREATE and PDESTROY (R8, R70, R96, R138, R148, R153, R156, R190, R386, R411, R487) -/

/-- Units, channels, queues and lines of a set of blocks. -/
def unitsOf (blocks : BitVec 8) : List Nat := (List.range 224).filter (fun u => blocks.getLsbD (blockOfUnit u))
def coresOf (blocks : BitVec 8) : List Nat := (List.range 192).filter (fun n => blocks.getLsbD (n / 24))

/-- The translations of the dies' caches that pass a test. -/
def State.keepCached (s : State) (f : TlbEntry → Bool) : SMap (List TlbEntry) :=
  (s.dieTlb.map (fun (e : Nat × List TlbEntry) => (e.1, e.2.filter f))).filter (fun e => !e.2.isEmpty)

/-- A sequencer's thread registers at their reset values; its failed units stay failed. -/
def Seq.renew (q : Seq) : Seq := { q with threads := Vector.replicate 4 Thread.reset, cur := 0, tlb := [] }

/-- Cores' scratchpads and cell state zeroised, their granules empty. -/
def State.zeroCores (s : State) (ns : List Nat) : State :=
  { s with mem := s.mem.filter (fun c => match locate c.1 with | .scratch n _ => !ns.contains n | _ => true),
           cores := s.cores.map (fun e => if ns.contains e.1 then (e.1, { CoreArr.reset with down := e.2.down }) else e) }

/-- Lines of the blocks' stacks: tag 0, no poison, no record, and a code that fits their bytes, which stay as they stand (R156). -/
def State.freshLines (s : State) (blocks : BitVec 8) : State :=
  let mine := fun (l : Nat) => match locate (128 * l) with | .hbm b _ => blocks.getLsbD b | _ => false
  { s with lines := s.lines.map (fun e => if mine e.1 then (e.1, { e.2 with tag := 0, poison := false, srec := none }) else e),
           latent := s.latent.filter (fun e => !mine e.1), unfixable := s.unfixable.filter (fun e => !mine e.1) }

/-- What other modules have sent for units of the blocks, or for the partition's scheduler, is dropped: no later owner sees it (R7). -/
def State.dropInbox (s : State) (p : Nat) (blocks : BitVec 8) : State :=
  { s with inbox := s.inbox.filter (fun m => !(m.unit == 258 + p || (decide (m.unit < 256) && blocks.getLsbD (blockOfUnit m.unit)))) }

/-- Slices of the blocks zeroised without write-back, filter A current from now on; a lost one stays lost (R148, R386, R470, R487). -/
def State.freshSlices (s : State) (blocks : BitVec 8) : State :=
  let s1 := ((List.range 64).filter (fun i => blocks.getLsbD (i / 8))).foldl State.discard s
  { s1 with slices := (List.range 64).foldl (fun m i => if blocks.getLsbD (i / 8) then
      insertAt i { Slice.reset with swaps := s.cc / swapPeriod, lost := (s.slice i).lost } m else m) s1.slices }

/-- The channels of the blocks with a calendar, in force and as shadow, and no run. -/
def State.setCalendars (s : State) (blocks : BitVec 8) (new : Calendar) : State :=
  (chansOf blocks).foldl (fun s c => s.updChannel c (fun k => { k with cal := new, shadow := new, runs := [], runQueue := [], refreshDue := 0 })) s

/-- The calendar of a new partition: the default layout, its reset value, in which entries with an owner outside the blocks are SPARE (R8, R150,
R151, R386). -/
def Calendar.created (blocks : BitVec 8) : Calendar := ⟨if blocks = BitVec.allOnes 8 then .default else .owned blocks, []⟩

/-- The latency table, written at LATVA, whose pages programs may not write (R153). -/
def State.writeLatmap (s : State) (p latva : Nat) : State :=
  if latva = 0 then s
  else (List.range 256).foldl (fun s u =>
    let bs := (List.range 256).flatMap (fun c => leBytes 8 (s.latEntry u c))
    s.postPieces (latIssue p) p .read false (pieces (latva + 2048 * u) bs.length) bs) s

/-- The partition that PCREATE creates, before its latency table. It keeps the routes that the host has written for it (DESIGN CHOICE, assumption
112). -/
def State.created (s : State) (p : Nat) (bs : List Byte) : State :=
  let blocks : BitVec 8 := BitVec.ofNat 8 (fieldAt bs 16 1)
  let part : Partition :=
    { Partition.reset with present := true, blocks := blocks, ptbase := fieldAt bs 24 8, reserve := BitVec.ofNat 48 (fieldAt bs 32 6),
                           fqbase := fieldAt bs 40 8, hwbase := fieldAt bs 48 8, latva := fieldAt bs 56 8, gen := s.nextKey,
                           routes := (s.part p).routes }
  let s1 : State :=
    { s with
      nextKey := s.nextKey + 1,
      seqs := s.seqs.map (fun (e : Nat × Seq) => if blocks.getLsbD (blockOfUnit e.1) then (e.1, e.2.renew) else e),
      dieTlb := s.keepCached (fun t => t.part != p),
      launchQ := s.launchQ.map (fun (e : Nat × Queue) => if e.2.part = p then (e.1, Queue.reset) else e),
      copyQ := s.copyQ.map (fun (e : Nat × Queue) => if blocks.getLsbD (e.1 / 32) then (e.1, { Queue.reset with part := p }) else e),
      taskQ := s.taskQ.map (fun (e : Nat × Queue) => if blocks.getLsbD (e.1 / 4) then (e.1, { Queue.reset with part := p }) else e) }
  let s2 := ((((s1.zeroCores (coresOf blocks)).freshLines blocks).freshSlices blocks).setCalendars blocks (Calendar.created blocks)).dropInbox p blocks
  s2.setPart p part

/-- PCREATE: complete once the latency table, if there is one, is written. -/
def State.pcreate (s : State) (p : Nat) (bs : List Byte) : State :=
  let latva := fieldAt bs 56 8
  if s.started then (if s.issuing (latIssue p) then s else s.complete 0)
  else if latva = 0 then (s.created p bs).complete 0
  else ((s.created p bs).writeLatmap p latva).start 1 p 0 []

/-- The record of a launch that a command or a failed unit ends. -/
def State.endWith (s : State) (l : Launch) (cause : Nat) : State := if l.cause.isSome then s else s.failLaunch (schedRec l cause 0 0)

/-- Step 1 of PDESTROY: every launch, task and copy of the partition ends, and no queue of it is served. -/
def State.endPartition (s : State) (p : Nat) : State :=
  let off := fun (m : SMap Queue) => m.map (fun (e : Nat × Queue) => if e.2.part = p then (e.1, { e.2 with en := false, origins := [] }) else e)
  let s1 := (s.launches.filter (fun l => l.part == p)).foldl (fun s l => s.endWith l 5) s
  let s2 := (s1.tasks.filter (fun k => k.part == p && k.launch.isNone)).foldl (fun s k => s.failTask k.id 5) s1
  { s2 with copies := s2.copies.map (fun c => if c.part = p && c.launch.isNone then { c with stopped := true, parked := false, ecode := 5 } else c),
            launchQ := off s2.launchQ, copyQ := off s2.copyQ, taskQ := off s2.taskQ, parts := s2.parts.map (fun e =>
              if e.1 = p then (e.1, { e.2 with destroying := true }) else e) }

/-- Nothing of the partition runs any more. -/
def State.partitionQuiet (s : State) (p : Nat) : Bool :=
  s.launches.all (fun l => l.part != p) && s.tasks.all (fun k => k.part != p) && s.copies.all (fun c => c.part != p) &&
  s.appends.all (fun a => a.part != p) && s.faults.all (fun r => r.part != p) && s.reqs.all (fun r => r.part != p)

/-- Steps 3 to 5 of PDESTROY. -/
def State.clearPartition (s : State) (p : Nat) : State :=
  let b := (s.part p).blocks
  let s1 := (((s.zeroCores (coresOf b)).freshSlices b).setCalendars b ⟨.free, []⟩).dropInbox p b
  { s1 with keys := s1.keys.map (fun (e : Nat × KeySlot) => if e.2.bound = some p then (e.1, { e.2 with bound := none, key := 0 }) else e),
            seqs := s1.seqs.map (fun (e : Nat × Seq) => if b.getLsbD (blockOfUnit e.1) then (e.1, e.2.renew) else e),
            dieTlb := s1.keepCached (fun t => t.part != p),
            entries := s1.entries.filter (fun (e : QueueEntry) => e.part != p), copybooks := s1.copybooks.filter (fun (c : Copybook) => c.part != p),
            recordings := s1.recordings.filter (fun (c : Recording) => c.part != p) }.setPart p
    { Partition.reset with routes := (s.part p).routes }

/-- PDESTROY. -/
def State.pdestroy (s : State) (p : Nat) : State :=
  if !s.started then (s.endPartition p).start 2 p 0 []
  else if s.partitionQuiet p then (s.clearPartition p).complete 0 else s

/-! ### SETCAL (R154, R467) -/

/-- An entry of a reserved kind or with an owner outside the partition. -/
def State.badEntry (s : State) (p : Nat) (e : BitVec 16) : Bool :=
  let k := calKind e
  let o := calOwner e
  let own := fun (lo hi : Nat) => lo ≤ o && o < hi && s.owns p (blockOfUnit o)
  decide (7 < k) || e.extractLsb' 9 3 != 0 || (k == kindCORE && !own 0 192) || (k == kindQUILL && !own 192 224) ||
  (k == kindLINK && !own 240 256) || (k == kindBULK && decide (8 ≤ o)) || (!(k == kindCORE || k == kindQUILL || k == kindLINK || k == kindBULK) && o != 0)

/-- A bulk run that is not 4 consecutive slots; a run with no slots is allowed. -/
def badRun (c : Calendar) (ch run : Nat) : Bool :=
  let ns := slotsHolding c ch (calEntryOf kindBULK run)
  !ns.isEmpty && !(ns.length == 4 && ns.any (fun n => [1, 2, 3].all (fun i => ns.contains ((n + i) % 320))))

/-- The shadow of a channel may not be committed. -/
def State.badShadow (s : State) (p ch : Nat) : Bool :=
  let new := (s.channel ch).shadow
  let es := (List.range 320).map (new.entry ch)
  let fixed := fun (k : Nat) => (List.range 320).any (fun n => (calKind (new.entry ch n) == k) != (calKind (s.calEntry ch n) == k))
  es.any (s.badEntry p) || fixed kindMAINT || fixed kindHOST || (List.range 8).any (badRun new ch) ||
  (unitsOf (s.part p).blocks).any (fun u => !(s.seq u).retired && !es.contains (calEntryOf (if isQuill u then kindQUILL else kindCORE) u))

/-- SETCAL: the shadow is checked, and takes effect at the next rotation boundary. -/
def State.setcal (s : State) (p : Nat) : State :=
  if s.started then s
  else if (chansOf (s.part p).blocks).any (s.badShadow p) then s.complete 0x60
  else (s.updPart p (fun k => { k with pendingCal := some ((chansOf k.blocks).map (fun c => (c, (s.channel c).shadow))) })).start 3 p 0 []

/-- LAYOUT_TAKES_EFFECT: at the rotation boundary all channels of the partition have the new layout. -/
def State.layoutTakesEffect (s : State) (p : Nat) : State :=
  match (s.part p).pendingCal with
  | none => s
  | some m =>
    let s1 := s.ccTo ((s.cc + 319) / 320 * 320)
    let s2 := m.foldl (fun s e => s.updChannel e.1 (fun c => { c with cal := e.2 })) s1
    let s3 := s2.updPart p (fun k => { k with pendingCal := none })
    match s3.commands.find? (fun c => c.op == 3 && c.part == p) with
    | some c => s3.finishCommand c.idx 0
    | none => s3

/-! ### SETRES and SHOOT (R86, R131, R388) -/

/-- SETRES. -/
def State.setres (s : State) (p : Nat) (bs : List Byte) : State :=
  (s.updPart p (fun k => { k with reserve := BitVec.ofNat 48 (fieldAt bs 16 6) })).complete 0

/-- A tensor of an open stream whose header, elements or arrays lie in a range of addresses. -/
def StreamEnd.touches (e : StreamEnd) (inside : Nat → Nat → Bool) : Bool :=
  inside e.hdrVa 64 || e.hdr.any (fun h =>
    let t := h.tensor e.form.fmt
    inside h.base (extentBytes t false 0) || (h.bm && inside h.base (extentBytes t true h.bmcap)) || inside h.scale (t.rows * t.cols) ||
    inside h.tail (t.rows * t.cols) || inside h.amax 8)

/-- An open stream of a core reaches into a range of addresses. -/
def CoreArr.touches (k : CoreArr) (inside : Nat → Nat → Bool) : Bool :=
  [k.west, k.north, k.east, k.south].any (fun u => u.streams.any (fun m => m.fst.touches inside || m.snd.touches inside))

/-- Accesses of the partition to the range that were translated and have not taken their instants: requests here, on their way to other modules,
of the host behind others, and of saved cores; the streams of edge units, landings, and the status words, wells and records whose
places are held (R131, R388). -/
def State.oldAccesses (s : State) (p va n : Nat) : Bool :=
  let inside := fun (a k : Nat) => decide (a < va + n) && decide (va < a + k)
  let mine := fun (r : Req) => r.part == p && (match r.status with | .served _ _ => false | _ => true) && inside r.va r.size
  s.reqs.any mine || s.host.any (fun a => a.todo.any (fun e => match e.2 with | .mem r => mine r | _ => false)) ||
  s.saved.any (fun c => c.waits.any mine || ((s.gangOf c.gang).any (fun g => g.part == p) && c.arr.touches inside)) ||
  s.copies.any (fun c => c.part == p && (c.landings.any (fun l => inside l.va l.bytes.length) || (c.stat.isSome && inside c.statVa 8) ||
    (c.well.isSome && inside c.wellVa 128))) ||
  s.tasks.any (fun k => k.part == p && k.stat.isSome && inside k.statVa 8) ||
  s.launches.any (fun l => l.part == p && l.doneAt.isSome && inside l.doneVa 64) ||
  s.cores.any (fun c => s.owns p (c.1 / 24) && c.2.touches inside)

/-- A line that a launch has registered for a dependency entry in the range is looked up again (R72). -/
def Launch.forget (l : Launch) (p : Nat) (inside : Nat → Bool) : Launch :=
  if l.part ≠ p then l
  else { l with dep0At := if inside (depVa (l.entry 0)) then none else l.dep0At, dep1At := if inside (depVa (l.entry 1)) then none else l.dep1At }

/-- A line that is registered for a queue's slot in the range is looked up again (R68). -/
def Queue.forget (q : Queue) (p : Nat) (inside : Nat → Bool) : Queue :=
  if q.part = p && inside (q.slotVa 4096) then { q with line := none } else q

/-- SHOOT: no translation of the range is kept; complete once accesses that used one have taken their instants. -/
def State.shoot (s : State) (p : Nat) (bs : List Byte) : State :=
  let va := fieldAt bs 16 8
  let n := fieldAt bs 24 8
  let keep := fun (t : TlbEntry) => !(t.part == p && decide (t.vbase < va + n) && decide (va < t.vbase + t.size))
  let s1 := { s with seqs := s.seqs.map (fun (e : Nat × Seq) => (e.1, { e.2 with tlb := e.2.tlb.filter keep })), dieTlb := s.keepCached keep,
                     launches := s.launches.map (fun l => l.forget p (fun a => decide (a < va + n) && decide (va < a + 4))),
                     launchQ := s.launchQ.map (fun e => (e.1, e.2.forget p (fun a => decide (a < va + n) && decide (va < a + 64)))) }
  if s1.oldAccesses p va n then s1 else s1.complete 0

/-! ### SWITCH, CONTEXT_SAVE and RESUME (R87 to R91, R342, R421, R423, R444, R474, R475) -/

/-- The launch that QUEUE and LWIDX name. -/
def State.namedLaunch (s : State) (p : Nat) (bs : List Byte) : Option Launch :=
  s.launches.find? (fun l => l.part == p && l.queue == fieldAt bs 16 1 % 64 && l.lwidx.toNat == fieldAt bs 20 4)

/-- A switch of some gangs is over: each is saved or has ended. -/
def State.switchOver (s : State) (gs : List Nat) : Bool :=
  gs.all (fun g => match s.gangOf g with
    | none => true
    | some k => k.ending || (match k.place with | .saved _ => true | _ => false))

/-- SWITCH: the launch's resident gangs stop, and each core saves itself at CONTEXT_SAVE. -/
def State.switchOut (s : State) (p : Nat) (bs : List Byte) : State :=
  match s.commands.find? (fun c => c.idx == s.cmdRidx) with
  | some c =>
    if s.switchOver c.gangs then
      s.complete (if c.failed then 6 else 0)
    else s
  | none =>
    match s.namedLaunch p bs with
    | none => s.complete 0
    | some l =>
      let evict := bitsOf (fieldAt bs 24 1) 0 0 == 1
      let save := fieldAt bs 32 8
      let gs := s.gangs.filter (fun g => g.launch == l.id && !g.ending && decide (g.place = .resident))
      let s1 := gs.foldl (fun s g => (List.range g.cores.length).foldl (fun s k =>
        s.updCore (g.cores.getD k 0) (fun a => { a with saving := some (evict, save + 0x300000 * k) }))
        (s.updGang g.id (fun x => { x with place := .switching evict }))) s
      { s1 with commands := s1.commands ++ [⟨s.cmdRidx, 6, p, l.id, gs.map (fun g => g.id), l.cause.isSome && !gs.isEmpty⟩] }

/-- A core that writes its save area, as an issuer. -/
def saveIssue (n : Nat) : Issue := ⟨n, 24, .none, 0, 15, 0⟩

/-- The core memory of the EVICT depth (R87). -/
def State.saveMemory (s : State) (p n base : Nat) : State :=
  let k := s.core n
  ([(0xA0000, k.storeBytes), (0xE0000, memRead s.mem (scratchPa n 0) 0x200000), (0x2E0000, k.granuleBytes), (0x2E4000, k.tagBytes),
    (0x2E6000, k.fmtBytes)] : List (Nat × List Byte)).foldl (fun s e => s.post (saveIssue n) p (base + e.1) e.2) s

/-- The core context of either depth, with the threads that have not executed EXIT (R87, R88). -/
def State.saveContext (s : State) (p n base : Nat) : State :=
  let k := s.core n
  let ts := ((List.range 4).filter (fun t => (s.thread n t).status == .run)).map (fun t => (512 * t, (s.thread n t).saved))
  let rest : List (Nat × List Byte) :=
    [(0x800, s.seqRecord n), (0x1000, k.edgeRecord), (0x1400, k.strokeRecord), (0x1500, (List.range 256).flatMap (fun c => (k.cell c).saved))]
  (ts ++ rest).foldl (fun s e => s.post (saveIssue n) p (base + e.1) e.2) s

/-- The flag bytes of the threads that are saved stand in the save area; what is set while they are is observed after resumption (R88). -/
def State.flagsSaved (s : State) (n : Nat) : State :=
  ((List.range 4).filter (fun t => (s.thread n t).status == .run)).foldl (fun s t => s.updThread n t (fun th => { th with flags := th.flags &&& 0x7F00 })) s

/-- The wave of a gang has drained: no instruction is on its way through the grid. -/
def State.gangDrained (s : State) (g : Gang) : Bool := g.cores.all (fun n => (s.core n).drained)

/-- Accesses of the gang's tasks that have not been acknowledged (R89). -/
def State.taskWrites (s : State) (g : Nat) : Bool :=
  s.tasks.any (fun k => decide (k.gang = some g) && k.threads.any (fun t => !(s.writesOut (192 + k.quill) t).isEmpty))

/-- Copies in flight that reach a core's scratchpad, or may, landings in it, and other units' writes to it: EVICT waits for them (R89). A copy that
a fault holds stopped is waited for only as far as its accesses are issued (R422). -/
def State.landingsTo (s : State) (n : Nat) : Bool :=
  s.copies.any (fun c => (!c.stopped && !c.finished && s.copyRuns c && s.copyTouches c (fun m => m == n)) ||
    c.landings.any (fun l => s.inPad n ⟨l.pa, l.cls, l.kslot⟩)) ||
  s.reqs.any (fun r => r.op.isWrite && s.inPad n ⟨r.pa, r.cls, r.kslot⟩)

/-- Loads of a core that wait for granules. -/
def waitsAt (s : State) (n : Nat) : List Req :=
  s.reqs.filter (fun r => r.by_.unit == n && r.status == .retry)

/-- A core may be saved: its accesses have finished, loads that wait for granules apart, and its writers' buffers are empty; at EVICT depth its
appends, its threads' ends and what lands in its scratchpad too (R88, R89). -/
def State.coreSettled (s : State) (n : Nat) (evict : Bool) : Bool :=
  s.reqs.all (fun r => r.by_.unit != n || r.status == .retry) && (s.core n).east.buffer.isEmpty && (s.core n).south.buffer.isEmpty &&
  (!evict || (s.appends.all (fun a => a.by_.unit != n) && (List.range 4).all (fun t => (s.thread n t).status != .exiting && (s.thread n t).status != .dropping) &&
    !s.landingsTo n))

/-- The core's state has moved to the save area, and the core is free (R91). -/
def State.evictCore (s : State) (g : Gang) (n base : Nat) : State :=
  let k := s.core n
  let saved : SavedCore := { gang := g.id, rank := k.rank, base := base, threads := (s.seq n).threads, arr := k, waits := waitsAt s n }
  let s2 := { s with saved := s.saved ++ [saved], reqs := s.reqs.filter (fun (r : Req) => !(r.by_.unit == n && r.status == ReqStatus.retry)) }
  (s2.clearThreads n (List.range 4)).updCore n (fun a =>
    { a with gang := none, saving := none, saveOut := false, nib := [], stroke := none, progDue := none, wflgs := [], west := { a.west with streams := [] },
             north := { a.north with streams := [] }, east := { a.east with streams := [] }, south := { a.south with streams := [] } })

/-- Every core of a gang has been saved. -/
def State.gangSaved (s : State) (g : Gang) (evict : Bool) : State :=
  if g.cores.all (fun n => (s.core n).saving.isNone) then
    { s.updGang g.id (fun x => { x with place := .saved evict }) with tasks := s.tasks.map (fun k => if k.gang = some g.id then { k with go := false } else k) }
  else s

/-- Every thread of a gang has executed EXIT: the gang ends, and is not saved (R88). -/
def State.gangExits (s : State) (g : Gang) : Bool :=
  g.cores.all (fun n => (List.range (g.tpc + 1)).all (fun t => (s.thread n t).status != .run))

/-- CONTEXT_SAVE: a core of a gang that is switched out has stopped, and its context, at EVICT depth its memory too, goes to its save area; once
the writes are acknowledged the core is saved (R87 to R91). -/
def State.contextSave (s : State) (n : Nat) : State :=
  match (s.core n).saving, (s.core n).gang.bind s.gangOf with
  | some (evict, base), some g =>
    if s.launchFailed (some g.launch) || s.gangExits g then s
    else if (s.core n).saveOut then
      if s.issuing (saveIssue n) then s
      else (if evict then s.evictCore g n base else s.updCore n (fun k => { k with saving := none, saveOut := false })).gangSaved g evict
    else if !s.gangDrained g || s.taskWrites g.id || !s.coreSettled n evict then s
    else
      let s1 := s.saveContext g.part n base
      ((if evict then s1.saveMemory g.part n base else s1).flagsSaved n).updCore n (fun k => { k with saveOut := true })
  | _, _ => s

/-- A stroke as a saved record gives it, or why the record is invalid: 0 its opcode, 1 PROG above 64, 2 its operand fields (R425, R444,
R474). -/
def strokeFrom (old : Stroke) (bs : List Byte) : Except Nat Stroke :=
  let w : SlotWord := BitVec.ofNat 32 (fieldAt bs 0 4)
  let prog := bitsOf (fieldAt bs 4 4) 6 0
  let op := w.extractLsb' 20 7
  if slotClass w ≠ 6 || op < 0x40 || 0x43 < op then .error 0
  else if 64 < prog then .error 1
  else match decodeSlot w [] with
    | .ok i =>
      if i.reservedKind.isSome then .error 2
      else .ok { old with
        instr := i, word := w, prog := prog, maxA := BitVec.ofNat 32 (fieldAt bs 80 4), maxU := BitVec.ofNat 32 (fieldAt bs 84 4),
        failed := bitsOf (fieldAt bs 88 4) 0 0 == 1 }
    | .error _ => .error 2

/-- The stroke of a core whose saved record is ACTIVE is set up from the record; an invalid record ends the launch with 0x29. -/
def State.restoreStroke (s : State) (g : Gang) (n : Nat) (bs : List Byte) : State :=
  if bitsOf (fieldAt bs 4 4) 31 31 = 0 then s.updCore n (fun k => { k with stroke := k.stroke.filter (fun t => !t.begun) })
  else
    let fresh : Stroke := { instr := .wdrain, by_ := ⟨n, 0, .gang g.id, 0, 6, 0⟩, word := 0, wid := 0, prog := 0, maxA := 0, maxU := 0,
                            failed := false, event := false, begun := true, due := none }
    let old := (s.core n).stroke.getD fresh
    match strokeFrom old bs with
    | .error why =>
      let i := old.by_
      (s.updCore n (fun k => { k with stroke := none })).fail { i with unit := n, owner := .gang g.id } 0x29 0 (BitVec.ofNat 32 why)
    | .ok t =>
      s.updCore n (fun k =>
        { k with stroke := some t, prog := BitVec.ofNat 64 t.prog, pv := Vector.ofFn (fun (j : Fin 8) => BitVec.ofNat 64 (fieldAt bs (8 + 8 * j) 8)),
                 pivstat := BitVec.ofNat 32 (fieldAt bs 72 4) &&& 0x00FFFFF0, growth := BitVec.ofNat 32 (fieldAt bs 76 4) })

/-- The context of a core from its save area: the threads that were saved, the sequencer, the edge units, the stroke and the cells (R87, R91). -/
def State.restoreContext (s : State) (g : Gang) (n : Nat) (area : List Byte) : State :=
  let seq := bytesAt area 0x800 2048
  let cs := area.drop 0x1500
  let s1 := (List.range 4).foldl (fun s t =>
    if (s.thread n t).status = .run then
      s.updThread n t (fun th => (th.restored (bytesAt area (512 * t) 512)).loopRestored t seq) else s) s
  (s1.updCore n (fun k => { (k.nibRestored seq).edgesRestored (bytesAt area 0x1000 1024) with
    cells := (List.range 256).foldl (fun m c => insertAt c ((k.cell c).restored (bytesAt cs (2432 * c) 2432)) m) k.cells })).restoreStroke g n
      (bytesAt area 0x1400 256)

/-- An evicted core comes back: its memory from the save area, and what the device's record holds of it (R87, R91). -/
def State.restoreCore (s : State) (g : Gang) (c : SavedCore) (area : List Byte) : State :=
  let n := g.coreOf c.rank
  let at_ := fun (o k : Nat) => bytesAt area o k
  let s1 := { s with mem := memWrite (memClear s.mem (scratchPa n 0) 0x200000) (scratchPa n 0) (at_ 0xE0000 0x200000), reqs := s.reqs ++ c.waits }
  let s2 := s1.setSeq n { s1.seq n with threads := c.threads }
  s2.setCore n { c.arr.memoryFrom (at_ 0xA0000 0x40000) (at_ 0x2E0000 16384) (at_ 0x2E4000 8192) (at_ 0x2E6000 64) with
    saving := none, saveOut := false, down := (s2.core n).down }

/-- Bytes of a core's save area, and the areas of a gang's cores (R87, R475). -/
def Gang.areaSize (g : Gang) : Nat := if g.place = .saved true then 0x2E6040 else 0x99500
def Gang.areas (g : Gang) (save : Nat) : List (Nat × Nat) := (List.range g.cores.length).map (fun k => (save + 0x300000 * k, g.areaSize))

/-- A gang of the launch comes back with what its cores' areas hold (R91, R421). -/
def State.restoreGang (s : State) (g : Gang) (bs : List Byte) : State :=
  let area := fun (k : Nat) => bytesAt bs (g.areaSize * k) g.areaSize
  let cs := s.saved.filter (fun c => c.gang == g.id)
  let s1 := cs.foldl (fun s c => s.restoreCore g c (area c.rank)) { s with saved := s.saved.filter (fun c => c.gang != g.id) }
  let s2 := s1.updGang g.id (fun x => { x with place := .resident })
  (List.range g.cores.length).foldl (fun s k => s.restoreContext g (g.coreOf k) (area k)) s2

/-- RESUME: the launch's saved gangs come back to their cores once those are free, and run at one clock (R25). -/
def State.resumeGangs (s : State) (p : Nat) (bs : List Byte) : State :=
  match s.namedLaunch p bs with
  | none => s.commandEnds p 0
  | some l =>
    let gs := s.gangs.filter (fun g => g.launch == l.id && !g.ending && (match g.place with | .saved _ => true | _ => false))
    let free := fun (g : Gang) => decide (g.place = .saved false) ||
      (g.cores.all (fun n => (s.core n).gang.isNone && s.coreEnabled p n) && s.oneClock g.cores)
    if l.cause.isSome then s.commandEnds p 0
    else if gs.all free then
      s.withRanges p (gs.flatMap (fun g => g.areas (fieldAt bs 32 8))) (fun s bs =>
        ((gs.foldl (fun (a : State × List Byte) g => (a.1.restoreGang g a.2, a.2.drop (g.areaSize * g.cores.length))) (s, bs)).1).commandEnds p 0)
    else s

/-! ### REPAIR and KEYDROP (R14, R219, R388, R482) -/

/-- The spare core takes a core's number; with the spare in use already, the failed core stays retired. -/
def State.repairCore (s : State) (n : Nat) : State :=
  let b := n / 24
  if s.sparesUsed.getLsbD b then ((s.setSeq n { s.seq n with retired := true }).spareEntries n)
  else
    let s1 := { (s.zeroCores [n]).setSeq n (Seq.reset n) with sparesUsed := s.sparesUsed ||| (1#8 <<< b) }
    s1.updCore n (fun k => { k with down := false })

/-- REPAIR: once no gang is resident on the core. -/
def State.repair (s : State) (p : Nat) (bs : List Byte) : State :=
  let n := fieldAt bs 16 1
  if (s.core n).gang.isSome then (if s.started then s else s.start 8 p n [])
  else (s.repairCore n).complete 0

/-- KEYDROP: the slot's lines leave the slices, dirty ones written back, and the slot is unbound and zeroised. -/
def State.keydrop (s : State) (p : Nat) (bs : List Byte) : State :=
  let k := fieldAt bs 16 1 % 64
  let gen := (s.keySlot k).gen
  let drop := fun (c : CacheSet) => { c with ways := c.ways.map (fun (e : Nat × Option Way) => (e.1, e.2.bind (fun w => if w.key = .slot k gen then none else some w))) }
  let dirty := (s.slices.flatMap (fun (e : Nat × Slice) => e.2.held)).filter (fun w => decide (w.key = .slot k gen) && w.dirty)
  let s0 := dirty.foldl (fun (s : State) w => s.writtenBack w.line) s
  let s1 := { s0 with slices := s.slices.map (fun (e : Nat × Slice) => (e.1, { e.2 with sets := e.2.sets.map (fun (c : Nat × CacheSet) => (c.1, drop c.2)) })),
                      keys := insertAt k ⟨none, 0, gen⟩ s.keys }
  (if (s1.part p).linkGen = some gen then s1.updPart p (fun x => { x with linkGen := none }) else s1).complete 0

/-! ### RECORD and REPLAY (R398 to R401, R488, R489) -/

/-- An address is HBM of the partition. -/
def State.inOwnHbm (s : State) (p va : Nat) : Bool :=
  match s.translate p (258 + p) va .read with
  | .ok g => s.isLocal g && s.ownHbm p (localOf g.pa) 1
  | .error _ => false

/-- A witness line: its address and its line here. -/
def State.witnessLine (s : State) (p va : Nat) : Nat × Nat :=
  match s.translate p (258 + p) va .read with
  | .ok g => (va, if s.isLocal g then lineOf (localOf g.pa) else 2 ^ 60)
  | .error _ => (va, 2 ^ 60)

/-- Parts of a witness list's header, and whether it is one that RECORD takes (R399, R489). -/
def listRegions (h : List Byte) : Nat := bitsOf (fieldAt h 0 4) 12 8
def listLines (h : List Byte) : Nat := bitsOf (fieldAt h 0 4) 6 0
def badList (h : List Byte) : Bool :=
  16 < listRegions h || 64 < listLines h || bitsOf (fieldAt h 0 4) 31 13 ≠ 0 || bitsOf (fieldAt h 0 4) 7 7 ≠ 0 || fieldAt h 4 4 ≠ 0 || fieldAt h 32 32 ≠ 0

/-- The copybook that a witness list describes: its header, and its entries. -/
def State.newBook (s : State) (p queue base : Nat) (h es : List Byte) : Copybook :=
  let ni := listRegions h
  let nw := listLines h
  { part := p, queue := queue, base := base, regions := (List.range ni).map (fun i => (fieldAt es (16 * i) 8, fieldAt es (16 * i + 8) 8)),
    digests := none, ni := ni, nw := nw, maxiter := fieldAt h 8 8, maxflit := fieldAt h 16 8, maxwacc := fieldAt h 24 8,
    wlines := (List.range nw).map (fun w => s.witnessLine p (fieldAt es (16 * ni + 8 * w) 8)),
    launch := none, niter := 0, nflit := 0, nwacc := 0, flitIdx := 0, ovf := false, counts := [], replay := false, inputs := [], cores := [],
    accesses := [], lwidx := none, lineDone := [], held := [], diverged := false, command := s.cmdRidx, flits := [] }

/-- RECORD arms the copybook of the queue's next launch. -/
def State.record (s : State) (p : Nat) (bs : List Byte) : State :=
  let q := fieldAt bs 16 1 % 64
  let base := fieldAt bs 24 8
  let wl := fieldAt bs 32 8
  if base % 4096 ≠ 0 || !s.inOwnHbm p base || wl % 64 ≠ 0 then s.commandEnds p 0x58
  else s.withRanges p [(wl, 64)] (fun s h =>
    if badList h then s.commandEnds p 0x58
    else s.withRanges p [(wl + 64, 16 * listRegions h + 8 * listLines h)] (fun s es =>
      let armed := fun (k : Copybook) => k.part == p && k.queue == q && !k.replay && k.launch.isNone
      ({ s with copybooks := s.copybooks.filter (fun k => !armed k) ++ [s.newBook p q base h es] } : State).commandEnds p 0))

/-- The latest recording at an address. -/
def State.recordingAt (s : State) (p base : Nat) : Option Recording := (s.recordings.filter (fun k => k.part == p && k.base == base)).getLast?

/-- The flit of a record: the one that the device remembers with these bytes, or a free one (DESIGN CHOICE, assumption 65). -/
def recordedFlit (r : Option Recording) (bs : List Byte) : Flit :=
  (((r.map (fun k => k.flits)).getD []).find? (fun f => flitBytes f == bs)).getD (Config.flitFrom bs)

/-- Where the regions of a copybook begin, from its header: iterations, flits, witness accesses, each with its length (R400). -/
def bookRegions (base : Nat) (h : List Byte) : List (Nat × Nat) :=
  let flits := base + 2048 + 208 * fieldAt h 96 8
  [(base + 2048, 208 * fieldAt h 72 8), (flits, 272 * fieldAt h 80 8), (flits + 272 * fieldAt h 104 8, 16 * fieldAt h 88 8)]

/-- The copybook that REPLAY reads: its header and its regions one after another (R400, R401). Its input regions are those of the latest recording
at its address; where the device remembers none they are free (DESIGN CHOICE, assumption 65). -/
def State.replayBook (s : State) (p queue base : Nat) (h rs : List Byte) : Copybook :=
  let r := s.recordingAt p base
  let ni := listRegions (h.drop 68)
  let nw := listLines (h.drop 68)
  let niter := fieldAt h 72 8
  let nflit := fieldAt h 80 8
  let fl := rs.drop (208 * niter)
  { part := p, queue := queue, base := base, ni := ni, nw := nw,
    regions := (List.range ni).map (fun i => ((r.bind (fun k => k.regions[i]?)).getD (Config.lostRegion base i))), digests := none,
    maxiter := fieldAt h 96 8, maxflit := fieldAt h 104 8, maxwacc := fieldAt h 112 8,
    wlines := (List.range nw).map (fun w => s.witnessLine p (fieldAt h (1152 + 8 * w) 8)),
    launch := none, niter := niter, nflit := nflit, nwacc := fieldAt h 88 8, flitIdx := 0, ovf := false, counts := [],
    replay := true, inputs := (List.range ni).map (fun i => bytesAt h (128 + 64 * i) 64),
    cores := (List.range niter).map (fun i => ((bytesAt rs (208 * i + 8) 192).map BitVec.toNat).filter (fun n => n != 255)),
    accesses := recordedAccesses (fl.drop (272 * nflit)) (fieldAt h 88 8), lwidx := none, lineDone := [], held := [], diverged := false,
    command := s.cmdRidx,
    flits := (List.range nflit).map (fun i => (fieldAt fl (272 * i) 1 % 16, recordedFlit r (bytesAt fl (272 * i + 16) 256))) }

/-- REPLAY claims a slot of the queue's ring for the recorded packet (R68, R401). -/
def State.replayClaim (s : State) (q : Queue) (c : Copybook) : State :=
  match s.translate q.part (258 + q.part) q.widx.toNat .atomic with
  | .error e => s.commandEnds q.part e.cause
  | .ok g =>
    let s1 := ({ s.clearInbox (cmdIssue q.part) with copybooks := s.copybooks ++ [c] } : State).start 11 q.part c.queue []
    s1.submit (lineReq s1 (postIssue q.part) q.part q.widx.toNat 4 g (.amo .add 1 0 0))

/-- The packet goes into the slot that was claimed, once that is free. -/
def State.replayPost (s : State) (q : Queue) (c : Copybook) (pkt : List Byte) : State :=
  let i := postIssue q.part
  match s.inbox.find? (fun m => m.unit == i.unit && m.thr == i.thr) with
  | none => s
  | some m =>
    let wi : BitVec 32 := BitVec.ofNat 32 (leNat m.bytes)
    let slot := q.ring.toNat + 64 * (wi.toNat % 4096)
    if m.cause ≠ 0 then ({ s.clearInbox i with copybooks := s.copybooks.filter (fun k => k != c) } : State).commandEnds q.part m.cause
    else if 4096 ≤ (wi - q.ridx).toNat then s
    else ((((s.clearInbox i).updCopybook c (fun k => { k with lwidx := some wi })).post i q.part (slot + 4) (bytesAt pkt 4 60)).postLast i q.part slot
      (leBytes 4 (wi.toNat / 4096 % 65536 * 65536 + 256))).clearInbox (cmdIssue q.part)

/-- REPLAY posts the recorded packet, once the ring has room; its launch runs under the copybook, and completes the command. -/
def State.replay (s : State) (p : Nat) (bs : List Byte) : State :=
  let n := fieldAt bs 16 1 % 64
  let base := fieldAt bs 24 8
  let q := s.launchQueue n
  match s.copybooks.find? (fun c => c.replay && c.command == s.cmdRidx) with
  | some c => if c.lwidx.isSome then s else s.withRanges p [(base, 64)] (fun s pkt => s.replayPost q c pkt)
  | none =>
    if s.started then s
    else if !q.en || q.part ≠ p then s.commandEnds p 0x58
    else s.withRanges p [(base, 2048)] (fun s h =>
      if bitsOf (fieldAt h 64 4) 1 0 ≠ 1 then s.commandEnds p 0x58
      else s.withRanges p (bookRegions base h) (fun s rs => s.replayClaim q (s.replayBook p n base h rs)))

/-! ### UPDATE (R388, R393, R397, R484) -/

/-- The islands of a mask. -/
def islandsIn (mask : Nat) : List Nat := (List.range 64).filter (fun i => bitsOf mask i i == 1)

/-- No gang is resident on the cores of an island, and no task on its quill cores. -/
def State.islandQuiet (s : State) (i : Nat) : Bool :=
  (List.range 224).all (fun u => islandOfUnit u ≠ i ||
    ((if isCore u then (s.core u).gang.isNone else true) && (s.seq u).vacant))

/-- The new image is in force on an island if its self-test passes there. -/
def State.switchBank (s : State) (img : List Byte) (i : Nat) : State :=
  if !Config.selfTestPasses i img then s.updIsland i (fun k => { k with updating := false })
  else
    let s1 := s.updIsland i (fun k => { k with bankB := !k.bankB, updating := false })
    if i % 8 = 7 then { s1 with extends3 := s1.extends3 ++ [img] } else { s1 with extends4 := s1.extends4 ++ [img] }

/-- UPDATE: the image is written to the inactive banks and verified; the banks come into force when the islands are quiet. -/
def State.update (s : State) (p : Nat) (bs : List Byte) : State :=
  let is := islandsIn (fieldAt bs 16 8)
  if !s.started then
    s.withRanges p [(fieldAt bs 24 8, fieldAt bs 32 4)] (fun s img =>
      let s1 := is.foldl (fun s i => s.updIsland i (fun k =>
        { k with updating := k.updating || Config.imageVerifies img, imageA := if k.bankB then img else k.imageA,
                 imageB := if k.bankB then k.imageB else img })) s
      if Config.imageVerifies img then (s1.clearInbox (cmdIssue p)).start 12 p 0 [] else s1.commandEnds p 0x83)
  else if is.all s.islandQuiet then
    let loaded := fun (i : Nat) => if (s.island i).bankB then (s.island i).imageA else (s.island i).imageB
    (is.foldl (fun s i => s.switchBank (loaded i) i) s).complete (if is.all (fun i => Config.selfTestPasses i (loaded i)) then 0 else 0x83)
  else s

/-! ### As device steps -/

/-- PCREATE. -/
def execPcreate (s : State) : Result := .next ((s.commandStep 1 (fun s p bs => s.pcreate p bs)).unblock)
/-- PDESTROY. -/
def execPdestroy (s : State) : Result := .next ((s.commandStep 2 (fun s p _ => s.pdestroy p)).unblock)
/-- SETCAL. -/
def execSetcal (s : State) : Result := .next ((s.commandStep 3 (fun s p _ => s.setcal p)).unblock)
/-- SETRES. -/
def execSetres (s : State) : Result := .next ((s.commandStep 4 (fun s p bs => s.setres p bs)).unblock)
/-- SHOOT. -/
def execShoot (s : State) : Result := .next ((s.commandStep 5 (fun s p bs => s.shoot p bs)).unblock)
/-- SWITCH. -/
def execSwitch (s : State) : Result := .next ((s.commandStep 6 (fun s p bs => s.switchOut p bs)).unblock)
/-- RESUME. -/
def execResume (s : State) : Result := .next ((s.commandStep 7 (fun s p bs => s.resumeGangs p bs)).unblock)
/-- REPAIR. -/
def execRepair (s : State) : Result := .next ((s.commandStep 8 (fun s p bs => s.repair p bs)).unblock)
/-- KEYDROP. -/
def execKeydrop (s : State) : Result := .next ((s.commandStep 9 (fun s p bs => s.keydrop p bs)).unblock)
/-- RECORD. -/
def execRecord (s : State) : Result := .next ((s.commandStep 10 (fun s p bs => s.record p bs)).unblock)
/-- REPLAY. -/
def execReplay (s : State) : Result := .next ((s.commandStep 11 (fun s p bs => s.replay p bs)).unblock)
/-- UPDATE. -/
def execUpdate (s : State) : Result := .next ((s.commandStep 12 (fun s p bs => s.update p bs)).unblock)
/-- LAYOUT_TAKES_EFFECT. -/
def execLayoutTakesEffect (p : Fin 8) (s : State) : Result := .next ((s.layoutTakesEffect p).unblock)
/-- CONTEXT_SAVE. -/
def execContextSave (c : Fin 192) (s : State) : Result := .next ((s.contextSave c).unblock)

end Sys2Proof.Machine
end

