-- ==== Sys2Proof/Machine/Integer.lean ====
section
/-! DEFINITION. The A class: integer and predicate instructions (R237 to R243). -/

namespace Sys2Proof.Machine

/-! ### The operations -/

/-- High 64 bits of the signed product (R237). -/
def mulHigh (a b : Word) : Word := ((a.signExtend 128 * b.signExtend 128).extractLsb' 64 64)
/-- High 64 bits of the unsigned product. -/
def mulHighU (a b : Word) : Word := ((a.setWidth 128 * b.setWidth 128).extractLsb' 64 64)
/-- Bits [63:32] of the signed 64-bit product of 32-bit operands (R238). -/
def mulHigh32 (a b : BitVec 32) : BitVec 32 := (a.signExtend 64 * b.signExtend 64).extractLsb' 32 32
/-- Bits [63:32] of the unsigned 64-bit product of 32-bit operands. -/
def mulHighU32 (a b : BitVec 32) : BitVec 32 := (a.setWidth 64 * b.setWidth 64).extractLsb' 32 32

/-- Signed quotient towards zero; −1 for a zero divisor, and the overflowing quotient wraps (R237, R239). -/
def divS {n : Nat} (a b : BitVec n) : BitVec n := if b = 0 then BitVec.allOnes n else a.sdiv b
/-- Signed remainder; a for a zero divisor (R239). -/
def remS {n : Nat} (a b : BitVec n) : BitVec n := if b = 0 then a else a.srem b
/-- Unsigned quotient; all ones for a zero divisor (R239). -/
def divU {n : Nat} (a b : BitVec n) : BitVec n := if b = 0 then BitVec.allOnes n else a.udiv b
/-- Unsigned remainder; a for a zero divisor (R239). -/
def remU {n : Nat} (a b : BitVec n) : BitVec n := if b = 0 then a else a.umod b

def shl64 (a b : Word) : Word := a <<< (b.extractLsb' 0 6).toNat
def shr64 (a b : Word) : Word := a >>> (b.extractLsb' 0 6).toNat
def sra64 (a b : Word) : Word := a.sshiftRight (b.extractLsb' 0 6).toNat
def rol64 (a b : Word) : Word := a.rotateLeft (b.extractLsb' 0 6).toNat
def shl32 (a b : BitVec 32) : BitVec 32 := a <<< (b.extractLsb' 0 5).toNat
def shr32 (a b : BitVec 32) : BitVec 32 := a >>> (b.extractLsb' 0 5).toNat
def sra32 (a b : BitVec 32) : BitVec 32 := a.sshiftRight (b.extractLsb' 0 5).toNat
def rol32 (a b : BitVec 32) : BitVec 32 := a.rotateLeft (b.extractLsb' 0 5).toNat

def minS {n : Nat} (a b : BitVec n) : BitVec n := if b.slt a then b else a
def maxS {n : Nat} (a b : BitVec n) : BitVec n := if a.slt b then b else a
def minU {n : Nat} (a b : BitVec n) : BitVec n := if b.ult a then b else a
def maxU {n : Nat} (a b : BitVec n) : BitVec n := if a.ult b then b else a

/-- Leading zeros of the n low bits of a value, counted from bit n − 1 down. -/
def leadingZeros (a : Word) : Nat → Nat
  | 0 => 0
  | n + 1 => if a.getLsbD n then 0 else 1 + leadingZeros a n

/-- Trailing zeros from bit k on, over at most n bits. -/
def trailingZeros (a : Word) : Nat → Nat → Nat
  | _, 0 => 0
  | k, n + 1 => if a.getLsbD k then 0 else 1 + trailingZeros a (k + 1) n

/-- One bits of the n low bits. -/
def onesCount (a : Word) : Nat → Nat
  | 0 => 0
  | n + 1 => (if a.getLsbD n then 1 else 0) + onesCount a n

/-- Bits that CLZ, CTZ and POPC count over (R242). -/
def countWidth (md : BitVec 9) : Nat := if md = 1 then 32 else 64

/-! ### The shared shapes -/

/-- A two-operand instruction of R237: d = f(x[srcA], x[srcB]). -/
def slotRrr (o : Rrr) (f : Word → Word → Word) : Slot := fun c s =>
  let th := c.th s
  match ready th [(o.srcA, o.ta), (o.srcB, o.tb)] [o.dst] with
  | .error e => .error e
  | .ok _ => .ok (c.writeX o.dst (f (th.getX o.srcA) (th.getX o.srcB)))

/-- A one-operand instruction of R242. -/
def slotRr (o : Rr) (f : Word → Nat) : Slot := fun c s =>
  let th := c.th s
  match ready th [(o.srcA, o.ta)] [o.dst] with
  | .error e => .error e
  | .ok _ => .ok (c.writeX o.dst (BitVec.ofNat 64 (f (th.getX o.srcA))))

/-! ### The instructions -/

/-- ADD (R237, R238). -/
def slotAdd (o : Rrr) : Slot := slotRrr o (byWidth o.md (· + ·) (· + ·))
/-- SUB. -/
def slotSub (o : Rrr) : Slot := slotRrr o (byWidth o.md (· - ·) (· - ·))
/-- MUL. -/
def slotMul (o : Rrr) : Slot := slotRrr o (byWidth o.md (· * ·) (· * ·))
/-- MULH. -/
def slotMulh (o : Rrr) : Slot := slotRrr o (byWidth o.md mulHigh mulHigh32)
/-- MULHU. -/
def slotMulhu (o : Rrr) : Slot := slotRrr o (byWidth o.md mulHighU mulHighU32)
/-- DIV (R237, R239). -/
def slotDiv (o : Rrr) : Slot := slotRrr o (byWidth o.md divS divS)
/-- DIVU. -/
def slotDivu (o : Rrr) : Slot := slotRrr o (byWidth o.md divU divU)
/-- REM. -/
def slotRem (o : Rrr) : Slot := slotRrr o (byWidth o.md remS remS)
/-- REMU. -/
def slotRemu (o : Rrr) : Slot := slotRrr o (byWidth o.md remU remU)
/-- AND. -/
def slotAnd (o : Rrr) : Slot := slotRrr o (byWidth o.md (· &&& ·) (· &&& ·))
/-- OR. -/
def slotOr (o : Rrr) : Slot := slotRrr o (byWidth o.md (· ||| ·) (· ||| ·))
/-- XOR. -/
def slotXor (o : Rrr) : Slot := slotRrr o (byWidth o.md (· ^^^ ·) (· ^^^ ·))
/-- ANDN: a AND NOT b. -/
def slotAndn (o : Rrr) : Slot := slotRrr o (byWidth o.md (fun a b => a &&& ~~~b) (fun a b => a &&& ~~~b))
/-- SHL. -/
def slotShl (o : Rrr) : Slot := slotRrr o (byWidth o.md shl64 shl32)
/-- SHR. -/
def slotShr (o : Rrr) : Slot := slotRrr o (byWidth o.md shr64 shr32)
/-- SRA. -/
def slotSra (o : Rrr) : Slot := slotRrr o (byWidth o.md sra64 sra32)
/-- ROL. -/
def slotRol (o : Rrr) : Slot := slotRrr o (byWidth o.md rol64 rol32)
/-- MIN. -/
def slotMin (o : Rrr) : Slot := slotRrr o (byWidth o.md minS minS)
/-- MAX. -/
def slotMax (o : Rrr) : Slot := slotRrr o (byWidth o.md maxS maxS)
/-- MINU. -/
def slotMinu (o : Rrr) : Slot := slotRrr o (byWidth o.md minU minU)
/-- MAXU. -/
def slotMaxu (o : Rrr) : Slot := slotRrr o (byWidth o.md maxU maxU)

/-- CMP: a predicate from two registers (R240). -/
def slotCmp (o : RrrCond) : Slot := fun c s =>
  let th := c.th s
  match ready th [(o.srcA, o.ta), (o.srcB, o.tb)] [] with
  | .error e => .error e
  | .ok _ => .ok (c.commit (fun t => t.setP o.dst (intCond o.cond (th.getX o.srcA) (th.getX o.srcB))))

/-- SEL: one of two registers by a predicate (R241). -/
def slotSel (o : RrrPred) : Slot := fun c s =>
  let th := c.th s
  match ready th [(o.srcA, o.ta), (o.srcB, o.tb)] [o.dst] with
  | .error e => .error e
  | .ok _ => .ok (c.writeX o.dst (if th.getP o.sel then th.getX o.srcA else th.getX o.srcB))

/-- PLOG: a predicate from two predicates (R241). -/
def slotPlog (o : PredOps) : Slot := fun c s =>
  let th := c.th s
  .ok (c.commit (fun t => t.setP o.dst (predOp o.md (th.getP o.srcA) (th.getP o.srcB))))

/-- CLZ (R242). -/
def slotClz (o : Rr) : Slot := slotRr o (fun a => leadingZeros a (countWidth o.md))
/-- CTZ. -/
def slotCtz (o : Rr) : Slot := slotRr o (fun a => trailingZeros a 0 (countWidth o.md))
/-- POPC. -/
def slotPopc (o : Rr) : Slot := slotRr o (fun a => onesCount a (countWidth o.md))

/-- ADDI (R243). -/
def slotAddi (o : Ri) (xs : List XPay) : Slot := fun c s =>
  let th := c.th s
  match ready th [(o.srcA, o.ta)] [o.dst] with
  | .error e => .error e
  | .ok _ => .ok (c.writeX o.dst (th.getX o.srcA + immediate o.imm xs))

/-- CMPI (R240). -/
def slotCmpi (o : RiCond) (xs : List XPay) : Slot := fun c s =>
  let th := c.th s
  match ready th [(o.srcA, o.ta)] [] with
  | .error e => .error e
  | .ok _ => .ok (c.commit (fun t => t.setP o.dst (intCond o.cond (th.getX o.srcA) (immediate o.imm xs))))

/-- LI (R243). -/
def slotLi (o : Imm15) (xs : List XPay) : Slot := fun c s =>
  match ready (c.th s) [] [o.dst] with
  | .error e => .error e
  | .ok _ => .ok (c.writeX o.dst (immediate o.imm xs))

/-! ### Each instruction as a bundle of its own -/
/-- ADD alone in its bundle. -/
def execAdd (o : Rrr) (s : State) : Result := .next (s.issueOne (.add o) (slotAdd o))
/-- SUB alone in its bundle. -/
def execSub (o : Rrr) (s : State) : Result := .next (s.issueOne (.sub o) (slotSub o))
/-- MUL alone in its bundle. -/
def execMul (o : Rrr) (s : State) : Result := .next (s.issueOne (.mul o) (slotMul o))
/-- MULH alone in its bundle. -/
def execMulh (o : Rrr) (s : State) : Result := .next (s.issueOne (.mulh o) (slotMulh o))
/-- MULHU alone in its bundle. -/
def execMulhu (o : Rrr) (s : State) : Result := .next (s.issueOne (.mulhu o) (slotMulhu o))
/-- DIV alone in its bundle. -/
def execDiv (o : Rrr) (s : State) : Result := .next (s.issueOne (.div o) (slotDiv o))
/-- DIVU alone in its bundle. -/
def execDivu (o : Rrr) (s : State) : Result := .next (s.issueOne (.divu o) (slotDivu o))
/-- REM alone in its bundle. -/
def execRem (o : Rrr) (s : State) : Result := .next (s.issueOne (.rem o) (slotRem o))
/-- REMU alone in its bundle. -/
def execRemu (o : Rrr) (s : State) : Result := .next (s.issueOne (.remu o) (slotRemu o))
/-- AND alone in its bundle. -/
def execAnd (o : Rrr) (s : State) : Result := .next (s.issueOne (.and o) (slotAnd o))
/-- OR alone in its bundle. -/
def execOr (o : Rrr) (s : State) : Result := .next (s.issueOne (.or o) (slotOr o))
/-- XOR alone in its bundle. -/
def execXor (o : Rrr) (s : State) : Result := .next (s.issueOne (.xor o) (slotXor o))
/-- ANDN alone in its bundle. -/
def execAndn (o : Rrr) (s : State) : Result := .next (s.issueOne (.andn o) (slotAndn o))
/-- SHL alone in its bundle. -/
def execShl (o : Rrr) (s : State) : Result := .next (s.issueOne (.shl o) (slotShl o))
/-- SHR alone in its bundle. -/
def execShr (o : Rrr) (s : State) : Result := .next (s.issueOne (.shr o) (slotShr o))
/-- SRA alone in its bundle. -/
def execSra (o : Rrr) (s : State) : Result := .next (s.issueOne (.sra o) (slotSra o))
/-- ROL alone in its bundle. -/
def execRol (o : Rrr) (s : State) : Result := .next (s.issueOne (.rol o) (slotRol o))
/-- MIN alone in its bundle. -/
def execMin (o : Rrr) (s : State) : Result := .next (s.issueOne (.min o) (slotMin o))
/-- MAX alone in its bundle. -/
def execMax (o : Rrr) (s : State) : Result := .next (s.issueOne (.max o) (slotMax o))
/-- MINU alone in its bundle. -/
def execMinu (o : Rrr) (s : State) : Result := .next (s.issueOne (.minu o) (slotMinu o))
/-- MAXU alone in its bundle. -/
def execMaxu (o : Rrr) (s : State) : Result := .next (s.issueOne (.maxu o) (slotMaxu o))
/-- CMP alone in its bundle. -/
def execCmp (o : RrrCond) (s : State) : Result := .next (s.issueOne (.cmp o) (slotCmp o))
/-- SEL alone in its bundle. -/
def execSel (o : RrrPred) (s : State) : Result := .next (s.issueOne (.sel o) (slotSel o))
/-- PLOG alone in its bundle. -/
def execPlog (o : PredOps) (s : State) : Result := .next (s.issueOne (.plog o) (slotPlog o))
/-- CLZ alone in its bundle. -/
def execClz (o : Rr) (s : State) : Result := .next (s.issueOne (.clz o) (slotClz o))
/-- CTZ alone in its bundle. -/
def execCtz (o : Rr) (s : State) : Result := .next (s.issueOne (.ctz o) (slotCtz o))
/-- POPC alone in its bundle. -/
def execPopc (o : Rr) (s : State) : Result := .next (s.issueOne (.popc o) (slotPopc o))
/-- ADDI alone in its bundle. -/
def execAddi (o : Ri) (xs : List XPay) (s : State) : Result := .next (s.issueOne (.addi o xs) (slotAddi o xs))
/-- CMPI alone in its bundle. -/
def execCmpi (o : RiCond) (xs : List XPay) (s : State) : Result := .next (s.issueOne (.cmpi o xs) (slotCmpi o xs))
/-- LI alone in its bundle. -/
def execLi (o : Imm15) (xs : List XPay) (s : State) : Result := .next (s.issueOne (.li o xs) (slotLi o xs))

end Sys2Proof.Machine
end

