-- ==== Sys2Proof/Machine/Service.lean ====
section
/-! DEFINITION. Steps of the memory system and of the module's service (R8, R14, R23 to R26, R131, R148, R155, R156, R274 to R276, R396,
R397, R448, R460, R468 to R470, R481 to R483). -/

namespace Sys2Proof.Machine

/-! ### MODULE_RESET (R8, R70, R148, R156, R397, R482) -/

/-- The boot test: failed units stay failed, and a sequencer without one of some class is retired. -/
def bootSeq (u : Nat) (q : Seq) : Seq := { Seq.reset u with broken := q.broken, stages := q.stages, retired := q.retired }.firmware u

/-- The spare of a block takes the place of its first retired core (R14, R482). -/
def State.bootSpare (s : State) (b : Nat) : State :=
  if s.sparesUsed.getLsbD b then s
  else match ((List.range 24).map (fun l => 24 * b + l)).find? (fun n => (s.seq n).retired) with
    | some n => { s.setSeq n (Seq.reset n) with sparesUsed := s.sparesUsed ||| (1#8 <<< b) }
    | none => s

/-- MODULE_RESET: every register and state is reset and the boot tests run. HBM keeps its bytes, and each line its tag, poison and
the key it was written under; what slices held dirty is lost with them (DEDUCED, assumption 141); the firmware banks, the spares in use and the counts of flits stay, and boot measures the active images. -/
def State.moduleReset (s0 : State) : State :=
  let s := (List.range 64).foldl State.discard s0
  let s1 : State :=
    { State.reset with
      mem := s.mem.filter (fun c => match locate c.1 with | .hbm _ _ => true | _ => false)
      lines := s.lines.map (fun (e : Nat × LineMeta) => (e.1, { e.2 with srec := none }))
      seqs := s.seqs.map (fun (e : Nat × Seq) => (e.1, bootSeq e.1 e.2))
      islands := s.islands.map (fun (e : Nat × Island) =>
        (e.1, { Island.reset with bankB := e.2.bankB, imageA := e.2.imageA, imageB := e.2.imageB }))
      booted := s.islands.filterMap (fun (e : Nat × Island) =>
        let img := if e.2.bankB then e.2.imageB else e.2.imageA
        if img.isEmpty then none else some (e.1, img))
      keyValues := s.keyValues
      flitTx := s.flitTx
      flitRx := s.flitRx
      sparesUsed := s.sparesUsed
      latent := s.latent
      unfixable := s.unfixable
      nextKey := s.nextKey
      freeCount := s.freeCount
      agenda := s.agenda
      output := s.output }
  (List.range 8).foldl State.bootSpare s1

/-! ### Slices and channels (R131, R148, R155, R275, R276, R460, R468, R470, R483) -/

/-- BLOTTER_SWAP: at a rotation number that is a multiple of 2,048 the filter that is not current is cleared and becomes current. The step
is the slice's next swap; a slice that is accessed first has made the swaps due by then (State.touch). -/
def State.blotterSwap (s : State) (i : Nat) : State :=
  let n := max ((s.slice i).swaps + 1) (s.cc / swapPeriod)
  let s1 := s.ccTo (n * swapPeriod)
  s1.setSlice i ((s1.slice i).upTo n)

/-- BULK_RESERVATION: at a rotation boundary closed runs are freed, and waiting requests take what is free. -/
def State.bulkReservation (s : State) (ch : Nat) : State :=
  (s.ccTo ((s.cc + 319) / 320 * 320)).runBoundary ch

/-- OPEN_BANK_REFRESH: a refresh that falls due on an open bank is put off for at most 8 rotations; then the controller precharges,
refreshes and reactivates the bank. -/
def State.openBankRefresh (s : State) (ch : Nat) : State :=
  s.updChannel ch (fun k =>
    { k with refreshDue := if k.runs.any (fun e => e.2.isSome) && k.refreshDue < 8 then k.refreshDue + 1 else 0 })

/-- SCRUB: a single wrong bit of a line of HBM is corrected. -/
def State.scrub (s : State) (line : Nat) : State :=
  if lookup false line s.latent then { s with latent := eraseAt line s.latent, corrected := s.corrected + 1 } else s

/-- PHY_RECALIBRATION: a third failure in succession marks the channel lost. -/
def State.phyRecalibration (s : State) (ch : Nat) (ok : Bool) : State :=
  s.updChannel ch (fun k => if ok then { k with recalFails := 0 } else { k with recalFails := k.recalFails + 1, lost := k.lost || decide (2 ≤ k.recalFails) })

/-- A slice is lost with its dirty lines, whose HBM copies keep their old values (R470). -/
def State.loseSlice (s : State) (i : Nat) : State := (s.discard i).setSlice i { Slice.reset with lost := true }

/-- SELF_CHECK_FAILURE: a slice, a channel or a physical unit of a sequencer is found failed (R448, R470). -/
def State.selfCheckFailure (s : State) (u : LostUnit) : State :=
  match u with
  | .slice n => s.loseSlice n
  | .channel c => s.updChannel c (fun k => { k with lost := true })
  | .part u c k g => (s.setSeq u { s.seq u with
      broken := (s.seq u).broken ||| (1#16 <<< (2 * c.val + k.val)), stages := insertAt (2 * c.val + k.val) g.val (s.seq u).stages }).firmware u

def State.count (s : State) : State := { s with corrected := s.corrected + 1 }

/-- SOFT_ERROR: one wrong bit, or two, in a store (R468): parity of a clean line makes it a miss; one bit elsewhere is corrected; two
leave poison. Errors of a line of HBM show when it is filled; a second wrong bit of one that is not yet scrubbed makes two. -/
def State.softError (s : State) (k : SoftTarget) (double : Bool) : State :=
  let poison := fun (s : State) (l : Nat) => s.setLine l { s.lineMeta l with poison := true }
  match k with
  | .sliceClean l =>
    let i := sliceOf (128 * l)
    let c := s.slice i
    let cs := c.set (setOf (128 * l))
    match cs.find l with
    | some w => (s.setSlice i { c with sets := insertAt (setOf (128 * l)) { cs with ways := insertAt w none cs.ways } c.sets }).count
    | none => s
  | .sliceDirty l => if double then poison s l else s.count
  | .hbm l =>
    if double || lookup false l s.latent then { s with latent := eraseAt l s.latent, unfixable := insertAt l true s.unfixable }
    else if lookup false l s.unfixable then s
    else { s with latent := insertAt l true s.latent }
  | .granule n g =>
    if double then s.updCore n (fun a => { a with gpoison := insertAt g true a.gpoison, full := insertAt g true a.full })
    else s.count

/-! ### PAGE_WALK (R128 to R131) -/

/-- PAGE_WALK: a walker translates an address for a unit. -/
def State.pageWalk (s : State) (u : Nat) (va : Nat) : State :=
  match s.partOfUnit u with
  | none => s
  | some p => s.walkInto u p va

/-! ### Islands (R23 to R26, R396, R481) -/

/-- Cores of an island. -/
def coresOfIsland (i : Nat) : List Nat := (List.range 192).filter (fun n => islandOfCore n == i)

/-- The launches whose gangs hold a core of a set, their tasks and copies apart. -/
def State.launchesOn (s : State) (ns : List Nat) : List Launch :=
  s.launches.filter (fun l => s.gangs.any (fun g => g.launch == l.id && !g.ending && g.cores.any (fun n => ns.contains n && decide ((s.core n).gang = some g.id))))

/-- The waves of chains that stop, and the captured pieces of cores that do, are lost; in a chain that other islands share the wave goes on
through their cores (R417, R481). -/
def CoreArr.lose (k : CoreArr) (n : Nat) (ns : List Nat) : CoreArr :=
  let all := (k.chain n).cores.all ns.contains
  { k with wave := if all then [] else k.wave, hold := if all then none else k.hold, east := { k.east with buffer := [], streams := [] },
           south := { k.south with buffer := [], streams := [] } }
def State.dropWaves (s : State) (ns : List Nat) : State :=
  (ns.filter (fun n => (s.core n).gang.isSome)).foldl (fun s n => s.updCore n (fun k => k.lose n ns)) s

/-- A core island stops: the launches resident there end, and its cores are unusable. -/
def State.stopCores (s : State) (i : Nat) : State :=
  let ns := coresOfIsland i
  let s1 := (s.launchesOn ns).foldl (fun s l => s.endWith l 0x82) (s.dropWaves ns)
  ns.foldl (fun s n => s.updCore n (fun k => { k with down := true })) s1

/-- A quill-and-slice island stops: its slices and channels are lost, and what its quill cores and copy engines serve ends. -/
def State.stopQuills (s : State) (b : Nat) : State :=
  let s1 := ((List.range 8).map (fun i => 8 * b + i)).foldl State.loseSlice s
  let s2 := ((List.range 32).map (fun i => 32 * b + i)).foldl (fun s c => s.updChannel c (fun k => { k with lost := true })) s1
  let ends := fun (l : Launch) => s2.tasks.any (fun k => decide (k.launch = some l.id) && k.quill / 4 == b) ||
    s2.copies.any (fun c => decide (c.launch = some l.id) && c.chan / 32 == b)
  let s3 := (s2.launches.filter ends).foldl (fun s l => s.endWith l 0x82) s2
  let s4 := (s3.tasks.filter (fun k => k.launch.isNone && k.quill / 4 == b)).foldl (fun s k => s.failTask k.id 0x82) s3
  { s4 with copies := s4.copies.map (fun (c : Copy) =>
      if c.chan / 32 == b then
        let x := { c with asks := [], landings := [], held := [] }
        if c.launch.isNone && !c.finished then { x with stopped := true, parked := false, ecode := 0x82 } else x
      else c) }

/-- A link-and-PHY island stops: its ports go down, and its stack's channels are lost. -/
def State.stopLinks (s : State) (b : Nat) : State :=
  let s1 := (s.portDown (2 * b)).portDown (2 * b + 1)
  ((List.range 32).map (fun i => 32 * b + i)).foldl (fun s c => s.updChannel c (fun k => { k with lost := true })) s1

/-- An island stops (R481). -/
def State.stopIsland (s : State) (i : Nat) : State :=
  let s1 := s.retime i (fun k => { k with stopped := true })
  if i % 8 < 6 then s1.stopCores i else if i % 8 = 6 then s1.stopQuills (i / 8) else s1.stopLinks (i / 8)

/-- The module's power rating in watts, and the nominal clock in MHz (R23, R26). -/
def powerRating : Nat := 1800
def nominalMhz : Nat := 1800

/-- The clock to which an island is to be lowered, or its own: with the module past its rating to the nominal one, and below that, as above
105 °C, to one that is Rhoton's (R26, R481; assumption 127). -/
def Island.cooled (k : Island) (temp watts : Nat) : Nat :=
  let past := decide (powerRating < watts)
  let a := if 105 < temp || (past && decide (k.mhz ≤ nominalMhz)) then max 900 (min k.mhz (Config.loweredClock k.mhz temp)) else k.mhz
  if past then min a nominalMhz else a

/-- RHOTON_SAMPLE: the module's power is read; a supply below its floor, or more than 115 °C, stops the island; above 105 °C, or with the module
past its rating, its clock is to be lowered. -/
def State.rhotonSample (s : State) (i : Nat) (low : Bool) (temp watts : Nat) : State :=
  let s1 := { s with power := watts }
  if (s.island i).stopped then s1
  else if low || 115 < temp then s1.stopIsland i
  else if (s.island i).cooled temp watts < (s.island i).mhz then
    s1.updIsland i (fun k => { k with wanted := some (k.cooled temp watts, k.millivolts) })
  else s1

/-- Islands that clock the cores of a resident gang together with one of a set: the arrays of one gang run at one clock (R25). -/
def State.joinIslands (s : State) (is : List Nat) : List Nat :=
  (s.gangs.filter (fun g => !g.ending && g.cores.any (fun n => is.contains (islandOfCore n) && decide ((s.core n).gang = some g.id)))).foldl
    (fun js g => g.cores.foldl (fun js n => if js.contains (islandOfCore n) then js else js ++ [islandOfCore n]) js) is

/-- The islands whose clocks change with an island's. -/
def State.clockGroup (s : State) (i : Nat) : List Nat := (List.range 48).foldl (fun is _ => s.joinIslands is) [i]

/-- A wave is in flight in the array of a core: one of its own, or one of the chain it is in, which the leading core holds. -/
def State.waveIn (s : State) (n : Nat) : Bool :=
  s.cores.any (fun e => (e.1 == n || e.2.grid.cores.contains n) && !(e.2.drained && e.2.stroke.isNone))

/-- CLOCK_CHANGE: Rhoton sets an island's clock and voltage where no wave is in flight in its cores; till then the change waits. A
clock is raised above the nominal one only while the module's power is within its rating (R26, R396). -/
def State.clockChange (s : State) (i mhz millivolts : Nat) : State :=
  let is := s.clockGroup i
  if mhz < 900 || 2100 < mhz || (nominalMhz < mhz && powerRating < s.power && is.any (fun j => decide ((s.island j).mhz < mhz))) then s
  else if is.all (fun j => (coresOfIsland j).all (fun n => !s.waveIn n)) then
    is.foldl (fun s j => s.retime j (fun k => { k with mhz := mhz, wanted := none, millivolts := if j = i then millivolts else k.millivolts })) s
  else s.updIsland i (fun k => { k with wanted := some (mhz, millivolts) })

/-- ISLAND_RESTART: Rhoton restarts a stopped island; a core island's wells, scratchpads and cell state are zeroised, its granules
empty. It waits until no gang holds them. Lost slices and channels stay lost, and ports stay down. -/
def State.islandRestart (s : State) (i : Nat) : State :=
  if !(s.island i).stopped || (i % 8 < 6 && (coresOfIsland i).any (fun n => (s.core n).gang.isSome)) then s
  else
    let s1 := s.retime i (fun k => { k with stopped := false })
    if i % 8 < 6 then
      let ns := coresOfIsland i
      ns.foldl (fun s n => s.updCore n (fun k => { k with down := false })) (s1.zeroCores ns)
    else s1

/-! ### As device steps -/

/-- MODULE_RESET. -/
def execModuleReset (s : State) : Result := .next s.moduleReset
/-- BLOTTER_SWAP. -/
def execBlotterSwap (i : Fin 64) (s : State) : Result := .next ((s.blotterSwap i).unblock)
/-- BULK_RESERVATION. -/
def execBulkReservation (ch : Fin 256) (s : State) : Result := .next ((s.bulkReservation ch).unblock)
/-- OPEN_BANK_REFRESH. -/
def execOpenBankRefresh (ch : Fin 256) (s : State) : Result := .next ((s.openBankRefresh ch).unblock)
/-- SCRUB. -/
def execScrub (line : Nat) (s : State) : Result := .next ((s.scrub line).unblock)
/-- PHY_RECALIBRATION. -/
def execPhyRecalibration (ch : Fin 256) (ok : Bool) (s : State) : Result := .next ((s.phyRecalibration ch ok).unblock)
/-- PAGE_WALK. -/
def execPageWalk (u : Fin 240) (va : Word) (s : State) : Result := .next ((s.pageWalk u va.toNat).unblock)
/-- RHOTON_SAMPLE. -/
def execRhotonSample (i : Fin 64) (low : Bool) (r : Reading) (s : State) : Result := .next ((s.rhotonSample i low r.temp r.watts).unblock)
/-- CLOCK_CHANGE. -/
def execClockChange (i : Fin 64) (c : ClockSetting) (s : State) : Result := .next ((s.clockChange i c.mhz c.millivolts).unblock)
/-- ISLAND_RESTART. -/
def execIslandRestart (i : Fin 64) (s : State) : Result := .next ((s.islandRestart i).unblock)
/-- SELF_CHECK_FAILURE. -/
def execSelfCheckFailure (u : LostUnit) (s : State) : Result := .next ((s.selfCheckFailure u).unblock)
/-- SOFT_ERROR. -/
def execSoftError (k : SoftTarget) (double : Bool) (s : State) : Result := .next ((s.softError k double).unblock)

end Sys2Proof.Machine
end

