-- ==== Sys2Proof/Machine/Writers.lean ====
section
/-! DEFINITION. Edge writers: WRITER_WRITE and AMAX_SEND (R44, R115, R118 to R121, R138, R202, R313, R316, R317, R319, R462). -/

namespace Sys2Proof.Machine

/-! ### Pieces and elements (R313, R316) -/

/-- The elements of a captured piece with their codes in PFMT, in ascending lane; lanes outside the tensor are dropped. -/
def Stream.items (x : Stream) (east : Bool) (h : Header) (num line : Nat) (v : BitVec 256) : List (Nat × Nat × Nat) :=
  let w := fmtWidth h.pfmt
  if !x.panel then
    let l := lineLanes h.pfmt
    let ns := h.cols / l
    let a := num / ns * 16 + line
    if a < h.rows then (List.range l).map (fun e => (a, num % ns * l + e, laneOf v w e)) else []
  else
    let rp := panelRows h.pfmt
    let nj := 8 / rp
    let nb := (if east then h.cols else h.rows) / 8
    let jj := num % nj * rp
    let blk := num / nj % nb
    let base := 8 * (16 * (num / (nj * nb)) + line)
    (List.range (8 * rp)).filterMap (fun e =>
      let ab := if east then (base + jj + e / 8, 8 * blk + e % 8) else (8 * blk + jj + e / 8, base + e % 8)
      if ab.1 < h.rows && ab.2 < h.cols then some (ab.1, ab.2, laneOf v w e) else none)

/-- The group of pieces that carries an element. -/
def Stream.groupOf (x : Stream) (east : Bool) (h : Header) (a b : Nat) : Nat :=
  if !x.panel then a / 16 * (h.cols / lineLanes h.pfmt) + b / lineLanes h.pfmt
  else
    let rp := panelRows h.pfmt
    let nj := 8 / rp
    if east then a / 128 * (nj * (h.cols / 8)) + b / 8 * nj + a % 8 / rp
    else b / 128 * (nj * (h.rows / 8)) + a / 8 * nj + a % 8 / rp

/-! ### Conversion (R37, R40, R44, R115) -/

/-- Elements converted to a format that is no MX format, in stream order: codes, flags, and the random state after. -/
def convertItems (src dst : BitVec 4) (mode : Nat) : BitVec 32 → List (Nat × Nat × Nat) → List (Nat × Nat × Nat) × BitVec 8 × BitVec 32
  | rs, [] => ([], 0, rs)
  | rs, (a, b, c) :: rest =>
    let draw := mode == rndRSR && src != dst
    let rs' := if draw then nextRandom rs else rs
    let r := convertElem src dst mode (if draw then randomBits rs' else 0) 0 c
    let t := convertItems src dst mode rs' rest
    ((a, b, r.1) :: t.1, r.2 ||| t.2.1, t.2.2)

/-- Elements for an MX format, which is chosen block by block: each keeps its code in PFMT and its random value. -/
def drawItems (mode : Nat) : BitVec 32 → List (Nat × Nat × Nat) → List (Nat × Nat × Nat) × BitVec 32
  | rs, [] => ([], rs)
  | rs, (a, b, c) :: rest =>
    let rs' := if mode = rndRSR then nextRandom rs else rs
    let t := drawItems mode rs' rest
    ((a, b, c + 2 ^ 32 * (if mode = rndRSR then randomBits rs' else 0)) :: t.1, t.2)

/-- |v × 2^β| rounded up to FP32, for what is neither NaN nor a verdict word (R121). -/
def writtenMagnitude (fmt : BitVec 4) (beta : Int) (c : Nat) : Option Nat :=
  let up := fun (x : Exact) => (roundTo fp32 rndRUP 0 { x.scale beta with neg := false }).1
  match floatFmt fmt with
  | some F => if F.isNaN c then none else if F.isInf c then some fp32.infCode else some (up (F.value c))
  | none => some (up (Exact.ofInt (signExt (fmtWidth fmt) c) 0 false))

/-- The same for an element of an MX block. -/
def mxMagnitude (n scale : Nat) (beta : Int) (c : Nat) : Option Nat :=
  if scale = 255 then none
  else some (roundTo fp32 rndRUP 0 { (Exact.ofInt (signExt n c) ((scale : Int) - 127 - ((n : Int) - 2)) false).scale beta with neg := false }).1

/-- Elements converted for a tensor, each once: for an MX format, which is chosen block by block, the elements with their random values
(R44, R115). -/
def convertFor (pfmt fmt : BitVec 4) (mode : Nat) (rs : BitVec 32) (items : List (Nat × Nat × Nat)) : List (Nat × Nat × Nat) × BitVec 8 × BitVec 32 :=
  if isMx fmt then let d := drawItems mode rs items; (d.1, 0, d.2) else convertItems pfmt fmt mode rs items

/-- The running maximum with more magnitudes (R47, R121). -/
def foldMax (m : BitVec 32) (l : List (Option Nat)) : BitVec 32 :=
  BitVec.ofNat 32 (l.foldl (fun m o => match o with | some v => (fpMinMax fp32 true m v).1 | none => m) m.toNat)

/-! ### One tensor of a writer stream -/

/-- What placing elements in a tensor gives: the tensor's waiting elements and bytes, flags, and magnitudes. -/
structure Placed where
  y : StreamEnd
  flags : BitVec 8
  mags : List (Option Nat)

/-- Bytes kept at ascending offsets. -/
def keepBytes (m : SMap Byte) (o : Nat) : List Byte → SMap Byte
  | [] => m
  | b :: bs => keepBytes (insertAt o b m) (o + 1) bs

/-- First element of the block of an element, and element i of the block that begins there. -/
def Tensor.blockStart (t : Tensor) (a b : Nat) : Nat × Nat := if t.down then (a / 32 * 32, b) else (a, b / 32 * 32)
def Tensor.blockElem (t : Tensor) (s : Nat × Nat) (i : Nat) : Nat × Nat := if t.down then (s.1 + i, s.2) else (s.1, s.2 + i)

/-- The block that begins at an element, once its 32 elements have come: converted and kept as bytes with its scale (R51). -/
def StreamEnd.block (y : StreamEnd) (pfmt : BitVec 4) (mode : Nat) (beta : Int) (at_ : Nat × Nat) : Placed :=
  let t := y.tensor
  let keys := (List.range 32).map (fun i => (t.blockElem at_ i).1 * t.cols + (t.blockElem at_ i).2)
  if keys.all (fun k => listed k y.elems) then
    let es := keys.map (fun k => lookup 0 k y.elems)
    let n := mxWidth t.fmt
    let r := engineBlock n mode (es.map (fun e => e / 2 ^ 32)) 0 (es.map (fun e => (pfmt, e % 2 ^ 32)))
    let off := t.cellVa at_.1 at_.2
    let y' := { y with
      elems := y.elems.filter (fun e => !keys.contains e.1)
      pending := keepBytes y.pending off (leBytes t.cellBytes (packBits n r.2.1))
      scales := if t.sidecar then y.scales else insertAt (t.scale + t.scaleIndex at_.1 at_.2) (BitVec.ofNat 8 r.1) y.scales
      sides := if t.sidecar then insertAt (sidecarIndex t.fmt off) (BitVec.ofNat 8 r.1) y.sides else y.sides }
    ⟨y', r.2.2, r.2.1.map (mxMagnitude n r.1 beta)⟩
  else ⟨y, 0, []⟩

/-- Blocks one after another. -/
def StreamEnd.blocks (y : StreamEnd) (pfmt : BitVec 4) (mode : Nat) (beta : Int) : List (Nat × Nat) → Placed
  | [] => ⟨y, 0, []⟩
  | s :: ss =>
    let p := y.block pfmt mode beta s
    let q := p.y.blocks pfmt mode beta ss
    ⟨q.y, p.flags ||| q.flags, p.mags ++ q.mags⟩

/-- Elements of one group placed in a tensor: waiting for the close when it is compressed, by blocks for an MX format, else as
bytes. -/
def StreamEnd.placeItems (y : StreamEnd) (compress : Bool) (pfmt : BitVec 4) (mode : Nat) (beta : Int) (items : List (Nat × Nat × Nat)) : Placed :=
  let t := y.tensor
  if compress || isMx t.fmt then
    let y1 := { y with elems := items.foldl (fun m e => insertAt (e.1 * t.cols + e.2.1) e.2.2 m) y.elems }
    if compress then ⟨y1, 0, []⟩
    else
      let starts := items.foldl (fun (l : List (Nat × Nat)) e => if l.contains (t.blockStart e.1 e.2.1) then l else l ++ [t.blockStart e.1 e.2.1]) []
      y1.blocks pfmt mode beta starts
  else
    ⟨{ y with pending := items.foldl (fun m e => keepBytes m (t.cellVa e.1 e.2.1) (leBytes t.cellBytes e.2.2)) y.pending }, 0, []⟩

/-- The elements whose code or scale stands in a byte of a tensor, at a data offset or a scale offset: one, or those of a block. -/
def Tensor.elemsAt (t : Tensor) (scale : Bool) (o : Nat) : List (Nat × Nat) :=
  let block := fun (s : Nat × Nat) => if s.1 < t.rows && s.2 < t.cols then (List.range 32).map (t.blockElem s) else []
  if scale then
    if o < t.scale then []
    else
      let i := o - t.scale
      if t.down then block (i / t.cols * 32, i % t.cols) else block (i / (t.cols / 32), i % (t.cols / 32) * 32)
  else if o < t.base then []
  else
    let d := o - t.base
    let row := d / t.pitch
    let cell := d % t.pitch / t.cellBytes
    if isMx t.fmt then (if t.down then block (row * 32, cell) else block (row, cell * 32))
    else if row < t.rows && cell < t.cols then [(row, cell)] else []

/-- The last group that brings an element whose code or scale stands in a byte of a tensor: by its data offset, or its scale offset.
`swap` is for the transposed tensor of STASH. -/
def Stream.lastFor (x : Stream) (east : Bool) (h : Header) (t : Tensor) (swap scale : Bool) (o : Nat) : Option Nat :=
  ((t.elemsAt scale o).map (fun e => if swap then x.groupOf east h e.2 e.1 else x.groupOf east h e.1 e.2)).max?

/-- The last sub-tile of a strip of STASH with an element in a granule: in ascending column of the plain tensor, which is the row of the
transposed one (R120). -/
def Tensor.subTile (t : Tensor) (swap scale : Bool) (g : Nat) : Nat :=
  (((List.range 16).flatMap (fun i => t.elemsAt scale (16 * g + i))).map (fun e => (if swap then e.1 else e.2) / 16)).foldl max 0

/-- The first offset of the block of a sidecar index (R135). -/
def blockOffset (fmt : BitVec 4) (i : Nat) : Nat := i / 8192 * 2 ^ 17 + i % 8192 * (4 * mxWidth fmt)

/-- One granule that a writer writes: its core and number, its bytes by offset, the scales of the blocks that it holds a part of, and
its sub-tile. -/
structure Fill where
  core : Nat
  granule : Nat
  bytes : List (Nat × Byte)
  sides : List (Nat × Byte)
  turn : Nat

/-- A granule is on its way to its bank unit, which writes its bytes and scales and sets it full in one access, after other writes
(R118, R135, R138, R140). -/
def State.fillGranule (s : State) (i : Issue) (after : List Nat) (f : Fill) : State :=
  let g : Target := ⟨s.modreg.toNat % 1024 * 2 ^ 42 + scratchPa f.core (16 * f.granule), 0, 0⟩
  s.submit { lineReq s i ((s.partOfUnit i.unit).getD 0) 0 16 g
    (.engine none (joinParts (f.bytes.map (fun e => (e.1 - 16 * f.granule, [e.2])))) true f.sides 0 false) with after := after }

/-- Granules are written in their order; those of a STASH stream by sub-tiles, of which one is complete in both tensors before the next is
written (R120). -/
def State.fillAll (s : State) (i : Issue) (stash : Bool) (fs : List Fill) : State :=
  if !stash then fs.foldl (fun s f => s.fillGranule i [] f) s
  else
    let turns := fs.foldl (fun (l : List Nat) f => if l.contains f.turn then l else l ++ [f.turn]) []
    (sortByKey id turns).foldl (fun s t =>
      let out := s.writesOut i.unit i.thr
      (fs.filter (fun f => f.turn == t)).foldl (fun s f => s.fillGranule i out f) s) s

/-- The granules of waiting bytes that a test accepts, and the bytes that stay. -/
def takeBytes (core : Nat) (m : SMap Byte) (done : Nat → Bool) (side : Nat → List (Nat × Byte)) (turn : Nat → Nat) : List Fill × SMap Byte :=
  let gs := m.foldl (fun (l : List Nat) e => if l.contains (e.1 / 16) then l else l ++ [e.1 / 16]) []
  let now := gs.filter done
  (now.map (fun g => ⟨core, g, m.filter (fun e => e.1 / 16 == g), side g, turn g⟩), m.filter (fun e => !now.contains (e.1 / 16)))

/-- The scales of blocks with a byte in a granule, and those of blocks that bytes still wait for. -/
def StreamEnd.sidesIn (y : StreamEnd) (g : Nat) : List (Nat × Byte) :=
  let w := 4 * mxWidth y.form.fmt
  y.sides.filter (fun e => decide (blockOffset y.form.fmt e.1 < 16 * g + 16) && decide (16 * g < blockOffset y.form.fmt e.1 + w))
def StreamEnd.sidesLeft (y : StreamEnd) (m : SMap Byte) : SMap Byte :=
  let w := 4 * mxWidth y.form.fmt
  y.sides.filter (fun e => m.any (fun b => decide (blockOffset y.form.fmt e.1 ≤ b.1) && decide (b.1 < blockOffset y.form.fmt e.1 + w)))

/-- The granules of a tensor that no group after `upto` writes become visible; all of them when the stream closes. -/
def Stream.flushEnd (x : Stream) (e : EdgeId) (h : Header) (y : StreamEnd) (swap : Bool) (upto : Option Nat) : List Fill × StreamEnd :=
  let t := y.tensor
  let east := match e with | .east => true | _ => false
  let done := fun (scale : Bool) (g : Nat) => match upto with
    | none => true
    | some n => (List.range 16).all (fun i => match x.lastFor east h t swap scale (16 * g + i) with | some k => decide (k < n) | none => true)
  let turn := fun (scale : Bool) (g : Nat) => if x.stash then t.subTile swap scale g else 0
  let a := takeBytes y.home.1 y.pending (done false) y.sidesIn (turn false)
  let b := takeBytes y.scaleHome.1 y.scales (done true) (fun _ => []) (turn true)
  (a.1 ++ b.1, { y with pending := a.2, scales := b.2, sides := y.sidesLeft a.2 })

/-- Groups whose sub-tiles are complete once n groups are written: under STASH two rows of blocks, or the rest of a band (R120). -/
def Stream.turned (x : Stream) (h : Header) (n : Nat) : Nat :=
  if !x.stash then n
  else
    let nj := 8 / panelRows h.pfmt
    let band := nj * (h.rows / 8)
    if band = 0 then n else n / band * band + n % band / (2 * nj) * (2 * nj)

/-! ### WRITER_WRITE (R118 to R121, R319, R462) -/

/-- The 16 pieces of a group in a buffer, by line, once all have been captured. -/
def EdgeUnit.group (u : EdgeUnit) (sid num : Nat) : Option (List (BitVec 256)) :=
  let ps := u.buffer.filter (fun b => b.1 == sid && b.2.1 == num)
  if (List.range 16).all (fun l => ps.any (fun b => b.2.2.1 == l)) then
    some ((List.range 16).map (fun l => ((ps.find? (fun b => b.2.2.1 == l)).map (fun b => b.2.2.2)).getD 0))
  else none

/-- A group of a stream is written. The transposed tensor of STASH holds the same converted elements; where its format or its RND
differs, they are converted a second time, with the draws that follow the first conversion's (R37, R44, R56, R120). A captured piece
carries no exponent of its own: it is converted as it stands for both headers, whatever their BIAS fields hold, and each header's BIAS
is what its reader applies (DESIGN CHOICE, assumption 82). -/
def State.writeGroup (s : State) (n : Nat) (e : EdgeId) (x : Stream) (h : Header) (vs : List (BitVec 256)) : State :=
  let east := match e with | .east => true | _ => false
  let items := (List.range 16).flatMap (fun l => x.items east h x.written l (vs.getD l 0))
  let fmt := x.fst.form.fmt
  let mode := h.rnd.toNat
  let u := (s.core n).edge e
  let conv := convertFor h.pfmt fmt mode u.rs items
  let p := x.fst.placeItems x.bitmap h.pfmt mode h.bias.toInt conv.1
  let mags := if isMx fmt then p.mags else conv.1.map (fun c => writtenMagnitude fmt h.bias.toInt c.2.2)
  let second : Placed × BitVec 8 × BitVec 32 := match x.stash, x.snd.hdr with
    | true, some h2 =>
      let f2 := x.snd.form.fmt
      let conv2 := if f2 = fmt && h2.rnd = h.rnd then (conv.1, 0, conv.2.2) else convertFor h.pfmt f2 h2.rnd.toNat conv.2.2 items
      (x.snd.placeItems x.bitmap h.pfmt h2.rnd.toNat h2.bias.toInt (conv2.1.map (fun c => (c.2.1, c.1, c.2.2))), conv2.2)
    | _, _ => (⟨x.snd, 0, []⟩, 0, conv.2.2)
  let q := second.1
  let upto := x.turned h (x.written + 1)
  let a := x.flushEnd e h p.y false (some upto)
  let b := if x.stash then x.flushEnd e h q.y true (some upto) else ([], q.y)
  let s2 := (s.fillAll (x.reader n e) x.stash (a.1 ++ b.1)).updEdge n e (fun v =>
    { v.upd x.sid (fun z => { z with fst := a.2, snd := b.2, written := x.written + 1, amax := foldMax x.amax mags }) with
      rs := second.2.2
      buffer := v.buffer.filter (fun c => !(c.1 == x.sid && c.2.1 == x.written)) })
  s2.flagStream x (conv.2.1 ||| p.flags ||| second.2.1 ||| q.flags)

/-- Blocks of an MX tensor that never became complete hold free values: their places. -/
def StreamEnd.openBlocks (y : StreamEnd) : List (Nat × Nat) :=
  let t := y.tensor
  y.elems.foldl (fun (l : List (Nat × Nat)) e =>
    let s := t.blockStart (e.1 / t.cols) (e.1 % t.cols)
    if l.contains s then l else l ++ [s]) []

/-- Their bytes and scales. -/
def State.freeBlocks (s : State) (y : StreamEnd) : List (Nat × Nat) → State × StreamEnd
  | [] => (s, { y with elems := [] })
  | b :: bs =>
    let t := y.tensor
    let bytes := (List.range t.cellBytes).map (fun i => Config.freeByte (s.freeCount + i))
    let sc := Config.freeByte (s.freeCount + t.cellBytes)
    let s1 := { s with freeCount := s.freeCount + t.cellBytes + 1 }
    s1.freeBlocks { y with
      pending := keepBytes y.pending (t.cellVa b.1 b.2) bytes
      scales := if t.sidecar then y.scales else insertAt (t.scale + t.scaleIndex b.1 b.2) sc y.scales
      sides := if t.sidecar then insertAt (sidecarIndex t.fmt (t.cellVa b.1 b.2)) sc y.sides else y.sides } bs

/-- The dense codes of a compressed tensor in ascending index, the scales of its blocks by their first elements, flags and
magnitudes. -/
def StreamEnd.dense (y : StreamEnd) (pfmt : BitVec 4) (mode : Nat) (beta : Int) :
    List Nat × List ((Nat × Nat) × Nat) × BitVec 8 × List (Option Nat) :=
  let t := y.tensor
  if isMx t.fmt then
    let starts := (List.range (t.rows * t.cols / 32)).map (fun i =>
      if t.down then (i / t.cols * 32, i % t.cols) else (i / (t.cols / 32), i % (t.cols / 32) * 32))
    let bs := starts.map (fun b =>
      let es := (List.range 32).map (fun i => lookup 0 ((t.blockElem b i).1 * t.cols + (t.blockElem b i).2) y.elems)
      (b, engineBlock (mxWidth t.fmt) mode (es.map (fun e => e / 2 ^ 32)) 0 (es.map (fun e => (pfmt, e % 2 ^ 32)))))
    let codeAt := fun (a b : Nat) => ((bs.find? (fun x => decide (x.1 = t.blockStart a b))).map (fun x => x.2.2.1.getD (t.posIn a b) 0)).getD 0
    ((List.range (t.rows * t.cols)).map (fun i => codeAt (i / t.cols) (i % t.cols)),
     bs.map (fun x => (x.1, x.2.1)), bs.foldl (fun f x => f ||| x.2.2.2) 0,
     bs.flatMap (fun x => x.2.2.1.map (mxMagnitude (mxWidth t.fmt) x.2.1 beta)))
  else ((List.range (t.rows * t.cols)).map (fun i => lookup 0 i y.elems), [], 0, [])

/-- A compressed tensor is written when its stream closes: bitmap, values up to BMCAP, scales, those of a sidecar with the first granule
of the bitmap, and the length fields of its header (R119, R135, R137, R138, R462). -/
def State.writeCompressed (s : State) (n : Nat) (e : EdgeId) (x : Stream) (pfmt : BitVec 4) (y : StreamEnd) :
    State × BitVec 8 × List (Option Nat) :=
  match y.hdr with
  | none => (s, 0, [])
  | some h =>
    let t := y.tensor
    let d := y.dense pfmt h.rnd.toNat h.bias.toInt
    let p := packDense t.fmt h.bmcap d.1
    let i := x.reader n e
    let side := if t.sidecar then d.2.1.map (fun c => (sidecarIndex t.fmt (t.sideVa true c.1.1 c.1.2), BitVec.ofNat 8 c.2)) else []
    let scales := if t.sidecar then [] else d.2.1.foldl (fun m c => insertAt (t.scale + t.scaleIndex c.1.1 c.1.2) (BitVec.ofNat 8 c.2) m) []
    let data := keepBytes (keepBytes [] t.base p.bitmap) (t.base + t.mapBytes) p.values
    let fs := (takeBytes y.home.1 data (fun _ => true) (fun g => if g = t.base / 16 then side else []) (fun _ => 0)).1 ++
      (takeBytes y.scaleHome.1 scales (fun _ => true) (fun _ => []) (fun _ => 0)).1
    let s2 := s.fillAll i false fs
    let s3 := match s2.writeAs true i ((s.partOfUnit n).getD 0) (y.hdrVa + 56) (lengthFields p.stored h.bmcap) with
      | .ok s' => s'
      | .error f => s2.fail x.by_ f.1 f.2.1 f.2.2
    (s3, d.2.2.1, d.2.2.2)

/-- Everything that a closing stream still holds is written. -/
def State.closeStream (s : State) (n : Nat) (e : EdgeId) (x : Stream) (h : Header) : State :=
  let phase := fun (z : Stream) => if h.amax = 0 then { z with phase := 2 } else { z with phase := 1 }
  if x.bitmap then
    let a := s.writeCompressed n e x h.pfmt x.fst
    let b := if x.stash then a.1.writeCompressed n e x h.pfmt x.snd else (a.1, 0, [])
    (b.1.flagStream x (a.2.1 ||| b.2.1)).updEdge n e (fun u => u.upd x.sid (fun z => phase { z with amax := foldMax z.amax a.2.2 }))
  else
    let f := s.freeBlocks x.fst (if isMx x.fst.form.fmt then x.fst.openBlocks else [])
    let g := if x.stash && isMx x.snd.form.fmt then f.1.freeBlocks x.snd x.snd.openBlocks else (f.1, x.snd)
    let a := x.flushEnd e h f.2 false none
    let b := x.flushEnd e h g.2 true none
    (g.1.fillAll (x.reader n e) x.stash (a.1 ++ b.1)).updEdge n e (fun u => u.upd x.sid (fun z => phase { z with fst := a.2, snd := b.2 }))

/-- Writes of an edge unit that are not acknowledged. -/
def State.edgeWrites (s : State) (n : Nat) (e : EdgeId) : Bool :=
  s.reqs.any (fun r => r.by_.unit == n && decide (8 ≤ r.by_.thr) && (r.by_.thr - 8) / 4 == edgeNum e && r.op.isWrite)

/-- What the writer can do for a stream, if anything: write its next group; close it; or let it go once all is acknowledged. -/
def State.writeTurn (s : State) (n : Nat) (e : EdgeId) (x : Stream) : Option State :=
  match x.fst.hdr with
  | none => none
  | some h =>
    match (if x.known then ((s.core n).edge e).group x.sid x.written else none) with
    | some vs => some (s.writeGroup n e x h vs)
    | none =>
      if x.closing && x.known && x.phase == 0 && x.written == x.taken then some (s.closeStream n e x h)
      else if x.closing && x.phase == 2 && s.finished x.amaxOut && !s.edgeWrites n e then some (s.updEdge n e (fun u => u.drop x.sid))
      else none

/-- WRITER_WRITE: the writer goes on with its oldest stream that it can do something for. -/
def State.writerWrite (s : State) (n : Nat) (e : EdgeId) : State :=
  if writer e then (((s.core n).edge e).streams.findSome? (fun x => s.writeTurn n e x)).getD s else s

/-! ### AMAX_SEND (R121, R202) -/

/-- The captures that a writer has taken for a stream: the groups written, and those whole in its buffer. -/
def EdgeUnit.captured (u : EdgeUnit) (x : Stream) : Nat :=
  let nums := (u.buffer.filter (fun b => b.1 == x.sid)).foldl (fun (l : List Nat) b => if l.contains b.2.1 then l else l ++ [b.2.1]) []
  x.written + (nums.filter (fun k => (u.group x.sid k).isSome)).length

/-- A send that 64 more captures have made due. -/
def EdgeUnit.sendDue (u : EdgeUnit) (x : Stream) : Bool := decide (x.sent < u.captured x / 64)

/-- A stream whose running maximum is to be sent: after every 64 captures, and at its close. The field is that of the plain header,
the rule's one destination header; a transposed header's is not used (DEDUCED, assumption 118). -/
def EdgeUnit.amaxDue (u : EdgeUnit) (x : Stream) : Bool :=
  match x.fst.hdr with
  | none => false
  | some h => h.amax != 0 && decide (x.phase < 2) && (u.sendDue x || x.phase == 1)

/-- AMAX_SEND: one AMO.FMAX of a running maximum to its amax field. -/
def State.amaxSend (s : State) (n : Nat) (e : EdgeId) : State :=
  let u := (s.core n).edge e
  match u.streams.find? u.amaxDue with
  | none => s
  | some x =>
    let va := (x.fst.hdr.map (fun h => h.amax)).getD 0
    let p := (s.partOfUnit n).getD 0
    let mark := fun (s : State) (ids : List Nat) => s.updEdge n e (fun u => u.upd x.sid (fun z =>
      { z with sent := z.sent + 1, phase := if z.phase = 1 && !u.sendDue x then 2 else z.phase, amaxOut := z.amaxOut ++ ids }))
    match s.translate p (tlbUnit (x.reader n e)) va .atomic with
    | .error f => (mark s []).fail x.by_ (if f.cause < 0x47 || va % 4 = 0 then f.cause else 0x47) va (if f.cause < 0x47 || va % 4 = 0 then f.status else 0)
    | .ok g =>
      if va % 4 ≠ 0 then (mark s []).fail x.by_ 0x47 va 0
      else (mark s [s.nextId]).submit
        { id := 0, by_ := x.by_, part := p, va := va, pa := g.pa, size := 4, cls := g.cls, kslot := g.kslot,
          op := .amax (x.amax.setWidth 64), acquire := false, release := false, check := none, after := [], born := s.now, status := .waiting,
          dropped := false, reply := none }

/-! ### As device steps -/

/-- WRITER_WRITE. -/
def execWriterWrite (c : Fin 192) (e : EdgeId) (s : State) : Result := .next ((s.writerWrite c e).unblock)
/-- AMAX_SEND. -/
def execAmaxSend (c : Fin 192) (e : EdgeId) (s : State) : Result := .next ((s.amaxSend c e).unblock)

end Sys2Proof.Machine
end

