-- ==== Sys2Proof/Machine/Dispatch.lean ====
section
/-! DEFINITION. The meaning of every instruction and device step: one call per constructor. -/

namespace Sys2Proof.Machine

/-- What an instruction or device step does to the state. -/
def exec (i : Instr) (s : State) : Host.Outcome State Fault Refusal :=
  match i with
  | .add o => Sys2Proof.Machine.execAdd o s
  | .sub o => Sys2Proof.Machine.execSub o s
  | .mul o => Sys2Proof.Machine.execMul o s
  | .mulh o => Sys2Proof.Machine.execMulh o s
  | .mulhu o => Sys2Proof.Machine.execMulhu o s
  | .div o => Sys2Proof.Machine.execDiv o s
  | .divu o => Sys2Proof.Machine.execDivu o s
  | .rem o => Sys2Proof.Machine.execRem o s
  | .remu o => Sys2Proof.Machine.execRemu o s
  | .and o => Sys2Proof.Machine.execAnd o s
  | .or o => Sys2Proof.Machine.execOr o s
  | .xor o => Sys2Proof.Machine.execXor o s
  | .andn o => Sys2Proof.Machine.execAndn o s
  | .shl o => Sys2Proof.Machine.execShl o s
  | .shr o => Sys2Proof.Machine.execShr o s
  | .sra o => Sys2Proof.Machine.execSra o s
  | .rol o => Sys2Proof.Machine.execRol o s
  | .min o => Sys2Proof.Machine.execMin o s
  | .max o => Sys2Proof.Machine.execMax o s
  | .minu o => Sys2Proof.Machine.execMinu o s
  | .maxu o => Sys2Proof.Machine.execMaxu o s
  | .cmp o => Sys2Proof.Machine.execCmp o s
  | .sel o => Sys2Proof.Machine.execSel o s
  | .plog o => Sys2Proof.Machine.execPlog o s
  | .clz o => Sys2Proof.Machine.execClz o s
  | .ctz o => Sys2Proof.Machine.execCtz o s
  | .popc o => Sys2Proof.Machine.execPopc o s
  | .addi o xs => Sys2Proof.Machine.execAddi o xs s
  | .cmpi o xs => Sys2Proof.Machine.execCmpi o xs s
  | .li o xs => Sys2Proof.Machine.execLi o xs s
  | .fadd o => Sys2Proof.Machine.execFadd o s
  | .fsub o => Sys2Proof.Machine.execFsub o s
  | .fmul o => Sys2Proof.Machine.execFmul o s
  | .fma o => Sys2Proof.Machine.execFma o s
  | .fmin o => Sys2Proof.Machine.execFmin o s
  | .fmax o => Sys2Proof.Machine.execFmax o s
  | .fcmp o => Sys2Proof.Machine.execFcmp o s
  | .fcvt o xs => Sys2Proof.Machine.execFcvt o xs s
  | .ld o xs => Sys2Proof.Machine.execLd o xs s
  | .st o xs => Sys2Proof.Machine.execSt o xs s
  | .lda o xs => Sys2Proof.Machine.execLda o xs s
  | .str o xs => Sys2Proof.Machine.execStr o xs s
  | .lde o xs => Sys2Proof.Machine.execLde o xs s
  | .ldeC o xs => Sys2Proof.Machine.execLdeC o xs s
  | .stf o xs => Sys2Proof.Machine.execStf o xs s
  | .grset o => Sys2Proof.Machine.execGrset o s
  | .grclr o => Sys2Proof.Machine.execGrclr o s
  | .pref o xs => Sys2Proof.Machine.execPref o xs s
  | .fence o => Sys2Proof.Machine.execFence o s
  | .tlook o => Sys2Proof.Machine.execTlook o s
  | .tfill o => Sys2Proof.Machine.execTfill o s
  | .tevict o => Sys2Proof.Machine.execTevict o s
  | .mfs o => Sys2Proof.Machine.execMfs o s
  | .mts o => Sys2Proof.Machine.execMts o s
  | .amoAdd o => Sys2Proof.Machine.execAmoAdd o s
  | .amoAnd o => Sys2Proof.Machine.execAmoAnd o s
  | .amoOr o => Sys2Proof.Machine.execAmoOr o s
  | .amoXor o => Sys2Proof.Machine.execAmoXor o s
  | .amoMin o => Sys2Proof.Machine.execAmoMin o s
  | .amoMax o => Sys2Proof.Machine.execAmoMax o s
  | .amoMinu o => Sys2Proof.Machine.execAmoMinu o s
  | .amoMaxu o => Sys2Proof.Machine.execAmoMaxu o s
  | .amoSwp o => Sys2Proof.Machine.execAmoSwp o s
  | .amoCas o => Sys2Proof.Machine.execAmoCas o s
  | .amoFadd o => Sys2Proof.Machine.execAmoFadd o s
  | .amoFmax o => Sys2Proof.Machine.execAmoFmax o s
  | .amoAddD o => Sys2Proof.Machine.execAmoAddD o s
  | .amoAndD o => Sys2Proof.Machine.execAmoAndD o s
  | .amoOrD o => Sys2Proof.Machine.execAmoOrD o s
  | .amoXorD o => Sys2Proof.Machine.execAmoXorD o s
  | .amoMinD o => Sys2Proof.Machine.execAmoMinD o s
  | .amoMaxD o => Sys2Proof.Machine.execAmoMaxD o s
  | .amoMinuD o => Sys2Proof.Machine.execAmoMinuD o s
  | .amoMaxuD o => Sys2Proof.Machine.execAmoMaxuD o s
  | .amoSwpD o => Sys2Proof.Machine.execAmoSwpD o s
  | .amoCasD o => Sys2Proof.Machine.execAmoCasD o s
  | .br o xs => Sys2Proof.Machine.execBr o xs s
  | .bc o xs => Sys2Proof.Machine.execBc o xs s
  | .bcall o xs => Sys2Proof.Machine.execBcall o xs s
  | .ret o => Sys2Proof.Machine.execRet o s
  | .loop o => Sys2Proof.Machine.execLoop o s
  | .loopImm o xs => Sys2Proof.Machine.execLoopImm o xs s
  | .exit => Sys2Proof.Machine.execExit s
  | .trig => Sys2Proof.Machine.execTrig s
  | .yield => Sys2Proof.Machine.execYield s
  | .trap o => Sys2Proof.Machine.execTrap o s
  | .eret => Sys2Proof.Machine.execEret s
  | .nop => Sys2Proof.Machine.execNop s
  | .sleep o => Sys2Proof.Machine.execSleep o s
  | .cpy o => Sys2Proof.Machine.execCpy o s
  | .cpyx o => Sys2Proof.Machine.execCpyx o s
  | .waitid o => Sys2Proof.Machine.execWaitid o s
  | .winit o => Sys2Proof.Machine.execWinit o s
  | .warr o => Sys2Proof.Machine.execWarr o s
  | .wdrop o => Sys2Proof.Machine.execWdrop o s
  | .wwait o => Sys2Proof.Machine.execWwait o s
  | .wtest o => Sys2Proof.Machine.execWtest o s
  | .qpost o => Sys2Proof.Machine.execQpost o s
  | .bopen o => Sys2Proof.Machine.execBopen o s
  | .bclose o => Sys2Proof.Machine.execBclose o s
  | .elw o => Sys2Proof.Machine.execElw o s
  | .eln o => Sys2Proof.Machine.execEln o s
  | .ewe o => Sys2Proof.Machine.execEwe o s
  | .ews o => Sys2Proof.Machine.execEws o s
  | .edrain o => Sys2Proof.Machine.execEdrain o s
  | .mov o xs => Sys2Proof.Machine.execMov o xs s
  | .movh o xs => Sys2Proof.Machine.execMovh o xs s
  | .lds o xs => Sys2Proof.Machine.execLds o xs s
  | .sts o xs => Sys2Proof.Machine.execSts o xs s
  | .imm o xs => Sys2Proof.Machine.execImm o xs s
  | .rowcol o xs => Sys2Proof.Machine.execRowcol o xs s
  | .perm o xs => Sys2Proof.Machine.execPerm o xs s
  | .pack o xs => Sys2Proof.Machine.execPack o xs s
  | .unpk o xs => Sys2Proof.Machine.execUnpk o xs s
  | .cvt o xs => Sys2Proof.Machine.execCvt o xs s
  | .qlog o xs => Sys2Proof.Machine.execQlog o xs s
  | .qset o xs => Sys2Proof.Machine.execQset o xs s
  | .cellFadd o xs => Sys2Proof.Machine.execCellFadd o xs s
  | .cellFsub o xs => Sys2Proof.Machine.execCellFsub o xs s
  | .cellFmul o xs => Sys2Proof.Machine.execCellFmul o xs s
  | .cellFma o xs => Sys2Proof.Machine.execCellFma o xs s
  | .cellFmin o xs => Sys2Proof.Machine.execCellFmin o xs s
  | .cellFmax o xs => Sys2Proof.Machine.execCellFmax o xs s
  | .fsgn o xs => Sys2Proof.Machine.execFsgn o xs s
  | .cellFcmp o xs => Sys2Proof.Machine.execCellFcmp o xs s
  | .fsel o xs => Sys2Proof.Machine.execFsel o xs s
  | .frcp o xs => Sys2Proof.Machine.execFrcp o xs s
  | .frsq o xs => Sys2Proof.Machine.execFrsq o xs s
  | .fsqrt o xs => Sys2Proof.Machine.execFsqrt o xs s
  | .fdiv o xs => Sys2Proof.Machine.execFdiv o xs s
  | .fexp2 o xs => Sys2Proof.Machine.execFexp2 o xs s
  | .flog2 o xs => Sys2Proof.Machine.execFlog2 o xs s
  | .fsum o xs => Sys2Proof.Machine.execFsum o xs s
  | .iadd o xs => Sys2Proof.Machine.execIadd o xs s
  | .isub o xs => Sys2Proof.Machine.execIsub o xs s
  | .imul o xs => Sys2Proof.Machine.execImul o xs s
  | .iand o xs => Sys2Proof.Machine.execIand o xs s
  | .ior o xs => Sys2Proof.Machine.execIor o xs s
  | .ixor o xs => Sys2Proof.Machine.execIxor o xs s
  | .ishl o xs => Sys2Proof.Machine.execIshl o xs s
  | .ishr o xs => Sys2Proof.Machine.execIshr o xs s
  | .isra o xs => Sys2Proof.Machine.execIsra o xs s
  | .imin o xs => Sys2Proof.Machine.execImin o xs s
  | .imax o xs => Sys2Proof.Machine.execImax o xs s
  | .icmp o xs => Sys2Proof.Machine.execIcmp o xs s
  | .scl o => Sys2Proof.Machine.execScl o s
  | .mac o xs => Sys2Proof.Machine.execMac o xs s
  | .macs o xs => Sys2Proof.Machine.execMacs o xs s
  | .macv o xs => Sys2Proof.Machine.execMacv o xs s
  | .vbeg o xs => Sys2Proof.Machine.execVbeg o xs s
  | .vthr o => Sys2Proof.Machine.execVthr o s
  | .accz o => Sys2Proof.Machine.execAccz o s
  | .accrd o xs => Sys2Proof.Machine.execAccrd o xs s
  | .accwr o xs => Sys2Proof.Machine.execAccwr o xs s
  | .amax o xs => Sys2Proof.Machine.execAmax o xs s
  | .vtest o xs => Sys2Proof.Machine.execVtest o xs s
  | .cellVsel o xs => Sys2Proof.Machine.execCellVsel o xs s
  | .lup o => Sys2Proof.Machine.execLup o s
  | .chol o => Sys2Proof.Machine.execChol o s
  | .qrh o => Sys2Proof.Machine.execQrh o s
  | .trsm o => Sys2Proof.Machine.execTrsm o s
  | .seli o xs => Sys2Proof.Machine.execSeli o xs s
  | .selx o => Sys2Proof.Machine.execSelx o s
  | .wflg o => Sys2Proof.Machine.execWflg o s
  | .wdrain => Sys2Proof.Machine.execWdrain s
  | .pvst o => Sys2Proof.Machine.execPvst o s
  | .vld o xs => Sys2Proof.Machine.execVld o xs s
  | .vst o xs => Sys2Proof.Machine.execVst o xs s
  | .vgth o xs => Sys2Proof.Machine.execVgth o xs s
  | .vsct o xs => Sys2Proof.Machine.execVsct o xs s
  | .tstr o xs => Sys2Proof.Machine.execTstr o xs s
  | .vadd o xs => Sys2Proof.Machine.execVadd o xs s
  | .vsub o xs => Sys2Proof.Machine.execVsub o xs s
  | .vmul o xs => Sys2Proof.Machine.execVmul o xs s
  | .vfma o xs => Sys2Proof.Machine.execVfma o xs s
  | .vmin o xs => Sys2Proof.Machine.execVmin o xs s
  | .vmax o xs => Sys2Proof.Machine.execVmax o xs s
  | .vcmp o xs => Sys2Proof.Machine.execVcmp o xs s
  | .vsel o xs => Sys2Proof.Machine.execVsel o xs s
  | .vcvt o xs => Sys2Proof.Machine.execVcvt o xs s
  | .vred o xs => Sys2Proof.Machine.execVred o xs s
  | .viota o xs => Sys2Proof.Machine.execViota o xs s
  | .vmov o xs => Sys2Proof.Machine.execVmov o xs s
  | .vdedup o xs => Sys2Proof.Machine.execVdedup o xs s
  | .vpool o xs => Sys2Proof.Machine.execVpool o xs s
  | .hgld o => Sys2Proof.Machine.execHgld o s
  | .hgsc o => Sys2Proof.Machine.execHgsc o s
  | .queueDescriptorWrite k n p v => Sys2Proof.Machine.execQueueDescriptorWrite k n p v s
  | .routeTableWrite p m v => Sys2Proof.Machine.execRouteTableWrite p m v s
  | .registerWrite off v => Sys2Proof.Machine.execRegisterWrite off v s
  | .hostWindowAccess o a => Sys2Proof.Machine.execHostWindowAccess o a s
  | .hostAtomicop o k wide v cmp => Sys2Proof.Machine.execHostAtomicop o k wide v cmp s
  | .launchPosted q => Sys2Proof.Machine.execLaunchPosted q s
  | .dependencyWrite q => Sys2Proof.Machine.execDependencyWrite q s
  | .dispatch p => Sys2Proof.Machine.execDispatch p s
  | .trigger u t => Sys2Proof.Machine.execTrigger u t s
  | .threadEnd u t => Sys2Proof.Machine.execThreadEnd u t s
  | .completionRecord l => Sys2Proof.Machine.execCompletionRecord l s
  | .append u t => Sys2Proof.Machine.execAppend u t s
  | .copyStart c => Sys2Proof.Machine.execCopyStart c s
  | .copyUnit c n => Sys2Proof.Machine.execCopyUnit c n s
  | .copyLanding c n => Sys2Proof.Machine.execCopyLanding c n s
  | .copyComplete c n => Sys2Proof.Machine.execCopyComplete c n s
  | .taskStart q => Sys2Proof.Machine.execTaskStart q s
  | .wellOperation n => Sys2Proof.Machine.execWellOperation n s
  | .calendarSlot ch slot => Sys2Proof.Machine.execCalendarSlot ch slot s
  | .readLanding n => Sys2Proof.Machine.execReadLanding n s
  | .storeAck n => Sys2Proof.Machine.execStoreAck n s
  | .bankAccess c => Sys2Proof.Machine.execBankAccess c s
  | .ldeRetry c => Sys2Proof.Machine.execLdeRetry c s
  | .pageWalk u va => Sys2Proof.Machine.execPageWalk u va s
  | .blotterSwap n => Sys2Proof.Machine.execBlotterSwap n s
  | .layoutTakesEffect p => Sys2Proof.Machine.execLayoutTakesEffect p s
  | .bulkReservation ch => Sys2Proof.Machine.execBulkReservation ch s
  | .openBankRefresh ch => Sys2Proof.Machine.execOpenBankRefresh ch s
  | .scrub line => Sys2Proof.Machine.execScrub line s
  | .phyRecalibration ch ok => Sys2Proof.Machine.execPhyRecalibration ch ok s
  | .nibDeparture c => Sys2Proof.Machine.execNibDeparture c s
  | .cellExecute c => Sys2Proof.Machine.execCellExecute c s
  | .holdDrop c => Sys2Proof.Machine.execHoldDrop c s
  | .holdLimit c => Sys2Proof.Machine.execHoldLimit c s
  | .aggregateValid c => Sys2Proof.Machine.execAggregateValid c s
  | .headerRead c e => Sys2Proof.Machine.execHeaderRead c e s
  | .streamActivate c e => Sys2Proof.Machine.execStreamActivate c e s
  | .writerWrite c e => Sys2Proof.Machine.execWriterWrite c e s
  | .amaxSend c e => Sys2Proof.Machine.execAmaxSend c e s
  | .strokeStep c => Sys2Proof.Machine.execStrokeStep c s
  | .sleepExpiry u t => Sys2Proof.Machine.execSleepExpiry u t s
  | .faultQueueWrite p => Sys2Proof.Machine.execFaultQueueWrite p s
  | .launchEnd p => Sys2Proof.Machine.execLaunchEnd p s
  | .actWrite p n => Sys2Proof.Machine.execActWrite p n s
  | .resumeEntry p => Sys2Proof.Machine.execResumeEntry p s
  | .contextSave c => Sys2Proof.Machine.execContextSave c s
  | .flitReceive port f => Sys2Proof.Machine.execFlitReceive port f s
  | .portDown port => Sys2Proof.Machine.execPortDown port s
  | .responseTimeout n => Sys2Proof.Machine.execResponseTimeout n s
  | .rhotonSample n supplyLow r => Sys2Proof.Machine.execRhotonSample n supplyLow r s
  | .clockChange n c => Sys2Proof.Machine.execClockChange n c s
  | .keyDelivery k => Sys2Proof.Machine.execKeyDelivery k s
  | .measurementRequest n => Sys2Proof.Machine.execMeasurementRequest n s
  | .replayTimeout p => Sys2Proof.Machine.execReplayTimeout p s
  | .islandRestart n => Sys2Proof.Machine.execIslandRestart n s
  | .phyReset port => Sys2Proof.Machine.execPhyReset port s
  | .selfCheckFailure u => Sys2Proof.Machine.execSelfCheckFailure u s
  | .softError k double => Sys2Proof.Machine.execSoftError k double s
  | .moduleReset => Sys2Proof.Machine.execModuleReset s
  | .pcreate => Sys2Proof.Machine.execPcreate s
  | .pdestroy => Sys2Proof.Machine.execPdestroy s
  | .setcal => Sys2Proof.Machine.execSetcal s
  | .setres => Sys2Proof.Machine.execSetres s
  | .shoot => Sys2Proof.Machine.execShoot s
  | .switch => Sys2Proof.Machine.execSwitch s
  | .resume => Sys2Proof.Machine.execResume s
  | .repair => Sys2Proof.Machine.execRepair s
  | .keydrop => Sys2Proof.Machine.execKeydrop s
  | .record => Sys2Proof.Machine.execRecord s
  | .replay => Sys2Proof.Machine.execReplay s
  | .update => Sys2Proof.Machine.execUpdate s

end Sys2Proof.Machine
end

