-- ==== Sys2Proof/Machine/SlotOf.lean ====
section
/-! DEFINITION. The slot meaning of every slot instruction, by which a bundle of several slots runs. -/

namespace Sys2Proof.Machine

/-- The meaning of an instruction as one slot of a bundle. Device steps are no slots; no decoded bundle holds one. -/
def slotOf : Instr → Slot
  | .add o => slotAdd o
  | .sub o => slotSub o
  | .mul o => slotMul o
  | .mulh o => slotMulh o
  | .mulhu o => slotMulhu o
  | .div o => slotDiv o
  | .divu o => slotDivu o
  | .rem o => slotRem o
  | .remu o => slotRemu o
  | .and o => slotAnd o
  | .or o => slotOr o
  | .xor o => slotXor o
  | .andn o => slotAndn o
  | .shl o => slotShl o
  | .shr o => slotShr o
  | .sra o => slotSra o
  | .rol o => slotRol o
  | .min o => slotMin o
  | .max o => slotMax o
  | .minu o => slotMinu o
  | .maxu o => slotMaxu o
  | .cmp o => slotCmp o
  | .sel o => slotSel o
  | .plog o => slotPlog o
  | .clz o => slotClz o
  | .ctz o => slotCtz o
  | .popc o => slotPopc o
  | .addi o xs => slotAddi o xs
  | .cmpi o xs => slotCmpi o xs
  | .li o xs => slotLi o xs
  | .fadd o => slotFadd o
  | .fsub o => slotFsub o
  | .fmul o => slotFmul o
  | .fma o => slotFma o
  | .fmin o => slotFmin o
  | .fmax o => slotFmax o
  | .fcmp o => slotFcmp o
  | .fcvt o xs => slotFcvt o xs
  | .ld o xs => slotLd o xs
  | .st o xs => slotSt o xs
  | .lda o xs => slotLda o xs
  | .str o xs => slotStr o xs
  | .lde o xs => slotLde o xs
  | .ldeC o xs => slotLdeC o xs
  | .stf o xs => slotStf o xs
  | .grset o => slotGrset o
  | .grclr o => slotGrclr o
  | .pref o xs => slotPref o xs
  | .fence o => slotFence o
  | .tlook o => slotTlook o
  | .tfill o => slotTfill o
  | .tevict o => slotTevict o
  | .mfs o => slotMfs o
  | .mts o => slotMts o
  | .amoAdd o => slotAmoAdd o
  | .amoAnd o => slotAmoAnd o
  | .amoOr o => slotAmoOr o
  | .amoXor o => slotAmoXor o
  | .amoMin o => slotAmoMin o
  | .amoMax o => slotAmoMax o
  | .amoMinu o => slotAmoMinu o
  | .amoMaxu o => slotAmoMaxu o
  | .amoSwp o => slotAmoSwp o
  | .amoCas o => slotAmoCas o
  | .amoFadd o => slotAmoFadd o
  | .amoFmax o => slotAmoFmax o
  | .amoAddD o => slotAmoAddD o
  | .amoAndD o => slotAmoAndD o
  | .amoOrD o => slotAmoOrD o
  | .amoXorD o => slotAmoXorD o
  | .amoMinD o => slotAmoMinD o
  | .amoMaxD o => slotAmoMaxD o
  | .amoMinuD o => slotAmoMinuD o
  | .amoMaxuD o => slotAmoMaxuD o
  | .amoSwpD o => slotAmoSwpD o
  | .amoCasD o => slotAmoCasD o
  | .br o xs => slotBr o xs
  | .bc o xs => slotBc o xs
  | .bcall o xs => slotBcall o xs
  | .ret o => slotRet o
  | .loop o => slotLoop o
  | .loopImm o xs => slotLoopImm o xs
  | .exit => slotExit
  | .trig => slotTrig
  | .yield => slotYield
  | .trap o => slotTrap o
  | .eret => slotEret
  | .nop => slotNop
  | .sleep o => slotSleep o
  | .cpy o => slotCpy o
  | .cpyx o => slotCpyx o
  | .waitid o => slotWaitid o
  | .winit o => slotWinit o
  | .warr o => slotWarr o
  | .wdrop o => slotWdrop o
  | .wwait o => slotWwait o
  | .wtest o => slotWtest o
  | .qpost o => slotQpost o
  | .bopen o => slotBopen o
  | .bclose o => slotBclose o
  | .elw o => slotElw o
  | .eln o => slotEln o
  | .ewe o => slotEwe o
  | .ews o => slotEws o
  | .edrain o => slotEdrain o
  | .mov o xs => slotMov o xs
  | .movh o xs => slotMovh o xs
  | .lds o xs => slotLds o xs
  | .sts o xs => slotSts o xs
  | .imm o xs => slotImm o xs
  | .rowcol o xs => slotRowcol o xs
  | .perm o xs => slotPerm o xs
  | .pack o xs => slotPack o xs
  | .unpk o xs => slotUnpk o xs
  | .cvt o xs => slotCvt o xs
  | .qlog o xs => slotQlog o xs
  | .qset o xs => slotQset o xs
  | .cellFadd o xs => slotCellFadd o xs
  | .cellFsub o xs => slotCellFsub o xs
  | .cellFmul o xs => slotCellFmul o xs
  | .cellFma o xs => slotCellFma o xs
  | .cellFmin o xs => slotCellFmin o xs
  | .cellFmax o xs => slotCellFmax o xs
  | .fsgn o xs => slotFsgn o xs
  | .cellFcmp o xs => slotCellFcmp o xs
  | .fsel o xs => slotFsel o xs
  | .frcp o xs => slotFrcp o xs
  | .frsq o xs => slotFrsq o xs
  | .fsqrt o xs => slotFsqrt o xs
  | .fdiv o xs => slotFdiv o xs
  | .fexp2 o xs => slotFexp2 o xs
  | .flog2 o xs => slotFlog2 o xs
  | .fsum o xs => slotFsum o xs
  | .iadd o xs => slotIadd o xs
  | .isub o xs => slotIsub o xs
  | .imul o xs => slotImul o xs
  | .iand o xs => slotIand o xs
  | .ior o xs => slotIor o xs
  | .ixor o xs => slotIxor o xs
  | .ishl o xs => slotIshl o xs
  | .ishr o xs => slotIshr o xs
  | .isra o xs => slotIsra o xs
  | .imin o xs => slotImin o xs
  | .imax o xs => slotImax o xs
  | .icmp o xs => slotIcmp o xs
  | .scl o => slotScl o
  | .mac o xs => slotMac o xs
  | .macs o xs => slotMacs o xs
  | .macv o xs => slotMacv o xs
  | .vbeg o xs => slotVbeg o xs
  | .vthr o => slotVthr o
  | .accz o => slotAccz o
  | .accrd o xs => slotAccrd o xs
  | .accwr o xs => slotAccwr o xs
  | .amax o xs => slotAmax o xs
  | .vtest o xs => slotVtest o xs
  | .cellVsel o xs => slotCellVsel o xs
  | .lup o => slotLup o
  | .chol o => slotChol o
  | .qrh o => slotQrh o
  | .trsm o => slotTrsm o
  | .seli o xs => slotSeli o xs
  | .selx o => slotSelx o
  | .wflg o => slotWflg o
  | .wdrain => slotWdrain
  | .pvst o => slotPvst o
  | .vld o xs => slotVld o xs
  | .vst o xs => slotVst o xs
  | .vgth o xs => slotVgth o xs
  | .vsct o xs => slotVsct o xs
  | .tstr o xs => slotTstr o xs
  | .vadd o xs => slotVadd o xs
  | .vsub o xs => slotVsub o xs
  | .vmul o xs => slotVmul o xs
  | .vfma o xs => slotVfma o xs
  | .vmin o xs => slotVmin o xs
  | .vmax o xs => slotVmax o xs
  | .vcmp o xs => slotVcmp o xs
  | .vsel o xs => slotVsel o xs
  | .vcvt o xs => slotVcvt o xs
  | .vred o xs => slotVred o xs
  | .viota o xs => slotViota o xs
  | .vmov o xs => slotVmov o xs
  | .vdedup o xs => slotVdedup o xs
  | .vpool o xs => slotVpool o xs
  | .hgld o => slotHgld o
  | .hgsc o => slotHgsc o
  | _ => slotNop

end Sys2Proof.Machine
end

