-- ==== Sys2Proof/Machine/Fetch.lean ====
section
/-! DEFINITION. Which thread issues next (R92), and the fetch of its bundle from memory or from the loop buffer (R129, R206,
R221, R452, R469). -/

namespace Sys2Proof.Machine

/-! ### Threads that may issue (R17, R88, R92, R264, R414, R417) -/

/-- A resumed task runs on while its gang is being switched out, until the waves of the gang's cores have drained (R423). -/
def State.drainsBy (s : State) (o : Owner) (g : Gang) : Bool :=
  match o, g.place with
  | .task t, .switching _ => (s.taskOf t).any (fun k => k.go) && g.cores.any (fun n => !(s.core n).drained)
  | _, _ => false

/-- Whether the owner of a thread lets it issue: its gang resident, itself not parked, its launch not ended (R89, R414). -/
def State.ownerRuns (s : State) (o : Owner) : Bool :=
  !s.launchFailed (s.ownerLaunch o) &&
  (match o with
    | .task t => (match s.taskOf t with | some k => !k.parked && k.done.isNone | none => false)
    | .gang g => (match s.gangOf g with | some k => k.parks == 0 | none => true)
    | .none => true) &&
  (match (s.ownerGang o).bind s.gangOf with
    | some g => decide (g.place = .resident) || s.drainsBy o g
    | none => true)

/-- A thread that could issue, the occupancy of its last bundle and YIELD apart. -/
def State.threadFree (s : State) (u t : Nat) : Bool :=
  let th := s.thread u t
  th.status == .run && !th.blocked && !th.sleeping && !th.stopped && !s.checkOut u t && s.ownerRuns th.owner &&
  !(s.seq u).retired && !(isCore u && (s.core u).down) && !(s.island (islandOfUnit u)).stopped

/-- The first cycle of its island in which a thread may issue: its last bundle no longer occupies it, nor its sequencer (R92, R234). -/
def State.issueAt (s : State) (u t : Nat) : Nat := max (s.thread u t).waitUntil (s.seq u).freeAt

/-- A ready thread. -/
def State.threadReady (s : State) (u t : Nat) : Bool := s.threadFree u t && decide (s.issueAt u t ≤ s.cycles u)

/-- A thread that has yielded waits for the ready threads it named (R264). -/
def State.mayIssue (s : State) (u t : Nat) : Bool :=
  s.threadReady u t && (s.thread u t).yielded.all (fun j => !s.threadReady u j)

/-- The thread of a sequencer that issues: the one that holds issue, or the next one in ascending number (R92). -/
def State.issuer (s : State) (u : Nat) : Option Nat :=
  ((List.range 4).map (fun i => ((s.seq u).cur + i) % 4)).find? (fun t => s.mayIssue u t)

/-- The sequencers that hold work, from the one whose turn it is on. -/
def State.unitOrder (s : State) : List Nat :=
  let us := s.seqs.map (fun e => e.1)
  us.filter (fun u => s.curUnit ≤ u) ++ us.filter (fun u => u < s.curUnit)

/-- The sequencer and thread that issue next. -/
def State.nextIssuer (s : State) : Option (Nat × Nat) :=
  s.unitOrder.findSome? (fun u => (s.issuer u).map (fun t => (u, t)))

/-- The turn passes to the sequencer after the one that issued last. -/
def State.nextUnit (s : State) : State :=
  let us := s.seqs.map (fun e => e.1)
  { s with curUnit := match us.find? (fun u => s.curUnit < u) with
             | some u => u
             | none => us.headD 0 }

/-- The times at which threads that may not issue yet may. -/
def State.dueCycles (s : State) : List Nat :=
  s.seqs.flatMap (fun e => ((List.range 4).filter (fun t => s.threadFree e.1 t)).map (fun t => s.timeOfCycle e.1 (s.issueAt e.1 t)))

/-- A controller cycle in which nothing happens; every thread that has blocked tries again. -/
def State.tick (s : State) : State := s.unblock.ccTo (s.cc + 1)

/-! ### Fetch -/

/-- What a fetch yields: words, a fault found before the bundle's check, or a word that another module must send. -/
inductive Fetched where
  | words (ws : List SlotWord)
  | fault (cause addr : Nat) (status : BitVec 32)
  | wait (va : Nat) (g : Target)
  deriving DecidableEq, Repr

/-- One word of a bundle. -/
def State.fetchWord (s : State) (p u t : Nat) (va : Nat) : Fetched :=
  match s.translate p u va .fetch with
  | .error e => .fault e.cause va e.status
  | .ok g =>
    if !s.isLocal g then
      match s.inbox.find? (fun m => m.unit == u && m.thr == t && m.pa == g.pa) with
      | some m => if m.cause ≠ 0 then .fault m.cause va m.status else if m.poison then .fault 0x4C va 0
                  else .words [BitVec.ofNat 32 (leNat m.bytes)]
      | none => .wait va g
    else match s.homeCause p g with
      | some c => .fault c va 0
      | none => if s.poisonedAt g then .fault 0x4C va 0 else .words [BitVec.ofNat 32 (leNat (s.readAt p g 4))]

/-- The words of a bundle: at most n, up to the first with a stop bit (R206). -/
def State.fetchWords (s : State) (p u t : Nat) : Nat → Nat → Fetched
  | 0, _ => .words []
  | n + 1, va =>
    match s.fetchWord p u t va with
    | .words ws =>
      if ws.any slotStop then .words ws
      else match s.fetchWords p u t n (va + 4) with
        | .words rest => .words (ws ++ rest)
        | e => e
    | e => e

/-- The bundle a thread issues next: from its loop buffer while the body repeats (R221), else from memory. A bundle does not
lie at an address that is no multiple of four (R206, R455). -/
def State.fetchBundle (s : State) (u t : Nat) : Fetched :=
  let th := s.thread u t
  let held := th.loop.bind (fun l => if l.susp.isSome then none else l.entries[l.pos]?)
  match held with
  | some e => .words e.2
  | none =>
    if th.pc.toNat % 4 ≠ 0 then .fault 0x47 th.pc.toNat 0
    else s.fetchWords ((s.partOfUnit u).getD 0) u t 8 th.pc.toNat

/-- The bundle comes from the loop buffer (R221). -/
def Thread.fromBuffer (th : Thread) : Bool := (th.loop.bind (fun l => if l.susp.isSome then none else l.entries[l.pos]?)).isSome

/-- What the fetch of a word leaves behind: the walk of its page, and the access of its line at the home slice (R131, R144, R146). -/
def State.fetchTouch (s : State) (p u va : Nat) : State :=
  match s.translate p u va .fetch with
  | .error _ => s
  | .ok g =>
    let s1 := s.walked u p va
    match locate (localOf g.pa), s.isLocal g with
    | .hbm _ _, true => (s1.touch (s1.keyFor p g.cls g.kslot) g.cls false false (localOf g.pa)).2
    | _, _ => s1

/-- The lines that a bundle of n words is fetched from are accessed, one after another. -/
def State.fetched (s : State) (u t n : Nat) : State :=
  let th := s.thread u t
  if th.fromBuffer then s
  else
    let p := (s.partOfUnit u).getD 0
    let va := th.pc.toNat
    let s1 := s.fetchTouch p u va
    if (va + 4 * n - 1) / 128 = va / 128 then s1 else s1.fetchTouch p u ((va + 4 * n - 1) / 128 * 128)

/-- The address a bundle stands at: in the loop buffer, the one it was fetched from. -/
def Thread.bundleAt (th : Thread) : Word :=
  match th.loop.bind (fun l => if l.susp.isSome then none else l.entries[l.pos]?) with
  | some e => e.1
  | none => th.pc

/-- The loop buffer takes the bundle fetched at its next position (R221). -/
def Thread.record (th : Thread) (pc : Word) (ws : List SlotWord) : Thread :=
  { th with loop := th.loop.map (fun l =>
      if l.susp.isNone && l.entries.length = l.pos then { l with entries := l.entries ++ [(pc, ws)] } else l) }

/-- A loop of count 0 passes over its bundles (R221). -/
def Thread.skip (th : Thread) (next : Word) : Thread :=
  match th.loop with
  | none => th
  | some l =>
    if l.pos + 1 < l.len then { th with pc := next, loop := some { l with pos := l.pos + 1 } }
    else { th with pc := next, loop := none }

/-- A word of a bundle is asked of another module; the thread waits (R159). -/
def State.askWord (s : State) (u t va : Nat) (g : Target) : State :=
  let s1 := s.blockThread u t
  if (s.reqsOf u t).any (fun r => r.op == .fetch && r.va == va) then s1
  else
    let th := s.thread u t
    s1.submit { id := 0, by_ := ⟨u, t, th.owner, th.pc, 15, 0⟩, part := (s.partOfUnit u).getD 0, va := va, pa := g.pa,
                size := 4, cls := g.cls, kslot := g.kslot, op := .fetch, acquire := false, release := false, check := none,
                after := [], born := s.now, status := .waiting, dropped := false, reply := none }

/-- A thread before its next bundle: the bundle of one slot to issue and the state that issues it, or the state after the
pending trap, the fault, the wait or the bundle of several slots. -/
inductive Turn where
  | one (i : Instr) (s : State)
  | done (s : State)

/-- The decoded slots of a bundle as they run. -/
def slotRuns (is : List (Instr × RawSlot)) : List SlotRun := is.map (fun e => ⟨e.1, e.2.pos, e.2.word, slotOf e.1⟩)

/-- In a bundle whose check finds a reserved encoding at position p, a well-formed slot before it may have a fault of its own at
check, and the lowest slot counts (R427): its position, its class and the stop. The slot that an X slot at p exceeds is one of
them. -/
def State.earlierStop (s : State) (u t : Nat) (pc next : Word) (ws : List SlotWord) (p : Nat) : Option (Nat × Nat × Stop) :=
  match checkSlots (isQuill u) [] (rawSlots 0 (ws.take p) []) with
  | .error _ => none
  | .ok is =>
    let slots := slotRuns is
    match firstStop (runSlots (s.seq u) (fun k => k.run ⟨u, t, pc, next, k.pos, k.word⟩ s) (s.issueAs u t pc) [] slots) with
    | some (q, e) => if e.stage = 0 then some (q, ((slots.find? (fun k => k.pos == q)).map (fun k => classNum k.word)).getD 15, e) else none
    | none => none

/-- A bundle whose words are at hand. -/
def State.issueWords (s : State) (u t : Nat) (pc : Word) (ws : List SlotWord) : Turn :=
  let next := pc + BitVec.ofNat 64 (4 * ws.length)
  let s0 := { s with inbox := s.inbox.filter (fun m => !(m.unit == u && m.thr == t)) }
  if (s.thread u t).skipping then .done (s0.updThread u t (fun th => th.skip next))
  else
    let s1 := s0.updThread u t (fun th => th.record pc ws)
    match checkBundle (isQuill u) ws with
    | .error (k, r) =>
      match s1.earlierStop u t pc next ws r.pos with
      | some (q, c, e) => .done (s1.stopAt u t pc q c e)
      | none => .done (s1.stopAt u t pc r.pos (classNum r.word) (.checkTrap 0x10 k r.word))
    | .ok [(i, _)] => .one i s1
    | .ok is => .done (s1.runBundle u t pc next (slotRuns is))

/-- The next bundle of thread t of unit u, which takes the issue of its sequencer (R92). -/
def State.turnOf (s : State) (u t : Nat) : Turn :=
  let s1 := { s.setSeq u { s.seq u with cur := t } with curUnit := u }
  let th := s1.thread u t
  if !th.traps.isEmpty && !th.skipping then .done (s1.boundary u t th.bundleAt)
  else match s1.fetchBundle u t with
    | .words ws => (s1.fetched u t ws.length).issueWords u t th.bundleAt ws
    | .wait va g => .done (s1.askWord u t va g)
    | .fault cause addr status => .done (s1.stopAt u t th.pc 0 15 (.xlate cause addr status))

end Sys2Proof.Machine
end

