-- ==== Sys2Proof/Machine/Agenda.lean ====
section
/-! DEFINITION. Which device step happens next when none is given from outside: some step that can happen and changes the state. The
manual orders device steps by its rules alone; those rules stand in the steps, and any step that they allow may be chosen. And what
follows every step at once: what watches memory and time looks again. -/

namespace Sys2Proof.Machine

/-- A device step that changes more than the marks of blocked threads. -/
def State.stepEffect (s : State) (e : Instr) : Bool :=
  match exec e s with
  | .next t => decide (t ≠ s.unblock)
  | _ => false

/-! ### After every step (R68, R72, R81, R174, R273, R275, R276, R413, R441) -/

/-- A wait on another core's well is reported once the well's phase is another than the one it waits to leave (R273). -/
def Thread.watchWell (th : Thread) (s : State) : Thread :=
  match th.wellWait with
  | some (pa, ph, seen) => if !seen && s.wellPhase pa != ph then { th with wellWait := some (pa, ph, true) } else th
  | none => th

def State.watchWells (s : State) : State :=
  { s with seqs := s.seqs.map (fun e => (e.1, { e.2 with threads := e.2.threads.map (fun th => th.watchWell s) })) }

/-- What follows a step before the next one: rotation boundaries that have passed have their effect on bulk runs, tasks that have ended report,
and the slots of rings, dependency entries, the pointers of the queues, waits on wells, counts of holds and ACT words are looked at
again. -/
def State.settled (s : State) : State := s.boundaries.reportTasks.watchRings.watchDeps.watchPointers.watchWells.watchHolds.watchActs

/-! ### Steps that may be due -/

/-- The command at the head of the ring; one with a reserved OP completes by any of these steps. -/
def State.commandEvents (s : State) : List Instr :=
  match s.command with
  | none => []
  | some bs =>
    let steps := [Instr.pcreate, .pdestroy, .setcal, .setres, .shoot, .switch, .resume, .repair, .keydrop, .record, .replay, .update]
    [(steps[cmdOp bs - 1]?).getD .pcreate]

/-- Steps of a partition's scheduler. -/
def State.partEvents (s : State) : List Instr :=
  ((List.range 8).filter (fun p => (s.part p).present)).flatMap (fun p =>
    let n := Fin.ofNat 8 p
    (if s.launches.any (fun l => l.cause.isSome) && s.cores.all (fun e => e.2.waveFault.all (fun a => 2 ≤ a)) then [.launchEnd n] else []) ++
    (if s.faults.isEmpty then [] else [.faultQueueWrite n]) ++ (if s.entries.any (fun e => e.go) then [.resumeEntry n] else []) ++
    (s.entries.filter (fun e => e.part == p && e.act != 0 && !e.go)).map (fun e => .actWrite n (Fin.ofNat 1024 e.idx)))

/-- Steps of queues, launches, copies and tasks. -/
def State.queueEvents (s : State) : List Instr :=
  s.launchQ.flatMap (fun e =>
    (if s.ringDue e.2 4096 1 then [.launchPosted (Fin.ofNat 64 e.1)] else []) ++
    (if s.launches.any (fun l => l.state == .waiting) then [.dependencyWrite (Fin.ofNat 64 e.1)] else [])) ++
  (s.launches.filter (fun l => l.cause.isSome || l.state == .draining || l.state == .done)).map (fun l => .completionRecord l.id) ++
  s.copyQ.filterMap (fun e => if s.ringDue e.2 1024 2 then some (.copyStart (Fin.ofNat 256 e.1)) else none) ++
  s.copies.flatMap (fun c =>
    let ch := Fin.ofNat 256 c.chan
    [.copyUnit ch c.id, .copyLanding ch c.id, .copyComplete ch c.id]) ++
  s.taskQ.filterMap (fun e => if s.ringDue e.2 256 3 then some (.taskStart (Fin.ofNat 32 e.1)) else none)

/-- Steps of the threads of a sequencer. -/
def Seq.events (u : Nat) (q : Seq) : List Instr :=
  let u := Fin.ofNat 224 u
  (List.range 4).flatMap (fun t =>
    let th := q.threads.getD t Thread.reset
    let t := Fin.ofNat 4 t
    (if th.trig.isSome then [.trigger u t] else []) ++ (if th.status = .exiting || th.status = .dropping then [.threadEnd u t] else []))

/-- Steps of the edge units of a core. -/
def CoreArr.edgeEvents (k : CoreArr) (n : Fin 192) : List Instr :=
  [EdgeId.west, EdgeId.north, EdgeId.east, EdgeId.south].flatMap (fun e =>
    if (k.edge e).streams.isEmpty then []
    else [.headerRead n e, .streamActivate n e] ++ (if writer e then [.writerWrite n e, .amaxSend n e] else []))

/-- Clocks to be changed, recorded flits to be re-injected, and appends. -/
def State.otherEvents (s : State) : List Instr :=
  s.islands.filterMap (fun e => e.2.wanted.map (fun w => .clockChange (Fin.ofNat 64 e.1) ⟨w.1, w.2⟩)) ++
  s.copybooks.filterMap (fun c => if c.replay && c.launch.isSome && !c.diverged then c.flits.head?.map (fun f => .flitReceive (Fin.ofNat 16 f.1) f.2) else none) ++
  s.appends.filterMap (fun a => if a.by_.unit < 224 then some (.append (Fin.ofNat 224 a.by_.unit) (Fin.ofNat 4 a.by_.thr)) else none)

/-- Steps without a time of their own. -/
def State.untimed (s : State) : List Instr :=
  s.commandEvents ++ s.partEvents ++ s.queueEvents ++ s.seqs.flatMap (fun e => e.2.events e.1) ++
  s.cores.flatMap (fun e =>
    let n := Fin.ofNat 192 e.1
    e.2.edgeEvents n ++ (if e.2.hold.isSome then [.holdDrop n] else []) ++ (if e.2.saving.isSome then [.contextSave n] else [])) ++
  s.otherEvents

/-! ### Steps with a time of their own, each with the first time at which it may happen -/

/-- Steps of a core's array by the cycles of its island: an instruction leaves the nib as soon as it may. -/
def CoreArr.timed (k : CoreArr) (n : Nat) : List (Nat × Instr) :=
  let c := Fin.ofNat 192 n
  (match k.nib with
    | e :: _ => [(if k.wave.isEmpty then max k.waveAt e.since else k.waveAt, .nibDeparture c)]
    | [] => if k.stroke.any (fun t => t.due.isNone) then [(k.waveAt, .nibDeparture c)] else []) ++
  (match k.stroke.bind (fun t => t.due.map (fun d => (t, d))), k.progDue with
    | some (t, d), _ => [(t.workAt d, .strokeStep c)]
    | none, some d => [(d, .strokeStep c)]
    | none, none => []) ++
  (if k.wave.isEmpty && k.waveFault.all (fun a => decide (2 ≤ a)) then [] else [(k.waveAt, .cellExecute c)]) ++
  (match k.doneAggs with | (_, (due, _)) :: _ => [(due, .aggregateValid c)] | [] => []) ++
  (if k.hold.isSome then [(k.holdDue, .holdLimit c)] else [])

def State.arrayTimes (s : State) : List (Nat × Instr) :=
  s.cores.flatMap (fun e => (e.2.timed e.1).map (fun x => (s.timeOfCycle e.1 x.1, x.2)))

/-- The next slot of a channel that serves a request. -/
def State.nextSlot (s : State) (r : Req) : Option (Nat × Instr) :=
  let ch := channelOf (localOf r.pa)
  if !(s.onChannel r ch && s.eligible r) || (r.op.changes && s.witnessHeld r.by_.unit r.thread (lineOf (localOf r.pa))) then none
  else
    let c := max (max s.cc (s.channel ch).freeAt) (ccOf r.born + 2)
    let l := s.laneOf r
    ((List.range 320).find? (fun d => s.servesLane ch (c + d) l)).map (fun d =>
      (timeOfCc (c + d), .calendarSlot (Fin.ofNat 256 ch) (Fin.ofNat 320 (c + d))))

/-- The bank cycle in which a request for a scratchpad may apply. -/
def State.nextBank (s : State) (r : Req) : Option (Nat × Instr) :=
  match locate (localOf r.pa) with
  | .scratch n _ =>
    let k := s.island (islandOfUnit n)
    let at_ := fun (c : Nat) => s.timeOfCycle n (max c (s.core n).bankAt)
    if s.retryReady r n then some (at_ (s.cycles n), .ldeRetry (Fin.ofNat 192 n))
    else if s.eligible r then some (at_ (if k.stopped then s.cycles n else k.cycles r.born + 1), .bankAccess (Fin.ofNat 192 n))
    else none
  | _ => none

/-- The next step that a request waits for: its slot, its bank cycle, its answer's arrival, or the end of the wait for another module. -/
def State.reqTime (s : State) (r : Req) : Option (Nat × Instr) :=
  match r.status with
  | .served due _ => some (due, if r.op.landsData then .readLanding r.id else .storeAck r.id)
  | .sent c => some (timeOfCc (c + 2 ^ 22), .responseTimeout r.id)
  | .waiting | .retry => match s.nextSlot r with
    | some e => some e
    | none => s.nextBank r

/-- Threads that sleep, with the times at which they wake. -/
def State.sleepers (s : State) : List (Nat × Instr) :=
  s.seqs.flatMap (fun e => ((List.range 4).filter (fun t => (s.thread e.1 t).sleeping)).map
    (fun t => (s.timeOfCycle e.1 (s.thread e.1 t).waitUntil, Instr.sleepExpiry (Fin.ofNat 224 e.1) (Fin.ofNat 4 t))))

/-- Steps of the partitions and channels: a dispatch at most every 8 cycles, at the end of one (R85); layouts and bulk runs at rotation boundaries, and the end of
a replay's wait. -/
def State.partTimes (s : State) : List (Nat × Instr) :=
  ((List.range 8).filter (fun p => (s.part p).present)).flatMap (fun p =>
    let n := Fin.ofNat 8 p
    (if s.launches.any (fun l => l.part == p && (l.state == .eligible || l.state == .running)) then
      [(timeOfCc (max s.cc (match (s.part p).lastDispatch with | some c => c + 8 | none => 0)) + 7, .dispatch n)] else []) ++
    (if (s.part p).pendingCal.isSome then [(timeOfCc ((s.cc + 319) / 320 * 320), .layoutTakesEffect n)] else [])) ++
  s.copybooks.filterMap (fun c =>
    if c.replay && !c.diverged then c.firstHeld.map (fun h => (timeOfCc (h.1 + 2 ^ 26), .replayTimeout (Fin.ofNat 8 c.part))) else none) ++
  (s.channels.filter (fun e => e.2.pendingRuns)).map (fun e => (timeOfCc ((e.2.rotation + 1) * 320), .bulkReservation (Fin.ofNat 256 e.1)))

/-- All of them, the earliest first. -/
def State.times (s : State) : List (Nat × Instr) :=
  sortByKey Prod.fst (s.arrayTimes ++ s.reqs.filterMap s.reqTime ++ s.sleepers ++ s.partTimes)

/-! ### The choice -/

/-- A list from its n-th member on, the others after it. -/
def turned {α : Type} (n : Nat) (l : List α) : List α :=
  let k := if l.isEmpty then 0 else n % l.length
  l.drop k ++ l.take k

/-- Steps of a cycle that follow the bundles which issue in it: cells execute, bank units serve, and aggregates become valid (R9, R107,
R306). -/
def followsIssue : Instr → Bool
  | .cellExecute _ | .aggregateValid _ | .bankAccess _ | .ldeRetry _ => true
  | _ => false

/-- A core with a wave on its way may still issue a bundle in this cycle. -/
def State.waveIssues (s : State) : Bool :=
  s.cores.any (fun e => !(e.2.wave.isEmpty && e.2.doneAggs.isEmpty) && (s.issuer e.1).isSome)

/-- A decision of a scheduler, which comes after all else that falls in its controller cycle (R85). -/
def isDecision : Instr → Bool
  | .dispatch _ => true
  | _ => false

/-- A device step that can happen now, if there is one: by turns the earliest of those whose time has come, or one of the others; with none of
them and no bundle to issue, a decision. -/
def State.defaultEvent (s : State) : Option Instr :=
  let due := (s.times.filter (fun e => e.1 ≤ s.now)).map Prod.snd
  let t := due.filter (fun e => !isDecision e && !(s.waveIssues && followsIssue e))
  let v := turned s.devCount s.untimed
  ((if s.devCount % 2 = 1 then v ++ t else t ++ v).find? s.stepEffect).or
    (if s.nextIssuer.isNone then (due.filter isDecision).find? s.stepEffect else none)

/-- The next time at which something may happen: a bundle may issue, or a step with a time occurs. -/
def State.nextTime (s : State) : Option Nat :=
  ((s.dueCycles ++ s.times.map Prod.fst).filter (fun n => s.now < n)).min?

end Sys2Proof.Machine
end

