-- ==== Sys2Proof/Machine/Place.lean ====
section
/-! DEFINITION. The placing of one instruction for the next step: what a launch and its page tables would have set up. -/

namespace Sys2Proof.Machine

/-- Where the placed bundle stands, virtual and local address alike, and the three tables that map its 32 MiB page. -/
def placedPc : Nat := 0x1000
def placedTables : List Nat := [0x100000, 0x104000, 0x108000]

/-- A line that no key, poison or lost unit keeps from being read. -/
def State.clearLine (s : State) (pa : Nat) : State :=
  let s1 := s.setLine (lineOf pa) { s.lineMeta (lineOf pa) with poison := false, key := none }
  let s2 := s1.setSlice (sliceOf pa) { s1.slice (sliceOf pa) with sets := [], lost := false }
  s2.updChannel (channelOf pa) (fun c => { c with lost := false })

/-- The page tables of the identity page of 32 MiB at 0, with W and X (R128 to R130), and the bundle's word. -/
def placedCells (word : SlotWord) : List (Nat × Nat × Nat) :=
  let leaf := 1 + 2 + 4 * 4 + 2 ^ 5 + 2 ^ 6
  [(0x1000, 4, word.toNat), (0x100000, 8, 0x104001), (0x104000, 8, 0x108001), (0x108000, 8, leaf), (0x108008, 8, leaf),
   (0x108010, 8, leaf), (0x108018, 8, leaf)]

/-- The unit that has a slot of a word's class: core 0, or quill core 0 for class V. -/
def placedUnit (word : SlotWord) : Nat := if slotClass word = 7 then 192 else 0

/-- The thread that runs the bundle, in a gang of core 0. -/
def Thread.placed (th : Thread) (g : Nat) : Thread :=
  { th with pc := BitVec.ofNat 64 placedPc, status := .run, owner := .gang g, blocked := false, yielded := [], sleeping := false, waitUntil := 0,
            stopped := false, traps := [], loop := none }

/-- The gang of core 0 whose thread runs the bundle. -/
def placedGang (g : Nat) : Gang where
  id := g
  launch := g
  part := 0
  s := 0
  cores := [0]
  ha := 1
  wa := 1
  tpc := 3
  trigUsed := false
  trig := false
  wells := []
  parks := 0
  place := .resident
  ending := false

/-- The state with a one-slot bundle placed for the next step: partition 0 owns block 0 and maps the bundle's page, and
thread 0 of the unit is a thread of a gang with its PC at the bundle. -/
def State.place (s : State) (word : SlotWord) : State :=
  let u := placedUnit word
  let g := s.nextId
  let s1 := (placedPc :: placedTables).foldl State.clearLine s
  let s2 := { s1 with mem := (placedCells word).foldl (fun m (e : Nat × Nat × Nat) => memWrite m e.1 (leBytes e.2.1 e.2.2)) s1.mem }
  let s3 := s2.updPart 0 (fun p => { p with present := true, blocks := p.blocks ||| 1, ptbase := 0x100000 })
  let s4 := s3.updCore 0 (fun k => { k with gang := some g, rank := 0, grid := ⟨[0], 1, 1⟩, down := false })
  let s5 := s4.setSeq u { (s4.seq u).setThread 0 ((s4.thread u 0).placed g) with cur := 0, tlb := [], retired := false, broken := 0, freeAt := 0 }
  let s6 := s5.updIsland (islandOfUnit u) (fun i => { i with stopped := false })
  { s6 with gangs := s6.gangs ++ [placedGang g], nextId := g + 1, reqs := s6.reqs.filter (fun r => r.by_.unit != u),
            agenda := [], devTurn := false, curUnit := u }

end Sys2Proof.Machine
end

