-- ==== Sys2Proof/Machine/Step.lean ====
section
/-! DEFINITION. One step of the module. -/

namespace Sys2Proof.Machine

/-- A device step of the model's choice. -/
def State.chosen (s : State) (e : Instr) (again : Bool) : Host.Outcome State Fault Refusal :=
  exec e { s with devTurn := again, devCount := s.devCount + 1 }

/-- The next bundle of the thread that issues next; with none, a device step that can happen; with neither, time passes to the next
time at which something may happen; with none of these, a controller cycle passes. -/
def State.issueStep (s : State) : Host.Outcome State Fault Refusal :=
  match s.nextIssuer with
  | some (u, t) =>
    match s.turnOf u t with
    | .one i s' => exec i { s' with devTurn := true }
    | .done s' => .next { s' with devTurn := true }
  | none =>
    match s.defaultEvent with
    | some e => s.chosen e false
    | none => .next (match s.nextTime with | some n => s.passTo n | none => s.tick)

/-- The agenda's first device step if there is one; else, in turn, up to four device steps that can happen and the bundle of a thread.
After a device step the turn passes to the next sequencer. -/
def State.nextStep (s : State) : Host.Outcome State Fault Refusal :=
  match s.agenda with
  | e :: rest => if e.isStep then exec e { s with agenda := rest } else .fault .notAnEvent
  | [] =>
    if s.devTurn then
      match s.nextUnit.defaultEvent with
      | some e => s.nextUnit.chosen e (s.devCount % 4 != 3)
      | none => s.nextUnit.issueStep
    else s.issueStep

/-- One step, and what follows it at once. -/
def step (s : State) : Host.Outcome State Fault Refusal :=
  match s.nextStep with
  | .next t => .next t.settled
  | .fault f => .fault f
  | .refused r => .refused r

/-- The state with one instruction, numbered as the opcode table numbers its bits, as the bundle that the next step issues. Its
stop bit is set: the bundle is one slot long. -/
def State.withFetchWord (s : State) (_nbits w : Nat) : State := s.place (BitVec.ofNat 32 w ||| 0x80000000)

end Sys2Proof.Machine
end

