-- ==== Sys2Proof/Safety.lean ====
section
/-! DEFINITION. What counts as a safe run, and the terms in which statements speak of one step: who issues, when an instruction
is accepted, the state once its bundle has issued, and which registers of a thread a step may leave alone. -/

namespace Sys2Proof.Machine

/-! ### Safe runs -/

/-- A state from which every step answers a next state: memory is in canonical form, and no slot instruction stands on the agenda,
which is for device steps. -/
def State.Safe (s : State) : Prop := Memory.wf s.mem = true ∧ ∀ i ∈ s.agenda, i.isStep = true

/-- A run of some number of steps reaches a state. -/
def State.Reaches (s t : State) : Prop := ∃ n, Sys2Proof.core.run n s = .next t

/-! ### The issuing thread -/

/-- The thread that holds issue at the sequencer whose turn it is (R92): its number and its registers. -/
def State.turnThread (s : State) : Nat := (s.seq s.curUnit).cur
def State.me (s : State) : Thread := s.thread s.curUnit s.turnThread

/-- The slot an instruction issues from when it is a bundle of its own. -/
def State.issuerOf (s : State) (i : Instr) : Issuer := ⟨s.curUnit, s.turnThread, s.me.pc, afterOne i s.me.pc, 0, headWord i⟩

/-- The instruction is accepted where it is about to issue: its fields hold no reserved value and the unit has its class and opcode
(R208, R429), its destinations differ (R217), it carries no X slot too many (R209), no physical unit has failed (R448), and no
trap waits for the bundle boundary (R408). -/
def State.accepts (s : State) (i : Instr) : Bool :=
  (instrKinds (isQuill s.curUnit) i).isEmpty && !coincide (instrDests i) && decide (i.xpays.length ≤ i.maxX) &&
  (s.seq s.curUnit).broken == 0 && s.me.traps.isEmpty

/-- The state once the bundle of one instruction has issued and its thread has moved to the next bundle, before the slot's own
effect (R92, R218, R221, R234). -/
def State.moved (s : State) (i : Instr) : State :=
  (s.bundleIssued s.curUnit s.turnThread (max 1 (slotCycles i)) 1).updThread s.curUnit s.turnThread
    (fun th => th.advance (afterOne i s.me.pc))

/-- The same with an effect on the issuing thread's registers. -/
def State.movedWith (s : State) (i : Instr) (f : Thread → Thread) : State := (s.moved i).updThread s.curUnit s.turnThread f

/-! ### The wave -/

/-- The wave instructions that read no x register at issue (R107, R280). -/
def plainWave : Instr → Bool
  | .mov _ _ | .movh _ _ | .lds _ _ | .sts _ _ | .imm _ _ | .rowcol _ _ | .perm _ _ | .pack _ _ | .unpk _ _ | .cvt _ _ | .qlog _ _
  | .qset _ _ | .cellFadd _ _ | .cellFsub _ _ | .cellFmul _ _ | .cellFma _ _ | .cellFmin _ _ | .cellFmax _ _ | .fsgn _ _ | .cellFcmp _ _
  | .fsel _ _ | .frcp _ _ | .frsq _ _ | .fsqrt _ _ | .fdiv _ _ | .fexp2 _ _ | .flog2 _ _ | .fsum _ _ | .iadd _ _ | .isub _ _ | .imul _ _
  | .iand _ _ | .ior _ _ | .ixor _ _ | .ishl _ _ | .ishr _ _ | .isra _ _ | .imin _ _ | .imax _ _ | .icmp _ _ | .scl _ | .mac _ _
  | .macs _ _ | .macv _ _ | .accz _ | .accwr _ _ | .amax _ _ | .vtest _ _ | .cellVsel _ _ => true
  | _ => false

/-- The issuing core leads its chain, its nib has room and no library stroke is left in it (R107, R122, R440). -/
def State.nibOpen (s : State) : Bool :=
  s.leadsChain s.curUnit && decide ((s.core s.curUnit).nib.length < 8) && (s.core s.curUnit).stroke.isNone

/-- The state once the bundle of a wave instruction has issued and its slot has entered the nib with two x values (R107). -/
def State.entered (s : State) (i : Instr) (x0 x1 : Word) : State :=
  (s.moved i).updCore s.curUnit (fun k => { k with
    nib := k.nib ++ [⟨k.nextWid, i, ⟨s.curUnit, s.turnThread, s.me.owner, s.me.pc, 6, 0⟩, x0, x1, headWord i, (s.moved i).cycles s.curUnit⟩]
    nextWid := k.nextWid + 1
    lastWid := some k.nextWid })

/-! ### Frames -/

/-- The registers of a thread that a program sees, the exception registers and PC apart. -/
def Thread.sameFile (a b : Thread) : Prop :=
  a.x = b.x ∧ a.xfull = b.xfull ∧ a.p = b.p ∧ a.g = b.g ∧ a.v = b.v ∧ a.vfull = b.vfull ∧ a.m = b.m ∧ a.flags = b.flags ∧ a.stag = b.stag

/-- The exception registers (R406). -/
def Thread.sameTrap (a b : Thread) : Prop :=
  a.tvec = b.tvec ∧ a.tepc = b.tepc ∧ a.tcause = b.tcause ∧ a.taddr = b.taddr ∧ a.tstat = b.tstat ∧ a.intrap = b.intrap

/-- Every register of every thread but one is as it was. -/
def State.sameOthers (s t : State) (u n : Nat) : Prop :=
  ∀ v m, (v ≠ u ∨ m ≠ n) → (t.thread v m).sameFile (s.thread v m) ∧ (t.thread v m).sameTrap (s.thread v m)

/-- Every byte of memory reads as it did, outside a set of addresses. -/
def State.sameMemory (s t : State) (out : Nat → Prop) : Prop := ∀ a, ¬ out a → memGet t.mem a = memGet s.mem a

end Sys2Proof.Machine
end

