-- ==== Sys2Proof/Certificates/Slice0/Obligations.lean ====
section
/-! DEFINITION. The statements for the provers. `State.accepts`, `State.moved` and `State.movedWith` stand in Safety. -/

open Sys2Proof Sys2Proof.Machine

/-! ### Encoding, fetch and reset -/

/-- Words of the manual's encodings and the instructions they stand for (R206, R207, R212, R303, R320, R369,
R409, R410): a check of the decoder on fixed words. -/
def Obligations.WordsDecode : Prop :=
  decodeWords [0x80039910] = .ok (.add ⟨7, 6, 8, true, false, 0⟩, []) ∧
  decodeWords [0x98800005] = .ok (.trap ⟨5⟩, []) ∧
  decodeWords [0x98900000] = .ok (.eret, []) ∧
  decodeWords [0x9840A800] = .ok (.loop ⟨1, 10, false, []⟩, []) ∧
  decodeWords [0xB98400A0] = .ok (.hgld ⟨8, 0, 5, 0⟩, []) ∧
  decodeWords [0xB10A02C4] = .ok (.cellFadd ⟨20, 0, 22, 1⟩ [], []) ∧
  decodeWords [0xB6008C61] = .ok (.seli ⟨1, 3, 3, 1⟩ [], []) ∧
  decodeWords [0x33187BE5, 0xC0600000] = .ok (.mac ⟨0, 30, 31, 1, false, true⟩ [0x600000], []) ∧
  decodeWords [0x98A00000, 0x98900000] = .ok (.nop, [0x98900000])

/-- For every slot instruction with no more X slots than its form accepts, its words decode to it, with every
operand at every value, and so do its bytes; and the fields of every word that decodes give that word back but
for its stop bit, so no two words of one class stand for one instruction (R206 to R216). -/
def Obligations.DecodingInvertsEncoding : Prop :=
  (∀ i : Instr, i.isStep = false → i.xpays.length ≤ i.maxX →
    decodeWords (encode i) = .ok (i, []) ∧ decodeBytes ((encode i).flatMap bytesOfWord) = .ok i) ∧
  (∀ (w : SlotWord) (xs : List XPay) (i : Instr), decodeSlot w xs = .ok i →
    ∃ c op b, i.opBody = some (c, op, b) ∧ w = slotWord (slotStop w) c op b ∧ i.isStep = false)

/-- A step of a module without pending device steps, at the turn of its threads, runs the bundle at the
program counter of the thread whose turn it is: one decoded and accepted instruction as exec says, several as
one bundle (R92, R206, R218). A device step that is given first runs first; the words come from the executable
page that the program counter names (R129). What follows a step at once, the looking again of what watches
memory and time, changes no byte of memory, no cell and no register of a thread, and sends nothing but the
status words of tasks that have ended. That device steps and threads take turns is the model's choice
(assumption 4). -/
def Obligations.StepRunsTheBundleAtThePc : Prop :=
  (∀ (s : State) (u t : Nat) (ws : List SlotWord), s.agenda = [] → s.devTurn = false → s.nextIssuer = some (u, t) →
    let s0 := ({ s.setSeq u { s.seq u with cur := t } with curUnit := u } : State)
    let th := s0.thread u t
    let s2 := s0.fetched u t ws.length
    let s1 := ({ s2 with inbox := s2.inbox.filter (fun m => !(m.unit == u && m.thr == t)) } : State).updThread u t (fun h => h.record th.pc ws)
    th.traps = [] → th.loop = none → s0.fetchBundle u t = .words ws →
    (∀ i : Instr, i.isStep = false → i.xpays.length ≤ i.maxX → instrKinds (isQuill u) i = [] → coincide (instrDests i) = false → ws = encode i →
      ∃ x, exec i { s1 with devTurn := true } = .next x ∧ step s = .next x.settled) ∧
    (∀ is, checkBundle (isQuill u) ws = .ok is → 1 < is.length →
      step s = .next (State.settled { s1.runBundle u t th.pc (th.pc + BitVec.ofNat 64 (4 * ws.length)) (slotRuns is) with devTurn := true }))) ∧
  (∀ (s : State) (i : Instr) (rest : List Instr), s.agenda = i :: rest → i.isStep = true →
    ∃ x, exec i { s with agenda := rest } = .next x ∧ step s = .next x.settled) ∧
  (∀ (s : State), (∀ k ∈ s.tasks, k.done = none) → s.settled.mem = s.mem ∧ s.settled.reqs = s.reqs ∧
    (∀ n, (s.settled.core n).cells = (s.core n).cells) ∧
    ∀ u t, (s.settled.thread u t).sameFile (s.thread u t) ∧ (s.settled.thread u t).sameTrap (s.thread u t) ∧
      (s.settled.thread u t).pc = (s.thread u t).pc) ∧
  (∀ (s : State) (u t core off : Nat) (g : Target) (w : SlotWord), (s.thread u t).loop = none → (s.thread u t).pc.toNat % 4 = 0 →
    s.translate ((s.partOfUnit u).getD 0) u (s.thread u t).pc.toNat .fetch = .ok g → s.isLocal g = true →
    locate (localOf g.pa) = .scratch core off → s.poisonedAt g = false → memRead s.mem (localOf g.pa) 4 = bytesOfWord w → slotStop w = true →
    s.fetchBundle u t = .words [w])

/-- A reserved encoding is a precise trap of cause 0x10 at its bundle: INFO is its kind and TSTAT its word,
TEPC names the bundle, and nothing of it has any effect (R206, R208, R404, R408, R429). Of several kinds the
lowest counts, a deduction (assumption 16). -/
def Obligations.ReservedEncodingsTrap : Prop :=
  (∀ (s : State) (i : Instr) (k : Nat) (ks : List Nat), i.isStep = false → instrKinds (isQuill s.curUnit) i = k :: ks →
    exec i s = .next (s.takeTrap s.curUnit s.turnThread ⟨0x10, k, false, instrClass i, 0, 0, headWord i, none⟩ s.me.pc s.me.pc)) ∧
  (∀ (s : State) (u t : Nat) (pc : Word) (w : SlotWord) (k : Nat) (ks : List Nat), slotStop w = true → (s.thread u t).skipping = false →
    slotKinds (isQuill u) ⟨w, 0, [], [], 0⟩ = k :: ks →
    s.issueWords u t pc [w] = .done ((({ s with inbox := s.inbox.filter (fun m => !(m.unit == u && m.thr == t)) } : State).updThread u t
      (fun th => th.record pc [w])).takeTrap u t ⟨0x10, k, false, classNum w, 0, 0, w, none⟩ pc pc)) ∧
  (∀ (quill : Bool) (w : SlotWord),
    (9 ≤ classNum w → slotKinds quill ⟨w, 0, [], [], 0⟩ = [0]) ∧
    (classAbsent quill (classNum w) = true → (slotKinds quill ⟨w, 0, [], [], 0⟩).head? = some 1) ∧
    (classAbsent quill (classNum w) = false → decodeSlot w [] = .error .opcode → (slotKinds quill ⟨w, 0, [], [], 0⟩).head? = some 2) ∧
    (classNum w = 8 → slotKinds quill ⟨w, 0, [], [], 0⟩ = [5])) ∧
  (∀ (s : State) (u t k c : Nat) (pc : Word) (w : SlotWord), t < 4 → (s.thread u t).tvec ≠ 0 → (s.thread u t).intrap = false →
    let s' := s.takeTrap u t ⟨0x10, k, false, c, 0, 0, w, none⟩ pc pc
    let th := s'.thread u t
    th.tepc = pc ∧ th.tcause = BitVec.ofNat 32 (0x10 * 2 ^ 16 + k * 2 ^ 8 + c * 2 ^ 4) ∧ th.taddr = 0 ∧ th.tstat = w ∧ th.intrap = true ∧
      th.pc = (s.thread u t).tvec ∧ th.sameFile (s.thread u t) ∧ s.sameOthers s' u t ∧ s'.mem = s.mem ∧ s'.cores = s.cores)

/-- What module reset leaves (R43, R44, R70, R138, R148, R219, R236, R384, R406): trap registers and FLAGS 0,
SLOTMAP of a core 0x32 and of a quill core 0xFA, rounding states seeded by row and column, granules empty,
filter A current and both clear, read indices 0; and the state is safe. -/
def Obligations.ResetLeavesTheStatedValues : Prop :=
  State.reset.Safe ∧ State.reset.modreg = 0 ∧ State.reset.cmdWidx = 0 ∧ State.reset.cmdRidx = 0 ∧ State.reset.cc = 0 ∧
  (∀ u t, let th := State.reset.thread u t
    th.tvec = 0 ∧ th.tepc = 0 ∧ th.tcause = 0 ∧ th.taddr = 0 ∧ th.tstat = 0 ∧ th.intrap = false ∧ th.flags = 0) ∧
  (∀ u, (u < 192 → (State.reset.seq u).slotmap = 0x32) ∧ (192 ≤ u → u < 224 → (State.reset.seq u).slotmap = 0xFA)) ∧
  (∀ n r c, r < 16 → c < 16 → ((State.reset.core n).cell (16 * r + c)).s = 0x9E3779B9 ^^^ BitVec.ofNat 32 (r * 256 + c)) ∧
  (∀ n, (State.reset.core n).west.rs = 0x9E3779B9 ^^^ 0x1000 ∧ (State.reset.core n).north.rs = 0x9E3779B9 ^^^ 0x1001 ∧
    (State.reset.core n).east.rs = 0x9E3779B9 ^^^ 0x1002 ∧ (State.reset.core n).south.rs = 0x9E3779B9 ^^^ 0x1003) ∧
  (∀ n off, (State.reset.core n).granuleFull off = false) ∧
  (∀ i, (State.reset.slice i).filterA = [] ∧ (State.reset.slice i).filterB = [] ∧ (State.reset.slice i).currentB = false ∧ (State.reset.slice i).sets = []) ∧
  (∀ q, (State.reset.launchQueue q).ridx = 0 ∧ (State.reset.copyQueue q).ridx = 0 ∧ (State.reset.taskQueue q).ridx = 0)

/-! ### Every step, and every instruction -/

/-- From every safe state (memory in its canonical form, no slot instruction among the device steps given)
each step answers a next state, and that state is safe; and no instruction and no device step is ever refused
or stops. The canonical form of memory and the agenda are the model's own (assumptions 2 and 4). -/
def Obligations.EveryStepKeepsSafety : Prop :=
  (∀ s : State, s.Safe → ∃ t, step s = .next t ∧ t.Safe) ∧
  (∀ (s : State) (n : Nat), s.Safe → ∃ t, Sys2Proof.core.run n s = .next t ∧ t.Safe) ∧
  (∀ (i : Instr) (s : State), ∃ t, exec i s = .next t)

/-- Whatever slot instruction a thread of a gang issues and however its bundle ends, no byte of memory changes
as it issues, no register of another thread changes, and the keys and islands stay as they are: its accesses
take effect at their homes, by device steps (R16, R189, R218). Lines stay as they are too, but that a page's
walk may meet one whose error cannot be corrected (R131, R468). -/
def Obligations.IssueChangesNoMemoryAndNoOtherThread : Prop :=
  ∀ (s t : State) (i : Instr) (g : Nat), i.isStep = false → s.me.owner = .gang g → exec i s = .next t →
    t.mem = s.mem ∧ (s.unfixable = [] → t.lines = s.lines) ∧ t.keys = s.keys ∧ t.islands = s.islands ∧
    s.sameOthers t s.curUnit s.turnThread

/-- Whatever slot instruction a thread of a gang issues, the x, p, v and m registers that no field of it names
as a destination keep their value and stay full or empty; only SELI and SELX write g registers, no slot
instruction writes STAG (R190), only MTS writes TVEC (R406); x0, p0 and m0 read as constants (R181, R210). -/
def Obligations.RegistersOutsideDestinationsStay : Prop :=
  ∀ (s t : State) (i : Instr) (g : Nat), i.isStep = false → s.me.owner = .gang g → exec i s = .next t →
    let th := t.thread s.curUnit s.turnThread
    (∀ r, Dest.x r ∉ instrDests i → th.getX r = s.me.getX r ∧ th.fullX r = s.me.fullX r) ∧
    (∀ r, Dest.p r ∉ instrDests i → th.getP r = s.me.getP r) ∧
    (∀ r, Dest.m r ∉ instrDests i → th.getM r = s.me.getM r) ∧
    (∀ r : BitVec 5, Dest.v r ∉ instrDests i → th.getV r.toNat = s.me.getV r.toNat ∧ th.fullV r.toNat = s.me.fullV r.toNat) ∧
    ((∀ o xs, i ≠ .seli o xs) → (∀ o, i ≠ .selx o) → th.g = s.me.g) ∧
    th.stag = s.me.stag ∧
    ((∀ o, i ≠ .mts o) → th.tvec = s.me.tvec) ∧
    th.getX 0 = 0 ∧ th.fullX 0 = true ∧ th.getP 0 = true ∧ th.getM 0 = BitVec.allOnes 32

/-- Flags are sticky: no slot instruction but an MTS clears a flag of its thread or changes an enable bit, and
an integer or predicate instruction sets no flag (R55, R57, R236). -/
def Obligations.FlagsAreSticky : Prop :=
  ∀ (s t : State) (i : Instr), i.isStep = false → (∀ o, i ≠ .mts o) → exec i s = .next t →
    let f := (t.thread s.curUnit s.turnThread).flags
    f &&& s.me.flags = s.me.flags ∧ f.extractLsb' 8 7 = s.me.flags.extractLsb' 8 7 ∧ (instrClass i = 0 → f = s.me.flags)

/-! ### The A class -/

/-- The two-operand A instructions write x[dst] as the table of R237 says, over 64 bits, or with .W over 32
bits and sign-extended (R238), with the division corners of R239; nothing else of the state changes but what
issuing a bundle changes. -/
def Obligations.IntegerResults : Prop :=
  (∀ (s : State) (o : Rrr) (a b : Word), s.me.getX o.srcA = a → s.me.getX o.srcB = b →
     s.me.fullX o.srcA = true → s.me.fullX o.srcB = true → s.me.fullX o.dst = true →
     let c : BitVec 32 := a.extractLsb' 0 32
     let d : BitVec 32 := b.extractLsb' 0 32
     ∀ e ∈ ([
       (.add o, a + b, c + d),
       (.sub o, a - b, c - d),
       (.mul o, BitVec.ofNat 64 (a.toNat * b.toNat), BitVec.ofNat 32 (c.toNat * d.toNat)),
       (.mulh o, BitVec.ofInt 64 (a.toInt * b.toInt / 2 ^ 64), BitVec.ofInt 32 (c.toInt * d.toInt / 2 ^ 32)),
       (.mulhu o, BitVec.ofNat 64 (a.toNat * b.toNat / 2 ^ 64), BitVec.ofNat 32 (c.toNat * d.toNat / 2 ^ 32)),
       (.div o, if b = 0 then -1 else BitVec.ofInt 64 (a.toInt.tdiv b.toInt), if d = 0 then -1 else BitVec.ofInt 32 (c.toInt.tdiv d.toInt)),
       (.divu o, if b = 0 then -1 else BitVec.ofNat 64 (a.toNat / b.toNat), if d = 0 then -1 else BitVec.ofNat 32 (c.toNat / d.toNat)),
       (.rem o, if b = 0 then a else BitVec.ofInt 64 (a.toInt.tmod b.toInt), if d = 0 then c else BitVec.ofInt 32 (c.toInt.tmod d.toInt)),
       (.remu o, if b = 0 then a else BitVec.ofNat 64 (a.toNat % b.toNat), if d = 0 then c else BitVec.ofNat 32 (c.toNat % d.toNat)),
       (.and o, a &&& b, c &&& d),
       (.or o, a ||| b, c ||| d),
       (.xor o, a ^^^ b, c ^^^ d),
       (.andn o, a &&& ~~~b, c &&& ~~~d),
       (.shl o, a <<< (b.toNat % 64), c <<< (d.toNat % 32)),
       (.shr o, a >>> (b.toNat % 64), c >>> (d.toNat % 32)),
       (.sra o, BitVec.ofInt 64 (a.toInt / 2 ^ (b.toNat % 64)), BitVec.ofInt 32 (c.toInt / 2 ^ (d.toNat % 32))),
       (.rol o, a.rotateLeft (b.toNat % 64), c.rotateLeft (d.toNat % 32)),
       (.min o, if a.toInt ≤ b.toInt then a else b, if c.toInt ≤ d.toInt then c else d),
       (.max o, if a.toInt ≤ b.toInt then b else a, if c.toInt ≤ d.toInt then d else c),
       (.minu o, if a.toNat ≤ b.toNat then a else b, if c.toNat ≤ d.toNat then c else d),
       (.maxu o, if a.toNat ≤ b.toNat then b else a, if c.toNat ≤ d.toNat then d else c)] : List (Instr × Word × BitVec 32)),
       s.accepts e.1 = true →
         exec e.1 s = .next (s.movedWith e.1 (fun th => th.setX o.dst (if o.md = 1 then e.2.2.signExtend 64 else e.2.1)))) ∧
  (∀ o : Rrr, ∀ i ∈ [Instr.add o, .sub o, .mul o, .mulh o, .mulhu o, .div o, .divu o, .rem o, .remu o, .and o, .or o, .xor o, .andn o,
      .shl o, .shr o, .sra o, .rol o, .min o, .max o, .minu o, .maxu o], i.reservedKind = if 1 < o.md then some 3 else none) ∧
  (∀ o : Rrr, ∀ e ∈ ([(.add o, 0x00), (.sub o, 0x01), (.mul o, 0x02), (.mulh o, 0x03), (.mulhu o, 0x04), (.div o, 0x05), (.divu o, 0x06), (.rem o, 0x07),
      (.remu o, 0x08), (.and o, 0x09), (.or o, 0x0A), (.xor o, 0x0B), (.andn o, 0x0C), (.shl o, 0x0D), (.shr o, 0x0E), (.sra o, 0x0F), (.rol o, 0x10),
      (.min o, 0x11), (.max o, 0x12), (.minu o, 0x13), (.maxu o, 0x14)] : List (Instr × BitVec 7)), ∃ b, e.1.opBody = some (0, e.2, b))

/-- CMP and CMPI write the predicate of R240, SEL one of two registers and PLOG a predicate from two (R241).
-/
def Obligations.ComparesAndSelects : Prop :=
  (∀ (s : State) (o : RrrCond) (a b : Word), s.me.getX o.srcA = a → s.me.getX o.srcB = b →
    s.me.fullX o.srcA = true → s.me.fullX o.srcB = true → s.accepts (.cmp o) = true →
      exec (.cmp o) s = .next (s.movedWith (.cmp o) (fun th => th.setP o.dst
        ([decide (a = b), decide (a ≠ b), decide (a.toInt < b.toInt), decide (b.toInt ≤ a.toInt), decide (a.toNat < b.toNat),
          decide (b.toNat ≤ a.toNat), decide (a &&& b ≠ 0)].getD o.cond.toNat false)))) ∧
  (∀ (s : State) (o : RiCond) (xs : List XPay) (a b : Word), s.me.getX o.srcA = a →
    (b = match xs with
      | [] => o.imm.signExtend 64
      | [x] => (x ++ o.imm).signExtend 64
      | x :: y :: _ => (y ++ x ++ o.imm).signExtend 64) →
    s.me.fullX o.srcA = true → s.accepts (.cmpi o xs) = true →
      exec (.cmpi o xs) s = .next (s.movedWith (.cmpi o xs) (fun th => th.setP o.dst
        ([decide (a = b), decide (a ≠ b), decide (a.toInt < b.toInt), decide (b.toInt ≤ a.toInt), decide (a.toNat < b.toNat),
          decide (b.toNat ≤ a.toNat), decide (a &&& b ≠ 0)].getD o.cond.toNat false)))) ∧
  (∀ (s : State) (o : RrrPred), s.me.fullX o.srcA = true → s.me.fullX o.srcB = true → s.me.fullX o.dst = true →
    s.accepts (.sel o) = true →
      exec (.sel o) s = .next (s.movedWith (.sel o) (fun th => th.setX o.dst
        (if s.me.getP o.sel = true then s.me.getX o.srcA else s.me.getX o.srcB)))) ∧
  (∀ (s : State) (o : PredOps) (a b : Bool), s.me.getP o.srcA = a → s.me.getP o.srcB = b → s.accepts (.plog o) = true →
      exec (.plog o) s = .next (s.movedWith (.plog o) (fun th => th.setP o.dst
        ([a && b, a || b, a != b, a && !b, a || !b, a == b, !(a && b), !(a || b)].getD o.md.toNat false))))

/-- CLZ, CTZ and POPC count over 64 bits, or with MOD 1 over bits [31:0] (R242); ADDI and LI take their
immediates with up to two X slots, sign-extended (R214, R243). -/
def Obligations.CountsAndImmediates : Prop :=
  (∀ (s : State) (o : Rr) (a : Word), s.me.getX o.srcA = a → s.me.fullX o.srcA = true → s.me.fullX o.dst = true →
    let w := if o.md = 1 then 32 else 64
    (∀ n, n ≤ w → (∀ j, w - n ≤ j → j < w → a.getLsbD j = false) → (n < w → a.getLsbD (w - 1 - n) = true) →
      s.accepts (.clz o) = true →
        exec (.clz o) s = .next (s.movedWith (.clz o) (fun th => th.setX o.dst (BitVec.ofNat 64 n)))) ∧
    (∀ n, n ≤ w → (∀ j, j < n → a.getLsbD j = false) → (n < w → a.getLsbD n = true) → s.accepts (.ctz o) = true →
        exec (.ctz o) s = .next (s.movedWith (.ctz o) (fun th => th.setX o.dst (BitVec.ofNat 64 n)))) ∧
    (s.accepts (.popc o) = true →
        exec (.popc o) s = .next (s.movedWith (.popc o)
          (fun th => th.setX o.dst (BitVec.ofNat 64 ((List.range w).countP (fun j => a.getLsbD j))))))) ∧
  (∀ (s : State) (o : Ri) (xs : List XPay), s.me.fullX o.srcA = true → s.me.fullX o.dst = true → s.accepts (.addi o xs) = true →
    exec (.addi o xs) s = .next (s.movedWith (.addi o xs) (fun th => th.setX o.dst (s.me.getX o.srcA + (match xs with
      | [] => o.imm.signExtend 64
      | [x] => (x ++ o.imm).signExtend 64
      | x :: y :: _ => (y ++ x ++ o.imm).signExtend 64))))) ∧
  (∀ (s : State) (o : Imm15) (xs : List XPay), s.me.fullX o.dst = true → s.accepts (.li o xs) = true →
    exec (.li o xs) s = .next (s.movedWith (.li o xs) (fun th => th.setX o.dst (match xs with
      | [] => o.imm.signExtend 64
      | [x] => (x ++ o.imm).signExtend 64
      | x :: y :: _ => (y ++ x ++ o.imm).setWidth 64)))) ∧
  (∀ o : Rr, ∀ i ∈ [Instr.clz o, .ctz o, .popc o], i.reservedKind = if 1 < o.md then some 3 else none) ∧
  (∀ (o : Rr) (q : Ri) (r : Imm15) (xs : List XPay),
    ∀ e ∈ ([(.clz o, 0x18), (.ctz o, 0x19), (.popc o, 0x1A), (.addi q xs, 0x20), (.li r xs, 0x22)] : List (Instr × BitVec 7)),
      ∃ b, e.1.opBody = some (0, e.2, b))

/-! ### The F class -/

/-- The F arithmetic reads FP32 from bits [31:0], writes its rounded result zero-extended and raises its flags
(R244, R245); FMIN and FMAX follow R47. With an enabled flag the trap of R433 is taken at the boundary. -/
def Obligations.ScalarFloatResults : Prop :=
  ∀ (s : State) (dst srcA srcB : BitVec 5) (ta tb : Bool) (rnd : BitVec 3),
    s.me.fullX srcA = true → s.me.fullX srcB = true → s.me.fullX dst = true →
    let a := (s.me.getX srcA).toNat % 2 ^ 32
    let b := (s.me.getX srcB).toNat % 2 ^ 32
    let d := (s.me.getX dst).toNat % 2 ^ 32
    fp32.verdict a = none → fp32.verdict b = none →
    ∀ e ∈ ([
      (.fadd ⟨dst, srcA, srcB, ta, tb, rnd⟩, fpAdd fp32 rnd.toNat 0 a b),
      (.fsub ⟨dst, srcA, srcB, ta, tb, rnd⟩, fpSub fp32 rnd.toNat 0 a b),
      (.fmul ⟨dst, srcA, srcB, ta, tb, rnd⟩, fpMul fp32 rnd.toNat 0 a b),
      (.fma ⟨dst, srcA, srcB, ta, tb, rnd⟩, fpFma fp32 rnd.toNat 0 a b d),
      (.fmin ⟨dst, srcA, srcB, ta, tb⟩, fpMinMax fp32 false a b),
      (.fmax ⟨dst, srcA, srcB, ta, tb⟩, fpMinMax fp32 true a b)] : List (Instr × Nat × BitVec 8)),
      (e.1 = .fma ⟨dst, srcA, srcB, ta, tb, rnd⟩ → fp32.verdict d = none) → s.accepts e.1 = true →
        exec e.1 s = .next ((s.movedWith e.1 (fun th => (th.setX dst (BitVec.ofNat 64 e.2.1)).raiseOwn (s.cycles s.curUnit) e.2.2 1 0)).boundary
          s.curUnit s.turnThread s.me.pc)

/-- FCMP writes the predicate of its condition (R246), and FCVT converts between the formats of its X slot
(R247): integers are sign-extended to 64 bits, the others zero-extended. No condition of FCMP other than UN is
true when an operand is a NaN, and −0 equals +0 (R246). -/
def Obligations.ScalarFloatComparesAndConversions : Prop :=
  ((∀ (s : State) (o : RrrCond), s.me.fullX o.srcA = true → s.me.fullX o.srcB = true →
     let a := (s.me.getX o.srcA).toNat % 2 ^ 32
     let b := (s.me.getX o.srcB).toNat % 2 ^ 32
     fp32.verdict a = none → fp32.verdict b = none → s.accepts (.fcmp o) = true →
       exec (.fcmp o) s = .next ((s.movedWith (.fcmp o) (fun th =>
         (th.setP o.dst (fpCompare fp32 o.cond.toNat a b).1).raiseOwn (s.cycles s.curUnit) (fpCompare fp32 o.cond.toNat a b).2 1 0)).boundary
           s.curUnit s.turnThread s.me.pc)) ∧
   (∀ (s : State) (o : RrRound) (x : XPay), s.me.fullX o.srcA = true → s.me.fullX o.dst = true →
     let src := x.extractLsb' 23 4
     let dst := x.extractLsb' 19 4
     let r := convertElem src dst o.rnd.toNat 0 0 ((s.me.getX o.srcA).toNat % 2 ^ fmtWidth src)
     verdictMisuse src dst ((s.me.getX o.srcA).toNat % 2 ^ fmtWidth src) = false → s.accepts (.fcvt o [x]) = true →
       exec (.fcvt o [x]) s = .next ((s.movedWith (.fcvt o [x]) (fun th =>
         (th.setX o.dst (if dst = 0x9 then (BitVec.ofNat 8 r.1).signExtend 64
           else if dst = 0xA then (BitVec.ofNat 32 r.1).signExtend 64 else BitVec.ofNat 64 r.1)).raiseOwn (s.cycles s.curUnit) r.2 1 0)).boundary
           s.curUnit s.turnThread s.me.pc))) ∧
  ((∀ a b cond : Nat, (fp32.isNaN a = true ∨ fp32.isNaN b = true) → cond < 4 →
     fp32.verdict a = none → fp32.verdict b = none → ((fpCompare fp32 cond a b).1 = true ↔ cond = 3)) ∧
   (fpCompare fp32 0 0x80000000 0 = (true, 0) ∧ fpCompare fp32 0 0 0x80000000 = (true, 0)))

/-! ### The M class -/

/-- Loads issue: the destination is empty until the data lands, and the request for the bytes at ea = base +
offset × size joins the issue order (R191, R210, R248, R250 to R252). -/
def Obligations.LoadsEnterTheIssueOrder : Prop :=
  (∀ (s : State) (o : LoadOps) (xs : List XPay) (g : Target),
    let n := 2 ^ o.size.toNat
    let ea := (s.me.getX o.base + immediate o.off xs * BitVec.ofNat 64 n).toNat
    s.me.fullX o.base = true → s.me.fullX o.reg = true →
    s.translate ((s.partOfUnit s.curUnit).getD 0) s.curUnit ea .read = .ok g → ea % n = 0 →
    (s.outside s.curUnit s.me.owner g = false → s.accepts (.ld o xs) = true →
      exec (.ld o xs) s = .next ((s.movedWith (.ld o xs) (fun th => (th.emptyX o.reg).pairDone g)).submit
        { (s.issuerOf (.ld o xs)).request s 2 ea n g (.load o.reg.toNat) with
          check := s.checkScope s.curUnit s.turnThread g none true })) ∧
    (∀ core off, s.scratchOf g = some (core, off) → s.mayName s.curUnit s.me.owner core = true →
      (core = s.curUnit → (s.core core).granuleFull off = true) →
      (s.accepts (.lde o xs) = true →
        exec (.lde o xs) s = .next ((s.movedWith (.lde o xs) (fun th => (th.emptyX o.reg).pairDone g)).submit
          ((s.issuerOf (.lde o xs)).request s 2 ea n g (.lde o.reg.toNat false)))) ∧
      (s.accepts (.ldeC o xs) = true →
        exec (.ldeC o xs) s = .next ((s.movedWith (.ldeC o xs) (fun th => (th.emptyX o.reg).pairDone g)).submit
          ((s.issuerOf (.ldeC o xs)).request s 2 ea n g (.lde o.reg.toNat true)))))) ∧
  (∀ (s : State) (o : AcqOps) (xs : List XPay) (g : Target),
    let n := 2 ^ o.size.toNat
    let ea := (s.me.getX o.base + (match xs with | [] => 0 | x :: _ => x.signExtend 64 * BitVec.ofNat 64 n)).toNat
    s.me.fullX o.base = true → s.me.fullX o.reg = true →
    s.translate ((s.partOfUnit s.curUnit).getD 0) s.curUnit ea .read = .ok g → ea % n = 0 →
    s.outside s.curUnit s.me.owner g = false → s.accepts (.lda o xs) = true →
      exec (.lda o xs) s = .next ((s.movedWith (.lda o xs) (fun th => (th.emptyX o.reg).pairDone g)).submit
        { (s.issuerOf (.lda o xs)).request s 2 ea n g (.load o.reg.toNat) with
          acquire := true, check := s.checkScope s.curUnit s.turnThread g (some o.scope.toNat) true }))

/-- Stores issue: no register changes, and a posted write of the register's low bytes at ea joins the issue
order (R191, R248, R250, R251, R253); GRSET and GRCLR likewise for x[srcB][31:0] granules (R254). -/
def Obligations.StoresEnterTheIssueOrder : Prop :=
  (∀ (s : State) (o : StoreOps) (xs : List XPay) (g : Target),
    let n := 2 ^ o.size.toNat
    let ea := (s.me.getX o.base + immediate o.off xs * BitVec.ofNat 64 n).toNat
    s.me.fullX o.base = true → s.me.fullX o.reg = true →
    s.translate ((s.partOfUnit s.curUnit).getD 0) s.curUnit ea .write = .ok g → ea % n = 0 →
    (s.outside s.curUnit s.me.owner g = false → s.accepts (.st o xs) = true →
      exec (.st o xs) s = .next ((s.movedWith (.st o xs) (fun th => th.pairDone g)).submit
        { (s.issuerOf (.st o xs)).request s 2 ea n g (.store (leBytes n (s.me.getX o.reg).toNat) false) with
          check := s.checkScope s.curUnit s.turnThread g none true })) ∧
    (∀ core off, s.scratchOf g = some (core, off) → s.mayName s.curUnit s.me.owner core = true → s.accepts (.stf o xs) = true →
      exec (.stf o xs) s = .next ((s.movedWith (.stf o xs) (fun th => th.pairDone g)).submit
        ((s.issuerOf (.stf o xs)).request s 2 ea n g (.store (leBytes n (s.me.getX o.reg).toNat) true))))) ∧
  (∀ (s : State) (o : RelOps) (xs : List XPay) (g : Target),
    let n := 2 ^ o.size.toNat
    let ea := (s.me.getX o.base + (match xs with | [] => 0 | x :: _ => x.signExtend 64 * BitVec.ofNat 64 n)).toNat
    s.me.fullX o.base = true → s.me.fullX o.reg = true →
    s.translate ((s.partOfUnit s.curUnit).getD 0) s.curUnit ea .write = .ok g → ea % n = 0 →
    s.outside s.curUnit s.me.owner g = false → s.accepts (.str o xs) = true →
      exec (.str o xs) s = .next ((s.movedWith (.str o xs) (fun th => th.pairDone g)).submit
        { (s.issuerOf (.str o xs)).request s 2 ea n g (.store (leBytes n (s.me.getX o.reg).toNat) false) with
          release := true, check := s.checkScope s.curUnit s.turnThread g (some o.scope.toNat) true })) ∧
  (∀ (s : State) (o : TwoSrc) (g : Target) (core off : Nat),
    let ea := (s.me.getX o.srcA).toNat
    let n := (s.me.getX o.srcB).toNat % 2 ^ 32
    s.me.fullX o.srcA = true → s.me.fullX o.srcB = true →
    s.translate ((s.partOfUnit s.curUnit).getD 0) s.curUnit ea .write = .ok g → ea % 16 = 0 →
    s.scratchOf g = some (core, off) → s.mayName s.curUnit s.me.owner core = true → off + 16 * n ≤ 0x200000 →
    ∀ e ∈ [(Instr.grset o, true), (.grclr o, false)], s.accepts e.1 = true →
      exec e.1 s = .next (if n = 0 then s.moved e.1
        else (s.movedWith e.1 (fun th => th.pairDone g)).submit ((s.issuerOf e.1).request s 2 ea 16 g (.granules n e.2))))

/-- An address that translates but is no multiple of the access size ends the launch with cause 0x47, at the
address, and an aligned one of a quill task in a scratchpad outside its gang's cores with cause 0x49 (R455);
the address has been walked (R131). -/
def Obligations.MisalignedAccessFaults : Prop :=
  ∀ (s : State) (o : LoadOps) (q : StoreOps) (xs : List XPay) (g : Target),
    (let n := 2 ^ o.size.toNat
     let ea := (s.me.getX o.base + immediate o.off xs * BitVec.ofNat 64 n).toNat
     s.me.fullX o.base = true → s.me.fullX o.reg = true →
     s.translate ((s.partOfUnit s.curUnit).getD 0) s.curUnit ea .read = .ok g → s.accepts (.ld o xs) = true →
       let fails := fun (cause : Nat) => exec (.ld o xs) s = .next ((s.walked s.curUnit ((s.partOfUnit s.curUnit).getD 0) ea).fail
         ⟨s.curUnit, s.turnThread, s.me.owner, s.me.pc, 2, 0⟩ cause ea 0)
       (ea % n ≠ 0 → fails 0x47) ∧ (ea % n = 0 → s.outside s.curUnit s.me.owner g = true → fails 0x49)) ∧
    (let n := 2 ^ q.size.toNat
     let ea := (s.me.getX q.base + immediate q.off xs * BitVec.ofNat 64 n).toNat
     s.me.fullX q.base = true → s.me.fullX q.reg = true →
     s.translate ((s.partOfUnit s.curUnit).getD 0) s.curUnit ea .write = .ok g → s.accepts (.st q xs) = true →
       let fails := fun (cause : Nat) => exec (.st q xs) s = .next ((s.walked s.curUnit ((s.partOfUnit s.curUnit).getD 0) ea).fail
         ⟨s.curUnit, s.turnThread, s.me.owner, s.me.pc, 2, 0⟩ cause ea 0)
       (ea % n ≠ 0 → fails 0x47) ∧ (ea % n = 0 → s.outside s.curUnit s.me.owner g = true → fails 0x49))

/-- PREF asks for the line of a global address of this module on a present page whose class is not NOALLOC and has
no effect otherwise (R255); FENCE completes once nothing of the thread is outstanding (R191, R256). TLOOK answers the
slot that holds the line, or −1, two cycles after commit; TFILL gives a slot of the line's set to the line and
asks for it, once the slot's evicts are over; TEVICT writes a valid slot back (R142, R143, R259). The model's
choices in it: FENCE THREAD keeps the pair of an earlier FENCE (assumption 24), the low bits of TFILL's address
are ignored (assumption 26), and TLOOK's address is translated (assumptions 33 and 122). -/
def Obligations.PrefetchFenceAndTagTable : Prop :=
  ((∀ (s : State) (o : PrefOps) (xs : List XPay),
     let ea := (s.me.getX o.base + immediate o.off xs * 8).toNat
     let p := (s.partOfUnit s.curUnit).getD 0
     s.me.fullX o.base = true → s.accepts (.pref o xs) = true →
     (∀ e, s.translate p s.curUnit ea .read = .error e → exec (.pref o xs) s = .next (s.moved (.pref o xs))) ∧
     (∀ g, s.translate p s.curUnit ea .read = .ok g →
       (localOf g.pa < 8 * stackBytes → g.cls ≠ 4 → s.isLocal g = true →
         exec (.pref o xs) s = .next ((s.moved (.pref o xs)).submit ((s.issuerOf (.pref o xs)).request s 2 ea 1 g .prefetch))) ∧
       ((8 * stackBytes ≤ localOf g.pa ∨ g.cls = 4 ∨ s.isLocal g = false) → exec (.pref o xs) s = .next (s.moved (.pref o xs))))) ∧
   (∀ (s : State) (o : ScopeOps), s.accepts (.fence o) = true →
     (s.accessesOut s.curUnit s.turnThread = [] →
       exec (.fence o) s = .next (s.movedWith (.fence o) (fun th =>
         { th with fencePair := if o.scope = 0 then th.fencePair else some o.scope.toNat }))) ∧
     (s.accessesOut s.curUnit s.turnThread ≠ [] →
       exec (.fence o) s = .next (s.blockThread s.curUnit s.turnThread)))) ∧
  ((∀ (s : State) (o : DstSrc) (g : Target), s.me.fullX o.srcA = true → s.me.fullX o.dst = true → s.accepts (.tlook o) = true →
     let a := (s.me.getX o.srcA).toNat
     s.translate ((s.partOfUnit s.curUnit).getD 0) s.curUnit a .read = .ok g →
     ∀ ans : Word, (ans = match (s.core s.curUnit).findTag (a / 128) with
       | some k => BitVec.ofNat 64 k
       | none => 0xFFFFFFFFFFFFFFFF) →
       exec (.tlook o) s = .next ((s.movedWith (.tlook o) (fun th => th.emptyX o.dst)).submit
         { (s.issuerOf (.tlook o)).request s 2 a 0 ⟨s.modreg.toNat % 1024 * 2 ^ 42 + scratchPa s.curUnit 0, 0, 0⟩ (.tlook o.dst.toNat ans) with
           status := .served (s.later s.curUnit 2) (.old ans none 0) })) ∧
   (∀ (s : State) (o : TwoSrc) (g : Target), s.me.fullX o.srcA = true → s.me.fullX o.srcB = true → s.accepts (.tfill o) = true →
     let k := (s.me.getX o.srcA).toNat
     let line := (s.me.getX o.srcB).toNat / 128
     s.translate ((s.partOfUnit s.curUnit).getD 0) s.curUnit (line * 128) .read = .ok g →
     k < 1024 → k / 4 = line % 256 → (∀ j, (s.core s.curUnit).findTag line = some j → j = k) →
       (s.evicting s.curUnit k = [] →
         exec (.tfill o) s = .next (((s.moved (.tfill o)).updCore s.curUnit (fun c => c.startFill k line)).submit
           ((s.issuerOf (.tfill o)).request s 2 (line * 128) 128 g (.fill k)))) ∧
       (s.evicting s.curUnit k ≠ [] →
         exec (.tfill o) s = .next ((s.moved (.tfill o)).submit
           { (s.issuerOf (.tfill o)).request s 2 (line * 128) 128 g (.fill k) with after := s.evicting s.curUnit k }))) ∧
   (∀ (s : State) (o : OneSrc), s.me.fullX o.srcA = true → s.accepts (.tevict o) = true →
     let k := (s.me.getX o.srcA).toNat
     let e := (s.core s.curUnit).tag k
     let va := 128 * (e.toNat % 2 ^ 49)
     k < 1024 →
     (e.getLsbD 63 = false → exec (.tevict o) s = .next (s.moved (.tevict o))) ∧
     (∀ g, e.getLsbD 63 = true →
       s.translate ((s.partOfUnit s.curUnit).getD 0) s.curUnit va (if e.getLsbD 62 = true then .write else .read) = .ok g →
       exec (.tevict o) s = .next ((s.moved (.tevict o)).submit ((s.issuerOf (.tevict o)).request s 2 va 128 g (.evict k))))))

/-- MFS reads every special register of R230 and R406 in the read stage; DONEIDn by way of the copy engine. -/
def Obligations.SpecialRegisterReads : Prop :=
  ∀ (s : State) (o : SpecGet), s.me.fullX o.reg = true → s.accepts (.mfs o) = true →
    let n := o.spec.toNat
    let k := s.core s.curUnit
    let all : List (Nat × Word) :=
      [(0x000, BitVec.ofNat 64 (if s.curUnit < 192 then s.curUnit else s.curUnit - 192)), (0x002, BitVec.ofNat 64 (blockOfUnit s.curUnit / 2)),
       (0x003, BitVec.ofNat 64 (s.modreg.toNat % 1024)), (0x005, BitVec.ofNat 64 (s.cycles s.curUnit)), (0x006, s.me.flags.setWidth 64),
       (0x00B, BitVec.ofNat 64 (s.part ((s.partOfUnit s.curUnit).getD 0)).latva), (0x00C, (s.seq s.curUnit).slotmap.setWidth 64),
       (0x00D, s.me.stag.setWidth 64), (0x0C0, s.me.tvec), (0x0C1, s.me.tepc), (0x0C2, s.me.tcause.setWidth 64), (0x0C3, s.me.taddr),
       (0x0C4, s.me.tstat.setWidth 64), (0x0C5, if s.me.intrap = true then 1 else 0)]
    let ofCore : List (Nat × Word) :=
      [(0x001, BitVec.ofNat 64 (((s.coreGang s.curUnit).map (fun g => g.s)).getD 0)), (0x004, BitVec.ofNat 64 k.rank), (0x007, k.prog),
       (0x008, k.pivstat.setWidth 64), (0x009, k.growth.setWidth 64), (0x00A, k.vthr.setWidth 64)] ++
      (List.range 8).map (fun j => (0x010 + j, k.pv.getD j 0)) ++ (List.range 16).map (fun j => (0x030 + j, (k.bfmt.getD j 0).setWidth 64))
    (∀ v, ((n, v) ∈ all ∨ (s.curUnit < 192 ∧ (n, v) ∈ ofCore)) → s.curUnit < 224 →
      exec (.mfs o) s = .next (s.movedWith (.mfs o) (fun th => th.setX o.reg v))) ∧
    (0x020 ≤ n → n ≤ 0x02F →
      exec (.mfs o) s = .next ((s.movedWith (.mfs o) (fun th => th.emptyX o.reg)).submit
        { (s.issuerOf (.mfs o)).request s 2 0 0 ⟨s.modreg.toNat % 1024 * 2 ^ 42, 0, 0⟩ (.doneid o.reg.toNat (16 * engineOf s.curUnit + (n - 0x020))) with
          status := .served s.now (.data []) }))

/-- MTS writes FLAGS, PIVSTAT, PVn, BFMTn, TVEC and TEPC at commit (R134, R236, R260, R337, R343, R406). A
SPEC value that names no register, a register that the unit lacks, and an MTS to a register that it may not
write stop at check with cause 0x11, and a value that sets a reserved bit of FLAGS, PIVSTAT or BFMTn stops at
read with it; each is taken as a trap (R55, R230, R406, R430). The model's choices in it: PIVSTAT's fields are
stored as written, and PVn takes any value (assumptions 20 and 83). -/
def Obligations.SpecialRegisterWritesAndTraps : Prop :=
  (∀ (s : State) (o : SpecPut), s.me.fullX o.reg = true → s.accepts (.mts o) = true →
     let n := o.spec.toNat
     let v := s.me.getX o.reg
     let c := fun (f : CoreArr → CoreArr) => exec (.mts o) s = .next ((s.moved (.mts o)).updCore s.curUnit f)
     let t := fun (f : Thread → Thread) => exec (.mts o) s = .next (s.movedWith (.mts o) f)
     s.turnThread < 4 →
     (n = 0x006 → v.extractLsb' 15 49 = 0 → v.extractLsb' 6 2 = 0 → t (fun th => { th with
       flags := v.setWidth 15 ||| (if th.flagCycle = s.cycles s.curUnit then th.flagSet.setWidth 15 else 0) })) ∧
     (n = 0x0C0 → t (fun th => { th with tvec := v })) ∧
     (n = 0x0C1 → t (fun th => { th with tepc := v })) ∧
     (s.curUnit < 192 → n = 0x008 → v.extractLsb' 24 8 = 0 → v.extractLsb' 0 4 = 0 →
       c (fun k => { k with pivstat := (k.pivstat &&& 0xFF00000F) ||| (v.setWidth 32 &&& 0x00FFFFF0) })) ∧
     (∀ j, s.curUnit < 192 → j < 8 → n = 0x010 + j → c (fun k => { k with pv := k.pv.setIfInBounds j v })) ∧
     (∀ j, s.curUnit < 192 → j < 16 → n = 0x030 + j → badBankFormat (v.setWidth 32) = false →
       c (fun k => { k with bfmt := k.bfmt.setIfInBounds j (v.setWidth 32) }))) ∧
  ((∀ (s : State) (o : SpecGet), s.accepts (.mfs o) = true →
     (specNamed o.spec.toNat = false ∨ (192 ≤ s.curUnit ∧ s.curUnit < 224 ∧ specCoreOnly o.spec.toNat = true)) →
       exec (.mfs o) s = .next (s.takeTrap s.curUnit s.turnThread ⟨0x11, 0, false, 2, 0, 0, o.spec.setWidth 32, none⟩ s.me.pc s.me.pc)) ∧
   (∀ (s : State) (o : SpecPut), s.accepts (.mts o) = true →
     (specNamed o.spec.toNat = false ∨ (192 ≤ s.curUnit ∧ s.curUnit < 224 ∧ specCoreOnly o.spec.toNat = true) ∨
       specWritable o.spec.toNat = false) →
       exec (.mts o) s = .next (s.takeTrap s.curUnit s.turnThread ⟨0x11, 1, false, 2, 0, 0, o.spec.setWidth 32, none⟩ s.me.pc s.me.pc)) ∧
   (∀ (s : State) (o : SpecPut), s.me.fullX o.reg = true → s.accepts (.mts o) = true → s.curUnit < 224 →
     let v := s.me.getX o.reg
     ((o.spec = 0x006 ∧ (v.extractLsb' 15 49 ≠ 0 ∨ v.extractLsb' 6 2 ≠ 0)) ∨
      (s.curUnit < 192 ∧ o.spec = 0x008 ∧ (v.extractLsb' 24 8 ≠ 0 ∨ v.extractLsb' 0 4 ≠ 0)) ∨
      (s.curUnit < 192 ∧ 0x030 ≤ o.spec.toNat ∧ o.spec.toNat ≤ 0x03F ∧ badBankFormat (v.setWidth 32) = true)) →
       exec (.mts o) s = .next (s.takeTrap s.curUnit s.turnThread ⟨0x11, 1, false, 2, 0, 0, o.spec.setWidth 32, none⟩ s.me.pc s.me.pc)))

/-- The 22 atomics enter the issue order with their operand, their scope and, for CAS, their compare value
(R187, R192, R257). -/
def Obligations.AtomicsEnterTheIssueOrder : Prop :=
  ∀ (s : State) (o : AmoOps) (g : Target),
    s.me.fullX o.base = true → s.me.fullX o.data = true → s.me.fullX o.dst = true →
    let ea := (s.me.getX o.base).toNat
    ∀ e ∈ ([(.amoAdd o, .add, 4), (.amoAnd o, .and, 4), (.amoOr o, .or, 4), (.amoXor o, .xor, 4), (.amoMin o, .min, 4), (.amoMax o, .max, 4),
      (.amoMinu o, .minu, 4), (.amoMaxu o, .maxu, 4), (.amoSwp o, .swp, 4), (.amoCas o, .cas, 4), (.amoFadd o, .fadd, 4),
      (.amoFmax o, .fmax, 4), (.amoAddD o, .add, 8), (.amoAndD o, .and, 8), (.amoOrD o, .or, 8), (.amoXorD o, .xor, 8),
      (.amoMinD o, .min, 8), (.amoMaxD o, .max, 8), (.amoMinuD o, .minu, 8), (.amoMaxuD o, .maxu, 8), (.amoSwpD o, .swp, 8),
      (.amoCasD o, .cas, 8)] : List (Instr × AmoKind × Nat)),
      s.translate ((s.partOfUnit s.curUnit).getD 0) s.curUnit ea .atomic = .ok g → ea % e.2.2 = 0 →
      s.outside s.curUnit s.me.owner g = false →
      ((e.2.1 = .fadd ∨ e.2.1 = .fmax) → fp32.verdict ((s.me.getX o.data).toNat % 2 ^ 32) = none) → s.accepts e.1 = true →
        exec e.1 s = .next ((s.movedWith e.1 (fun th => th.emptyX o.dst)).submit
          { (s.issuerOf e.1).request s 2 ea e.2.2 g (.amo e.2.1 (BitVec.ofNat 64 ((s.me.getX o.data).toNat % 2 ^ (8 * e.2.2)))
              (BitVec.ofNat 64 ((s.me.getX o.dst).toNat % 2 ^ (8 * e.2.2))) o.dst.toNat) with
            acquire := o.scope != 0, release := o.scope != 0,
            check := s.checkScope s.curUnit s.turnThread g (some o.scope.toNat) false })

/-! ### The B class -/

/-- BR, BC, BCALL and RET continue at their targets and end a loop; a branch that is not taken only moves on
(R221, R261). -/
def Obligations.BranchTargets : Prop :=
  (∀ (s : State) (o : Jump) (xs : List XPay), s.accepts (.br o xs) = true →
    exec (.br o xs) s = .next (s.movedWith (.br o xs) (fun th => { th with pc := s.me.pc + 4 * immediate o.off xs, loop := none }))) ∧
  (∀ (s : State) (o : BranchOps) (xs : List XPay), s.accepts (.bc o xs) = true →
    (s.me.getP o.pred ≠ o.neg → exec (.bc o xs) s = .next (s.movedWith (.bc o xs)
      (fun th => { th with pc := s.me.pc + 4 * immediate o.off xs, loop := none }))) ∧
    (s.me.getP o.pred = o.neg → exec (.bc o xs) s = .next (s.moved (.bc o xs)))) ∧
  (∀ (s : State) (o : Jump) (xs : List XPay), s.me.fullX 30 = true → s.accepts (.bcall o xs) = true →
    exec (.bcall o xs) s = .next (s.movedWith (.bcall o xs) (fun th =>
      { th.setX 30 (s.me.pc + BitVec.ofNat 64 (4 * (1 + xs.length))) with pc := s.me.pc + 4 * immediate o.off xs, loop := none }))) ∧
  (∀ (s : State) (o : RetOps), s.me.fullX o.reg = true → s.accepts (.ret o) = true →
    exec (.ret o) s = .next (s.movedWith (.ret o) (fun th => { th with pc := s.me.getX o.reg, loop := none })))

/-- LOOP pins the bundles that follow and runs them count times (R221, R262); while the buffer still holds a
body it traps instead (R431). A loop body runs again from its first bundle until its repetitions are over, and
then the thread goes on after it (R221). -/
def Obligations.LoopsStartAndRepeat : Prop :=
  ((∀ (s : State) (o : LoopReg), s.me.loop = none → s.me.fullX o.count = true → s.accepts (.loop o) = true →
     let next := s.me.pc + BitVec.ofNat 64 (4 * (1 + o.xs.length))
     exec (.loop o) s = .next (s.movedWith (.loop o) (fun th => { th with
       pc := next
       loop := some ⟨s.me.pc, next, [], o.nm1.toNat + 1, 0, (s.me.getX o.count).toNat, none⟩ }))) ∧
   (∀ (s : State) (o : LoopImm) (xs : List XPay), s.me.loop = none → s.accepts (.loopImm o xs) = true →
     let next := s.me.pc + BitVec.ofNat 64 (4 * (1 + xs.length))
     exec (.loopImm o xs) s = .next (s.movedWith (.loopImm o xs) (fun th => { th with
       pc := next
       loop := some ⟨s.me.pc, next, [], o.nm1.toNat + 1, 0,
         (match xs with | [] => o.imm.toNat | x :: _ => (x ++ o.imm).toNat), none⟩ }))) ∧
   (∀ (s : State) (i : Instr) (l : LoopState), s.me.loop = some l → l.remaining ≠ 0 → l.at_ ≠ s.me.pc → s.accepts i = true →
     ((∃ o, i = .loop o) ∨ ∃ o xs, i = .loopImm o xs) →
       exec i s = .next (s.takeTrap s.curUnit s.turnThread ⟨0x13, 0, false, 3, 0, 0, 0, none⟩ s.me.pc s.me.pc))) ∧
  (∀ (s : State) (l : LoopState), s.me.loop = some l → l.susp = none → s.accepts .nop = true →
     (l.pos + 1 < l.len → exec .nop s = .next (s.movedWith .nop (fun th => { th with
       pc := s.me.pc + 4, loop := some { l with pos := l.pos + 1 } }))) ∧
     (l.pos + 1 = l.len → 1 < l.remaining → exec .nop s = .next (s.movedWith .nop (fun th => { th with
       pc := l.body, loop := some { l with pos := 0, remaining := l.remaining - 1 } }))) ∧
     (l.pos + 1 = l.len → l.remaining = 1 → exec .nop s = .next (s.movedWith .nop (fun th => { th with
       pc := s.me.pc + 4, loop := none }))))

/-- NOP only moves on (R265); YIELD waits for the other threads, SLEEP for its count of cycles after commit,
SLEEP 0 as YIELD (R264); the first TRIG of a gang's iteration waits for the accesses that are out, a later one
and one on a quill core have no effect (R82, R235, R264). -/
def Obligations.ThreadsGiveUpIssue : Prop :=
  (∀ s : State, s.accepts .nop = true → exec .nop s = .next (s.moved .nop)) ∧
  (∀ s : State, s.accepts .yield = true →
    exec .yield s = .next (s.movedWith .yield (fun th => { th with yielded := (List.range 4).filter (fun j => j != s.turnThread) }))) ∧
  (∀ (s : State) (o : Count16), s.accepts (.sleep o) = true →
    exec (.sleep o) s = .next (s.movedWith (.sleep o) (fun th =>
      if o.count = 0 then { th with yielded := (List.range 4).filter (fun j => j != s.turnThread) }
      else { th with sleeping := true, waitUntil := max th.waitUntil (s.cycles s.curUnit + 1 + o.count.toNat) }))) ∧
  (∀ s : State, s.accepts .trig = true →
    (192 ≤ s.curUnit → s.curUnit < 224 → exec .trig s = .next (s.moved .trig)) ∧
    (∀ g k, s.curUnit < 192 → s.me.owner = .gang g → s.gangOf g = some k → s.turnThread < 4 →
      (k.trigUsed = false →
        exec .trig s = .next (((s.moved .trig).updGang g (fun x => { x with trigUsed := true })).updThread s.curUnit s.turnThread (fun th =>
          { th with trig := some (s.accessesOut s.curUnit s.turnThread) }))) ∧
      (k.trigUsed = true → exec .trig s = .next (s.moved .trig))))

/-- EXIT: the thread issues nothing more, its results that are still to come are discarded (those of its reads,
of its atomics and of its appends; an LDE that has not read yet is given up), its writes go on, and its bulk
runs close (R263, R460). -/
def Obligations.ExitEndsIssue : Prop :=
  ∀ s : State, s.accepts .exit = true → s.turnThread < 4 →
    ∃ t, exec .exit s = .next t ∧ (t.thread s.curUnit s.turnThread).status = .exiting ∧ (t.thread s.curUnit s.turnThread).loop = none ∧
      (t.thread s.curUnit s.turnThread).sameFile s.me ∧ t.mem = s.mem ∧ t.threadFree s.curUnit s.turnThread = false ∧
      t.reqs.map (fun r => r.id) = (s.reqs.filter (fun r => !r.givenUp s.curUnit s.turnThread)).map (fun r => r.id) ∧
      (∀ r ∈ s.reqs, (r.by_.unit ≠ s.curUnit ∨ r.by_.thr ≠ s.turnThread) → r ∈ t.reqs) ∧
      (∀ r ∈ s.reqs, r.by_.unit = s.curUnit → r.by_.thr = s.turnThread → r.op.isWrite = true →
        (∀ k v w d, r.op = .amo k v w d → { r with op := .amo k v w 0 } ∈ t.reqs) ∧ ((∀ k v w d, r.op ≠ .amo k v w d) → r ∈ t.reqs)) ∧
      (∀ a ∈ t.appends, a.by_.unit = s.curUnit → a.by_.thr = s.turnThread → a.dst = 0) ∧
      (∀ ch e r, e ∈ (t.channel ch).runs → e.2 = some r → r.unit = s.curUnit → r.thr = s.turnThread → r.closing.isSome = true) ∧
      (∀ ch, ∀ r ∈ (t.channel ch).runQueue, r.unit = s.curUnit → r.thr = s.turnThread → r.closing.isSome = true) ∧
      (∀ r ∈ t.reqs, r.by_.unit = s.curUnit → r.by_.thr = s.turnThread → r.op.isWrite = false → r.op.isFill = false →
        s.readsForHgsc r.op = false → r.dropped = true)

/-- TRAP is taken after its bundle: TEPC names the next bundle, TCAUSE has cause 0x01 and INFO the code, TADDR
and TSTAT are 0, INTRAP becomes 1 and the next bundle comes from TVEC (R406, R408, R409); no other register of
the thread or of another changes. -/
def Obligations.TrapEntersTheHandler : Prop :=
  ∀ (s : State) (o : Code8), s.accepts (.trap o) = true → s.turnThread < 4 → s.me.loop = none → s.me.tvec ≠ 0 → s.me.intrap = false →
    ∃ t, exec (.trap o) s = .next t ∧
      let th := t.thread s.curUnit s.turnThread
      th.tepc = s.me.pc + 4 ∧ th.tcause = BitVec.ofNat 32 (0x01 * 2 ^ 16 + o.code.toNat * 2 ^ 8 + 3 * 2 ^ 4) ∧ th.taddr = 0 ∧ th.tstat = 0 ∧
      th.intrap = true ∧ th.pc = s.me.tvec ∧ th.tvec = s.me.tvec ∧ th.traps = [] ∧ th.sameFile s.me ∧
      s.sameOthers t s.curUnit s.turnThread ∧ t.cores = s.cores ∧ t.mem = s.mem

/-- A trap with TVEC 0 ends the launch with the trap's own cause, and one with INTRAP 1 with cause 0x02
(R408). ERET with INTRAP 1 clears it and continues at TEPC; with INTRAP 0 it ends the launch with cause 0x03
(R410). A trap taken at a bundle of a loop body and the ERET that returns to that bundle leave the loop as it
was, at its position and with its remaining count (R408, R410); a loop of the handler's own ends. That a loop
interrupted by the trap goes on only from a bundle of its body that TEPC names, and is held otherwise, is the
model's choice (assumption 27). -/
def Obligations.TrapsInLoopsReturn : Prop :=
  (∀ (s : State) (o : Code8), s.accepts (.trap o) = true → s.turnThread < 4 → s.me.loop = none →
     let t := s.movedWith (.trap o) (fun th => { th with traps := [⟨0x01, o.code.toNat, false, 3, 0, 0, 0, none⟩] })
     let i : Issue := ⟨s.curUnit, s.turnThread, s.me.owner, s.me.pc, 3, 0⟩
     (s.me.tvec = 0 → exec (.trap o) s = .next (t.fail i 0x01 0 0)) ∧
     (s.me.tvec ≠ 0 → s.me.intrap = true → exec (.trap o) s = .next (t.fail i 0x02 0 0))) ∧
  (∀ s : State, s.accepts .eret = true →
     (s.me.intrap = true → exec .eret s = .next (s.movedWith .eret (fun th => { th with
       intrap := false
       pc := s.me.tepc
       loop := s.me.loop.bind (fun l => if l.susp = none then none else some (l.resume s.me.tepc)) }))) ∧
     (s.me.intrap = false → exec .eret s = .next (s.fail ⟨s.curUnit, s.turnThread, s.me.owner, s.me.pc, 3, 0⟩ 0x03 0 0))) ∧
  (∀ (th : Thread) (l : LoopState), th.loop = some l → l.susp = none →
     (({ th with loop := th.loop.map (fun k => { k with susp := some th.pc }), tepc := th.pc, intrap := true, pc := th.tvec } : Thread).eret th.pc).loop = some l ∧
     (({ th with loop := th.loop.map (fun k => { k with susp := some th.pc }), tepc := th.pc, intrap := true, pc := th.tvec } : Thread).eret th.pc).pc = th.pc) ∧
  (∀ (l : LoopState) (pc : Word), (l.susp = some pc → l.resume pc = { l with susp := none }) ∧
     (∀ j, l.susp ≠ some pc → l.place pc = some j → l.resume pc = { l with susp := none, pos := j }) ∧
     (l.susp ≠ some pc → l.place pc = none → l.resume pc = l))

/-! ### The C class -/

/-- CPY, CPYX and QPOST commit at once: the destination is empty until the claim, and an append of the thread
carries out the rest (R267 to R270); WAITID completes once the named copy has and the thread's acquires have
landed (R173, R192, R271). -/
def Obligations.AppendsStart : Prop :=
  (∀ (s : State) (dst srcA srcB : BitVec 5) (ta tb : Bool) (md : BitVec 2) (chan : BitVec 3),
    s.me.fullX srcA = true → s.me.fullX srcB = true → s.me.fullX dst = true → (s.appendsOf s.curUnit s.turnThread).length < 4 →
    let started := fun (i : Instr) (k : AppendKind) => (s.movedWith i (fun th => th.emptyX dst)).pushAppend
      { num := 0, by_ := ⟨s.curUnit, s.turnThread, s.me.owner, s.me.pc, 4, 0⟩, part := (s.partOfUnit s.curUnit).getD 0, kind := k, a := s.me.getX srcA,
        b := s.me.getX srcB, dst := dst.toNat, after := [], stage := 0, wi := 0, slotVa := 0, img := [], launch := s.ownerLaunch s.me.owner }
    (s.accepts (.cpy ⟨dst, srcA, srcB, ta, tb, md⟩) = true →
      exec (.cpy ⟨dst, srcA, srcB, ta, tb, md⟩) s = .next (started (.cpy ⟨dst, srcA, srcB, ta, tb, md⟩) (.cpy md.toNat))) ∧
    (s.accepts (.cpyx ⟨dst, srcA, srcB, ta, tb, chan⟩) = true → (s.copyQueue (16 * engineOf s.curUnit + chan.toNat)).en = true →
      exec (.cpyx ⟨dst, srcA, srcB, ta, tb, chan⟩) s = .next (started (.cpyx ⟨dst, srcA, srcB, ta, tb, chan⟩) (.cpyx chan.toNat))) ∧
    (s.accepts (.qpost ⟨dst, srcA, srcB, ta, tb⟩) = true → (s.me.getX srcB).toNat < 64 →
      (s.launchQueue (s.me.getX srcB).toNat).en = true →
      (s.launchQueue (s.me.getX srcB).toNat).part = (s.partOfUnit s.curUnit).getD 0 →
      exec (.qpost ⟨dst, srcA, srcB, ta, tb⟩) s = .next (started (.qpost ⟨dst, srcA, srcB, ta, tb⟩) (.qpost (s.me.getX srcB).toNat)))) ∧
  (∀ (s : State) (o : WaitOps), s.me.fullX o.srcA = true → s.accepts (.waitid o) = true →
    let d := (s.copyQueue (16 * engineOf s.curUnit + o.chan.toNat)).doneid
    let x := (s.me.getX o.srcA).setWidth 32
    (s.acquiresOut s.curUnit s.turnThread = [] → (d - x - 1).toNat < 2 ^ 31 → exec (.waitid o) s = .next (s.moved (.waitid o))) ∧
    ((s.acquiresOut s.curUnit s.turnThread ≠ [] ∨ 2 ^ 31 ≤ (d - x - 1).toNat) → exec (.waitid o) s = .next (s.blockThread s.curUnit s.turnThread)))

/-- The well instructions act on the well that x[srcA] names in a scratchpad of the partition: WINIT (its
participants from a bitmap in a scratchpad, or every dispatched thread), WARR and WDROP put their operation on
its way; WWAIT on the own core's well completes unless PHASE equals bit 0 of its operand, on another core's it
registers with the bank unit and completes once that has reported; WTEST asks for PHASE (R176, R177, R272, R273).
A quill task of a gang has WARR, WWAIT and WTEST. -/
def Obligations.WellInstructions : Prop :=
  ∀ (s : State) (d a b : BitVec 5) (ta tb : Bool) (scope sel : BitVec 3) (g : Target) (core off : Nat),
    let va := (s.me.getX a).toNat
    let p := (s.partOfUnit s.curUnit).getD 0
    let push := fun (i : Instr) (k : WellKind) => (s.moved i).pushWell ⟨s.curUnit, s.turnThread, s.me.owner, s.me.pc, 4, 0⟩ p va g k
      (4 * (s.core s.curUnit).rank + s.turnThread)
    (isQuill s.curUnit = true → (s.ownerGang s.me.owner).isSome = true) →
    s.me.fullX a = true → s.me.fullX b = true → s.me.fullX d = true → va % 128 = 0 → s.scratchOf g = some (core, off) →
    s.mayName s.curUnit s.me.owner core = true →
    (s.translate p s.curUnit va .write = .ok g →
      (s.accepts (.winit ⟨d, a, b, ta, tb, sel⟩) = true → isQuill s.curUnit = false → (s.me.getX b).toNat ≤ 768 →
        (s.me.getX d = 0 → exec (.winit ⟨d, a, b, ta, tb, sel⟩) s =
          .next (push (.winit ⟨d, a, b, ta, tb, sel⟩) (.init (s.me.getX b).toNat none))) ∧
        (∀ gb : Nat → Target, s.me.getX d ≠ 0 → (s.me.getX d).toNat % 16 = 0 →
          (∀ j < 6, s.translate p s.curUnit ((s.me.getX d).toNat + 16 * j) .read = .ok (gb j) ∧ (s.scratchOf (gb j)).isSome = true) →
          exec (.winit ⟨d, a, b, ta, tb, sel⟩) s =
            .next (push (.winit ⟨d, a, b, ta, tb, sel⟩) (.init (s.me.getX b).toNat (some ((List.range 6).map (fun j => (gb j).pa))))))) ∧
      (s.accepts (.warr ⟨a, b, ta, tb, scope⟩) = true →
        exec (.warr ⟨a, b, ta, tb, scope⟩) s = .next (push (.warr ⟨a, b, ta, tb, scope⟩) (.arrive ((s.me.getX b).setWidth 32).toInt))) ∧
      (s.accepts (.wdrop ⟨a, ta, scope⟩) = true → isQuill s.curUnit = false →
        exec (.wdrop ⟨a, ta, scope⟩) s = .next (push (.wdrop ⟨a, ta, scope⟩) (.drop false)))) ∧
    (s.translate p s.curUnit va .read = .ok g →
      (s.accepts (.wwait ⟨a, b, ta, tb, scope⟩) = true → s.wellPending s.curUnit s.turnThread g.pa = false →
        let ph := (s.me.getX b).getLsbD 0
        (core = s.curUnit → s.wellPhase (localOf g.pa) ≠ ph →
          exec (.wwait ⟨a, b, ta, tb, scope⟩) s = .next (s.moved (.wwait ⟨a, b, ta, tb, scope⟩))) ∧
        (core = s.curUnit → s.wellPhase (localOf g.pa) = ph →
          exec (.wwait ⟨a, b, ta, tb, scope⟩) s = .next (s.blockThread s.curUnit s.turnThread)) ∧
        (core ≠ s.curUnit → s.me.wellWait = some (localOf g.pa, ph, true) →
          exec (.wwait ⟨a, b, ta, tb, scope⟩) s =
            .next (s.movedWith (.wwait ⟨a, b, ta, tb, scope⟩) (fun th => { th with wellWait := none }))) ∧
        (core ≠ s.curUnit → s.me.wellWait = none →
          exec (.wwait ⟨a, b, ta, tb, scope⟩) s = .next ((s.updThread s.curUnit s.turnThread (fun th =>
            { th with wellWait := some (localOf g.pa, ph, false) })).blockThread s.curUnit s.turnThread))) ∧
      (s.accepts (.wtest ⟨d, a, ta, scope⟩) = true →
        exec (.wtest ⟨d, a, ta, scope⟩) s = .next ((s.movedWith (.wtest ⟨d, a, ta, scope⟩) (fun th => th.emptyX d)).submit
          { (s.issuerOf (.wtest ⟨d, a, ta, scope⟩)).request s 4 va 4 g (.wtest d.toNat) with acquire := true })))

/-- BOPEN's request joins the queue of a channel with the run, at its own HBM (R275, R460); BCLOSE marks the run
that the thread holds or has asked for as to be closed, once the copies before it have moved (R276, R460). -/
def Obligations.BulkRunsOpenAndClose : Prop :=
  ∀ (s : State) (o : BulkOps) (g : Target),
    let va := (s.me.getX o.srcA).toNat
    let pa := localOf g.pa
    let p := (s.partOfUnit s.curUnit).getD 0
    s.me.fullX o.srcA = true → s.translate p s.curUnit va .read = .ok g → s.isLocal g = true → s.ownHbm p pa 1 = true →
    (s.accepts (.bopen o) = true → s.hasRun (channelOf pa) o.run.toNat = true →
      exec (.bopen o) s = .next ((s.moved (.bopen o)).fresh.updChannel (channelOf pa) (fun c =>
        { c with runQueue := c.runQueue ++ [⟨s.curUnit, s.turnThread, o.run.toNat, bankOf pa, pa / 128, s.nextId, none⟩]
                 rotation := s.cc / 320 }))) ∧
    (s.accepts (.bclose o) = true → (s.channel (channelOf pa)).holds s.curUnit s.turnThread o.run.toNat = true →
      ∃ t, exec (.bclose o) s = .next t ∧ t.mem = s.mem ∧
        (t.channel (channelOf pa)).runQueue = (s.channel (channelOf pa)).runQueue.map (fun r =>
          if r.unit = s.curUnit ∧ r.thr = s.turnThread ∧ r.run = o.run.toNat then { r with closing := some (r.closing.getD s.nextId) } else r) ∧
        (∀ r, lookup none o.run.toNat (t.channel (channelOf pa)).runs = some r → r.unit = s.curUnit → r.thr = s.turnThread →
          r.closing.isSome = true) ∧
        (∀ ch, ch ≠ channelOf pa → t.channel ch = s.channel ch))

/-! ### The E class -/

/-- ELW, ELN, EWE and EWS add a stream with their options to their edge unit, whose header is read after the
thread's earlier writes (R311, R312); nothing else of any core changes. -/
def Obligations.StreamsAreProgrammed : Prop :=
  ∀ (s : State) (i : Instr) (e : EdgeId) (h h2 : BitVec 5) (panel bitmap stash : Bool) (prune : Nat),
    ((∃ o : ElwOps, i = .elw o ∧ e = .west ∧ h = o.hdr ∧ h2 = 0 ∧ panel = (o.geom == 1) ∧ prune = o.prune.toNat ∧ bitmap = o.bmd ∧ stash = false) ∨
     (∃ o : ElnOps, i = .eln o ∧ e = .north ∧ h = o.hdr ∧ h2 = 0 ∧ panel = (o.geom == 1) ∧ prune = 0 ∧ bitmap = o.bmd ∧ stash = false) ∨
     (∃ o : EweOps, i = .ewe o ∧ e = .east ∧ h = o.hdr ∧ h2 = 0 ∧ panel = (o.geom == 1) ∧ prune = 0 ∧ bitmap = o.bmc ∧ stash = false) ∨
     (∃ o : EwsOps, i = .ews o ∧ e = .south ∧ h = o.hdr ∧ (h2 = if o.stash = true then o.hdr2 else 0) ∧ panel = (o.geom == 1) ∧ prune = 0 ∧
       bitmap = o.bmc ∧ stash = o.stash)) →
    s.me.fullX h = true → s.me.fullX h2 = true → s.accepts i = true →
    (s.chainGrid s.curUnit).takesPart (s.chainPos s.curUnit) e = true → ((s.core s.curUnit).edge e).held.length < 2 →
    ∃ t x, exec i s = .next t ∧ ((t.core s.curUnit).edge e).streams = ((s.core s.curUnit).edge e).streams ++ [x] ∧
      x.fst.hdrVa = (s.me.getX h).toNat ∧ x.fst.hdr = none ∧ (stash = true → x.snd.hdrVa = (s.me.getX h2).toNat) ∧
      x.panel = panel ∧ x.prune = prune ∧ x.bitmap = bitmap ∧ x.stash = stash ∧ x.live = false ∧ x.taken = 0 ∧
      x.after = s.writesOut s.curUnit s.turnThread ∧
      (∀ f, f ≠ e → (t.core s.curUnit).edge f = (s.core s.curUnit).edge f) ∧ (∀ n, n ≠ s.curUnit → t.core n = s.core n) ∧
      (t.core s.curUnit).cells = (s.core s.curUnit).cells ∧ t.mem = s.mem

/-- EDRAIN blocks until the wave of its chain has drained and the named writers have closed, and then ends the
named loaders' streams (R123, R319). -/
def Obligations.DrainsEndStreams : Prop :=
  ∀ (s : State) (o : Mask4), s.accepts (.edrain o) = true →
    ((s.core (s.waveCore s.curUnit)).drained = false →
      exec (.edrain o) s = .next (s.blockThread s.curUnit s.turnThread)) ∧
    ((s.core (s.waveCore s.curUnit)).drained = true → ((o.mask.getLsbD 2 = true ∧ (s.core s.curUnit).east.streams ≠ []) ∨
        (o.mask.getLsbD 3 = true ∧ (s.core s.curUnit).south.streams ≠ [])) →
      exec (.edrain o) s = .next ((s.closeWriters s.curUnit o.mask).blockThread s.curUnit s.turnThread)) ∧
    ((s.core (s.waveCore s.curUnit)).drained = true → (o.mask.getLsbD 2 = true → (s.core s.curUnit).east.streams = []) →
      (o.mask.getLsbD 3 = true → (s.core s.curUnit).south.streams = []) →
      ∃ t, exec (.edrain o) s = .next t ∧
        (t.core s.curUnit).west.streams = (if o.mask.getLsbD 0 = true then [] else (s.core s.curUnit).west.streams) ∧
        (t.core s.curUnit).north.streams = (if o.mask.getLsbD 1 = true then [] else (s.core s.curUnit).north.streams) ∧
        (t.core s.curUnit).east = (s.core s.curUnit).east ∧ (t.core s.curUnit).south = (s.core s.curUnit).south ∧
        (t.core s.curUnit).cells = (s.core s.curUnit).cells ∧ t.mem = s.mem)

/-! ### The W class -/

/-- A wave instruction that reads no x register enters an open nib (R107, R122); it waits while the nib is
full or a library stroke is left in it, and a core that does not lead its chain ends its launch with cause
0x16 (R440). ACCRD carries its output bias, VBEG its block length and threshold, VTHR its threshold, read at
issue; VBEG and VTHR write the threshold register (R327, R328, R331). -/
def Obligations.WaveInstructionsEnterTheNibWithTheirOperands : Prop :=
  (∀ (s : State) (i : Instr), plainWave i = true → s.accepts i = true →
     (s.nibOpen = true → exec i s = .next (s.entered i 0 0)) ∧
     (s.leadsChain s.curUnit = true → s.nibOpen = false →
       exec i s = .next (s.blockThread s.curUnit s.turnThread)) ∧
     (s.leadsChain s.curUnit = false →
       exec i s = .next (s.fail ⟨s.curUnit, s.turnThread, s.me.owner, s.me.pc, 6, 0⟩ 0x16 0 0))) ∧
  ((∀ (s : State) (o : WAccrd) (xs : List XPay), s.accepts (.accrd o xs) = true → s.nibOpen = true → s.me.fullX o.srcB = true →
     exec (.accrd o xs) s = .next (s.entered (.accrd o xs) 0 (s.me.getX o.srcB))) ∧
   (∀ (s : State) (o : WVbeg) (xs : List XPay), s.accepts (.vbeg o xs) = true → s.nibOpen = true → s.me.fullX o.srcA = true →
     s.me.fullX o.srcB = true → (o.md = 2 ∨ o.srcB = 0) → 0 < (s.me.getX o.srcA).toNat → (s.me.getX o.srcA).toNat < 2 ^ 16 →
     exec (.vbeg o xs) s = .next ((s.entered (.vbeg o xs) (s.me.getX o.srcA) (s.me.getX o.srcB)).updCore s.curUnit
       (fun k => { k with vthr := (s.me.getX o.srcB).setWidth 32 }))) ∧
   (∀ (s : State) (o : WVthr), s.accepts (.vthr o) = true → s.nibOpen = true → s.me.fullX o.srcA = true →
     exec (.vthr o) s = .next ((s.entered (.vthr o) (s.me.getX o.srcA) 0).updCore s.curUnit
       (fun k => { k with vthr := (s.me.getX o.srcA).setWidth 32 }))))

/-- LUP, CHOL, QRH and TRSM issue while the nib has room and no stroke is left in it, wait behind the nib as one
wave instruction with a number of its own, and else block (R107, R122, R228, R336). PVST stores the 64 pivot bytes as posted relaxed stores from the address of its
operand on (R343), the first global one as a FENCE's pair (R201); the model makes them eight stores of eight bytes,
a choice of its own (assumption 89). -/
def Obligations.LibraryStrokesAndPivotStores : Prop :=
  (∀ (s : State) (a : Tile1) (b : Tile2) (c : TileTri), s.leadsChain s.curUnit = true →
     ∀ i ∈ [Instr.lup a, .chol a, .qrh b, .trsm c], s.accepts i = true →
       ((s.core s.curUnit).nib.length < 8 → (s.core s.curUnit).stroke = none →
         exec i s = .next ((s.moved i).updCore s.curUnit (fun k => { k with
           stroke := some ⟨i, ⟨s.curUnit, s.turnThread, s.me.owner, s.me.pc, 6, 0⟩, headWord i, k.nextWid, 0, 0, 0, false, false, false, none⟩
           nextWid := k.nextWid + 1
           lastWid := some k.nextWid }))) ∧
       (8 ≤ (s.core s.curUnit).nib.length ∨ (s.core s.curUnit).stroke ≠ none →
         exec i s = .next (s.blockThread s.curUnit s.turnThread))) ∧
  (∀ (s : State) (o : AddrSrc) (g : Nat → Target), s.accepts (.pvst o) = true → s.leadsChain s.curUnit = true →
     (s.core s.curUnit).stroke = none → ((s.core s.curUnit).progDue = none ∨ (s.core s.curUnit).prog = 64) → s.me.fullX o.srcA = true →
     let va := (s.me.getX o.srcA).toNat
     va % 8 = 0 → (∀ j < 8, s.translate ((s.partOfUnit s.curUnit).getD 0) s.curUnit (va + 8 * j) .write = .ok (g j)) →
       exec (.pvst o) s = .next ((List.range 8).foldl (fun t j =>
         (t.updThread s.curUnit s.turnThread (fun th => th.pairDone (g j))).submit
           { (s.issuerOf (.pvst o)).request t 6 (va + 8 * j) 8 (g j) (.store (leBytes 8 ((t.core s.curUnit).pv.getD j 0).toNat) false) with
             check := t.checkScope s.curUnit s.turnThread (g j) none true }) (s.moved (.pvst o))))

/-- SELI and SELX write a g register (R303, R304) unless the nib still holds an instruction of the thread that
names it (R305). Their reserved values are kind 3 and their reserved fields kind 4 (R429). The model's choices in it: which of the
kinds a field has (assumption 16), and that another thread's instructions in the nib do not count (assumption 88). -/
def Obligations.SelectorsAreWritten : Prop :=
  (∀ (s : State) (o : SelOps) (xs : List XPay), s.accepts (.seli o xs) = true → s.leadsChain s.curUnit = true →
    (s.core s.curUnit).stroke = none → s.nibNames s.curUnit s.turnThread o.dst = false →
      exec (.seli o xs) s = .next (s.movedWith (.seli o xs) (fun th => th.setG o.dst
        (if o.md = 0 then 0xFFFFFFFFFFFF
         else if o.md = 1 then 0xFFFF00000000 ||| BitVec.ofNat 64 ((2 ^ min 16 (o.srcB.toNat + 1) - 1) * 2 ^ 16 + (2 ^ min 16 (o.srcA.toNat + 1) - 1))
         else seliValue o xs)))) ∧
  (∀ (s : State) (o : SelOps) (a b g : Word), s.accepts (.selx o) = true → s.leadsChain s.curUnit = true →
    (s.core s.curUnit).stroke = none → s.nibNames s.curUnit s.turnThread o.dst = false → s.me.fullX o.srcA = true →
    (o.md = 1 → s.me.fullX o.srcB = true) → s.me.getX o.srcA = a → s.me.getX o.srcB = b → s.me.getG o.dst = g →
      exec (.selx o) s = .next (s.movedWith (.selx o) (fun th => th.setG o.dst
        ([a &&& 0xFFFFFFFFFFFF, (g &&& 0xFFFF00000000) ||| ((b &&& 0xFFFF) <<< 16) ||| (a &&& 0xFFFF),
          g &&& (0xFFFF0000FFFF ||| ((a &&& 0xFFFF) <<< 16)), g &&& (0xFFFFFFFF0000 ||| (a &&& 0xFFFF))].getD o.md.toNat 0)))) ∧
  (∀ (o : SelOps) (xs : List XPay),
    (o.md = 3 → (Instr.seli o xs).reservedKind = some 3) ∧
    (o.md = 0 → o.srcA ≠ 0 ∨ o.srcB ≠ 0 → (Instr.seli o xs).reservedKind = some 4) ∧
    (o.md = 2 → 2 ^ 48 ≤ (seliValue o xs).toNat ∨ xs = [] → (Instr.seli o xs).reservedKind.isSome = true) ∧
    (o.md ≠ 2 → (Instr.seli o xs).maxX = 0) ∧ (o.md = 2 → (Instr.seli o xs).maxX = 2) ∧
    (Instr.selx o).maxX = 0 ∧ (o.md = 0 → o.srcB ≠ 0 → (Instr.selx o).reservedKind = some 4) ∧
    (∃ b, (Instr.seli o xs).opBody = some (6, 0x60, b)) ∧ (∃ b, (Instr.selx o).opBody = some (6, 0x61, b)))

/-- WFLG reads the aggregate of the last wave instruction that entered the nib, at once where it is valid, and
otherwise its destination is empty until it is; with none yet it reads that of no executing cell (R105, R106, R306). WDRAIN waits until nothing is left of the
nib, a stroke or the wave (R123, R307). -/
def Obligations.WaveFlagsAndDrain : Prop :=
  (∀ (s : State) (o : FlagOps) (w : Nat) (a : Aggregate), s.accepts (.wflg o) = true → s.leadsChain s.curUnit = true →
    (s.core s.curUnit).stroke = none → s.me.fullX o.dst = true →
    ((s.core s.curUnit).lastWid = none →
      exec (.wflg o) s = .next (s.movedWith (.wflg o) (fun th => th.setX o.dst (if o.md = 0 then 1 else 0)))) ∧
    ((s.core s.curUnit).lastWid = some w → (s.core s.curUnit).validAgg = some (w, a) →
      exec (.wflg o) s = .next (s.movedWith (.wflg o) (fun th => th.setX o.dst
        (match o.md.toNat with
          | 0 => if a.anyZero.getLsbD o.qidx.toNat = true then 0 else 1
          | 1 => if a.anyOne.getLsbD o.qidx.toNat = true then 1 else 0
          | 2 => lookup 0 o.qidx.toNat a.rows
          | _ => lookup 0 o.qidx.toNat a.cols)))) ∧
    ((s.core s.curUnit).lastWid = some w → (∀ x, (s.core s.curUnit).validAgg ≠ some (w, x)) → o.dst ≠ 0 →
      exec (.wflg o) s = .next ((s.movedWith (.wflg o) (fun th => th.emptyX o.dst)).updCore s.curUnit (fun k => { k with
        wflgs := k.wflgs ++ [⟨w, s.turnThread, o.dst.toNat, o.md.toNat, o.qidx.toNat⟩] })))) ∧
  (∀ s : State, s.accepts .wdrain = true → s.leadsChain s.curUnit = true →
    let k := s.core s.curUnit
    (k.nib = [] ∧ k.stroke = none ∧ k.wave = [] ∧ k.progDue = none → exec .wdrain s = .next (s.moved .wdrain)) ∧
    (¬ (k.nib = [] ∧ k.stroke = none ∧ k.wave = [] ∧ k.progDue = none) →
      exec .wdrain s = .next (s.blockThread s.curUnit s.turnThread)))

/-! ### What the cells compute -/

/-- The two-operand floating instructions of a cell act on each lane of their format, ORing the flags into the
cell's flag byte; a verdict word among the operands makes the cell fault with cause 0x20 (R278, R282, R291,
R292, R435). -/
def Obligations.CellFloatLanes : Prop :=
  ∀ (o : WBin) (xs : List XPay) (v : CellEnv) (c : Cell),
    let x := XFields.of xs
    let F := (floatFmt (if x.fmtA = 0 then fmtFP32 else x.fmtA)).getD fp32
    let a := c.operand v x.crow.toNat o.srcA
    let b := c.operand v x.crow.toNat o.srcB
    ∀ e ∈ ([
      (.cellFadd o xs, true, fpAdd F), (.cellFsub o xs, true, fpSub F), (.cellFmul o xs, true, fpMul F), (.fdiv o xs, true, fpDiv F),
      (.cellFmin o xs, false, fun _ _ => fpMinMax F false), (.cellFmax o xs, false, fun _ _ => fpMinMax F true)] :
        List (Instr × Bool × (Nat → Nat → Nat → Nat → Rounded))),
      ((anyVerdict F a = true ∨ anyVerdict F b = true) → cellEffect e.1 v c = .error (0x20, 0)) ∧
      (anyVerdict F a = false → anyVerdict F b = false → (e.2.1 = false ∨ x.rnd ≠ 4) → o.dst.toNat < 16 →
        ∃ c', cellEffect e.1 v c = .ok c' ∧
          (∀ l, l < 256 / F.width → laneOf (c'.frag o.dst.toNat) F.width l =
            (e.2.2 x.rnd.toNat 0 (laneOf a F.width l) (laneOf b F.width l)).1 % 2 ^ F.width) ∧
          c'.flags = (List.range (256 / F.width)).foldl
            (fun f l => f ||| (e.2.2 x.rnd.toNat 0 (laneOf a F.width l) (laneOf b F.width l)).2) c.flags ∧
          (∀ n, n ≠ o.dst.toNat → c'.frag n = c.frag n) ∧ c'.c = c.c ∧ c'.h0 = c.h0 ∧ c'.h1 = c.h1 ∧ c'.q = c.q ∧ c'.s = c.s ∧
          c'.store = c.store)

/-- The integer instructions of a cell act on two's complement lanes, .SAT clamping to the signed range
(R297). -/
def Obligations.CellIntegerLanes : Prop :=
  ∀ (o : WBinMod) (q : WBin) (xs : List XPay) (v : CellEnv) (c : Cell), q.srcA = o.srcA → q.srcB = o.srcB → q.dst = o.dst →
    let fmt := if (XFields.of xs).fmtA = 0 then fmtINT32 else (XFields.of xs).fmtA
    let w := fmtWidth fmt
    let a := fun l => laneOf (c.operand v 0 o.srcA) w l
    let b := fun l => laneOf (c.operand v 0 o.srcB) w l
    let sat := fun (r : Int) => twos w (if o.md = 1 then max (-(2 ^ (w - 1))) (min (2 ^ (w - 1) - 1) r) else r)
    w ∈ [8, 16, 32] → o.dst.toNat < 16 →
    ∀ e ∈ ([
      (.iadd o xs, fun l => sat (signExt w (a l) + signExt w (b l))), (.isub o xs, fun l => sat (signExt w (a l) - signExt w (b l))),
      (.imul o xs, fun l => sat (signExt w (a l) * signExt w (b l))), (.iand q xs, fun l => a l &&& b l), (.ior q xs, fun l => a l ||| b l),
      (.ixor q xs, fun l => a l ^^^ b l), (.ishl q xs, fun l => a l * 2 ^ (b l % w)), (.ishr q xs, fun l => a l / 2 ^ (b l % w)),
      (.isra q xs, fun l => twos w (signExt w (a l) / 2 ^ (b l % w)))] : List (Instr × (Nat → Nat))),
      ∃ c', cellEffect e.1 v c = .ok c' ∧
        (∀ l, l < 256 / w → laneOf (c'.frag o.dst.toNat) w l = e.2 l % 2 ^ w) ∧ (∀ n, n ≠ o.dst.toNat → c'.frag n = c.frag n) ∧
        c'.c = c.c ∧ c'.h0 = c.h0 ∧ c'.h1 = c.h1 ∧ c'.flags = c.flags ∧ c'.q = c.q ∧ c'.s = c.s ∧ c'.store = c.store

/-! ### The V class -/

/-- The lane arithmetic: each active lane of the destination gets the result in the lane format, of INT32
modulo 2^32 or clamped with .SAT, and each other lane stays (R346, R348, R349, R355). A verdict word in an
active source lane traps instead, so the statement is about lanes without one. -/
def Obligations.LaneArithmetic : Prop :=
  ∀ (s : State) (o : VTriMod) (xs : List XPay),
    let x := XFields.of xs
    let fmt := if x.fmtA = 0 then fmtFP32 else x.fmtA
    let m := s.me.getM o.mask
    let a := s.me.getV o.srcA.toNat
    let b := s.me.getV o.srcB.toNat
    let d := s.me.getV o.dst.toNat
    s.me.fullV o.srcA.toNat = true → s.me.fullV o.srcB.toNat = true → s.me.fullV o.dst.toNat = true →
    (∀ F, floatFmt fmt = some F → ∀ l < 32, m.getLsbD l = true →
      F.verdict (laneCode fmt (lane a l)) = none ∧ F.verdict (laneCode fmt (lane b l)) = none) →
    let clamp := fun (v : Int) => BitVec.ofInt 32 (if o.md = 1 then max (-2147483648) (min v 2147483647) else v)
    ∀ e ∈ ([
      (.vadd o xs, fun F p q _ => fpAdd F x.rnd.toNat 0 p q, fun p q _ => clamp (p.toInt + q.toInt)),
      (.vsub o xs, fun F p q _ => fpSub F x.rnd.toNat 0 p q, fun p q _ => clamp (p.toInt - q.toInt)),
      (.vmul o xs, fun F p q _ => fpMul F x.rnd.toNat 0 p q, fun p q _ => clamp (p.toInt * q.toInt)),
      (.vfma o xs, fun F p q r => fpFma F x.rnd.toNat 0 p q r, fun p q r => p * q + r),
      (.vmin o xs, fun F p q _ => fpMinMax F false p q, fun p q _ => if o.md = 1 then (if p.toNat ≤ q.toNat then p else q) else if p.toInt ≤ q.toInt then p else q),
      (.vmax o xs, fun F p q _ => fpMinMax F true p q, fun p q _ => if o.md = 1 then (if p.toNat ≤ q.toNat then q else p) else if p.toInt ≤ q.toInt then q else p)] :
        List (Instr × (FloatFmt → Nat → Nat → Nat → Rounded) × (BitVec 32 → BitVec 32 → BitVec 32 → BitVec 32))),
      s.accepts e.1 = true → (e.1 = .vfma o xs → ∀ F, floatFmt fmt = some F → ∀ l < 32, m.getLsbD l = true →
        F.verdict (laneCode fmt (lane d l)) = none) →
      let one := fun (l : Nat) => match floatFmt fmt with
        | some F => e.2.1 F (laneCode fmt (lane a l)) (laneCode fmt (lane b l)) (laneCode fmt (lane d l))
        | none => ((e.2.2 (lane a l) (lane b l) (lane d l)).toNat, 0)
        ∃ v f, exec e.1 s = .next ((s.movedWith e.1 (fun th => (th.setV o.dst.toNat v).raiseOwn (s.cycles s.curUnit) f 7 0)).boundary s.curUnit s.turnThread s.me.pc) ∧
          (∀ l < 32, lane v l = if m.getLsbD l = true then BitVec.ofNat 32 (one l).1 else lane d l) ∧
          f = ((List.range 32).filter (fun l => m.getLsbD l)).foldl (fun f l => f ||| (one l).2) 0

/-- VCMP writes the mask of its condition over the active lanes (R356); VCVT converts each active lane between
the formats of its X slot and leaves the others (R357). VRED combines the active lanes in ascending order into
lane 0 and clears the others; with no active lane it writes 0 (R61, R358). VPOOL combines the contributors of
each segment in ascending lane, for MOD 2 and 3 from the old lane on (R363). -/
def Obligations.LaneComparesConversionsAndReductions : Prop :=
  ((∀ (s : State) (o : VTriMod) (xs : List XPay),
     let x := XFields.of xs
     let fmt := if x.fmtA = 0 then fmtFP32 else x.fmtA
     let m := s.me.getM o.mask
     let a := s.me.getV o.srcA.toNat
     let b := s.me.getV o.srcB.toNat
     s.me.fullV o.srcA.toNat = true → s.me.fullV o.srcB.toNat = true → s.accepts (.vcmp o xs) = true →
     (∀ F, floatFmt fmt = some F → ∀ l < 32, m.getLsbD l = true →
       F.verdict (laneCode fmt (lane a l)) = none ∧ F.verdict (laneCode fmt (lane b l)) = none) →
     ∃ w f, exec (.vcmp o xs) s = .next ((s.movedWith (.vcmp o xs) (fun th => (th.setM (o.dst.setWidth 3) w).raiseOwn (s.cycles s.curUnit) f 7 0)).boundary
         s.curUnit s.turnThread s.me.pc) ∧
       ∀ l < 32, w.getLsbD l = (m.getLsbD l && (match floatFmt fmt with
         | some F => (fpCompare F o.md.toNat (laneCode fmt (lane a l)) (laneCode fmt (lane b l))).1
         | none => [decide (lane a l = lane b l), decide ((lane a l).toInt < (lane b l).toInt), decide ((lane a l).toInt ≤ (lane b l).toInt),
             decide ((lane a l).toNat < (lane b l).toNat)].getD o.md.toNat false))) ∧
   (∀ (s : State) (o : VUnary) (xs : List XPay),
     let x := XFields.of xs
     let m := s.me.getM o.mask
     let a := s.me.getV o.srcA.toNat
     s.me.fullV o.srcA.toNat = true → s.me.fullV o.dst.toNat = true → s.accepts (.vcvt o xs) = true →
     (∀ l < 32, m.getLsbD l = true → verdictMisuse x.fmtA x.fmtB (laneCode x.fmtA (lane a l)) = false) →
     ∃ v f, exec (.vcvt o xs) s = .next ((s.movedWith (.vcvt o xs) (fun th => (th.setV o.dst.toNat v).raiseOwn (s.cycles s.curUnit) f 7 0)).boundary
         s.curUnit s.turnThread s.me.pc) ∧
       ∀ l < 32, lane v l = if m.getLsbD l = true then placeLane x.fmtB (convertElem x.fmtA x.fmtB x.rnd.toNat 0 0 (laneCode x.fmtA (lane a l))).1
         else lane (s.me.getV o.dst.toNat) l)) ∧
  (∀ (s : State) (o : VTriMod) (xs : List XPay),
     let x := XFields.of xs
     let fmt := if x.fmtA = 0 then fmtFP32 else x.fmtA
     let m := s.me.getM o.mask
     let a := s.me.getV o.srcA.toNat
     let b := s.me.getV o.srcB.toNat
     let d := s.me.getV o.dst.toNat
     let step := fun (op : Nat) (t c : Nat) => match floatFmt fmt with
       | some F => (if op = 0 then fpAdd F x.rnd.toNat 0 t c else fpMinMax F (op == 2) t c).1
       | none => if op = 0 then (t + c) % 2 ^ 32
           else (if op = 2 then (if (BitVec.ofNat 32 t).toInt ≤ (BitVec.ofNat 32 c).toInt then BitVec.ofNat 32 c else BitVec.ofNat 32 t)
             else (if (BitVec.ofNat 32 t).toInt ≤ (BitVec.ofNat 32 c).toInt then BitVec.ofNat 32 t else BitVec.ofNat 32 c)).toNat
     let code := fun l => laneCode fmt (lane a l)
     s.me.fullV o.srcA.toNat = true → s.me.fullV o.srcB.toNat = true → s.me.fullV o.dst.toNat = true →
     (∀ F, floatFmt fmt = some F → ∀ l < 32, m.getLsbD l = true → F.verdict (code l) = none) →
     (s.accepts (.vred o xs) = true →
       ∃ v f, exec (.vred o xs) s = .next ((s.movedWith (.vred o xs) (fun th => (th.setV o.dst.toNat v).raiseOwn (s.cycles s.curUnit) f 7 0)).boundary
           s.curUnit s.turnThread s.me.pc) ∧
         (∀ l, 0 < l → l < 32 → lane v l = 0) ∧
         lane v 0 = (match (List.range 32).filter (fun l => m.getLsbD l) with
           | [] => 0
           | k :: ks => BitVec.ofNat 32 (ks.foldl (fun t l => step o.md.toNat t (code l)) (code k)))) ∧
     ((∀ F, floatFmt fmt = some F → ∀ l < 32, F.verdict (laneCode fmt (lane d l)) = none) → s.accepts (.vpool o xs) = true →
       ∃ v f, exec (.vpool o xs) s = .next ((s.movedWith (.vpool o xs) (fun th => (th.setV o.dst.toNat v).raiseOwn (s.cycles s.curUnit) f 7 0)).boundary
           s.curUnit s.turnThread s.me.pc) ∧
         ∀ t < 32, lane v t = (match (List.range 32).filter (fun l => m.getLsbD l && (lane b l).toNat == t) with
           | [] => if o.md = 0 then 0 else if o.md = 1 then (match floatFmt fmt with
                 | some F => BitVec.ofNat 32 (F.withSign true F.infCode) | none => 0x80000000) else lane d t
           | k :: ks =>
             let op := if o.md = 0 ∨ o.md = 2 then 0 else 2
             if o.md = 0 ∨ o.md = 1 then BitVec.ofNat 32 (ks.foldl (fun t l => step op t (code l)) (code k))
             else BitVec.ofNat 32 ((k :: ks).foldl (fun t l => step op t (code l)) (laneCode fmt (lane d t))))))

/-- VSEL, VIOTA and VMOV (R359, R360, R361) write the active lanes, an x register or a mask. VDEDUP writes the
distinct values of the active lanes in order of first occurrence, clears the other lanes, maps each active
lane to the place of its value and each other lane to all ones, and sets as many low bits of the mask as there
are values (R362). -/
def Obligations.LaneMovesAndDistinctValues : Prop :=
  ((∀ (s : State) (o : VTri) (xs : List XPay), s.me.fullV o.dst.toNat = true →
     let m := s.me.getM o.mask
     (s.me.fullV o.srcA.toNat = true → s.me.fullV o.srcB.toNat = true → s.accepts (.vsel o xs) = true →
       ∃ v, exec (.vsel o xs) s = .next (s.movedWith (.vsel o xs) (fun th => th.setV o.dst.toNat v)) ∧
         ∀ l < 32, lane v l = if m.getLsbD l = true then lane (s.me.getV o.srcA.toNat) l else lane (s.me.getV o.srcB.toNat) l) ∧
     (s.me.fullX o.srcA = true → s.me.fullX o.srcB = true → s.accepts (.viota o xs) = true →
       ∃ v, exec (.viota o xs) s = .next (s.movedWith (.viota o xs) (fun th => th.setV o.dst.toNat v)) ∧
         ∀ l < 32, lane v l = if m.getLsbD l = true then (s.me.getX o.srcA + BitVec.ofNat 64 l * s.me.getX o.srcB).setWidth 32
           else lane (s.me.getV o.dst.toNat) l)) ∧
   (∀ (s : State) (o : VTriMod) (xs : List XPay), s.accepts (.vmov o xs) = true →
     let m := s.me.getM o.mask
     (o.md = 0 → s.me.fullV o.srcA.toNat = true → s.me.fullV o.dst.toNat = true →
       ∃ v, exec (.vmov o xs) s = .next (s.movedWith (.vmov o xs) (fun th => th.setV o.dst.toNat v)) ∧
         ∀ l < 32, lane v l = if m.getLsbD l = true then lane (s.me.getV o.srcA.toNat) l else lane (s.me.getV o.dst.toNat) l) ∧
     (o.md = 1 → s.me.fullX o.srcA = true → s.me.fullV o.dst.toNat = true →
       ∃ v, exec (.vmov o xs) s = .next (s.movedWith (.vmov o xs) (fun th => th.setV o.dst.toNat v)) ∧
         ∀ l < 32, lane v l = if m.getLsbD l = true then (s.me.getX o.srcA).setWidth 32 else lane (s.me.getV o.dst.toNat) l) ∧
     (o.md = 2 → s.me.fullX o.srcB = true → s.me.fullX o.dst = true → s.me.fullV o.srcA.toNat = true →
       exec (.vmov o xs) s = .next (s.movedWith (.vmov o xs) (fun th =>
         th.setX o.dst ((lane (s.me.getV o.srcA.toNat) ((s.me.getX o.srcB).toNat % 32)).setWidth 64)))) ∧
     (o.md = 3 → (XFields.of xs).spec = 0 → s.me.fullX o.srcA = true →
       exec (.vmov o xs) s = .next (s.movedWith (.vmov o xs) (fun th =>
         th.setM (o.dst.setWidth 3) ((s.me.getX o.srcA).setWidth 32)))) ∧
     (o.md = 3 → (XFields.of xs).spec ≠ 0 → s.me.fullX o.dst = true →
       exec (.vmov o xs) s = .next (s.movedWith (.vmov o xs) (fun th =>
         th.setX o.dst ((s.me.getM (o.srcA.setWidth 3)).setWidth 64)))))) ∧
  (∀ (s : State) (o : VTri) (xs : List XPay),
     let m := s.me.getM o.mask
     let a := s.me.getV o.srcA.toNat
     s.me.fullV o.srcA.toNat = true → s.me.fullV o.dst.toNat = true → s.me.fullV (o.dst.toNat + 1) = true → s.accepts (.vdedup o xs) = true →
     ∃ vals map n, n ≤ 32 ∧ (∀ e < n, ∀ f < n, lane vals e = lane vals f → e = f) ∧
       exec (.vdedup o xs) s = .next (s.movedWith (.vdedup o xs) (fun th =>
         ((th.setV o.dst.toNat vals).setV (o.dst.toNat + 1) map).setM (o.srcB.setWidth 3) (BitVec.ofNat 32 (2 ^ n - 1)))) ∧
       (∀ l < 32, m.getLsbD l = true → (lane map l).toNat < n ∧ lane vals (lane map l).toNat = lane a l) ∧
       (∀ l < 32, m.getLsbD l = false → lane map l = 0xFFFFFFFF) ∧
       (∀ e < n, ∃ l < 32, m.getLsbD l = true ∧ lane map l = BitVec.ofNat 32 e ∧
         (∀ k < l, m.getLsbD k = true → (lane map k).toNat < e)) ∧
       (∀ e, n ≤ e → e < 32 → lane vals e = 0))

/-- VLD, VST, VGTH and VSCT put one request for each line of global memory that an active lane names, and one
for each lane in a scratchpad, in the order of their first lanes (R351 to R354); a load with an active lane
empties its destination. The first global request after a FENCE is its pair (R201); that the requests count in
that order is the model's choice (assumption 110). -/
def Obligations.LaneAccessesEnterTheIssueOrder : Prop :=
  ∀ (s : State) (o : VTriMod) (q : VTri) (xs : List XPay) (ts : List (Nat × Nat × Target)),
    let x := XFields.of xs
    let fmt := if x.fmtA = 0 then fmtFP32 else x.fmtA
    let z := laneBytes fmt
    let m := s.me.getM o.mask
    q.dst = o.dst → q.srcA = o.srcA → q.srcB = o.srcB → q.mask = o.mask →
    s.me.fullX o.srcA = true → s.me.fullX o.srcB = true → s.me.fullV o.dst.toNat = true → s.me.fullV o.srcB.toNat = true →
    let row := fun (l : Nat) => s.me.getX o.srcA + BitVec.ofNat 64 l * (if o.md = 0 then BitVec.ofNat 64 z else s.me.getX o.srcB)
    let sh := (x.spec.extractLsb' 0 4).toNat
    let picked := fun (l : Nat) => s.me.getX o.srcA + ((lane (s.me.getV o.srcB.toNat) l).signExtend 64 <<< sh)
    let gather := fun (l : Nat) => if o.md = 0 then picked l
      else picked (x.spec.extractLsb' 4 5).toNat + BitVec.ofNat 64 (l * z)
    let named := fun (k : Access) (f : Nat → Word) => ts.map (fun t => t.1) = (List.range 32).filter (fun l => m.getLsbD l) ∧
      ∀ t ∈ ts, t.2.1 = (f t.1).toNat ∧ s.translate ((s.partOfUnit s.curUnit).getD 0) s.curUnit t.2.1 k = .ok t.2.2 ∧ t.2.1 % z = 0 ∧
        s.outside s.curUnit s.me.owner t.2.2 = false
    let groups := s.laneGroups ts []
    let sent := fun (i : Instr) (op : LaneGroup → MemOp) (t : State) =>
      groups.foldl (fun t x => (t.updThread s.curUnit s.turnThread (fun th => th.pairDone x.target)).submit
        { (s.issuerOf i).request s 7 x.va 128 x.target (op x) with
          check := t.checkScope s.curUnit s.turnThread x.target none true }) t
    let loads := fun (i : Instr) (f : Nat → Word) => s.accepts i = true → named .read f →
      exec i s = .next (if groups = [] then s.moved i
        else sent i (fun g => .vload o.dst.toNat fmt g.lanes) (s.movedWith i (fun th => th.emptyV o.dst.toNat)))
    let stores := fun (i : Instr) (f : Nat → Word) => s.accepts i = true → named .write f →
      exec i s = .next (sent i (fun g => .vstore (g.lanes.map (fun p => (p.2, leBytes z (lane (s.me.getV o.dst.toNat) p.1).toNat)))) (s.moved i))
    loads (.vld o xs) row ∧ stores (.vst o xs) row ∧ loads (.vgth o xs) gather ∧ stores (.vsct q xs) picked

/-- TSTR converts its registers to the format of the bank, or its own, and one access of the bank unit, which joins
the issue order, is to write all bytes where their granules lie, for an MX bank with the scales for its sidecar;
its flags are raised (R185, R364, R365). That the flags are raised at the commit and that the granules of the
range may lie apart in their bank are the model's choices (assumptions 35, 36, 126 and 138).
HGLD and HGSC commit at once: HGLD's destinations, eight at most, are empty until their results land, and the
operation begins with the read of its header (R366, R369, R452). -/
def Obligations.TileStoresAndHashedGridsBegin : Prop :=
  (∀ (s : State) (o : VTstr) (xs : List XPay) (g : Target) (core off : Nat) (place : Nat → Nat),
     let x := XFields.of xs
     let fmt := if x.fmtA = 0 then fmtFP32 else x.fmtA
     let n := 2 ^ o.count.toNat
     let va := (s.me.getX o.srcA).toNat
     let p := (s.partOfUnit s.curUnit).getD 0
     let bank := off / 2 ^ 17
     let own := ((s.core core).bfmt.getD bank 0).extractLsb' 0 4
     let d := if own = 0 then fmt else own
     let w := if isMx d = true then 4 * mxWidth d else 32 * laneBytes d
     let m := (n * w + 15) / 16
     let rs := (List.range n).map (fun k => tstrRegister fmt d x.rnd.toNat (s.me.getM o.mask) (s.me.getV (o.dst.toNat + k)))
     let c := s.issuerOf (.tstr o xs)
     s.me.fullX o.srcA = true → (∀ k < n, s.me.fullV (o.dst.toNat + k) = true) → s.accepts (.tstr o xs) = true →
     (s.ownerGang s.me.owner).isSome = true → s.translate p s.curUnit va .write = .ok g → va % 16 = 0 →
     s.scratchOf g = some (core, off) → s.mayName s.curUnit s.me.owner core = true → d ≠ fmtNM →
     (isMx d = true → off % 2 ^ 17 % w = 0) → (d = fmtMXI6 → off % 2 ^ 17 / w % 2 = 0 ∧ n % 2 = 0) →
     place 0 = off → (∀ j < m, (∃ e, s.translate p s.curUnit (va + 16 * j) .write = .ok e ∧ s.scratchOf e = some (core, place j)) ∧
       place j / 2 ^ 17 = bank) →
       exec (.tstr o xs) s = .next ((((s.moved (.tstr o xs)).agentFlags s.curUnit s.turnThread (rs.foldl (fun f r => f ||| r.2.2) 0)).submit
         (c.request s 7 va (n * w) ⟨s.home + scratchPa core (bank * 2 ^ 17), 0, 0⟩
           (tstrOp d rs ((List.range m).map (fun j => (core, place j)))))).boundary s.curUnit s.turnThread s.me.pc)) ∧
  (∀ (d : BitVec 4) (rs : List (List Byte × Option Byte × BitVec 8)) (ps : List (Nat × Nat)),
     ∃ parts sides, tstrOp d rs ps = .tstr parts sides ∧ parts.length = ps.length ∧
       (∀ j < ps.length, ∃ p b, ps[j]? = some p ∧ parts[j]? = some (p.2 % 2 ^ 17, b) ∧ b = ((rs.flatMap (fun r => r.1)).drop (16 * j)).take 16) ∧
       ((∀ r ∈ rs, r.2.1 = none) → sides = [])) ∧
  (∀ (s : State) (o : VTri), s.me.fullX o.srcB = true → (∀ k < 8, o.srcA.toNat + k < 32 → s.me.fullV (o.srcA.toNat + k) = true) →
     (∀ k < 8, o.dst.toNat + k < 32 → s.me.fullV (o.dst.toNat + k) = true) →
     ∀ e ∈ [(Instr.hgld o, false), (.hgsc o, true)], s.accepts e.1 = true →
       let t0 := if e.2 = true then s.moved e.1
         else s.movedWith e.1 (fun th => (upToEight o.dst.toNat).foldl (fun th r => th.emptyV r) th)
       let xh := (s.me.getX o.srcB).toNat
       let h : HgOp := {
         id := s.nextId, by_ := ⟨s.curUnit, s.turnThread, s.me.owner, s.me.pc, 7, 0⟩, part := (s.partOfUnit s.curUnit).getD 0,
         scatter := e.2, va := o.srcA.toNat, dst := o.dst.toNat, hdrVa := xh / 64 * 64, level := xh % 32, bit5 := xh / 32 % 2 == 1,
         mask := s.me.getM o.mask, coords := (upToEight o.srcA.toNat).map s.me.getV,
         grads := if e.2 = true then (upToEight o.dst.toNat).map s.me.getV else [], phase := 0,
         after := s.acquiresOut s.curUnit s.turnThread, header := [], desc := [], reads := [], outstanding := 0 }
       exec e.1 s = .next ({ t0 with hgOps := s.hgOps ++ [h], nextId := s.nextId + 1 }.hgRead h 0 h.hdrVa 64))

/-! ### Device steps: what comes from outside -/

/-- A write of a queue descriptor without reserved values sets the fields of a queue that holds no unfinished work, and a queue
that it enables takes RIDX and DONEID from its write index, at once where that lies in a scratchpad here and else once a
line request has read it (R67, R70, R162, R182); a route entry without reserved bits is stored (R391); the device control
space holds MODREG, CMDWIDX, the calendar shadows and the command ring (R384). The model's choices in it: the step names a
launch queue's partition, and a write while the queue holds unfinished work changes nothing (assumptions 13 and 108); the
units that REGISTER_WRITE takes (assumption 68); and a route table of an absent partition (assumption 112). -/
def Obligations.HostRegistersAreWritten : Prop :=
  (∀ (s : State) (kind : QueueKind) (n : Fin 256) (p : Fin 8) (b : Nat) (v : BitVec 128),
    let get := fun (t : State) (m : Nat) => match kind with
      | .launch => t.launchQueue m
      | .copy => t.copyQueue m
      | .task => t.taskQueue m
    (s.queueHolds kind n = true → exec (.queueDescriptorWrite kind n p v) s = .next s.unblock) ∧
    (badDescriptor kind v.toNat = false → s.queueHolds kind n = false →
    (match kind with
      | .launch => n.val < 64 ∧ b = p.val ∧ (s.part p).present = true
      | .copy => s.partOfBlock (n.val / 32) = some b
      | .task => n.val < 32 ∧ s.partOfBlock (n.val / 4) = some b) →
    ∃ t, exec (.queueDescriptorWrite kind n p v) s = .next t ∧
      (get t n).ring = v.extractLsb' 72 56 ∧ (get t n).widx = v.extractLsb' 8 56 ∧ (get t n).en = v.getLsbD 7 ∧ (get t n).part = b ∧
      (get t n).weight = v.extractLsb' 3 4 ∧ (get t n).prio = v.extractLsb' 0 3 ∧
      (((get s n).en = true ∧ (get s n).rising = false) ∨ v.getLsbD 7 = false →
        (get t n).rising = false ∧ (get t n).ridx = (get s n).ridx ∧ (get t n).doneid = (get s n).doneid) ∧
      (∀ g, (get s n).en = false → v.getLsbD 7 = true → s.translate b (258 + b) (v.extractLsb' 8 56).toNat .read = .ok g → s.isLocal g = true →
        (∀ core off, locate (localOf g.pa) = .scratch core off → (get t n).rising = false ∧
          (get t n).ridx = BitVec.ofNat 32 (leNat (memRead s.mem (localOf g.pa) 4)) ∧ (get t n).doneid = (get t n).ridx) ∧
        (∀ bl off, locate (localOf g.pa) = .hbm bl off → s.reqs = [] → s.inbox = [] →
          (get t n).rising = true ∧ (get t n).ridx = (get s n).ridx ∧
          ∃ r, t.reqs = [r] ∧ r.by_ = ringIssue b kind.num n ∧ r.pa = g.pa ∧ r.size = 4 ∧ r.op = .fetch)) ∧
      (∀ m, m ≠ n.val → { get t m with origins := [] } = { get s m with origins := [] }))) ∧
  (∀ (s : State) (p : Fin 8) (m : Fin 768) (v : BitVec 16), v.extractLsb' 4 12 = 0 →
    exec (.routeTableWrite p m v) s = .next ((s.updPart p (fun k => { k with routes := insertAt m v k.routes })).unblock)) ∧
  (∀ (s : State) (v : Word),
    exec (.registerWrite 0 v) s = .next (({ s with modreg := v &&& 0x3FF03FF } : State).unblock) ∧
    exec (.registerWrite 8 v) s = .next (({ s with cmdWidx := v.setWidth 32 } : State).unblock) ∧
    (∀ ch slot, ch < 256 → slot < 320 → ∃ t, exec (.registerWrite (BitVec.ofNat 32 (0x100000 + 640 * ch + 2 * slot)) v) s = .next t ∧
      (t.channel ch).shadow.entry ch slot = v.setWidth 16 &&& 0xF1FF ∧ (t.channel ch).cal = (s.channel ch).cal) ∧
    (∀ w, w < 0x4000 → exec (.registerWrite (BitVec.ofNat 32 (0x200000 + 4 * w)) v) s =
      .next (({ s with mem := memWrite s.mem (0x20000000000 + (0x200000 + 4 * w)) (leBytes 4 v.toNat) } : State).unblock)))

/-- A host access through a window of BAR2 to part of one line goes as one request of requester 256 to its home (R382, R383): a
fetch for a read, a store of the host's bytes for a posted write, an atomic for an AtomicOp. Its answer ends it: a read
with the bytes, an AtomicOp with the old value, a posted write with a note that is the model's own (assumption 115). The
device control space of BAR0 answers a read with its bytes, and takes a write and an AtomicOp, at once; here of MODREG (R384).
An AtomicOp on MODREG, and how host accesses are cut into requests, are the model's choices (assumptions 125 and 66). In each
clause no other access of the host is under way. -/
def Obligations.HostAccessesReachMemory : Prop :=
  (∀ (s : State) (o : BitVec 39) (p va : Nat) (g : Target), s.host = [] → s.reqs = [] → s.window o.toNat = some (p, va) → s.isLocal g = true →
    let sent := fun (t : State) (k : HostKind) (n : Nat) (op : MemOp) => t.mem = s.mem ∧ t.output = s.output ∧
      t.host = [⟨k, [], [(s.nextId, 0)], [], false, false⟩] ∧
      ∃ r, t.reqs = [r] ∧ r.id = s.nextId ∧ r.by_.unit = 256 ∧ r.part = p ∧ r.va = va ∧ r.pa = g.pa ∧ r.cls = g.cls ∧ r.kslot = g.kslot ∧ r.size = n ∧
        r.op = op ∧ r.status = .waiting ∧ r.after = [] ∧ r.reply = none
    (∀ n, 0 < n → va % 128 + n ≤ 128 → s.translate p 256 va .read = .ok g →
      ∃ t, exec (.hostWindowAccess (.bar2 o) (.read n)) s = .next t ∧ sent t .read n .fetch) ∧
    (∀ relaxed bs, bs ≠ [] → va % 128 + bs.length ≤ 128 → s.translate p 256 va .write = .ok g →
      ∃ t, exec (.hostWindowAccess (.bar2 o) (.write relaxed bs)) s = .next t ∧ sent t (.write relaxed) bs.length (.store bs false)) ∧
    (∀ k wide v cmp, let n := if wide = true then 8 else 4
      o.toNat % n = 0 → va % 128 + n ≤ 128 → s.translate p 256 va .atomic = .ok g →
      ∃ t, exec (.hostAtomicop (.bar2 o) k wide v cmp) s = .next t ∧
        sent t .atomic n (.amo (match k with | .fetchAdd => .add | .swap => .swp | .cas => .cas) (BitVec.ofNat 64 (v.toNat % 2 ^ (8 * n)))
          (BitVec.ofNat 64 (cmp.toNat % 2 ^ (8 * n))) 0))) ∧
  (∀ (s : State) (r : Req) (h : HostAccess) (due : Nat), s.host = [h] → h.todo = [] → h.out = [(r.id, 0)] → h.got = [] → h.failed = false →
    h.poison = false → s.reqs = [r] → r.by_.unit = 256 → r.reply = none → r.dropped = false →
    let ended := fun (x : Output) => (({ s with reqs := [], host := [], now := max s.now due, output := s.output ++ [x] } : State).unblock)
    (∀ bs, h.kind = .read → r.op = .fetch → r.status = .served due (.data bs) → exec (.readLanding r.id) s = .next (ended (.readData bs false))) ∧
    (∀ k v w d x tag f, h.kind = .atomic → r.op = .amo k v w d → r.status = .served due (.old x tag f) →
      exec (.readLanding r.id) s = .next (ended (.atomicResult x))) ∧
    (∀ relaxed d tag f, h.kind = .write relaxed → r.op = .store d false → r.status = .served due (.ack tag f) →
      exec (.storeAck r.id) s = .next (ended .written))) ∧
  (∀ (s : State), s.host = [] →
    (∀ (o : BitVec 32) (n : Nat), exec (.hostWindowAccess (.bar0 o) (.read n)) s =
      .next (({ s with output := s.output ++ [.readData (s.controlRead o.toNat n) false] } : State).unblock)) ∧
    (∀ relaxed bs, bs.length = 8 → exec (.hostWindowAccess (.bar0 0) (.write relaxed bs)) s =
      .next (({ s with modreg := BitVec.ofNat 64 (leNat bs) &&& 0x3FF03FF, output := s.output ++ [.written] } : State).unblock)) ∧
    (∀ v cmp, exec (.hostAtomicop (.bar0 0) .fetchAdd true v cmp) s =
      .next (({ s with modreg := (s.modreg + v) &&& 0x3FF03FF, output := s.output ++ [.atomicResult s.modreg] } : State).unblock)))

/-! ### Device steps: launches -/

/-- LAUNCH_POSTED takes a packet without loops, placement or dependency entries into the launches once the line of its ring slot and
the first line of its code have come (R63, R69, R71, R389), DEPENDENCY_WRITE makes a launch with its dependences met eligible
(R72, R78), and DISPATCH, once what falls in its controller cycle has taken effect, begins the next iteration of the one launch
that can dispatch: a gang on its cores, whose threads start with the values of R75 (R75, R79, R85). -/
def Obligations.LaunchesAreReadAndDispatched : Prop :=
  (∀ (s s0 : State) (q : Fin 64) (pkt : List Byte) (done : Target), (s.launchQueue q).en = true →
    (∀ l ∈ s.launches, l.queue = q.val → l.cause ≠ none ∨ l.state = .draining ∨ l.state = .done) →
    (∀ l ∈ s.launches, l.id < s.nextId) →
    s.ringPacket .launch q = .packet s0 pkt →
    (∀ s1, s0.readVa (schedIssue (s.launchQueue q).part) (s.launchQueue q).part (fieldAt pkt 8 8 / 128 * 128) 128 ≠ .wait s1) →
    s0.launchInvalid (s0.newLaunch q (s.launchQueue q) pkt) = none →
    s0.translate (s.launchQueue q).part (258 + (s.launchQueue q).part) (fieldAt pkt 56 8) .write = .ok done →
    fieldAt pkt 24 8 = 0 → fieldAt pkt 32 8 = 0 → fieldAt pkt 40 8 = 0 → fieldAt pkt 48 8 = 0 →
    ∃ t l, exec (.launchPosted q) s = .next t ∧ t.launches = s.launches ++ [l] ∧ l.id = s.nextId ∧ l.queue = q.val ∧
      l.part = (s.launchQueue q).part ∧ l.lwidx = (s.launchQueue q).ridx ∧ l.nchain = bitsOf (fieldAt pkt 4 4) 23 16 + 1 ∧
      l.shape = bitsOf (fieldAt pkt 4 4) 15 13 ∧ l.tpc = bitsOf (fieldAt pkt 4 4) 12 11 ∧ l.dep = bitsOf (fieldAt pkt 4 4) 10 9 ∧
      l.code = BitVec.ofNat 64 (fieldAt pkt 8 8) ∧ l.args = BitVec.ofNat 64 (fieldAt pkt 16 8) ∧ l.doneVa = fieldAt pkt 56 8 ∧
      l.doneAt = some done ∧ l.prev = (s.launchQueue q).latest ∧ l.total = 1 ∧ l.next = 0 ∧ l.cause = none ∧
      (l.state = .eligible ↔ t.depMet l = true) ∧ (l.state = .eligible ∨ l.state = .waiting)) ∧
  (∀ (s : State) (q : Fin 64) (l : Launch), s.headLaunch q = some l → s.launchOf l.id = some l → l.state = .waiting → l.dep0 = true →
    l.dep1 = true → s.depMet l = true →
    exec (.dependencyWrite q) s = .next ((s.updLaunch l.id (fun x => { x with state := .eligible, lastDispatch := s.cc })).unblock)) ∧
  (∀ (s : State) (p : Fin 8) (l : Launch) (cores : List Nat),
    let b := (match (s.part p).lastDispatch with | some c => s.ccTo (c + 8) | none => s).settleCycle p
    s.undigested p = [] → b.dispatchable p = [(l, cores)] → l.part = p.val → (b.movePointers p (b.dispatchable p)).replayDiffers l = none → l.tpc < 4 → cores.Nodup →
    ∃ t g, exec (.dispatch p) s = .next t ∧ t.gangs = b.gangs ++ [g] ∧ g.launch = l.id ∧ g.s = l.next ∧ g.cores = cores ∧ g.tpc = l.tpc ∧
      g.place = .resident ∧ g.trig = false ∧ g.trigUsed = false ∧
      t.launches = b.launches.map (fun x => if x.id = l.id then { x with
        next := x.next + 1, state := if x.next + 1 = x.total then .draining else .running, lastDispatch := b.cc,
        tstart := if x.next = 0 then b.cc else x.tstart } else x) ∧
      (t.part p).lastDispatch = some b.cc ∧
      ∀ k < cores.length, ∀ n, cores[k]? = some n → (t.core n).gang = some g.id ∧ (t.core n).rank = k ∧ (t.core n).prog = 0 ∧
        (t.core n).pivstat = 0 ∧ (t.core n).growth = 0 ∧
        ∀ j ≤ l.tpc,
          let th := t.thread n j
          th.pc = l.code ∧ th.owner = .gang g.id ∧ th.status = .run ∧ th.p = 1 ∧ th.flags = 0 ∧ th.intrap = false ∧ th.tvec = 0 ∧ th.loop = none ∧
          th.getX 23 = l.args ∧ th.getX 24 = BitVec.ofInt 64 (l.index l.next 0) ∧ th.getX 25 = BitVec.ofInt 64 (l.index l.next 1) ∧
          th.getX 26 = BitVec.ofInt 64 (l.index l.next 2) ∧ th.getX 27 = BitVec.ofInt 64 (l.index l.next 3) ∧ th.getX 28 = BitVec.ofNat 64 k ∧
          th.getX 29 = BitVec.ofNat 64 j)

/-- TRIGGER counts the first TRIG of an iteration whose thread's writes are acknowledged (R82, R83); THREAD_END
ends a thread, and with the last thread of a gang frees its cores and counts the iteration (R57, R66, R263);
COMPLETION_RECORD sends the record of a launch whose work is over, its status word last, and removes the launch once the
record is acknowledged (R78, R94); SLEEP_EXPIRY wakes a thread in the cycle its SLEEP named (R264). That TEND is the time at
which the record leaves is the model's choice (assumption 146). -/
def Obligations.LaunchesEnd : Prop :=
  (∀ (s : State) (u : Fin 224) (j : Fin 4) (w : List Nat) (g : Nat) (k : Gang), (s.thread u j).trig = some w →
    (s.thread u j).owner = .gang g → s.finished w = true → s.launchFailed (s.ownerLaunch (.gang g)) = false → s.gangOf g = some k →
    k.trig = false →
    exec (.trigger u j) s = .next (((((s.updThread u j (fun th => { th with trig := none })).updGang g (fun x => { x with trig := true })).updLaunch
      k.launch (fun x => { x with trigd := x.trigd + 1 })).noteTriggered k.launch).unblock)) ∧
  (∀ (s : State) (u : Fin 224) (j : Fin 4) (g : Nat) (k : Gang), (s.thread u j).status = .exiting → (s.thread u j).owner = .gang g →
    (s.thread u j).trig = none → s.writesOut u j = [] → (∀ r ∈ s.reqs, r.by_.unit = u.val → r.by_.thr = j.val → r.op.isWell = false) →
    s.gangOf g = some k → k.wells = [] → k.ending = false → s.launchFailed (some k.launch) = false → u.val ∈ k.cores → j.val ≤ k.tpc →
    ((∃ n ∈ k.cores, ∃ i ≤ k.tpc, ¬ (n = u.val ∧ i = j.val) ∧ (s.thread n i).status ≠ .ended) →
      exec (.threadEnd u j) s = .next ((s.updThread u j (fun th => { th with status := .ended })).unblock)) ∧
    ((∀ n ∈ k.cores, ∀ i ≤ k.tpc, ¬ (n = u.val ∧ i = j.val) → (s.thread n i).status = .ended) →
      ∃ t, exec (.threadEnd u j) s = .next t ∧ t.mem = s.mem ∧
        (∀ n ∈ k.cores, (t.core n).gang = none ∧ (t.core n).saving = none ∧ ∀ i < 4, (t.thread n i).status = .idle ∧ (t.thread n i).owner = .none) ∧
        t.launches = (s.launches.map (fun x => if x.id = k.launch then { x with
          ended := x.ended + 1, trigEnds := if k.trig = true then x.trigEnds else x.trigEnds + 1, flags := x.flags ||| s.gangFlags k } else x)).map
          (fun x => if k.trig = false ∧ x.prev = some k.launch then { x with notBefore := s.cc + 1 } else x))) ∧
  (∀ (s : State) (l : Launch), s.launchOf l.id = some l →
    (l.state ≠ .done → (l.cause ≠ none ∨ l.state = .draining) → s.launchBusy l.id = false → (∀ f ∈ s.faults, f.launch ≠ some l.id) →
      (l.cause = none ∨ s.issuing (faultIssue l.part) = false) →
      ∃ t, exec (.completionRecord l.id) s = .next t ∧ t.mem = s.mem ∧
        t.launches = s.launches.map (fun x => if x.id = l.id then { x with state := .done } else x) ∧ (l.doneAt = none → t.reqs = s.reqs) ∧
        (∀ g, l.doneAt = some g → s.reqs = [] → moduleOf g.pa = s.modreg.toNat % 1024 → g.pa % 64 = 0 →
          let c := l.cause.getD (0, 0)
          ∃ a b, t.reqs = [a, b] ∧ a.by_ = recordIssue l.part l.id ∧ b.by_ = recordIssue l.part l.id ∧ a.pa = g.pa + 4 ∧ b.pa = g.pa ∧
            a.op = .engine none [(0, leBytes 4 l.lwidx.toNat ++ leBytes 8 l.ended ++ leBytes 8 l.tstart ++ leBytes 8 s.cc ++ leBytes 8 l.trigd ++
              leBytes 8 c.2 ++ leBytes 16 0)] false [] 0 false ∧
            b.op = .engine none [(0, leBytes 4 (2 ^ 31 + c.1 % 256 * 2 ^ 16 + l.queue % 64 * 2 ^ 8 + l.flags.toNat))] false [] 0 false ∧
            b.release = true ∧ a.id ∈ b.after)) ∧
    (l.state = .done → s.issuing (recordIssue l.part l.id) = false → s.copybooks = [] →
      ∃ t, exec (.completionRecord l.id) s = .next t ∧ t.mem = s.mem ∧ t.reqs = s.reqs ∧
        t.launches = (s.launches.map (fun x => if l.cause ≠ none ∧ x.prev = some l.id then { x with notBefore := s.cc + 1 } else x)).filter
          (fun x => x.id != l.id) ∧
        t.gangs = s.gangs.filter (fun g => g.launch != l.id))) ∧
  (∀ (s : State) (u : Fin 224) (j : Fin 4), (s.thread u j).sleeping = true →
    exec (.sleepExpiry u j) s = .next (((s.updThread u j (fun th => { th with sleeping := false })).passTo
      (s.timeOfCycle u (s.thread u j).waitUntil)).unblock))

/-! ### Device steps: appends, copies, tasks, wells -/

/-- APPEND reads and keeps the packet's image, claims a slot with an AMO.ADD on the queue's write index whose old value goes to the
instruction's destination, fills the slot once the ring has room, posts its valid word, and is over when that is
acknowledged (R266, R267, R269). COPY_START takes a packet with its transfer identifier (R162, R164); COPY_UNIT plans a unit,
asks for its far lines one at a time and issues the unit from what they hold; COPY_LANDING sends the oldest piece to its home, a
whole granule together with its bit (R138, R171); COPY_COMPLETE sends the status word, and once it is acknowledged passes DONEID
on (R172, R174). The stages of one append, and which lines make one request, are the model's choices (assumptions 41 and
113). -/
def Obligations.AppendsAndCopiesAdvance : Prop :=
  (∀ (s : State) (a : Append) (u : Fin 224) (j : Fin 4), s.appends = [a] → a.by_.unit = u.val → a.by_.thr = j.val → s.agentFault a = none →
    let only := fun (t : State) (b : Append) => ({ t with appends := [b] } : State)
    (∀ ch, a.stage = 0 → a.kind = .cpyx ch →
      exec (.append u j) s = .next ((only s { a with img := a.packet [], stage := 1 }).unblock)) ∧
    (∀ s1 bs, a.stage = 0 → (∀ ch, a.kind ≠ .cpyx ch) → s.imageBusy a = false → a.a.toNat % 64 = 0 →
      s.readVa a.issue a.part a.a.toNat 64 = .ok s1 bs false → imageFault (s1.clearInbox a.issue) { a with img := a.packet bs } = none →
      s1.appends = [a] →
      exec (.append u j) s = .next ((only (s1.clearInbox a.issue) { a with img := a.packet bs, stage := 1 }).unblock)) ∧
    (∀ g, a.stage = 1 → s.translate a.part a.by_.unit (a.queue s).widx.toNat .atomic = .ok g → s.answered a.issue g = none →
      s.issuing a.issue = false → (∀ q ∈ s.reqs, q.id < s.nextId) →
      ∃ t r, exec (.append u j) s = .next t ∧ t.appends = [a] ∧ t.mem = s.mem ∧ r ∈ t.reqs ∧ r.id = s.nextId ∧ r.by_ = a.issue ∧ r.pa = g.pa ∧
        r.size = 4 ∧ r.op = .amo .add 1 0 a.dst) ∧
    (∀ g m, a.stage = 1 → s.translate a.part a.by_.unit (a.queue s).widx.toNat .atomic = .ok g → s.answered a.issue g = some m → m.cause = 0 →
      let wi : BitVec 32 := BitVec.ofNat 32 (leNat m.bytes)
      exec (.append u j) s = .next ((only ((s.updThread u j (fun th =>
          if (s.thread u j).owner = a.by_.owner then th.setX (BitVec.ofNat 5 a.dst) (wi.setWidth 64) else th)).clearInbox a.issue)
        { a with stage := 2, wi := wi, slotVa := (a.queue s).ring.toNat + 64 * (wi.toNat % a.ringSize) }).unblock)) ∧
    (∀ s', a.stage = 2 → (a.wi - (a.queue s).ridx).toNat < a.ringSize →
      s.writeVa a.issue a.part (a.slotVa + 4) (bytesAt a.img 4 60) = .ok s' → s'.appends = [a] →
      exec (.append u j) s = .next ((only s' { a with stage := 3 }).unblock)) ∧
    (∀ s', a.stage = 3 → s.finished a.after = true → s.issuing a.issue = false →
      s.writeVa a.issue a.part a.slotVa (leBytes 4 (a.wi.toNat / a.ringSize % 65536 * 65536 + a.typeCode * 256)) = .ok s' → s'.appends = [a] →
      exec (.append u j) s = .next (((only s' { a with stage := 4 }).noteOrigin a).unblock)) ∧
    (a.stage = 4 → s.issuing a.issue = false → exec (.append u j) s = .next (({ s with appends := [] } : State).unblock))) ∧
  (∀ (s s0 : State) (ch : Fin 256) (pkt : List Byte), (s.copyQueue ch).en = true → (s.copiesOn ch).length < 8 →
    s.engineDown ch = false → s.ringPacket .copy ch = .packet s0 pkt →
    (∀ l, ((s.copyQueue ch).originAt ((s.copyQueue ch).ridx.toNat % 1024)).bind (fun o => o.launch) = some l → s.launchFailed (some l) = false) →
    (∀ c ∈ s.copies, c.id < s.nextId) →
    ∃ t, exec (.copyStart ch) s = .next t ∧ (t.copyQueue ch).ridx = (s.copyQueue ch).ridx + 1 ∧
      ∃ c ∈ t.copies, c.id = s.nextId ∧ c.chan = ch.val ∧ c.tid = (s.copyQueue ch).ridx ∧ c.part = (s.copyQueue ch).part ∧ c.pkt = pkt) ∧
  (∀ (s : State) (c : Copy), s.copies = [c] → c.chan < 256 → c.ready = true → c.stopped = false → c.finished = false →
    s.launchFailed c.launch = false → s.engineDown c.chan = false → s.copyRuns c = true →
    let k := { c with parked := false, go := false }
    let b := s.updCopy c.id (fun _ => k)
    let t := b.copyTensors k
    let pl := k.plan t.1 t.2
    let ps := pl.reads.flatMap (fun r => pieces r.1 r.2)
    (∀ d, c.asked = false → c.asks = [] → (c.trans = true → c.landings = [] ∧ b.copyOut k = false) →
      b.firstFault c.part c.unit .read pl.reads = none → b.firstFault c.part c.unit .write pl.writes = none →
      ((c.bulk = false ∧ d = b) ∨ (c.bulk = true ∧ b.bulkLines k (b.bulkSide k pl.reads pl.writes) = .ok d)) →
      exec (.copyUnit (Fin.ofNat 256 c.chan) c.id) s =
        .next ((d.updCopy c.id (fun x => { x with asked := true, asks := d.farPieces k ps })).unblock)) ∧
    (∀ va n rest g, c.asked = true → c.asks = (va, n) :: rest → b.issuedNow c.unit false < 16 → b.translate c.part c.unit va .read = .ok g →
      exec (.copyUnit (Fin.ofNat 256 c.chan) c.id) s =
        .next ((({ b.updCopy c.id (fun x => { x with asks := rest }) with
          engines := insertAt (c.chan / 16) (c.chan % 16, (lookup (0, 0) (c.chan / 16) s.engines).2) s.engines } : State).askLine
          c.issue c.part va g n).unblock)) ∧
    (∀ s' bs poison, c.asked = true → c.asks = [] → b.readPieces c.issue c.part ps = .ok s' bs poison →
      (c.bmap = 2 → bitmapAgrees (c.sh.getD (headerOf [])) ((splitSnap pl.reads bs).bytes t.1.base (bitmapBytes (t.1.rows * t.1.cols)))
        (t.1.rows * t.1.cols) = true) →
      exec (.copyUnit (Fin.ofNat 256 c.chan) c.id) s =
        .next (((s'.clearInbox c.issue).issueUnit k { pl.after with asked := false } t.1 t.2 (splitSnap pl.reads bs) poison).unblock))) ∧
  (∀ (s : State) (c : Copy) (l : Landing) (rest : List Landing), s.copies = [c] → c.chan < 256 → c.stopped = false → c.landings = l :: rest →
    s.engineDown c.chan = false → s.issuedNow c.unit true < 16 → (∀ q ∈ s.reqs, q.id < s.nextId) →
    (∀ b off, locate (localOf l.pa) = .hbm b off →
      ∃ t r, exec (.copyLanding (Fin.ofNat 256 c.chan) c.id) s = .next t ∧ t.mem = s.mem ∧ t.copies = [{ c with landings := rest }] ∧ r ∈ t.reqs ∧
        r.id = s.nextId ∧ r.by_ = c.issue ∧ r.pa = l.pa ∧ r.op = .engine (some c.id) [(0, l.bytes)] false [] l.count l.poison) ∧
    (∀ core off, locate (localOf l.pa) = .scratch core off → s.completes c l rest = [] → l.scales = [] →
      ∃ t, exec (.copyLanding (Fin.ofNat 256 c.chan) c.id) s = .next t ∧ t.mem = s.mem ∧ t.reqs = s.reqs ∧
        ∃ x, t.copies = [x] ∧ x.landings = rest) ∧
    (∀ core off, locate (localOf l.pa) = .scratch core off → c.held = [] → l.bytes ≠ [] → l.pa % 16 = 0 → l.bytes.length % 16 = 0 →
      l.pa % 128 + l.bytes.length ≤ 128 → s.completes c l rest = granulesOf off l.bytes.length →
      ∃ t r, exec (.copyLanding (Fin.ofNat 256 c.chan) c.id) s = .next t ∧ t.mem = s.mem ∧ t.copies = [{ c with landings := rest }] ∧ r ∈ t.reqs ∧
        r.id = s.nextId ∧ r.by_ = c.issue ∧ r.pa = l.pa / 128 * 128 ∧
        r.op = .engine (some c.id) [(l.pa % 128, l.bytes)] true l.scales (if 0 < l.count then l.bytes.length else 0) l.poison)) ∧
  (∀ (s : State) (c : Copy), s.copies = [c] → c.chan < 256 → (c.finished = true ∨ c.stopped = true) → (c.parked = false ∨ c.stopped = true) →
    c.landings = [] → s.copyOut c = false → (∀ q ∈ s.reqs, q.id < s.nextId) →
    (∀ g, c.stat = some g → c.reported = false →
      ∃ t r, exec (.copyComplete (Fin.ofNat 256 c.chan) c.id) s = .next t ∧ t.mem = s.mem ∧ t.copies = [{ c with reported := true }] ∧ r ∈ t.reqs ∧
        r.id = s.nextId ∧ r.by_ = c.issue ∧ r.pa = g.pa ∧ r.size = 8 ∧
        r.op = .engine none [(0, leBytes 8 (c.tid.toNat * 2 ^ 32 + 2 ^ 31 + c.ecode % 256 * 2 ^ 16 + c.flags.toNat))] true [] 0 false) ∧
    ((c.stat = none ∨ c.reported = true) →
      ∃ t, exec (.copyComplete (Fin.ofNat 256 c.chan) c.id) s = .next t ∧ t.copies = [] ∧ t.mem = s.mem ∧
        (t.copyQueue c.chan).doneid = (s.copyQueue c.chan).ridx))

/-- TASK_START starts a posted task on the lowest free threads of its quill core (R182, R183; which of the free threads is the model's
choice, assumption 111); WELL_OPERATION applies an initialisation, an arrival or a drop to its well in the bank cycle
that takes it (R176, R177), flipping PHASE where nothing more is pending; that WINIT's bitmap is read in that cycle is the model's choice
(assumption 26). Wells are read from a memory in canonical form,
which every step keeps (EveryStepKeepsSafety). -/
def Obligations.TasksAndWellsAdvance : Prop :=
  (∀ (s s0 : State) (q : Fin 32) (pkt : List Byte),
    let k := s.taskQueue q
    let u := 192 + q.val
    let n := bitsOf (fieldAt pkt 4 4) 1 0 + 1
    let ts := (s.freeThreads u).take n
    k.en = true → (s.seq u).retired = false → (s.island (islandOfUnit u)).stopped = false → s.ringPacket .task q = .packet s0 pkt →
    s.launchFailed ((k.originAt (k.ridx.toNat % 256)).bind (fun o => o.launch)) = false → taskInvalid pkt = none → fieldAt pkt 32 8 = 0 →
    ts.length = n → (∀ x ∈ s.tasks, x.id < s.nextId) →
    ∃ t x, exec (.taskStart q) s = .next t ∧ t.tasks = s.tasks ++ [x] ∧ x.quill = q.val ∧ x.threads = ts ∧ x.idx = k.ridx ∧
      (t.taskQueue q).ridx = k.ridx + 1 ∧
      ∀ m, (h : m < ts.length) →
        let th := t.thread u ts[m]
        th.pc = BitVec.ofNat 64 (fieldAt pkt 8 8) ∧ th.owner = .task x.id ∧ th.status = .run ∧ th.getX 23 = BitVec.ofNat 64 (fieldAt pkt 16 8) ∧
        th.getX 24 = BitVec.ofNat 64 (fieldAt pkt 24 8) ∧ th.getX 28 = BitVec.ofNat 64 q.val ∧ th.getX 29 = BitVec.ofNat 64 m) ∧
  (∀ (s : State) (r : Req) (w : WellKind) (me core off : Nat), s.reqs = [r] → r.op = .well w me → locate (localOf r.pa) = .scratch core off →
    let c := max (s.cycles core) (s.core core).bankAt
    let b := (s.passTo (s.timeOfCycle core c)).updCore core (fun k => { k with bankAt := c + 1 })
    b.bankTakes core c r = true → Memory.wf s.mem = true →
    let pa := localOf r.pa
    let x := s.wellAt pa
    let outside := fun (t : State) (len : Nat) => t.reqs = [] ∧ ∀ a, (a < pa ∨ pa + len ≤ a) → memGet t.mem a = memGet s.mem a
    (∀ n ps, w = .init n ps → n < 1024 → (∀ k, s.gangOf ((s.ownerGang r.by_.owner).getD 0) = some k → k.wells.length < 16) →
      let bits := match ps with
        | some l => leNat (l.flatMap (fun a => memRead s.mem (localOf a) 16))
        | none => ((s.gangOf ((s.ownerGang r.by_.owner).getD 0)).map allThreads).getD 0
      ∃ t, exec (.wellOperation 0) s = .next t ∧ t.wellAt pa = ⟨x.phase, n, n, 0⟩ ∧ outside t 112 ∧
        (∀ j < 768, t.partBit pa j = bits.testBit j)) ∧
    (∀ b, w = .arrive b → x.pend ≠ 0 → -(2 ^ 31) ≤ x.bytes + b → x.bytes + b < 2 ^ 31 →
      ∃ t, exec (.wellOperation 0) s = .next t ∧ outside t 8 ∧
        t.wellAt pa = (if x.pend = 1 ∧ x.bytes + b = 0 then ⟨!x.phase, x.expect, x.expect, 0⟩ else ⟨x.phase, x.expect, x.pend - 1, x.bytes + b⟩)) ∧
    (∀ im, w = .drop im → x.expect ≠ 0 → x.pend ≠ 0 → s.partBit pa me = true → me < 768 →
      ∃ t, exec (.wellOperation 0) s = .next t ∧ outside t 112 ∧ t.partBit pa me = false ∧
        t.wellAt pa = (if x.pend = 1 ∧ x.bytes = 0 then ⟨!x.phase, x.expect - 1, x.expect - 1, 0⟩ else ⟨x.phase, x.expect - 1, x.pend - 1, x.bytes⟩)))

/-! ### Device steps: accesses -/

/-- CALENDAR_SLOT serves the first request that may be served of the lane its entry names: a load reads its bytes, a
store writes its own bytes and raises the line's tag, an atomic writes its new value and answers the old one,
and the answer lands after the latency of R153 (R145, R149, R152, R190, R257, R258). The slice's lower channels have their slots of
that cycle first (R148). -/
def Obligations.CalendarSlotsServeRequests : Prop :=
  ∀ (s : State) (ch : Fin 256) (slot : Fin 320) (r : Req),
    let c := cycleOfSlot (max s.cc (s.channel ch).freeAt) slot
    let a := ((List.range (ch.val % 4)).map (fun i => ch.val / 4 * 4 + i)).foldl State.serveSlot (s.ccTo c).boundaries
    let b := a.updChannel ch (fun k => { k with freeAt := a.cc + 1 })
    let pa := localOf r.pa
    let l := lineOf pa
    let g : Target := ⟨r.pa, r.cls, r.kslot⟩
    let u := b.latencyRow r
    let hit := (((b.slice (sliceOf pa)).set (setOf pa)).find l).isSome
    (a.channel ch).freeAt ≤ a.cc → b.slotRequest ch a.cc = some r →
    r.check = none → b.homeCause r.part g = none → (b.lineMeta l).poison = false → lookup false l b.unfixable = false →
    ((b.lineMeta l).key = none ∨ (b.lineMeta l).key = some (b.keyFor r.part r.cls r.kslot)) → b.copybooks = [] →
    (∀ d, r.op = .load d →
      ∃ t, exec (.calendarSlot ch slot) s = .next t ∧ t.mem = b.mem ∧ t.now = b.now ∧ (t.channel ch).freeAt = b.cc + 1 ∧
        t.reqs = b.reqs.map (fun q => if q.id = r.id then { q with
          status := .served (8 * (b.cc + if hit = true then b.latHit u (channelOf pa) else b.latMiss u (channelOf pa))) (.data (memRead b.mem pa r.size)) } else q)) ∧
    (∀ d full, r.op = .store d full →
      ∃ t, exec (.calendarSlot ch slot) s = .next t ∧ t.mem = memWrite b.mem pa d ∧ t.now = b.now ∧ (t.lineMeta l).tag = (b.lineMeta l).tag + 1 ∧
        t.reqs = b.reqs.map (fun q => if q.id = r.id then { q with
          status := .served (8 * (b.cc + b.latHit u (channelOf pa))) (.ack (some ((b.lineMeta l).tag + 1)) 0) } else q)) ∧
    (∀ k v w d new fl, r.op = .amo k v w d →
      let old := leNat (memRead b.mem pa r.size)
      let x := v.toNat
      let n := 8 * r.size
      ((k = .add ∧ new = (old + x) % 2 ^ n ∧ fl = 0) ∨ (k = .and ∧ new = old &&& x ∧ fl = 0) ∨ (k = .or ∧ new = old ||| x ∧ fl = 0) ∨
        (k = .xor ∧ new = old ^^^ x ∧ fl = 0) ∨ (k = .min ∧ new = (if signExt n x < signExt n old then x else old) ∧ fl = 0) ∨
        (k = .max ∧ new = (if signExt n old < signExt n x then x else old) ∧ fl = 0) ∨ (k = .minu ∧ new = min old x ∧ fl = 0) ∨
        (k = .maxu ∧ new = max old x ∧ fl = 0) ∨ (k = .swp ∧ new = x ∧ fl = 0) ∨ (k = .cas ∧ new = (if old = w.toNat then x else old) ∧ fl = 0) ∨
        (k = .fadd ∧ fp32.verdict old = none ∧ (new, fl) = fpAdd fp32 rndRNE 0 old x) ∨
        (k = .fmax ∧ fp32.verdict old = none ∧ (new, fl) = fpMinMax fp32 true old x)) →
      ∃ t, exec (.calendarSlot ch slot) s = .next t ∧ t.mem = memWrite b.mem pa (leBytes r.size new) ∧ t.now = b.now ∧
        (t.lineMeta l).tag = (b.lineMeta l).tag + 1 ∧
        t.reqs = b.reqs.map (fun q => if q.id = r.id then { q with
          status := .served (8 * (b.cc + if hit = true then b.latAtom u (channelOf pa)
              else b.latMiss u (channelOf pa) + b.latAtom u (channelOf pa) - b.latHit u (channelOf pa)))
            (.old (BitVec.ofNat 64 old) (some ((b.lineMeta l).tag + 1)) fl) } else q))

/-- BANK_ACCESS, and LDE_RETRY, are a bank cycle of a core's scratchpad: LDE at a full granule reads and, with .C, clears it, at
an empty one waits; a store writes its bytes and, as STF, sets its granule; an engine's write sets its granules with its bytes;
GRSET and GRCLR change at most 8 granules a cycle (R138, R249, R252, R253, R254). READ_LANDING makes a load's destination full
with its value (R210, R250), and STORE_ACK ends a write and leaves its tag in STAG (R190, R191); PAGE_WALK holds the page of
an address that translates in the unit's buffer, of a copy engine in its die's cache (R131); that the buffer holds the newest first
and replaces the oldest is the model's choice (assumption 23). -/
def Obligations.BankUnitsServeAndAnswersArrive : Prop :=
  (∀ (s : State) (n : Fin 192) (r : Req) (off : Nat), locate (localOf r.pa) = .scratch n off → s.reqs = [r] →
     (∀ k, lookup false k (s.core n).gpoison = false) →
     let c := max (s.cycles n) (s.core n).bankAt
     let b := (s.passTo (s.timeOfCycle n c)).updCore n (fun k => { k with bankAt := c + 1 })
     let due := if r.by_.unit = n.val then b.later n 3 else b.now
     b.bankTakes n c r = true → ∀ i ∈ [Instr.bankAccess n, Instr.ldeRetry n],
     (∀ d clear, r.op = .lde d clear →
       (lookup false (off / 16) (s.core n).full = true → ∃ t, exec i s = .next t ∧ t.mem = s.mem ∧
         t.reqs = [{ r with status := .served due (.data (memRead s.mem (localOf r.pa) r.size)) }] ∧
         lookup false (off / 16) (t.core n).full = !clear) ∧
       (lookup false (off / 16) (s.core n).full = false →
         exec i s = .next (({ b with reqs := [{ r with status := .retry }] } : State).unblock))) ∧
     (∀ d full, r.op = .store d full →
       ∃ t, exec i s = .next t ∧ t.mem = memWrite s.mem (localOf r.pa) d ∧
         t.reqs = [{ r with status := .served due (.ack none 0) }] ∧
         lookup false (off / 16) (t.core n).full = (full || lookup false (off / 16) (s.core n).full)) ∧
     (∀ o bs full, r.op = .engine none [(o, bs)] full [] 0 false → r.reply = none →
       ∃ t, exec i s = .next t ∧ t.mem = memWrite s.mem (localOf r.pa + o) bs ∧ t.reqs = [{ r with status := .served due (.ack none 0) }] ∧
         ∀ j < bs.length, lookup false ((off + o + j) / 16) (t.core n).full = (full || lookup false ((off + o + j) / 16) (s.core n).full)) ∧
     (∀ m v, r.op = .granules m v →
       ∃ t, exec i s = .next t ∧ t.mem = s.mem ∧
         t.reqs = [if m ≤ 8 then { r with status := .served due (.ack none 0) } else { r with op := .granules (m - 8) v, pa := r.pa + 128 }] ∧
         (∀ j < min m 8, lookup false (off / 16 + j) (t.core n).full = v) ∧
         (∀ k, (k < off / 16 ∨ off / 16 + min m 8 ≤ k) → lookup false k (t.core n).full = lookup false k (s.core n).full))) ∧
  ((∀ (s : State) (r : Req) (due : Nat), s.reqs = [r] → r.dropped = false → r.reply = none → r.by_.unit ≠ 256 →
     (∀ d bs, r.op = .load d → r.status = .served due (.data bs) →
       exec (.readLanding r.id) s = .next ((({ s with reqs := [], now := max s.now due } : State).updThread r.by_.unit r.by_.thr
         (fun th => th.setX (BitVec.ofNat 5 d) (BitVec.ofNat 64 (leNat bs)))).unblock)) ∧
     (∀ d full tag, r.op = .store d full → r.status = .served due (.ack (some tag) 0) →
       exec (.storeAck r.id) s = .next ((({ s with reqs := [], now := max s.now due } : State).updThread r.by_.unit r.by_.thr
         (fun th => { th with stag := tag })).unblock))) ∧
   (∀ (s : State) (u : Fin 240) (va : Word) (p : Nat) (e : TlbEntry), s.partOfUnit u = some p →
     s.walkFrom p va.toNat .walk 3 (s.part p).ptbase = .ok e →
     ∃ t, exec (.pageWalk u va) s = .next t ∧ t.mem = s.mem ∧
       t.cached u = (e :: (s.cached u).filter (fun x => !(x.part == e.part && x.vbase == e.vbase))).take (if u.val < 224 then 128 else 4096)))

/-- BLOTTER_SWAP makes a slice's next swap, at a multiple of 2,048 rotations: the other filter becomes current and empty (R148);
LAYOUT_TAKES_EFFECT puts the committed shadows in force at a rotation boundary (R154); BULK_RESERVATION gives a waiting
request its free run at one (R275); OPEN_BANK_REFRESH puts a refresh off at most eight times (R155); SCRUB corrects a wrong bit
(R468); PHY_RECALIBRATION loses a channel at its third failure in succession (R483). These steps advance the clock to
their boundary, the model's choice (assumption 73); that a wrong bit is a mark on its line, and what SCRUB does with the mark, are too
(assumptions 11 and 70). -/
def Obligations.ChannelsAndSlicesAreServiced : Prop :=
  (∀ (s : State) (n : Fin 64),
    let k := max ((s.slice n).swaps + 1) (s.cc / (2048 * 320))
    ∃ t, exec (.blotterSwap n) s = .next t ∧ t.mem = s.mem ∧ t.now = max s.now (8 * (2048 * 320 * k)) ∧ (t.slice n).swaps = k ∧
      (t.slice n).sets = (s.slice n).sets ∧
      (k = (s.slice n).swaps + 1 → (t.slice n).currentB = !(s.slice n).currentB ∧
        (if (s.slice n).currentB = true then (t.slice n).filterA = [] ∧ (t.slice n).filterB = (s.slice n).filterB
          else (t.slice n).filterB = [] ∧ (t.slice n).filterA = (s.slice n).filterA))) ∧
  (∀ (s : State) (p : Fin 8) (ch : Nat) (cal : Calendar), (s.part p).pendingCal = some [(ch, cal)] →
    ∃ t, exec (.layoutTakesEffect p) s = .next t ∧ (t.channel ch).cal = cal ∧ (t.part p).pendingCal = none ∧ t.cc % 320 = 0 ∧ s.cc ≤ t.cc ∧
      t.cc < s.cc + 320) ∧
  (∀ (s : State) (ch : Fin 256) (r : RunRequest), (s.channel ch).runQueue = [r] → (s.channel ch).runs = [] →
    ∃ t, exec (.bulkReservation ch) s = .next t ∧ (t.channel ch).runQueue = [] ∧
      lookup none r.run (t.channel ch).runs = some ⟨r.unit, r.thr, r.bank, r.start, none, r.opened, r.closing⟩ ∧ t.cc % 320 = 0 ∧ s.cc ≤ t.cc ∧
      t.cc < s.cc + 320) ∧
  (∀ (s : State) (ch : Fin 256),
    let held := (s.channel ch).runs.any (fun e => e.2.isSome)
    exec (.openBankRefresh ch) s = .next ((s.updChannel ch (fun k => { k with
      refreshDue := if held = true ∧ k.refreshDue < 8 then k.refreshDue + 1 else 0 })).unblock)) ∧
  (∀ (s : State) (line : Nat), lookup false line s.latent = true →
    exec (.scrub line) s = .next (({ s with latent := eraseAt line s.latent, corrected := s.corrected + 1 } : State).unblock)) ∧
  (∀ (s : State) (ch : Fin 256) (ok : Bool), ∃ t, exec (.phyRecalibration ch ok) s = .next t ∧
    (t.channel ch).recalFails = (if ok = true then 0 else (s.channel ch).recalFails + 1) ∧
    (t.channel ch).lost = ((s.channel ch).lost || (!ok && decide (3 ≤ (s.channel ch).recalFails + 1))))

/-! ### Device steps: the wave and the edge units -/

/-- NIB_DEPARTURE lets the head of the nib leave with its selector register as it is then (R97, R98, R101);
here for an instruction without pieces or captures. HOLD_LIMIT ends the launch of a gang whose wave is held
while it is resident and nothing of it is parked, with cause 0x26, when the hold has counted 2^26 cycles (R108, R437,
R441); AGGREGATE_VALID makes the oldest finished aggregate valid in its wave cycle and gives it to a WFLG that waits for it
(R106, R306). Where the count of 2^26 cycles begins is the model's choice (assumption 124). -/
def Obligations.InstructionsLeaveTheNibAndHoldsResolve : Prop :=
  (∀ (s : State) (n : Fin 192) (e : NibEntry) (rest : List NibEntry), (s.core n).nib = e :: rest → s.departs n e.instr = true →
     s.departureFault ((s.core n).chain n) e.instr = none → namesWest e.instr = false → namesNorth e.instr = false →
     givesEast e.instr = false → givesSouth e.instr = false →
     ∃ t beta, exec (.nibDeparture n) s = .next t ∧ t.mem = s.mem ∧ (t.core n).nib = rest ∧ (t.core n).cells = (s.core n).cells ∧
       (t.core n).wave = (s.core n).wave ++ [{
         wid := e.wid, instr := e.instr, by_ := e.by_, x0 := e.x0, x1 := e.x1,
         sel := (s.thread n e.by_.thr).getG (waveSel e.instr), beta := beta, west := [], north := [], east := [], south := [], elapsed := 0,
         agg := Aggregate.empty, trail := [], forfeit := false }]) ∧
  ((∀ (s : State) (n : Fin 192) (b : Bool) (r c : Nat) (w : WaveEntry) (g : Gang), (s.core n).hold ≠ none → s.blocker n = some (b, r, c, w) →
     s.coreGang n = some g → g.place = .resident → s.launchParked g.launch = false → (s.core n).waveFault = none →
     exec (.holdLimit n) s = .next (((((s.passTo (s.timeOfCycle n ((s.core n).holdFrom + 2 ^ 26))).updCore n (fun k => { k with waveFault := some 1 })).fail
       w.by_ 0x26 0 (waveStatus (if b = true then 1 else 0) (((s.core n).chain n).posOf r c) r c))).unblock)) ∧
   (∀ (s : State) (n : Fin 192) (wid due : Nat) (a : Aggregate) (rest : SMap (Nat × Aggregate)), (s.core n).doneAggs = (wid, (due, a)) :: rest →
     s.waveReached n due = true →
     ∃ t, exec (.aggregateValid n) s = .next t ∧ t.now = max s.now (s.timeOfCycle n due) ∧ (t.core n).doneAggs = rest ∧
       (t.core n).validAgg = some (wid, a) ∧ (t.core n).wflgs = (s.core n).wflgs.filter (fun f => f.wid != wid) ∧
       (∀ f, (s.core n).wflgs = [f] → f.wid = wid → f.thr < 4 → 0 < f.dst → f.dst < 32 →
         (t.thread n f.thr).getX (BitVec.ofNat 5 f.dst) = a.part f.md f.qidx ∧ (t.thread n f.thr).fullX (BitVec.ofNat 5 f.dst) = true)))

/-- CELL_EXECUTE is one wave cycle: in a grid of one core the cells whose row and column sum to the cycles
since the instruction left the nib, and which its selector picks, take its effect; every other cell stays as
it is (R97, R101), and so are those of a core whose island has stopped (R481). A border cell without its piece or without room raises the
hold line instead (R108), which HOLD_DROP drops in the cycle after the one that freed it (R108, R140). -/
def Obligations.CellsExecuteInWaveOrder : Prop :=
  (∀ (s : State) (n : Fin 192) (w : WaveEntry), (s.core n).hold = none → s.blocker n = none → (s.core n).wave = [w] →
    (s.core n).chain n = ⟨[n.val], 1, 1⟩ → w.west = [] → w.north = [] → w.east = [] → w.south = [] →
    ∃ t, exec (.cellExecute n) s = .next t ∧ (t.core n).waveAt = (s.core n).waveAt + 1 ∧
      (w.elapsed < 30 → ∃ x, (t.core n).wave = [x] ∧ x.elapsed = w.elapsed + 1 ∧ x.instr = w.instr ∧ x.wid = w.wid ∧ x.sel = w.sel) ∧
      (30 ≤ w.elapsed → (t.core n).wave = []) ∧
      ∀ r < 16, ∀ c < 16,
        let here := (s.core n).cell (16 * r + c)
        let after := (t.core n).cell (16 * r + c)
        (r + c = w.elapsed → (s.core n).down = false → w.sel.getLsbD 32 = true → w.sel.getLsbD r = true → w.sel.getLsbD (16 + c) = true → ∀ x,
          cellEffect w.instr (s.cellEnv ((s.core n).chain n) w r c 0 0) here = .ok x → after = x) ∧
        ((r + c ≠ w.elapsed ∨ (s.core n).down = true ∨ w.sel.getLsbD 32 = false ∨ w.sel.getLsbD r = false ∨ w.sel.getLsbD (16 + c) = false) → after = here)) ∧
  (∀ (s : State) (n : Fin 192) (b : Bool) (r c : Nat) (w : WaveEntry), (s.core n).hold = none → s.blocker n = some (b, r, c, w) →
    exec (.cellExecute n) s = .next ((s.updCore n (fun k => { k with hold := some (b, r, c), holdFrom := k.waveAt })).unblock)) ∧
  (∀ (s : State) (n : Fin 192), (s.core n).hold ≠ none → s.blocker n = none →
    ∃ t, exec (.holdDrop n) s = .next t ∧ (t.core n).hold = none ∧ (t.core n).waveAt = max (s.core n).waveAt (s.cycles n + 1) ∧
      (t.core n).wave = (s.core n).wave ∧ (t.core n).cells = (s.core n).cells ∧ t.mem = s.mem)

/-- HEADER_READ reads the header of a stream whose thread's earlier writes are acknowledged (R311, R312);
STREAM_ACTIVATE marks the oldest stream whose header is known active (R107, R312); WRITER_WRITE writes the
next whole group of a stream from its buffer (R118, R312); AMAX_SEND sends a running maximum as an AMO.FMAX
(R121). Behind an empty nib NIB_DEPARTURE begins the next step of a library stroke, and STROKE_STEP completes it: PROG rises with a
step that has completed, the 64th ends the stroke's issue, and PROG shows 64 in that step's cycle; in a chain the wave has drained of the
stroke once its last instruction has passed the last cell (R122, R336, R337). How the steps of a stroke follow one another, and the way
through a chain after the last one, is a deduction (assumption 85). -/
def Obligations.StreamsAndStrokesAdvance : Prop :=
  (∀ (s : State) (n : Fin 192) (e : EdgeId) (x : Stream) (core off : Nat) (g : Target) (y : StreamEnd),
    let i := x.reader n e
    let h := headerOf (memRead s.mem (localOf g.pa) 64)
    s.toRead n e = some x → x.fst.hdr = none → x.fst.hdrVa % 64 = 0 →
    s.translate ((s.partOfUnit n).getD 0) (tlbUnit i) x.fst.hdrVa .read = .ok g → s.isLocal g = true → locate (localOf g.pa) = .scratch core off →
    (∀ k, lookup false k (s.core core).gpoison = false) → s.checkEnd ((s.partOfUnit n).getD 0) (tlbUnit i) e x x.fst h none = .ok y → h.bmovf = false →
    ((s.core n).edge e).streams = [x] →
    ∃ t z, exec (.headerRead n e) s = .next t ∧ t.mem = s.mem ∧ ((t.core n).edge e).streams = [z] ∧ z.fst = y ∧ z.sid = x.sid ∧
      z.taken = (if writer e = true then min x.taken z.total else x.taken)) ∧
  (∀ (s : State) (n : Fin 192) (e : EdgeId) (x : Stream), ((s.core n).edge e).held.head? = some x → x.live = false → x.known = true →
    exec (.streamActivate n e) s = .next ((s.updEdge n e (fun u => u.upd x.sid (fun z => { z with live := true }))).unblock)) ∧
  (∀ (s : State) (n : Fin 192) (e : EdgeId) (x : Stream) (h : Header) (vs : List (BitVec 256)), (e = .east ∨ e = .south) →
    ((s.core n).edge e).streams = [x] → x.fst.hdr = some h → x.known = true → ((s.core n).edge e).group x.sid x.written = some vs →
    ∃ t z, exec (.writerWrite n e) s = .next t ∧ ((t.core n).edge e).streams = [z] ∧ z.sid = x.sid ∧ z.written = x.written + 1 ∧
      ((t.core n).edge e).buffer = ((s.core n).edge e).buffer.filter (fun c => !(c.1 == x.sid && c.2.1 == x.written))) ∧
  (∀ (s : State) (n : Fin 192) (e : EdgeId) (x : Stream) (h : Header) (g : Target), ((s.core n).edge e).streams = [x] → x.fst.hdr = some h →
    h.amax ≠ 0 → h.amax % 4 = 0 → x.phase < 2 →
    let due := decide (x.sent < ((s.core n).edge e).captured x / 64)
    (due = true ∨ x.phase = 1) → s.reqs = [] →
    s.translate ((s.partOfUnit n).getD 0) (tlbUnit (x.reader n e)) h.amax .atomic = .ok g → s.isLocal g = true →
    ∃ t r, exec (.amaxSend n e) s = .next t ∧ t.reqs = [r] ∧ r.op = .amax (x.amax.setWidth 64) ∧ r.pa = g.pa ∧ r.size = 4 ∧ t.mem = s.mem ∧
      ((t.core n).edge e).streams = [{ x with sent := x.sent + 1, phase := if x.phase = 1 ∧ due = false then 2 else x.phase,
                                              amaxOut := x.amaxOut ++ [s.nextId] }]) ∧
  (∀ (s : State) (n : Fin 192) (x : Stroke), (s.core n).nib = [] → (s.core n).stroke = some x → x.due = none → (s.core n).hold = none →
    s.blocker n = none → (s.core n).waveFault = none → s.mayDepart n = true → (s.core n).wave = [] → x.prog < 64 →
    let c := max (s.core n).waveAt (s.cycles n)
    ∃ t, exec (.nibDeparture n) s = .next t ∧ t.mem = s.mem ∧ (t.core n).cells = (s.core n).cells ∧
      (t.core n).prog = (if x.begun = true then (s.core n).prog else 0) ∧
      (t.core n).stroke = some { x with begun := true, due := some (c + strokeCycles x.instr) }) ∧
  (∀ (s : State) (n : Fin 192) (x : Stroke) (due : Nat), (s.core n).stroke = some x → x.begun = true → x.due = some due → (s.core n).wave = [] →
    (s.core n).waveFault = none → x.prog < 64 →
    ∃ t, exec (.strokeStep n) s = .next t ∧ t.mem = s.mem ∧
      (t.core n).cells = ((s.core n).strokeWork x).1.cells ∧ (t.core n).pv = ((s.core n).strokeWork x).1.pv ∧
      (x.prog = 63 → (t.core n).stroke = none ∧ (t.core n).progDue = some due) ∧
      (x.prog < 63 → (t.core n).prog = BitVec.ofNat 64 (x.prog + 1) ∧ t.now = max s.now (s.timeOfCycle n due) ∧
        ∃ y, (t.core n).stroke = some y ∧ y.prog = x.prog + 1 ∧ y.instr = x.instr ∧ (y.due ≠ none ↔ s.mayDepart n = true))) ∧
  (∀ (s : State) (n : Fin 192) (due : Nat), (s.core n).stroke = none → (s.core n).progDue = some due → s.waveReached n due = true →
    exec (.strokeStep n) s =
      .next (((s.passTo (s.timeOfCycle n due)).updCore n (fun k => { k with
        prog := 64
        progDue := if (s.core n).prog = 64 ∨ ((s.core n).chain n).span = 30 then none else some (due - 30 + ((s.core n).chain n).span) })).unblock))

/-! ### Device steps: faults and contexts -/

/-- FAULT_QUEUE_WRITE sends the oldest fault to the entry at FWIDX once that entry is free, its valid word after its other bytes (R411, R412,
R413; here where the queue is reached through the scratchpad window); ACT_WRITE observes a GO, and frees an entry that names no parked
unit (R413, R416); RESUME_ENTRY resumes the unit of an entry with GO and frees the entry (R416, R421). LAUNCH_END stops what a
failed launch has running: the threads of its gang, the nib and the loaders' streams (R417). CONTEXT_SAVE takes a core of a
gang that is switched out once its wave has drained and its accesses have finished, and sends its context to its save area; once that is
acknowledged, with CONTEXT depth the core keeps its state and the gang of that core alone is saved (R87, R88, R91). That an entry without a
parked unit is freed by any action (assumption 57), that an entry which cannot be written is lost (assumption 147), and the places of the
fields in a save area (assumption 59) are the model's choices. -/
def Obligations.FaultsAreReportedAndContextsSaved : Prop :=
  ((∀ (s : State) (p : Fin 8) (r : FaultRec), s.faults = [r] → r.part = p.val → r.kind ≠ 3 →
     (s.reported p (s.entryVa p (s.part p).fwidx)).getD 0 = 0 → s.issuing (faultIssue p) = false →
     ∃ t, exec (.faultQueueWrite p) s = .next t ∧ t.faults = [] ∧ t.mem = s.mem ∧ (t.part p).fwidx = (s.part p).fwidx + 1 ∧
       t.entries = s.entries ++ [⟨(s.part p).fwidx, p, r.unit, r.launch, 0, false⟩] ∧
       (∀ core off, s.entryVa p (s.part p).fwidx = 2 ^ 56 - 2 ^ 29 + core * 2 ^ 21 + off → core < 192 → off + 64 ≤ 0x200000 → off % 64 = 0 →
         s.owns p (core / 24) = true → s.noCore core = false → s.reqs = [] →
         ∃ a b, t.reqs = [a, b] ∧ a.by_ = faultIssue p ∧ b.by_ = faultIssue p ∧ localOf a.pa = scratchPa core off + 4 ∧
           localOf b.pa = scratchPa core off ∧ a.op = .engine none [(0, r.body)] false [] 0 false ∧
           b.op = .engine none [(0, leBytes 4 (validWord (s.part p).fwidx r.kind))] false [] 0 false ∧ b.release = true ∧ a.id ∈ b.after)) ∧
   (∀ (s : State) (p : Fin 8) (i : Fin 1024) (e : QueueEntry),
     (s.entries.filter (fun x => x.part == p.val && x.idx % 1024 == i.val)).getLast? = some e → e.go = false →
     e.act = 0 → ∀ w, s.entryWord p (s.entryVa p e.idx + 48) = some w → let act := bitsOf w 1 0
     (act = 1 → e.unit ≠ .none → exec (.actWrite p i) s = .next (({ s with
       entries := s.entries.map (fun x => if x.part = p.val ∧ x.idx = e.idx then { x with go := true } else x) } : State).unblock)) ∧
     (act ≠ 0 → e.unit = .none → ∃ t, exec (.actWrite p i) s = .next t ∧
       t.entries = s.entries.filter (fun x => !(x.part == p.val && x.idx == e.idx)))) ∧
   (∀ (s : State) (p : Fin 8) (e : QueueEntry) (g : Nat) (i : Issue), s.entries = [e] → e.part = p.val → e.go = true → e.unit = .gang g i →
     ∃ t, exec (.resumeEntry p) s = .next t ∧ t.entries = [] ∧
       t.gangs = s.gangs.map (fun x => if x.id = g then { x with parks := x.parks - 1 } else x) ∧
       (∀ c, (s.part p).lastResume = some c → c + 8 ≤ t.cc) ∧ (t.part p).lastResume = some t.cc)) ∧
  (∀ (s : State) (p : Fin 8) (l : Launch) (g : Gang), s.launches.filter (fun x => x.part == p.val && x.cause.isSome) = [l] →
     s.gangs.filter (fun x => x.launch == l.id && !x.ending) = [g] → g.place = .resident → (∀ k ∈ s.tasks, k.launch ≠ some l.id) →
     (∀ n ∈ g.cores, n < 192 ∧ (s.core n).gang = some g.id) →
     ∃ t, exec (.launchEnd p) s = .next t ∧ t.mem = s.mem ∧
       ∀ n ∈ g.cores, (t.core n).nib = [] ∧ (t.core n).stroke = none ∧ (t.core n).west.streams = [] ∧ (t.core n).north.streams = [] ∧
         ∀ j ≤ g.tpc, j < 4 → (t.thread n j).status = .idle ∧ (t.thread n j).owner = .none) ∧
  (∀ (s : State) (n : Fin 192) (g : Gang) (base : Nat), (s.core n).saving = some (false, base) → (s.core n).gang = some g.id →
     s.gangOf g.id = some g → g.cores = [n.val] → s.launchFailed (some g.launch) = false → s.gangExits g = false →
     ((s.core n).saveOut = false → (s.core n).drained = true → s.taskWrites g.id = false → s.coreSettled n false = true → s.reqs = [] →
       ∃ t, exec (.contextSave n) s = .next t ∧ (t.core n).saveOut = true ∧ (t.core n).saving = (s.core n).saving ∧
         (t.core n).cells = (s.core n).cells ∧ (t.core n).nib = (s.core n).nib ∧ t.mem = s.mem ∧ t.gangs = s.gangs ∧
         (∀ j, (t.thread n j).x = (s.thread n j).x ∧ (t.thread n j).pc = (s.thread n j).pc) ∧
         ∀ r ∈ t.reqs, r.by_ = saveIssue n ∧ r.part = g.part) ∧
     ((s.core n).saveOut = true → s.issuing (saveIssue n) = false →
       ∃ t, exec (.contextSave n) s = .next t ∧ (t.core n).saving = none ∧ (t.core n).saveOut = false ∧ (t.core n).cells = (s.core n).cells ∧
         (t.core n).nib = (s.core n).nib ∧ (∀ j, (t.thread n j).sameFile (s.thread n j)) ∧ t.mem = s.mem ∧
         t.gangs = s.gangs.map (fun x => if x.id = g.id then { x with place := .saved false } else x)))

/-! ### Device steps: links, keys, measurements -/

/-- FLIT_RECEIVE at a port of a partition: an authentic request for memory of the partition is counted and joins the issue
order of the port with the class and key of its page here (R159, R390 to R392, R454); a response ends the wait of
its access with what it carries, a refusal with cause 0x46 and the kind of the access in STATUS (R451); RESPONSE_TIMEOUT ends it with cause 0x81 (R479); PORT_DOWN and
PHY_RESET take ports down and up (R479, R480). KEY_DELIVERY binds a free slot to its partition under a new key where the policy
digest is the partition's and the key unwraps (R395, R485); MEASUREMENT_REQUEST answers the measurement of its index (R394);
REPLAY_TIMEOUT ends a replayed launch whose access has been held for 2^26 controller cycles, with cause 0x89
(R401, R490). Measurements of firmware and the authenticity of flits are opaque (assumption 8); the page whose class an access from outside
has is the model's choice (assumption 140). -/
def Obligations.LinksKeysAndReplays : Prop :=
  ((∀ (s : State) (port : Fin 16) (f : Flit) (p : Nat), lookup false port.val s.portsDown = false → s.partOfBlock (port.val / 2) = some p →
     f.dst = s.modreg.toNat % 1024 → f.auth = true → s.linkKey p = some f.key → f.part = p → s.copybooks = [] →
     ((f.kind = .load ∨ f.kind = .store ∨ f.kind = .atomic) → s.flitReaches p f = true →
       ∃ t r, exec (.flitReceive port f) s = .next t ∧ t.reqs = s.reqs ++ [r] ∧ r.by_.unit = 240 + port.val ∧ r.op = flitOp f ∧ r.size = f.size ∧
         localOf r.pa = f.addr % 2 ^ 42 ∧ (r.cls, r.kslot) = s.lineClass p f.addr ∧ r.status = .waiting ∧
         r.reply = some ⟨f.src, f.token, f.unit, f.thr, f.gang, f.node, f.well.filter (fun w => s.padOf p w.1)⟩ ∧ t.mem = s.mem ∧
         lookup 0 port.val t.flitRx = lookup 0 port.val s.flitRx + 1 ∧ (t.part p).flits = (s.part p).flits + 1) ∧
     (∀ r, f.kind = .response → s.reqs = [r] → r.id = f.token → (∃ c, r.status = .sent c) → moduleOf r.pa = f.src →
       ∃ t a, exec (.flitReceive port f) s = .next t ∧ t.reqs = [{ r with status := .served s.now a }] ∧ t.mem = s.mem ∧
         (f.refused = true → a = .fail 0x46 (s.refusedStatus r)) ∧
         (∀ d, f.refused = false → f.atomic = 0 → f.poison = false → r.op = .load d → a = .data (bytesAt f.data 0 r.size)))) ∧
   (∀ (s : State) (r : Req) (c : Nat), s.reqs = [r] → r.status = .sent c →
     ∃ t, exec (.responseTimeout r.id) s = .next t ∧ t.now = max s.now (8 * (c + 2 ^ 22)) ∧
       t.reqs = [{ r with status := .served t.now (.fail 0x81 0) }]) ∧
   (∀ (s : State) (port : Fin 16),
     exec (.portDown port) s = .next (({ s with portsDown := insertAt port.val true s.portsDown } : State).unblock) ∧
     (∃ t, exec (.phyReset port) s = .next t ∧ ∀ q, lookup false q t.portsDown = if q / 2 = port.val / 2 then false else lookup false q s.portsDown))) ∧
  ((∀ (s : State) (k : KeyMsg), k.slot < 64 → (s.keySlot k.slot).bound = none → (s.part k.part).present = true →
     s.measurement (16 + k.part) = some k.policy → k.unwraps = true →
     ∃ t, exec (.keyDelivery k) s = .next t ∧ (t.keySlot k.slot).bound = some k.part ∧ (t.keySlot k.slot).gen = s.nextKey ∧
       (t.keySlot k.slot).key = k.key ∧ t.keyValue (.slot k.slot s.nextKey) = k.key ∧
       t.nextKey = s.nextKey + 1 ∧ t.output = s.output ++ [.keyLoaded k.slot] ∧
       (t.part k.part).linkGen = (if k.link = true then some s.nextKey else (s.part k.part).linkGen) ∧
       (∀ j, j ≠ k.slot → t.keySlot j = s.keySlot j)) ∧
   (∀ (s : State) (i : Nat), exec (.measurementRequest i) s = .next (({ s with
     output := s.output ++ [match s.measurement i with | some v => .measurement i v | none => .spdmError] } : State).unblock)) ∧
   (∀ (s : State) (p : Fin 8) (c : Copybook) (w since va : Nat) (l : Launch), s.copybooks = [c] → c.part = p.val → c.replay = true →
     c.diverged = false → c.held = [(w, (since, va))] → c.launch = some l.id → s.launchOf l.id = some l → l.cause = none →
     ∃ t, exec (.replayTimeout p) s = .next t ∧ t.now = max s.now (8 * (since + 2 ^ 26)) ∧
       t.launches = s.launches.map (fun x => if x.id = l.id then (if x.cause.isSome = true then x else { x with cause := some (0x89, 0) }) else x) ∧
       t.copybooks = [{ c with diverged := true, held := [] }]))

/-! ### Device steps: service -/

/-- RHOTON_SAMPLE reads the module's power, asks for a lower clock above 105 °C or where the module draws more than its rating, at most the
nominal clock there, and stops an island above 115 °C or below its supply floor (R25, R26, R396, R481); CLOCK_CHANGE sets the
clock of an island, and of those that the cores of its gangs share, where no wave is in flight, no cycle counted till then
being lost, and waits otherwise (R23, R25, R26); ISLAND_RESTART brings a core island back with its scratchpads zeroised
(R481). SELF_CHECK_FAILURE marks a slice, a channel or a unit instance failed (R448, R470); SOFT_ERROR leaves a line that will be filled
poisoned, or a poisoned granule, for two wrong bits, and notes or corrects one (R468); MODULE_RESET leaves every register, queue and unit at
its reset value and keeps what HBM holds (R8, R397). The lowered clock is an opaque value within its bounds (assumptions 9 and 127), wrong
bits are marks on lines (assumption 70), and what module reset keeps, and that lines held dirty are lost with the slices, is a deduction
(assumptions 71 and 141). -/
def Obligations.IslandsFailuresAndReset : Prop :=
  ((∀ (s : State) (i : Fin 64) (low : Bool) (temp watts : Nat), (s.island i).stopped = false →
     (low = false → temp ≤ 105 → watts ≤ 1800 →
       exec (.rhotonSample i low ⟨temp, watts⟩) s = .next (({ s with power := watts } : State).unblock)) ∧
     (low = false → temp ≤ 105 → 1800 < watts → 1800 < (s.island i).mhz → ∃ t, exec (.rhotonSample i low ⟨temp, watts⟩) s = .next t ∧
       t.power = watts ∧ (t.island i).wanted = some (1800, (s.island i).millivolts) ∧ (t.island i).mhz = (s.island i).mhz) ∧
     (low = false → temp ≤ 115 → (105 < temp ∨ 1800 < watts) → ∃ t, exec (.rhotonSample i low ⟨temp, watts⟩) s = .next t ∧ t.power = watts ∧
       (t.island i).stopped = false ∧ (t.island i).mhz = (s.island i).mhz ∧ t.mem = s.mem ∧
       ((t.island i).wanted = (s.island i).wanted ∨
         ∃ w, (t.island i).wanted = some (w, (s.island i).millivolts) ∧ 900 ≤ w ∧ w < (s.island i).mhz ∧ (1800 < watts → w ≤ 1800))) ∧
     (low = true ∨ 115 < temp → ∃ t, exec (.rhotonSample i low ⟨temp, watts⟩) s = .next t ∧ (t.island i).stopped = true ∧
       (i.val % 8 < 6 → t.mem = s.mem ∧ ∀ n ∈ coresOfIsland i, (t.core n).down = true))) ∧
   (∀ (s : State) (i : Fin 64) (low : Bool) (temp watts : Nat), (s.island i).stopped = true →
     exec (.rhotonSample i low ⟨temp, watts⟩) s = .next (({ s with power := watts } : State).unblock)) ∧
   (∀ (s : State) (i : Fin 64) (mhz mv : Nat), 900 ≤ mhz → mhz ≤ 2100 →
     (1800 < mhz → 1800 < s.power → (∃ j ∈ s.clockGroup i, (s.island j).mhz < mhz) → exec (.clockChange i ⟨mhz, mv⟩) s = .next s.unblock) ∧
     ((mhz ≤ 1800 ∨ s.power ≤ 1800 ∨ ∀ j ∈ s.clockGroup i, mhz ≤ (s.island j).mhz) → (∀ j ∈ s.clockGroup i, ∀ n ∈ coresOfIsland j, s.waveIn n = false) →
       ∃ t, exec (.clockChange i ⟨mhz, mv⟩) s = .next t ∧ t.now = s.now ∧ t.mem = s.mem ∧
         (∀ j ∈ s.clockGroup i, (t.island j).mhz = mhz ∧ (t.island j).wanted = none) ∧ i.val ∈ s.clockGroup i ∧ (t.island i).millivolts = mv ∧
         ∀ j, (t.island j).cycles s.now = (s.island j).cycles s.now) ∧
     ((mhz ≤ 1800 ∨ s.power ≤ 1800 ∨ ∀ j ∈ s.clockGroup i, mhz ≤ (s.island j).mhz) → (∃ j ∈ s.clockGroup i, ∃ n ∈ coresOfIsland j, s.waveIn n = true) →
       exec (.clockChange i ⟨mhz, mv⟩) s = .next ((s.updIsland i (fun k => { k with wanted := some (mhz, mv) })).unblock))) ∧
   (∀ (s : State) (i : Fin 64), (s.island i).stopped = true → i.val % 8 < 6 → (∀ n ∈ coresOfIsland i, (s.core n).gang = none) →
     ∃ t, exec (.islandRestart i) s = .next t ∧ (t.island i).stopped = false ∧
       ∀ n ∈ coresOfIsland i, (t.core n).down = false ∧ (t.core n).full = [] ∧ ∀ off, off < 0x200000 → memGet t.mem (scratchPa n off) = 0)) ∧
  ((∀ (s : State) (n : Fin 64), ∃ t, exec (.selfCheckFailure (.slice n)) s = .next t ∧ (t.slice n).lost = true ∧ (t.slice n).sets = []) ∧
   (∀ (s : State) (ch : Fin 256), ∃ t, exec (.selfCheckFailure (.channel ch)) s = .next t ∧ (t.channel ch).lost = true ∧ t.mem = s.mem) ∧
   (∀ (s : State) (u : Fin 224) (c : Fin 8) (k : Fin 2) (g : Fin 4), ∃ t, exec (.selfCheckFailure (.part u c k g)) s = .next t ∧
     (t.seq u).broken = (s.seq u).broken ||| (1#16 <<< (2 * c.val + k.val)) ∧ t.mem = s.mem) ∧
   (∀ (s : State) (line core g : Nat) (double : Bool),
     (double = true ∨ lookup false line s.latent = true →
       ∃ t, exec (.softError (.hbm line) double) s = .next t ∧ lookup false line t.unfixable = true ∧ t.lines = s.lines ∧ t.mem = s.mem) ∧
     (double = false → lookup false line s.latent = false → lookup false line s.unfixable = true →
       exec (.softError (.hbm line) double) s = .next s.unblock) ∧
     (double = false → lookup false line s.latent = false → lookup false line s.unfixable = false →
       exec (.softError (.hbm line) double) s = .next (({ s with latent := insertAt line true s.latent } : State).unblock)) ∧
     (double = false → exec (.softError (.granule core g) double) s = .next (({ s with corrected := s.corrected + 1 } : State).unblock)) ∧
     (double = true → ∃ t, exec (.softError (.granule core g) double) s = .next t ∧ lookup false g (t.core core).gpoison = true ∧
       t.mem = s.mem)) ∧
   (∀ s : State, Memory.wf s.mem = true → ∃ t, exec .moduleReset s = .next t ∧ t.launches = [] ∧ t.gangs = [] ∧ t.tasks = [] ∧ t.copies = [] ∧ t.reqs = [] ∧
     t.launchQ = [] ∧ t.copyQ = [] ∧ t.taskQ = [] ∧ t.parts = [] ∧ t.cores = [] ∧ t.slices = [] ∧ t.channels = [] ∧ t.keys = [] ∧
     t.modreg = 0 ∧ t.cmdWidx = 0 ∧ t.cmdRidx = 0 ∧ t.now = 0 ∧
     (∀ a, 8 * stackBytes ≤ a → memGet t.mem a = 0) ∧
     let held := (List.range 64).flatMap (fun i => (s.slice i).held)
     ((∀ w ∈ held, w.old = none) → (∀ a, a < 8 * stackBytes → memGet t.mem a = memGet s.mem a) ∧
       ∀ line, (t.lineMeta line).tag = (s.lineMeta line).tag ∧ (t.lineMeta line).poison = (s.lineMeta line).poison) ∧
     (∀ w h, held = [w] → w.old = some h → h.bytes.length = 128 → 128 * w.line < 8 * stackBytes →
       memRead t.mem (128 * w.line) 128 = h.bytes ∧ (t.lineMeta w.line).tag = h.tag)))

/-! ### Device steps: commands -/

/-- Of a command at the head of the ring that breaks no rule of its arguments and is not under way: PCREATE
makes the partition with its blocks and bases, PDESTROY disables its queues, SETCAL leaves the shadows to the
next rotation boundary or completes with 0x60, SETRES sets the reservations, SHOOT clears the translations of
its range, REPAIR brings the spare in, and KEYDROP unbinds its slot (R386 to R388, R482). That bytes 4 to 7 and
bad arguments complete with 0x58 is the model's choice (assumption 40). Memory is in canonical form, which every
step keeps (EveryStepKeepsSafety). -/
def Obligations.CommandsTakeEffect : Prop :=
  ∀ (s : State) (bs : List Byte), s.command = some bs → s.commands = [] → cmdReserved bs = false → s.badArguments bs = false →
    Memory.wf s.mem = true →
    let p := cmdPart bs
    let done := fun (t : State) (code : Nat) => t.cmdRidx = s.cmdRidx + 1 ∧ t.commands = [] ∧
      memRead t.mem (cmdPa s.cmdRidx.toNat + 8) 8 = leBytes 8 (s.cmdRidx.toNat * 2 ^ 32 + 2 ^ 31 + code * 2 ^ 16)
    (cmdOp bs = 1 → fieldAt bs 56 8 = 0 → ∃ t, exec .pcreate s = .next t ∧ done t 0 ∧ (t.part p).present = true ∧
      (t.part p).blocks = BitVec.ofNat 8 (fieldAt bs 16 1) ∧ (t.part p).ptbase = fieldAt bs 24 8 ∧ (t.part p).fqbase = fieldAt bs 40 8 ∧
      (t.part p).hwbase = fieldAt bs 48 8) ∧
    (cmdOp bs = 2 → ∃ t, exec .pdestroy s = .next t ∧ (t.part p).destroying = true ∧ t.cmdRidx = s.cmdRidx ∧
      (∀ q, (s.launchQueue q).part = p → (t.launchQueue q).en = false)) ∧
    (cmdOp bs = 3 → (∀ ch ∈ chansOf (s.part p).blocks, s.badShadow p ch = false) → ∃ t, exec .setcal s = .next t ∧
      (t.part p).pendingCal = some ((chansOf (s.part p).blocks).map (fun c => (c, (s.channel c).shadow))) ∧ t.mem = s.mem) ∧
    (cmdOp bs = 3 → (∃ ch ∈ chansOf (s.part p).blocks, s.badShadow p ch = true) → ∃ t, exec .setcal s = .next t ∧ done t 0x60 ∧
      ∀ ch, t.channel ch = s.channel ch) ∧
    (cmdOp bs = 4 → ∃ t, exec .setres s = .next t ∧ done t 0 ∧ (t.part p).reserve = BitVec.ofNat 48 (fieldAt bs 16 6)) ∧
    (cmdOp bs = 5 → s.oldAccesses p (fieldAt bs 16 8) (fieldAt bs 24 8) = false → ∃ t, exec .shoot s = .next t ∧ done t 0 ∧
      ∀ u, ∀ e ∈ (t.seq u).tlb ++ t.cached u, e.part = p → fieldAt bs 16 8 + fieldAt bs 24 8 ≤ e.vbase ∨ e.vbase + e.size ≤ fieldAt bs 16 8) ∧
    (cmdOp bs = 8 → (s.core (fieldAt bs 16 1)).gang = none → s.sparesUsed.getLsbD (fieldAt bs 16 1 / 24) = false →
      ∃ t, exec .repair s = .next t ∧ done t 0 ∧ (t.core (fieldAt bs 16 1)).down = false ∧ (t.seq (fieldAt bs 16 1)).retired = false ∧
        t.sparesUsed = s.sparesUsed ||| (1#8 <<< (fieldAt bs 16 1 / 24))) ∧
    (cmdOp bs = 9 → ∃ t, exec .keydrop s = .next t ∧ done t 0 ∧ (t.keySlot (fieldAt bs 16 1)).bound = none)

/-- SWITCH marks the resident gangs of its launch for CONTEXT_SAVE at their save areas (R87); RESUME brings
gangs that hold their cores back with what their save areas hold (R91); RECORD arms a copybook (R398); REPLAY claims a slot of the queue's
ring with an AMO.ADD and posts the recorded packet once the ring has room (R68, R401); UPDATE loads the inactive banks with the image, and where it does not verify completes
with 0x83 with the active banks in force (R397, R484).
A command that takes time repeats its step (assumption 62); images verify by an opaque test (assumption 8). -/
def Obligations.LongCommandsBegin : Prop :=
  ∀ (s : State) (bs : List Byte), s.command = some bs → s.commands = [] → cmdReserved bs = false → s.badArguments bs = false →
    let p := cmdPart bs
    let begun := fun (t : State) (arg : Nat) (gs : List Nat) => t.commands = [⟨s.cmdRidx, cmdOp bs, p, arg, gs, false⟩] ∧ t.cmdRidx = s.cmdRidx
    (∀ l g n, cmdOp bs = 6 → s.namedLaunch p bs = some l → l.cause = none →
      s.gangs.filter (fun x => x.launch == l.id && !x.ending && decide (x.place = .resident)) = [g] → g.cores = [n] →
      ∃ t, exec .switch s = .next t ∧ begun t l.id [g.id] ∧
        (t.core n).saving = some (bitsOf (fieldAt bs 24 1) 0 0 == 1, fieldAt bs 32 8) ∧
        t.gangs = s.gangs.map (fun x => if x.id = g.id then { x with place := .switching (bitsOf (fieldAt bs 24 1) 0 0 == 1) } else x)) ∧
    (∀ l g n, cmdOp bs = 7 → s.namedLaunch p bs = some l → l.cause = none →
      s.gangs.filter (fun x => x.launch == l.id && !x.ending && (match x.place with | .saved _ => true | _ => false)) = [g] →
      g.place = .saved false → g.cores = [n] → s.saved = [] →
      ∀ area, s.readVa (cmdIssue p) p (fieldAt bs 32 8) 0x99500 = .ok s area false →
      ∃ t, exec .resume s = .next t ∧ t.cmdRidx = s.cmdRidx + 1 ∧
        t.gangs = s.gangs.map (fun x => if x.id = g.id then { x with place := .resident } else x) ∧
        ∀ j < 4, (s.thread n j).status = .run → (t.thread n j).pc = BitVec.ofNat 64 (fieldAt area (512 * j + 320) 8)) ∧
    (cmdOp bs = 10 →
      ∀ h es, s.readVa (cmdIssue p) p (fieldAt bs 32 8) 64 = .ok s h false →
      s.readVa (cmdIssue p) p (fieldAt bs 32 8 + 64) (16 * bitsOf (fieldAt h 0 4) 12 8 + 8 * bitsOf (fieldAt h 0 4) 6 0) = .ok s es false →
      fieldAt bs 24 8 % 4096 = 0 → s.inOwnHbm p (fieldAt bs 24 8) = true → fieldAt bs 32 8 % 64 = 0 → bitsOf (fieldAt h 0 4) 12 8 ≤ 16 →
      bitsOf (fieldAt h 0 4) 6 0 ≤ 64 → bitsOf (fieldAt h 0 4) 31 13 = 0 → bitsOf (fieldAt h 0 4) 7 7 = 0 → fieldAt h 4 4 = 0 → fieldAt h 32 32 = 0 →
      s.copybooks = [] →
      ∃ t c, exec .record s = .next t ∧ t.cmdRidx = s.cmdRidx + 1 ∧ t.copybooks = [c] ∧ c.part = p ∧ c.queue = fieldAt bs 16 1 ∧
        c.base = fieldAt bs 24 8 ∧ c.replay = false ∧ c.launch = none ∧ c.ni = bitsOf (fieldAt h 0 4) 12 8 ∧ c.nw = bitsOf (fieldAt h 0 4) 6 0 ∧
        c.maxiter = fieldAt h 8 8 ∧ c.maxflit = fieldAt h 16 8 ∧ c.maxwacc = fieldAt h 24 8 ∧
        c.regions = (List.range c.ni).map (fun i => (fieldAt es (16 * i) 8, fieldAt es (16 * i + 8) 8))) ∧
    (cmdOp bs = 11 → let q := s.launchQueue (fieldAt bs 16 1)
      let base := fieldAt bs 24 8
      q.en = true → q.part = p →
      (∀ h rs g, s.copybooks = [] → s.readVa (cmdIssue p) p base 2048 = .ok s h false → bitsOf (fieldAt h 64 4) 1 0 = 1 →
        s.readPieces (cmdIssue p) p ((bookRegions base h).flatMap (fun e => pieces e.1 e.2)) = .ok s rs false →
        s.translate p (258 + p) q.widx.toNat .atomic = .ok g → s.isLocal g = true → s.reqs = [] →
        ∃ t c r, exec .replay s = .next t ∧ begun t (fieldAt bs 16 1) [] ∧ t.copybooks = [c] ∧ c.replay = true ∧ c.queue = fieldAt bs 16 1 ∧
          c.base = base ∧ c.lwidx = none ∧ c.command = s.cmdRidx ∧ t.reqs = [r] ∧ r.by_ = postIssue p ∧ r.pa = g.pa ∧ r.size = 4 ∧
          r.op = .amo .add 1 0 0) ∧
      (∀ c pkt m, s.copybooks = [c] → c.replay = true → c.command = s.cmdRidx → c.lwidx = none → s.readVa (cmdIssue p) p base 64 = .ok s pkt false →
        s.inbox.find? (fun x => x.unit == (postIssue p).unit && x.thr == (postIssue p).thr) = some m → m.cause = 0 →
        let wi : BitVec 32 := BitVec.ofNat 32 (leNat m.bytes)
        (4096 ≤ (wi - q.ridx).toNat → exec .replay s = .next s.unblock) ∧
        ((wi - q.ridx).toNat < 4096 → ∃ t, exec .replay s = .next t ∧ t.copybooks = [{ c with lwidx := some wi }] ∧ t.mem = s.mem ∧
          t.cmdRidx = s.cmdRidx))) ∧
    (cmdOp bs = 12 →
      ∀ img, s.readVa (cmdIssue p) p (fieldAt bs 24 8) (fieldAt bs 32 4) = .ok s img false →
      ∃ t, exec .update s = .next t ∧
        (∀ i < 64, bitsOf (fieldAt bs 16 8) i i = 1 → (t.island i).bankB = (s.island i).bankB ∧
          (if (s.island i).bankB = true then (t.island i).imageA = img ∧ (t.island i).imageB = (s.island i).imageB
            else (t.island i).imageB = img ∧ (t.island i).imageA = (s.island i).imageA)) ∧
        if Config.imageVerifies img = false then t.cmdRidx = s.cmdRidx + 1 ∧ ∀ i, (t.island i).updating = (s.island i).updating
        else begun t 0 [] ∧ ∀ i < 64, bitsOf (fieldAt bs 16 8) i i = 1 → (t.island i).updating = true)
end

