-- ==== Sys2Proof/Laws/SMap.lean ====
section
/-! SUPPORT. Sparse tables: what a lookup finds after an update. -/

namespace Sys2Proof.Machine

@[simp] theorem lookup_insertAt_self {α : Type} (d : α) (k : Nat) (v : α) (m : SMap α) : lookup d k (insertAt k v m) = v := by
  induction m with
  | nil => simp [insertAt, lookup]
  | cons e m ih =>
    obtain ⟨k', v'⟩ := e
    simp only [insertAt]
    split
    · simp [lookup]
    · split
      · simp [lookup]
      · simp [lookup, *]

theorem lookup_insertAt_ne {α : Type} (d : α) {j k : Nat} (h : j ≠ k) (v : α) (m : SMap α) :
    lookup d j (insertAt k v m) = lookup d j m := by
  induction m with
  | nil => simp [insertAt, lookup, Ne.symm h]
  | cons e m ih =>
    obtain ⟨k', v'⟩ := e
    simp only [insertAt]
    split
    · subst_vars; simp [lookup, Ne.symm h]
    · split
      · simp [lookup, Ne.symm h]
      · simp only [lookup]; split <;> [rfl; exact ih]

theorem lookup_insertAt {α : Type} (d : α) (j k : Nat) (v : α) (m : SMap α) :
    lookup d j (insertAt k v m) = if j = k then v else lookup d j m := by
  split
  · subst_vars; simp
  · exact lookup_insertAt_ne d ‹_› v m

theorem lookup_adjust {α : Type} (d : α) (j k : Nat) (f : α → α) (m : SMap α) :
    lookup d j (adjust d k f m) = if j = k then f (lookup d k m) else lookup d j m := by
  simp [adjust, lookup_insertAt]

end Sys2Proof.Machine
end

