-- ==== Sys2Proof/Laws/State.lean ====
section
/-! SUPPORT. What each update of the state leaves alone: one lemma per field and update. -/

namespace Sys2Proof.Machine

/-! ### State.setSeq -/

@[simp] theorem State.setSeq_dieTlb (s : State) (u : Nat) (q : Seq) : (s.setSeq u q).dieTlb = s.dieTlb := rfl
@[simp] theorem State.setSeq_cores (s : State) (u : Nat) (q : Seq) : (s.setSeq u q).cores = s.cores := rfl
@[simp] theorem State.setSeq_mem (s : State) (u : Nat) (q : Seq) : (s.setSeq u q).mem = s.mem := rfl
@[simp] theorem State.setSeq_lines (s : State) (u : Nat) (q : Seq) : (s.setSeq u q).lines = s.lines := rfl
@[simp] theorem State.setSeq_slices (s : State) (u : Nat) (q : Seq) : (s.setSeq u q).slices = s.slices := rfl
@[simp] theorem State.setSeq_channels (s : State) (u : Nat) (q : Seq) : (s.setSeq u q).channels = s.channels := rfl
@[simp] theorem State.setSeq_parts (s : State) (u : Nat) (q : Seq) : (s.setSeq u q).parts = s.parts := rfl
@[simp] theorem State.setSeq_keys (s : State) (u : Nat) (q : Seq) : (s.setSeq u q).keys = s.keys := rfl
@[simp] theorem State.setSeq_keyValues (s : State) (u : Nat) (q : Seq) : (s.setSeq u q).keyValues = s.keyValues := rfl
@[simp] theorem State.setSeq_islands (s : State) (u : Nat) (q : Seq) : (s.setSeq u q).islands = s.islands := rfl
@[simp] theorem State.setSeq_portsDown (s : State) (u : Nat) (q : Seq) : (s.setSeq u q).portsDown = s.portsDown := rfl
@[simp] theorem State.setSeq_launchQ (s : State) (u : Nat) (q : Seq) : (s.setSeq u q).launchQ = s.launchQ := rfl
@[simp] theorem State.setSeq_copyQ (s : State) (u : Nat) (q : Seq) : (s.setSeq u q).copyQ = s.copyQ := rfl
@[simp] theorem State.setSeq_taskQ (s : State) (u : Nat) (q : Seq) : (s.setSeq u q).taskQ = s.taskQ := rfl
@[simp] theorem State.setSeq_launches (s : State) (u : Nat) (q : Seq) : (s.setSeq u q).launches = s.launches := rfl
@[simp] theorem State.setSeq_gangs (s : State) (u : Nat) (q : Seq) : (s.setSeq u q).gangs = s.gangs := rfl
@[simp] theorem State.setSeq_saved (s : State) (u : Nat) (q : Seq) : (s.setSeq u q).saved = s.saved := rfl
@[simp] theorem State.setSeq_tasks (s : State) (u : Nat) (q : Seq) : (s.setSeq u q).tasks = s.tasks := rfl
@[simp] theorem State.setSeq_copies (s : State) (u : Nat) (q : Seq) : (s.setSeq u q).copies = s.copies := rfl
@[simp] theorem State.setSeq_reqs (s : State) (u : Nat) (q : Seq) : (s.setSeq u q).reqs = s.reqs := rfl
@[simp] theorem State.setSeq_inbox (s : State) (u : Nat) (q : Seq) : (s.setSeq u q).inbox = s.inbox := rfl
@[simp] theorem State.setSeq_hgOps (s : State) (u : Nat) (q : Seq) : (s.setSeq u q).hgOps = s.hgOps := rfl
@[simp] theorem State.setSeq_appends (s : State) (u : Nat) (q : Seq) : (s.setSeq u q).appends = s.appends := rfl
@[simp] theorem State.setSeq_faults (s : State) (u : Nat) (q : Seq) : (s.setSeq u q).faults = s.faults := rfl
@[simp] theorem State.setSeq_entries (s : State) (u : Nat) (q : Seq) : (s.setSeq u q).entries = s.entries := rfl
@[simp] theorem State.setSeq_commands (s : State) (u : Nat) (q : Seq) : (s.setSeq u q).commands = s.commands := rfl
@[simp] theorem State.setSeq_copybooks (s : State) (u : Nat) (q : Seq) : (s.setSeq u q).copybooks = s.copybooks := rfl
@[simp] theorem State.setSeq_recordings (s : State) (u : Nat) (q : Seq) : (s.setSeq u q).recordings = s.recordings := rfl
@[simp] theorem State.setSeq_host (s : State) (u : Nat) (q : Seq) : (s.setSeq u q).host = s.host := rfl
@[simp] theorem State.setSeq_engines (s : State) (u : Nat) (q : Seq) : (s.setSeq u q).engines = s.engines := rfl
@[simp] theorem State.setSeq_flitTx (s : State) (u : Nat) (q : Seq) : (s.setSeq u q).flitTx = s.flitTx := rfl
@[simp] theorem State.setSeq_flitRx (s : State) (u : Nat) (q : Seq) : (s.setSeq u q).flitRx = s.flitRx := rfl
@[simp] theorem State.setSeq_extends3 (s : State) (u : Nat) (q : Seq) : (s.setSeq u q).extends3 = s.extends3 := rfl
@[simp] theorem State.setSeq_extends4 (s : State) (u : Nat) (q : Seq) : (s.setSeq u q).extends4 = s.extends4 := rfl
@[simp] theorem State.setSeq_booted (s : State) (u : Nat) (q : Seq) : (s.setSeq u q).booted = s.booted := rfl
@[simp] theorem State.setSeq_sparesUsed (s : State) (u : Nat) (q : Seq) : (s.setSeq u q).sparesUsed = s.sparesUsed := rfl
@[simp] theorem State.setSeq_modreg (s : State) (u : Nat) (q : Seq) : (s.setSeq u q).modreg = s.modreg := rfl
@[simp] theorem State.setSeq_power (s : State) (u : Nat) (q : Seq) : (s.setSeq u q).power = s.power := rfl
@[simp] theorem State.setSeq_cmdWidx (s : State) (u : Nat) (q : Seq) : (s.setSeq u q).cmdWidx = s.cmdWidx := rfl
@[simp] theorem State.setSeq_cmdRidx (s : State) (u : Nat) (q : Seq) : (s.setSeq u q).cmdRidx = s.cmdRidx := rfl
@[simp] theorem State.setSeq_now (s : State) (u : Nat) (q : Seq) : (s.setSeq u q).now = s.now := rfl
@[simp] theorem State.setSeq_nextId (s : State) (u : Nat) (q : Seq) : (s.setSeq u q).nextId = s.nextId := rfl
@[simp] theorem State.setSeq_nextKey (s : State) (u : Nat) (q : Seq) : (s.setSeq u q).nextKey = s.nextKey := rfl
@[simp] theorem State.setSeq_freeCount (s : State) (u : Nat) (q : Seq) : (s.setSeq u q).freeCount = s.freeCount := rfl
@[simp] theorem State.setSeq_agenda (s : State) (u : Nat) (q : Seq) : (s.setSeq u q).agenda = s.agenda := rfl
@[simp] theorem State.setSeq_devTurn (s : State) (u : Nat) (q : Seq) : (s.setSeq u q).devTurn = s.devTurn := rfl
@[simp] theorem State.setSeq_devCount (s : State) (u : Nat) (q : Seq) : (s.setSeq u q).devCount = s.devCount := rfl
@[simp] theorem State.setSeq_curUnit (s : State) (u : Nat) (q : Seq) : (s.setSeq u q).curUnit = s.curUnit := rfl
@[simp] theorem State.setSeq_latent (s : State) (u : Nat) (q : Seq) : (s.setSeq u q).latent = s.latent := rfl
@[simp] theorem State.setSeq_unfixable (s : State) (u : Nat) (q : Seq) : (s.setSeq u q).unfixable = s.unfixable := rfl
@[simp] theorem State.setSeq_corrected (s : State) (u : Nat) (q : Seq) : (s.setSeq u q).corrected = s.corrected := rfl
@[simp] theorem State.setSeq_output (s : State) (u : Nat) (q : Seq) : (s.setSeq u q).output = s.output := rfl

/-! ### State.updThread -/

@[simp] theorem State.updThread_dieTlb (s : State) (u t : Nat) (f : Thread → Thread) : (s.updThread u t f).dieTlb = s.dieTlb := rfl
@[simp] theorem State.updThread_cores (s : State) (u t : Nat) (f : Thread → Thread) : (s.updThread u t f).cores = s.cores := rfl
@[simp] theorem State.updThread_mem (s : State) (u t : Nat) (f : Thread → Thread) : (s.updThread u t f).mem = s.mem := rfl
@[simp] theorem State.updThread_lines (s : State) (u t : Nat) (f : Thread → Thread) : (s.updThread u t f).lines = s.lines := rfl
@[simp] theorem State.updThread_slices (s : State) (u t : Nat) (f : Thread → Thread) : (s.updThread u t f).slices = s.slices := rfl
@[simp] theorem State.updThread_channels (s : State) (u t : Nat) (f : Thread → Thread) : (s.updThread u t f).channels = s.channels := rfl
@[simp] theorem State.updThread_parts (s : State) (u t : Nat) (f : Thread → Thread) : (s.updThread u t f).parts = s.parts := rfl
@[simp] theorem State.updThread_keys (s : State) (u t : Nat) (f : Thread → Thread) : (s.updThread u t f).keys = s.keys := rfl
@[simp] theorem State.updThread_keyValues (s : State) (u t : Nat) (f : Thread → Thread) : (s.updThread u t f).keyValues = s.keyValues := rfl
@[simp] theorem State.updThread_islands (s : State) (u t : Nat) (f : Thread → Thread) : (s.updThread u t f).islands = s.islands := rfl
@[simp] theorem State.updThread_portsDown (s : State) (u t : Nat) (f : Thread → Thread) : (s.updThread u t f).portsDown = s.portsDown := rfl
@[simp] theorem State.updThread_launchQ (s : State) (u t : Nat) (f : Thread → Thread) : (s.updThread u t f).launchQ = s.launchQ := rfl
@[simp] theorem State.updThread_copyQ (s : State) (u t : Nat) (f : Thread → Thread) : (s.updThread u t f).copyQ = s.copyQ := rfl
@[simp] theorem State.updThread_taskQ (s : State) (u t : Nat) (f : Thread → Thread) : (s.updThread u t f).taskQ = s.taskQ := rfl
@[simp] theorem State.updThread_launches (s : State) (u t : Nat) (f : Thread → Thread) : (s.updThread u t f).launches = s.launches := rfl
@[simp] theorem State.updThread_gangs (s : State) (u t : Nat) (f : Thread → Thread) : (s.updThread u t f).gangs = s.gangs := rfl
@[simp] theorem State.updThread_saved (s : State) (u t : Nat) (f : Thread → Thread) : (s.updThread u t f).saved = s.saved := rfl
@[simp] theorem State.updThread_tasks (s : State) (u t : Nat) (f : Thread → Thread) : (s.updThread u t f).tasks = s.tasks := rfl
@[simp] theorem State.updThread_copies (s : State) (u t : Nat) (f : Thread → Thread) : (s.updThread u t f).copies = s.copies := rfl
@[simp] theorem State.updThread_reqs (s : State) (u t : Nat) (f : Thread → Thread) : (s.updThread u t f).reqs = s.reqs := rfl
@[simp] theorem State.updThread_inbox (s : State) (u t : Nat) (f : Thread → Thread) : (s.updThread u t f).inbox = s.inbox := rfl
@[simp] theorem State.updThread_hgOps (s : State) (u t : Nat) (f : Thread → Thread) : (s.updThread u t f).hgOps = s.hgOps := rfl
@[simp] theorem State.updThread_appends (s : State) (u t : Nat) (f : Thread → Thread) : (s.updThread u t f).appends = s.appends := rfl
@[simp] theorem State.updThread_faults (s : State) (u t : Nat) (f : Thread → Thread) : (s.updThread u t f).faults = s.faults := rfl
@[simp] theorem State.updThread_entries (s : State) (u t : Nat) (f : Thread → Thread) : (s.updThread u t f).entries = s.entries := rfl
@[simp] theorem State.updThread_commands (s : State) (u t : Nat) (f : Thread → Thread) : (s.updThread u t f).commands = s.commands := rfl
@[simp] theorem State.updThread_copybooks (s : State) (u t : Nat) (f : Thread → Thread) : (s.updThread u t f).copybooks = s.copybooks := rfl
@[simp] theorem State.updThread_recordings (s : State) (u t : Nat) (f : Thread → Thread) : (s.updThread u t f).recordings = s.recordings := rfl
@[simp] theorem State.updThread_host (s : State) (u t : Nat) (f : Thread → Thread) : (s.updThread u t f).host = s.host := rfl
@[simp] theorem State.updThread_engines (s : State) (u t : Nat) (f : Thread → Thread) : (s.updThread u t f).engines = s.engines := rfl
@[simp] theorem State.updThread_flitTx (s : State) (u t : Nat) (f : Thread → Thread) : (s.updThread u t f).flitTx = s.flitTx := rfl
@[simp] theorem State.updThread_flitRx (s : State) (u t : Nat) (f : Thread → Thread) : (s.updThread u t f).flitRx = s.flitRx := rfl
@[simp] theorem State.updThread_extends3 (s : State) (u t : Nat) (f : Thread → Thread) : (s.updThread u t f).extends3 = s.extends3 := rfl
@[simp] theorem State.updThread_extends4 (s : State) (u t : Nat) (f : Thread → Thread) : (s.updThread u t f).extends4 = s.extends4 := rfl
@[simp] theorem State.updThread_booted (s : State) (u t : Nat) (f : Thread → Thread) : (s.updThread u t f).booted = s.booted := rfl
@[simp] theorem State.updThread_sparesUsed (s : State) (u t : Nat) (f : Thread → Thread) : (s.updThread u t f).sparesUsed = s.sparesUsed := rfl
@[simp] theorem State.updThread_modreg (s : State) (u t : Nat) (f : Thread → Thread) : (s.updThread u t f).modreg = s.modreg := rfl
@[simp] theorem State.updThread_power (s : State) (u t : Nat) (f : Thread → Thread) : (s.updThread u t f).power = s.power := rfl
@[simp] theorem State.updThread_cmdWidx (s : State) (u t : Nat) (f : Thread → Thread) : (s.updThread u t f).cmdWidx = s.cmdWidx := rfl
@[simp] theorem State.updThread_cmdRidx (s : State) (u t : Nat) (f : Thread → Thread) : (s.updThread u t f).cmdRidx = s.cmdRidx := rfl
@[simp] theorem State.updThread_now (s : State) (u t : Nat) (f : Thread → Thread) : (s.updThread u t f).now = s.now := rfl
@[simp] theorem State.updThread_nextId (s : State) (u t : Nat) (f : Thread → Thread) : (s.updThread u t f).nextId = s.nextId := rfl
@[simp] theorem State.updThread_nextKey (s : State) (u t : Nat) (f : Thread → Thread) : (s.updThread u t f).nextKey = s.nextKey := rfl
@[simp] theorem State.updThread_freeCount (s : State) (u t : Nat) (f : Thread → Thread) : (s.updThread u t f).freeCount = s.freeCount := rfl
@[simp] theorem State.updThread_agenda (s : State) (u t : Nat) (f : Thread → Thread) : (s.updThread u t f).agenda = s.agenda := rfl
@[simp] theorem State.updThread_devTurn (s : State) (u t : Nat) (f : Thread → Thread) : (s.updThread u t f).devTurn = s.devTurn := rfl
@[simp] theorem State.updThread_devCount (s : State) (u t : Nat) (f : Thread → Thread) : (s.updThread u t f).devCount = s.devCount := rfl
@[simp] theorem State.updThread_curUnit (s : State) (u t : Nat) (f : Thread → Thread) : (s.updThread u t f).curUnit = s.curUnit := rfl
@[simp] theorem State.updThread_latent (s : State) (u t : Nat) (f : Thread → Thread) : (s.updThread u t f).latent = s.latent := rfl
@[simp] theorem State.updThread_unfixable (s : State) (u t : Nat) (f : Thread → Thread) : (s.updThread u t f).unfixable = s.unfixable := rfl
@[simp] theorem State.updThread_corrected (s : State) (u t : Nat) (f : Thread → Thread) : (s.updThread u t f).corrected = s.corrected := rfl
@[simp] theorem State.updThread_output (s : State) (u t : Nat) (f : Thread → Thread) : (s.updThread u t f).output = s.output := rfl

/-! ### State.setThread -/

@[simp] theorem State.setThread_dieTlb (s : State) (u t : Nat) (th : Thread) : (s.setThread u t th).dieTlb = s.dieTlb := rfl
@[simp] theorem State.setThread_cores (s : State) (u t : Nat) (th : Thread) : (s.setThread u t th).cores = s.cores := rfl
@[simp] theorem State.setThread_mem (s : State) (u t : Nat) (th : Thread) : (s.setThread u t th).mem = s.mem := rfl
@[simp] theorem State.setThread_lines (s : State) (u t : Nat) (th : Thread) : (s.setThread u t th).lines = s.lines := rfl
@[simp] theorem State.setThread_slices (s : State) (u t : Nat) (th : Thread) : (s.setThread u t th).slices = s.slices := rfl
@[simp] theorem State.setThread_channels (s : State) (u t : Nat) (th : Thread) : (s.setThread u t th).channels = s.channels := rfl
@[simp] theorem State.setThread_parts (s : State) (u t : Nat) (th : Thread) : (s.setThread u t th).parts = s.parts := rfl
@[simp] theorem State.setThread_keys (s : State) (u t : Nat) (th : Thread) : (s.setThread u t th).keys = s.keys := rfl
@[simp] theorem State.setThread_keyValues (s : State) (u t : Nat) (th : Thread) : (s.setThread u t th).keyValues = s.keyValues := rfl
@[simp] theorem State.setThread_islands (s : State) (u t : Nat) (th : Thread) : (s.setThread u t th).islands = s.islands := rfl
@[simp] theorem State.setThread_portsDown (s : State) (u t : Nat) (th : Thread) : (s.setThread u t th).portsDown = s.portsDown := rfl
@[simp] theorem State.setThread_launchQ (s : State) (u t : Nat) (th : Thread) : (s.setThread u t th).launchQ = s.launchQ := rfl
@[simp] theorem State.setThread_copyQ (s : State) (u t : Nat) (th : Thread) : (s.setThread u t th).copyQ = s.copyQ := rfl
@[simp] theorem State.setThread_taskQ (s : State) (u t : Nat) (th : Thread) : (s.setThread u t th).taskQ = s.taskQ := rfl
@[simp] theorem State.setThread_launches (s : State) (u t : Nat) (th : Thread) : (s.setThread u t th).launches = s.launches := rfl
@[simp] theorem State.setThread_gangs (s : State) (u t : Nat) (th : Thread) : (s.setThread u t th).gangs = s.gangs := rfl
@[simp] theorem State.setThread_saved (s : State) (u t : Nat) (th : Thread) : (s.setThread u t th).saved = s.saved := rfl
@[simp] theorem State.setThread_tasks (s : State) (u t : Nat) (th : Thread) : (s.setThread u t th).tasks = s.tasks := rfl
@[simp] theorem State.setThread_copies (s : State) (u t : Nat) (th : Thread) : (s.setThread u t th).copies = s.copies := rfl
@[simp] theorem State.setThread_reqs (s : State) (u t : Nat) (th : Thread) : (s.setThread u t th).reqs = s.reqs := rfl
@[simp] theorem State.setThread_inbox (s : State) (u t : Nat) (th : Thread) : (s.setThread u t th).inbox = s.inbox := rfl
@[simp] theorem State.setThread_hgOps (s : State) (u t : Nat) (th : Thread) : (s.setThread u t th).hgOps = s.hgOps := rfl
@[simp] theorem State.setThread_appends (s : State) (u t : Nat) (th : Thread) : (s.setThread u t th).appends = s.appends := rfl
@[simp] theorem State.setThread_faults (s : State) (u t : Nat) (th : Thread) : (s.setThread u t th).faults = s.faults := rfl
@[simp] theorem State.setThread_entries (s : State) (u t : Nat) (th : Thread) : (s.setThread u t th).entries = s.entries := rfl
@[simp] theorem State.setThread_commands (s : State) (u t : Nat) (th : Thread) : (s.setThread u t th).commands = s.commands := rfl
@[simp] theorem State.setThread_copybooks (s : State) (u t : Nat) (th : Thread) : (s.setThread u t th).copybooks = s.copybooks := rfl
@[simp] theorem State.setThread_recordings (s : State) (u t : Nat) (th : Thread) : (s.setThread u t th).recordings = s.recordings := rfl
@[simp] theorem State.setThread_host (s : State) (u t : Nat) (th : Thread) : (s.setThread u t th).host = s.host := rfl
@[simp] theorem State.setThread_engines (s : State) (u t : Nat) (th : Thread) : (s.setThread u t th).engines = s.engines := rfl
@[simp] theorem State.setThread_flitTx (s : State) (u t : Nat) (th : Thread) : (s.setThread u t th).flitTx = s.flitTx := rfl
@[simp] theorem State.setThread_flitRx (s : State) (u t : Nat) (th : Thread) : (s.setThread u t th).flitRx = s.flitRx := rfl
@[simp] theorem State.setThread_extends3 (s : State) (u t : Nat) (th : Thread) : (s.setThread u t th).extends3 = s.extends3 := rfl
@[simp] theorem State.setThread_extends4 (s : State) (u t : Nat) (th : Thread) : (s.setThread u t th).extends4 = s.extends4 := rfl
@[simp] theorem State.setThread_booted (s : State) (u t : Nat) (th : Thread) : (s.setThread u t th).booted = s.booted := rfl
@[simp] theorem State.setThread_sparesUsed (s : State) (u t : Nat) (th : Thread) : (s.setThread u t th).sparesUsed = s.sparesUsed := rfl
@[simp] theorem State.setThread_modreg (s : State) (u t : Nat) (th : Thread) : (s.setThread u t th).modreg = s.modreg := rfl
@[simp] theorem State.setThread_power (s : State) (u t : Nat) (th : Thread) : (s.setThread u t th).power = s.power := rfl
@[simp] theorem State.setThread_cmdWidx (s : State) (u t : Nat) (th : Thread) : (s.setThread u t th).cmdWidx = s.cmdWidx := rfl
@[simp] theorem State.setThread_cmdRidx (s : State) (u t : Nat) (th : Thread) : (s.setThread u t th).cmdRidx = s.cmdRidx := rfl
@[simp] theorem State.setThread_now (s : State) (u t : Nat) (th : Thread) : (s.setThread u t th).now = s.now := rfl
@[simp] theorem State.setThread_nextId (s : State) (u t : Nat) (th : Thread) : (s.setThread u t th).nextId = s.nextId := rfl
@[simp] theorem State.setThread_nextKey (s : State) (u t : Nat) (th : Thread) : (s.setThread u t th).nextKey = s.nextKey := rfl
@[simp] theorem State.setThread_freeCount (s : State) (u t : Nat) (th : Thread) : (s.setThread u t th).freeCount = s.freeCount := rfl
@[simp] theorem State.setThread_agenda (s : State) (u t : Nat) (th : Thread) : (s.setThread u t th).agenda = s.agenda := rfl
@[simp] theorem State.setThread_devTurn (s : State) (u t : Nat) (th : Thread) : (s.setThread u t th).devTurn = s.devTurn := rfl
@[simp] theorem State.setThread_devCount (s : State) (u t : Nat) (th : Thread) : (s.setThread u t th).devCount = s.devCount := rfl
@[simp] theorem State.setThread_curUnit (s : State) (u t : Nat) (th : Thread) : (s.setThread u t th).curUnit = s.curUnit := rfl
@[simp] theorem State.setThread_latent (s : State) (u t : Nat) (th : Thread) : (s.setThread u t th).latent = s.latent := rfl
@[simp] theorem State.setThread_unfixable (s : State) (u t : Nat) (th : Thread) : (s.setThread u t th).unfixable = s.unfixable := rfl
@[simp] theorem State.setThread_corrected (s : State) (u t : Nat) (th : Thread) : (s.setThread u t th).corrected = s.corrected := rfl
@[simp] theorem State.setThread_output (s : State) (u t : Nat) (th : Thread) : (s.setThread u t th).output = s.output := rfl

/-! ### State.setCore -/

@[simp] theorem State.setCore_seqs (s : State) (n : Nat) (c : CoreArr) : (s.setCore n c).seqs = s.seqs := rfl
@[simp] theorem State.setCore_dieTlb (s : State) (n : Nat) (c : CoreArr) : (s.setCore n c).dieTlb = s.dieTlb := rfl
@[simp] theorem State.setCore_mem (s : State) (n : Nat) (c : CoreArr) : (s.setCore n c).mem = s.mem := rfl
@[simp] theorem State.setCore_lines (s : State) (n : Nat) (c : CoreArr) : (s.setCore n c).lines = s.lines := rfl
@[simp] theorem State.setCore_slices (s : State) (n : Nat) (c : CoreArr) : (s.setCore n c).slices = s.slices := rfl
@[simp] theorem State.setCore_channels (s : State) (n : Nat) (c : CoreArr) : (s.setCore n c).channels = s.channels := rfl
@[simp] theorem State.setCore_parts (s : State) (n : Nat) (c : CoreArr) : (s.setCore n c).parts = s.parts := rfl
@[simp] theorem State.setCore_keys (s : State) (n : Nat) (c : CoreArr) : (s.setCore n c).keys = s.keys := rfl
@[simp] theorem State.setCore_keyValues (s : State) (n : Nat) (c : CoreArr) : (s.setCore n c).keyValues = s.keyValues := rfl
@[simp] theorem State.setCore_islands (s : State) (n : Nat) (c : CoreArr) : (s.setCore n c).islands = s.islands := rfl
@[simp] theorem State.setCore_portsDown (s : State) (n : Nat) (c : CoreArr) : (s.setCore n c).portsDown = s.portsDown := rfl
@[simp] theorem State.setCore_launchQ (s : State) (n : Nat) (c : CoreArr) : (s.setCore n c).launchQ = s.launchQ := rfl
@[simp] theorem State.setCore_copyQ (s : State) (n : Nat) (c : CoreArr) : (s.setCore n c).copyQ = s.copyQ := rfl
@[simp] theorem State.setCore_taskQ (s : State) (n : Nat) (c : CoreArr) : (s.setCore n c).taskQ = s.taskQ := rfl
@[simp] theorem State.setCore_launches (s : State) (n : Nat) (c : CoreArr) : (s.setCore n c).launches = s.launches := rfl
@[simp] theorem State.setCore_gangs (s : State) (n : Nat) (c : CoreArr) : (s.setCore n c).gangs = s.gangs := rfl
@[simp] theorem State.setCore_saved (s : State) (n : Nat) (c : CoreArr) : (s.setCore n c).saved = s.saved := rfl
@[simp] theorem State.setCore_tasks (s : State) (n : Nat) (c : CoreArr) : (s.setCore n c).tasks = s.tasks := rfl
@[simp] theorem State.setCore_copies (s : State) (n : Nat) (c : CoreArr) : (s.setCore n c).copies = s.copies := rfl
@[simp] theorem State.setCore_reqs (s : State) (n : Nat) (c : CoreArr) : (s.setCore n c).reqs = s.reqs := rfl
@[simp] theorem State.setCore_inbox (s : State) (n : Nat) (c : CoreArr) : (s.setCore n c).inbox = s.inbox := rfl
@[simp] theorem State.setCore_hgOps (s : State) (n : Nat) (c : CoreArr) : (s.setCore n c).hgOps = s.hgOps := rfl
@[simp] theorem State.setCore_appends (s : State) (n : Nat) (c : CoreArr) : (s.setCore n c).appends = s.appends := rfl
@[simp] theorem State.setCore_faults (s : State) (n : Nat) (c : CoreArr) : (s.setCore n c).faults = s.faults := rfl
@[simp] theorem State.setCore_entries (s : State) (n : Nat) (c : CoreArr) : (s.setCore n c).entries = s.entries := rfl
@[simp] theorem State.setCore_commands (s : State) (n : Nat) (c : CoreArr) : (s.setCore n c).commands = s.commands := rfl
@[simp] theorem State.setCore_copybooks (s : State) (n : Nat) (c : CoreArr) : (s.setCore n c).copybooks = s.copybooks := rfl
@[simp] theorem State.setCore_recordings (s : State) (n : Nat) (c : CoreArr) : (s.setCore n c).recordings = s.recordings := rfl
@[simp] theorem State.setCore_host (s : State) (n : Nat) (c : CoreArr) : (s.setCore n c).host = s.host := rfl
@[simp] theorem State.setCore_engines (s : State) (n : Nat) (c : CoreArr) : (s.setCore n c).engines = s.engines := rfl
@[simp] theorem State.setCore_flitTx (s : State) (n : Nat) (c : CoreArr) : (s.setCore n c).flitTx = s.flitTx := rfl
@[simp] theorem State.setCore_flitRx (s : State) (n : Nat) (c : CoreArr) : (s.setCore n c).flitRx = s.flitRx := rfl
@[simp] theorem State.setCore_extends3 (s : State) (n : Nat) (c : CoreArr) : (s.setCore n c).extends3 = s.extends3 := rfl
@[simp] theorem State.setCore_extends4 (s : State) (n : Nat) (c : CoreArr) : (s.setCore n c).extends4 = s.extends4 := rfl
@[simp] theorem State.setCore_booted (s : State) (n : Nat) (c : CoreArr) : (s.setCore n c).booted = s.booted := rfl
@[simp] theorem State.setCore_sparesUsed (s : State) (n : Nat) (c : CoreArr) : (s.setCore n c).sparesUsed = s.sparesUsed := rfl
@[simp] theorem State.setCore_modreg (s : State) (n : Nat) (c : CoreArr) : (s.setCore n c).modreg = s.modreg := rfl
@[simp] theorem State.setCore_power (s : State) (n : Nat) (c : CoreArr) : (s.setCore n c).power = s.power := rfl
@[simp] theorem State.setCore_cmdWidx (s : State) (n : Nat) (c : CoreArr) : (s.setCore n c).cmdWidx = s.cmdWidx := rfl
@[simp] theorem State.setCore_cmdRidx (s : State) (n : Nat) (c : CoreArr) : (s.setCore n c).cmdRidx = s.cmdRidx := rfl
@[simp] theorem State.setCore_now (s : State) (n : Nat) (c : CoreArr) : (s.setCore n c).now = s.now := rfl
@[simp] theorem State.setCore_nextId (s : State) (n : Nat) (c : CoreArr) : (s.setCore n c).nextId = s.nextId := rfl
@[simp] theorem State.setCore_nextKey (s : State) (n : Nat) (c : CoreArr) : (s.setCore n c).nextKey = s.nextKey := rfl
@[simp] theorem State.setCore_freeCount (s : State) (n : Nat) (c : CoreArr) : (s.setCore n c).freeCount = s.freeCount := rfl
@[simp] theorem State.setCore_agenda (s : State) (n : Nat) (c : CoreArr) : (s.setCore n c).agenda = s.agenda := rfl
@[simp] theorem State.setCore_devTurn (s : State) (n : Nat) (c : CoreArr) : (s.setCore n c).devTurn = s.devTurn := rfl
@[simp] theorem State.setCore_devCount (s : State) (n : Nat) (c : CoreArr) : (s.setCore n c).devCount = s.devCount := rfl
@[simp] theorem State.setCore_curUnit (s : State) (n : Nat) (c : CoreArr) : (s.setCore n c).curUnit = s.curUnit := rfl
@[simp] theorem State.setCore_latent (s : State) (n : Nat) (c : CoreArr) : (s.setCore n c).latent = s.latent := rfl
@[simp] theorem State.setCore_unfixable (s : State) (n : Nat) (c : CoreArr) : (s.setCore n c).unfixable = s.unfixable := rfl
@[simp] theorem State.setCore_corrected (s : State) (n : Nat) (c : CoreArr) : (s.setCore n c).corrected = s.corrected := rfl
@[simp] theorem State.setCore_output (s : State) (n : Nat) (c : CoreArr) : (s.setCore n c).output = s.output := rfl

/-! ### State.updCore -/

@[simp] theorem State.updCore_seqs (s : State) (n : Nat) (f : CoreArr → CoreArr) : (s.updCore n f).seqs = s.seqs := rfl
@[simp] theorem State.updCore_dieTlb (s : State) (n : Nat) (f : CoreArr → CoreArr) : (s.updCore n f).dieTlb = s.dieTlb := rfl
@[simp] theorem State.updCore_mem (s : State) (n : Nat) (f : CoreArr → CoreArr) : (s.updCore n f).mem = s.mem := rfl
@[simp] theorem State.updCore_lines (s : State) (n : Nat) (f : CoreArr → CoreArr) : (s.updCore n f).lines = s.lines := rfl
@[simp] theorem State.updCore_slices (s : State) (n : Nat) (f : CoreArr → CoreArr) : (s.updCore n f).slices = s.slices := rfl
@[simp] theorem State.updCore_channels (s : State) (n : Nat) (f : CoreArr → CoreArr) : (s.updCore n f).channels = s.channels := rfl
@[simp] theorem State.updCore_parts (s : State) (n : Nat) (f : CoreArr → CoreArr) : (s.updCore n f).parts = s.parts := rfl
@[simp] theorem State.updCore_keys (s : State) (n : Nat) (f : CoreArr → CoreArr) : (s.updCore n f).keys = s.keys := rfl
@[simp] theorem State.updCore_keyValues (s : State) (n : Nat) (f : CoreArr → CoreArr) : (s.updCore n f).keyValues = s.keyValues := rfl
@[simp] theorem State.updCore_islands (s : State) (n : Nat) (f : CoreArr → CoreArr) : (s.updCore n f).islands = s.islands := rfl
@[simp] theorem State.updCore_portsDown (s : State) (n : Nat) (f : CoreArr → CoreArr) : (s.updCore n f).portsDown = s.portsDown := rfl
@[simp] theorem State.updCore_launchQ (s : State) (n : Nat) (f : CoreArr → CoreArr) : (s.updCore n f).launchQ = s.launchQ := rfl
@[simp] theorem State.updCore_copyQ (s : State) (n : Nat) (f : CoreArr → CoreArr) : (s.updCore n f).copyQ = s.copyQ := rfl
@[simp] theorem State.updCore_taskQ (s : State) (n : Nat) (f : CoreArr → CoreArr) : (s.updCore n f).taskQ = s.taskQ := rfl
@[simp] theorem State.updCore_launches (s : State) (n : Nat) (f : CoreArr → CoreArr) : (s.updCore n f).launches = s.launches := rfl
@[simp] theorem State.updCore_gangs (s : State) (n : Nat) (f : CoreArr → CoreArr) : (s.updCore n f).gangs = s.gangs := rfl
@[simp] theorem State.updCore_saved (s : State) (n : Nat) (f : CoreArr → CoreArr) : (s.updCore n f).saved = s.saved := rfl
@[simp] theorem State.updCore_tasks (s : State) (n : Nat) (f : CoreArr → CoreArr) : (s.updCore n f).tasks = s.tasks := rfl
@[simp] theorem State.updCore_copies (s : State) (n : Nat) (f : CoreArr → CoreArr) : (s.updCore n f).copies = s.copies := rfl
@[simp] theorem State.updCore_reqs (s : State) (n : Nat) (f : CoreArr → CoreArr) : (s.updCore n f).reqs = s.reqs := rfl
@[simp] theorem State.updCore_inbox (s : State) (n : Nat) (f : CoreArr → CoreArr) : (s.updCore n f).inbox = s.inbox := rfl
@[simp] theorem State.updCore_hgOps (s : State) (n : Nat) (f : CoreArr → CoreArr) : (s.updCore n f).hgOps = s.hgOps := rfl
@[simp] theorem State.updCore_appends (s : State) (n : Nat) (f : CoreArr → CoreArr) : (s.updCore n f).appends = s.appends := rfl
@[simp] theorem State.updCore_faults (s : State) (n : Nat) (f : CoreArr → CoreArr) : (s.updCore n f).faults = s.faults := rfl
@[simp] theorem State.updCore_entries (s : State) (n : Nat) (f : CoreArr → CoreArr) : (s.updCore n f).entries = s.entries := rfl
@[simp] theorem State.updCore_commands (s : State) (n : Nat) (f : CoreArr → CoreArr) : (s.updCore n f).commands = s.commands := rfl
@[simp] theorem State.updCore_copybooks (s : State) (n : Nat) (f : CoreArr → CoreArr) : (s.updCore n f).copybooks = s.copybooks := rfl
@[simp] theorem State.updCore_recordings (s : State) (n : Nat) (f : CoreArr → CoreArr) : (s.updCore n f).recordings = s.recordings := rfl
@[simp] theorem State.updCore_host (s : State) (n : Nat) (f : CoreArr → CoreArr) : (s.updCore n f).host = s.host := rfl
@[simp] theorem State.updCore_engines (s : State) (n : Nat) (f : CoreArr → CoreArr) : (s.updCore n f).engines = s.engines := rfl
@[simp] theorem State.updCore_flitTx (s : State) (n : Nat) (f : CoreArr → CoreArr) : (s.updCore n f).flitTx = s.flitTx := rfl
@[simp] theorem State.updCore_flitRx (s : State) (n : Nat) (f : CoreArr → CoreArr) : (s.updCore n f).flitRx = s.flitRx := rfl
@[simp] theorem State.updCore_extends3 (s : State) (n : Nat) (f : CoreArr → CoreArr) : (s.updCore n f).extends3 = s.extends3 := rfl
@[simp] theorem State.updCore_extends4 (s : State) (n : Nat) (f : CoreArr → CoreArr) : (s.updCore n f).extends4 = s.extends4 := rfl
@[simp] theorem State.updCore_booted (s : State) (n : Nat) (f : CoreArr → CoreArr) : (s.updCore n f).booted = s.booted := rfl
@[simp] theorem State.updCore_sparesUsed (s : State) (n : Nat) (f : CoreArr → CoreArr) : (s.updCore n f).sparesUsed = s.sparesUsed := rfl
@[simp] theorem State.updCore_modreg (s : State) (n : Nat) (f : CoreArr → CoreArr) : (s.updCore n f).modreg = s.modreg := rfl
@[simp] theorem State.updCore_power (s : State) (n : Nat) (f : CoreArr → CoreArr) : (s.updCore n f).power = s.power := rfl
@[simp] theorem State.updCore_cmdWidx (s : State) (n : Nat) (f : CoreArr → CoreArr) : (s.updCore n f).cmdWidx = s.cmdWidx := rfl
@[simp] theorem State.updCore_cmdRidx (s : State) (n : Nat) (f : CoreArr → CoreArr) : (s.updCore n f).cmdRidx = s.cmdRidx := rfl
@[simp] theorem State.updCore_now (s : State) (n : Nat) (f : CoreArr → CoreArr) : (s.updCore n f).now = s.now := rfl
@[simp] theorem State.updCore_nextId (s : State) (n : Nat) (f : CoreArr → CoreArr) : (s.updCore n f).nextId = s.nextId := rfl
@[simp] theorem State.updCore_nextKey (s : State) (n : Nat) (f : CoreArr → CoreArr) : (s.updCore n f).nextKey = s.nextKey := rfl
@[simp] theorem State.updCore_freeCount (s : State) (n : Nat) (f : CoreArr → CoreArr) : (s.updCore n f).freeCount = s.freeCount := rfl
@[simp] theorem State.updCore_agenda (s : State) (n : Nat) (f : CoreArr → CoreArr) : (s.updCore n f).agenda = s.agenda := rfl
@[simp] theorem State.updCore_devTurn (s : State) (n : Nat) (f : CoreArr → CoreArr) : (s.updCore n f).devTurn = s.devTurn := rfl
@[simp] theorem State.updCore_devCount (s : State) (n : Nat) (f : CoreArr → CoreArr) : (s.updCore n f).devCount = s.devCount := rfl
@[simp] theorem State.updCore_curUnit (s : State) (n : Nat) (f : CoreArr → CoreArr) : (s.updCore n f).curUnit = s.curUnit := rfl
@[simp] theorem State.updCore_latent (s : State) (n : Nat) (f : CoreArr → CoreArr) : (s.updCore n f).latent = s.latent := rfl
@[simp] theorem State.updCore_unfixable (s : State) (n : Nat) (f : CoreArr → CoreArr) : (s.updCore n f).unfixable = s.unfixable := rfl
@[simp] theorem State.updCore_corrected (s : State) (n : Nat) (f : CoreArr → CoreArr) : (s.updCore n f).corrected = s.corrected := rfl
@[simp] theorem State.updCore_output (s : State) (n : Nat) (f : CoreArr → CoreArr) : (s.updCore n f).output = s.output := rfl

/-! ### State.setPart -/

@[simp] theorem State.setPart_seqs (s : State) (p : Nat) (v : Partition) : (s.setPart p v).seqs = s.seqs := rfl
@[simp] theorem State.setPart_dieTlb (s : State) (p : Nat) (v : Partition) : (s.setPart p v).dieTlb = s.dieTlb := rfl
@[simp] theorem State.setPart_cores (s : State) (p : Nat) (v : Partition) : (s.setPart p v).cores = s.cores := rfl
@[simp] theorem State.setPart_mem (s : State) (p : Nat) (v : Partition) : (s.setPart p v).mem = s.mem := rfl
@[simp] theorem State.setPart_lines (s : State) (p : Nat) (v : Partition) : (s.setPart p v).lines = s.lines := rfl
@[simp] theorem State.setPart_slices (s : State) (p : Nat) (v : Partition) : (s.setPart p v).slices = s.slices := rfl
@[simp] theorem State.setPart_channels (s : State) (p : Nat) (v : Partition) : (s.setPart p v).channels = s.channels := rfl
@[simp] theorem State.setPart_keys (s : State) (p : Nat) (v : Partition) : (s.setPart p v).keys = s.keys := rfl
@[simp] theorem State.setPart_keyValues (s : State) (p : Nat) (v : Partition) : (s.setPart p v).keyValues = s.keyValues := rfl
@[simp] theorem State.setPart_islands (s : State) (p : Nat) (v : Partition) : (s.setPart p v).islands = s.islands := rfl
@[simp] theorem State.setPart_portsDown (s : State) (p : Nat) (v : Partition) : (s.setPart p v).portsDown = s.portsDown := rfl
@[simp] theorem State.setPart_launchQ (s : State) (p : Nat) (v : Partition) : (s.setPart p v).launchQ = s.launchQ := rfl
@[simp] theorem State.setPart_copyQ (s : State) (p : Nat) (v : Partition) : (s.setPart p v).copyQ = s.copyQ := rfl
@[simp] theorem State.setPart_taskQ (s : State) (p : Nat) (v : Partition) : (s.setPart p v).taskQ = s.taskQ := rfl
@[simp] theorem State.setPart_launches (s : State) (p : Nat) (v : Partition) : (s.setPart p v).launches = s.launches := rfl
@[simp] theorem State.setPart_gangs (s : State) (p : Nat) (v : Partition) : (s.setPart p v).gangs = s.gangs := rfl
@[simp] theorem State.setPart_saved (s : State) (p : Nat) (v : Partition) : (s.setPart p v).saved = s.saved := rfl
@[simp] theorem State.setPart_tasks (s : State) (p : Nat) (v : Partition) : (s.setPart p v).tasks = s.tasks := rfl
@[simp] theorem State.setPart_copies (s : State) (p : Nat) (v : Partition) : (s.setPart p v).copies = s.copies := rfl
@[simp] theorem State.setPart_reqs (s : State) (p : Nat) (v : Partition) : (s.setPart p v).reqs = s.reqs := rfl
@[simp] theorem State.setPart_inbox (s : State) (p : Nat) (v : Partition) : (s.setPart p v).inbox = s.inbox := rfl
@[simp] theorem State.setPart_hgOps (s : State) (p : Nat) (v : Partition) : (s.setPart p v).hgOps = s.hgOps := rfl
@[simp] theorem State.setPart_appends (s : State) (p : Nat) (v : Partition) : (s.setPart p v).appends = s.appends := rfl
@[simp] theorem State.setPart_faults (s : State) (p : Nat) (v : Partition) : (s.setPart p v).faults = s.faults := rfl
@[simp] theorem State.setPart_entries (s : State) (p : Nat) (v : Partition) : (s.setPart p v).entries = s.entries := rfl
@[simp] theorem State.setPart_commands (s : State) (p : Nat) (v : Partition) : (s.setPart p v).commands = s.commands := rfl
@[simp] theorem State.setPart_copybooks (s : State) (p : Nat) (v : Partition) : (s.setPart p v).copybooks = s.copybooks := rfl
@[simp] theorem State.setPart_recordings (s : State) (p : Nat) (v : Partition) : (s.setPart p v).recordings = s.recordings := rfl
@[simp] theorem State.setPart_host (s : State) (p : Nat) (v : Partition) : (s.setPart p v).host = s.host := rfl
@[simp] theorem State.setPart_engines (s : State) (p : Nat) (v : Partition) : (s.setPart p v).engines = s.engines := rfl
@[simp] theorem State.setPart_flitTx (s : State) (p : Nat) (v : Partition) : (s.setPart p v).flitTx = s.flitTx := rfl
@[simp] theorem State.setPart_flitRx (s : State) (p : Nat) (v : Partition) : (s.setPart p v).flitRx = s.flitRx := rfl
@[simp] theorem State.setPart_extends3 (s : State) (p : Nat) (v : Partition) : (s.setPart p v).extends3 = s.extends3 := rfl
@[simp] theorem State.setPart_extends4 (s : State) (p : Nat) (v : Partition) : (s.setPart p v).extends4 = s.extends4 := rfl
@[simp] theorem State.setPart_booted (s : State) (p : Nat) (v : Partition) : (s.setPart p v).booted = s.booted := rfl
@[simp] theorem State.setPart_sparesUsed (s : State) (p : Nat) (v : Partition) : (s.setPart p v).sparesUsed = s.sparesUsed := rfl
@[simp] theorem State.setPart_modreg (s : State) (p : Nat) (v : Partition) : (s.setPart p v).modreg = s.modreg := rfl
@[simp] theorem State.setPart_power (s : State) (p : Nat) (v : Partition) : (s.setPart p v).power = s.power := rfl
@[simp] theorem State.setPart_cmdWidx (s : State) (p : Nat) (v : Partition) : (s.setPart p v).cmdWidx = s.cmdWidx := rfl
@[simp] theorem State.setPart_cmdRidx (s : State) (p : Nat) (v : Partition) : (s.setPart p v).cmdRidx = s.cmdRidx := rfl
@[simp] theorem State.setPart_now (s : State) (p : Nat) (v : Partition) : (s.setPart p v).now = s.now := rfl
@[simp] theorem State.setPart_nextId (s : State) (p : Nat) (v : Partition) : (s.setPart p v).nextId = s.nextId := rfl
@[simp] theorem State.setPart_nextKey (s : State) (p : Nat) (v : Partition) : (s.setPart p v).nextKey = s.nextKey := rfl
@[simp] theorem State.setPart_freeCount (s : State) (p : Nat) (v : Partition) : (s.setPart p v).freeCount = s.freeCount := rfl
@[simp] theorem State.setPart_agenda (s : State) (p : Nat) (v : Partition) : (s.setPart p v).agenda = s.agenda := rfl
@[simp] theorem State.setPart_devTurn (s : State) (p : Nat) (v : Partition) : (s.setPart p v).devTurn = s.devTurn := rfl
@[simp] theorem State.setPart_devCount (s : State) (p : Nat) (v : Partition) : (s.setPart p v).devCount = s.devCount := rfl
@[simp] theorem State.setPart_curUnit (s : State) (p : Nat) (v : Partition) : (s.setPart p v).curUnit = s.curUnit := rfl
@[simp] theorem State.setPart_latent (s : State) (p : Nat) (v : Partition) : (s.setPart p v).latent = s.latent := rfl
@[simp] theorem State.setPart_unfixable (s : State) (p : Nat) (v : Partition) : (s.setPart p v).unfixable = s.unfixable := rfl
@[simp] theorem State.setPart_corrected (s : State) (p : Nat) (v : Partition) : (s.setPart p v).corrected = s.corrected := rfl
@[simp] theorem State.setPart_output (s : State) (p : Nat) (v : Partition) : (s.setPart p v).output = s.output := rfl

/-! ### State.updPart -/

@[simp] theorem State.updPart_seqs (s : State) (p : Nat) (f : Partition → Partition) : (s.updPart p f).seqs = s.seqs := rfl
@[simp] theorem State.updPart_dieTlb (s : State) (p : Nat) (f : Partition → Partition) : (s.updPart p f).dieTlb = s.dieTlb := rfl
@[simp] theorem State.updPart_cores (s : State) (p : Nat) (f : Partition → Partition) : (s.updPart p f).cores = s.cores := rfl
@[simp] theorem State.updPart_mem (s : State) (p : Nat) (f : Partition → Partition) : (s.updPart p f).mem = s.mem := rfl
@[simp] theorem State.updPart_lines (s : State) (p : Nat) (f : Partition → Partition) : (s.updPart p f).lines = s.lines := rfl
@[simp] theorem State.updPart_slices (s : State) (p : Nat) (f : Partition → Partition) : (s.updPart p f).slices = s.slices := rfl
@[simp] theorem State.updPart_channels (s : State) (p : Nat) (f : Partition → Partition) : (s.updPart p f).channels = s.channels := rfl
@[simp] theorem State.updPart_keys (s : State) (p : Nat) (f : Partition → Partition) : (s.updPart p f).keys = s.keys := rfl
@[simp] theorem State.updPart_keyValues (s : State) (p : Nat) (f : Partition → Partition) : (s.updPart p f).keyValues = s.keyValues := rfl
@[simp] theorem State.updPart_islands (s : State) (p : Nat) (f : Partition → Partition) : (s.updPart p f).islands = s.islands := rfl
@[simp] theorem State.updPart_portsDown (s : State) (p : Nat) (f : Partition → Partition) : (s.updPart p f).portsDown = s.portsDown := rfl
@[simp] theorem State.updPart_launchQ (s : State) (p : Nat) (f : Partition → Partition) : (s.updPart p f).launchQ = s.launchQ := rfl
@[simp] theorem State.updPart_copyQ (s : State) (p : Nat) (f : Partition → Partition) : (s.updPart p f).copyQ = s.copyQ := rfl
@[simp] theorem State.updPart_taskQ (s : State) (p : Nat) (f : Partition → Partition) : (s.updPart p f).taskQ = s.taskQ := rfl
@[simp] theorem State.updPart_launches (s : State) (p : Nat) (f : Partition → Partition) : (s.updPart p f).launches = s.launches := rfl
@[simp] theorem State.updPart_gangs (s : State) (p : Nat) (f : Partition → Partition) : (s.updPart p f).gangs = s.gangs := rfl
@[simp] theorem State.updPart_saved (s : State) (p : Nat) (f : Partition → Partition) : (s.updPart p f).saved = s.saved := rfl
@[simp] theorem State.updPart_tasks (s : State) (p : Nat) (f : Partition → Partition) : (s.updPart p f).tasks = s.tasks := rfl
@[simp] theorem State.updPart_copies (s : State) (p : Nat) (f : Partition → Partition) : (s.updPart p f).copies = s.copies := rfl
@[simp] theorem State.updPart_reqs (s : State) (p : Nat) (f : Partition → Partition) : (s.updPart p f).reqs = s.reqs := rfl
@[simp] theorem State.updPart_inbox (s : State) (p : Nat) (f : Partition → Partition) : (s.updPart p f).inbox = s.inbox := rfl
@[simp] theorem State.updPart_hgOps (s : State) (p : Nat) (f : Partition → Partition) : (s.updPart p f).hgOps = s.hgOps := rfl
@[simp] theorem State.updPart_appends (s : State) (p : Nat) (f : Partition → Partition) : (s.updPart p f).appends = s.appends := rfl
@[simp] theorem State.updPart_faults (s : State) (p : Nat) (f : Partition → Partition) : (s.updPart p f).faults = s.faults := rfl
@[simp] theorem State.updPart_entries (s : State) (p : Nat) (f : Partition → Partition) : (s.updPart p f).entries = s.entries := rfl
@[simp] theorem State.updPart_commands (s : State) (p : Nat) (f : Partition → Partition) : (s.updPart p f).commands = s.commands := rfl
@[simp] theorem State.updPart_copybooks (s : State) (p : Nat) (f : Partition → Partition) : (s.updPart p f).copybooks = s.copybooks := rfl
@[simp] theorem State.updPart_recordings (s : State) (p : Nat) (f : Partition → Partition) : (s.updPart p f).recordings = s.recordings := rfl
@[simp] theorem State.updPart_host (s : State) (p : Nat) (f : Partition → Partition) : (s.updPart p f).host = s.host := rfl
@[simp] theorem State.updPart_engines (s : State) (p : Nat) (f : Partition → Partition) : (s.updPart p f).engines = s.engines := rfl
@[simp] theorem State.updPart_flitTx (s : State) (p : Nat) (f : Partition → Partition) : (s.updPart p f).flitTx = s.flitTx := rfl
@[simp] theorem State.updPart_flitRx (s : State) (p : Nat) (f : Partition → Partition) : (s.updPart p f).flitRx = s.flitRx := rfl
@[simp] theorem State.updPart_extends3 (s : State) (p : Nat) (f : Partition → Partition) : (s.updPart p f).extends3 = s.extends3 := rfl
@[simp] theorem State.updPart_extends4 (s : State) (p : Nat) (f : Partition → Partition) : (s.updPart p f).extends4 = s.extends4 := rfl
@[simp] theorem State.updPart_booted (s : State) (p : Nat) (f : Partition → Partition) : (s.updPart p f).booted = s.booted := rfl
@[simp] theorem State.updPart_sparesUsed (s : State) (p : Nat) (f : Partition → Partition) : (s.updPart p f).sparesUsed = s.sparesUsed := rfl
@[simp] theorem State.updPart_modreg (s : State) (p : Nat) (f : Partition → Partition) : (s.updPart p f).modreg = s.modreg := rfl
@[simp] theorem State.updPart_power (s : State) (p : Nat) (f : Partition → Partition) : (s.updPart p f).power = s.power := rfl
@[simp] theorem State.updPart_cmdWidx (s : State) (p : Nat) (f : Partition → Partition) : (s.updPart p f).cmdWidx = s.cmdWidx := rfl
@[simp] theorem State.updPart_cmdRidx (s : State) (p : Nat) (f : Partition → Partition) : (s.updPart p f).cmdRidx = s.cmdRidx := rfl
@[simp] theorem State.updPart_now (s : State) (p : Nat) (f : Partition → Partition) : (s.updPart p f).now = s.now := rfl
@[simp] theorem State.updPart_nextId (s : State) (p : Nat) (f : Partition → Partition) : (s.updPart p f).nextId = s.nextId := rfl
@[simp] theorem State.updPart_nextKey (s : State) (p : Nat) (f : Partition → Partition) : (s.updPart p f).nextKey = s.nextKey := rfl
@[simp] theorem State.updPart_freeCount (s : State) (p : Nat) (f : Partition → Partition) : (s.updPart p f).freeCount = s.freeCount := rfl
@[simp] theorem State.updPart_agenda (s : State) (p : Nat) (f : Partition → Partition) : (s.updPart p f).agenda = s.agenda := rfl
@[simp] theorem State.updPart_devTurn (s : State) (p : Nat) (f : Partition → Partition) : (s.updPart p f).devTurn = s.devTurn := rfl
@[simp] theorem State.updPart_devCount (s : State) (p : Nat) (f : Partition → Partition) : (s.updPart p f).devCount = s.devCount := rfl
@[simp] theorem State.updPart_curUnit (s : State) (p : Nat) (f : Partition → Partition) : (s.updPart p f).curUnit = s.curUnit := rfl
@[simp] theorem State.updPart_latent (s : State) (p : Nat) (f : Partition → Partition) : (s.updPart p f).latent = s.latent := rfl
@[simp] theorem State.updPart_unfixable (s : State) (p : Nat) (f : Partition → Partition) : (s.updPart p f).unfixable = s.unfixable := rfl
@[simp] theorem State.updPart_corrected (s : State) (p : Nat) (f : Partition → Partition) : (s.updPart p f).corrected = s.corrected := rfl
@[simp] theorem State.updPart_output (s : State) (p : Nat) (f : Partition → Partition) : (s.updPart p f).output = s.output := rfl

/-! ### State.setLine -/

@[simp] theorem State.setLine_seqs (s : State) (l : Nat) (v : LineMeta) : (s.setLine l v).seqs = s.seqs := rfl
@[simp] theorem State.setLine_dieTlb (s : State) (l : Nat) (v : LineMeta) : (s.setLine l v).dieTlb = s.dieTlb := rfl
@[simp] theorem State.setLine_cores (s : State) (l : Nat) (v : LineMeta) : (s.setLine l v).cores = s.cores := rfl
@[simp] theorem State.setLine_mem (s : State) (l : Nat) (v : LineMeta) : (s.setLine l v).mem = s.mem := rfl
@[simp] theorem State.setLine_slices (s : State) (l : Nat) (v : LineMeta) : (s.setLine l v).slices = s.slices := rfl
@[simp] theorem State.setLine_channels (s : State) (l : Nat) (v : LineMeta) : (s.setLine l v).channels = s.channels := rfl
@[simp] theorem State.setLine_parts (s : State) (l : Nat) (v : LineMeta) : (s.setLine l v).parts = s.parts := rfl
@[simp] theorem State.setLine_keys (s : State) (l : Nat) (v : LineMeta) : (s.setLine l v).keys = s.keys := rfl
@[simp] theorem State.setLine_keyValues (s : State) (l : Nat) (v : LineMeta) : (s.setLine l v).keyValues = s.keyValues := rfl
@[simp] theorem State.setLine_islands (s : State) (l : Nat) (v : LineMeta) : (s.setLine l v).islands = s.islands := rfl
@[simp] theorem State.setLine_portsDown (s : State) (l : Nat) (v : LineMeta) : (s.setLine l v).portsDown = s.portsDown := rfl
@[simp] theorem State.setLine_launchQ (s : State) (l : Nat) (v : LineMeta) : (s.setLine l v).launchQ = s.launchQ := rfl
@[simp] theorem State.setLine_copyQ (s : State) (l : Nat) (v : LineMeta) : (s.setLine l v).copyQ = s.copyQ := rfl
@[simp] theorem State.setLine_taskQ (s : State) (l : Nat) (v : LineMeta) : (s.setLine l v).taskQ = s.taskQ := rfl
@[simp] theorem State.setLine_launches (s : State) (l : Nat) (v : LineMeta) : (s.setLine l v).launches = s.launches := rfl
@[simp] theorem State.setLine_gangs (s : State) (l : Nat) (v : LineMeta) : (s.setLine l v).gangs = s.gangs := rfl
@[simp] theorem State.setLine_saved (s : State) (l : Nat) (v : LineMeta) : (s.setLine l v).saved = s.saved := rfl
@[simp] theorem State.setLine_tasks (s : State) (l : Nat) (v : LineMeta) : (s.setLine l v).tasks = s.tasks := rfl
@[simp] theorem State.setLine_copies (s : State) (l : Nat) (v : LineMeta) : (s.setLine l v).copies = s.copies := rfl
@[simp] theorem State.setLine_reqs (s : State) (l : Nat) (v : LineMeta) : (s.setLine l v).reqs = s.reqs := rfl
@[simp] theorem State.setLine_inbox (s : State) (l : Nat) (v : LineMeta) : (s.setLine l v).inbox = s.inbox := rfl
@[simp] theorem State.setLine_hgOps (s : State) (l : Nat) (v : LineMeta) : (s.setLine l v).hgOps = s.hgOps := rfl
@[simp] theorem State.setLine_appends (s : State) (l : Nat) (v : LineMeta) : (s.setLine l v).appends = s.appends := rfl
@[simp] theorem State.setLine_faults (s : State) (l : Nat) (v : LineMeta) : (s.setLine l v).faults = s.faults := rfl
@[simp] theorem State.setLine_entries (s : State) (l : Nat) (v : LineMeta) : (s.setLine l v).entries = s.entries := rfl
@[simp] theorem State.setLine_commands (s : State) (l : Nat) (v : LineMeta) : (s.setLine l v).commands = s.commands := rfl
@[simp] theorem State.setLine_copybooks (s : State) (l : Nat) (v : LineMeta) : (s.setLine l v).copybooks = s.copybooks := rfl
@[simp] theorem State.setLine_recordings (s : State) (l : Nat) (v : LineMeta) : (s.setLine l v).recordings = s.recordings := rfl
@[simp] theorem State.setLine_host (s : State) (l : Nat) (v : LineMeta) : (s.setLine l v).host = s.host := rfl
@[simp] theorem State.setLine_engines (s : State) (l : Nat) (v : LineMeta) : (s.setLine l v).engines = s.engines := rfl
@[simp] theorem State.setLine_flitTx (s : State) (l : Nat) (v : LineMeta) : (s.setLine l v).flitTx = s.flitTx := rfl
@[simp] theorem State.setLine_flitRx (s : State) (l : Nat) (v : LineMeta) : (s.setLine l v).flitRx = s.flitRx := rfl
@[simp] theorem State.setLine_extends3 (s : State) (l : Nat) (v : LineMeta) : (s.setLine l v).extends3 = s.extends3 := rfl
@[simp] theorem State.setLine_extends4 (s : State) (l : Nat) (v : LineMeta) : (s.setLine l v).extends4 = s.extends4 := rfl
@[simp] theorem State.setLine_booted (s : State) (l : Nat) (v : LineMeta) : (s.setLine l v).booted = s.booted := rfl
@[simp] theorem State.setLine_sparesUsed (s : State) (l : Nat) (v : LineMeta) : (s.setLine l v).sparesUsed = s.sparesUsed := rfl
@[simp] theorem State.setLine_modreg (s : State) (l : Nat) (v : LineMeta) : (s.setLine l v).modreg = s.modreg := rfl
@[simp] theorem State.setLine_power (s : State) (l : Nat) (v : LineMeta) : (s.setLine l v).power = s.power := rfl
@[simp] theorem State.setLine_cmdWidx (s : State) (l : Nat) (v : LineMeta) : (s.setLine l v).cmdWidx = s.cmdWidx := rfl
@[simp] theorem State.setLine_cmdRidx (s : State) (l : Nat) (v : LineMeta) : (s.setLine l v).cmdRidx = s.cmdRidx := rfl
@[simp] theorem State.setLine_now (s : State) (l : Nat) (v : LineMeta) : (s.setLine l v).now = s.now := rfl
@[simp] theorem State.setLine_nextId (s : State) (l : Nat) (v : LineMeta) : (s.setLine l v).nextId = s.nextId := rfl
@[simp] theorem State.setLine_nextKey (s : State) (l : Nat) (v : LineMeta) : (s.setLine l v).nextKey = s.nextKey := rfl
@[simp] theorem State.setLine_freeCount (s : State) (l : Nat) (v : LineMeta) : (s.setLine l v).freeCount = s.freeCount := rfl
@[simp] theorem State.setLine_agenda (s : State) (l : Nat) (v : LineMeta) : (s.setLine l v).agenda = s.agenda := rfl
@[simp] theorem State.setLine_devTurn (s : State) (l : Nat) (v : LineMeta) : (s.setLine l v).devTurn = s.devTurn := rfl
@[simp] theorem State.setLine_devCount (s : State) (l : Nat) (v : LineMeta) : (s.setLine l v).devCount = s.devCount := rfl
@[simp] theorem State.setLine_curUnit (s : State) (l : Nat) (v : LineMeta) : (s.setLine l v).curUnit = s.curUnit := rfl
@[simp] theorem State.setLine_latent (s : State) (l : Nat) (v : LineMeta) : (s.setLine l v).latent = s.latent := rfl
@[simp] theorem State.setLine_unfixable (s : State) (l : Nat) (v : LineMeta) : (s.setLine l v).unfixable = s.unfixable := rfl
@[simp] theorem State.setLine_corrected (s : State) (l : Nat) (v : LineMeta) : (s.setLine l v).corrected = s.corrected := rfl
@[simp] theorem State.setLine_output (s : State) (l : Nat) (v : LineMeta) : (s.setLine l v).output = s.output := rfl

/-! ### State.setSlice -/

@[simp] theorem State.setSlice_seqs (s : State) (i : Nat) (v : Slice) : (s.setSlice i v).seqs = s.seqs := rfl
@[simp] theorem State.setSlice_dieTlb (s : State) (i : Nat) (v : Slice) : (s.setSlice i v).dieTlb = s.dieTlb := rfl
@[simp] theorem State.setSlice_cores (s : State) (i : Nat) (v : Slice) : (s.setSlice i v).cores = s.cores := rfl
@[simp] theorem State.setSlice_mem (s : State) (i : Nat) (v : Slice) : (s.setSlice i v).mem = s.mem := rfl
@[simp] theorem State.setSlice_lines (s : State) (i : Nat) (v : Slice) : (s.setSlice i v).lines = s.lines := rfl
@[simp] theorem State.setSlice_channels (s : State) (i : Nat) (v : Slice) : (s.setSlice i v).channels = s.channels := rfl
@[simp] theorem State.setSlice_parts (s : State) (i : Nat) (v : Slice) : (s.setSlice i v).parts = s.parts := rfl
@[simp] theorem State.setSlice_keys (s : State) (i : Nat) (v : Slice) : (s.setSlice i v).keys = s.keys := rfl
@[simp] theorem State.setSlice_keyValues (s : State) (i : Nat) (v : Slice) : (s.setSlice i v).keyValues = s.keyValues := rfl
@[simp] theorem State.setSlice_islands (s : State) (i : Nat) (v : Slice) : (s.setSlice i v).islands = s.islands := rfl
@[simp] theorem State.setSlice_portsDown (s : State) (i : Nat) (v : Slice) : (s.setSlice i v).portsDown = s.portsDown := rfl
@[simp] theorem State.setSlice_launchQ (s : State) (i : Nat) (v : Slice) : (s.setSlice i v).launchQ = s.launchQ := rfl
@[simp] theorem State.setSlice_copyQ (s : State) (i : Nat) (v : Slice) : (s.setSlice i v).copyQ = s.copyQ := rfl
@[simp] theorem State.setSlice_taskQ (s : State) (i : Nat) (v : Slice) : (s.setSlice i v).taskQ = s.taskQ := rfl
@[simp] theorem State.setSlice_launches (s : State) (i : Nat) (v : Slice) : (s.setSlice i v).launches = s.launches := rfl
@[simp] theorem State.setSlice_gangs (s : State) (i : Nat) (v : Slice) : (s.setSlice i v).gangs = s.gangs := rfl
@[simp] theorem State.setSlice_saved (s : State) (i : Nat) (v : Slice) : (s.setSlice i v).saved = s.saved := rfl
@[simp] theorem State.setSlice_tasks (s : State) (i : Nat) (v : Slice) : (s.setSlice i v).tasks = s.tasks := rfl
@[simp] theorem State.setSlice_copies (s : State) (i : Nat) (v : Slice) : (s.setSlice i v).copies = s.copies := rfl
@[simp] theorem State.setSlice_reqs (s : State) (i : Nat) (v : Slice) : (s.setSlice i v).reqs = s.reqs := rfl
@[simp] theorem State.setSlice_inbox (s : State) (i : Nat) (v : Slice) : (s.setSlice i v).inbox = s.inbox := rfl
@[simp] theorem State.setSlice_hgOps (s : State) (i : Nat) (v : Slice) : (s.setSlice i v).hgOps = s.hgOps := rfl
@[simp] theorem State.setSlice_appends (s : State) (i : Nat) (v : Slice) : (s.setSlice i v).appends = s.appends := rfl
@[simp] theorem State.setSlice_faults (s : State) (i : Nat) (v : Slice) : (s.setSlice i v).faults = s.faults := rfl
@[simp] theorem State.setSlice_entries (s : State) (i : Nat) (v : Slice) : (s.setSlice i v).entries = s.entries := rfl
@[simp] theorem State.setSlice_commands (s : State) (i : Nat) (v : Slice) : (s.setSlice i v).commands = s.commands := rfl
@[simp] theorem State.setSlice_copybooks (s : State) (i : Nat) (v : Slice) : (s.setSlice i v).copybooks = s.copybooks := rfl
@[simp] theorem State.setSlice_recordings (s : State) (i : Nat) (v : Slice) : (s.setSlice i v).recordings = s.recordings := rfl
@[simp] theorem State.setSlice_host (s : State) (i : Nat) (v : Slice) : (s.setSlice i v).host = s.host := rfl
@[simp] theorem State.setSlice_engines (s : State) (i : Nat) (v : Slice) : (s.setSlice i v).engines = s.engines := rfl
@[simp] theorem State.setSlice_flitTx (s : State) (i : Nat) (v : Slice) : (s.setSlice i v).flitTx = s.flitTx := rfl
@[simp] theorem State.setSlice_flitRx (s : State) (i : Nat) (v : Slice) : (s.setSlice i v).flitRx = s.flitRx := rfl
@[simp] theorem State.setSlice_extends3 (s : State) (i : Nat) (v : Slice) : (s.setSlice i v).extends3 = s.extends3 := rfl
@[simp] theorem State.setSlice_extends4 (s : State) (i : Nat) (v : Slice) : (s.setSlice i v).extends4 = s.extends4 := rfl
@[simp] theorem State.setSlice_booted (s : State) (i : Nat) (v : Slice) : (s.setSlice i v).booted = s.booted := rfl
@[simp] theorem State.setSlice_sparesUsed (s : State) (i : Nat) (v : Slice) : (s.setSlice i v).sparesUsed = s.sparesUsed := rfl
@[simp] theorem State.setSlice_modreg (s : State) (i : Nat) (v : Slice) : (s.setSlice i v).modreg = s.modreg := rfl
@[simp] theorem State.setSlice_power (s : State) (i : Nat) (v : Slice) : (s.setSlice i v).power = s.power := rfl
@[simp] theorem State.setSlice_cmdWidx (s : State) (i : Nat) (v : Slice) : (s.setSlice i v).cmdWidx = s.cmdWidx := rfl
@[simp] theorem State.setSlice_cmdRidx (s : State) (i : Nat) (v : Slice) : (s.setSlice i v).cmdRidx = s.cmdRidx := rfl
@[simp] theorem State.setSlice_now (s : State) (i : Nat) (v : Slice) : (s.setSlice i v).now = s.now := rfl
@[simp] theorem State.setSlice_nextId (s : State) (i : Nat) (v : Slice) : (s.setSlice i v).nextId = s.nextId := rfl
@[simp] theorem State.setSlice_nextKey (s : State) (i : Nat) (v : Slice) : (s.setSlice i v).nextKey = s.nextKey := rfl
@[simp] theorem State.setSlice_freeCount (s : State) (i : Nat) (v : Slice) : (s.setSlice i v).freeCount = s.freeCount := rfl
@[simp] theorem State.setSlice_agenda (s : State) (i : Nat) (v : Slice) : (s.setSlice i v).agenda = s.agenda := rfl
@[simp] theorem State.setSlice_devTurn (s : State) (i : Nat) (v : Slice) : (s.setSlice i v).devTurn = s.devTurn := rfl
@[simp] theorem State.setSlice_devCount (s : State) (i : Nat) (v : Slice) : (s.setSlice i v).devCount = s.devCount := rfl
@[simp] theorem State.setSlice_curUnit (s : State) (i : Nat) (v : Slice) : (s.setSlice i v).curUnit = s.curUnit := rfl
@[simp] theorem State.setSlice_latent (s : State) (i : Nat) (v : Slice) : (s.setSlice i v).latent = s.latent := rfl
@[simp] theorem State.setSlice_unfixable (s : State) (i : Nat) (v : Slice) : (s.setSlice i v).unfixable = s.unfixable := rfl
@[simp] theorem State.setSlice_corrected (s : State) (i : Nat) (v : Slice) : (s.setSlice i v).corrected = s.corrected := rfl
@[simp] theorem State.setSlice_output (s : State) (i : Nat) (v : Slice) : (s.setSlice i v).output = s.output := rfl

/-! ### State.updChannel -/

@[simp] theorem State.updChannel_seqs (s : State) (i : Nat) (f : Channel → Channel) : (s.updChannel i f).seqs = s.seqs := rfl
@[simp] theorem State.updChannel_dieTlb (s : State) (i : Nat) (f : Channel → Channel) : (s.updChannel i f).dieTlb = s.dieTlb := rfl
@[simp] theorem State.updChannel_cores (s : State) (i : Nat) (f : Channel → Channel) : (s.updChannel i f).cores = s.cores := rfl
@[simp] theorem State.updChannel_mem (s : State) (i : Nat) (f : Channel → Channel) : (s.updChannel i f).mem = s.mem := rfl
@[simp] theorem State.updChannel_lines (s : State) (i : Nat) (f : Channel → Channel) : (s.updChannel i f).lines = s.lines := rfl
@[simp] theorem State.updChannel_slices (s : State) (i : Nat) (f : Channel → Channel) : (s.updChannel i f).slices = s.slices := rfl
@[simp] theorem State.updChannel_parts (s : State) (i : Nat) (f : Channel → Channel) : (s.updChannel i f).parts = s.parts := rfl
@[simp] theorem State.updChannel_keys (s : State) (i : Nat) (f : Channel → Channel) : (s.updChannel i f).keys = s.keys := rfl
@[simp] theorem State.updChannel_keyValues (s : State) (i : Nat) (f : Channel → Channel) : (s.updChannel i f).keyValues = s.keyValues := rfl
@[simp] theorem State.updChannel_islands (s : State) (i : Nat) (f : Channel → Channel) : (s.updChannel i f).islands = s.islands := rfl
@[simp] theorem State.updChannel_portsDown (s : State) (i : Nat) (f : Channel → Channel) : (s.updChannel i f).portsDown = s.portsDown := rfl
@[simp] theorem State.updChannel_launchQ (s : State) (i : Nat) (f : Channel → Channel) : (s.updChannel i f).launchQ = s.launchQ := rfl
@[simp] theorem State.updChannel_copyQ (s : State) (i : Nat) (f : Channel → Channel) : (s.updChannel i f).copyQ = s.copyQ := rfl
@[simp] theorem State.updChannel_taskQ (s : State) (i : Nat) (f : Channel → Channel) : (s.updChannel i f).taskQ = s.taskQ := rfl
@[simp] theorem State.updChannel_launches (s : State) (i : Nat) (f : Channel → Channel) : (s.updChannel i f).launches = s.launches := rfl
@[simp] theorem State.updChannel_gangs (s : State) (i : Nat) (f : Channel → Channel) : (s.updChannel i f).gangs = s.gangs := rfl
@[simp] theorem State.updChannel_saved (s : State) (i : Nat) (f : Channel → Channel) : (s.updChannel i f).saved = s.saved := rfl
@[simp] theorem State.updChannel_tasks (s : State) (i : Nat) (f : Channel → Channel) : (s.updChannel i f).tasks = s.tasks := rfl
@[simp] theorem State.updChannel_copies (s : State) (i : Nat) (f : Channel → Channel) : (s.updChannel i f).copies = s.copies := rfl
@[simp] theorem State.updChannel_reqs (s : State) (i : Nat) (f : Channel → Channel) : (s.updChannel i f).reqs = s.reqs := rfl
@[simp] theorem State.updChannel_inbox (s : State) (i : Nat) (f : Channel → Channel) : (s.updChannel i f).inbox = s.inbox := rfl
@[simp] theorem State.updChannel_hgOps (s : State) (i : Nat) (f : Channel → Channel) : (s.updChannel i f).hgOps = s.hgOps := rfl
@[simp] theorem State.updChannel_appends (s : State) (i : Nat) (f : Channel → Channel) : (s.updChannel i f).appends = s.appends := rfl
@[simp] theorem State.updChannel_faults (s : State) (i : Nat) (f : Channel → Channel) : (s.updChannel i f).faults = s.faults := rfl
@[simp] theorem State.updChannel_entries (s : State) (i : Nat) (f : Channel → Channel) : (s.updChannel i f).entries = s.entries := rfl
@[simp] theorem State.updChannel_commands (s : State) (i : Nat) (f : Channel → Channel) : (s.updChannel i f).commands = s.commands := rfl
@[simp] theorem State.updChannel_copybooks (s : State) (i : Nat) (f : Channel → Channel) : (s.updChannel i f).copybooks = s.copybooks := rfl
@[simp] theorem State.updChannel_recordings (s : State) (i : Nat) (f : Channel → Channel) : (s.updChannel i f).recordings = s.recordings := rfl
@[simp] theorem State.updChannel_host (s : State) (i : Nat) (f : Channel → Channel) : (s.updChannel i f).host = s.host := rfl
@[simp] theorem State.updChannel_engines (s : State) (i : Nat) (f : Channel → Channel) : (s.updChannel i f).engines = s.engines := rfl
@[simp] theorem State.updChannel_flitTx (s : State) (i : Nat) (f : Channel → Channel) : (s.updChannel i f).flitTx = s.flitTx := rfl
@[simp] theorem State.updChannel_flitRx (s : State) (i : Nat) (f : Channel → Channel) : (s.updChannel i f).flitRx = s.flitRx := rfl
@[simp] theorem State.updChannel_extends3 (s : State) (i : Nat) (f : Channel → Channel) : (s.updChannel i f).extends3 = s.extends3 := rfl
@[simp] theorem State.updChannel_extends4 (s : State) (i : Nat) (f : Channel → Channel) : (s.updChannel i f).extends4 = s.extends4 := rfl
@[simp] theorem State.updChannel_booted (s : State) (i : Nat) (f : Channel → Channel) : (s.updChannel i f).booted = s.booted := rfl
@[simp] theorem State.updChannel_sparesUsed (s : State) (i : Nat) (f : Channel → Channel) : (s.updChannel i f).sparesUsed = s.sparesUsed := rfl
@[simp] theorem State.updChannel_modreg (s : State) (i : Nat) (f : Channel → Channel) : (s.updChannel i f).modreg = s.modreg := rfl
@[simp] theorem State.updChannel_power (s : State) (i : Nat) (f : Channel → Channel) : (s.updChannel i f).power = s.power := rfl
@[simp] theorem State.updChannel_cmdWidx (s : State) (i : Nat) (f : Channel → Channel) : (s.updChannel i f).cmdWidx = s.cmdWidx := rfl
@[simp] theorem State.updChannel_cmdRidx (s : State) (i : Nat) (f : Channel → Channel) : (s.updChannel i f).cmdRidx = s.cmdRidx := rfl
@[simp] theorem State.updChannel_now (s : State) (i : Nat) (f : Channel → Channel) : (s.updChannel i f).now = s.now := rfl
@[simp] theorem State.updChannel_nextId (s : State) (i : Nat) (f : Channel → Channel) : (s.updChannel i f).nextId = s.nextId := rfl
@[simp] theorem State.updChannel_nextKey (s : State) (i : Nat) (f : Channel → Channel) : (s.updChannel i f).nextKey = s.nextKey := rfl
@[simp] theorem State.updChannel_freeCount (s : State) (i : Nat) (f : Channel → Channel) : (s.updChannel i f).freeCount = s.freeCount := rfl
@[simp] theorem State.updChannel_agenda (s : State) (i : Nat) (f : Channel → Channel) : (s.updChannel i f).agenda = s.agenda := rfl
@[simp] theorem State.updChannel_devTurn (s : State) (i : Nat) (f : Channel → Channel) : (s.updChannel i f).devTurn = s.devTurn := rfl
@[simp] theorem State.updChannel_devCount (s : State) (i : Nat) (f : Channel → Channel) : (s.updChannel i f).devCount = s.devCount := rfl
@[simp] theorem State.updChannel_curUnit (s : State) (i : Nat) (f : Channel → Channel) : (s.updChannel i f).curUnit = s.curUnit := rfl
@[simp] theorem State.updChannel_latent (s : State) (i : Nat) (f : Channel → Channel) : (s.updChannel i f).latent = s.latent := rfl
@[simp] theorem State.updChannel_unfixable (s : State) (i : Nat) (f : Channel → Channel) : (s.updChannel i f).unfixable = s.unfixable := rfl
@[simp] theorem State.updChannel_corrected (s : State) (i : Nat) (f : Channel → Channel) : (s.updChannel i f).corrected = s.corrected := rfl
@[simp] theorem State.updChannel_output (s : State) (i : Nat) (f : Channel → Channel) : (s.updChannel i f).output = s.output := rfl

/-! ### State.updIsland -/

@[simp] theorem State.updIsland_seqs (s : State) (i : Nat) (f : Island → Island) : (s.updIsland i f).seqs = s.seqs := rfl
@[simp] theorem State.updIsland_dieTlb (s : State) (i : Nat) (f : Island → Island) : (s.updIsland i f).dieTlb = s.dieTlb := rfl
@[simp] theorem State.updIsland_cores (s : State) (i : Nat) (f : Island → Island) : (s.updIsland i f).cores = s.cores := rfl
@[simp] theorem State.updIsland_mem (s : State) (i : Nat) (f : Island → Island) : (s.updIsland i f).mem = s.mem := rfl
@[simp] theorem State.updIsland_lines (s : State) (i : Nat) (f : Island → Island) : (s.updIsland i f).lines = s.lines := rfl
@[simp] theorem State.updIsland_slices (s : State) (i : Nat) (f : Island → Island) : (s.updIsland i f).slices = s.slices := rfl
@[simp] theorem State.updIsland_channels (s : State) (i : Nat) (f : Island → Island) : (s.updIsland i f).channels = s.channels := rfl
@[simp] theorem State.updIsland_parts (s : State) (i : Nat) (f : Island → Island) : (s.updIsland i f).parts = s.parts := rfl
@[simp] theorem State.updIsland_keys (s : State) (i : Nat) (f : Island → Island) : (s.updIsland i f).keys = s.keys := rfl
@[simp] theorem State.updIsland_keyValues (s : State) (i : Nat) (f : Island → Island) : (s.updIsland i f).keyValues = s.keyValues := rfl
@[simp] theorem State.updIsland_portsDown (s : State) (i : Nat) (f : Island → Island) : (s.updIsland i f).portsDown = s.portsDown := rfl
@[simp] theorem State.updIsland_launchQ (s : State) (i : Nat) (f : Island → Island) : (s.updIsland i f).launchQ = s.launchQ := rfl
@[simp] theorem State.updIsland_copyQ (s : State) (i : Nat) (f : Island → Island) : (s.updIsland i f).copyQ = s.copyQ := rfl
@[simp] theorem State.updIsland_taskQ (s : State) (i : Nat) (f : Island → Island) : (s.updIsland i f).taskQ = s.taskQ := rfl
@[simp] theorem State.updIsland_launches (s : State) (i : Nat) (f : Island → Island) : (s.updIsland i f).launches = s.launches := rfl
@[simp] theorem State.updIsland_gangs (s : State) (i : Nat) (f : Island → Island) : (s.updIsland i f).gangs = s.gangs := rfl
@[simp] theorem State.updIsland_saved (s : State) (i : Nat) (f : Island → Island) : (s.updIsland i f).saved = s.saved := rfl
@[simp] theorem State.updIsland_tasks (s : State) (i : Nat) (f : Island → Island) : (s.updIsland i f).tasks = s.tasks := rfl
@[simp] theorem State.updIsland_copies (s : State) (i : Nat) (f : Island → Island) : (s.updIsland i f).copies = s.copies := rfl
@[simp] theorem State.updIsland_reqs (s : State) (i : Nat) (f : Island → Island) : (s.updIsland i f).reqs = s.reqs := rfl
@[simp] theorem State.updIsland_inbox (s : State) (i : Nat) (f : Island → Island) : (s.updIsland i f).inbox = s.inbox := rfl
@[simp] theorem State.updIsland_hgOps (s : State) (i : Nat) (f : Island → Island) : (s.updIsland i f).hgOps = s.hgOps := rfl
@[simp] theorem State.updIsland_appends (s : State) (i : Nat) (f : Island → Island) : (s.updIsland i f).appends = s.appends := rfl
@[simp] theorem State.updIsland_faults (s : State) (i : Nat) (f : Island → Island) : (s.updIsland i f).faults = s.faults := rfl
@[simp] theorem State.updIsland_entries (s : State) (i : Nat) (f : Island → Island) : (s.updIsland i f).entries = s.entries := rfl
@[simp] theorem State.updIsland_commands (s : State) (i : Nat) (f : Island → Island) : (s.updIsland i f).commands = s.commands := rfl
@[simp] theorem State.updIsland_copybooks (s : State) (i : Nat) (f : Island → Island) : (s.updIsland i f).copybooks = s.copybooks := rfl
@[simp] theorem State.updIsland_recordings (s : State) (i : Nat) (f : Island → Island) : (s.updIsland i f).recordings = s.recordings := rfl
@[simp] theorem State.updIsland_host (s : State) (i : Nat) (f : Island → Island) : (s.updIsland i f).host = s.host := rfl
@[simp] theorem State.updIsland_engines (s : State) (i : Nat) (f : Island → Island) : (s.updIsland i f).engines = s.engines := rfl
@[simp] theorem State.updIsland_flitTx (s : State) (i : Nat) (f : Island → Island) : (s.updIsland i f).flitTx = s.flitTx := rfl
@[simp] theorem State.updIsland_flitRx (s : State) (i : Nat) (f : Island → Island) : (s.updIsland i f).flitRx = s.flitRx := rfl
@[simp] theorem State.updIsland_extends3 (s : State) (i : Nat) (f : Island → Island) : (s.updIsland i f).extends3 = s.extends3 := rfl
@[simp] theorem State.updIsland_extends4 (s : State) (i : Nat) (f : Island → Island) : (s.updIsland i f).extends4 = s.extends4 := rfl
@[simp] theorem State.updIsland_booted (s : State) (i : Nat) (f : Island → Island) : (s.updIsland i f).booted = s.booted := rfl
@[simp] theorem State.updIsland_sparesUsed (s : State) (i : Nat) (f : Island → Island) : (s.updIsland i f).sparesUsed = s.sparesUsed := rfl
@[simp] theorem State.updIsland_modreg (s : State) (i : Nat) (f : Island → Island) : (s.updIsland i f).modreg = s.modreg := rfl
@[simp] theorem State.updIsland_power (s : State) (i : Nat) (f : Island → Island) : (s.updIsland i f).power = s.power := rfl
@[simp] theorem State.updIsland_cmdWidx (s : State) (i : Nat) (f : Island → Island) : (s.updIsland i f).cmdWidx = s.cmdWidx := rfl
@[simp] theorem State.updIsland_cmdRidx (s : State) (i : Nat) (f : Island → Island) : (s.updIsland i f).cmdRidx = s.cmdRidx := rfl
@[simp] theorem State.updIsland_now (s : State) (i : Nat) (f : Island → Island) : (s.updIsland i f).now = s.now := rfl
@[simp] theorem State.updIsland_nextId (s : State) (i : Nat) (f : Island → Island) : (s.updIsland i f).nextId = s.nextId := rfl
@[simp] theorem State.updIsland_nextKey (s : State) (i : Nat) (f : Island → Island) : (s.updIsland i f).nextKey = s.nextKey := rfl
@[simp] theorem State.updIsland_freeCount (s : State) (i : Nat) (f : Island → Island) : (s.updIsland i f).freeCount = s.freeCount := rfl
@[simp] theorem State.updIsland_agenda (s : State) (i : Nat) (f : Island → Island) : (s.updIsland i f).agenda = s.agenda := rfl
@[simp] theorem State.updIsland_devTurn (s : State) (i : Nat) (f : Island → Island) : (s.updIsland i f).devTurn = s.devTurn := rfl
@[simp] theorem State.updIsland_devCount (s : State) (i : Nat) (f : Island → Island) : (s.updIsland i f).devCount = s.devCount := rfl
@[simp] theorem State.updIsland_curUnit (s : State) (i : Nat) (f : Island → Island) : (s.updIsland i f).curUnit = s.curUnit := rfl
@[simp] theorem State.updIsland_latent (s : State) (i : Nat) (f : Island → Island) : (s.updIsland i f).latent = s.latent := rfl
@[simp] theorem State.updIsland_unfixable (s : State) (i : Nat) (f : Island → Island) : (s.updIsland i f).unfixable = s.unfixable := rfl
@[simp] theorem State.updIsland_corrected (s : State) (i : Nat) (f : Island → Island) : (s.updIsland i f).corrected = s.corrected := rfl
@[simp] theorem State.updIsland_output (s : State) (i : Nat) (f : Island → Island) : (s.updIsland i f).output = s.output := rfl

/-! ### State.setMem -/

@[simp] theorem State.setMem_seqs (s : State) (m : List Host.Cell) : (s.setMem m).seqs = s.seqs := rfl
@[simp] theorem State.setMem_dieTlb (s : State) (m : List Host.Cell) : (s.setMem m).dieTlb = s.dieTlb := rfl
@[simp] theorem State.setMem_cores (s : State) (m : List Host.Cell) : (s.setMem m).cores = s.cores := rfl
@[simp] theorem State.setMem_lines (s : State) (m : List Host.Cell) : (s.setMem m).lines = s.lines := rfl
@[simp] theorem State.setMem_slices (s : State) (m : List Host.Cell) : (s.setMem m).slices = s.slices := rfl
@[simp] theorem State.setMem_channels (s : State) (m : List Host.Cell) : (s.setMem m).channels = s.channels := rfl
@[simp] theorem State.setMem_parts (s : State) (m : List Host.Cell) : (s.setMem m).parts = s.parts := rfl
@[simp] theorem State.setMem_keys (s : State) (m : List Host.Cell) : (s.setMem m).keys = s.keys := rfl
@[simp] theorem State.setMem_keyValues (s : State) (m : List Host.Cell) : (s.setMem m).keyValues = s.keyValues := rfl
@[simp] theorem State.setMem_islands (s : State) (m : List Host.Cell) : (s.setMem m).islands = s.islands := rfl
@[simp] theorem State.setMem_portsDown (s : State) (m : List Host.Cell) : (s.setMem m).portsDown = s.portsDown := rfl
@[simp] theorem State.setMem_launchQ (s : State) (m : List Host.Cell) : (s.setMem m).launchQ = s.launchQ := rfl
@[simp] theorem State.setMem_copyQ (s : State) (m : List Host.Cell) : (s.setMem m).copyQ = s.copyQ := rfl
@[simp] theorem State.setMem_taskQ (s : State) (m : List Host.Cell) : (s.setMem m).taskQ = s.taskQ := rfl
@[simp] theorem State.setMem_launches (s : State) (m : List Host.Cell) : (s.setMem m).launches = s.launches := rfl
@[simp] theorem State.setMem_gangs (s : State) (m : List Host.Cell) : (s.setMem m).gangs = s.gangs := rfl
@[simp] theorem State.setMem_saved (s : State) (m : List Host.Cell) : (s.setMem m).saved = s.saved := rfl
@[simp] theorem State.setMem_tasks (s : State) (m : List Host.Cell) : (s.setMem m).tasks = s.tasks := rfl
@[simp] theorem State.setMem_copies (s : State) (m : List Host.Cell) : (s.setMem m).copies = s.copies := rfl
@[simp] theorem State.setMem_reqs (s : State) (m : List Host.Cell) : (s.setMem m).reqs = s.reqs := rfl
@[simp] theorem State.setMem_inbox (s : State) (m : List Host.Cell) : (s.setMem m).inbox = s.inbox := rfl
@[simp] theorem State.setMem_hgOps (s : State) (m : List Host.Cell) : (s.setMem m).hgOps = s.hgOps := rfl
@[simp] theorem State.setMem_appends (s : State) (m : List Host.Cell) : (s.setMem m).appends = s.appends := rfl
@[simp] theorem State.setMem_faults (s : State) (m : List Host.Cell) : (s.setMem m).faults = s.faults := rfl
@[simp] theorem State.setMem_entries (s : State) (m : List Host.Cell) : (s.setMem m).entries = s.entries := rfl
@[simp] theorem State.setMem_commands (s : State) (m : List Host.Cell) : (s.setMem m).commands = s.commands := rfl
@[simp] theorem State.setMem_copybooks (s : State) (m : List Host.Cell) : (s.setMem m).copybooks = s.copybooks := rfl
@[simp] theorem State.setMem_recordings (s : State) (m : List Host.Cell) : (s.setMem m).recordings = s.recordings := rfl
@[simp] theorem State.setMem_host (s : State) (m : List Host.Cell) : (s.setMem m).host = s.host := rfl
@[simp] theorem State.setMem_engines (s : State) (m : List Host.Cell) : (s.setMem m).engines = s.engines := rfl
@[simp] theorem State.setMem_flitTx (s : State) (m : List Host.Cell) : (s.setMem m).flitTx = s.flitTx := rfl
@[simp] theorem State.setMem_flitRx (s : State) (m : List Host.Cell) : (s.setMem m).flitRx = s.flitRx := rfl
@[simp] theorem State.setMem_extends3 (s : State) (m : List Host.Cell) : (s.setMem m).extends3 = s.extends3 := rfl
@[simp] theorem State.setMem_extends4 (s : State) (m : List Host.Cell) : (s.setMem m).extends4 = s.extends4 := rfl
@[simp] theorem State.setMem_booted (s : State) (m : List Host.Cell) : (s.setMem m).booted = s.booted := rfl
@[simp] theorem State.setMem_sparesUsed (s : State) (m : List Host.Cell) : (s.setMem m).sparesUsed = s.sparesUsed := rfl
@[simp] theorem State.setMem_modreg (s : State) (m : List Host.Cell) : (s.setMem m).modreg = s.modreg := rfl
@[simp] theorem State.setMem_power (s : State) (m : List Host.Cell) : (s.setMem m).power = s.power := rfl
@[simp] theorem State.setMem_cmdWidx (s : State) (m : List Host.Cell) : (s.setMem m).cmdWidx = s.cmdWidx := rfl
@[simp] theorem State.setMem_cmdRidx (s : State) (m : List Host.Cell) : (s.setMem m).cmdRidx = s.cmdRidx := rfl
@[simp] theorem State.setMem_now (s : State) (m : List Host.Cell) : (s.setMem m).now = s.now := rfl
@[simp] theorem State.setMem_nextId (s : State) (m : List Host.Cell) : (s.setMem m).nextId = s.nextId := rfl
@[simp] theorem State.setMem_nextKey (s : State) (m : List Host.Cell) : (s.setMem m).nextKey = s.nextKey := rfl
@[simp] theorem State.setMem_freeCount (s : State) (m : List Host.Cell) : (s.setMem m).freeCount = s.freeCount := rfl
@[simp] theorem State.setMem_agenda (s : State) (m : List Host.Cell) : (s.setMem m).agenda = s.agenda := rfl
@[simp] theorem State.setMem_devTurn (s : State) (m : List Host.Cell) : (s.setMem m).devTurn = s.devTurn := rfl
@[simp] theorem State.setMem_devCount (s : State) (m : List Host.Cell) : (s.setMem m).devCount = s.devCount := rfl
@[simp] theorem State.setMem_curUnit (s : State) (m : List Host.Cell) : (s.setMem m).curUnit = s.curUnit := rfl
@[simp] theorem State.setMem_latent (s : State) (m : List Host.Cell) : (s.setMem m).latent = s.latent := rfl
@[simp] theorem State.setMem_unfixable (s : State) (m : List Host.Cell) : (s.setMem m).unfixable = s.unfixable := rfl
@[simp] theorem State.setMem_corrected (s : State) (m : List Host.Cell) : (s.setMem m).corrected = s.corrected := rfl
@[simp] theorem State.setMem_output (s : State) (m : List Host.Cell) : (s.setMem m).output = s.output := rfl

/-! ### State.updGang -/

@[simp] theorem State.updGang_seqs (s : State) (g : Nat) (f : Gang → Gang) : (s.updGang g f).seqs = s.seqs := rfl
@[simp] theorem State.updGang_dieTlb (s : State) (g : Nat) (f : Gang → Gang) : (s.updGang g f).dieTlb = s.dieTlb := rfl
@[simp] theorem State.updGang_cores (s : State) (g : Nat) (f : Gang → Gang) : (s.updGang g f).cores = s.cores := rfl
@[simp] theorem State.updGang_mem (s : State) (g : Nat) (f : Gang → Gang) : (s.updGang g f).mem = s.mem := rfl
@[simp] theorem State.updGang_lines (s : State) (g : Nat) (f : Gang → Gang) : (s.updGang g f).lines = s.lines := rfl
@[simp] theorem State.updGang_slices (s : State) (g : Nat) (f : Gang → Gang) : (s.updGang g f).slices = s.slices := rfl
@[simp] theorem State.updGang_channels (s : State) (g : Nat) (f : Gang → Gang) : (s.updGang g f).channels = s.channels := rfl
@[simp] theorem State.updGang_parts (s : State) (g : Nat) (f : Gang → Gang) : (s.updGang g f).parts = s.parts := rfl
@[simp] theorem State.updGang_keys (s : State) (g : Nat) (f : Gang → Gang) : (s.updGang g f).keys = s.keys := rfl
@[simp] theorem State.updGang_keyValues (s : State) (g : Nat) (f : Gang → Gang) : (s.updGang g f).keyValues = s.keyValues := rfl
@[simp] theorem State.updGang_islands (s : State) (g : Nat) (f : Gang → Gang) : (s.updGang g f).islands = s.islands := rfl
@[simp] theorem State.updGang_portsDown (s : State) (g : Nat) (f : Gang → Gang) : (s.updGang g f).portsDown = s.portsDown := rfl
@[simp] theorem State.updGang_launchQ (s : State) (g : Nat) (f : Gang → Gang) : (s.updGang g f).launchQ = s.launchQ := rfl
@[simp] theorem State.updGang_copyQ (s : State) (g : Nat) (f : Gang → Gang) : (s.updGang g f).copyQ = s.copyQ := rfl
@[simp] theorem State.updGang_taskQ (s : State) (g : Nat) (f : Gang → Gang) : (s.updGang g f).taskQ = s.taskQ := rfl
@[simp] theorem State.updGang_launches (s : State) (g : Nat) (f : Gang → Gang) : (s.updGang g f).launches = s.launches := rfl
@[simp] theorem State.updGang_saved (s : State) (g : Nat) (f : Gang → Gang) : (s.updGang g f).saved = s.saved := rfl
@[simp] theorem State.updGang_tasks (s : State) (g : Nat) (f : Gang → Gang) : (s.updGang g f).tasks = s.tasks := rfl
@[simp] theorem State.updGang_copies (s : State) (g : Nat) (f : Gang → Gang) : (s.updGang g f).copies = s.copies := rfl
@[simp] theorem State.updGang_reqs (s : State) (g : Nat) (f : Gang → Gang) : (s.updGang g f).reqs = s.reqs := rfl
@[simp] theorem State.updGang_inbox (s : State) (g : Nat) (f : Gang → Gang) : (s.updGang g f).inbox = s.inbox := rfl
@[simp] theorem State.updGang_hgOps (s : State) (g : Nat) (f : Gang → Gang) : (s.updGang g f).hgOps = s.hgOps := rfl
@[simp] theorem State.updGang_appends (s : State) (g : Nat) (f : Gang → Gang) : (s.updGang g f).appends = s.appends := rfl
@[simp] theorem State.updGang_faults (s : State) (g : Nat) (f : Gang → Gang) : (s.updGang g f).faults = s.faults := rfl
@[simp] theorem State.updGang_entries (s : State) (g : Nat) (f : Gang → Gang) : (s.updGang g f).entries = s.entries := rfl
@[simp] theorem State.updGang_commands (s : State) (g : Nat) (f : Gang → Gang) : (s.updGang g f).commands = s.commands := rfl
@[simp] theorem State.updGang_copybooks (s : State) (g : Nat) (f : Gang → Gang) : (s.updGang g f).copybooks = s.copybooks := rfl
@[simp] theorem State.updGang_recordings (s : State) (g : Nat) (f : Gang → Gang) : (s.updGang g f).recordings = s.recordings := rfl
@[simp] theorem State.updGang_host (s : State) (g : Nat) (f : Gang → Gang) : (s.updGang g f).host = s.host := rfl
@[simp] theorem State.updGang_engines (s : State) (g : Nat) (f : Gang → Gang) : (s.updGang g f).engines = s.engines := rfl
@[simp] theorem State.updGang_flitTx (s : State) (g : Nat) (f : Gang → Gang) : (s.updGang g f).flitTx = s.flitTx := rfl
@[simp] theorem State.updGang_flitRx (s : State) (g : Nat) (f : Gang → Gang) : (s.updGang g f).flitRx = s.flitRx := rfl
@[simp] theorem State.updGang_extends3 (s : State) (g : Nat) (f : Gang → Gang) : (s.updGang g f).extends3 = s.extends3 := rfl
@[simp] theorem State.updGang_extends4 (s : State) (g : Nat) (f : Gang → Gang) : (s.updGang g f).extends4 = s.extends4 := rfl
@[simp] theorem State.updGang_booted (s : State) (g : Nat) (f : Gang → Gang) : (s.updGang g f).booted = s.booted := rfl
@[simp] theorem State.updGang_sparesUsed (s : State) (g : Nat) (f : Gang → Gang) : (s.updGang g f).sparesUsed = s.sparesUsed := rfl
@[simp] theorem State.updGang_modreg (s : State) (g : Nat) (f : Gang → Gang) : (s.updGang g f).modreg = s.modreg := rfl
@[simp] theorem State.updGang_power (s : State) (g : Nat) (f : Gang → Gang) : (s.updGang g f).power = s.power := rfl
@[simp] theorem State.updGang_cmdWidx (s : State) (g : Nat) (f : Gang → Gang) : (s.updGang g f).cmdWidx = s.cmdWidx := rfl
@[simp] theorem State.updGang_cmdRidx (s : State) (g : Nat) (f : Gang → Gang) : (s.updGang g f).cmdRidx = s.cmdRidx := rfl
@[simp] theorem State.updGang_now (s : State) (g : Nat) (f : Gang → Gang) : (s.updGang g f).now = s.now := rfl
@[simp] theorem State.updGang_nextId (s : State) (g : Nat) (f : Gang → Gang) : (s.updGang g f).nextId = s.nextId := rfl
@[simp] theorem State.updGang_nextKey (s : State) (g : Nat) (f : Gang → Gang) : (s.updGang g f).nextKey = s.nextKey := rfl
@[simp] theorem State.updGang_freeCount (s : State) (g : Nat) (f : Gang → Gang) : (s.updGang g f).freeCount = s.freeCount := rfl
@[simp] theorem State.updGang_agenda (s : State) (g : Nat) (f : Gang → Gang) : (s.updGang g f).agenda = s.agenda := rfl
@[simp] theorem State.updGang_devTurn (s : State) (g : Nat) (f : Gang → Gang) : (s.updGang g f).devTurn = s.devTurn := rfl
@[simp] theorem State.updGang_devCount (s : State) (g : Nat) (f : Gang → Gang) : (s.updGang g f).devCount = s.devCount := rfl
@[simp] theorem State.updGang_curUnit (s : State) (g : Nat) (f : Gang → Gang) : (s.updGang g f).curUnit = s.curUnit := rfl
@[simp] theorem State.updGang_latent (s : State) (g : Nat) (f : Gang → Gang) : (s.updGang g f).latent = s.latent := rfl
@[simp] theorem State.updGang_unfixable (s : State) (g : Nat) (f : Gang → Gang) : (s.updGang g f).unfixable = s.unfixable := rfl
@[simp] theorem State.updGang_corrected (s : State) (g : Nat) (f : Gang → Gang) : (s.updGang g f).corrected = s.corrected := rfl
@[simp] theorem State.updGang_output (s : State) (g : Nat) (f : Gang → Gang) : (s.updGang g f).output = s.output := rfl

/-! ### State.updTask -/

@[simp] theorem State.updTask_seqs (s : State) (t : Nat) (f : Task → Task) : (s.updTask t f).seqs = s.seqs := rfl
@[simp] theorem State.updTask_dieTlb (s : State) (t : Nat) (f : Task → Task) : (s.updTask t f).dieTlb = s.dieTlb := rfl
@[simp] theorem State.updTask_cores (s : State) (t : Nat) (f : Task → Task) : (s.updTask t f).cores = s.cores := rfl
@[simp] theorem State.updTask_mem (s : State) (t : Nat) (f : Task → Task) : (s.updTask t f).mem = s.mem := rfl
@[simp] theorem State.updTask_lines (s : State) (t : Nat) (f : Task → Task) : (s.updTask t f).lines = s.lines := rfl
@[simp] theorem State.updTask_slices (s : State) (t : Nat) (f : Task → Task) : (s.updTask t f).slices = s.slices := rfl
@[simp] theorem State.updTask_channels (s : State) (t : Nat) (f : Task → Task) : (s.updTask t f).channels = s.channels := rfl
@[simp] theorem State.updTask_parts (s : State) (t : Nat) (f : Task → Task) : (s.updTask t f).parts = s.parts := rfl
@[simp] theorem State.updTask_keys (s : State) (t : Nat) (f : Task → Task) : (s.updTask t f).keys = s.keys := rfl
@[simp] theorem State.updTask_keyValues (s : State) (t : Nat) (f : Task → Task) : (s.updTask t f).keyValues = s.keyValues := rfl
@[simp] theorem State.updTask_islands (s : State) (t : Nat) (f : Task → Task) : (s.updTask t f).islands = s.islands := rfl
@[simp] theorem State.updTask_portsDown (s : State) (t : Nat) (f : Task → Task) : (s.updTask t f).portsDown = s.portsDown := rfl
@[simp] theorem State.updTask_launchQ (s : State) (t : Nat) (f : Task → Task) : (s.updTask t f).launchQ = s.launchQ := rfl
@[simp] theorem State.updTask_copyQ (s : State) (t : Nat) (f : Task → Task) : (s.updTask t f).copyQ = s.copyQ := rfl
@[simp] theorem State.updTask_taskQ (s : State) (t : Nat) (f : Task → Task) : (s.updTask t f).taskQ = s.taskQ := rfl
@[simp] theorem State.updTask_launches (s : State) (t : Nat) (f : Task → Task) : (s.updTask t f).launches = s.launches := rfl
@[simp] theorem State.updTask_gangs (s : State) (t : Nat) (f : Task → Task) : (s.updTask t f).gangs = s.gangs := rfl
@[simp] theorem State.updTask_saved (s : State) (t : Nat) (f : Task → Task) : (s.updTask t f).saved = s.saved := rfl
@[simp] theorem State.updTask_copies (s : State) (t : Nat) (f : Task → Task) : (s.updTask t f).copies = s.copies := rfl
@[simp] theorem State.updTask_reqs (s : State) (t : Nat) (f : Task → Task) : (s.updTask t f).reqs = s.reqs := rfl
@[simp] theorem State.updTask_inbox (s : State) (t : Nat) (f : Task → Task) : (s.updTask t f).inbox = s.inbox := rfl
@[simp] theorem State.updTask_hgOps (s : State) (t : Nat) (f : Task → Task) : (s.updTask t f).hgOps = s.hgOps := rfl
@[simp] theorem State.updTask_appends (s : State) (t : Nat) (f : Task → Task) : (s.updTask t f).appends = s.appends := rfl
@[simp] theorem State.updTask_faults (s : State) (t : Nat) (f : Task → Task) : (s.updTask t f).faults = s.faults := rfl
@[simp] theorem State.updTask_entries (s : State) (t : Nat) (f : Task → Task) : (s.updTask t f).entries = s.entries := rfl
@[simp] theorem State.updTask_commands (s : State) (t : Nat) (f : Task → Task) : (s.updTask t f).commands = s.commands := rfl
@[simp] theorem State.updTask_copybooks (s : State) (t : Nat) (f : Task → Task) : (s.updTask t f).copybooks = s.copybooks := rfl
@[simp] theorem State.updTask_recordings (s : State) (t : Nat) (f : Task → Task) : (s.updTask t f).recordings = s.recordings := rfl
@[simp] theorem State.updTask_host (s : State) (t : Nat) (f : Task → Task) : (s.updTask t f).host = s.host := rfl
@[simp] theorem State.updTask_engines (s : State) (t : Nat) (f : Task → Task) : (s.updTask t f).engines = s.engines := rfl
@[simp] theorem State.updTask_flitTx (s : State) (t : Nat) (f : Task → Task) : (s.updTask t f).flitTx = s.flitTx := rfl
@[simp] theorem State.updTask_flitRx (s : State) (t : Nat) (f : Task → Task) : (s.updTask t f).flitRx = s.flitRx := rfl
@[simp] theorem State.updTask_extends3 (s : State) (t : Nat) (f : Task → Task) : (s.updTask t f).extends3 = s.extends3 := rfl
@[simp] theorem State.updTask_extends4 (s : State) (t : Nat) (f : Task → Task) : (s.updTask t f).extends4 = s.extends4 := rfl
@[simp] theorem State.updTask_booted (s : State) (t : Nat) (f : Task → Task) : (s.updTask t f).booted = s.booted := rfl
@[simp] theorem State.updTask_sparesUsed (s : State) (t : Nat) (f : Task → Task) : (s.updTask t f).sparesUsed = s.sparesUsed := rfl
@[simp] theorem State.updTask_modreg (s : State) (t : Nat) (f : Task → Task) : (s.updTask t f).modreg = s.modreg := rfl
@[simp] theorem State.updTask_power (s : State) (t : Nat) (f : Task → Task) : (s.updTask t f).power = s.power := rfl
@[simp] theorem State.updTask_cmdWidx (s : State) (t : Nat) (f : Task → Task) : (s.updTask t f).cmdWidx = s.cmdWidx := rfl
@[simp] theorem State.updTask_cmdRidx (s : State) (t : Nat) (f : Task → Task) : (s.updTask t f).cmdRidx = s.cmdRidx := rfl
@[simp] theorem State.updTask_now (s : State) (t : Nat) (f : Task → Task) : (s.updTask t f).now = s.now := rfl
@[simp] theorem State.updTask_nextId (s : State) (t : Nat) (f : Task → Task) : (s.updTask t f).nextId = s.nextId := rfl
@[simp] theorem State.updTask_nextKey (s : State) (t : Nat) (f : Task → Task) : (s.updTask t f).nextKey = s.nextKey := rfl
@[simp] theorem State.updTask_freeCount (s : State) (t : Nat) (f : Task → Task) : (s.updTask t f).freeCount = s.freeCount := rfl
@[simp] theorem State.updTask_agenda (s : State) (t : Nat) (f : Task → Task) : (s.updTask t f).agenda = s.agenda := rfl
@[simp] theorem State.updTask_devTurn (s : State) (t : Nat) (f : Task → Task) : (s.updTask t f).devTurn = s.devTurn := rfl
@[simp] theorem State.updTask_devCount (s : State) (t : Nat) (f : Task → Task) : (s.updTask t f).devCount = s.devCount := rfl
@[simp] theorem State.updTask_curUnit (s : State) (t : Nat) (f : Task → Task) : (s.updTask t f).curUnit = s.curUnit := rfl
@[simp] theorem State.updTask_latent (s : State) (t : Nat) (f : Task → Task) : (s.updTask t f).latent = s.latent := rfl
@[simp] theorem State.updTask_unfixable (s : State) (t : Nat) (f : Task → Task) : (s.updTask t f).unfixable = s.unfixable := rfl
@[simp] theorem State.updTask_corrected (s : State) (t : Nat) (f : Task → Task) : (s.updTask t f).corrected = s.corrected := rfl
@[simp] theorem State.updTask_output (s : State) (t : Nat) (f : Task → Task) : (s.updTask t f).output = s.output := rfl

/-! ### State.updLaunch -/

@[simp] theorem State.updLaunch_seqs (s : State) (l : Nat) (f : Launch → Launch) : (s.updLaunch l f).seqs = s.seqs := rfl
@[simp] theorem State.updLaunch_dieTlb (s : State) (l : Nat) (f : Launch → Launch) : (s.updLaunch l f).dieTlb = s.dieTlb := rfl
@[simp] theorem State.updLaunch_cores (s : State) (l : Nat) (f : Launch → Launch) : (s.updLaunch l f).cores = s.cores := rfl
@[simp] theorem State.updLaunch_mem (s : State) (l : Nat) (f : Launch → Launch) : (s.updLaunch l f).mem = s.mem := rfl
@[simp] theorem State.updLaunch_lines (s : State) (l : Nat) (f : Launch → Launch) : (s.updLaunch l f).lines = s.lines := rfl
@[simp] theorem State.updLaunch_slices (s : State) (l : Nat) (f : Launch → Launch) : (s.updLaunch l f).slices = s.slices := rfl
@[simp] theorem State.updLaunch_channels (s : State) (l : Nat) (f : Launch → Launch) : (s.updLaunch l f).channels = s.channels := rfl
@[simp] theorem State.updLaunch_parts (s : State) (l : Nat) (f : Launch → Launch) : (s.updLaunch l f).parts = s.parts := rfl
@[simp] theorem State.updLaunch_keys (s : State) (l : Nat) (f : Launch → Launch) : (s.updLaunch l f).keys = s.keys := rfl
@[simp] theorem State.updLaunch_keyValues (s : State) (l : Nat) (f : Launch → Launch) : (s.updLaunch l f).keyValues = s.keyValues := rfl
@[simp] theorem State.updLaunch_islands (s : State) (l : Nat) (f : Launch → Launch) : (s.updLaunch l f).islands = s.islands := rfl
@[simp] theorem State.updLaunch_portsDown (s : State) (l : Nat) (f : Launch → Launch) : (s.updLaunch l f).portsDown = s.portsDown := rfl
@[simp] theorem State.updLaunch_launchQ (s : State) (l : Nat) (f : Launch → Launch) : (s.updLaunch l f).launchQ = s.launchQ := rfl
@[simp] theorem State.updLaunch_copyQ (s : State) (l : Nat) (f : Launch → Launch) : (s.updLaunch l f).copyQ = s.copyQ := rfl
@[simp] theorem State.updLaunch_taskQ (s : State) (l : Nat) (f : Launch → Launch) : (s.updLaunch l f).taskQ = s.taskQ := rfl
@[simp] theorem State.updLaunch_gangs (s : State) (l : Nat) (f : Launch → Launch) : (s.updLaunch l f).gangs = s.gangs := rfl
@[simp] theorem State.updLaunch_saved (s : State) (l : Nat) (f : Launch → Launch) : (s.updLaunch l f).saved = s.saved := rfl
@[simp] theorem State.updLaunch_tasks (s : State) (l : Nat) (f : Launch → Launch) : (s.updLaunch l f).tasks = s.tasks := rfl
@[simp] theorem State.updLaunch_copies (s : State) (l : Nat) (f : Launch → Launch) : (s.updLaunch l f).copies = s.copies := rfl
@[simp] theorem State.updLaunch_reqs (s : State) (l : Nat) (f : Launch → Launch) : (s.updLaunch l f).reqs = s.reqs := rfl
@[simp] theorem State.updLaunch_inbox (s : State) (l : Nat) (f : Launch → Launch) : (s.updLaunch l f).inbox = s.inbox := rfl
@[simp] theorem State.updLaunch_hgOps (s : State) (l : Nat) (f : Launch → Launch) : (s.updLaunch l f).hgOps = s.hgOps := rfl
@[simp] theorem State.updLaunch_appends (s : State) (l : Nat) (f : Launch → Launch) : (s.updLaunch l f).appends = s.appends := rfl
@[simp] theorem State.updLaunch_faults (s : State) (l : Nat) (f : Launch → Launch) : (s.updLaunch l f).faults = s.faults := rfl
@[simp] theorem State.updLaunch_entries (s : State) (l : Nat) (f : Launch → Launch) : (s.updLaunch l f).entries = s.entries := rfl
@[simp] theorem State.updLaunch_commands (s : State) (l : Nat) (f : Launch → Launch) : (s.updLaunch l f).commands = s.commands := rfl
@[simp] theorem State.updLaunch_copybooks (s : State) (l : Nat) (f : Launch → Launch) : (s.updLaunch l f).copybooks = s.copybooks := rfl
@[simp] theorem State.updLaunch_recordings (s : State) (l : Nat) (f : Launch → Launch) : (s.updLaunch l f).recordings = s.recordings := rfl
@[simp] theorem State.updLaunch_host (s : State) (l : Nat) (f : Launch → Launch) : (s.updLaunch l f).host = s.host := rfl
@[simp] theorem State.updLaunch_engines (s : State) (l : Nat) (f : Launch → Launch) : (s.updLaunch l f).engines = s.engines := rfl
@[simp] theorem State.updLaunch_flitTx (s : State) (l : Nat) (f : Launch → Launch) : (s.updLaunch l f).flitTx = s.flitTx := rfl
@[simp] theorem State.updLaunch_flitRx (s : State) (l : Nat) (f : Launch → Launch) : (s.updLaunch l f).flitRx = s.flitRx := rfl
@[simp] theorem State.updLaunch_extends3 (s : State) (l : Nat) (f : Launch → Launch) : (s.updLaunch l f).extends3 = s.extends3 := rfl
@[simp] theorem State.updLaunch_extends4 (s : State) (l : Nat) (f : Launch → Launch) : (s.updLaunch l f).extends4 = s.extends4 := rfl
@[simp] theorem State.updLaunch_booted (s : State) (l : Nat) (f : Launch → Launch) : (s.updLaunch l f).booted = s.booted := rfl
@[simp] theorem State.updLaunch_sparesUsed (s : State) (l : Nat) (f : Launch → Launch) : (s.updLaunch l f).sparesUsed = s.sparesUsed := rfl
@[simp] theorem State.updLaunch_modreg (s : State) (l : Nat) (f : Launch → Launch) : (s.updLaunch l f).modreg = s.modreg := rfl
@[simp] theorem State.updLaunch_power (s : State) (l : Nat) (f : Launch → Launch) : (s.updLaunch l f).power = s.power := rfl
@[simp] theorem State.updLaunch_cmdWidx (s : State) (l : Nat) (f : Launch → Launch) : (s.updLaunch l f).cmdWidx = s.cmdWidx := rfl
@[simp] theorem State.updLaunch_cmdRidx (s : State) (l : Nat) (f : Launch → Launch) : (s.updLaunch l f).cmdRidx = s.cmdRidx := rfl
@[simp] theorem State.updLaunch_now (s : State) (l : Nat) (f : Launch → Launch) : (s.updLaunch l f).now = s.now := rfl
@[simp] theorem State.updLaunch_nextId (s : State) (l : Nat) (f : Launch → Launch) : (s.updLaunch l f).nextId = s.nextId := rfl
@[simp] theorem State.updLaunch_nextKey (s : State) (l : Nat) (f : Launch → Launch) : (s.updLaunch l f).nextKey = s.nextKey := rfl
@[simp] theorem State.updLaunch_freeCount (s : State) (l : Nat) (f : Launch → Launch) : (s.updLaunch l f).freeCount = s.freeCount := rfl
@[simp] theorem State.updLaunch_agenda (s : State) (l : Nat) (f : Launch → Launch) : (s.updLaunch l f).agenda = s.agenda := rfl
@[simp] theorem State.updLaunch_devTurn (s : State) (l : Nat) (f : Launch → Launch) : (s.updLaunch l f).devTurn = s.devTurn := rfl
@[simp] theorem State.updLaunch_devCount (s : State) (l : Nat) (f : Launch → Launch) : (s.updLaunch l f).devCount = s.devCount := rfl
@[simp] theorem State.updLaunch_curUnit (s : State) (l : Nat) (f : Launch → Launch) : (s.updLaunch l f).curUnit = s.curUnit := rfl
@[simp] theorem State.updLaunch_latent (s : State) (l : Nat) (f : Launch → Launch) : (s.updLaunch l f).latent = s.latent := rfl
@[simp] theorem State.updLaunch_unfixable (s : State) (l : Nat) (f : Launch → Launch) : (s.updLaunch l f).unfixable = s.unfixable := rfl
@[simp] theorem State.updLaunch_corrected (s : State) (l : Nat) (f : Launch → Launch) : (s.updLaunch l f).corrected = s.corrected := rfl
@[simp] theorem State.updLaunch_output (s : State) (l : Nat) (f : Launch → Launch) : (s.updLaunch l f).output = s.output := rfl

/-! ### State.updCopy -/

@[simp] theorem State.updCopy_seqs (s : State) (c : Nat) (f : Copy → Copy) : (s.updCopy c f).seqs = s.seqs := rfl
@[simp] theorem State.updCopy_dieTlb (s : State) (c : Nat) (f : Copy → Copy) : (s.updCopy c f).dieTlb = s.dieTlb := rfl
@[simp] theorem State.updCopy_cores (s : State) (c : Nat) (f : Copy → Copy) : (s.updCopy c f).cores = s.cores := rfl
@[simp] theorem State.updCopy_mem (s : State) (c : Nat) (f : Copy → Copy) : (s.updCopy c f).mem = s.mem := rfl
@[simp] theorem State.updCopy_lines (s : State) (c : Nat) (f : Copy → Copy) : (s.updCopy c f).lines = s.lines := rfl
@[simp] theorem State.updCopy_slices (s : State) (c : Nat) (f : Copy → Copy) : (s.updCopy c f).slices = s.slices := rfl
@[simp] theorem State.updCopy_channels (s : State) (c : Nat) (f : Copy → Copy) : (s.updCopy c f).channels = s.channels := rfl
@[simp] theorem State.updCopy_parts (s : State) (c : Nat) (f : Copy → Copy) : (s.updCopy c f).parts = s.parts := rfl
@[simp] theorem State.updCopy_keys (s : State) (c : Nat) (f : Copy → Copy) : (s.updCopy c f).keys = s.keys := rfl
@[simp] theorem State.updCopy_keyValues (s : State) (c : Nat) (f : Copy → Copy) : (s.updCopy c f).keyValues = s.keyValues := rfl
@[simp] theorem State.updCopy_islands (s : State) (c : Nat) (f : Copy → Copy) : (s.updCopy c f).islands = s.islands := rfl
@[simp] theorem State.updCopy_portsDown (s : State) (c : Nat) (f : Copy → Copy) : (s.updCopy c f).portsDown = s.portsDown := rfl
@[simp] theorem State.updCopy_launchQ (s : State) (c : Nat) (f : Copy → Copy) : (s.updCopy c f).launchQ = s.launchQ := rfl
@[simp] theorem State.updCopy_copyQ (s : State) (c : Nat) (f : Copy → Copy) : (s.updCopy c f).copyQ = s.copyQ := rfl
@[simp] theorem State.updCopy_taskQ (s : State) (c : Nat) (f : Copy → Copy) : (s.updCopy c f).taskQ = s.taskQ := rfl
@[simp] theorem State.updCopy_launches (s : State) (c : Nat) (f : Copy → Copy) : (s.updCopy c f).launches = s.launches := rfl
@[simp] theorem State.updCopy_gangs (s : State) (c : Nat) (f : Copy → Copy) : (s.updCopy c f).gangs = s.gangs := rfl
@[simp] theorem State.updCopy_saved (s : State) (c : Nat) (f : Copy → Copy) : (s.updCopy c f).saved = s.saved := rfl
@[simp] theorem State.updCopy_tasks (s : State) (c : Nat) (f : Copy → Copy) : (s.updCopy c f).tasks = s.tasks := rfl
@[simp] theorem State.updCopy_reqs (s : State) (c : Nat) (f : Copy → Copy) : (s.updCopy c f).reqs = s.reqs := rfl
@[simp] theorem State.updCopy_inbox (s : State) (c : Nat) (f : Copy → Copy) : (s.updCopy c f).inbox = s.inbox := rfl
@[simp] theorem State.updCopy_hgOps (s : State) (c : Nat) (f : Copy → Copy) : (s.updCopy c f).hgOps = s.hgOps := rfl
@[simp] theorem State.updCopy_appends (s : State) (c : Nat) (f : Copy → Copy) : (s.updCopy c f).appends = s.appends := rfl
@[simp] theorem State.updCopy_faults (s : State) (c : Nat) (f : Copy → Copy) : (s.updCopy c f).faults = s.faults := rfl
@[simp] theorem State.updCopy_entries (s : State) (c : Nat) (f : Copy → Copy) : (s.updCopy c f).entries = s.entries := rfl
@[simp] theorem State.updCopy_commands (s : State) (c : Nat) (f : Copy → Copy) : (s.updCopy c f).commands = s.commands := rfl
@[simp] theorem State.updCopy_copybooks (s : State) (c : Nat) (f : Copy → Copy) : (s.updCopy c f).copybooks = s.copybooks := rfl
@[simp] theorem State.updCopy_recordings (s : State) (c : Nat) (f : Copy → Copy) : (s.updCopy c f).recordings = s.recordings := rfl
@[simp] theorem State.updCopy_host (s : State) (c : Nat) (f : Copy → Copy) : (s.updCopy c f).host = s.host := rfl
@[simp] theorem State.updCopy_engines (s : State) (c : Nat) (f : Copy → Copy) : (s.updCopy c f).engines = s.engines := rfl
@[simp] theorem State.updCopy_flitTx (s : State) (c : Nat) (f : Copy → Copy) : (s.updCopy c f).flitTx = s.flitTx := rfl
@[simp] theorem State.updCopy_flitRx (s : State) (c : Nat) (f : Copy → Copy) : (s.updCopy c f).flitRx = s.flitRx := rfl
@[simp] theorem State.updCopy_extends3 (s : State) (c : Nat) (f : Copy → Copy) : (s.updCopy c f).extends3 = s.extends3 := rfl
@[simp] theorem State.updCopy_extends4 (s : State) (c : Nat) (f : Copy → Copy) : (s.updCopy c f).extends4 = s.extends4 := rfl
@[simp] theorem State.updCopy_booted (s : State) (c : Nat) (f : Copy → Copy) : (s.updCopy c f).booted = s.booted := rfl
@[simp] theorem State.updCopy_sparesUsed (s : State) (c : Nat) (f : Copy → Copy) : (s.updCopy c f).sparesUsed = s.sparesUsed := rfl
@[simp] theorem State.updCopy_modreg (s : State) (c : Nat) (f : Copy → Copy) : (s.updCopy c f).modreg = s.modreg := rfl
@[simp] theorem State.updCopy_power (s : State) (c : Nat) (f : Copy → Copy) : (s.updCopy c f).power = s.power := rfl
@[simp] theorem State.updCopy_cmdWidx (s : State) (c : Nat) (f : Copy → Copy) : (s.updCopy c f).cmdWidx = s.cmdWidx := rfl
@[simp] theorem State.updCopy_cmdRidx (s : State) (c : Nat) (f : Copy → Copy) : (s.updCopy c f).cmdRidx = s.cmdRidx := rfl
@[simp] theorem State.updCopy_now (s : State) (c : Nat) (f : Copy → Copy) : (s.updCopy c f).now = s.now := rfl
@[simp] theorem State.updCopy_nextId (s : State) (c : Nat) (f : Copy → Copy) : (s.updCopy c f).nextId = s.nextId := rfl
@[simp] theorem State.updCopy_nextKey (s : State) (c : Nat) (f : Copy → Copy) : (s.updCopy c f).nextKey = s.nextKey := rfl
@[simp] theorem State.updCopy_freeCount (s : State) (c : Nat) (f : Copy → Copy) : (s.updCopy c f).freeCount = s.freeCount := rfl
@[simp] theorem State.updCopy_agenda (s : State) (c : Nat) (f : Copy → Copy) : (s.updCopy c f).agenda = s.agenda := rfl
@[simp] theorem State.updCopy_devTurn (s : State) (c : Nat) (f : Copy → Copy) : (s.updCopy c f).devTurn = s.devTurn := rfl
@[simp] theorem State.updCopy_devCount (s : State) (c : Nat) (f : Copy → Copy) : (s.updCopy c f).devCount = s.devCount := rfl
@[simp] theorem State.updCopy_curUnit (s : State) (c : Nat) (f : Copy → Copy) : (s.updCopy c f).curUnit = s.curUnit := rfl
@[simp] theorem State.updCopy_latent (s : State) (c : Nat) (f : Copy → Copy) : (s.updCopy c f).latent = s.latent := rfl
@[simp] theorem State.updCopy_unfixable (s : State) (c : Nat) (f : Copy → Copy) : (s.updCopy c f).unfixable = s.unfixable := rfl
@[simp] theorem State.updCopy_corrected (s : State) (c : Nat) (f : Copy → Copy) : (s.updCopy c f).corrected = s.corrected := rfl
@[simp] theorem State.updCopy_output (s : State) (c : Nat) (f : Copy → Copy) : (s.updCopy c f).output = s.output := rfl

/-! ### State.updReq -/

@[simp] theorem State.updReq_seqs (s : State) (i : Nat) (f : Req → Req) : (s.updReq i f).seqs = s.seqs := rfl
@[simp] theorem State.updReq_dieTlb (s : State) (i : Nat) (f : Req → Req) : (s.updReq i f).dieTlb = s.dieTlb := rfl
@[simp] theorem State.updReq_cores (s : State) (i : Nat) (f : Req → Req) : (s.updReq i f).cores = s.cores := rfl
@[simp] theorem State.updReq_mem (s : State) (i : Nat) (f : Req → Req) : (s.updReq i f).mem = s.mem := rfl
@[simp] theorem State.updReq_lines (s : State) (i : Nat) (f : Req → Req) : (s.updReq i f).lines = s.lines := rfl
@[simp] theorem State.updReq_slices (s : State) (i : Nat) (f : Req → Req) : (s.updReq i f).slices = s.slices := rfl
@[simp] theorem State.updReq_channels (s : State) (i : Nat) (f : Req → Req) : (s.updReq i f).channels = s.channels := rfl
@[simp] theorem State.updReq_parts (s : State) (i : Nat) (f : Req → Req) : (s.updReq i f).parts = s.parts := rfl
@[simp] theorem State.updReq_keys (s : State) (i : Nat) (f : Req → Req) : (s.updReq i f).keys = s.keys := rfl
@[simp] theorem State.updReq_keyValues (s : State) (i : Nat) (f : Req → Req) : (s.updReq i f).keyValues = s.keyValues := rfl
@[simp] theorem State.updReq_islands (s : State) (i : Nat) (f : Req → Req) : (s.updReq i f).islands = s.islands := rfl
@[simp] theorem State.updReq_portsDown (s : State) (i : Nat) (f : Req → Req) : (s.updReq i f).portsDown = s.portsDown := rfl
@[simp] theorem State.updReq_launchQ (s : State) (i : Nat) (f : Req → Req) : (s.updReq i f).launchQ = s.launchQ := rfl
@[simp] theorem State.updReq_copyQ (s : State) (i : Nat) (f : Req → Req) : (s.updReq i f).copyQ = s.copyQ := rfl
@[simp] theorem State.updReq_taskQ (s : State) (i : Nat) (f : Req → Req) : (s.updReq i f).taskQ = s.taskQ := rfl
@[simp] theorem State.updReq_launches (s : State) (i : Nat) (f : Req → Req) : (s.updReq i f).launches = s.launches := rfl
@[simp] theorem State.updReq_gangs (s : State) (i : Nat) (f : Req → Req) : (s.updReq i f).gangs = s.gangs := rfl
@[simp] theorem State.updReq_saved (s : State) (i : Nat) (f : Req → Req) : (s.updReq i f).saved = s.saved := rfl
@[simp] theorem State.updReq_tasks (s : State) (i : Nat) (f : Req → Req) : (s.updReq i f).tasks = s.tasks := rfl
@[simp] theorem State.updReq_copies (s : State) (i : Nat) (f : Req → Req) : (s.updReq i f).copies = s.copies := rfl
@[simp] theorem State.updReq_inbox (s : State) (i : Nat) (f : Req → Req) : (s.updReq i f).inbox = s.inbox := rfl
@[simp] theorem State.updReq_hgOps (s : State) (i : Nat) (f : Req → Req) : (s.updReq i f).hgOps = s.hgOps := rfl
@[simp] theorem State.updReq_appends (s : State) (i : Nat) (f : Req → Req) : (s.updReq i f).appends = s.appends := rfl
@[simp] theorem State.updReq_faults (s : State) (i : Nat) (f : Req → Req) : (s.updReq i f).faults = s.faults := rfl
@[simp] theorem State.updReq_entries (s : State) (i : Nat) (f : Req → Req) : (s.updReq i f).entries = s.entries := rfl
@[simp] theorem State.updReq_commands (s : State) (i : Nat) (f : Req → Req) : (s.updReq i f).commands = s.commands := rfl
@[simp] theorem State.updReq_copybooks (s : State) (i : Nat) (f : Req → Req) : (s.updReq i f).copybooks = s.copybooks := rfl
@[simp] theorem State.updReq_recordings (s : State) (i : Nat) (f : Req → Req) : (s.updReq i f).recordings = s.recordings := rfl
@[simp] theorem State.updReq_host (s : State) (i : Nat) (f : Req → Req) : (s.updReq i f).host = s.host := rfl
@[simp] theorem State.updReq_engines (s : State) (i : Nat) (f : Req → Req) : (s.updReq i f).engines = s.engines := rfl
@[simp] theorem State.updReq_flitTx (s : State) (i : Nat) (f : Req → Req) : (s.updReq i f).flitTx = s.flitTx := rfl
@[simp] theorem State.updReq_flitRx (s : State) (i : Nat) (f : Req → Req) : (s.updReq i f).flitRx = s.flitRx := rfl
@[simp] theorem State.updReq_extends3 (s : State) (i : Nat) (f : Req → Req) : (s.updReq i f).extends3 = s.extends3 := rfl
@[simp] theorem State.updReq_extends4 (s : State) (i : Nat) (f : Req → Req) : (s.updReq i f).extends4 = s.extends4 := rfl
@[simp] theorem State.updReq_booted (s : State) (i : Nat) (f : Req → Req) : (s.updReq i f).booted = s.booted := rfl
@[simp] theorem State.updReq_sparesUsed (s : State) (i : Nat) (f : Req → Req) : (s.updReq i f).sparesUsed = s.sparesUsed := rfl
@[simp] theorem State.updReq_modreg (s : State) (i : Nat) (f : Req → Req) : (s.updReq i f).modreg = s.modreg := rfl
@[simp] theorem State.updReq_power (s : State) (i : Nat) (f : Req → Req) : (s.updReq i f).power = s.power := rfl
@[simp] theorem State.updReq_cmdWidx (s : State) (i : Nat) (f : Req → Req) : (s.updReq i f).cmdWidx = s.cmdWidx := rfl
@[simp] theorem State.updReq_cmdRidx (s : State) (i : Nat) (f : Req → Req) : (s.updReq i f).cmdRidx = s.cmdRidx := rfl
@[simp] theorem State.updReq_now (s : State) (i : Nat) (f : Req → Req) : (s.updReq i f).now = s.now := rfl
@[simp] theorem State.updReq_nextId (s : State) (i : Nat) (f : Req → Req) : (s.updReq i f).nextId = s.nextId := rfl
@[simp] theorem State.updReq_nextKey (s : State) (i : Nat) (f : Req → Req) : (s.updReq i f).nextKey = s.nextKey := rfl
@[simp] theorem State.updReq_freeCount (s : State) (i : Nat) (f : Req → Req) : (s.updReq i f).freeCount = s.freeCount := rfl
@[simp] theorem State.updReq_agenda (s : State) (i : Nat) (f : Req → Req) : (s.updReq i f).agenda = s.agenda := rfl
@[simp] theorem State.updReq_devTurn (s : State) (i : Nat) (f : Req → Req) : (s.updReq i f).devTurn = s.devTurn := rfl
@[simp] theorem State.updReq_devCount (s : State) (i : Nat) (f : Req → Req) : (s.updReq i f).devCount = s.devCount := rfl
@[simp] theorem State.updReq_curUnit (s : State) (i : Nat) (f : Req → Req) : (s.updReq i f).curUnit = s.curUnit := rfl
@[simp] theorem State.updReq_latent (s : State) (i : Nat) (f : Req → Req) : (s.updReq i f).latent = s.latent := rfl
@[simp] theorem State.updReq_unfixable (s : State) (i : Nat) (f : Req → Req) : (s.updReq i f).unfixable = s.unfixable := rfl
@[simp] theorem State.updReq_corrected (s : State) (i : Nat) (f : Req → Req) : (s.updReq i f).corrected = s.corrected := rfl
@[simp] theorem State.updReq_output (s : State) (i : Nat) (f : Req → Req) : (s.updReq i f).output = s.output := rfl

/-! ### State.dropReq -/

@[simp] theorem State.dropReq_seqs (s : State) (i : Nat) : (s.dropReq i).seqs = s.seqs := rfl
@[simp] theorem State.dropReq_dieTlb (s : State) (i : Nat) : (s.dropReq i).dieTlb = s.dieTlb := rfl
@[simp] theorem State.dropReq_cores (s : State) (i : Nat) : (s.dropReq i).cores = s.cores := rfl
@[simp] theorem State.dropReq_mem (s : State) (i : Nat) : (s.dropReq i).mem = s.mem := rfl
@[simp] theorem State.dropReq_lines (s : State) (i : Nat) : (s.dropReq i).lines = s.lines := rfl
@[simp] theorem State.dropReq_slices (s : State) (i : Nat) : (s.dropReq i).slices = s.slices := rfl
@[simp] theorem State.dropReq_channels (s : State) (i : Nat) : (s.dropReq i).channels = s.channels := rfl
@[simp] theorem State.dropReq_parts (s : State) (i : Nat) : (s.dropReq i).parts = s.parts := rfl
@[simp] theorem State.dropReq_keys (s : State) (i : Nat) : (s.dropReq i).keys = s.keys := rfl
@[simp] theorem State.dropReq_keyValues (s : State) (i : Nat) : (s.dropReq i).keyValues = s.keyValues := rfl
@[simp] theorem State.dropReq_islands (s : State) (i : Nat) : (s.dropReq i).islands = s.islands := rfl
@[simp] theorem State.dropReq_portsDown (s : State) (i : Nat) : (s.dropReq i).portsDown = s.portsDown := rfl
@[simp] theorem State.dropReq_launchQ (s : State) (i : Nat) : (s.dropReq i).launchQ = s.launchQ := rfl
@[simp] theorem State.dropReq_copyQ (s : State) (i : Nat) : (s.dropReq i).copyQ = s.copyQ := rfl
@[simp] theorem State.dropReq_taskQ (s : State) (i : Nat) : (s.dropReq i).taskQ = s.taskQ := rfl
@[simp] theorem State.dropReq_launches (s : State) (i : Nat) : (s.dropReq i).launches = s.launches := rfl
@[simp] theorem State.dropReq_gangs (s : State) (i : Nat) : (s.dropReq i).gangs = s.gangs := rfl
@[simp] theorem State.dropReq_saved (s : State) (i : Nat) : (s.dropReq i).saved = s.saved := rfl
@[simp] theorem State.dropReq_tasks (s : State) (i : Nat) : (s.dropReq i).tasks = s.tasks := rfl
@[simp] theorem State.dropReq_copies (s : State) (i : Nat) : (s.dropReq i).copies = s.copies := rfl
@[simp] theorem State.dropReq_inbox (s : State) (i : Nat) : (s.dropReq i).inbox = s.inbox := rfl
@[simp] theorem State.dropReq_hgOps (s : State) (i : Nat) : (s.dropReq i).hgOps = s.hgOps := rfl
@[simp] theorem State.dropReq_appends (s : State) (i : Nat) : (s.dropReq i).appends = s.appends := rfl
@[simp] theorem State.dropReq_faults (s : State) (i : Nat) : (s.dropReq i).faults = s.faults := rfl
@[simp] theorem State.dropReq_entries (s : State) (i : Nat) : (s.dropReq i).entries = s.entries := rfl
@[simp] theorem State.dropReq_commands (s : State) (i : Nat) : (s.dropReq i).commands = s.commands := rfl
@[simp] theorem State.dropReq_copybooks (s : State) (i : Nat) : (s.dropReq i).copybooks = s.copybooks := rfl
@[simp] theorem State.dropReq_recordings (s : State) (i : Nat) : (s.dropReq i).recordings = s.recordings := rfl
@[simp] theorem State.dropReq_host (s : State) (i : Nat) : (s.dropReq i).host = s.host := rfl
@[simp] theorem State.dropReq_engines (s : State) (i : Nat) : (s.dropReq i).engines = s.engines := rfl
@[simp] theorem State.dropReq_flitTx (s : State) (i : Nat) : (s.dropReq i).flitTx = s.flitTx := rfl
@[simp] theorem State.dropReq_flitRx (s : State) (i : Nat) : (s.dropReq i).flitRx = s.flitRx := rfl
@[simp] theorem State.dropReq_extends3 (s : State) (i : Nat) : (s.dropReq i).extends3 = s.extends3 := rfl
@[simp] theorem State.dropReq_extends4 (s : State) (i : Nat) : (s.dropReq i).extends4 = s.extends4 := rfl
@[simp] theorem State.dropReq_booted (s : State) (i : Nat) : (s.dropReq i).booted = s.booted := rfl
@[simp] theorem State.dropReq_sparesUsed (s : State) (i : Nat) : (s.dropReq i).sparesUsed = s.sparesUsed := rfl
@[simp] theorem State.dropReq_modreg (s : State) (i : Nat) : (s.dropReq i).modreg = s.modreg := rfl
@[simp] theorem State.dropReq_power (s : State) (i : Nat) : (s.dropReq i).power = s.power := rfl
@[simp] theorem State.dropReq_cmdWidx (s : State) (i : Nat) : (s.dropReq i).cmdWidx = s.cmdWidx := rfl
@[simp] theorem State.dropReq_cmdRidx (s : State) (i : Nat) : (s.dropReq i).cmdRidx = s.cmdRidx := rfl
@[simp] theorem State.dropReq_now (s : State) (i : Nat) : (s.dropReq i).now = s.now := rfl
@[simp] theorem State.dropReq_nextId (s : State) (i : Nat) : (s.dropReq i).nextId = s.nextId := rfl
@[simp] theorem State.dropReq_nextKey (s : State) (i : Nat) : (s.dropReq i).nextKey = s.nextKey := rfl
@[simp] theorem State.dropReq_freeCount (s : State) (i : Nat) : (s.dropReq i).freeCount = s.freeCount := rfl
@[simp] theorem State.dropReq_agenda (s : State) (i : Nat) : (s.dropReq i).agenda = s.agenda := rfl
@[simp] theorem State.dropReq_devTurn (s : State) (i : Nat) : (s.dropReq i).devTurn = s.devTurn := rfl
@[simp] theorem State.dropReq_devCount (s : State) (i : Nat) : (s.dropReq i).devCount = s.devCount := rfl
@[simp] theorem State.dropReq_curUnit (s : State) (i : Nat) : (s.dropReq i).curUnit = s.curUnit := rfl
@[simp] theorem State.dropReq_latent (s : State) (i : Nat) : (s.dropReq i).latent = s.latent := rfl
@[simp] theorem State.dropReq_unfixable (s : State) (i : Nat) : (s.dropReq i).unfixable = s.unfixable := rfl
@[simp] theorem State.dropReq_corrected (s : State) (i : Nat) : (s.dropReq i).corrected = s.corrected := rfl
@[simp] theorem State.dropReq_output (s : State) (i : Nat) : (s.dropReq i).output = s.output := rfl

/-! ### State.passTo -/

@[simp] theorem State.passTo_seqs (s : State) (t : Nat) : (s.passTo t).seqs = s.seqs := rfl
@[simp] theorem State.passTo_dieTlb (s : State) (t : Nat) : (s.passTo t).dieTlb = s.dieTlb := rfl
@[simp] theorem State.passTo_cores (s : State) (t : Nat) : (s.passTo t).cores = s.cores := rfl
@[simp] theorem State.passTo_mem (s : State) (t : Nat) : (s.passTo t).mem = s.mem := rfl
@[simp] theorem State.passTo_lines (s : State) (t : Nat) : (s.passTo t).lines = s.lines := rfl
@[simp] theorem State.passTo_slices (s : State) (t : Nat) : (s.passTo t).slices = s.slices := rfl
@[simp] theorem State.passTo_channels (s : State) (t : Nat) : (s.passTo t).channels = s.channels := rfl
@[simp] theorem State.passTo_parts (s : State) (t : Nat) : (s.passTo t).parts = s.parts := rfl
@[simp] theorem State.passTo_keys (s : State) (t : Nat) : (s.passTo t).keys = s.keys := rfl
@[simp] theorem State.passTo_keyValues (s : State) (t : Nat) : (s.passTo t).keyValues = s.keyValues := rfl
@[simp] theorem State.passTo_islands (s : State) (t : Nat) : (s.passTo t).islands = s.islands := rfl
@[simp] theorem State.passTo_portsDown (s : State) (t : Nat) : (s.passTo t).portsDown = s.portsDown := rfl
@[simp] theorem State.passTo_launchQ (s : State) (t : Nat) : (s.passTo t).launchQ = s.launchQ := rfl
@[simp] theorem State.passTo_copyQ (s : State) (t : Nat) : (s.passTo t).copyQ = s.copyQ := rfl
@[simp] theorem State.passTo_taskQ (s : State) (t : Nat) : (s.passTo t).taskQ = s.taskQ := rfl
@[simp] theorem State.passTo_launches (s : State) (t : Nat) : (s.passTo t).launches = s.launches := rfl
@[simp] theorem State.passTo_gangs (s : State) (t : Nat) : (s.passTo t).gangs = s.gangs := rfl
@[simp] theorem State.passTo_saved (s : State) (t : Nat) : (s.passTo t).saved = s.saved := rfl
@[simp] theorem State.passTo_tasks (s : State) (t : Nat) : (s.passTo t).tasks = s.tasks := rfl
@[simp] theorem State.passTo_copies (s : State) (t : Nat) : (s.passTo t).copies = s.copies := rfl
@[simp] theorem State.passTo_reqs (s : State) (t : Nat) : (s.passTo t).reqs = s.reqs := rfl
@[simp] theorem State.passTo_inbox (s : State) (t : Nat) : (s.passTo t).inbox = s.inbox := rfl
@[simp] theorem State.passTo_hgOps (s : State) (t : Nat) : (s.passTo t).hgOps = s.hgOps := rfl
@[simp] theorem State.passTo_appends (s : State) (t : Nat) : (s.passTo t).appends = s.appends := rfl
@[simp] theorem State.passTo_faults (s : State) (t : Nat) : (s.passTo t).faults = s.faults := rfl
@[simp] theorem State.passTo_entries (s : State) (t : Nat) : (s.passTo t).entries = s.entries := rfl
@[simp] theorem State.passTo_commands (s : State) (t : Nat) : (s.passTo t).commands = s.commands := rfl
@[simp] theorem State.passTo_copybooks (s : State) (t : Nat) : (s.passTo t).copybooks = s.copybooks := rfl
@[simp] theorem State.passTo_recordings (s : State) (t : Nat) : (s.passTo t).recordings = s.recordings := rfl
@[simp] theorem State.passTo_host (s : State) (t : Nat) : (s.passTo t).host = s.host := rfl
@[simp] theorem State.passTo_engines (s : State) (t : Nat) : (s.passTo t).engines = s.engines := rfl
@[simp] theorem State.passTo_flitTx (s : State) (t : Nat) : (s.passTo t).flitTx = s.flitTx := rfl
@[simp] theorem State.passTo_flitRx (s : State) (t : Nat) : (s.passTo t).flitRx = s.flitRx := rfl
@[simp] theorem State.passTo_extends3 (s : State) (t : Nat) : (s.passTo t).extends3 = s.extends3 := rfl
@[simp] theorem State.passTo_extends4 (s : State) (t : Nat) : (s.passTo t).extends4 = s.extends4 := rfl
@[simp] theorem State.passTo_booted (s : State) (t : Nat) : (s.passTo t).booted = s.booted := rfl
@[simp] theorem State.passTo_sparesUsed (s : State) (t : Nat) : (s.passTo t).sparesUsed = s.sparesUsed := rfl
@[simp] theorem State.passTo_modreg (s : State) (t : Nat) : (s.passTo t).modreg = s.modreg := rfl
@[simp] theorem State.passTo_power (s : State) (t : Nat) : (s.passTo t).power = s.power := rfl
@[simp] theorem State.passTo_cmdWidx (s : State) (t : Nat) : (s.passTo t).cmdWidx = s.cmdWidx := rfl
@[simp] theorem State.passTo_cmdRidx (s : State) (t : Nat) : (s.passTo t).cmdRidx = s.cmdRidx := rfl
@[simp] theorem State.passTo_nextId (s : State) (t : Nat) : (s.passTo t).nextId = s.nextId := rfl
@[simp] theorem State.passTo_nextKey (s : State) (t : Nat) : (s.passTo t).nextKey = s.nextKey := rfl
@[simp] theorem State.passTo_freeCount (s : State) (t : Nat) : (s.passTo t).freeCount = s.freeCount := rfl
@[simp] theorem State.passTo_agenda (s : State) (t : Nat) : (s.passTo t).agenda = s.agenda := rfl
@[simp] theorem State.passTo_devTurn (s : State) (t : Nat) : (s.passTo t).devTurn = s.devTurn := rfl
@[simp] theorem State.passTo_devCount (s : State) (t : Nat) : (s.passTo t).devCount = s.devCount := rfl
@[simp] theorem State.passTo_curUnit (s : State) (t : Nat) : (s.passTo t).curUnit = s.curUnit := rfl
@[simp] theorem State.passTo_latent (s : State) (t : Nat) : (s.passTo t).latent = s.latent := rfl
@[simp] theorem State.passTo_unfixable (s : State) (t : Nat) : (s.passTo t).unfixable = s.unfixable := rfl
@[simp] theorem State.passTo_corrected (s : State) (t : Nat) : (s.passTo t).corrected = s.corrected := rfl
@[simp] theorem State.passTo_output (s : State) (t : Nat) : (s.passTo t).output = s.output := rfl

/-! ### State.fresh -/

@[simp] theorem State.fresh_seqs (s : State) : (s.fresh).seqs = s.seqs := rfl
@[simp] theorem State.fresh_dieTlb (s : State) : (s.fresh).dieTlb = s.dieTlb := rfl
@[simp] theorem State.fresh_cores (s : State) : (s.fresh).cores = s.cores := rfl
@[simp] theorem State.fresh_mem (s : State) : (s.fresh).mem = s.mem := rfl
@[simp] theorem State.fresh_lines (s : State) : (s.fresh).lines = s.lines := rfl
@[simp] theorem State.fresh_slices (s : State) : (s.fresh).slices = s.slices := rfl
@[simp] theorem State.fresh_channels (s : State) : (s.fresh).channels = s.channels := rfl
@[simp] theorem State.fresh_parts (s : State) : (s.fresh).parts = s.parts := rfl
@[simp] theorem State.fresh_keys (s : State) : (s.fresh).keys = s.keys := rfl
@[simp] theorem State.fresh_keyValues (s : State) : (s.fresh).keyValues = s.keyValues := rfl
@[simp] theorem State.fresh_islands (s : State) : (s.fresh).islands = s.islands := rfl
@[simp] theorem State.fresh_portsDown (s : State) : (s.fresh).portsDown = s.portsDown := rfl
@[simp] theorem State.fresh_launchQ (s : State) : (s.fresh).launchQ = s.launchQ := rfl
@[simp] theorem State.fresh_copyQ (s : State) : (s.fresh).copyQ = s.copyQ := rfl
@[simp] theorem State.fresh_taskQ (s : State) : (s.fresh).taskQ = s.taskQ := rfl
@[simp] theorem State.fresh_launches (s : State) : (s.fresh).launches = s.launches := rfl
@[simp] theorem State.fresh_gangs (s : State) : (s.fresh).gangs = s.gangs := rfl
@[simp] theorem State.fresh_saved (s : State) : (s.fresh).saved = s.saved := rfl
@[simp] theorem State.fresh_tasks (s : State) : (s.fresh).tasks = s.tasks := rfl
@[simp] theorem State.fresh_copies (s : State) : (s.fresh).copies = s.copies := rfl
@[simp] theorem State.fresh_reqs (s : State) : (s.fresh).reqs = s.reqs := rfl
@[simp] theorem State.fresh_inbox (s : State) : (s.fresh).inbox = s.inbox := rfl
@[simp] theorem State.fresh_hgOps (s : State) : (s.fresh).hgOps = s.hgOps := rfl
@[simp] theorem State.fresh_appends (s : State) : (s.fresh).appends = s.appends := rfl
@[simp] theorem State.fresh_faults (s : State) : (s.fresh).faults = s.faults := rfl
@[simp] theorem State.fresh_entries (s : State) : (s.fresh).entries = s.entries := rfl
@[simp] theorem State.fresh_commands (s : State) : (s.fresh).commands = s.commands := rfl
@[simp] theorem State.fresh_copybooks (s : State) : (s.fresh).copybooks = s.copybooks := rfl
@[simp] theorem State.fresh_recordings (s : State) : (s.fresh).recordings = s.recordings := rfl
@[simp] theorem State.fresh_host (s : State) : (s.fresh).host = s.host := rfl
@[simp] theorem State.fresh_engines (s : State) : (s.fresh).engines = s.engines := rfl
@[simp] theorem State.fresh_flitTx (s : State) : (s.fresh).flitTx = s.flitTx := rfl
@[simp] theorem State.fresh_flitRx (s : State) : (s.fresh).flitRx = s.flitRx := rfl
@[simp] theorem State.fresh_extends3 (s : State) : (s.fresh).extends3 = s.extends3 := rfl
@[simp] theorem State.fresh_extends4 (s : State) : (s.fresh).extends4 = s.extends4 := rfl
@[simp] theorem State.fresh_booted (s : State) : (s.fresh).booted = s.booted := rfl
@[simp] theorem State.fresh_sparesUsed (s : State) : (s.fresh).sparesUsed = s.sparesUsed := rfl
@[simp] theorem State.fresh_modreg (s : State) : (s.fresh).modreg = s.modreg := rfl
@[simp] theorem State.fresh_power (s : State) : (s.fresh).power = s.power := rfl
@[simp] theorem State.fresh_cmdWidx (s : State) : (s.fresh).cmdWidx = s.cmdWidx := rfl
@[simp] theorem State.fresh_cmdRidx (s : State) : (s.fresh).cmdRidx = s.cmdRidx := rfl
@[simp] theorem State.fresh_now (s : State) : (s.fresh).now = s.now := rfl
@[simp] theorem State.fresh_nextKey (s : State) : (s.fresh).nextKey = s.nextKey := rfl
@[simp] theorem State.fresh_freeCount (s : State) : (s.fresh).freeCount = s.freeCount := rfl
@[simp] theorem State.fresh_agenda (s : State) : (s.fresh).agenda = s.agenda := rfl
@[simp] theorem State.fresh_devTurn (s : State) : (s.fresh).devTurn = s.devTurn := rfl
@[simp] theorem State.fresh_devCount (s : State) : (s.fresh).devCount = s.devCount := rfl
@[simp] theorem State.fresh_curUnit (s : State) : (s.fresh).curUnit = s.curUnit := rfl
@[simp] theorem State.fresh_latent (s : State) : (s.fresh).latent = s.latent := rfl
@[simp] theorem State.fresh_unfixable (s : State) : (s.fresh).unfixable = s.unfixable := rfl
@[simp] theorem State.fresh_corrected (s : State) : (s.fresh).corrected = s.corrected := rfl
@[simp] theorem State.fresh_output (s : State) : (s.fresh).output = s.output := rfl

/-! ### State.unblock -/

@[simp] theorem State.unblock_dieTlb (s : State) : (s.unblock).dieTlb = s.dieTlb := rfl
@[simp] theorem State.unblock_cores (s : State) : (s.unblock).cores = s.cores := rfl
@[simp] theorem State.unblock_mem (s : State) : (s.unblock).mem = s.mem := rfl
@[simp] theorem State.unblock_lines (s : State) : (s.unblock).lines = s.lines := rfl
@[simp] theorem State.unblock_slices (s : State) : (s.unblock).slices = s.slices := rfl
@[simp] theorem State.unblock_channels (s : State) : (s.unblock).channels = s.channels := rfl
@[simp] theorem State.unblock_parts (s : State) : (s.unblock).parts = s.parts := rfl
@[simp] theorem State.unblock_keys (s : State) : (s.unblock).keys = s.keys := rfl
@[simp] theorem State.unblock_keyValues (s : State) : (s.unblock).keyValues = s.keyValues := rfl
@[simp] theorem State.unblock_islands (s : State) : (s.unblock).islands = s.islands := rfl
@[simp] theorem State.unblock_portsDown (s : State) : (s.unblock).portsDown = s.portsDown := rfl
@[simp] theorem State.unblock_launchQ (s : State) : (s.unblock).launchQ = s.launchQ := rfl
@[simp] theorem State.unblock_copyQ (s : State) : (s.unblock).copyQ = s.copyQ := rfl
@[simp] theorem State.unblock_taskQ (s : State) : (s.unblock).taskQ = s.taskQ := rfl
@[simp] theorem State.unblock_launches (s : State) : (s.unblock).launches = s.launches := rfl
@[simp] theorem State.unblock_gangs (s : State) : (s.unblock).gangs = s.gangs := rfl
@[simp] theorem State.unblock_saved (s : State) : (s.unblock).saved = s.saved := rfl
@[simp] theorem State.unblock_tasks (s : State) : (s.unblock).tasks = s.tasks := rfl
@[simp] theorem State.unblock_copies (s : State) : (s.unblock).copies = s.copies := rfl
@[simp] theorem State.unblock_reqs (s : State) : (s.unblock).reqs = s.reqs := rfl
@[simp] theorem State.unblock_inbox (s : State) : (s.unblock).inbox = s.inbox := rfl
@[simp] theorem State.unblock_hgOps (s : State) : (s.unblock).hgOps = s.hgOps := rfl
@[simp] theorem State.unblock_appends (s : State) : (s.unblock).appends = s.appends := rfl
@[simp] theorem State.unblock_faults (s : State) : (s.unblock).faults = s.faults := rfl
@[simp] theorem State.unblock_entries (s : State) : (s.unblock).entries = s.entries := rfl
@[simp] theorem State.unblock_commands (s : State) : (s.unblock).commands = s.commands := rfl
@[simp] theorem State.unblock_copybooks (s : State) : (s.unblock).copybooks = s.copybooks := rfl
@[simp] theorem State.unblock_recordings (s : State) : (s.unblock).recordings = s.recordings := rfl
@[simp] theorem State.unblock_host (s : State) : (s.unblock).host = s.host := rfl
@[simp] theorem State.unblock_engines (s : State) : (s.unblock).engines = s.engines := rfl
@[simp] theorem State.unblock_flitTx (s : State) : (s.unblock).flitTx = s.flitTx := rfl
@[simp] theorem State.unblock_flitRx (s : State) : (s.unblock).flitRx = s.flitRx := rfl
@[simp] theorem State.unblock_extends3 (s : State) : (s.unblock).extends3 = s.extends3 := rfl
@[simp] theorem State.unblock_extends4 (s : State) : (s.unblock).extends4 = s.extends4 := rfl
@[simp] theorem State.unblock_booted (s : State) : (s.unblock).booted = s.booted := rfl
@[simp] theorem State.unblock_sparesUsed (s : State) : (s.unblock).sparesUsed = s.sparesUsed := rfl
@[simp] theorem State.unblock_modreg (s : State) : (s.unblock).modreg = s.modreg := rfl
@[simp] theorem State.unblock_power (s : State) : (s.unblock).power = s.power := rfl
@[simp] theorem State.unblock_cmdWidx (s : State) : (s.unblock).cmdWidx = s.cmdWidx := rfl
@[simp] theorem State.unblock_cmdRidx (s : State) : (s.unblock).cmdRidx = s.cmdRidx := rfl
@[simp] theorem State.unblock_now (s : State) : (s.unblock).now = s.now := rfl
@[simp] theorem State.unblock_nextId (s : State) : (s.unblock).nextId = s.nextId := rfl
@[simp] theorem State.unblock_nextKey (s : State) : (s.unblock).nextKey = s.nextKey := rfl
@[simp] theorem State.unblock_freeCount (s : State) : (s.unblock).freeCount = s.freeCount := rfl
@[simp] theorem State.unblock_agenda (s : State) : (s.unblock).agenda = s.agenda := rfl
@[simp] theorem State.unblock_devTurn (s : State) : (s.unblock).devTurn = s.devTurn := rfl
@[simp] theorem State.unblock_devCount (s : State) : (s.unblock).devCount = s.devCount := rfl
@[simp] theorem State.unblock_curUnit (s : State) : (s.unblock).curUnit = s.curUnit := rfl
@[simp] theorem State.unblock_latent (s : State) : (s.unblock).latent = s.latent := rfl
@[simp] theorem State.unblock_unfixable (s : State) : (s.unblock).unfixable = s.unfixable := rfl
@[simp] theorem State.unblock_corrected (s : State) : (s.unblock).corrected = s.corrected := rfl
@[simp] theorem State.unblock_output (s : State) : (s.unblock).output = s.output := rfl

end Sys2Proof.Machine
end

