-- ==== Sys2Proof/Laws/Thread.lean ====
section
/-! SUPPORT. Threads and their registers: what a read finds after a write (R16, R181, R210). -/

namespace Sys2Proof.Machine

/-! ### Units -/

@[simp] theorem State.seq_setSeq_self (s : State) (u : Nat) (q : Seq) : (s.setSeq u q).seq u = q := by
  simp [State.seq, State.setSeq]

theorem State.seq_setSeq_ne (s : State) {u v : Nat} (h : v ≠ u) (q : Seq) : (s.setSeq u q).seq v = s.seq v := by
  simp [State.seq, State.setSeq, lookup_insertAt_ne _ h]

@[simp] theorem State.core_setCore_self (s : State) (n : Nat) (k : CoreArr) : (s.setCore n k).core n = k := by
  simp [State.core, State.setCore]

theorem State.core_setCore_ne (s : State) {n m : Nat} (h : m ≠ n) (k : CoreArr) : (s.setCore n k).core m = s.core m := by
  simp [State.core, State.setCore, lookup_insertAt_ne _ h]

@[simp] theorem State.core_updCore_self (s : State) (n : Nat) (f : CoreArr → CoreArr) : (s.updCore n f).core n = f (s.core n) := by
  simp [State.updCore]

@[simp] theorem State.core_setSeq (s : State) (u n : Nat) (q : Seq) : (s.setSeq u q).core n = s.core n := rfl
@[simp] theorem State.core_updThread (s : State) (u t n : Nat) (f : Thread → Thread) : (s.updThread u t f).core n = s.core n := rfl
@[simp] theorem State.seq_updCore (s : State) (u n : Nat) (f : CoreArr → CoreArr) : (s.updCore n f).seq u = s.seq u := rfl
@[simp] theorem State.thread_updCore (s : State) (u t n : Nat) (f : CoreArr → CoreArr) : (s.updCore n f).thread u t = s.thread u t := rfl

theorem State.thread_setThread (s : State) (u t v m : Nat) (th : Thread) :
    (s.setThread u t th).thread v m = if v = u ∧ m = t ∧ t < 4 then th else s.thread v m := by
  by_cases h : v = u
  · subst h
    simp only [State.thread, State.setThread, State.seq_setSeq_self, Seq.setThread, true_and]
    by_cases hm : m = t
    · subst hm
      by_cases ht : m < 4 <;> simp [Vector.getD, ht]
    · by_cases h4 : m < 4
      · simp [Vector.getD, h4, hm, Ne.symm hm]
      · simp [Vector.getD, h4, hm]
  · simp [State.thread, State.setThread, State.seq_setSeq_ne s h, h]

/-- A thread's registers after an update of one thread. -/
theorem State.thread_updThread (s : State) (u t v m : Nat) (f : Thread → Thread) :
    (s.updThread u t f).thread v m = if v = u ∧ m = t ∧ t < 4 then f (s.thread u t) else s.thread v m :=
  s.thread_setThread u t v m (f (s.thread u t))

/-! ### x registers -/

@[simp] theorem Thread.getX_zero (th : Thread) : th.getX 0#5 = 0#64 := rfl
@[simp] theorem Thread.fullX_zero (th : Thread) : th.fullX 0#5 = true := rfl
@[simp] theorem Thread.setX_zero (th : Thread) (v : Word) : th.setX 0#5 v = th := rfl
@[simp] theorem Thread.emptyX_zero (th : Thread) : th.emptyX 0#5 = th := rfl

theorem Thread.getX_setX (th : Thread) (d r : BitVec 5) (v : Word) :
    (th.setX d v).getX r = if r = d ∧ d ≠ 0 then v else th.getX r := by
  by_cases hd : d = 0
  · rw [Thread.setX, if_pos hd, if_neg (by simp [hd])]
  · rw [Thread.setX, if_neg hd, Thread.getX, Thread.getX]
    have hl : r.toNat < 32 := r.isLt
    by_cases hr : r = 0
    · rw [if_pos hr, if_pos hr, if_neg (by rintro ⟨h, -⟩; exact hd (h ▸ hr))]
    · rw [if_neg hr, if_neg hr]
      by_cases h : r = d
      · subst h; rw [if_pos ⟨rfl, hd⟩]; simp [Vector.getD, hl]
      · have hn : d.toNat ≠ r.toNat := fun e => h (BitVec.eq_of_toNat_eq e.symm)
        rw [if_neg (fun e => h e.1)]; simp [Vector.getD, hl, hn]

theorem Thread.fullX_setX (th : Thread) (d : BitVec 5) (v : Word) : (th.setX d v).fullX d = true := by
  by_cases hd : d = 0
  · subst hd; rfl
  · have hl : d.toNat < 32 := d.isLt
    rw [Thread.setX, if_neg hd]; simp [Thread.fullX, hl]

theorem Thread.fullX_emptyX (th : Thread) {d : BitVec 5} (h : d ≠ 0) : (th.emptyX d).fullX d = false := by
  have hl : d.toNat < 32 := d.isLt
  have h0 : (d == 0) = false := beq_false_of_ne h
  rw [Thread.emptyX, if_neg h, Thread.fullX, h0]; simp [hl]

theorem Thread.getX_emptyX (th : Thread) (d r : BitVec 5) : (th.emptyX d).getX r = th.getX r := by
  simp only [Thread.emptyX]; split <;> rfl

/-! ### Predicates and masks -/

@[simp] theorem Thread.getP_zero (th : Thread) : th.getP 0#3 = true := rfl
@[simp] theorem Thread.setP_zero (th : Thread) (b : Bool) : th.setP 0#3 b = th := rfl

theorem Thread.getP_setP (th : Thread) {d : BitVec 3} (h : d ≠ 0) (b : Bool) : (th.setP d b).getP d = b := by
  have hl : d.toNat < 8 := d.isLt
  have h0 : (d == 0) = false := beq_false_of_ne h
  cases b <;> (rw [Thread.setP, if_neg h, Thread.getP, h0]; simp [hl])

@[simp] theorem Thread.getM_zero (th : Thread) : th.getM 0#3 = BitVec.allOnes 32 := rfl
@[simp] theorem Thread.setM_zero (th : Thread) (v : BitVec 32) : th.setM 0#3 v = th := rfl

/-! ### What a register write leaves alone -/

@[simp] theorem Thread.setX_traps (th : Thread) (d : BitVec 5) (v : Word) : (th.setX d v).traps = th.traps := by
  simp only [Thread.setX]; split <;> rfl
@[simp] theorem Thread.setX_pc (th : Thread) (d : BitVec 5) (v : Word) : (th.setX d v).pc = th.pc := by
  simp only [Thread.setX]; split <;> rfl
@[simp] theorem Thread.setX_flags (th : Thread) (d : BitVec 5) (v : Word) : (th.setX d v).flags = th.flags := by
  simp only [Thread.setX]; split <;> rfl
@[simp] theorem Thread.emptyX_traps (th : Thread) (d : BitVec 5) : (th.emptyX d).traps = th.traps := by
  simp only [Thread.emptyX]; split <;> rfl
@[simp] theorem Thread.setP_traps (th : Thread) (d : BitVec 3) (b : Bool) : (th.setP d b).traps = th.traps := by
  simp only [Thread.setP]; split <;> rfl
@[simp] theorem Thread.setG_traps (th : Thread) (d : BitVec 3) (v : Word) : (th.setG d v).traps = th.traps := rfl
@[simp] theorem Thread.setV_traps (th : Thread) (d : Nat) (v : BitVec 1024) : (th.setV d v).traps = th.traps := rfl
@[simp] theorem Thread.setM_traps (th : Thread) (d : BitVec 3) (v : BitVec 32) : (th.setM d v).traps = th.traps := by
  simp only [Thread.setM]; split <;> rfl
@[simp] theorem Thread.jump_traps (th : Thread) (a : Word) : (th.jump a).traps = th.traps := rfl
@[simp] theorem Thread.advance_traps (th : Thread) (a : Word) : (th.advance a).traps = th.traps := by
  simp only [Thread.advance]; repeat' (split; try rfl)
  all_goals rfl
@[simp] theorem Thread.pairDone_traps (th : Thread) (g : Target) : (th.pairDone g).traps = th.traps := by
  simp only [Thread.pairDone]; split <;> rfl

end Sys2Proof.Machine
end

