-- ==== Sys2Proof/Laws/Issue.lean ====
section
/-! SUPPORT. What issuing a bundle of one instruction can do (R16, R92, R218, R408, R427 to R429). -/

namespace Sys2Proof.Machine

/-- Every slot instruction runs as a bundle of its own by its meaning as a slot. -/
theorem exec_slot {i : Instr} (h : i.isStep = false) (s : State) : exec i s = .next (s.issueOne i (slotOf i)) := by
  cases i <;> first | (have h' : true = false := h; cases h') | rfl

/-- No instruction and no device step is refused or stops with a fault. -/
theorem exec_next (i : Instr) (s : State) : ∃ t, exec i s = .next t := by
  cases i <;> exact ⟨_, rfl⟩

/-! ### The bundle boundary -/

@[simp] theorem State.boundary_none (s : State) (u t : Nat) (b : Word) (h : (s.thread u t).traps = []) : s.boundary u t b = s := by
  simp [State.boundary, h, lowestTrap]

theorem State.boundary_one (s : State) (u t : Nat) (b : Word) (tr : PendingTrap) (h : (s.thread u t).traps = [tr])
    (hs : (s.thread u t).skipping = false) : s.boundary u t b = s.takeTrap u t tr (s.thread u t).pc (tr.bundle.getD b) := by
  simp [State.boundary, h, hs, lowestTrap]

/-! ### X slots -/

theorem xWords_length (xs : List XPay) : (xWords xs).length = xs.length := by
  induction xs with
  | nil => rfl
  | cons x xs ih => simp [xWords, ih]

theorem excessX_none {i : Instr} (h : i.xpays.length ≤ i.maxX) (p : Nat) : excessX i p (encode i).tail = none := by
  simp only [excessX, encode]
  split
  · simp
  · simp [xWords_length, h]

/-! ### One instruction -/

/-- A sequencer whose physical units work leaves a slot's result as it is (R448). -/
theorem Seq.selfCheck_whole {q : Seq} (h : q.broken = 0) (i : Issue) (c e : Nat) (r : Except Stop Commit) :
    q.selfCheck i c e r = r := by
  simp [Seq.selfCheck, h]

/-- A bundle of one slot issues in one group (R220). -/
theorem Seq.groups_one (q : Seq) (c : Nat) : q.groups [c] = 1 := by
  have h : ∀ d k : Nat, ((List.range (([c] : List Nat).filter (fun e => e == d)).length).filter (fun e => q.unitOf d e == k)).length ≤ 1 := by
    intro d k
    refine (List.length_filter_le _ _).trans ?_
    simp only [List.length_range]
    exact (List.length_filter_le _ _).trans (by simp)
  have h1 := h 0 0; have h2 := h 0 1; have h3 := h 7 0; have h4 := h 7 1
  simp only [Seq.groups, List.flatMap_cons, List.flatMap_nil, List.range_succ, List.range_zero, List.nil_append, List.map_cons,
    List.map_nil, List.cons_append, List.append_nil, List.foldl_cons, List.foldl_nil] at *
  omega

/-- The commit of the one slot of a bundle. -/
theorem commitOrder_one (k : SlotRun) (r : Except Stop Commit) : commitOrder [k] [(k.pos, r)] = [(k.pos, r)] := by
  have h : commitRank k.instr = 0 ∨ commitRank k.instr = 1 ∨ commitRank k.instr = 2 := by
    unfold commitRank; split <;> simp
  rcases h with h | h | h <;> simp [commitOrder, h]

/-- An accepted instruction whose slot commits: the thread moves on, the commit applies, then the boundary. -/
theorem State.issueOne_commits {s : State} {i : Instr} {f : Slot} {k : Commit} (h : s.accepts i = true)
    (hf : f (s.issuerOf i) s = .ok k) : s.issueOne i f = (k (s.moved i)).boundary s.curUnit s.turnThread s.me.pc := by
  simp only [State.accepts, Bool.and_eq_true, List.isEmpty_iff, Bool.not_eq_true', decide_eq_true_eq, beq_iff_eq] at h
  obtain ⟨⟨⟨⟨h1, h2⟩, h3⟩, h4⟩, -⟩ := h
  have hf' : f ⟨s.curUnit, (s.seq s.curUnit).cur, (s.thread s.curUnit (s.seq s.curUnit).cur).pc,
    afterOne i (s.thread s.curUnit (s.seq s.curUnit).cur).pc, 0, headWord i⟩ s = .ok k := hf
  simp only [State.issueOne, h1, h2, excessX_none h3, Bool.false_eq_true, if_false, List.append_nil, State.runBundle, runSlots, hf',
    Seq.selfCheck_whole h4, firstStop, State.moved, State.turnThread, State.me, bundleCycles, List.foldl_cons, List.foldl_nil,
    List.map_cons, List.map_nil, Seq.groups_one]
  rw [commitOrder_one ⟨i, 0, headWord i, f⟩]
  rfl

/-- The same where the commit leaves no trap pending. -/
theorem State.issueOne_plain {s : State} {i : Instr} {f : Slot} {k : Commit} (h : s.accepts i = true)
    (hf : f (s.issuerOf i) s = .ok k) (ht : ((k (s.moved i)).thread s.curUnit s.turnThread).traps = []) :
    s.issueOne i f = k (s.moved i) := by
  rw [s.issueOne_commits h hf, State.boundary_none _ _ _ _ ht]

/-- An accepted instruction whose slot stops: nothing of it commits (R16, R427). -/
theorem State.issueOne_stops {s : State} {i : Instr} {f : Slot} {e : Stop} (h : s.accepts i = true)
    (hf : f (s.issuerOf i) s = .error e) :
    s.issueOne i f = s.stopAt s.curUnit s.turnThread s.me.pc 0 (classNum (headWord i)) e := by
  simp only [State.accepts, Bool.and_eq_true, List.isEmpty_iff, Bool.not_eq_true', decide_eq_true_eq, beq_iff_eq] at h
  obtain ⟨⟨⟨⟨h1, h2⟩, h3⟩, h4⟩, -⟩ := h
  have hf' : f ⟨s.curUnit, (s.seq s.curUnit).cur, (s.thread s.curUnit (s.seq s.curUnit).cur).pc,
    afterOne i (s.thread s.curUnit (s.seq s.curUnit).cur).pc, 0, headWord i⟩ s = .error e := hf
  simp [State.issueOne, h1, h2, excessX_none h3, State.runBundle, runSlots, hf', Seq.selfCheck_whole h4, firstStop, State.turnThread,
    State.me]

/-! ### The state after the bundle has issued -/

theorem Vector.getD_of_lt {α : Type} {n i : Nat} {d : α} (v : Vector α n) (h : i < n) : v.getD i d = v[i] := by
  simp [Vector.getD, h]

theorem Vector.getD_of_ge {α : Type} {n i : Nat} {d : α} (v : Vector α n) (h : n ≤ i) : v.getD i d = d := by
  simp [Vector.getD, Nat.not_lt.mpr h]

/-- Issuing a bundle changes of a thread only whom it has yielded to and until when it is occupied (R92, R234). -/
theorem State.thread_bundleIssued (s : State) (u t n g v m : Nat) :
    ∃ ys w, (s.bundleIssued u t n g).thread v m = { s.thread v m with yielded := ys, waitUntil := w } := by
  by_cases h : v = u
  · subst h
    have hq : (s.bundleIssued v t n g).seq v =
        { (s.seq v).issued t (s.cycles v + (g - 1) + n) with freeAt := s.cycles v + g } :=
      lookup_insertAt_self _ _ _ _
    simp only [State.thread, hq, Seq.issued]
    by_cases h4 : m < 4
    · rw [Vector.getD_of_lt _ h4, Vector.getD_of_lt _ h4, Vector.getElem_mapIdx]
      split
      · exact ⟨_, _, rfl⟩
      · exact ⟨_, (s.seq v).threads[m].waitUntil, rfl⟩
    · rw [Vector.getD_of_ge _ (by omega), Vector.getD_of_ge _ (by omega)]
      exact ⟨Thread.reset.yielded, Thread.reset.waitUntil, rfl⟩
  · have hq : (s.bundleIssued u t n g).seq v = s.seq v := lookup_insertAt_ne _ h _ _
    simp only [State.thread, hq]
    exact ⟨((s.seq v).threads.getD m Thread.reset).yielded, ((s.seq v).threads.getD m Thread.reset).waitUntil, rfl⟩

/-- No trap is pending once the thread of an accepted instruction has moved on. -/
theorem State.moved_traps {s : State} {i : Instr} (h : s.accepts i = true) :
    ((s.moved i).thread s.curUnit s.turnThread).traps = [] := by
  simp only [State.accepts, Bool.and_eq_true, List.isEmpty_iff] at h
  have ht : (s.thread s.curUnit s.turnThread).traps = [] := h.2
  obtain ⟨ys, w, hb⟩ := s.thread_bundleIssued s.curUnit s.turnThread (max 1 (slotCycles i)) 1 s.curUnit s.turnThread
  simp only [State.moved, State.thread_updThread]
  split <;> simp [hb, ht]

/-- An accepted instruction whose commit changes its thread and leaves no trap pending. -/
theorem State.exec_thread {s : State} {i : Instr} {g : Thread → Thread} (hi : i.isStep = false) (h : s.accepts i = true)
    (hf : slotOf i (s.issuerOf i) s = .ok (fun s' => s'.updThread s.curUnit s.turnThread g))
    (hg : ∀ th : Thread, th.traps = [] → (g th).traps = []) : exec i s = .next (s.movedWith i g) := by
  rw [exec_slot hi, State.issueOne_plain h hf]
  · rfl
  · rw [State.thread_updThread]
    split
    · exact hg _ (State.moved_traps h)
    · exact State.moved_traps h

/-- An accepted instruction whose commit changes the issuing core and not its threads. -/
theorem State.exec_core {s : State} {i : Instr} {n : Nat} {g : CoreArr → CoreArr} (hi : i.isStep = false) (h : s.accepts i = true)
    (hf : slotOf i (s.issuerOf i) s = .ok (fun s' => s'.updCore n g)) : exec i s = .next ((s.moved i).updCore n g) := by
  rw [exec_slot hi, State.issueOne_plain h hf]
  exact State.moved_traps h

/-! ### Readiness (R210, R432) -/

/-- Sources and destinations that are all full do not stop a slot. -/
theorem ready_full {th : Thread} {srcs : List (BitVec 5 × Bool)} {dsts : List (BitVec 5)}
    (hs : ∀ r ∈ srcs, th.fullX r.1 = true) (hd : ∀ r ∈ dsts, th.fullX r = true) : ready th srcs dsts = .ok () := by
  have h1 : srcs.any (fun r => !r.2 && !th.fullX r.1) = false := by
    simp only [List.any_eq_false, Bool.and_eq_true, Bool.not_eq_true', not_and, Bool.not_eq_false]
    exact fun r hr _ => hs r hr
  have h2 : dsts.any (fun r => !th.fullX r) = false := by
    simp only [List.any_eq_false, Bool.not_eq_true', Bool.not_eq_false]
    exact hd
  have h3 : emptyT1 th srcs = none := by
    clear h1
    induction srcs with
    | nil => rfl
    | cons r rs ih =>
      obtain ⟨r, t⟩ := r
      simp only [emptyT1, hs (r, t) (by simp), Bool.not_true, Bool.and_false, Bool.false_eq_true, if_false]
      exact ih (fun q hq => hs q (by simp [hq]))
  simp [ready, h1, h2, h3]

/-- The same for the vector unit (R211, R347). -/
theorem vready_full {th : Thread} {xs : List (BitVec 5)} {vs : List Nat}
    (hx : ∀ r ∈ xs, th.fullX r = true) (hv : ∀ r ∈ vs, th.fullV r = true) : vready th xs vs = .ok () := by
  have h1 : xs.any (fun r => !th.fullX r) = false := by
    simp only [List.any_eq_false, Bool.not_eq_true', Bool.not_eq_false]; exact hx
  have h2 : vs.any (fun r => !th.fullV r) = false := by
    simp only [List.any_eq_false, Bool.not_eq_true', Bool.not_eq_false]; exact hv
  simp [vready, h1, h2]

/-! ### One lemma for each shared shape of slot -/

/-- A two-operand integer slot with full operands (R237). -/
theorem slotRrr_ok {o : Rrr} {f : Word → Word → Word} {c : Issuer} {s : State} (ha : (c.th s).fullX o.srcA = true)
    (hb : (c.th s).fullX o.srcB = true) (hd : (c.th s).fullX o.dst = true) :
    slotRrr o f c s = .ok (c.writeX o.dst (f ((c.th s).getX o.srcA) ((c.th s).getX o.srcB))) := by
  have hr : ready (c.th s) [(o.srcA, o.ta), (o.srcB, o.tb)] [o.dst] = .ok () :=
    ready_full (by simp [ha, hb]) (by simp [hd])
  simp [slotRrr, hr]

/-- A one-operand integer slot with full operands (R242). -/
theorem slotRr_ok {o : Rr} {f : Word → Nat} {c : Issuer} {s : State} (ha : (c.th s).fullX o.srcA = true)
    (hd : (c.th s).fullX o.dst = true) :
    slotRr o f c s = .ok (c.writeX o.dst (BitVec.ofNat 64 (f ((c.th s).getX o.srcA)))) := by
  have hr : ready (c.th s) [(o.srcA, o.ta)] [o.dst] = .ok () := ready_full (by simp [ha]) (by simp [hd])
  simp [slotRr, hr]

/-- A wave instruction without x sources enters the nib when it has room (R107, R122). -/
theorem slotPlain_ok {i : Instr} {c : Issuer} {s : State} (hl : s.leadsChain c.unit = true)
    (hn : (s.core c.unit).nib.length < 8) (hs : (s.core c.unit).stroke = none) :
    slotPlain i c s = .ok (fun s' => s'.updCore c.unit (fun k => k.enter i (c.issue s' 6) 0 0 c.word (s'.cycles c.unit))) := by
  have hb : (decide (8 ≤ (s.core c.unit).nib.length) || s.strokeOn c.unit) = false := by
    simp [State.strokeOn, hs]; omega
  have hr : ready (c.th s) [] [] = .ok () := ready_full (by simp) (by simp)
  simp only [slotPlain, slotWave, Issuer.leading, hl, if_true, hb, Bool.false_eq_true, if_false, List.map_nil, hr]
  rfl

end Sys2Proof.Machine
end

