-- ==== Sys2Proof/Laws/Memory.lean ====
section
/-! SUPPORT. Memory: a read after a write, and that every memory operation keeps the canonical form. -/

namespace Sys2Proof.Machine

/-! ### The canonical form -/

theorem Memory.wfFrom_mono {lo lo' : Nat} (h : lo' ≤ lo) {m : List Host.Cell} (w : Memory.wfFrom lo m = true) :
    Memory.wfFrom lo' m = true := by
  cases m with
  | nil => rfl
  | cons e m =>
    obtain ⟨a, b⟩ := e
    simp only [Memory.wfFrom, Bool.and_eq_true, decide_eq_true_eq] at w ⊢
    exact ⟨⟨by omega, w.1.2⟩, w.2⟩

/-- An address below every entry reads as nothing has written it. -/
theorem memGet_below {lo a : Nat} (h : a < lo) {m : List Host.Cell} (w : Memory.wfFrom lo m = true) : memGet m a = emptyByte := by
  cases m with
  | nil => rfl
  | cons e m =>
    obtain ⟨a', b'⟩ := e
    simp only [Memory.wfFrom, Bool.and_eq_true, decide_eq_true_eq] at w
    have h1 : a' ≠ a := by omega
    have h2 : a < a' := by omega
    simp [memGet, h1, h2]

theorem memPut_wfFrom {lo a : Nat} (h : lo ≤ a) (b : Byte) {m : List Host.Cell} (w : Memory.wfFrom lo m = true) :
    Memory.wfFrom lo (memPut a b m) = true := by
  induction m generalizing lo with
  | nil => simp only [memPut]; split <;> simp_all [Memory.wfFrom]
  | cons e m ih =>
    obtain ⟨a', b'⟩ := e
    simp only [Memory.wfFrom, Bool.and_eq_true, decide_eq_true_eq] at w
    obtain ⟨⟨w1, w2⟩, w3⟩ := w
    simp only [memPut]
    split
    · subst_vars
      split
      · exact Memory.wfFrom_mono (by omega) w3
      · simp_all [Memory.wfFrom]
    · split
      · split
        · simp_all [Memory.wfFrom]
        · simp only [Memory.wfFrom, Bool.and_eq_true, decide_eq_true_eq]
          exact ⟨⟨h, ‹_›⟩, ⟨by omega, w2⟩, w3⟩
      · simp only [Memory.wfFrom, Bool.and_eq_true, decide_eq_true_eq]
        exact ⟨⟨w1, w2⟩, ih (by omega) w3⟩

theorem memPut_wf (a : Nat) (b : Byte) {m : List Host.Cell} (w : Memory.wf m = true) : Memory.wf (memPut a b m) = true :=
  memPut_wfFrom (Nat.zero_le a) b w

theorem memWrite_wf (bs : List Byte) : ∀ (a : Nat) {m : List Host.Cell}, Memory.wf m = true → Memory.wf (memWrite m a bs) = true := by
  induction bs with
  | nil => intro a m w; exact w
  | cons b bs ih => intro a m w; exact ih (a + 1) (memPut_wf a b w)

theorem filter_wfFrom (f : Host.Cell → Bool) {lo : Nat} {m : List Host.Cell} (w : Memory.wfFrom lo m = true) :
    Memory.wfFrom lo (m.filter f) = true := by
  induction m generalizing lo with
  | nil => rfl
  | cons e m ih =>
    obtain ⟨a, b⟩ := e
    simp only [Memory.wfFrom, Bool.and_eq_true, decide_eq_true_eq] at w
    obtain ⟨⟨w1, w2⟩, w3⟩ := w
    simp only [List.filter_cons]
    split
    · simp only [Memory.wfFrom, Bool.and_eq_true, decide_eq_true_eq]
      exact ⟨⟨w1, w2⟩, ih w3⟩
    · exact Memory.wfFrom_mono (by omega) (ih w3)

theorem filter_wf (f : Host.Cell → Bool) {m : List Host.Cell} (w : Memory.wf m = true) : Memory.wf (m.filter f) = true :=
  filter_wfFrom f w

theorem memClear_wf (a n : Nat) {m : List Host.Cell} (w : Memory.wf m = true) : Memory.wf (memClear m a n) = true := filter_wf _ w

/-! ### Reading after writing -/

theorem memGet_memPutFrom {lo a : Nat} (h : lo ≤ a) (b : Byte) (j : Nat) {m : List Host.Cell} (w : Memory.wfFrom lo m = true) :
    memGet (memPut a b m) j = if j = a then b else memGet m j := by
  induction m generalizing lo with
  | nil =>
    simp only [memPut]
    split
    · subst_vars; simp [memGet]
    · simp only [memGet]; grind
  | cons e m ih =>
    obtain ⟨a', b'⟩ := e
    simp only [Memory.wfFrom, Bool.and_eq_true, decide_eq_true_eq] at w
    obtain ⟨⟨w1, w2⟩, w3⟩ := w
    simp only [memPut]
    split
    · subst_vars
      split
      · subst_vars
        by_cases hj : j = a'
        · subst_vars; simp [memGet_below (Nat.lt_succ_self _) w3]
        · by_cases hl : j < a'
          · simp [hj, memGet, Ne.symm hj, hl, memGet_below (show j < a' + 1 by omega) w3]
          · simp [hj, memGet, Ne.symm hj, show ¬ j < a' by omega]
      · simp only [memGet]; grind
    · split
      · split
        · subst_vars; simp only [memGet]; grind
        · simp only [memGet]; grind
      · simp only [memGet, ih (show a' + 1 ≤ a by omega) w3]; grind

theorem memGet_memPut (a : Nat) (b : Byte) (j : Nat) {m : List Host.Cell} (w : Memory.wf m = true) :
    memGet (memPut a b m) j = if j = a then b else memGet m j := memGet_memPutFrom (Nat.zero_le a) b j w

/-- A write of bytes is read back, and every other byte is as it was. -/
theorem memGet_memWrite (bs : List Byte) : ∀ (a j : Nat) {m : List Host.Cell}, Memory.wf m = true →
    memGet (memWrite m a bs) j = if a ≤ j ∧ j < a + bs.length then bs.getD (j - a) 0 else memGet m j := by
  induction bs with
  | nil => intro a j m w; rw [if_neg (by simp)]; rfl
  | cons b bs ih =>
    intro a j m w
    simp only [memWrite, ih (a + 1) j (memPut_wf a b w), memGet_memPut a b j w, List.length_cons]
    by_cases h1 : j = a
    · subst_vars; simp
    · by_cases h2 : a + 1 ≤ j ∧ j < a + 1 + bs.length
      · have h3 : a ≤ j ∧ j < a + (bs.length + 1) := by omega
        have h4 : j - a = (j - (a + 1)) + 1 := by omega
        rw [if_pos h2, if_pos h3, h4, List.getD_cons_succ]
      · have h3 : ¬ (a ≤ j ∧ j < a + (bs.length + 1)) := by omega
        rw [if_neg h2, if_neg h1, if_neg h3]

end Sys2Proof.Machine
end

