-- ==== Sys2Proof/Tests/Slice0.lean ====
section
/-! SUPPORT. Tests: field values that are not an instruction, words of every slot instruction's encoding, and for each statement states that
meet its hypotheses. Expected values come from the manual's tables and examples, or are computed from its rules by hand. -/

open Sys2Proof Sys2Proof.Machine

namespace Sys2Proof.Tests

set_option Elab.async false

/-! ### Small states -/

/-- Core 0 with thread 0 of a gang at a bundle; quill core 0 likewise. A page of 32 MiB at 0 may be read, written and executed. -/
def core0 : State := State.reset.place 0x98A00000
def quill0 : State := State.reset.place 0xB8A00000

/-- The state with a change of the issuing thread, of core 0, or with values in x registers. -/
def me (s : State) (f : Thread → Thread) : State := s.updThread s.curUnit s.turnThread f
def arr (s : State) (f : CoreArr → CoreArr) : State := s.updCore 0 f
def setXs (s : State) (xs : List (BitVec 5 × Word)) : State := me s (fun th => xs.foldl (fun t e => t.setX e.1 e.2) th)

/-- Address 0 of core 0's scratchpad through the window (R127), and where it lies. -/
def window : Word := BitVec.ofNat 64 ((2 ^ 27 - 1) * 2 ^ 29)
def pad (off : Nat) : Target := ⟨scratchPa 0 off, 0, 0⟩
/-- The target of an address in the page. -/
def page (va : Nat) : Target := ⟨va, 0, 0⟩

/-! ### Field values that are not an instruction -/

/-- One ill-formed term for each check of `Instr.reservedKind`, with its kind (R429). -/
theorem test_ill_formed_sequencer : ∀ e ∈ ([
    (.add ⟨1, 2, 3, false, false, 2⟩, 3), (.cmp ⟨1, 2, 3, false, false, 7⟩, 3), (.clz ⟨1, 2, false, 2⟩, 3), (.cmpi ⟨1, 2, false, 7, 0⟩ [], 3),
    (.fadd ⟨1, 2, 3, false, false, 4⟩, 3), (.fcmp ⟨1, 2, 3, false, false, 4⟩, 3), (.fcvt ⟨1, 2, false, 4⟩ [0xC80000], 3),
    (.fcvt ⟨1, 2, false, 0⟩ [0x480000], 3), (.fcvt ⟨1, 2, false, 0⟩ [0xC80001], 4), (.fcvt ⟨1, 2, false, 0⟩ [], 5), (.waitid ⟨1, 16, false⟩, 3),
    (.bopen ⟨1, 8, false⟩, 3), (.bclose ⟨1, 8, false⟩, 3), (.elw ⟨1, false, 2, 0, false⟩, 3), (.elw ⟨1, false, 0, 3, false⟩, 3),
    (.eln ⟨1, false, 2, false⟩, 3), (.ewe ⟨1, false, 2, false⟩, 3), (.ews ⟨1, false, 0, false, 2, false, false⟩, 3),
    (.ews ⟨1, false, 5, false, 0, false, false⟩, 4), (.qrh ⟨1, 3⟩, 3), (.trsm ⟨1, 1, 0⟩, 3), (.seli ⟨1, 0, 0, 3⟩ [], 3), (.seli ⟨1, 1, 0, 0⟩ [], 4),
    (.seli ⟨1, 0, 0, 2⟩ [], 5), (.selx ⟨1, 1, 2, 0⟩, 4)] : List (Instr × Nat)),
    e.1.reservedKind = some e.2 ∧ e.1.wf = false := by decide +kernel

theorem test_ill_formed_wave : ∀ e ∈ ([
    (.mov ⟨0, 1, 0, 3⟩ [], 3), (.mov ⟨22, 1, 0, 0⟩ [], 3), (.mov ⟨0, 1, 0, 1⟩ [], 4), (.mov ⟨0, 1, 0, 0⟩ [0x5000000], 3), (.mov ⟨0, 1, 0, 0⟩ [0x10000], 4),
    (.movh ⟨20, 1, 0, 0⟩ [], 3), (.lds ⟨16, 0, 0, 0⟩ [], 3), (.lds ⟨1, 1, 0, 0⟩ [], 4), (.sts ⟨16, 0, 0, 0⟩ [], 3), (.imm ⟨16, 0, 0, 0, 0⟩ [], 3),
    (.imm ⟨1, 0, 0, 0, 3⟩ [0], 5), (.rowcol ⟨16, 0⟩ [], 3), (.perm ⟨1, 2, 3, 0, 3⟩ [], 3), (.pack ⟨1, 16, 3, 0, 0⟩ [], 3), (.unpk ⟨1, 2, 0, 0⟩ [4], 3),
    (.cvt ⟨1, 2, 0, 0⟩ [], 5), (.cvt ⟨1, 2, 0, 1⟩ [0x1A0000], 3), (.qlog ⟨0, 1, 2, 0, 0⟩ [1], 3), (.qset ⟨16, 0, 0⟩ [], 3), (.qset ⟨1, 0, 2⟩ [], 4),
    (.cellFadd ⟨0, 1, 2, 0⟩ [0x400000], 3), (.cellFadd ⟨16, 1, 2, 0⟩ [0x200000], 3), (.cellFma ⟨0, 1, 2, 0⟩ [0x10000], 4), (.fsgn ⟨0, 1, 2, 0, 3⟩ [], 4),
    (.cellFcmp ⟨0, 1, 2, 0, 0⟩ [4], 3), (.fsel ⟨0, 1, 2, 0, 2⟩ [], 3), (.fsum ⟨0, 1, 0, 2⟩ [], 3), (.iadd ⟨0, 1, 2, 0, 2⟩ [], 3), (.iand ⟨16, 1, 2, 0⟩ [], 3),
    (.icmp ⟨0, 1, 2, 0, 0⟩ [4], 3), (.mac ⟨0, 1, 2, 0, false, false⟩ [0x130000], 3), (.mac ⟨0, 1, 2, 0, true, false⟩ [0x900000], 4),
    (.macs ⟨0, 1, 3, 0, false⟩ [0x900000], 3), (.macv ⟨0, 1, 2, 0, false⟩ [0x900000], 3), (.vbeg ⟨0, 1, 0, 0, 3⟩ [], 3), (.vbeg ⟨0, 1, 0, 0, 0⟩ [1], 4),
    (.accrd ⟨1, 0, 0, 0, true⟩ [], 3), (.accwr ⟨0, 16, 0⟩ [], 3), (.amax ⟨1, 0, 0, false⟩ [1], 3), (.vtest ⟨0, 1, 0, 0⟩ [4], 3),
    (.cellVsel ⟨0, 1, 2, 0, 3⟩ [], 3)] : List (Instr × Nat)),
    e.1.reservedKind = some e.2 ∧ e.1.wf = false := by decide +kernel

theorem test_ill_formed_quill : ∀ e ∈ ([
    (.vld ⟨0, 1, 2, 0, 2⟩ [], 3), (.vld ⟨0, 1, 2, 0, 0⟩ [], 4), (.vgth ⟨0, 1, 2, 0, 0⟩ [16], 3), (.vsct ⟨0, 1, 2, 0⟩ [16], 3), (.tstr ⟨31, 1, 1, 1⟩ [], 3),
    (.vadd ⟨0, 1, 2, 0, 1⟩ [], 4), (.vadd ⟨0, 1, 2, 0, 2⟩ [0xA00000], 3), (.vfma ⟨0, 1, 2, 0, 1⟩ [0xA00000], 3), (.vcmp ⟨8, 1, 2, 0, 0⟩ [], 4),
    (.vsel ⟨0, 1, 2, 0⟩ [0x100000], 3), (.viota ⟨0, 1, 2, 0⟩ [1], 3), (.vcvt ⟨0, 1, 0⟩ [], 5), (.vred ⟨0, 1, 0, 0, 3⟩ [], 3), (.vred ⟨0, 1, 1, 0, 0⟩ [], 4),
    (.vmov ⟨0, 1, 0, 0, 3⟩ [], 5), (.vmov ⟨0, 1, 1, 0, 0⟩ [], 4), (.vdedup ⟨31, 1, 0, 0⟩ [], 3), (.vdedup ⟨0, 1, 8, 0⟩ [], 4),
    (.vpool ⟨0, 1, 2, 0, 0⟩ [1], 3)] : List (Instr × Nat)),
    e.1.reservedKind = some e.2 ∧ e.1.wf = false := by decide +kernel

/-- An X slot too many for the form. -/
theorem test_ill_formed_payloads : (Instr.ld ⟨1, 2, false, 3, 0⟩ [0, 0]).wf = false ∧ (Instr.ld ⟨1, 2, false, 3, 0⟩ [0]).wf = true ∧
    (Instr.seli ⟨1, 0, 0, 1⟩ [0]).wf = false ∧ (Instr.fcvt ⟨1, 2, false, 0⟩ [0xC80000, 0]).wf = false := by decide +kernel

/-! ### Encoding, fetch, reset and every instruction -/

theorem witness_ResetIsSafe : State.reset.agenda = [] ∧ Memory.wf State.reset.mem = true ∧ Memory.wf core0.mem = true ∧ core0.agenda = [] := by decide +kernel

theorem witness_Decoding : (Instr.addi ⟨3, 3, false, 0xA0⟩ [195]).isStep = false ∧ decodeSlot 0x80039910 [] = .ok (.add ⟨7, 6, 8, true, false, 0⟩) := by decide +kernel

/-- The word of NOP, and the two words { ADD x7, x6, x8 | BR −1 } with the stop bit on the second. -/
theorem witness_StepRuns : (∀ k ∈ core0.tasks, k.done = none) ∧ core0.agenda = [] ∧ core0.devTurn = false ∧ core0.nextIssuer = some (0, 0) ∧
    (let s0 := ({ core0.setSeq 0 { core0.seq 0 with cur := 0 } with curUnit := 0 } : State)
     (s0.thread 0 0).traps = [] ∧ (s0.thread 0 0).loop = none ∧ s0.fetchBundle 0 0 = .words (encode .nop)) ∧
    instrKinds (isQuill 0) .nop = [] ∧ coincide (instrDests .nop) = false := by decide +kernel

theorem witness_StepRunsBundle : let ws : List SlotWord := [0x00039910, 0x980FFFFF]
    let s := { core0 with mem := memWrite core0.mem 0x1000 (ws.flatMap bytesOfWord) }
    s.nextIssuer = some (0, 0) ∧ s.fetchBundle 0 0 = .words ws ∧
    ((checkBundle (isQuill 0) ws).toOption.map (fun is => is.map (fun e => e.1)) = some [.add ⟨7, 6, 8, true, false, 0⟩, .br ⟨0xFFFFF⟩ []]) := by
  decide +kernel

theorem witness_StepRunsDevice : (Instr.blotterSwap 0).isStep = true ∧ ({ core0 with agenda := [.blotterSwap 0] } : State).agenda = .blotterSwap 0 :: [] := by
  decide

/-- A page that maps a scratchpad, as a cached translation. -/
theorem witness_FetchFromScratch : let s := { core0.setSeq 0 { core0.seq 0 with tlb := [⟨0, 0, 2 ^ 21, scratchPa 0 0, 0, 0, true, true⟩] } with
      mem := memWrite core0.mem (scratchPa 0 0x1000) (bytesOfWord 0x98A00000) }
    (s.thread 0 0).loop = none ∧ (s.thread 0 0).pc.toNat % 4 = 0 ∧ s.translate ((s.partOfUnit 0).getD 0) 0 (s.thread 0 0).pc.toNat .fetch = .ok (pad 0x1000) ∧
    s.isLocal (pad 0x1000) = true ∧ locate (localOf (pad 0x1000).pa) = .scratch 0 0x1000 ∧ s.poisonedAt (pad 0x1000) = false ∧
    memRead s.mem (localOf (pad 0x1000).pa) 4 = bytesOfWord 0x98A00000 ∧ slotStop 0x98A00000 = true := by decide +kernel

theorem witness_ReservedEncodings : instrKinds (isQuill core0.curUnit) (.add ⟨1, 2, 3, false, false, 2⟩) = [3] ∧
    (∀ e ∈ [((0xC8000000 : SlotWord), 0), (0xF8000000, 0), (0xB8000000, 1), (0x87F00000, 2), (0xC0000000, 5)],
      slotStop e.1 = true ∧ (slotKinds false ⟨e.1, 0, [], [], 0⟩).head? = some e.2) ∧
    (core0.thread 0 0).skipping = false ∧
    (let s := me core0 (fun th => { th with tvec := 0x4000 }); (s.thread 0 0).tvec ≠ 0 ∧ (s.thread 0 0).intrap = false) := by decide +kernel

theorem witness_SlotInstructions : core0.unfixable = [] ∧ core0.me.owner = .gang 0 ∧ (∃ t, exec (.add ⟨7, 6, 8, false, false, 0⟩) core0 = .next t) ∧
    (Instr.add ⟨7, 6, 8, false, false, 0⟩).isStep = false ∧ instrClass (.add ⟨7, 6, 8, false, false, 0⟩) = 0 ∧
    instrDests (.add ⟨7, 6, 8, false, false, 0⟩) = [.x 7] := by
  refine ⟨by decide +kernel, by decide +kernel, ⟨_, rfl⟩, by decide, by decide, by decide⟩

/-! ### Decoding: the words of the opcode table with marked operands, written out field by field (R207, R209 to R229) -/

theorem test_decode_A0 : ∀ e ∈ ([
    (0x80056E15, .add ⟨0xa, 0x1b, 0x10, true, false, 5⟩),
    (0x80156E15, .sub ⟨0xa, 0x1b, 0x10, true, false, 5⟩),
    (0x80256E15, .mul ⟨0xa, 0x1b, 0x10, true, false, 5⟩),
    (0x80356E15, .mulh ⟨0xa, 0x1b, 0x10, true, false, 5⟩),
    (0x80456E15, .mulhu ⟨0xa, 0x1b, 0x10, true, false, 5⟩),
    (0x80556E15, .div ⟨0xa, 0x1b, 0x10, true, false, 5⟩),
    (0x80656E15, .divu ⟨0xa, 0x1b, 0x10, true, false, 5⟩),
    (0x80756E15, .rem ⟨0xa, 0x1b, 0x10, true, false, 5⟩),
    (0x80856E15, .remu ⟨0xa, 0x1b, 0x10, true, false, 5⟩),
    (0x80956E15, .and ⟨0xa, 0x1b, 0x10, true, false, 5⟩),
    (0x80A56E15, .or ⟨0xa, 0x1b, 0x10, true, false, 5⟩),
    (0x80B56E15, .xor ⟨0xa, 0x1b, 0x10, true, false, 5⟩)] : List (Nat × Instr)), decodeTableWord 32 e.1 = some e.2 := by decide +kernel

theorem test_decode_A1 : ∀ e ∈ ([
    (0x80C56E15, .andn ⟨0xa, 0x1b, 0x10, true, false, 5⟩),
    (0x80D56E15, .shl ⟨0xa, 0x1b, 0x10, true, false, 5⟩),
    (0x80E56E15, .shr ⟨0xa, 0x1b, 0x10, true, false, 5⟩),
    (0x80F56E15, .sra ⟨0xa, 0x1b, 0x10, true, false, 5⟩),
    (0x81056E15, .rol ⟨0xa, 0x1b, 0x10, true, false, 5⟩),
    (0x81156E15, .min ⟨0xa, 0x1b, 0x10, true, false, 5⟩),
    (0x81256E15, .max ⟨0xa, 0x1b, 0x10, true, false, 5⟩),
    (0x81356E15, .minu ⟨0xa, 0x1b, 0x10, true, false, 5⟩),
    (0x81456E15, .maxu ⟨0xa, 0x1b, 0x10, true, false, 5⟩),
    (0x81516E15, .cmp ⟨2, 0x1b, 0x10, true, false, 5⟩),
    (0x81656E15, .sel ⟨0xa, 0x1b, 0x10, true, false, 5⟩),
    (0x81710C21, .plog ⟨2, 3, 1, 1⟩)] : List (Nat × Instr)), decodeTableWord 32 e.1 = some e.2 := by decide +kernel

theorem test_decode_A2 : ∀ e ∈ ([
    (0x81856FD8, .clz ⟨0xa, 0x1b, true, 0x1d8⟩),
    (0x81956FD8, .ctz ⟨0xa, 0x1b, true, 0x1d8⟩),
    (0x81A56FD8, .popc ⟨0xa, 0x1b, true, 0x1d8⟩),
    (0x82056FD8, .addi ⟨0xa, 0x1b, true, 0x1d8⟩ []),
    (0x82116E5F, .cmpi ⟨2, 0x1b, true, 1, 0x1f⟩ []),
    (0x8225353B, .li ⟨0xa, 0x353b⟩ [])] : List (Nat × Instr)), decodeTableWord 32 e.1 = some e.2 := by decide +kernel

theorem test_decode_F0 : ∀ e ∈ ([
    (0x88056E15, .fadd ⟨0xa, 0x1b, 0x10, true, false, 5⟩),
    (0x88156E15, .fsub ⟨0xa, 0x1b, 0x10, true, false, 5⟩),
    (0x88256E15, .fmul ⟨0xa, 0x1b, 0x10, true, false, 5⟩),
    (0x88356E15, .fma ⟨0xa, 0x1b, 0x10, true, false, 5⟩),
    (0x88456E10, .fmin ⟨0xa, 0x1b, 0x10, true, false⟩),
    (0x88556E10, .fmax ⟨0xa, 0x1b, 0x10, true, false⟩),
    (0x88616E15, .fcmp ⟨2, 0x1b, 0x10, true, false, 5⟩),
    (0x88756C11, .fcvt ⟨0xa, 0x1b, true, 1⟩ [])] : List (Nat × Instr)), decodeTableWord 32 e.1 = some e.2 := by decide +kernel

theorem test_decode_M0 : ∀ e ∈ ([
    (0x90056E5F, .ld ⟨0xa, 0x1b, true, 1, 0x1f⟩ []),
    (0x90156EC5, .st ⟨0xa, 0x1b, true, false, 3, 5⟩ []),
    (0x90256E78, .lda ⟨0xa, 0x1b, true, 1, 7⟩ []),
    (0x90356EE8, .str ⟨0xa, 0x1b, true, false, 3, 5⟩ []),
    (0x90456E5F, .lde ⟨0xa, 0x1b, true, 1, 0x1f⟩ []),
    (0x90556E5F, .ldeC ⟨0xa, 0x1b, true, 1, 0x1f⟩ []),
    (0x90656EC5, .stf ⟨0xa, 0x1b, true, false, 3, 5⟩ []),
    (0x90702B70, .grset ⟨0xa, 0x1b, true, false⟩),
    (0x90802B70, .grclr ⟨0xa, 0x1b, true, false⟩),
    (0x90902AD0, .pref ⟨0xa, true, 0x10⟩ []),
    (0x90A00002, .fence ⟨2⟩),
    (0x90B56E00, .tlook ⟨0xa, 0x1b, true⟩)] : List (Nat × Instr)), decodeTableWord 32 e.1 = some e.2 := by decide +kernel

theorem test_decode_M1 : ∀ e ∈ ([
    (0x90C02B70, .tfill ⟨0xa, 0x1b, true, false⟩),
    (0x90D02A00, .tevict ⟨0xa, true⟩),
    (0x90E5053B, .mfs ⟨0xa, 0x53b⟩),
    (0x90F54190, .mts ⟨0xa, true, 0x190⟩),
    (0x91056E15, .amoAdd ⟨0xa, 0x1b, 0x10, true, false, 5⟩),
    (0x91156E15, .amoAnd ⟨0xa, 0x1b, 0x10, true, false, 5⟩),
    (0x91256E15, .amoOr ⟨0xa, 0x1b, 0x10, true, false, 5⟩),
    (0x91356E15, .amoXor ⟨0xa, 0x1b, 0x10, true, false, 5⟩),
    (0x91456E15, .amoMin ⟨0xa, 0x1b, 0x10, true, false, 5⟩),
    (0x91556E15, .amoMax ⟨0xa, 0x1b, 0x10, true, false, 5⟩),
    (0x91656E15, .amoMinu ⟨0xa, 0x1b, 0x10, true, false, 5⟩),
    (0x91756E15, .amoMaxu ⟨0xa, 0x1b, 0x10, true, false, 5⟩)] : List (Nat × Instr)), decodeTableWord 32 e.1 = some e.2 := by decide +kernel

theorem test_decode_M2 : ∀ e ∈ ([
    (0x91856E15, .amoSwp ⟨0xa, 0x1b, 0x10, true, false, 5⟩),
    (0x91956E15, .amoCas ⟨0xa, 0x1b, 0x10, true, false, 5⟩),
    (0x91A56E15, .amoFadd ⟨0xa, 0x1b, 0x10, true, false, 5⟩),
    (0x91B56E15, .amoFmax ⟨0xa, 0x1b, 0x10, true, false, 5⟩),
    (0x92056E15, .amoAddD ⟨0xa, 0x1b, 0x10, true, false, 5⟩),
    (0x92156E15, .amoAndD ⟨0xa, 0x1b, 0x10, true, false, 5⟩),
    (0x92256E15, .amoOrD ⟨0xa, 0x1b, 0x10, true, false, 5⟩),
    (0x92356E15, .amoXorD ⟨0xa, 0x1b, 0x10, true, false, 5⟩),
    (0x92456E15, .amoMinD ⟨0xa, 0x1b, 0x10, true, false, 5⟩),
    (0x92556E15, .amoMaxD ⟨0xa, 0x1b, 0x10, true, false, 5⟩),
    (0x92656E15, .amoMinuD ⟨0xa, 0x1b, 0x10, true, false, 5⟩),
    (0x92756E15, .amoMaxuD ⟨0xa, 0x1b, 0x10, true, false, 5⟩)] : List (Nat × Instr)), decodeTableWord 32 e.1 = some e.2 := by decide +kernel

theorem test_decode_M3 : ∀ e ∈ ([
    (0x92856E15, .amoSwpD ⟨0xa, 0x1b, 0x10, true, false, 5⟩),
    (0x92956E15, .amoCasD ⟨0xa, 0x1b, 0x10, true, false, 5⟩)] : List (Nat × Instr)), decodeTableWord 32 e.1 = some e.2 := by decide +kernel

theorem test_decode_B0 : ∀ e ∈ ([
    (0x980188EA, .br ⟨0x188ea⟩ []),
    (0x98150190, .bc ⟨2, true, 0x190⟩ []),
    (0x982188EA, .bcall ⟨0x188ea⟩ []),
    (0x98354000, .ret ⟨0xa, true⟩),
    (0x98456E00, .loop ⟨0xa, 0x1b, true, []⟩),
    (0x9845013B, .loopImm ⟨0xa, 0x3b⟩ []),
    (0x98500000, .exit),
    (0x98600000, .trig),
    (0x98700000, .yield),
    (0x988000EA, .trap ⟨0xea⟩),
    (0x98900000, .eret),
    (0x98A00000, .nop)] : List (Nat × Instr)), decodeTableWord 32 e.1 = some e.2 := by decide +kernel

theorem test_decode_B1 : ∀ e ∈ ([
    (0x98B088EA, .sleep ⟨0x88ea⟩)] : List (Nat × Instr)), decodeTableWord 32 e.1 = some e.2 := by decide +kernel

theorem test_decode_C0 : ∀ e ∈ ([
    (0xA0056E11, .cpy ⟨0xa, 0x1b, 0x10, true, false, 1⟩),
    (0xA0156E15, .cpyx ⟨0xa, 0x1b, 0x10, true, false, 5⟩),
    (0xA0202B70, .waitid ⟨0xa, 0x1b, true⟩),
    (0xA0356E15, .winit ⟨0xa, 0x1b, 0x10, true, false, 5⟩),
    (0xA0402B77, .warr ⟨0xa, 0x1b, true, false, 7⟩),
    (0xA0502811, .wdrop ⟨0xa, true, 1⟩),
    (0xA0602B77, .wwait ⟨0xa, 0x1b, true, false, 7⟩),
    (0xA0756C11, .wtest ⟨0xa, 0x1b, true, 1⟩),
    (0xA0856E10, .qpost ⟨0xa, 0x1b, 0x10, true, false⟩),
    (0xA0902B70, .bopen ⟨0xa, 0x1b, true⟩),
    (0xA0A02B70, .bclose ⟨0xa, 0x1b, true⟩)] : List (Nat × Instr)), decodeTableWord 32 e.1 = some e.2 := by decide +kernel

theorem test_decode_E0 : ∀ e ∈ ([
    (0xA8054050, .elw ⟨0xa, true, 1, 1, false⟩),
    (0xA8154040, .eln ⟨0xa, true, 1, false⟩),
    (0xA8254040, .ewe ⟨0xa, true, 1, false⟩),
    (0xA83560E0, .ews ⟨0xa, true, 0x10, false, 3, true, false⟩),
    (0xA840000A, .edrain ⟨0xa⟩)] : List (Nat × Instr)), decodeTableWord 32 e.1 = some e.2 := by decide +kernel

theorem test_decode_W0 : ∀ e ∈ ([
    (0xB0056C05, .mov ⟨0xa, 0x1b, 1, 1⟩ []),
    (0xB0156C05, .movh ⟨0xa, 0x1b, 1, 1⟩ []),
    (0xB0250365, .lds ⟨0xa, 0x1b, 1, 1⟩ []),
    (0xB0302B65, .sts ⟨0xa, 0x1b, 1, 1⟩ []),
    (0xB0456E07, .imm ⟨0xa, 0x1b, 0x10, 1, 3⟩ []),
    (0xB055000C, .rowcol ⟨0xa, 3⟩ []),
    (0xB0656E07, .perm ⟨0xa, 0x1b, 0x10, 1, 3⟩ []),
    (0xB0756E07, .pack ⟨0xa, 0x1b, 0x10, 1, 3⟩ []),
    (0xB0856C05, .unpk ⟨0xa, 0x1b, 1, 1⟩ []),
    (0xB0956C05, .cvt ⟨0xa, 0x1b, 1, 1⟩ []),
    (0xB0A10C27, .qlog ⟨2, 3, 1, 1, 3⟩ []),
    (0xB0B0280D, .qset ⟨0xa, 3, 1⟩ [])] : List (Nat × Instr)), decodeTableWord 32 e.1 = some e.2 := by decide +kernel

theorem test_decode_W1 : ∀ e ∈ ([
    (0xB1056E04, .cellFadd ⟨0xa, 0x1b, 0x10, 1⟩ []),
    (0xB1156E04, .cellFsub ⟨0xa, 0x1b, 0x10, 1⟩ []),
    (0xB1256E04, .cellFmul ⟨0xa, 0x1b, 0x10, 1⟩ []),
    (0xB1356E04, .cellFma ⟨0xa, 0x1b, 0x10, 1⟩ []),
    (0xB1456E04, .cellFmin ⟨0xa, 0x1b, 0x10, 1⟩ []),
    (0xB1556E04, .cellFmax ⟨0xa, 0x1b, 0x10, 1⟩ []),
    (0xB1656E07, .fsgn ⟨0xa, 0x1b, 0x10, 1, 3⟩ []),
    (0xB1756E07, .cellFcmp ⟨0xa, 0x1b, 0x10, 1, 3⟩ []),
    (0xB1856E07, .fsel ⟨0xa, 0x1b, 0x10, 1, 3⟩ []),
    (0xB1956C04, .frcp ⟨0xa, 0x1b, 1⟩ []),
    (0xB1A56C04, .frsq ⟨0xa, 0x1b, 1⟩ []),
    (0xB1B56C04, .fsqrt ⟨0xa, 0x1b, 1⟩ [])] : List (Nat × Instr)), decodeTableWord 32 e.1 = some e.2 := by decide +kernel

theorem test_decode_W2 : ∀ e ∈ ([
    (0xB1C56E04, .fdiv ⟨0xa, 0x1b, 0x10, 1⟩ []),
    (0xB1D56C04, .fexp2 ⟨0xa, 0x1b, 1⟩ []),
    (0xB1E56C04, .flog2 ⟨0xa, 0x1b, 1⟩ []),
    (0xB1F56C05, .fsum ⟨0xa, 0x1b, 1, 1⟩ []),
    (0xB2056E07, .iadd ⟨0xa, 0x1b, 0x10, 1, 3⟩ []),
    (0xB2156E07, .isub ⟨0xa, 0x1b, 0x10, 1, 3⟩ []),
    (0xB2256E07, .imul ⟨0xa, 0x1b, 0x10, 1, 3⟩ []),
    (0xB2356E04, .iand ⟨0xa, 0x1b, 0x10, 1⟩ []),
    (0xB2456E04, .ior ⟨0xa, 0x1b, 0x10, 1⟩ []),
    (0xB2556E04, .ixor ⟨0xa, 0x1b, 0x10, 1⟩ []),
    (0xB2656E04, .ishl ⟨0xa, 0x1b, 0x10, 1⟩ []),
    (0xB2756E04, .ishr ⟨0xa, 0x1b, 0x10, 1⟩ [])] : List (Nat × Instr)), decodeTableWord 32 e.1 = some e.2 := by decide +kernel

theorem test_decode_W3 : ∀ e ∈ ([
    (0xB2856E04, .isra ⟨0xa, 0x1b, 0x10, 1⟩ []),
    (0xB2956E07, .imin ⟨0xa, 0x1b, 0x10, 1, 3⟩ []),
    (0xB2A56E07, .imax ⟨0xa, 0x1b, 0x10, 1, 3⟩ []),
    (0xB2B56E07, .icmp ⟨0xa, 0x1b, 0x10, 1, 3⟩ []),
    (0xB3002B65, .scl ⟨0xa, 0x1b, 1, true⟩),
    (0xB3196E06, .mac ⟨2, 0x1b, 0x10, 1, true, false⟩ []),
    (0xB3296E05, .macs ⟨2, 0x1b, 0x10, 1, true⟩ []),
    (0xB3396E05, .macv ⟨2, 0x1b, 0x10, 1, true⟩ []),
    (0xB3496E07, .vbeg ⟨2, 0x1b, 0x10, 1, 3⟩ []),
    (0xB350280C, .vthr ⟨0xa, 3⟩),
    (0xB369000C, .accz ⟨2, 3⟩),
    (0xB3754E05, .accrd ⟨0xa, 3, 0x10, 1, true⟩ [])] : List (Nat × Instr)), decodeTableWord 32 e.1 = some e.2 := by decide +kernel

theorem test_decode_W4 : ∀ e ∈ ([
    (0xB3896C04, .accwr ⟨2, 0x1b, 1⟩ []),
    (0xB3954C05, .amax ⟨0xa, 3, 1, true⟩ []),
    (0xB3A56C05, .vtest ⟨0xa, 0x1b, 1, 1⟩ []),
    (0xB3B56E07, .cellVsel ⟨0xa, 0x1b, 0x10, 1, 3⟩ []),
    (0xB4020000, .lup ⟨2⟩),
    (0xB4120000, .chol ⟨2⟩),
    (0xB4226C00, .qrh ⟨2, 0x1b⟩),
    (0xB4321801, .trsm ⟨2, 3, 1⟩),
    (0xB6016E01, .seli ⟨2, 0x1b, 0x10, 1⟩ []),
    (0xB6116E01, .selx ⟨2, 0x1b, 0x10, 1⟩),
    (0xB6250C01, .wflg ⟨0xa, 3, 1⟩),
    (0xB6300000, .wdrain)] : List (Nat × Instr)), decodeTableWord 32 e.1 = some e.2 := by decide +kernel

theorem test_decode_W5 : ∀ e ∈ ([
    (0xB6402800, .pvst ⟨0xa⟩)] : List (Nat × Instr)), decodeTableWord 32 e.1 = some e.2 := by decide +kernel

theorem test_decode_V0 : ∀ e ∈ ([
    (0xB8056E07, .vld ⟨0xa, 0x1b, 0x10, 1, 3⟩ []),
    (0xB8156E07, .vst ⟨0xa, 0x1b, 0x10, 1, 3⟩ []),
    (0xB8256E07, .vgth ⟨0xa, 0x1b, 0x10, 1, 3⟩ []),
    (0xB8356E04, .vsct ⟨0xa, 0x1b, 0x10, 1⟩ []),
    (0xB8456C05, .tstr ⟨0xa, 0x1b, 1, 1⟩ []),
    (0xB8856E07, .vadd ⟨0xa, 0x1b, 0x10, 1, 3⟩ []),
    (0xB8956E07, .vsub ⟨0xa, 0x1b, 0x10, 1, 3⟩ []),
    (0xB8A56E07, .vmul ⟨0xa, 0x1b, 0x10, 1, 3⟩ []),
    (0xB8B56E07, .vfma ⟨0xa, 0x1b, 0x10, 1, 3⟩ []),
    (0xB8C56E07, .vmin ⟨0xa, 0x1b, 0x10, 1, 3⟩ []),
    (0xB8D56E07, .vmax ⟨0xa, 0x1b, 0x10, 1, 3⟩ []),
    (0xB8E56E07, .vcmp ⟨0xa, 0x1b, 0x10, 1, 3⟩ [])] : List (Nat × Instr)), decodeTableWord 32 e.1 = some e.2 := by decide +kernel

theorem test_decode_V1 : ∀ e ∈ ([
    (0xB8F56E04, .vsel ⟨0xa, 0x1b, 0x10, 1⟩ []),
    (0xB9056C04, .vcvt ⟨0xa, 0x1b, 1⟩ []),
    (0xB9156E07, .vred ⟨0xa, 0x1b, 0x10, 1, 3⟩ []),
    (0xB9256E04, .viota ⟨0xa, 0x1b, 0x10, 1⟩ []),
    (0xB9356E07, .vmov ⟨0xa, 0x1b, 0x10, 1, 3⟩ []),
    (0xB9456E04, .vdedup ⟨0xa, 0x1b, 0x10, 1⟩ []),
    (0xB9556E07, .vpool ⟨0xa, 0x1b, 0x10, 1, 3⟩ []),
    (0xB9856E04, .hgld ⟨0xa, 0x1b, 0x10, 1⟩),
    (0xB9956E04, .hgsc ⟨0xa, 0x1b, 0x10, 1⟩)] : List (Nat × Instr)), decodeTableWord 32 e.1 = some e.2 := by decide +kernel

/-! ### Worked examples of the manual -/

/-- The example codes of R28: 1.0, −2.5, 3.140625, 65504, 12.0 and 0.75 as values. -/
theorem test_example_codes :
    convertElem fmtBF16 fmtFP32 0 0 0 0x4049 = (0x40490000, 0) ∧ convertElem fmtFP16 fmtFP32 0 0 0 0x7BFF = (0x477FE000, 0) ∧
    convertElem fmtF8E4 fmtFP32 0 0 0 0x54 = (0x41400000, 0) ∧ convertElem fmtF8E4 fmtFP32 0 0 0 0x34 = (0x3F400000, 0) ∧
    convertElem fmtF8E4 fmtFP32 0 0 0 0x7F = (0x43F00000, 0) := by decide +kernel

/-- The MXI8 block of 5.0, 0.3, −1.25 and zeros (R51, R52): scale 129, codes 80, 5, −20, and 5 reads back as 0.3125. -/
theorem test_mx_block : toMx 8 0 [] ([0x40A00000, 0x3E99999A, 0xBFA00000, 0].map (mxIn fmtFP32 0)) = (129, [80, 5, 236, 0], 1) ∧
    mxToFp32 8 129 80 = 0x40A00000 ∧ mxToFp32 8 129 5 = 0x3EA00000 ∧ mxToFp32 8 129 236 = 0xBFA00000 := by decide +kernel

/-- Promotion of 4,100 with scales 130 and 125 onto 0.75 and onto 2^20 (R58). -/
theorem test_promotion : promoteElem 8 8 130 125 0x3F400000 4100 = (0x40302000, 0) ∧ promoteElem 8 8 130 125 0x49800000 4100 = (0x49800010, 1) := by
  decide +kernel

/-- The sums of the row prefix 1.0, 2^24, 1.0, 3.0 (R292, RNE). -/
theorem test_row_prefix : fpAdd fp32 0 0 0x4B800000 0x3F800000 = (0x4B800000, 1) ∧ fpAdd fp32 0 0 0x4B800000 0x40400000 = (0x4B800002, 1) := by
  decide +kernel

/-- The monitor after the first block (R329): −20.0 is below 30.0, 35.5 is undecided, and under SIGN 60.0 is above. -/
theorem test_monitor : monitor ⟨1, 2, 4, 1, 0, 0⟩ 0x41F00000 126 125 0 0xC1A00000 = 1 ∧ monitor ⟨1, 2, 4, 1, 0, 0⟩ 0x41F00000 126 125 0 0x420E0000 = 0 ∧
    monitor ⟨1, 0, 4, 1, 0, 0⟩ 0 126 125 0 0x42700000 = 2 := by decide +kernel

/-- The 4-in-8 group 3, −7, 6, 0, 5, −2, 5, 5 keeps −7, 6, 5, 5 with mask 0x56 (R116). -/
theorem test_prune : pruneUnit fmtINT8 8 [3, 249, 6, 0, 5, 254, 5, 5] = ([249, 6, 5, 5], 0x56) := by decide +kernel

/-- The hashed point (0.5, 0.25) at N = 7, T = 4: slots 8, 15, 5 and 2 with their weights (R368, R369). -/
theorem test_hash : let t : HgTable := ⟨fmtFP32, 2, 1, 2, 0, 0, 7, 4, 0⟩
    t.slot [3, 1] = 8 ∧ t.slot [4, 1] = 15 ∧ (t.corners [0x3F000000, 0x3E800000]).1 = [(0x3E000000, 8), (0x3E000000, 15), (0x3EC00000, 5), (0x3EC00000, 2)] := by
  decide +kernel

/-- Core 30's slot on channel 40 is 87, and a miss takes 176 cycles (R151, R153). -/
theorem test_calendar : defaultEntry 40 87 = calEntryOf kindCORE 30 ∧ State.reset.latMiss 30 40 = 176 := by decide +kernel

/-! ### One step -/

/-- ADD x7, x6, x8 as the first instruction after reset. -/
theorem test_step_add : (match step (setXs (State.reset.withFetchWord 32 0x80039910) [(6, 5), (8, 0xFFFFFFFFFFFFFFFF)]) with
    | .next s => some ((s.thread 0 0).getX 7, (s.thread 0 0).pc) | _ => none) = some (4, 0x1004) := by decide +kernel

/-- CMP.LT p3, x24, x9 reads x24 before ADDI x24, x24, 1 writes it (R218). -/
theorem test_step_read_before_write :
    (match step { setXs core0 [(24, 2), (9, 3)] with mem := memWrite core0.mem 0x1000 ([0x0151E122, 0x820C6001].flatMap bytesOfWord) } with
    | .next s => some ((s.thread 0 0).getP 3, (s.thread 0 0).getX 24, (s.thread 0 0).pc) | _ => none) = some (true, 3, 0x1008) := by decide +kernel

/-- SELI.C g1, 3, 3 selects the first four rows and columns (R303). -/
theorem test_step_seli : (match step (State.reset.withFetchWord 32 0xB6008C61) with
    | .next s => some ((s.thread 0 0).getG 1) | _ => none) = some 0xFFFF000F000F := by decide +kernel

/-- TRAP 5 with TVEC set enters the handler (R408, R409). -/
theorem test_step_trap : (match step (me (State.reset.withFetchWord 32 0x98800005) (fun th => { th with tvec := 0x4000 })) with
    | .next s => some ((s.thread 0 0).pc, (s.thread 0 0).tepc, (s.thread 0 0).tcause, (s.thread 0 0).intrap) | _ => none) =
      some (0x4000, 0x1004, 0x00010530, true) := by decide +kernel

/-- A reserved class traps with cause 0x10 kind 0 and TSTAT the word; TEPC names the bundle (R429). -/
theorem test_step_reserved : (match step (me (State.reset.withFetchWord 32 0xC8000000) (fun th => { th with tvec := 0x4000 })) with
    | .next s => some ((s.thread 0 0).tepc, (s.thread 0 0).tcause, (s.thread 0 0).tstat) | _ => none) = some (0x1000, 0x00100090, 0xC8000000) := by decide +kernel

/-- LD of a mapped HBM address issues: the register is empty and one request is out (R250). -/
theorem test_step_load : (match exec (.ld ⟨4, 5, false, 3, 1⟩ []) (setXs core0 [(5, 0x2000)]) with
    | .next s => some ((s.thread 0 0).fullX 4, s.reqs.map (fun r => (r.va, r.size))) | _ => none) = some (false, [(0x2008, 8)]) := by decide +kernel

/-! ### A class -/

theorem witness_IntegerResults : let s := setXs core0 [(6, 5), (8, 0)]; let o : Rrr := ⟨7, 6, 8, true, false, 0⟩
    s.me.getX 6 = 5 ∧ s.me.getX 8 = 0 ∧ s.me.fullX o.srcA = true ∧ s.me.fullX o.srcB = true ∧ s.me.fullX o.dst = true ∧
    (∀ q ∈ [o, ⟨0, 6, 8, false, true, 1⟩], ∀ i ∈ [Instr.add q, .sub q, .mul q, .mulh q, .mulhu q, .div q, .divu q, .rem q, .remu q, .and q, .or q, .xor q,
      .andn q, .shl q, .shr q, .sra q, .rol q, .min q, .max q, .minu q, .maxu q], s.accepts i = true) := by decide +kernel

theorem witness_ComparesAndSelects : let s := setXs core0 [(6, 5), (8, 0)]
    s.me.fullX 6 = true ∧ s.me.fullX 8 = true ∧ s.me.fullX 7 = true ∧ (∀ c ∈ [0, 6], s.accepts (.cmp ⟨1, 6, 8, false, false, c⟩) = true) ∧
    (∀ xs ∈ [[], [3], [3, 4]], s.accepts (.cmpi ⟨0, 6, false, 6, 63⟩ xs) = true) ∧ (∀ k ∈ [0, 7], s.accepts (.sel ⟨7, 6, 8, false, false, k⟩) = true) ∧
    (∀ m ∈ [0, 7], s.accepts (.plog ⟨1, 0, 7, m⟩) = true) := by decide +kernel

theorem witness_CountsAndImmediates : let s := setXs core0 [(6, 5)]
    s.me.getX 6 = 5 ∧ s.me.fullX 6 = true ∧ s.me.fullX 7 = true ∧
    (∀ m ∈ [0, 1], ∀ i ∈ [Instr.clz ⟨7, 6, false, m⟩, .ctz ⟨7, 6, false, m⟩, .popc ⟨7, 6, false, m⟩], s.accepts i = true) ∧
    (∀ j < 64, 64 - 61 ≤ j → (5 : Word).getLsbD j = false) ∧ (5 : Word).getLsbD 2 = true ∧ (5 : Word).getLsbD 0 = true ∧
    (∀ xs ∈ [[], [1], [1, 2]], s.accepts (.addi ⟨7, 6, false, 511⟩ xs) = true ∧ s.accepts (.li ⟨7, 5⟩ xs) = true) := by decide +kernel

/-! ### F class -/

theorem witness_ScalarFloats : let s := setXs core0 [(6, 0x3F800000), (8, 0x40000000), (7, 0x3F800000)]
    s.me.fullX 6 = true ∧ s.me.fullX 8 = true ∧ s.me.fullX 7 = true ∧
    (∀ r ∈ [6, 8, 7], fp32.verdict ((s.me.getX r).toNat % 2 ^ 32) = none) ∧
    (∀ i ∈ [Instr.fadd ⟨7, 6, 8, false, false, 3⟩, .fsub ⟨7, 6, 8, false, false, 0⟩, .fmul ⟨7, 6, 8, false, false, 0⟩, .fma ⟨7, 6, 8, false, false, 0⟩,
      .fmin ⟨7, 6, 8, false, false⟩, .fmax ⟨7, 6, 8, false, false⟩, .fcmp ⟨1, 6, 8, false, false, 3⟩], s.accepts i = true) := by decide +kernel

theorem witness_FloatConversions : let s := setXs core0 [(6, 0x3F800000)]; let x : XPay := 0xC80000
    s.me.fullX 6 = true ∧ s.me.fullX 7 = true ∧ x.extractLsb' 23 4 = 0x1 ∧ x.extractLsb' 19 4 = 0x9 ∧
    verdictMisuse 1 9 ((s.me.getX 6).toNat % 2 ^ fmtWidth 1) = false ∧ s.accepts (.fcvt ⟨7, 6, false, 0⟩ [x]) = true := by decide +kernel

theorem witness_UnorderedCompares : fp32.isNaN 0x7FC00000 = true ∧ fp32.verdict 0x7FC00000 = none ∧ fp32.verdict 0x3F800000 = none := by decide +kernel

/-! ### M class -/

theorem witness_GlobalAccesses : let s := setXs core0 [(5, 0x2000)]
    s.me.fullX 5 = true ∧ s.me.fullX 4 = true ∧
    (∀ k ∈ [Access.read, .write, .atomic], s.translate ((s.partOfUnit s.curUnit).getD 0) s.curUnit 0x2008 k = .ok (page 0x2008)) ∧
    (s.me.getX 5 + immediate (1 : BitVec 6) [] * BitVec.ofNat 64 8).toNat = 0x2008 ∧
    s.accepts (.ld ⟨4, 5, false, 3, 1⟩ []) = true ∧ s.accepts (.st ⟨4, 5, false, false, 3, 1⟩ []) = true ∧
    s.accepts (.lda ⟨4, 5, false, 3, 4⟩ [1]) = true ∧ s.accepts (.str ⟨4, 5, false, false, 3, 4⟩ [1]) = true ∧
    s.accepts (.pref ⟨5, false, 1⟩ []) = true ∧ localOf (page 0x2008).pa < 8 * stackBytes ∧ s.isLocal (page 0x2008) = true ∧
    s.outside s.curUnit s.me.owner (page 0x2008) = false := by decide +kernel

theorem witness_ScratchpadAccesses : let s := setXs core0 [(5, window), (3, 4)]
    s.me.fullX 5 = true ∧ s.me.fullX 4 = true ∧ s.me.fullX 3 = true ∧ window.toNat % 16 = 0 ∧
    (∀ k ∈ [Access.read, .write], s.translate ((s.partOfUnit s.curUnit).getD 0) s.curUnit window.toNat k = .ok (pad 0)) ∧
    s.scratchOf (pad 0) = some (0, 0) ∧ s.mayName s.curUnit s.me.owner 0 = true ∧
    (let t := arr s (fun k => { k with full := [(0, true)] })
     (t.core 0).granuleFull 0 = true ∧ t.accepts (.lde ⟨4, 5, false, 3, 0⟩ []) = true ∧ t.accepts (.ldeC ⟨4, 5, false, 3, 0⟩ []) = true) ∧
    s.accepts (.stf ⟨4, 5, false, false, 3, 0⟩ []) = true ∧ s.accepts (.grset ⟨5, 3, false, false⟩) = true ∧ s.accepts (.grclr ⟨5, 0, false, false⟩) = true ∧
    0 + 16 * ((s.me.getX 3).toNat % 2 ^ 32) ≤ 0x200000 ∧ 8 * stackBytes ≤ localOf (pad 0).pa := by decide +kernel

theorem witness_MisalignedAccessFaults : let s := setXs core0 [(5, 0x2001)]
    s.me.fullX 5 = true ∧ s.me.fullX 4 = true ∧ (s.me.getX 5 + immediate (0 : BitVec 6) [] * BitVec.ofNat 64 2).toNat % 2 = 1 ∧
    (∀ k ∈ [Access.read, .write], s.translate ((s.partOfUnit s.curUnit).getD 0) s.curUnit 0x2001 k = .ok (page 0x2001)) ∧
    s.accepts (.ld ⟨4, 5, false, 1, 0⟩ []) = true ∧ s.accepts (.st ⟨4, 5, false, false, 1, 0⟩ []) = true ∧
    (let q := setXs quill0 [(5, window + 0x200000)]; let g : Target := ⟨scratchPa 1 0, 0, 0⟩
     q.me.fullX 5 = true ∧ q.me.fullX 4 = true ∧ (q.me.getX 5 + immediate (0 : BitVec 6) [] * BitVec.ofNat 64 2).toNat % 2 = 0 ∧
     (∀ k ∈ [Access.read, .write], q.translate ((q.partOfUnit q.curUnit).getD 0) q.curUnit (q.me.getX 5).toNat k = .ok g) ∧
     q.accepts (.ld ⟨4, 5, false, 1, 0⟩ []) = true ∧ q.accepts (.st ⟨4, 5, false, false, 1, 0⟩ []) = true ∧
     q.outside q.curUnit q.me.owner g = true) := by decide +kernel

theorem witness_PrefetchAndFence : let s := setXs core0 [(5, BitVec.ofNat 64 (2 ^ 56))]
    s.me.fullX 5 = true ∧ s.accepts (.pref ⟨5, false, 0⟩ []) = true ∧
    s.translate ((s.partOfUnit s.curUnit).getD 0) s.curUnit (2 ^ 56) .read = .error ⟨0x40, xstatus 1 .read 3⟩ ∧
    s.accepts (.fence ⟨2⟩) = true ∧ s.accessesOut s.curUnit s.turnThread = [] ∧
    ({ core0 with reqs := [{ (core0.issuerOf .nop).request core0 2 0x2000 8 (page 0x2000) (.load 1) with id := 9 }] } : State).accessesOut 0 0 ≠ [] := by decide +kernel

theorem witness_TagTable : let s := setXs core0 [(5, 0x2000), (6, 260), (7, 0x2080)]
    s.me.fullX 5 = true ∧ s.me.fullX 6 = true ∧ s.me.fullX 7 = true ∧ s.me.fullX 4 = true ∧ s.accepts (.tlook ⟨4, 5, false⟩) = true ∧
    s.accepts (.tfill ⟨6, 7, false, false⟩) = true ∧ s.accepts (.tevict ⟨6, false⟩) = true ∧
    s.translate ((s.partOfUnit s.curUnit).getD 0) s.curUnit 0x2000 .read = .ok (page 0x2000) ∧
    s.translate ((s.partOfUnit s.curUnit).getD 0) s.curUnit 0x2080 .read = .ok (page 0x2080) ∧ 260 < 1024 ∧ 260 / 4 = 0x2080 / 128 % 256 ∧
    (s.core s.curUnit).findTag (0x2080 / 128) = none ∧ s.evicting s.curUnit 260 = [] ∧
    (let e : State := { s with reqs := [{ (core0.issuerOf .nop).request core0 2 0x2080 128 (page 0x2080) (.evict 260) with id := 9 }] }
     e.accepts (.tfill ⟨6, 7, false, false⟩) = true ∧ e.evicting e.curUnit 260 ≠ []) ∧ ((s.core s.curUnit).tag 260).getLsbD 63 = false ∧
    (let t := arr s (fun k => { k with tags := [(260, BitVec.ofNat 64 (2 ^ 63 + 2 ^ 62 + 0x41))] })
     ((t.core 0).tag 260).getLsbD 63 = true ∧ 128 * (((t.core 0).tag 260).toNat % 2 ^ 49) = 0x2080 ∧
     t.translate ((t.partOfUnit 0).getD 0) 0 0x2080 .write = .ok (page 0x2080)) := by decide +kernel

theorem witness_SpecialRegisters : (∀ n ∈ [0x000, 0x004, 0x017, 0x03F, 0x0C0, 0x0C5, 0x020, 0x02F], core0.accepts (.mfs ⟨4, BitVec.ofNat 12 n⟩) = true) ∧
    core0.me.fullX 4 = true ∧ core0.curUnit < 192 ∧ core0.turnThread < 4 ∧ quill0.curUnit = 192 ∧ quill0.accepts (.mfs ⟨4, 0x005⟩) = true ∧
    (∀ n ∈ [0x006, 0x008, 0x010, 0x017, 0x030, 0x03F, 0x0C0, 0x0C1], core0.accepts (.mts ⟨4, false, BitVec.ofNat 12 n⟩) = true) ∧
    (core0.me.getX 4).extractLsb' 15 49 = 0 ∧ (core0.me.getX 4).extractLsb' 6 2 = 0 ∧ (core0.me.getX 4).extractLsb' 24 8 = 0 ∧ (core0.me.getX 4).extractLsb' 0 4 = 0 ∧ badBankFormat 1 = false := by
  decide +kernel

theorem witness_SpecialRegisterTraps : specNamed 0x00E = false ∧ core0.accepts (.mfs ⟨4, 0x00E⟩) = true ∧ specCoreOnly 0x007 = true ∧
    quill0.accepts (.mfs ⟨4, 0x007⟩) = true ∧ quill0.accepts (.mts ⟨4, false, 0x008⟩) = true ∧ specWritable 0x005 = false ∧
    core0.accepts (.mts ⟨4, false, 0x005⟩) = true := by decide +kernel

theorem witness_SpecialRegisterValues : ∀ e ∈ [(0x8000, 0x006), (0x40, 0x006), (0x1000000, 0x008), (1, 0x008), (0x200, 0x030), (0x200, 0x03F)],
    let s := setXs core0 [(4, BitVec.ofNat 64 e.1)]
    s.me.fullX 4 = true ∧ s.me.getX 4 = BitVec.ofNat 64 e.1 ∧ s.curUnit < 192 ∧ s.accepts (.mts ⟨4, false, BitVec.ofNat 12 e.2⟩) = true := by decide +kernel

theorem witness_SpecialRegisterBits : (0x8000 : Word).extractLsb' 15 49 ≠ 0 ∧ (0x40 : Word).extractLsb' 6 2 ≠ 0 ∧ (0x1000000 : Word).extractLsb' 24 8 ≠ 0 ∧
    (1 : Word).extractLsb' 0 4 ≠ 0 ∧ badBankFormat 0x200 = true := by decide

theorem witness_Atomics : let s := setXs core0 [(5, 0x2008), (6, 0x3F800000)]; let o : AmoOps := ⟨4, 5, 6, false, false, 3⟩
    s.me.fullX 5 = true ∧ s.me.fullX 6 = true ∧ s.me.fullX 4 = true ∧ fp32.verdict 0x3F800000 = none ∧ 0x2008 % 8 = 0 ∧
    s.translate ((s.partOfUnit s.curUnit).getD 0) s.curUnit (s.me.getX 5).toNat .atomic = .ok (page 0x2008) ∧
    s.outside s.curUnit s.me.owner (page 0x2008) = false ∧
    (∀ i ∈ [Instr.amoAdd o, .amoAnd o, .amoOr o, .amoXor o, .amoMin o, .amoMax o, .amoMinu o, .amoMaxu o, .amoSwp o, .amoCas o, .amoFadd o,
      .amoFmax o, .amoAddD o, .amoAndD o, .amoOrD o, .amoXorD o, .amoMinD o, .amoMaxD o, .amoMinuD o, .amoMaxuD o, .amoSwpD o, .amoCasD o],
      s.accepts i = true) := by decide +kernel

/-! ### B class -/

/-- A thread in a loop body of two bundles with a count of 2, at its first or second bundle. -/
def looping (pos rem : Nat) : State := me core0 (fun th => { th with loop := some ⟨0xFFC, 0x1000, [], 2, pos, rem, none⟩ })

theorem witness_Branches : core0.me.fullX 30 = true ∧ core0.accepts (.br ⟨4⟩ []) = true ∧ core0.accepts (.br ⟨4⟩ [1]) = true ∧
    core0.accepts (.bc ⟨0, false, 4⟩ []) = true ∧ core0.accepts (.bc ⟨0, true, 4⟩ []) = true ∧ core0.me.getP 0 = true ∧
    core0.accepts (.bcall ⟨4⟩ []) = true ∧ core0.accepts (.ret ⟨30, false⟩) = true := by decide +kernel

theorem witness_Loops : core0.me.loop = none ∧ core0.me.fullX 5 = true ∧ (∀ xs ∈ [[], [1]], core0.accepts (.loop ⟨3, 5, false, xs⟩) = true) ∧
    (∀ xs ∈ [[], [1]], core0.accepts (.loopImm ⟨3, 255⟩ xs) = true) ∧
    (∀ i ∈ [Instr.loop ⟨3, 5, false, []⟩, .loopImm ⟨0, 1⟩ []], (looping 0 2).accepts i = true) ∧
    (looping 0 2).me.loop = some ⟨0xFFC, 0x1000, [], 2, 0, 2, none⟩ ∧ (looping 0 2).me.pc = 0x1000 ∧
    (looping 0 2).accepts .nop = true ∧ (looping 1 2).accepts .nop = true ∧ (looping 1 1).accepts .nop = true := by decide +kernel

theorem witness_ThreadsGiveUpIssue : (∀ i ∈ [Instr.nop, .yield, .sleep ⟨0⟩, .sleep ⟨65535⟩, .trig, .exit], core0.accepts i = true) ∧
    core0.turnThread < 4 ∧ core0.curUnit < 192 ∧ core0.me.owner = .gang 0 ∧ core0.gangOf 0 = some (placedGang 0) ∧ (placedGang 0).trigUsed = false ∧
    (let s := core0.updGang 0 (fun g => { g with trigUsed := true })
     s.accepts .trig = true ∧ (s.gangOf 0).map (fun g => g.trigUsed) = some true) ∧
    quill0.accepts .trig = true ∧ 192 ≤ quill0.curUnit ∧ quill0.curUnit < 224 := by decide +kernel

theorem witness_Traps : let s := me core0 (fun th => { th with tvec := 0x1100 })
    s.accepts (.trap ⟨5⟩) = true ∧ s.turnThread < 4 ∧ s.me.loop = none ∧ s.me.tvec ≠ 0 ∧ s.me.intrap = false ∧
    core0.accepts (.trap ⟨5⟩) = true ∧ core0.me.tvec = 0 ∧ core0.accepts .eret = true ∧ core0.me.intrap = false ∧
    (me s (fun th => { th with intrap := true })).accepts (.trap ⟨255⟩) = true ∧ (me s (fun th => { th with intrap := true })).me.intrap = true ∧
    (me s (fun th => { th with intrap := true })).accepts .eret = true ∧
    (let l : LoopState := ⟨0xFFC, 0x1000, [(0x1000, [0x98A00000]), (0x1004, [0x98A00000])], 2, 0, 2, some 0x1004⟩
     l.susp = some 0x1004 ∧ l.susp ≠ some 0x1000 ∧ l.place 0x1000 = some 0 ∧ l.susp ≠ some 0x2000 ∧ l.place 0x2000 = none) := by decide +kernel

/-! ### C class -/

/-- Copy channel 0 and launch queue 0 enabled for partition 0. -/
def queues : State := { core0 with
  copyQ := [(0, { Queue.reset with en := true, part := 0, ring := 0x4000, widx := 0x3000 })]
  launchQ := [(0, { Queue.reset with en := true, part := 0, ring := 0x8000, widx := 0x3008 })]
  taskQ := [(0, { Queue.reset with en := true, part := 0, ring := 0xC000, widx := 0x3010 })] }

theorem witness_Appends : let s := setXs queues [(5, 0x2000), (6, 0)]
    s.me.fullX 5 = true ∧ s.me.fullX 6 = true ∧ s.me.fullX 4 = true ∧ (s.appendsOf s.curUnit s.turnThread).length < 4 ∧
    (∀ m ∈ [0, 3], s.accepts (.cpy ⟨4, 5, 6, false, false, m⟩) = true) ∧ s.accepts (.cpyx ⟨4, 5, 6, false, false, 0⟩) = true ∧
    (s.copyQueue (16 * engineOf s.curUnit + 0)).en = true ∧ s.accepts (.qpost ⟨4, 5, 6, false, false⟩) = true ∧
    (s.me.getX 6).toNat < 64 ∧ (s.launchQueue 0).en = true ∧ (s.launchQueue 0).part = (s.partOfUnit s.curUnit).getD 0 ∧
    s.accepts (.waitid ⟨6, 15, false⟩) = true ∧ s.acquiresOut s.curUnit s.turnThread = [] ∧
    ({ s with reqs := [{ (core0.issuerOf .nop).request core0 2 0x2000 8 (page 0x2000) (.load 1) with id := 9, acquire := true }] } : State).acquiresOut 0 0 ≠ [] := by
  decide +kernel

theorem witness_CopyWaits : let s := { queues with copyQ := [(0, { Queue.reset with en := true, doneid := 1 })] }
    let d := (s.copyQueue 0).doneid
    (d - 0 - 1).toNat < 2 ^ 31 ∧ 2 ^ 31 ≤ (d - 1 - 1).toNat ∧ 16 * engineOf s.curUnit = 0 := by decide +kernel

/-- Core 0's thread with its gang on cores 0 and 1, and a wait for the well at 0 of core 1 that may have been reported. -/
def waiting (w : Option (Nat × Bool × Bool)) : State := me (setXs core0 [(5, window + 0x200000), (6, 0)]) (fun th => { th with wellWait := w })

theorem witness_Wells : let s := setXs core0 [(5, window), (6, 3), (7, window + 128)]
    s.me.fullX 5 = true ∧ s.me.fullX 6 = true ∧ s.me.fullX 0 = true ∧ s.me.fullX 7 = true ∧ window.toNat % 128 = 0 ∧ s.scratchOf (pad 0) = some (0, 0) ∧
    s.mayName s.curUnit s.me.owner 0 = true ∧ isQuill s.curUnit = false ∧ (s.me.getX 6).toNat ≤ 768 ∧ (s.me.getX 7).toNat % 16 = 0 ∧ s.me.getX 0 = 0 ∧
    s.me.getX 8 = 0 ∧ s.me.fullX 8 = true ∧ s.accepts (.winit ⟨8, 5, 6, false, false, 2⟩) = true ∧ s.me.getX 7 ≠ 0 ∧
    (∀ k ∈ [Access.write, .read], s.translate ((s.partOfUnit s.curUnit).getD 0) s.curUnit (s.me.getX 5).toNat k = .ok (pad 0)) ∧
    (∀ j < 6, s.translate ((s.partOfUnit s.curUnit).getD 0) s.curUnit ((s.me.getX 7).toNat + 16 * j) .read = .ok (pad (128 + 16 * j)) ∧
      (s.scratchOf (pad (128 + 16 * j))).isSome = true) ∧ s.wellPending s.curUnit s.turnThread (pad 0).pa = false ∧
    (∀ e ∈ [some (scratchPa 1 0, false, true), none], let w := waiting e
      w.accepts (.wwait ⟨5, 6, false, false, 2⟩) = true ∧ w.me.wellWait = e ∧ w.scratchOf ⟨scratchPa 1 0, 0, 0⟩ = some (1, 0) ∧
      w.translate ((w.partOfUnit w.curUnit).getD 0) w.curUnit (w.me.getX 5).toNat .read = .ok ⟨scratchPa 1 0, 0, 0⟩ ∧ localOf (scratchPa 1 0) = scratchPa 1 0 ∧
      w.wellPending w.curUnit w.turnThread (scratchPa 1 0) = false ∧ (w.me.getX 6).getLsbD 0 = false) ∧
    s.accepts (.winit ⟨0, 5, 6, false, false, 2⟩) = true ∧ s.accepts (.winit ⟨7, 5, 6, false, false, 2⟩) = true ∧
    s.accepts (.warr ⟨5, 6, false, false, 2⟩) = true ∧ s.accepts (.wdrop ⟨5, false, 2⟩) = true ∧ s.accepts (.wwait ⟨5, 6, false, false, 2⟩) = true ∧
    s.accepts (.wtest ⟨0, 5, false, 2⟩) = true ∧ s.wellPhase (localOf (pad 0).pa) ≠ (s.me.getX 6).getLsbD 0 ∧
    (setXs s [(6, 2)]).wellPhase (localOf (pad 0).pa) = ((setXs s [(6, 2)]).me.getX 6).getLsbD 0 ∧
    (setXs quill0 [(5, window)]).accepts (.wwait ⟨5, 6, false, false, 2⟩) = true ∧ (quill0.ownerGang quill0.me.owner).isSome = true := by decide +kernel

theorem witness_BulkRuns : let s := setXs core0 [(5, 0x2000)]
    let b := { s with channels := [(0, { Channel.reset with cal := ⟨.default, [(0, calEntryOf kindBULK 7)]⟩ })] }
    let h := { s with channels := [(0, { Channel.reset with runs := [(7, some ⟨0, 0, 2, 64, none, 0, none⟩)] })] }
    s.me.fullX 5 = true ∧ s.translate ((s.partOfUnit s.curUnit).getD 0) s.curUnit 0x2000 .read = .ok (page 0x2000) ∧ s.isLocal (page 0x2000) = true ∧
    s.ownHbm 0 0x2000 1 = true ∧ channelOf 0x2000 = 0 ∧ b.accepts (.bopen ⟨5, 7, false⟩) = true ∧ b.hasRun 0 7 = true ∧
    h.accepts (.bclose ⟨5, 7, false⟩) = true ∧ (h.channel 0).holds h.curUnit h.turnThread 7 = true ∧
    b.translate ((b.partOfUnit b.curUnit).getD 0) b.curUnit 0x2000 .read = .ok (page 0x2000) ∧
    h.translate ((h.partOfUnit h.curUnit).getD 0) h.curUnit 0x2000 .read = .ok (page 0x2000) := by decide +kernel

/-! ### E class -/

theorem witness_Streams : let s := setXs core0 [(5, 0x2000), (6, 0x2040)]
    s.me.fullX 5 = true ∧ s.me.fullX 6 = true ∧ s.accepts (.elw ⟨5, false, 1, 2, true⟩) = true ∧ s.accepts (.eln ⟨5, false, 0, false⟩) = true ∧
    s.accepts (.ewe ⟨5, false, 1, true⟩) = true ∧ s.accepts (.ews ⟨5, false, 6, false, 1, false, true⟩) = true ∧
    s.accepts (.ews ⟨5, false, 0, false, 0, false, false⟩) = true ∧
    (∀ e ∈ [EdgeId.west, .north, .east, .south], (s.chainGrid s.curUnit).takesPart (s.chainPos s.curUnit) e = true ∧
      ((s.core s.curUnit).edge e).held.length < 2) := by decide +kernel

/-- A stream of core 0's thread whose header stands at an address. -/
def stream (va : Nat) : Stream :=
  ⟨0, ⟨0, 0, .gang 0, 0x1000, 5, 0⟩, [], false, 0, false, false, StreamEnd.unread va, StreamEnd.unread 0, false, 0, 0, 0, 0, 0, [], false, false, 0⟩

theorem witness_Drains : let w := arr core0 (fun k => { k with wave := [⟨0, .accz ⟨0, 0⟩, ⟨0, 0, .gang 0, 0x1000, 6, 0⟩, 0, 0, 0xFFFFFFFFFFFF, 0, [], [], [], [],
      0, ⟨0, 0, [], []⟩, [], false⟩] })
    let e := arr core0 (fun k => { k with east := { k.east with streams := [stream 0x2000] } })
    (∀ m ∈ [0, 15], core0.accepts (.edrain ⟨m⟩) = true) ∧ w.accepts (.edrain ⟨1⟩) = true ∧ (w.core (w.waveCore w.curUnit)).drained = false ∧
    (core0.core (core0.waveCore core0.curUnit)).drained = true ∧ (core0.core 0).east.streams = [] ∧ (core0.core 0).south.streams = [] ∧
    e.accepts (.edrain ⟨4⟩) = true ∧ (e.core (e.waveCore e.curUnit)).drained = true ∧ (e.core 0).east.streams ≠ [] := by decide +kernel

/-! ### W class -/

/-- The nib of core 0 with eight instructions. -/
def fullNib : State := arr core0 (fun k => { k with
  nib := (List.range 8).map (fun n => ⟨n, .accz ⟨0, 1⟩, ⟨0, 0, .gang 0, 0x1000, 6, 0⟩, 0, 0, 0, 0⟩) })

/-- A core of rank 1 in a chain of two, which does not lead it. -/
def follower : State := { arr core0 (fun k => { k with rank := 1 }) with gangs := core0.gangs.map (fun g => { g with cores := [1, 0], wa := 2 }) }

theorem witness_WaveInstructions : let i : Instr := .mac ⟨0, 30, 31, 1, false, false⟩ []
    plainWave i = true ∧ core0.accepts i = true ∧ core0.nibOpen = true ∧ core0.leadsChain core0.curUnit = true ∧ fullNib.accepts i = true ∧
    fullNib.leadsChain fullNib.curUnit = true ∧ fullNib.nibOpen = false ∧ follower.accepts i = true ∧ follower.leadsChain follower.curUnit = false ∧
    plainWave (.accz ⟨3, 7⟩) = true ∧ core0.accepts (.accz ⟨3, 7⟩) = true := by decide +kernel

theorem witness_WaveOperands : let s := setXs core0 [(5, 0xFFFF), (6, 0x3F800000)]
    s.accepts (.accrd ⟨4, 0, 6, 1, false⟩ []) = true ∧ s.nibOpen = true ∧ s.me.fullX 6 = true ∧ s.me.fullX 5 = true ∧ s.me.fullX 0 = true ∧
    s.accepts (.vbeg ⟨0, 5, 0, 1, 0⟩ []) = true ∧ s.accepts (.vbeg ⟨0, 5, 6, 1, 2⟩ []) = true ∧
    0 < (s.me.getX 5).toNat ∧ (s.me.getX 5).toNat < 2 ^ 16 ∧ s.accepts (.vthr ⟨6, 1⟩) = true := by decide +kernel

theorem witness_LibraryStrokes : let a : Tile1 := ⟨0⟩; let b : Tile2 := ⟨0, 2⟩; let c : TileTri := ⟨0, 1, 0⟩
    let t := arr core0 (fun k => { k with stroke := some ⟨.lup ⟨0⟩, ⟨0, 0, .gang 0, 0x1000, 6, 0⟩, 0xB4000000, 0, 0, 0, 0, false, false, false, none⟩ })
    core0.leadsChain core0.curUnit = true ∧ (core0.core core0.curUnit).stroke = none ∧ t.leadsChain t.curUnit = true ∧ (t.core t.curUnit).stroke ≠ none ∧
    (core0.core core0.curUnit).nib.length < 8 ∧ 8 ≤ (fullNib.core fullNib.curUnit).nib.length ∧ fullNib.leadsChain fullNib.curUnit = true ∧
    (∀ i ∈ [Instr.lup a, .chol a, .qrh b, .trsm c], core0.accepts i = true ∧ t.accepts i = true ∧ fullNib.accepts i = true) := by decide +kernel

theorem witness_PivotStores : let s := setXs core0 [(12, 0x2000)]
    s.accepts (.pvst ⟨12⟩) = true ∧ s.leadsChain s.curUnit = true ∧ (s.core s.curUnit).stroke = none ∧ (s.core s.curUnit).progDue = none ∧ s.me.fullX 12 = true ∧ 0x2000 % 8 = 0 ∧
    (let e := arr s (fun k => { k with prog := 64, progDue := some 200 })
     e.accepts (.pvst ⟨12⟩) = true ∧ (e.core e.curUnit).progDue ≠ none ∧ (e.core e.curUnit).prog = 64) ∧
    (∀ j < 8, s.translate ((s.partOfUnit s.curUnit).getD 0) s.curUnit (0x2000 + 8 * j) .write = .ok (page (0x2000 + 8 * j))) := by decide +kernel

theorem witness_Selectors : let s := setXs core0 [(5, 0xFF), (6, 0x0F)]
    (∀ m ∈ [2, 3], s.accepts (.selx ⟨1, 5, 6, m⟩) = true) ∧ (∀ m ∈ [0, 1], s.accepts (.seli ⟨1, 0, 0, m⟩ []) = true) ∧ s.accepts (.seli ⟨1, 31, 31, 1⟩ []) = true ∧ s.accepts (.seli ⟨1, 3, 3, 2⟩ [7]) = true ∧
    s.accepts (.seli ⟨1, 3, 3, 2⟩ [7, 7]) = true ∧ s.leadsChain s.curUnit = true ∧ (s.core s.curUnit).stroke = none ∧
    s.nibNames s.curUnit s.turnThread 1 = false ∧ (∀ m ∈ [1, 3], s.accepts (.selx ⟨1, 5, 0, m⟩) = true) ∧ s.accepts (.selx ⟨1, 5, 6, 1⟩) = true ∧
    s.me.fullX 5 = true ∧ s.me.fullX 6 = true ∧ s.me.fullX 0 = true := by decide +kernel

theorem witness_WaveFlags : let v := arr core0 (fun k => { k with lastWid := some 3, validAgg := some (3, ⟨0, 0, [], []⟩) })
    let n := arr core0 (fun k => { k with lastWid := some 3 })
    v.accepts (.wflg ⟨4, 3, 3⟩) = true ∧ v.leadsChain v.curUnit = true ∧ (v.core v.curUnit).stroke = none ∧ v.me.fullX 4 = true ∧
    (v.core v.curUnit).lastWid = some 3 ∧ (v.core v.curUnit).validAgg = some (3, ⟨0, 0, [], []⟩) ∧ n.accepts (.wflg ⟨4, 0, 0⟩) = true ∧
    (n.core n.curUnit).lastWid = some 3 ∧ (n.core n.curUnit).validAgg = none ∧ (core0.core core0.curUnit).lastWid = none ∧ core0.accepts (.wflg ⟨4, 1, 0⟩) = true ∧
    core0.accepts .wdrain = true ∧ (core0.core 0).nib = [] ∧ (core0.core 0).stroke = none ∧ (core0.core 0).progDue = none ∧ (core0.core 0).wave = [] ∧ fullNib.accepts .wdrain = true ∧ (fullNib.core 0).nib ≠ [] := by decide +kernel

/-! ### Cells -/

/-- A cell at row 0, column 0 whose neighbours' registers are 0. -/
def env : CellEnv := ⟨0, 0, 0, 0, 0, 0, 0, 0, 0, 0, 0, 0, 0, 0, 0, 0⟩

theorem witness_CellFloatLanes : let c := Cell.reset 0; let b := { c with f := c.f.setIfInBounds 1 (BitVec.ofNat 256 0x7F810000) }
    anyVerdict fp32 (c.operand env 0 0) = false ∧ anyVerdict fp32 (c.operand env 0 15) = false ∧ (XFields.of []).rnd = 0 ∧ (15 : BitVec 5).toNat < 16 ∧
    anyVerdict fp32 (b.operand env 0 1) = true := by decide +kernel

theorem witness_CellIntegerLanes : fmtWidth fmtINT32 ∈ [8, 16, 32] ∧ fmtWidth fmtINT8 ∈ [8, 16, 32] ∧ (15 : BitVec 5).toNat < 16 := by decide +kernel

/-! ### V class -/

/-- Quill thread with the low four lanes of v0 1.0, and m1 the low four lanes. -/
def lanes0 : State := me quill0 (fun th => (th.setV 0 ((0x3F8000003F8000003F8000003F800000 : BitVec 128).setWidth 1024)).setM 1 15)

theorem witness_LaneArithmetic : let s := lanes0
    s.me.fullV 0 = true ∧ s.me.fullV 3 = true ∧ (∀ l < 32, (s.me.getM 1).getLsbD l = true →
      fp32.verdict (laneCode fmtFP32 (lane (s.me.getV 0) l)) = none ∧ fp32.verdict (laneCode fmtFP32 (lane (s.me.getV 3) l)) = none) ∧
    (∀ xs ∈ [[], [0xA00000]], ∀ i ∈ [Instr.vadd ⟨3, 0, 0, 1, 0⟩ xs, .vsub ⟨3, 0, 0, 1, 0⟩ xs, .vmul ⟨3, 0, 0, 1, 0⟩ xs, .vfma ⟨3, 0, 0, 1, 0⟩ xs,
      .vmin ⟨3, 0, 0, 1, 0⟩ xs, .vmax ⟨3, 0, 0, 1, 0⟩ xs], s.accepts i = true) ∧
    s.accepts (.vadd ⟨3, 0, 0, 0, 1⟩ [0xA00000]) = true ∧ floatFmt fmtINT32 = none := by decide +kernel

theorem witness_LaneCompares : let s := lanes0
    s.me.fullV 0 = true ∧ s.me.fullV 3 = true ∧ (∀ m ∈ [0, 3], s.accepts (.vcmp ⟨2, 0, 0, 1, m⟩ []) = true) ∧ s.accepts (.vcmp ⟨0, 0, 0, 1, 3⟩ [0xA00000]) = true ∧
    s.accepts (.vcvt ⟨3, 0, 1⟩ [0x190000]) = true ∧ verdictMisuse 1 9 (laneCode 1 (lane (s.me.getV 0) 0)) = false ∧
    (∀ l < 32, (s.me.getM 1).getLsbD l = true → verdictMisuse 1 9 (laneCode 1 (lane (s.me.getV 0) l)) = false) := by decide +kernel

theorem witness_LaneReductions : let s := lanes0
    s.me.fullV 0 = true ∧ s.me.fullV 1 = true ∧ s.me.fullV 3 = true ∧ (∀ m ∈ [0, 2], s.accepts (.vred ⟨3, 0, 0, 1, m⟩ []) = true) ∧
    (∀ m ∈ [0, 3], s.accepts (.vpool ⟨3, 0, 1, 1, m⟩ []) = true) ∧
    (∀ l < 32, fp32.verdict (laneCode fmtFP32 (lane (s.me.getV 3) l)) = none ∧ fp32.verdict (laneCode fmtFP32 (lane (s.me.getV 0) l)) = none) := by decide +kernel

theorem witness_LaneMoves : let s := lanes0
    s.me.fullV 0 = true ∧ s.me.fullV 1 = true ∧ s.me.fullV 3 = true ∧ s.me.fullV 4 = true ∧ s.me.fullX 5 = true ∧ s.me.fullX 6 = true ∧
    s.accepts (.vsel ⟨3, 0, 1, 1⟩ []) = true ∧ s.accepts (.viota ⟨3, 5, 6, 0⟩ []) = true ∧ s.accepts (.vmov ⟨3, 0, 0, 1, 0⟩ []) = true ∧
    s.accepts (.vmov ⟨3, 5, 0, 1, 1⟩ []) = true ∧ s.accepts (.vmov ⟨6, 0, 5, 0, 2⟩ []) = true ∧ s.accepts (.vmov ⟨2, 5, 0, 0, 3⟩ [0]) = true ∧
    s.accepts (.vmov ⟨6, 2, 0, 0, 3⟩ [1]) = true ∧ (XFields.of [0]).spec = 0 ∧ (XFields.of [1]).spec ≠ 0 ∧
    s.accepts (.vdedup ⟨3, 0, 2, 1⟩ []) = true := by decide +kernel

theorem witness_LaneAccesses : let s := setXs lanes0 [(5, 0x2000), (6, 8)]
    let i := me s (fun th => th.setV 1 ((0x000000080000000400000000 : BitVec 96).setWidth 1024))
    let tr := fun (va : Nat) (k : Access) => s.translate ((s.partOfUnit s.curUnit).getD 0) s.curUnit va k = .ok (page va)
    s.me.fullX 5 = true ∧ s.me.fullX 6 = true ∧ s.me.fullV 3 = true ∧ s.me.fullV 1 = true ∧
    (List.range 32).filter (fun l => (s.me.getM 1).getLsbD l) = [0, 1, 2, 3] ∧ laneBytes fmtFP32 = 4 ∧
    (∀ l < 4, ∀ k ∈ [Access.read, .write], tr (0x2000 + 4 * l) k ∧ tr (0x2000 + 8 * l) k ∧ (0x2000 + 8 * l) % 4 = 0 ∧ s.outside s.curUnit s.me.owner (page (0x2000 + 4 * l)) = false) ∧
    (∀ e ∈ [((0 : BitVec 5), (0 : BitVec 2)), (6, 1)], s.accepts (.vld ⟨3, 5, e.1, 1, e.2⟩ []) = true ∧ s.accepts (.vst ⟨3, 5, e.1, 1, e.2⟩ []) = true) ∧
    (∀ m ∈ [0, 1], i.accepts (.vgth ⟨3, 5, 1, 1, m⟩ []) = true) ∧ i.accepts (.vsct ⟨3, 5, 1, 1⟩ []) = true ∧
    (List.range 4).map (fun l => (i.me.getX 5 + ((lane (i.me.getV 1) l).signExtend 64)).toNat) = [0x2000, 0x2004, 0x2008, 0x2000] := by decide +kernel

theorem witness_TileStores : let s := setXs lanes0 [(5, window)]
    s.me.fullX 5 = true ∧ (∀ k < 2, s.me.fullV (3 + k) = true) ∧ s.accepts (.tstr ⟨3, 5, 1, 1⟩ []) = true ∧ (s.ownerGang s.me.owner).isSome = true ∧
    s.translate ((s.partOfUnit s.curUnit).getD 0) s.curUnit window.toNat .write = .ok (pad 0) ∧ window.toNat % 16 = 0 ∧ s.scratchOf (pad 0) = some (0, 0) ∧
    s.mayName s.curUnit s.me.owner 0 = true ∧ ((s.core 0).bfmt.getD 0 0).extractLsb' 0 4 = 0 ∧ isMx fmtFP32 = false ∧ fmtFP32 ≠ fmtNM ∧
    (2 * (32 * laneBytes fmtFP32) + 15) / 16 = 16 ∧ ∀ j < 16, (0 + 16 * j) / 2 ^ 17 = 0 / 2 ^ 17 ∧ s.scratchOf (pad (16 * j)) = some (0, 0 + 16 * j) ∧
      s.translate ((s.partOfUnit s.curUnit).getD 0) s.curUnit (window.toNat + 16 * j) .write = .ok (pad (16 * j)) := by
  decide +kernel

theorem witness_HashedGrids : let s := setXs quill0 [(5, 0x2000)]
    s.me.fullX 5 = true ∧ (∀ k < 8, 0 + k < 32 → s.me.fullV (0 + k) = true) ∧ (∀ k < 8, 28 + k < 32 → s.me.fullV (28 + k) = true) ∧
    s.accepts (.hgld ⟨28, 0, 5, 0⟩) = true ∧ s.accepts (.hgsc ⟨28, 0, 5, 0⟩) = true := by decide +kernel

/-! ### Device steps: what comes from outside -/

def put (s : State) (a : Nat) (bs : List Byte) : State := { s with mem := memWrite s.mem a bs }

/-- A launch packet without options at the head of queue 0, with its code at 0x1000, and its line as the scheduler has read it. -/
def pkt : List Byte := [0, 1, 0, 0, 0, 0, 0, 0, 0, 0x10] ++ List.replicate 54 0
def posted : State := { put (put queues 0x8001 [1]) 0x8009 [0x10] with inbox := [⟨258, 1, 0x8000, 0, 0, pkt, false⟩, ⟨258, 0, 0x1000, 0, 0, List.replicate 128 0, false⟩] }
def launch : Launch := { posted.newLaunch 0 (posted.launchQueue 0) pkt with state := .eligible }
def launched : State := { queues with launches := [launch], nextId := launch.id + 1 }

theorem witness_HostRegisters : let v : BitVec 128 := BitVec.ofNat 128 (0xC0000 * 2 ^ 72 + 0x3000 * 2 ^ 8 + 2 ^ 7 + 8)
    let w : BitVec 128 := BitVec.ofNat 128 (0xC0000 * 2 ^ 72 + 0x3000 * 2 ^ 8 + 2 ^ 7)
    badDescriptor .launch v.toNat = false ∧ badDescriptor .copy w.toNat = false ∧ badDescriptor .task w.toNat = false ∧ (core0.part 0).present = true ∧
    core0.translate 0 258 0x3000 .read = .ok (page 0x3000) ∧ core0.isLocal (page 0x3000) = true ∧ locate (localOf (page 0x3000).pa) = .hbm 0 0x3000 ∧
    core0.translate 0 258 window.toNat .read = .ok (pad 0) ∧ locate (localOf (pad 0).pa) = .scratch 0 0 ∧
    badDescriptor .launch (0xC0000 * 2 ^ 72 + window.toNat * 2 ^ 8 + 2 ^ 7 + 8) = false ∧ core0.reqs = [] ∧ core0.inbox = [] ∧ (queues.launchQueue 0).rising = false ∧
    core0.queueHolds .launch 63 = false ∧ core0.queueHolds .copy 31 = false ∧ core0.queueHolds .task 3 = false ∧ launched.queueHolds .launch 0 = true ∧
    core0.partOfBlock (31 / 32) = some 0 ∧ core0.partOfBlock (3 / 4) = some 0 ∧ (core0.launchQueue 63).en = false ∧ v.getLsbD 7 = true ∧
    (queues.launchQueue 0).en = true ∧ queues.queueHolds .launch 0 = false ∧ (0x000F : BitVec 16).extractLsb' 4 12 = 0 := by decide +kernel

/-- The host's only request, which has been answered. -/
def hostReq (op : MemOp) (r : Reply) : Req := { lineReq core0 hostIssue 0 0x2000 8 (page 0x2000) op with id := 9, status := .served 30 r }
def hostAsks (k : HostKind) (op : MemOp) (r : Reply) : State := { core0 with host := [⟨k, [], [(9, 0)], [], false, false⟩], reqs := [hostReq op r] }

theorem witness_HostAccesses : (∀ g ∈ [pad 0, page 0x2000], let base := if g = pad 0 then window.toNat else 0x2000
      let s := core0.updPart 0 (fun k => { k with hwbase := base })
      s.host = [] ∧ s.reqs = [] ∧ s.window (BitVec.ofNat 39 0).toNat = some (0, base) ∧ s.isLocal g = true ∧ base % 128 + 128 ≤ 128 ∧
      (∀ k ∈ [Access.read, .write, .atomic], s.translate 0 256 base k = .ok g)) ∧
    (∀ e ∈ [(HostKind.read, MemOp.fetch, Reply.data [1, 2]), (.write false, .store [1, 2] false, .ack (some 1) 0), (.atomic, .amo .swp 1 0 0, .old 5 (some 1) 0)],
      let s := hostAsks e.1 e.2.1 e.2.2
      s.host = [⟨e.1, [], [(9, 0)], [], false, false⟩] ∧ s.reqs = [hostReq e.2.1 e.2.2] ∧ (hostReq e.2.1 e.2.2).by_.unit = 256 ∧
      (hostReq e.2.1 e.2.2).reply = none ∧ (hostReq e.2.1 e.2.2).dropped = false ∧ (hostReq e.2.1 e.2.2).id = 9) := by decide +kernel

/-! ### Device steps: launches -/

theorem witness_LaunchPosted : (posted.launchQueue 0).en = true ∧ posted.launches = [] ∧
    (match posted.ringPacket .launch 0 with
      | .packet s0 b => decide (b = pkt) && (s0.launchInvalid (s0.newLaunch 0 (posted.launchQueue 0) b)).isNone &&
          (s0.translate 0 258 (fieldAt b 56 8) .write).toOption == some (page 0) &&
          (match s0.readVa (schedIssue 0) 0 (fieldAt b 8 8 / 128 * 128) 128 with | .wait _ => false | _ => true)
      | _ => false) = true ∧
    (∀ f ∈ [24, 32, 40, 48, 56], fieldAt pkt f 8 = 0) ∧ posted.depMet launch = true := by decide +kernel

theorem witness_DependencyWrite : let l := { launch with state := .waiting }; let s := { queues with launches := [l] }
    s.headLaunch 0 = some l ∧ s.launchOf l.id = some l ∧ l.dep0 = true ∧ l.dep1 = true ∧ s.depMet l = true := by decide +kernel

theorem witness_Dispatch : (∀ c ∈ [none, some 0], let s := launched.updPart 0 (fun k => { k with lastDispatch := c })
      let b := (match (s.part 0).lastDispatch with | some c => s.ccTo (c + 8) | none => s).settleCycle 0
      s.undigested 0 = [] ∧ b.dispatchable 0 = [(launch, [1])] ∧ ((b.movePointers 0 (b.dispatchable 0)).replayDiffers launch) = none) ∧
    launch.part = 0 ∧ launch.tpc < 4 ∧ [1].Nodup := by decide +kernel

theorem witness_Trigger : let s := me core0 (fun th => { th with trig := some [7] })
    s.me.trig = some [7] ∧ s.me.owner = .gang 0 ∧ s.finished [7] = true ∧ s.launchFailed (s.ownerLaunch (.gang 0)) = false ∧
    s.gangOf 0 = some (placedGang 0) ∧ (placedGang 0).trig = false := by decide +kernel

theorem witness_ThreadEnd : let s := { me core0 (fun th => { th with status := .exiting }) with gangs := [{ placedGang 0 with tpc := 0 }] }
    let s' := { s with gangs := [{ placedGang 0 with tpc := 1 }] }
    s.me.status = .exiting ∧ s.me.owner = .gang 0 ∧ s.me.trig = none ∧ s.writesOut 0 0 = [] ∧ s.reqs = [] ∧ (s.gangOf 0).isSome = true ∧
    (placedGang 0).wells = [] ∧ (placedGang 0).ending = false ∧ s.launchFailed (some 0) = false ∧ 0 ∈ (placedGang 0).cores ∧
    (∀ n ∈ [0], ∀ i ≤ 0, ¬ (n = 0 ∧ i = 0) → (s.thread n i).status = .ended) ∧ (s'.thread 0 1).status ≠ .ended := by decide +kernel

theorem witness_CompletionRecord : let l := { launch with state := .draining, doneAt := some (pad 64) }; let s := { queues with launches := [l], gangs := [] }
    s.launchOf l.id = some l ∧ l.state ≠ .done ∧ l.state = .draining ∧ s.launchBusy l.id = false ∧ s.faults = [] ∧ l.cause = none ∧ s.reqs = [] ∧
    moduleOf (pad 64).pa = s.modreg.toNat % 1024 ∧ (pad 64).pa % 64 = 0 ∧
    (let f := { l with state := .running, cause := some (0x10, 0), doneAt := none }; let e : State := { queues with launches := [f], gangs := [] }
     e.launchOf f.id = some f ∧ f.state ≠ .done ∧ f.cause ≠ none ∧ e.launchBusy f.id = false ∧ e.issuing (faultIssue f.part) = false) ∧
    (let d := { l with state := .done }; let e : State := { queues with launches := [d], gangs := [] }
     e.launchOf d.id = some d ∧ d.state = .done ∧ e.issuing (recordIssue d.part d.id) = false ∧ e.copybooks = []) := by
  decide +kernel

theorem witness_SleepExpiry : ((me core0 (fun th => { th with sleeping := true, waitUntil := 100 })).thread 0 0).sleeping = true := by decide +kernel

/-! ### Device steps: appends, copies, tasks, wells -/

/-- An append of a copy to channel 0. -/
def append (stage : Nat) (k : AppendKind) (img : List Byte) : Append where
  num := 0
  by_ := ⟨0, 0, .gang 0, 0x1000, 4, 0⟩
  part := 0
  kind := k
  a := 0x2000
  b := 0
  dst := 4
  after := []
  stage := stage
  wi := 0
  slotVa := 0x4000
  img := img
  launch := none

/-- The state with one append and an answer for its agent. -/
def appending (stage : Nat) (k : AppendKind) (m : List Inbox) : State := { queues with appends := [append stage k (List.replicate 64 0)], inbox := m }

theorem witness_AppendImage : let a := append 0 (.cpy 0) (List.replicate 64 0); let s := appending 0 (.cpy 0) [⟨0, 4, 0x2000, 0, 0, List.replicate 64 0, false⟩]
    s.agentFault a = none ∧ s.imageBusy a = false ∧ a.a.toNat % 64 = 0 ∧
    (match s.readVa a.issue a.part a.a.toNat 64 with
      | .ok s1 bs p => !p && decide (s1.appends = [a]) && (imageFault (s1.clearInbox a.issue) { a with img := a.packet bs }).isNone
      | _ => false) = true ∧
    (appending 0 (.cpyx 0) []).agentFault (append 0 (.cpyx 0) (List.replicate 64 0)) = none := by decide +kernel

theorem witness_AppendClaim : let a := append 1 (.cpyx 0) (List.replicate 64 0); let s := appending 1 (.cpyx 0) []
    let m : Inbox := ⟨0, 4, 0x3000, 0, 0, [0, 0, 0, 0], false⟩; let t := appending 1 (.cpyx 0) [m]
    s.translate a.part a.by_.unit (a.queue s).widx.toNat .atomic = .ok (page 0x3000) ∧ s.answered a.issue (page 0x3000) = none ∧ s.reqs = [] ∧ s.issuing a.issue = false ∧
    t.answered a.issue (page 0x3000) = some m ∧ m.cause = 0 ∧ t.agentFault a = none ∧
    t.translate a.part a.by_.unit (a.queue t).widx.toNat .atomic = .ok (page 0x3000) := by decide +kernel

theorem witness_Append : let a := append 2 (.cpyx 0) (List.replicate 64 0); let s := appending 2 (.cpyx 0) []
    let b := append 3 (.cpyx 0) (List.replicate 64 0); let t := appending 3 (.cpyx 0) []; let e := appending 4 (.cpyx 0) []
    (a.wi - (a.queue s).ridx).toNat < a.ringSize ∧ s.agentFault a = none ∧
    ((s.writeVa a.issue a.part (a.slotVa + 4) (bytesAt a.img 4 60)).toOption.map (fun x => x.appends)) = some [a] ∧
    t.finished b.after = true ∧ t.issuing b.issue = false ∧ t.agentFault b = none ∧
    ((t.writeVa b.issue b.part b.slotVa (leBytes 4 (b.wi.toNat / b.ringSize % 65536 * 65536 + b.typeCode * 256))).toOption.map (fun x => x.appends)) = some [b] ∧
    e.issuing b.issue = false ∧ e.agentFault (append 4 (.cpyx 0) (List.replicate 64 0)) = none := by decide +kernel

/-- A copy packet at the head of channel 0, whose line has been read. -/
def copyPosted : State := { put queues 0x4001 [2] with inbox := [⟨258, 257, 0x4000, 0, 0, [0, 2] ++ List.replicate 62 0, false⟩] }

theorem witness_CopyStart : (copyPosted.copyQueue 0).en = true ∧ copyPosted.copiesOn 0 = [] ∧
    (match copyPosted.ringPacket .copy 0 with
      | .packet _ b => decide (b = [0, 2] ++ List.replicate 62 0)
      | _ => false) = true ∧
    (copyPosted.copyQueue 0).originAt 0 = none ∧ copyPosted.copies = [] ∧ copyPosted.engineDown 0 = false := by decide +kernel

/-- A byte copy from the page to core 0's scratchpad on channel 0, of one row of 64 elements; as a bulk copy of core 0's thread it names run 0. -/
def copying (bulk asked : Bool) (asks : List (Nat × Nat)) : Copy where
  id := 0
  chan := 0
  tid := 0
  part := 0
  origin := if bulk then some ⟨⟨0, 0, .gang 0, 0x1000, 4, 0⟩, none, 1, some 0⟩ else none
  pkt := [0, 2, 0, 0, 0, if bulk then 0x80 else 0, 0, 0] ++ leBytes 8 0x2000 ++ leBytes 8 window.toNat ++ leBytes 4 1 ++ leBytes 4 64 ++ List.replicate 32 0
  ready := true
  sh := none
  dh := none
  stat := none
  well := none
  core := some 0
  row := 0
  off := 0
  asks := asks
  asked := asked
  landings := []
  held := []
  progress := 0
  flags := 0
  ecode := 0
  parked := false
  go := false
  stopped := false
  finished := false
  reported := false

/-- The copy on its channel, with an answer for its engine; run 0 is open for core 0's thread. -/
def moving (c : Copy) (m : List Inbox) : State :=
  { queues with copies := [c], inbox := m, channels := [(0, { Channel.reset with runs := [(0, some ⟨0, 0, 0, 64, none, 0, none⟩)] })] }

theorem witness_CopyUnit : (∀ bulk ∈ [false, true], let c := copying bulk false []; let s := moving c []
      let pl := c.plan (s.copyTensors c).1 (s.copyTensors c).2
      c.chan < 256 ∧ c.ready = true ∧ c.stopped = false ∧ c.finished = false ∧ c.trans = false ∧ c.bulk = bulk ∧ s.launchFailed c.launch = false ∧ s.engineDown c.chan = false ∧
      s.copyRuns c = true ∧ { c with parked := false, go := false } = c ∧ s.updCopy 0 (fun _ => c) = s ∧
      s.firstFault c.part c.unit .read pl.reads = none ∧ s.firstFault c.part c.unit .write pl.writes = none ∧
      (bulk = true → (match s.bulkLines c (s.bulkSide c pl.reads pl.writes) with | .ok _ => true | _ => false) = true)) := by decide +kernel

theorem witness_CopyLines : let c := copying false true [(0x2000, 64)]; let s := moving c []
    let d := copying false true []; let t := moving d [⟨224, 0, 0x2000, 0, 0, List.replicate 64 7, false⟩]; let pl := d.plan (t.copyTensors d).1 (t.copyTensors d).2
    c.asks = (0x2000, 64) :: [] ∧ s.issuedNow c.unit false < 16 ∧ s.translate c.part c.unit 0x2000 .read = .ok (page 0x2000) ∧ s.copyRuns c = true ∧
    d.bmap ≠ 2 ∧ t.copyRuns d = true ∧ (match t.readPieces d.issue d.part (pl.reads.flatMap (fun r => pieces r.1 r.2)) with | .ok _ _ _ => true | _ => false) = true := by
  decide +kernel

theorem witness_CopyLanding : let l : Landing := ⟨window.toNat, scratchPa 0 0, List.replicate 16 1, [], false, 16, 0, 0⟩
    let h : Landing := ⟨0x2000, 0x2000, List.replicate 64 1, [], false, 0, 0, 0⟩
    let c := { copying false false [] with landings := [l] }; let f := { c with finished := true }; let g := { c with landings := [h] }
    locate (localOf l.pa) = .scratch 0 0 ∧ (moving c []).completes c l [] = [] ∧ (moving f []).completes f l [] = granulesOf 0 16 ∧ l.bytes.length = 16 ∧
    f.held = [] ∧ l.bytes ≠ [] ∧ l.pa % 128 = 0 ∧ l.scales = [] ∧ (moving g []).issuedNow g.unit true < 16 ∧ g.stopped = false ∧ (moving g []).engineDown g.chan = false ∧ (moving g []).reqs = [] ∧
    locate (localOf h.pa) = .hbm 0 0x2000 := by decide +kernel

theorem witness_CopyComplete : let c := { copying false false [] with finished := true, stat := some (pad 64) }
    let d := { copying false false [] with stopped := true, parked := true }
    c.chan < 256 ∧ c.finished = true ∧ c.parked = false ∧ c.landings = [] ∧ (moving c []).copyOut c = false ∧ c.reported = false ∧
    d.stopped = true ∧ d.stat = none ∧ (moving d []).copyOut d = false := by decide +kernel

/-- A task packet for two threads at the head of quill core 0's queue, whose line has been read. -/
def taskPkt : List Byte := [0, 3, 0, 0, 1, 0, 0, 0, 0, 0x10] ++ List.replicate 54 0
def taskPosted : State := { put (put (put queues 0xC001 [3]) 0xC004 [1]) 0xC009 [0x10] with inbox := [⟨258, 513, 0xC000, 0, 0, taskPkt, false⟩] }

theorem witness_TaskStart : (taskPosted.taskQueue 0).en = true ∧ (taskPosted.seq 192).retired = false ∧ (taskPosted.island (islandOfUnit 192)).stopped = false ∧
    (match taskPosted.ringPacket .task 0 with
      | .packet _ b => decide (b = taskPkt)
      | _ => false) = true ∧
    (taskPosted.taskQueue 0).originAt 0 = none ∧ taskPosted.launchFailed none = false ∧
    taskInvalid taskPkt = none ∧ fieldAt taskPkt 32 8 = 0 ∧ ((taskPosted.freeThreads 192).take 2).length = 2 ∧ taskPosted.tasks = [] := by decide +kernel

/-- A request of core 0's thread for a place, as its first. -/
def req (va : Nat) (g : Target) (op : MemOp) : Req := { (core0.issuerOf .nop).request core0 2 va 8 g op with id := 1 }

/-- Core 0 with one request for its scratchpad, in its bank unit's cycle 1. -/
def banked (r : Req) : State := { arr core0 (fun k => { k with bankAt := 1 }) with reqs := [r] }
def atBank (s : State) (r : Req) : Bool :=
  let c := max (s.cycles 0) (s.core 0).bankAt
  let b := (s.passTo (s.timeOfCycle 0 c)).updCore 0 (fun k => { k with bankAt := c + 1 })
  b.bankTakes 0 c r

/-- A well of one participant, thread 0, at 0 of core 0's scratchpad: EXPECT 1, PEND 1. -/
def wellReq (k : WellKind) : Req := req window.toNat (pad 0) (.well k 0)
def withWell (k : WellKind) : State := put ((banked (wellReq k)).putWell (scratchPa 0 0) ⟨false, 1, 1, 0⟩) (scratchPa 0 16) [1]

theorem witness_WellOperation : (∀ k ∈ [WellKind.init 768 none, .init 3 (some ((List.range 6).map (fun j => scratchPa 0 (128 + 16 * j)))), .arrive 0, .drop false],
      (withWell k).reqs = [wellReq k] ∧ atBank (withWell k) (wellReq k) = true ∧ Memory.wf (withWell k).mem = true) ∧
    locate (localOf (pad 0).pa) = .scratch 0 0 ∧ (withWell (.arrive 0)).wellAt (scratchPa 0 0) = ⟨false, 1, 1, 0⟩ ∧
    (withWell (.drop false)).partBit (scratchPa 0 0) 0 = true ∧ (placedGang 0).wells.length < 16 := by decide +kernel

/-! ### Device steps: accesses -/

/-- Channel 0's first slot belongs to core 0. -/
def served (op : MemOp) : State := { core0 with reqs := [req 0x2000 (page 0x2000) op], now := 160,
                                                channels := [(0, { Channel.reset with cal := ⟨.free, [(0, calEntryOf kindCORE 0)]⟩ })] }

theorem witness_CalendarSlots : (∀ op ∈ [MemOp.load 4, .store [1, 2, 3, 4, 5, 6, 7, 8] false, .amo .add 1 0 4, .amo .cas 1 0 4, .amo .fadd 0x3F800000 0 4],
      let s := served op
      let r := req 0x2000 (page 0x2000) op
      let a := (s.ccTo (cycleOfSlot (max s.cc (s.channel 0).freeAt) 0)).boundaries
      let b := a.updChannel 0 (fun k => { k with freeAt := a.cc + 1 })
      (a.channel 0).freeAt ≤ a.cc ∧ b.slotRequest 0 a.cc = some r ∧ r.check = none ∧
      b.homeCause r.part (page 0x2000) = none ∧ (b.lineMeta (lineOf 0x2000)).poison = false ∧ (b.lineMeta (lineOf 0x2000)).key = none ∧ b.copybooks = [] ∧
      lookup false (lineOf 0x2000) b.unfixable = false) ∧
    fp32.verdict (leNat (memRead core0.mem 0x2000 4)) = none := by decide +kernel

theorem witness_BankUnits : (∀ op ∈ [MemOp.lde 4 true, .store [1, 2, 3, 4, 5, 6, 7, 8] true, .engine none [(0, [1, 2])] true [] 0 false, .granules 9 true],
      let r := req window.toNat (pad 0) op; let s := banked r; let f := arr s (fun k => { k with full := [(0, true)] })
      locate (localOf r.pa) = .scratch 0 0 ∧ s.reqs = [r] ∧ r.reply = none ∧ (s.core 0).gpoison = [] ∧ atBank s r = true ∧ lookup false 0 (s.core 0).full = false ∧
      f.reqs = [r] ∧ (f.core 0).gpoison = [] ∧ atBank f r = true ∧ lookup false 0 (f.core 0).full = true) := by decide +kernel

theorem witness_Answers : let r := { req 0x2000 (page 0x2000) (.load 31) with status := .served 30 (.data [1, 2]) }
    let a := { req 0x2000 (page 0x2000) (.store [1] false) with status := .served 30 (.ack (some 7) 0) }
    r.dropped = false ∧ r.reply = none ∧ r.by_.unit ≠ 256 ∧ a.dropped = false ∧ a.reply = none ∧ core0.partOfUnit 0 = some 0 ∧ core0.partOfUnit 239 = none ∧
    core0.partOfUnit 225 = some 0 ∧ (core0.walkFrom 0 0x2000 .walk 3 (core0.part 0).ptbase).toOption.isSome = true := by decide +kernel

theorem witness_Channels : let c := { core0 with channels := [(0, { Channel.reset with runQueue := [⟨0, 0, 7, 2, 64, 0, none⟩] })],
                                                 latent := [(64, true)], parts := [(0, { Partition.reset with pendingCal := some [(0, Calendar.reset)] })] }
    (c.channel 0).runQueue = [⟨0, 0, 7, 2, 64, 0, none⟩] ∧ (c.channel 0).runs = [] ∧ (c.part 0).pendingCal = some [(0, Calendar.reset)] ∧ lookup false 64 c.latent = true := by
  decide +kernel

/-! ### Device steps: the wave and the edge units -/

/-- ACCZ with selector register 1 in the nib, or in flight for some cycles. -/
def inNib : State := arr core0 (fun k => { k with nib := [⟨0, .accz ⟨0, 1⟩, ⟨0, 0, .gang 0, 0x1000, 6, 0⟩, 0, 0, 0, 0⟩] })
def entry (elapsed : Nat) (west : List Pull) : WaveEntry :=
  ⟨0, .accz ⟨0, 1⟩, ⟨0, 0, .gang 0, 0x1000, 6, 0⟩, 0, 0, 0xFFFFFFFFFFFF, 0, west, [], [], [], elapsed, ⟨0, 0, [], []⟩, [], false⟩
def flying (elapsed : Nat) (west : List Pull) : State := arr core0 (fun k => { k with wave := [entry elapsed west] })
/-- A pull of a stream whose header is not known yet: its pieces are not ready. -/
def early : Pull := ⟨0, stream 0x2000, 0, 0⟩

theorem witness_NibDeparture : (inNib.core 0).nib = [⟨0, .accz ⟨0, 1⟩, ⟨0, 0, .gang 0, 0x1000, 6, 0⟩, 0, 0, 0, 0⟩] ∧ inNib.departs 0 (.accz ⟨0, 1⟩) = true ∧
    inNib.departureFault ((inNib.core 0).chain 0) (.accz ⟨0, 1⟩) = none ∧ namesWest (.accz ⟨0, 1⟩) = false ∧ namesNorth (.accz ⟨0, 1⟩) = false ∧
    givesEast (.accz ⟨0, 1⟩) = false ∧ givesSouth (.accz ⟨0, 1⟩) = false := by decide +kernel

theorem witness_HoldLimit : let s := arr (flying 0 [early]) (fun k => { k with hold := some (false, 0, 0) })
    (s.core 0).hold ≠ none ∧ s.blocker 0 = some (false, 0, 0, entry 0 [early]) ∧ s.coreGang 0 = some (placedGang 0) ∧ (placedGang 0).place = .resident ∧
    s.launchParked 0 = false ∧ (s.core 0).waveFault = none := by decide +kernel

theorem witness_AggregateValid : let f : WflgWait := ⟨3, 0, 31, 0, 3⟩; let s := arr core0 (fun k => { k with doneAggs := [(3, (9, ⟨0, 0, [], []⟩))], wflgs := [f] })
    (s.core 0).doneAggs = (3, (9, ⟨0, 0, [], []⟩)) :: [] ∧ s.waveReached 0 9 = true ∧ (s.core 0).wflgs = [f] ∧ f.wid = 3 ∧ f.thr < 4 ∧ 0 < f.dst ∧ f.dst < 32 := by
  decide +kernel

theorem witness_CellExecute : (∀ e ∈ [0, 29, 30], ((flying e []).core 0).down = false ∧ ((flying e []).core 0).hold = none ∧ (flying e []).blocker 0 = none ∧ ((flying e []).core 0).wave = [entry e []] ∧
      ((flying e []).core 0).chain 0 = ⟨[0], 1, 1⟩ ∧ (let d := arr (flying e []) (fun k => { k with down := true })
       (d.core 0).down = true ∧ (d.core 0).hold = none ∧ d.blocker 0 = none ∧ (d.core 0).wave = [entry e []] ∧ (d.core 0).chain 0 = ⟨[0], 1, 1⟩)) ∧ ((flying 0 [early]).core 0).hold = none ∧ (flying 0 [early]).blocker 0 = some (false, 0, 0, entry 0 [early]) ∧
    ((arr core0 (fun k => { k with hold := some (false, 0, 0) })).core 0).hold ≠ none ∧ (arr core0 (fun k => { k with hold := some (false, 0, 0) })).blocker 0 = none := by
  decide +kernel

/-- A header in core 0's scratchpad at 0x40: an FP32 array of 64 rows and columns at 0x20000 of the scratchpad. -/
def headed : State := arr (put core0 (scratchPa 0 0x40) (leBytes 8 (window.toNat + 0x20000) ++ leBytes 4 (2 ^ 28 + 2 ^ 24) ++ [0, 0, 0, 0] ++ leBytes 4 64 ++ leBytes 4 64 ++ leBytes 4 256))
  (fun k => { k with west := { k.west with streams := [stream (window.toNat + 0x40)] } })

theorem witness_HeaderRead : let x := stream (window.toNat + 0x40); let h := headerOf (memRead headed.mem (scratchPa 0 0x40) 64)
    headed.toRead 0 .west = some x ∧ x.fst.hdr = none ∧ x.fst.hdrVa % 64 = 0 ∧
    headed.translate ((headed.partOfUnit 0).getD 0) (tlbUnit (x.reader 0 .west)) x.fst.hdrVa .read = .ok (pad 0x40) ∧ headed.isLocal (pad 0x40) = true ∧
    locate (localOf (pad 0x40).pa) = .scratch 0 0x40 ∧ (headed.core 0).gpoison = [] ∧
    (headed.checkEnd ((headed.partOfUnit 0).getD 0) (tlbUnit (x.reader 0 .west)) .west x x.fst h none).toOption.isSome = true ∧ h.bmovf = false ∧
    ((headed.core 0).edge .west).streams = [x] := by decide +kernel

/-- A stream whose header is known, with a running maximum to send at its close or after 64 groups. -/
def opened (phase : Nat) : Stream :=
  { stream 0x2000 with fst := { StreamEnd.unread 0x2000 with hdr := some { headerOf (List.replicate 64 0) with amax := 0x3000 } }, phase := phase }
def writing (x : Stream) : State := arr core0 (fun k => { k with south := { k.south with streams := [x], buffer := (List.range 16).map (fun l => (0, x.written, l, 0)) } })

theorem witness_StreamSteps : let x := opened 1; let y := { opened 0 with taken := 64, written := 64 }; let w := writing x; let v := writing y
    ((w.core 0).edge .south).held.head? = some x ∧ x.live = false ∧ x.known = true ∧ x.bitmap = false ∧
    ((w.core 0).edge .south).streams = [x] ∧ (((w.core 0).edge .south).group x.sid x.written).isSome = true ∧
    ((x.fst.hdr.map (fun h => h.amax)) = some 0x3000) ∧ 0x3000 % 4 = 0 ∧ x.phase = 1 ∧ w.reqs = [] ∧
    w.translate ((w.partOfUnit 0).getD 0) (tlbUnit (x.reader 0 .south)) 0x3000 .atomic = .ok (page 0x3000) ∧ w.isLocal (page 0x3000) = true ∧
    ((v.core 0).edge .south).streams = [y] ∧ y.phase < 2 ∧ y.sent < ((v.core 0).edge .south).captured y / 64 := by decide +kernel

/-- A stroke with some steps done, whose step is under way or still to begin. -/
def stroked (p : Nat) (begun : Bool) (due : Option Nat) : Stroke := ⟨.lup ⟨0⟩, ⟨0, 0, .gang 0, 0x1000, 6, 0⟩, 0xB4000000, 0, p, 0, 0, false, false, begun, due⟩

theorem witness_StrokeStep : (∀ p ∈ [0, 62, 63], let t := stroked p true (some 70); let s := arr core0 (fun k => { k with stroke := some t })
      let u := stroked p (decide (p ≠ 0)) none; let r := arr core0 (fun k => { k with stroke := some u })
      (s.core 0).stroke = some t ∧ t.begun = true ∧ t.due = some 70 ∧ (s.core 0).wave = [] ∧ (s.core 0).waveFault = none ∧ t.prog < 64 ∧
      (r.core 0).nib = [] ∧ (r.core 0).stroke = some u ∧ u.due = none ∧ (r.core 0).hold = none ∧ r.blocker 0 = none ∧ r.mayDepart 0 = true ∧ (r.core 0).wave = [] ∧
      (r.core 0).waveFault = none) ∧
    (let e := arr core0 (fun k => { k with progDue := some 70 }); (e.core 0).stroke = none ∧ (e.core 0).progDue = some 70 ∧ e.waveReached 0 70 = true) := by
  decide +kernel

/-! ### Device steps: faults and contexts -/

/-- A fault queue of partition 0 in core 0's scratchpad, and a recoverable fault of its gang. -/
def queued : State := core0.updPart 0 (fun k => { k with fqbase := window.toNat + 0x10000 })
def parkedAt : Issue := ⟨0, 0, .gang 0, 0x1000, 2, 0⟩
def faultOf : FaultRec := queued.faultRec parkedAt 0 0 0x41 0x2000 0 (.gang 0 parkedAt)

theorem witness_FaultQueueWrite : let s := { queued with faults := [faultOf] }
    faultOf.part = 0 ∧ faultOf.kind ≠ 3 ∧ (s.reported 0 (s.entryVa 0 (s.part 0).fwidx)).getD 0 = 0 ∧ s.issuing (faultIssue 0) = false ∧
    s.entryVa 0 (s.part 0).fwidx = 2 ^ 56 - 2 ^ 29 + 0 * 2 ^ 21 + 0x10000 ∧ 0x10000 + 64 ≤ 0x200000 ∧ 0x10000 % 64 = 0 ∧ s.owns 0 (0 / 24) = true ∧
    s.noCore 0 = false ∧ s.reqs = [] := by decide +kernel

theorem witness_Entries : let e : QueueEntry := ⟨0, 0, .gang 0 parkedAt, none, 0, false⟩; let f : QueueEntry := { e with unit := .none }; let g := { e with go := true }
    let act := fun (x : QueueEntry) => put { queued with entries := [x] } (scratchPa 0 (0x10000 + 48)) [1]
    (∀ x ∈ [e, f], ((act x).entries.filter (fun y => y.part == 0 && y.idx % 1024 == 0)).getLast? = some x ∧ x.go = false ∧ x.act = 0 ∧
      (act x).entryWord 0 ((act x).entryVa 0 x.idx + 48) = some 1) ∧ bitsOf 1 1 0 = 1 ∧ e.unit ≠ .none ∧ f.unit = .none ∧ g.part = 0 ∧ g.go = true ∧
    g.unit = .gang 0 parkedAt := by decide +kernel

theorem witness_LaunchEnd : let l := { launch with id := 0, cause := some (0x10, 0) }; let s := { core0 with launches := [l] }
    s.launches.filter (fun x => x.part == 0 && x.cause.isSome) = [l] ∧ s.gangs.filter (fun x => x.launch == l.id && !x.ending) = [placedGang 0] ∧
    (placedGang 0).place = .resident ∧ s.tasks = [] ∧ (placedGang 0).cores = [0] ∧ (s.core 0).gang = some (placedGang 0).id ∧ (placedGang 0).tpc = 3 := by
  decide +kernel

theorem witness_ContextSave : let g := { placedGang 0 with place := .switching false }
    let s := { arr core0 (fun k => { k with saving := some (false, 0x10000) }) with gangs := [g] }; let o := arr s (fun k => { k with saveOut := true })
    (s.core 0).saving = some (false, 0x10000) ∧ (s.core 0).gang = some g.id ∧ s.gangOf g.id = some g ∧ g.cores = [0] ∧ s.launchFailed (some g.launch) = false ∧
    s.gangExits g = false ∧ (s.core 0).saveOut = false ∧ (s.core 0).drained = true ∧ s.taskWrites g.id = false ∧ s.coreSettled 0 false = true ∧ s.reqs = [] ∧
    (o.core 0).saving = some (false, 0x10000) ∧ (o.core 0).gang = some g.id ∧ o.gangOf g.id = some g ∧ o.launchFailed (some g.launch) = false ∧
    o.gangExits g = false ∧ (o.core 0).saveOut = true ∧ o.issuing (saveIssue 0) = false := by decide +kernel

/-! ### Device steps: links, keys, service, commands -/

/-- A load of 8 bytes from module 5 through port 0, or another kind of flit from there, under the link key of generation 3. -/
def flit (k : FlitKind) : Flit := ⟨5, 0, 0, k, 1, true, 77, 0x2000, 8, 0, [], [], 0, 9, 1, 2, 5, 1, false, false, none, false, [], none⟩
def linked : State := { core0.updPart 0 (fun k => { k with linkGen := some 3 }) with keyValues := [(3, 77)] }

theorem witness_Links : lookup false 0 linked.portsDown = false ∧ linked.partOfBlock (0 / 2) = some 0 ∧ linked.copybooks = [] ∧
    (∀ k ∈ [FlitKind.load, .store, .atomic, .response], (flit k).dst = linked.modreg.toNat % 1024 ∧ (flit k).auth = true ∧
      linked.linkKey 0 = some (flit k).key ∧ (flit k).part = 0 ∧ linked.flitReaches 0 (flit k) = true) ∧
    (let r := { req 0x2000 ⟨5 * 2 ^ 42 + 0x2000, 0, 0⟩ (.load 4) with status := .sent 3 }
     r.id = (flit .response).token ∧ moduleOf r.pa = (flit .response).src ∧ (flit .response).atomic = 0 ∧ (flit .response).refused = false ∧
     (flit .response).poison = false ∧ { flit .response with refused := true }.token = r.id) := by
  decide +kernel

/-- The policy digest is not evaluated: it is the partition's own. -/
theorem witness_KeyDelivery : ∃ d, core0.measurement (16 + 0) = some d ∧ 63 < 64 ∧ (core0.keySlot 63).bound = none ∧
    (core0.part 0).present = true ∧ (let k : KeyMsg := ⟨63, 0, true, 5, d, true⟩; core0.measurement (16 + k.part) = some k.policy ∧ k.unwraps = true) :=
  have ⟨d, h⟩ : ∃ d, core0.measurement (16 + 0) = some d := ⟨_, rfl⟩
  ⟨d, h, by decide, by decide +kernel, by decide +kernel, h, rfl⟩

/-- The multiplicative inverse of 0x53 is 0xCA, and the S-box takes 0x53 to 0xED (FIPS 197, section 5.1.1). -/
theorem test_aes_sbox : subByte 0x53 = 0xED ∧ subByte 0 = 0x63 := by decide +kernel

/-- The copybook of a recording, or of a replay, of queue 0. -/
def book (replay : Bool) (l : Option Nat) (held : SMap (Nat × Nat)) : Copybook where
  part := 0
  queue := 0
  base := window.toNat + 0x40000
  regions := []
  digests := none
  ni := 0
  nw := 0
  maxiter := 0
  maxflit := 0
  maxwacc := 0
  wlines := []
  launch := l
  niter := 0
  nflit := 0
  nwacc := 0
  flitIdx := 0
  ovf := false
  counts := []
  replay := replay
  inputs := []
  cores := []
  accesses := []
  lwidx := none
  lineDone := []
  held := held
  diverged := false
  command := 0
  flits := []

theorem witness_ReplayTimeout : let c := book true (some launch.id) [(0, (10, 0x2000))]; let s := { launched with copybooks := [c] }
    c.part = 0 ∧ c.replay = true ∧ c.diverged = false ∧ c.held = [(0, (10, 0x2000))] ∧ c.launch = some launch.id ∧ s.launchOf launch.id = some launch ∧
    launch.cause = none := by decide +kernel

/-- A slice that holds a line which HBM does not have yet. -/
def dirtyWay : Way := ⟨4, .partition 0 0, some ⟨List.replicate 128 9, 3, false, none⟩⟩
def dirtied : State := { core0 with slices := [(0, { Slice.reset with sets := [(0, ⟨[(0, some dirtyWay)], 0⟩)] })] }

theorem witness_Islands : let t := core0.updIsland 0 (fun k => { k with stopped := true }); let n := t.updCore 0 (fun k => { k with gang := none })
    let fast := core0.updIsland 0 (fun k => { k with mhz := 2100 }); let hot := { core0 with power := 1801 }
    (core0.island 63).stopped = false ∧ (core0.island 0).mhz = 1800 ∧ 1800 < (fast.island 0).mhz ∧ (fast.island 0).stopped = false ∧ (t.island 0).stopped = true ∧
    (∀ j ∈ core0.clockGroup 0, ∀ m ∈ coresOfIsland j, core0.waveIn m = false) ∧ 1800 < hot.power ∧ 0 ∈ hot.clockGroup 0 ∧ (hot.island 0).mhz < 2100 ∧
    (∀ j ∈ hot.clockGroup 0, 1800 ≤ (hot.island j).mhz) ∧ (∀ j ∈ hot.clockGroup 0, ∀ m ∈ coresOfIsland j, hot.waveIn m = false) ∧
    0 ∈ (flying 0 []).clockGroup 0 ∧ 0 ∈ coresOfIsland 0 ∧ (flying 0 []).waveIn 0 = true ∧ (n.island 0).stopped = true ∧
    (∀ m ∈ coresOfIsland 0, (n.core m).gang = none) := by decide +kernel

theorem witness_Failures : Memory.wf core0.mem = true ∧ lookup false 3 core0.latent = false ∧ lookup false 3 core0.unfixable = false ∧
    lookup false 3 ({ core0 with latent := [(3, true)] } : State).latent = true ∧ lookup false 3 ({ core0 with unfixable := [(3, true)] } : State).unfixable = true ∧
    ((List.range 64).flatMap (fun i => (core0.slice i).held)) = [] ∧ Memory.wf dirtied.mem = true ∧
    ((List.range 64).flatMap (fun i => (dirtied.slice i).held)) = [dirtyWay] ∧ (∃ h, dirtyWay.old = some h ∧ h.bytes.length = 128) ∧
    128 * dirtyWay.line < 8 * stackBytes :=
  ⟨by decide +kernel, by decide +kernel, by decide +kernel, by decide, by decide, by decide +kernel, by decide +kernel, by decide +kernel, ⟨_, rfl, rfl⟩, by decide⟩

/-- A command with its OP, partition 0 and bytes from 16 on at the head of the ring. -/
def ordered (s : State) (op : Nat) (args : List Byte) : State := put s (cmdPa 0) ([0, 4, 0, 0, 0, BitVec.ofNat 8 op] ++ List.replicate 10 0 ++ args)

/-- The command is read, breaks no rule of its arguments and is the one named; memory is in canonical form. -/
def fits (s : State) (op : Nat) : Bool :=
  match s.command with
  | some bs => s.commands.isEmpty && !cmdReserved bs && !s.badArguments bs && cmdOp bs == op && cmdPart bs == 0 && Memory.wf s.mem
  | none => false

theorem witness_Commands : fits (ordered State.reset 1 (1 :: List.replicate 7 0 ++ leBytes 8 0x100000)) 1 = true ∧ fits (ordered core0 2 []) 2 = true ∧
    fits (ordered core0 3 []) 3 = true ∧ fits (ordered core0 4 [1]) 4 = true ∧ fits (ordered core0 5 (leBytes 8 0x1000 ++ leBytes 8 0x1000)) 5 = true ∧
    (ordered core0 5 (leBytes 8 0x1000 ++ leBytes 8 0x1000)).oldAccesses 0 0x1000 0x1000 = false ∧ fits (ordered core0 8 [23]) 8 = true ∧
    (core0.core 23).gang = none ∧ core0.sparesUsed.getLsbD (23 / 24) = false ∧
    fits (ordered { core0 with keys := [(63, { KeySlot.reset with bound := some 0 })] } 9 [63]) 9 = true := by decide +kernel

/-- Core 0's channels with the default layout of its block, in force and as their shadows. -/
def owned0 : State := { core0 with channels := (List.range 32).map (fun c => (c, { Channel.reset with cal := ⟨.owned 1, []⟩, shadow := ⟨.owned 1, []⟩ })) }

theorem witness_GoodShadows_low : chansOf (owned0.part 0).blocks = List.range 32 ∧ ∀ ch ∈ List.range 8, owned0.badShadow 0 ch = false := by decide +kernel
theorem witness_GoodShadows_8 : ∀ ch ∈ List.range' 8 8, owned0.badShadow 0 ch = false := by decide +kernel
theorem witness_GoodShadows_16 : ∀ ch ∈ List.range' 16 8, owned0.badShadow 0 ch = false := by decide +kernel
theorem witness_GoodShadows_24 : ∀ ch ∈ List.range' 24 8, owned0.badShadow 0 ch = false := by decide +kernel

theorem witness_BadShadow : let s := { core0 with channels := (List.range 1).map (fun c => (c, { Channel.reset with shadow := ⟨.free, []⟩ })) }
    s.badShadow 0 0 = true ∧ 0 ∈ chansOf (s.part 0).blocks := by decide +kernel

/-- Pieces that all lie in a scratchpad here without a poisoned granule are read at once, and nothing changes by it. -/
def nearPieces (s : State) (i : Issue) (p : Nat) (ps : List (Nat × Nat)) : Bool :=
  ps.all (fun e => match s.translate p (tlbUnit i) e.1 .read with
    | .ok g => s.readsNear i g && !(s.readNear g e.2).2
    | .error _ => false)

def nearBytes (s : State) (i : Issue) (p : Nat) (ps : List (Nat × Nat)) : List Byte :=
  ps.flatMap (fun e => match s.translate p (tlbUnit i) e.1 .read with
    | .ok g => (s.readNear g e.2).1
    | .error _ => [])

theorem readPieces_near (s : State) (i : Issue) (p : Nat) (ps : List (Nat × Nat)) (h : nearPieces s i p ps = true) :
    s.readPieces i p ps = .ok s (nearBytes s i p ps) false := by
  induction ps with
  | nil => rfl
  | cons e rest ih =>
    simp only [nearPieces, List.all_cons, Bool.and_eq_true] at h ih
    have hbs := ih h.2
    cases ht : s.translate p (tlbUnit i) e.1 .read with
    | error x => simp [ht] at h
    | ok g =>
      simp only [ht, Bool.and_eq_true, Bool.not_eq_true'] at h
      simp [State.readPieces, State.readPiece, nearBytes, ht, h.1.1, h.1.2, hbs]

theorem witness_LongCommands : let l := { launch with state := .running }; let g := { placedGang 0 with launch := l.id }
    let a := leBytes 8 0 ++ leBytes 8 0 ++ leBytes 8 (window.toNat + 0x10000)
    let s := { core0 with launches := [l], gangs := [g] }; let r := { s with gangs := [{ g with place := .saved false }] }
    fits (ordered s 6 a) 6 = true ∧ ((ordered s 6 a).command.bind (s.namedLaunch 0)) = some l ∧ l.cause = none ∧
    s.gangs.filter (fun x => x.launch == l.id && !x.ending && decide (x.place = .resident)) = [g] ∧ g.cores = [0] ∧
    fits (ordered r 7 a) 7 = true ∧ ((ordered r 7 a).command.bind (r.namedLaunch 0)) = some l ∧ r.saved = [] := by decide +kernel

/-- The save area of the witness, which lies in core 0's scratchpad, is read at once. -/
theorem witness_ResumeReads : ∃ area, (ordered { core0 with launches := [launch] } 7 []).readVa (cmdIssue 0) 0 (window.toNat + 0x10000) 0x99500 =
    .ok (ordered { core0 with launches := [launch] } 7 []) area false :=
  ⟨_, readPieces_near _ _ _ _ (by decide +kernel)⟩

/-- RECORD of queue 0 with its witness list at 0x20000 of core 0's scratchpad; REPLAY of a copybook at 0x40000 of it. -/
def recording : State := ordered queues 10 (leBytes 8 0 ++ leBytes 8 0x10000 ++ leBytes 8 (window.toNat + 0x20000))
def replaying : State := put (ordered queues 11 (leBytes 8 0 ++ leBytes 8 (window.toNat + 0x40000))) (scratchPa 0 (0x40000 + 64)) [1]

theorem witness_Record : let ps := pieces (window.toNat + 0x20000) 64; let h := nearBytes recording (cmdIssue 0) 0 ps
    fits recording 10 = true ∧ 0x10000 % 4096 = 0 ∧ recording.inOwnHbm 0 0x10000 = true ∧ (window.toNat + 0x20000) % 64 = 0 ∧
    nearPieces recording (cmdIssue 0) 0 ps = true ∧ bitsOf (fieldAt h 0 4) 12 8 = 0 ∧ bitsOf (fieldAt h 0 4) 6 0 = 0 ∧
    pieces (window.toNat + 0x20000 + 64) 0 = [] ∧
    bitsOf (fieldAt h 0 4) 31 13 = 0 ∧ bitsOf (fieldAt h 0 4) 7 7 = 0 ∧ fieldAt h 4 4 = 0 ∧ fieldAt h 32 32 = 0 ∧ recording.copybooks = [] := by decide +kernel

theorem witness_Replay : let p := replaying; let ps := pieces (window.toNat + 0x40000) 2048; let h := nearBytes p (cmdIssue 0) 0 ps
    fits p 11 = true ∧ (p.launchQueue 0).en = true ∧ (p.launchQueue 0).part = 0 ∧ p.copybooks = [] ∧ nearPieces p (cmdIssue 0) 0 ps = true ∧
    bitsOf (fieldAt h 64 4) 1 0 = 1 ∧ (bookRegions (window.toNat + 0x40000) h).flatMap (fun e => pieces e.1 e.2) = [] ∧
    p.translate 0 258 (p.launchQueue 0).widx.toNat .atomic = .ok (page 0x3008) ∧ p.isLocal (page 0x3008) = true ∧ p.reqs = [] := by decide +kernel

theorem witness_ReplayPosts : ∀ wi ∈ [[0, 0, 0, 0], [0, 16, 0, 0]], let c := book true none []
    let m : Inbox := ⟨258, 801, 0x3008, 0, 0, wi, false⟩
    let p : State := { replaying with copybooks := [c], inbox := [m] }
    fits p 11 = true ∧ c.replay = true ∧ c.command = p.cmdRidx ∧ c.lwidx = none ∧ (nearPieces p (cmdIssue 0) 0 (pieces (window.toNat + 0x40000) 64)) = true ∧
    p.inbox.find? (fun x => x.unit == (postIssue 0).unit && x.thr == (postIssue 0).thr) = some m ∧ m.cause = 0 ∧
    (decide (4096 ≤ (BitVec.ofNat 32 (leNat wi) - (p.launchQueue 0).ridx).toNat) = decide (wi = [0, 16, 0, 0])) := by decide +kernel

theorem witness_Update : let s := ordered core0 12 (leBytes 8 1 ++ leBytes 8 (window.toNat + 0x10000) ++ leBytes 4 64)
    fits s 12 = true ∧ nearPieces s (cmdIssue 0) 0 (pieces (window.toNat + 0x10000) 64) = true := by decide +kernel

end Sys2Proof.Tests
end

section
/-! PROOFS. What the integer operations of the model compute, as numbers (R237 to R239), for every width where the width does not
matter. -/

namespace Sys2Proof.Machine

/-! ### High halves of products -/

/-- The high half of a number taken modulo 2^(2w). -/
theorem extractLsb'_ofInt_high (w : Nat) (z : Int) :
    (BitVec.ofInt (w + w) z).extractLsb' w w = BitVec.ofInt w (z / 2 ^ w) := by
  apply BitVec.eq_of_toNat_eq
  have hm : (0 : Int) < 2 ^ w := by positivity
  have hdiv : z % (2 ^ w * 2 ^ w) / 2 ^ w = z / 2 ^ w % 2 ^ w := by
    rw [Int.emod_def, Int.emod_def, Int.ediv_ediv_of_nonneg hm.le, mul_assoc, Int.sub_mul_ediv_left _ _ hm.ne']
  have hnn : 0 ≤ z % (2 ^ w * 2 ^ w) := Int.emod_nonneg _ (by positivity)
  have hnn' : 0 ≤ z / 2 ^ w % 2 ^ w := Int.emod_nonneg _ hm.ne'
  zify
  simp [BitVec.extractLsb'_toNat, Nat.shiftRight_eq_div_pow, pow_add, hnn, hnn', hdiv]

/-- MULH: the signed product without its low w bits. -/
theorem signed_product_high {w : Nat} (a b : BitVec w) :
    (a.signExtend (w + w) * b.signExtend (w + w)).extractLsb' w w = BitVec.ofInt w (a.toInt * b.toInt / 2 ^ w) := by
  rw [← extractLsb'_ofInt_high, BitVec.ofInt_mul]
  rfl

/-- MULHU: the unsigned product without its low w bits. -/
theorem unsigned_product_high {w : Nat} (a b : BitVec w) :
    (a.setWidth (w + w) * b.setWidth (w + w)).extractLsb' w w = BitVec.ofNat w (a.toNat * b.toNat / 2 ^ w) := by
  apply BitVec.eq_of_toNat_eq
  have hlt : a.toNat * b.toNat < 2 ^ (w + w) := by
    rw [pow_add]; exact Nat.mul_lt_mul'' a.isLt b.isLt
  have ha : a.toNat < 2 ^ (w + w) := a.isLt.trans_le (Nat.pow_le_pow_right (by omega) (by omega))
  have hb : b.toNat < 2 ^ (w + w) := b.isLt.trans_le (Nat.pow_le_pow_right (by omega) (by omega))
  simp [BitVec.extractLsb'_toNat, Nat.shiftRight_eq_div_pow, Nat.mod_eq_of_lt ha, Nat.mod_eq_of_lt hb, Nat.mod_eq_of_lt hlt]

theorem mulHigh_eq (a b : Word) : mulHigh a b = BitVec.ofInt 64 (a.toInt * b.toInt / 2 ^ 64) := signed_product_high a b
theorem mulHigh32_eq (a b : BitVec 32) : mulHigh32 a b = BitVec.ofInt 32 (a.toInt * b.toInt / 2 ^ 32) := signed_product_high a b
theorem mulHighU_eq (a b : Word) : mulHighU a b = BitVec.ofNat 64 (a.toNat * b.toNat / 2 ^ 64) := unsigned_product_high a b
theorem mulHighU32_eq (a b : BitVec 32) : mulHighU32 a b = BitVec.ofNat 32 (a.toNat * b.toNat / 2 ^ 32) := unsigned_product_high a b

theorem mul_eq_ofNat {w : Nat} (a b : BitVec w) : a * b = BitVec.ofNat w (a.toNat * b.toNat) := by
  rw [BitVec.ofNat_mul, BitVec.ofNat_toNat, BitVec.ofNat_toNat, BitVec.setWidth_eq, BitVec.setWidth_eq]

/-! ### Division and remainder, with the corners of R239 -/

/-- The overflowing quotient wraps to −2^(w−1), as R239 asks. -/
theorem divS_eq {w : Nat} (a b : BitVec w) :
    divS a b = if b = 0 then -1 else BitVec.ofInt w (a.toInt.tdiv b.toInt) := by
  have hq : a.sdiv b = BitVec.ofInt w (a.toInt.tdiv b.toInt) :=
    BitVec.eq_of_toInt_eq (by rw [BitVec.toInt_sdiv, BitVec.toInt_ofInt])
  rw [divS, hq, ← BitVec.neg_one_eq_allOnes]
  rfl

theorem remS_eq {w : Nat} (a b : BitVec w) :
    remS a b = if b = 0 then a else BitVec.ofInt w (a.toInt.tmod b.toInt) := by
  rw [remS, ← BitVec.toInt_srem, BitVec.ofInt_toInt]

theorem divU_eq {w : Nat} (a b : BitVec w) :
    divU a b = if b = 0 then -1 else BitVec.ofNat w (a.toNat / b.toNat) := by
  rw [divU, BitVec.udiv_eq, BitVec.udiv_def, ← BitVec.neg_one_eq_allOnes]
  rfl

theorem remU_eq {w : Nat} (a b : BitVec w) :
    remU a b = if b = 0 then a else BitVec.ofNat w (a.toNat % b.toNat) := by
  rw [remU, BitVec.umod_eq, BitVec.umod_def]

/-! ### Shifts and rotations by the low bits of the second operand -/

theorem toNat_low_bits {w : Nat} (b : BitVec w) (k : Nat) : (b.extractLsb' 0 k).toNat = b.toNat % 2 ^ k := by
  rw [BitVec.extractLsb'_toNat, Nat.shiftRight_zero]

theorem sshiftRight_eq_ofInt {w : Nat} (a : BitVec w) (n : Nat) : a.sshiftRight n = BitVec.ofInt w (a.toInt / 2 ^ n) := by
  rw [BitVec.sshiftRight, Int.shiftRight_eq_div_pow, Nat.cast_pow, Nat.cast_ofNat]

theorem shl64_eq (a b : Word) : shl64 a b = a <<< (b.toNat % 64) := congrArg (a <<< ·) (toNat_low_bits b 6)
theorem shl32_eq (a b : BitVec 32) : shl32 a b = a <<< (b.toNat % 32) := congrArg (a <<< ·) (toNat_low_bits b 5)
theorem shr64_eq (a b : Word) : shr64 a b = a >>> (b.toNat % 64) := congrArg (a >>> ·) (toNat_low_bits b 6)
theorem shr32_eq (a b : BitVec 32) : shr32 a b = a >>> (b.toNat % 32) := congrArg (a >>> ·) (toNat_low_bits b 5)
theorem rol64_eq (a b : Word) : rol64 a b = a.rotateLeft (b.toNat % 64) := congrArg a.rotateLeft (toNat_low_bits b 6)
theorem rol32_eq (a b : BitVec 32) : rol32 a b = a.rotateLeft (b.toNat % 32) := congrArg a.rotateLeft (toNat_low_bits b 5)

theorem sra64_eq (a b : Word) : sra64 a b = BitVec.ofInt 64 (a.toInt / 2 ^ (b.toNat % 64)) := by
  rw [sra64, toNat_low_bits, sshiftRight_eq_ofInt]; rfl
theorem sra32_eq (a b : BitVec 32) : sra32 a b = BitVec.ofInt 32 (a.toInt / 2 ^ (b.toNat % 32)) := by
  rw [sra32, toNat_low_bits, sshiftRight_eq_ofInt]; rfl

/-! ### Minimum and maximum -/

theorem minS_eq {w : Nat} (a b : BitVec w) : minS a b = if a.toInt ≤ b.toInt then a else b := by
  simp only [minS, BitVec.slt_iff_toInt_lt, ← not_le, ite_not]
theorem minU_eq {w : Nat} (a b : BitVec w) : minU a b = if a.toNat ≤ b.toNat then a else b := by
  simp only [minU, BitVec.ult_iff_toNat_lt, ← not_le, ite_not]

/-- Where the operands are equal, either one is the maximum. -/
theorem maxS_eq {w : Nat} (a b : BitVec w) : maxS a b = if a.toInt ≤ b.toInt then b else a := by
  simp only [maxS, BitVec.slt_iff_toInt_lt]
  split
  · rw [if_pos (by omega)]
  · split
    · exact BitVec.eq_of_toInt_eq (by omega)
    · rfl
theorem maxU_eq {w : Nat} (a b : BitVec w) : maxU a b = if a.toNat ≤ b.toNat then b else a := by
  simp only [maxU, BitVec.ult_iff_toNat_lt]
  split
  · rw [if_pos (by omega)]
  · split
    · exact BitVec.eq_of_toNat_eq (by omega)
    · rfl

end Sys2Proof.Machine
end

section
/-! PROOFS. The A instructions of one and two register operands: what their execution answers, and their table (R237 to R239). -/

namespace Sys2Proof.Machine

theorem firstKind_single (b : Bool) (k : Nat) : firstKind [(b, k)] = if b then some k else none := by
  cases b <;> rfl

/-- MOD 0 and 1 are the only values of form RRR (R238). -/
theorem rrrKind_eq (o : Rrr) : rrrKind o = if 1 < o.md then some 3 else none := by
  simp only [rrrKind, firstKind_single, decide_eq_true_eq]

/-- The 32-bit form works on bits [31:0] of its operands (R238). -/
theorem byWidth_eq {md : BitVec 3} {f64 : Word → Word → Word} {f32 : BitVec 32 → BitVec 32 → BitVec 32} {a b : Word} :
    byWidth md f64 f32 a b = if md = 1 then (f32 (a.extractLsb' 0 32) (b.extractLsb' 0 32)).signExtend 64 else f64 a b := by
  simp only [byWidth, isW, beq_iff_eq, BitVec.setWidth_eq_extractLsb' (show 32 ≤ 64 by omega)]

/-- An accepted instruction whose slot commits one x register. -/
theorem State.exec_writeX {s : State} {i : Instr} {d : BitVec 5} {v : Word} (hi : i.isStep = false) (h : s.accepts i = true)
    (hf : slotOf i (s.issuerOf i) s = .ok ((s.issuerOf i).writeX d v)) :
    exec i s = .next (s.movedWith i (fun th => th.setX d v)) :=
  State.exec_thread hi h hf (fun th ht => (th.setX_traps d v).trans ht)

/-- A two-operand instruction computes r64, or with .W the 32-bit r32 sign-extended. -/
theorem State.exec_rrr {s : State} {i : Instr} {o : Rrr} {f64 : Word → Word → Word} {f32 : BitVec 32 → BitVec 32 → BitVec 32}
    {r64 : Word} {r32 : BitVec 32} (hi : i.isStep = false) (hslot : slotOf i = slotRrr o (byWidth o.md f64 f32))
    (ha : s.me.fullX o.srcA = true) (hb : s.me.fullX o.srcB = true) (hd : s.me.fullX o.dst = true)
    (h64 : f64 (s.me.getX o.srcA) (s.me.getX o.srcB) = r64)
    (h32 : f32 ((s.me.getX o.srcA).extractLsb' 0 32) ((s.me.getX o.srcB).extractLsb' 0 32) = r32) (h : s.accepts i = true) :
    exec i s = .next (s.movedWith i (fun th => th.setX o.dst (if o.md = 1 then r32.signExtend 64 else r64))) := by
  rw [← h64, ← h32, ← byWidth_eq]
  apply State.exec_writeX hi h
  rw [hslot]
  exact slotRrr_ok ha hb hd

/-- Settles O10: each row of R237 is its slot's operation, which the lemmas on the integer operations give as a number. -/
theorem integerResults : Obligations.IntegerResults := by
  refine ⟨?_, ?_, ?_⟩
  · rintro s o _ _ rfl rfl ha hb hd
    simp only [List.forall_mem_cons]
    have run {i : Instr} {f64 f32 r64 r32} (hi : i.isStep = false) (hslot : slotOf i = slotRrr o (byWidth o.md f64 f32)) :=
      State.exec_rrr (r64 := r64) (r32 := r32) hi hslot ha hb hd
    exact ⟨
      run rfl rfl rfl rfl, run rfl rfl rfl rfl, -- ADD, SUB
      run rfl rfl (mul_eq_ofNat _ _) (mul_eq_ofNat _ _),
      run rfl rfl (mulHigh_eq _ _) (mulHigh32_eq _ _),
      run rfl rfl (mulHighU_eq _ _) (mulHighU32_eq _ _),
      run rfl rfl (divS_eq _ _) (divS_eq _ _),
      run rfl rfl (divU_eq _ _) (divU_eq _ _),
      run rfl rfl (remS_eq _ _) (remS_eq _ _),
      run rfl rfl (remU_eq _ _) (remU_eq _ _),
      run rfl rfl rfl rfl, run rfl rfl rfl rfl, run rfl rfl rfl rfl, run rfl rfl rfl rfl, -- AND, OR, XOR, ANDN
      run rfl rfl (shl64_eq _ _) (shl32_eq _ _),
      run rfl rfl (shr64_eq _ _) (shr32_eq _ _),
      run rfl rfl (sra64_eq _ _) (sra32_eq _ _),
      run rfl rfl (rol64_eq _ _) (rol32_eq _ _),
      run rfl rfl (minS_eq _ _) (minS_eq _ _),
      run rfl rfl (maxS_eq _ _) (maxS_eq _ _),
      run rfl rfl (minU_eq _ _) (minU_eq _ _),
      run rfl rfl (maxU_eq _ _) (maxU_eq _ _), List.forall_mem_nil _⟩
  · intro o i hi
    have hk : i.reservedKind = rrrKind o := by fin_cases hi <;> rfl
    rw [hk, rrrKind_eq]
  · intro o e he
    exact ⟨o.toBody, by fin_cases he <;> rfl⟩

end Sys2Proof.Machine
end

section
/-! PROOFS. The counts of R242 and the immediates of R214 and R243. -/

namespace Sys2Proof.Machine

/-! ### Counts -/

/-- MOD 0 and 1 are the only values of form RR (R242). -/
theorem rrKind_eq (o : Rr) : rrKind o = if 1 < o.md then some 3 else none := by
  simp only [rrKind, firstKind_single, decide_eq_true_eq]

/-- n zeros from bit w − 1 down, with a one below them or nothing left, are n leading zeros. -/
theorem leadingZeros_eq (a : Word) {w n : Nat} (hn : n ≤ w) (hzero : ∀ j, w - n ≤ j → j < w → a.getLsbD j = false)
    (hone : n < w → a.getLsbD (w - 1 - n) = true) : leadingZeros a w = n := by
  induction w generalizing n with
  | zero => exact (Nat.le_zero.mp hn).symm
  | succ w ih =>
    cases n with
    | zero => rw [leadingZeros, if_pos (by simpa using hone)]
    | succ n =>
      have htop : a.getLsbD w = false := hzero w (by omega) (by omega)
      have hrest : leadingZeros a w = n :=
        ih (by omega) (fun j h1 h2 => hzero j (by omega) (by omega))
          (fun h => by rw [show w - 1 - n = w + 1 - 1 - (n + 1) by omega]; exact hone (by omega))
      rw [leadingZeros, htop, if_neg Bool.false_ne_true, hrest, Nat.add_comm]

/-- n zeros from bit k up, with a one above them or nothing left, are n trailing zeros. -/
theorem trailingZeros_eq (a : Word) {k w n : Nat} (hn : n ≤ w) (hzero : ∀ j, j < n → a.getLsbD (k + j) = false)
    (hone : n < w → a.getLsbD (k + n) = true) : trailingZeros a k w = n := by
  induction w generalizing k n with
  | zero => exact (Nat.le_zero.mp hn).symm
  | succ w ih =>
    cases n with
    | zero => rw [trailingZeros, if_pos (by simpa using hone)]
    | succ n =>
      have hlow : a.getLsbD k = false := hzero 0 (by omega)
      have hrest : trailingZeros a (k + 1) w = n :=
        ih (by omega) (fun j h => by rw [Nat.add_right_comm]; exact hzero (j + 1) (by omega))
          (fun h => by rw [Nat.add_right_comm]; exact hone (by omega))
      rw [trailingZeros, hlow, if_neg Bool.false_ne_true, hrest, Nat.add_comm]

theorem onesCount_eq (a : Word) (w : Nat) : onesCount a w = (List.range w).countP (fun j => a.getLsbD j) := by
  induction w with
  | zero => rfl
  | succ w ih => rw [onesCount, ih, List.range_succ, List.countP_append, List.countP_singleton, Nat.add_comm]

/-- A count instruction writes the count of its operand. -/
theorem State.exec_rr {s : State} {i : Instr} {o : Rr} {f : Word → Nat} {n : Nat} (hi : i.isStep = false)
    (hslot : slotOf i = slotRr o f) (ha : s.me.fullX o.srcA = true) (hd : s.me.fullX o.dst = true)
    (hn : f (s.me.getX o.srcA) = n) (h : s.accepts i = true) :
    exec i s = .next (s.movedWith i (fun th => th.setX o.dst (BitVec.ofNat 64 n))) := by
  rw [← hn]
  apply State.exec_writeX hi h
  rw [hslot]
  exact slotRr_ok ha hd

/-! ### Immediates -/

/-- To no greater width a sign extension keeps the low bits only. -/
theorem signExtend_eq_setWidth_of_le {w v : Nat} (x : BitVec w) (h : v ≤ w) : x.signExtend v = x.setWidth v := by
  ext j hj
  have hw : j < w := by omega
  simp [BitVec.getElem_signExtend, hw]

/-- ADDI writes the sum of its operand and its immediate. -/
theorem State.exec_addi {s : State} {o : Ri} {xs : List XPay} (ha : s.me.fullX o.srcA = true) (hd : s.me.fullX o.dst = true)
    (h : s.accepts (.addi o xs) = true) :
    exec (.addi o xs) s = .next (s.movedWith (.addi o xs) (fun th => th.setX o.dst (s.me.getX o.srcA + immediate o.imm xs))) := by
  have hr : ready s.me [(o.srcA, o.ta)] [o.dst] = .ok () := ready_full (by simp [ha]) (by simp [hd])
  apply State.exec_writeX rfl h
  have hslot : slotOf (.addi o xs) = slotAddi o xs := rfl
  have hme : (s.issuerOf (.addi o xs)).th s = s.me := rfl
  simp only [hslot, slotAddi, hme, hr]

/-- LI writes its immediate. -/
theorem State.exec_li {s : State} {o : Imm15} {xs : List XPay} (hd : s.me.fullX o.dst = true) (h : s.accepts (.li o xs) = true) :
    exec (.li o xs) s = .next (s.movedWith (.li o xs) (fun th => th.setX o.dst (immediate o.imm xs))) := by
  have hr : ready s.me [] [o.dst] = .ok () := ready_full (by simp) (by simp [hd])
  apply State.exec_writeX rfl h
  have hslot : slotOf (.li o xs) = slotLi o xs := rfl
  have hme : (s.issuerOf (.li o xs)).th s = s.me := rfl
  simp only [hslot, slotLi, hme, hr]

/-- Settles O12: the counts by the lemmas above, the immediates by the number of X slots. -/
theorem countsAndImmediates : Obligations.CountsAndImmediates := by
  refine ⟨?_, ?_, ?_, ?_, ?_⟩
  · rintro s o _ rfl ha hd
    rw [← countWidth]
    refine ⟨?_, ?_, ?_⟩
    · intro n hn hzero hone
      have hclz : slotOf (.clz o) = slotRr o (fun a => leadingZeros a (countWidth o.md)) := rfl
      exact State.exec_rr rfl hclz ha hd (leadingZeros_eq _ hn hzero hone)
    · intro n hn hzero hone
      have hctz : slotOf (.ctz o) = slotRr o (fun a => trailingZeros a 0 (countWidth o.md)) := rfl
      exact State.exec_rr rfl hctz ha hd (trailingZeros_eq _ hn (by simpa only [Nat.zero_add] using hzero) (by simpa only [Nat.zero_add] using hone))
    · have hpopc : slotOf (.popc o) = slotRr o (fun a => onesCount a (countWidth o.md)) := rfl
      exact State.exec_rr rfl hpopc ha hd (onesCount_eq _ _)
  · intro s o xs ha hd h
    rw [State.exec_addi ha hd h]
    match xs with
    | [] => rfl
    | [_] => rfl
    | _ :: _ :: _ => rfl
  · intro s o xs hd h
    rw [State.exec_li hd h]
    match xs with
    | [] => rfl
    | [_] => rfl
    | x :: y :: _ => rw [immediate, signExtend_eq_setWidth_of_le _ (by omega)]
  · intro o i hi
    have hk : i.reservedKind = rrKind o := by fin_cases hi <;> rfl
    rw [hk, rrKind_eq]
  · intro o q r xs e he
    fin_cases he
    exacts [⟨o.toBody, rfl⟩, ⟨o.toBody, rfl⟩, ⟨o.toBody, rfl⟩, ⟨q.toBody, rfl⟩, ⟨r.toBody, rfl⟩]

end Sys2Proof.Machine
end

section
/-! PROOFS. SELI and SELX: what their execution answers, and their reserved values (R303 to R305, R429). -/

namespace Sys2Proof.Machine

/-! ### Writing a g register -/

/-- A g register is written where the core leads its chain, no stroke expands, the nib does not name the register and the
sources are full (R302, R305). -/
theorem slotSelect_ok {dst : BitVec 3} {srcs : List (BitVec 5)} {f : Thread → Word} {c : Issuer} {s : State}
    (hl : s.leadsChain c.unit = true) (hs : (s.core c.unit).stroke = none) (hn : s.nibNames c.unit c.thr dst = false)
    (hx : ∀ r ∈ srcs, (c.th s).fullX r = true) :
    slotSelect dst srcs f c s = .ok (c.commit (fun th => th.setG dst (f (c.th s)))) := by
  have hb : (s.strokeOn c.unit || s.nibNames c.unit c.thr dst) = false := by simp [State.strokeOn, hs, hn]
  have hr : ready (c.th s) (srcs.map (fun r => (r, false))) [] = .ok () := ready_full (by simpa using hx) (by simp)
  simp only [slotSelect, Issuer.leading, hl, if_true, hb, Bool.false_eq_true, if_false, hr]

/-- An accepted selector instruction writes the value of its slot to its g register. -/
theorem State.exec_select {s : State} {i : Instr} {dst : BitVec 3} {srcs : List (BitVec 5)} {f : Thread → Word}
    (hi : i.isStep = false) (hslot : slotOf i = slotSelect dst srcs f) (h : s.accepts i = true)
    (hl : s.leadsChain s.curUnit = true) (hs : (s.core s.curUnit).stroke = none)
    (hn : s.nibNames s.curUnit s.turnThread dst = false) (hx : ∀ r ∈ srcs, s.me.fullX r = true) :
    exec i s = .next (s.movedWith i (fun th => th.setG dst (f s.me))) := by
  apply State.exec_thread hi h
  · rw [hslot]
    exact slotSelect_ok hl hs hn hx
  · exact fun th ht => (th.setG_traps dst _).trans ht

/-! ### The values -/

/-- The union of a shifted number and one that fits below it is their sum. -/
theorem shiftLeft_or_ofNat {w a n : Nat} (b : Nat) (h : a < 2 ^ n) :
    (BitVec.ofNat w b <<< n) ||| BitVec.ofNat w a = BitVec.ofNat w (b * 2 ^ n + a) := by
  have hshift : BitVec.ofNat w b <<< n = BitVec.ofNat w (b <<< n) := by
    apply BitVec.eq_of_toNat_eq
    simp [Nat.shiftLeft_eq]
  rw [hshift, ← BitVec.ofNat_or, ← Nat.shiftLeft_add_eq_or_of_lt h, Nat.shiftLeft_eq]

/-- The row and column masks of SELI.C side by side (R303). -/
theorem firstBits_pair (a b : BitVec 5) : (firstBits b <<< 16) ||| firstBits a =
    BitVec.ofNat 64 ((2 ^ min 16 (b.toNat + 1) - 1) * 2 ^ 16 + (2 ^ min 16 (a.toNat + 1) - 1)) := by
  have hle : 2 ^ min 16 (a.toNat + 1) ≤ 2 ^ 16 := Nat.pow_le_pow_right (by omega) (Nat.min_le_left _ _)
  exact shiftLeft_or_ofNat _ (by omega)

/-! ### The reserved values -/

/-- The first failing test decides (R429). -/
theorem firstKind_cons (b : Bool) (k : Nat) (r : List (Bool × Nat)) :
    firstKind ((b, k) :: r) = if b then some k else firstKind r := by
  cases b <;> rfl

/-- A reserved mode or value precedes a reserved field, and both precede a missing X slot (R303, R429). -/
theorem seli_reservedKind (o : SelOps) (xs : List XPay) : (Instr.seli o xs).reservedKind =
    if o.md = 3 ∨ (o.md = 2 ∧ 2 ^ 48 ≤ (seliValue o xs).toNat) then some 3
    else if o.md = 0 ∧ (o.srcA ≠ 0 ∨ o.srcB ≠ 0) then some 4
    else if o.md = 2 ∧ xs = [] then some 5 else none := by
  have hk : (Instr.seli o xs).reservedKind =
    firstKind [(o.md == 3 || (o.md == 2 && 0x1_0000_0000_0000 ≤ seliValue o xs), 3),
      (o.md == 0 && (o.srcA != 0 || o.srcB != 0), 4), (o.md == 2 && xs.length == 0, 5)] := rfl
  simp [hk, firstKind_cons, firstKind, BitVec.le_def]

/-- SELX has a reserved field in its first mode only (R304). -/
theorem selx_reservedKind (o : SelOps) :
    (Instr.selx o).reservedKind = if o.md = 0 ∧ o.srcB ≠ 0 then some 4 else none := by
  have hk : (Instr.selx o).reservedKind = firstKind [(o.md == 0 && o.srcB != 0, 4)] := rfl
  simp [hk, firstKind_single]

/-- Settles O35: both instructions are a slot that writes a g register, and their reserved values are read off their tests. -/
theorem selectorsAreWritten : Obligations.SelectorsAreWritten := by
  refine ⟨?_, ?_, ?_⟩
  · intro s o xs h hl hs hn
    have hslot : slotOf (.seli o xs) = slotSeli o xs := rfl
    rw [slotSeli] at hslot
    rw [State.exec_select rfl hslot h hl hs hn (List.forall_mem_nil _), BitVec.or_assoc, firstBits_pair]
    rfl -- the model casts AMASK from a number
  · rintro s o _ _ _ h hl hs hn ha hb rfl rfl rfl
    have hx : ∀ r ∈ (if o.md = 1 then [o.srcA, o.srcB] else [o.srcA]), s.me.fullX r = true := by
      split
      next h1 => simp [ha, hb h1]
      next => simp [ha]
    have hslot : slotOf (.selx o) = slotSelx o := rfl
    rw [slotSelx] at hslot
    rw [State.exec_select rfl hslot h hl hs hn hx]
    have hmd : o.md.toNat < 4 := o.md.isLt
    generalize o.md.toNat = n at hmd
    match n, hmd with
    | 0, _ => rfl
    | 1, _ => rfl
    | 2, _ => rfl
    | 3, _ => rfl
  · intro o xs
    refine ⟨?_, ?_, ?_, ?_, ?_, rfl, ?_, ⟨o.toBody, rfl⟩, ⟨o.toBody, rfl⟩⟩
    · intro hmd
      rw [seli_reservedKind, if_pos (Or.inl hmd)]
    · intro hmd hsrc
      rw [seli_reservedKind, if_neg (by simp [hmd]), if_pos ⟨hmd, hsrc⟩]
    · rintro hmd (hbig | rfl)
      · rw [seli_reservedKind, if_pos (Or.inr ⟨hmd, hbig⟩), Option.isSome_some]
      · have hsmall : (seliValue o []).toNat < 2 ^ 48 := by
          rw [seliValue, BitVec.toNat_setWidth]
          omega
        rw [seli_reservedKind, if_neg (by simpa [hmd] using hsmall), if_neg (by simp [hmd]), if_pos ⟨hmd, rfl⟩, Option.isSome_some]
    · exact fun hmd => if_neg hmd
    · exact fun hmd => if_pos hmd
    · intro hmd hsrc
      rw [selx_reservedKind, if_pos ⟨hmd, hsrc⟩]

end Sys2Proof.Machine
end

section
/-! PROOFS. The decoder inverts the encoder: the fields of every shape, the slot word, and the words and bytes of an instruction
(R206 to R216). -/

namespace Sys2Proof

/-! ### Fields of a shape: reading them from the operand bits that hold them (R212) -/
@[simp] theorem Rrr.ofBody_toBody (o : Rrr) : Rrr.ofBody o.toBody = o := by
  cases o; simp -index only [Rrr.ofBody, Rrr.toBody, BitVec.extractLsb'_append_eq_ite, BitVec.getLsbD_append]; simp
@[simp] theorem RrrCond.ofBody_toBody (o : RrrCond) : RrrCond.ofBody o.toBody = o := by
  cases o; simp -index only [RrrCond.ofBody, RrrCond.toBody, BitVec.extractLsb'_append_eq_ite, BitVec.getLsbD_append]; simp
@[simp] theorem RrrPred.ofBody_toBody (o : RrrPred) : RrrPred.ofBody o.toBody = o := by
  cases o; simp -index only [RrrPred.ofBody, RrrPred.toBody, BitVec.extractLsb'_append_eq_ite, BitVec.getLsbD_append]; simp
@[simp] theorem PredOps.ofBody_toBody (o : PredOps) : PredOps.ofBody o.toBody = o := by
  cases o; simp -index only [PredOps.ofBody, PredOps.toBody, BitVec.extractLsb'_append_eq_ite]; simp
@[simp] theorem Rr.ofBody_toBody (o : Rr) : Rr.ofBody o.toBody = o := by
  cases o; simp -index only [Rr.ofBody, Rr.toBody, BitVec.extractLsb'_append_eq_ite, BitVec.getLsbD_append]; simp
@[simp] theorem Ri.ofBody_toBody (o : Ri) : Ri.ofBody o.toBody = o := by
  cases o; simp -index only [Ri.ofBody, Ri.toBody, BitVec.extractLsb'_append_eq_ite, BitVec.getLsbD_append]; simp
@[simp] theorem RiCond.ofBody_toBody (o : RiCond) : RiCond.ofBody o.toBody = o := by
  cases o; simp -index only [RiCond.ofBody, RiCond.toBody, BitVec.extractLsb'_append_eq_ite, BitVec.getLsbD_append]; simp
@[simp] theorem Imm15.ofBody_toBody (o : Imm15) : Imm15.ofBody o.toBody = o := by
  cases o; simp -index only [Imm15.ofBody, Imm15.toBody, BitVec.extractLsb'_append_eq_ite]; simp
@[simp] theorem RrrRound.ofBody_toBody (o : RrrRound) : RrrRound.ofBody o.toBody = o := by
  cases o; simp -index only [RrrRound.ofBody, RrrRound.toBody, BitVec.extractLsb'_append_eq_ite, BitVec.getLsbD_append]; simp
@[simp] theorem RrrPlain.ofBody_toBody (o : RrrPlain) : RrrPlain.ofBody o.toBody = o := by
  cases o; simp -index only [RrrPlain.ofBody, RrrPlain.toBody, BitVec.extractLsb'_append_eq_ite, BitVec.getLsbD_append]; simp
@[simp] theorem RrRound.ofBody_toBody (o : RrRound) : RrRound.ofBody o.toBody = o := by
  cases o; simp -index only [RrRound.ofBody, RrRound.toBody, BitVec.extractLsb'_append_eq_ite, BitVec.getLsbD_append]; simp
@[simp] theorem LoadOps.ofBody_toBody (o : LoadOps) : LoadOps.ofBody o.toBody = o := by
  cases o; simp -index only [LoadOps.ofBody, LoadOps.toBody, BitVec.extractLsb'_append_eq_ite, BitVec.getLsbD_append]; simp
@[simp] theorem StoreOps.ofBody_toBody (o : StoreOps) : StoreOps.ofBody o.toBody = o := by
  cases o; simp -index only [StoreOps.ofBody, StoreOps.toBody, BitVec.extractLsb'_append_eq_ite, BitVec.getLsbD_append]; simp
@[simp] theorem AcqOps.ofBody_toBody (o : AcqOps) : AcqOps.ofBody o.toBody = o := by
  cases o; simp -index only [AcqOps.ofBody, AcqOps.toBody, BitVec.extractLsb'_append_eq_ite, BitVec.getLsbD_append]; simp
@[simp] theorem RelOps.ofBody_toBody (o : RelOps) : RelOps.ofBody o.toBody = o := by
  cases o; simp -index only [RelOps.ofBody, RelOps.toBody, BitVec.extractLsb'_append_eq_ite, BitVec.getLsbD_append]; simp
@[simp] theorem TwoSrc.ofBody_toBody (o : TwoSrc) : TwoSrc.ofBody o.toBody = o := by
  cases o; simp -index only [TwoSrc.ofBody, TwoSrc.toBody, BitVec.extractLsb'_append_eq_ite, BitVec.getLsbD_append]; simp
@[simp] theorem PrefOps.ofBody_toBody (o : PrefOps) : PrefOps.ofBody o.toBody = o := by
  cases o; simp -index only [PrefOps.ofBody, PrefOps.toBody, BitVec.extractLsb'_append_eq_ite, BitVec.getLsbD_append]; simp
@[simp] theorem ScopeOps.ofBody_toBody (o : ScopeOps) : ScopeOps.ofBody o.toBody = o := by
  cases o; simp -index only [ScopeOps.ofBody, ScopeOps.toBody, BitVec.extractLsb'_append_eq_ite]; simp
@[simp] theorem DstSrc.ofBody_toBody (o : DstSrc) : DstSrc.ofBody o.toBody = o := by
  cases o; simp -index only [DstSrc.ofBody, DstSrc.toBody, BitVec.extractLsb'_append_eq_ite, BitVec.getLsbD_append]; simp
@[simp] theorem OneSrc.ofBody_toBody (o : OneSrc) : OneSrc.ofBody o.toBody = o := by
  cases o; simp -index only [OneSrc.ofBody, OneSrc.toBody, BitVec.extractLsb'_append_eq_ite, BitVec.getLsbD_append]; simp
@[simp] theorem SpecGet.ofBody_toBody (o : SpecGet) : SpecGet.ofBody o.toBody = o := by
  cases o; simp -index only [SpecGet.ofBody, SpecGet.toBody, BitVec.extractLsb'_append_eq_ite]; simp
@[simp] theorem SpecPut.ofBody_toBody (o : SpecPut) : SpecPut.ofBody o.toBody = o := by
  cases o; simp -index only [SpecPut.ofBody, SpecPut.toBody, BitVec.extractLsb'_append_eq_ite, BitVec.getLsbD_append]; simp
@[simp] theorem AmoOps.ofBody_toBody (o : AmoOps) : AmoOps.ofBody o.toBody = o := by
  cases o; simp -index only [AmoOps.ofBody, AmoOps.toBody, BitVec.extractLsb'_append_eq_ite, BitVec.getLsbD_append]; simp
@[simp] theorem Jump.ofBody_toBody (o : Jump) : Jump.ofBody o.toBody = o := by
  cases o; simp -index only [Jump.ofBody, Jump.toBody]; simp
@[simp] theorem BranchOps.ofBody_toBody (o : BranchOps) : BranchOps.ofBody o.toBody = o := by
  cases o; simp -index only [BranchOps.ofBody, BranchOps.toBody, BitVec.extractLsb'_append_eq_ite, BitVec.getLsbD_append]; simp
@[simp] theorem RetOps.ofBody_toBody (o : RetOps) : RetOps.ofBody o.toBody = o := by
  cases o; simp -index only [RetOps.ofBody, RetOps.toBody, BitVec.extractLsb'_append_eq_ite, BitVec.getLsbD_append]; simp
@[simp] theorem LoopReg.ofBody_toBody (o : LoopReg) : LoopReg.ofBody o.toBody o.xs = o := by
  cases o; simp -index only [LoopReg.ofBody, LoopReg.toBody, BitVec.extractLsb'_append_eq_ite, BitVec.getLsbD_append]; simp
@[simp] theorem LoopImm.ofBody_toBody (o : LoopImm) : LoopImm.ofBody o.toBody = o := by
  cases o; simp -index only [LoopImm.ofBody, LoopImm.toBody, BitVec.extractLsb'_append_eq_ite]; simp
@[simp] theorem Code8.ofBody_toBody (o : Code8) : Code8.ofBody o.toBody = o := by
  cases o; simp -index only [Code8.ofBody, Code8.toBody, BitVec.extractLsb'_append_eq_ite]; simp
@[simp] theorem Count16.ofBody_toBody (o : Count16) : Count16.ofBody o.toBody = o := by
  cases o; simp -index only [Count16.ofBody, Count16.toBody, BitVec.extractLsb'_append_eq_ite]; simp
@[simp] theorem CpyOps.ofBody_toBody (o : CpyOps) : CpyOps.ofBody o.toBody = o := by
  cases o; simp -index only [CpyOps.ofBody, CpyOps.toBody, BitVec.extractLsb'_append_eq_ite, BitVec.getLsbD_append]; simp
@[simp] theorem CpyxOps.ofBody_toBody (o : CpyxOps) : CpyxOps.ofBody o.toBody = o := by
  cases o; simp -index only [CpyxOps.ofBody, CpyxOps.toBody, BitVec.extractLsb'_append_eq_ite, BitVec.getLsbD_append]; simp
@[simp] theorem WaitOps.ofBody_toBody (o : WaitOps) : WaitOps.ofBody o.toBody = o := by
  cases o; simp -index only [WaitOps.ofBody, WaitOps.toBody, BitVec.extractLsb'_append_eq_ite, BitVec.getLsbD_append]; simp
@[simp] theorem WellTwo.ofBody_toBody (o : WellTwo) : WellTwo.ofBody o.toBody = o := by
  cases o; simp -index only [WellTwo.ofBody, WellTwo.toBody, BitVec.extractLsb'_append_eq_ite, BitVec.getLsbD_append]; simp
@[simp] theorem WellOne.ofBody_toBody (o : WellOne) : WellOne.ofBody o.toBody = o := by
  cases o; simp -index only [WellOne.ofBody, WellOne.toBody, BitVec.extractLsb'_append_eq_ite, BitVec.getLsbD_append]; simp
@[simp] theorem WellTest.ofBody_toBody (o : WellTest) : WellTest.ofBody o.toBody = o := by
  cases o; simp -index only [WellTest.ofBody, WellTest.toBody, BitVec.extractLsb'_append_eq_ite, BitVec.getLsbD_append]; simp
@[simp] theorem BulkOps.ofBody_toBody (o : BulkOps) : BulkOps.ofBody o.toBody = o := by
  cases o; simp -index only [BulkOps.ofBody, BulkOps.toBody, BitVec.extractLsb'_append_eq_ite, BitVec.getLsbD_append]; simp
@[simp] theorem ElwOps.ofBody_toBody (o : ElwOps) : ElwOps.ofBody o.toBody = o := by
  cases o; simp -index only [ElwOps.ofBody, ElwOps.toBody, BitVec.extractLsb'_append_eq_ite, BitVec.getLsbD_append]; simp
@[simp] theorem ElnOps.ofBody_toBody (o : ElnOps) : ElnOps.ofBody o.toBody = o := by
  cases o; simp -index only [ElnOps.ofBody, ElnOps.toBody, BitVec.extractLsb'_append_eq_ite, BitVec.getLsbD_append]; simp
@[simp] theorem EweOps.ofBody_toBody (o : EweOps) : EweOps.ofBody o.toBody = o := by
  cases o; simp -index only [EweOps.ofBody, EweOps.toBody, BitVec.extractLsb'_append_eq_ite, BitVec.getLsbD_append]; simp
@[simp] theorem EwsOps.ofBody_toBody (o : EwsOps) : EwsOps.ofBody o.toBody = o := by
  cases o; simp -index only [EwsOps.ofBody, EwsOps.toBody, BitVec.extractLsb'_append_eq_ite, BitVec.getLsbD_append]; simp
@[simp] theorem Mask4.ofBody_toBody (o : Mask4) : Mask4.ofBody o.toBody = o := by
  cases o; simp -index only [Mask4.ofBody, Mask4.toBody, BitVec.extractLsb'_append_eq_ite]; simp
@[simp] theorem WUnaryMod.ofBody_toBody (o : WUnaryMod) : WUnaryMod.ofBody o.toBody = o := by
  cases o; simp -index only [WUnaryMod.ofBody, WUnaryMod.toBody, BitVec.extractLsb'_append_eq_ite]; simp
@[simp] theorem WLds.ofBody_toBody (o : WLds) : WLds.ofBody o.toBody = o := by
  cases o; simp -index only [WLds.ofBody, WLds.toBody, BitVec.extractLsb'_append_eq_ite]; simp
@[simp] theorem WSts.ofBody_toBody (o : WSts) : WSts.ofBody o.toBody = o := by
  cases o; simp -index only [WSts.ofBody, WSts.toBody, BitVec.extractLsb'_append_eq_ite]; simp
@[simp] theorem WImm.ofBody_toBody (o : WImm) : WImm.ofBody o.toBody = o := by
  cases o; simp -index only [WImm.ofBody, WImm.toBody, BitVec.extractLsb'_append_eq_ite]; simp
@[simp] theorem WDst.ofBody_toBody (o : WDst) : WDst.ofBody o.toBody = o := by
  cases o; simp -index only [WDst.ofBody, WDst.toBody, BitVec.extractLsb'_append_eq_ite]; simp
@[simp] theorem WBinMod.ofBody_toBody (o : WBinMod) : WBinMod.ofBody o.toBody = o := by
  cases o; simp -index only [WBinMod.ofBody, WBinMod.toBody, BitVec.extractLsb'_append_eq_ite]; simp
@[simp] theorem WCvt.ofBody_toBody (o : WCvt) : WCvt.ofBody o.toBody = o := by
  cases o; simp -index only [WCvt.ofBody, WCvt.toBody, BitVec.extractLsb'_append_eq_ite]; simp
@[simp] theorem WQlog.ofBody_toBody (o : WQlog) : WQlog.ofBody o.toBody = o := by
  cases o; simp -index only [WQlog.ofBody, WQlog.toBody, BitVec.extractLsb'_append_eq_ite]; simp
@[simp] theorem WQset.ofBody_toBody (o : WQset) : WQset.ofBody o.toBody = o := by
  cases o; simp -index only [WQset.ofBody, WQset.toBody, BitVec.extractLsb'_append_eq_ite]; simp
@[simp] theorem WBin.ofBody_toBody (o : WBin) : WBin.ofBody o.toBody = o := by
  cases o; simp -index only [WBin.ofBody, WBin.toBody, BitVec.extractLsb'_append_eq_ite]; simp
@[simp] theorem WUnary.ofBody_toBody (o : WUnary) : WUnary.ofBody o.toBody = o := by
  cases o; simp -index only [WUnary.ofBody, WUnary.toBody, BitVec.extractLsb'_append_eq_ite]; simp
@[simp] theorem WScl.ofBody_toBody (o : WScl) : WScl.ofBody o.toBody = o := by
  cases o; simp -index only [WScl.ofBody, WScl.toBody, BitVec.extractLsb'_append_eq_ite, BitVec.getLsbD_append]; simp
@[simp] theorem WMac.ofBody_toBody (o : WMac) : WMac.ofBody o.toBody = o := by
  cases o; simp -index only [WMac.ofBody, WMac.toBody, BitVec.extractLsb'_append_eq_ite, BitVec.getLsbD_append]; simp
@[simp] theorem WMacH.ofBody_toBody (o : WMacH) : WMacH.ofBody o.toBody = o := by
  cases o; simp -index only [WMacH.ofBody, WMacH.toBody, BitVec.extractLsb'_append_eq_ite, BitVec.getLsbD_append]; simp
@[simp] theorem WVbeg.ofBody_toBody (o : WVbeg) : WVbeg.ofBody o.toBody = o := by
  cases o; simp -index only [WVbeg.ofBody, WVbeg.toBody, BitVec.extractLsb'_append_eq_ite]; simp
@[simp] theorem WVthr.ofBody_toBody (o : WVthr) : WVthr.ofBody o.toBody = o := by
  cases o; simp -index only [WVthr.ofBody, WVthr.toBody, BitVec.extractLsb'_append_eq_ite]; simp
@[simp] theorem WAccz.ofBody_toBody (o : WAccz) : WAccz.ofBody o.toBody = o := by
  cases o; simp -index only [WAccz.ofBody, WAccz.toBody, BitVec.extractLsb'_append_eq_ite]; simp
@[simp] theorem WAccrd.ofBody_toBody (o : WAccrd) : WAccrd.ofBody o.toBody = o := by
  cases o; simp -index only [WAccrd.ofBody, WAccrd.toBody, BitVec.extractLsb'_append_eq_ite, BitVec.getLsbD_append]; simp
@[simp] theorem WAccwr.ofBody_toBody (o : WAccwr) : WAccwr.ofBody o.toBody = o := by
  cases o; simp -index only [WAccwr.ofBody, WAccwr.toBody, BitVec.extractLsb'_append_eq_ite]; simp
@[simp] theorem WAmax.ofBody_toBody (o : WAmax) : WAmax.ofBody o.toBody = o := by
  cases o; simp -index only [WAmax.ofBody, WAmax.toBody, BitVec.extractLsb'_append_eq_ite, BitVec.getLsbD_append]; simp
@[simp] theorem Tile1.ofBody_toBody (o : Tile1) : Tile1.ofBody o.toBody = o := by
  cases o; simp -index only [Tile1.ofBody, Tile1.toBody, BitVec.extractLsb'_append_eq_ite]; simp
@[simp] theorem Tile2.ofBody_toBody (o : Tile2) : Tile2.ofBody o.toBody = o := by
  cases o; simp -index only [Tile2.ofBody, Tile2.toBody, BitVec.extractLsb'_append_eq_ite]; simp
@[simp] theorem TileTri.ofBody_toBody (o : TileTri) : TileTri.ofBody o.toBody = o := by
  cases o; simp -index only [TileTri.ofBody, TileTri.toBody, BitVec.extractLsb'_append_eq_ite]; simp
@[simp] theorem SelOps.ofBody_toBody (o : SelOps) : SelOps.ofBody o.toBody = o := by
  cases o; simp -index only [SelOps.ofBody, SelOps.toBody, BitVec.extractLsb'_append_eq_ite]; simp
@[simp] theorem FlagOps.ofBody_toBody (o : FlagOps) : FlagOps.ofBody o.toBody = o := by
  cases o; simp -index only [FlagOps.ofBody, FlagOps.toBody, BitVec.extractLsb'_append_eq_ite]; simp
@[simp] theorem AddrSrc.ofBody_toBody (o : AddrSrc) : AddrSrc.ofBody o.toBody = o := by
  cases o; simp -index only [AddrSrc.ofBody, AddrSrc.toBody, BitVec.extractLsb'_append_eq_ite]; simp
@[simp] theorem VTriMod.ofBody_toBody (o : VTriMod) : VTriMod.ofBody o.toBody = o := by
  cases o; simp -index only [VTriMod.ofBody, VTriMod.toBody, BitVec.extractLsb'_append_eq_ite]; simp
@[simp] theorem VTri.ofBody_toBody (o : VTri) : VTri.ofBody o.toBody = o := by
  cases o; simp -index only [VTri.ofBody, VTri.toBody, BitVec.extractLsb'_append_eq_ite]; simp
@[simp] theorem VTstr.ofBody_toBody (o : VTstr) : VTstr.ofBody o.toBody = o := by
  cases o; simp -index only [VTstr.ofBody, VTstr.toBody, BitVec.extractLsb'_append_eq_ite]; simp
@[simp] theorem VUnary.ofBody_toBody (o : VUnary) : VUnary.ofBody o.toBody = o := by
  cases o; simp -index only [VUnary.ofBody, VUnary.toBody, BitVec.extractLsb'_append_eq_ite]; simp


/-- LOOP and LOOP.IMM share an opcode; bit 8 tells them apart (R262). -/
theorem LoopReg.toBody_bit8 (o : LoopReg) : o.toBody.getLsbD 8 = false := by
  simp -index only [LoopReg.toBody, BitVec.getLsbD_append]; simp
theorem LoopImm.toBody_bit8 (o : LoopImm) : o.toBody.getLsbD 8 = true := by
  simp -index only [LoopImm.toBody, BitVec.getLsbD_append]; simp

/-! ### The fields of a slot word (R207) -/

@[simp] theorem slotStop_slotWord (st : Bool) (c : BitVec 4) (op : BitVec 7) (b : Body) : slotStop (slotWord st c op b) = st := by
  simp -index only [slotStop, slotWord, BitVec.getLsbD_append]; simp
@[simp] theorem slotClass_slotWord (st : Bool) (c : BitVec 4) (op : BitVec 7) (b : Body) : slotClass (slotWord st c op b) = c := by
  simp -index only [slotClass, slotWord, BitVec.extractLsb'_append_eq_ite]; simp
@[simp] theorem opcode_slotWord (st : Bool) (c : BitVec 4) (op : BitVec 7) (b : Body) : (slotWord st c op b).extractLsb' 20 7 = op := by
  simp -index only [slotWord, BitVec.extractLsb'_append_eq_ite]; simp
@[simp] theorem body_slotWord (st : Bool) (c : BitVec 4) (op : BitVec 7) (b : Body) : (slotWord st c op b).extractLsb' 0 20 = b := by
  simp -index only [slotWord, BitVec.extractLsb'_append_eq_ite]; simp

/-- A word is made of its STOP bit, its class, its opcode and its operand bits. -/
theorem slotWord_fields (w : SlotWord) : slotWord (slotStop w) (slotClass w) (w.extractLsb' 20 7) (w.extractLsb' 0 20) = w := by
  have hstop : BitVec.ofBool (w.getLsbD 31) = w.extractLsb' 31 1 := by
    ext j hj
    obtain rfl : j = 0 := by omega
    simp
  rw [slotWord, slotStop, slotClass, hstop, BitVec.extractLsb'_append_extractLsb'_eq_extractLsb' (show 31 = 27 + 4 from rfl),
    BitVec.extractLsb'_append_extractLsb'_eq_extractLsb' (show 27 = 20 + 7 from rfl), BitVec.extractLsb'_append_extractLsb'_eq_extractLsb' (show 20 = 0 + 20 from rfl)]
  exact BitVec.extractLsb'_eq_self

/-! ### One slot -/

theorem fixedBits_eq_ok {b enc m : Body} {i j : Instr} : fixedBits b enc m i = .ok j ↔ enc = b ∧ i = j := by
  unfold fixedBits
  split
  · simp_all
  · split <;> simp_all

/-- The slot word of an instruction decodes to it, whatever its STOP bit. -/
theorem decodeSlot_slotWord {c : BitVec 4} {op : BitVec 7} {b : Body} {i : Instr} (st : Bool) (h : i.opBody = some (c, op, b)) :
    decodeSlot (slotWord st c op b) i.xpays = .ok i := by
  have hc : (slotWord st c op b).extractLsb' 27 4 = c := slotClass_slotWord st c op b
  simp only [decodeSlot, opcode_slotWord, body_slotWord, hc]
  cases i <;> cases h
  case loop o =>
    show (if o.toBody.getLsbD 8 then _ else fixedBits _ _ _ _) = _
    rw [o.toBody_bit8, if_neg Bool.false_ne_true]
    refine fixedBits_eq_ok.mpr ⟨?_, ?_⟩ <;> rw [show (Instr.loop o).xpays = o.xs from rfl, o.ofBody_toBody]
  case loopImm o xs =>
    show (if o.toBody.getLsbD 8 then fixedBits _ _ _ _ else _) = _
    rw [o.toBody_bit8, if_pos rfl]
    refine fixedBits_eq_ok.mpr ⟨?_, ?_⟩ <;> rw [o.ofBody_toBody]
    rfl
  all_goals
    show fixedBits _ _ _ _ = _
    refine fixedBits_eq_ok.mpr ⟨?_, ?_⟩ <;> simp <;> rfl

/-! #### What an opcode map answers has that opcode, and its operand bits -/

theorem decodeA_opBody {op : BitVec 7} {b : Body} {xs : List XPay} {i : Instr} (h : decodeA op b xs = .ok i) :
    i.opBody = some (0, op, b) ∧ i.isStep = false := by
  unfold decodeA at h
  split at h
  case h_31 => cases h
  all_goals
    obtain ⟨hb, rfl⟩ := fixedBits_eq_ok.mp h
    exact ⟨congrArg (fun b => some (_, _, b)) hb, rfl⟩

theorem decodeF_opBody {op : BitVec 7} {b : Body} {xs : List XPay} {i : Instr} (h : decodeF op b xs = .ok i) :
    i.opBody = some (1, op, b) ∧ i.isStep = false := by
  unfold decodeF at h
  split at h
  case h_9 => cases h
  all_goals
    obtain ⟨hb, rfl⟩ := fixedBits_eq_ok.mp h
    exact ⟨congrArg (fun b => some (_, _, b)) hb, rfl⟩

theorem decodeM_opBody {op : BitVec 7} {b : Body} {xs : List XPay} {i : Instr} (h : decodeM op b xs = .ok i) :
    i.opBody = some (2, op, b) ∧ i.isStep = false := by
  unfold decodeM at h
  split at h
  case h_39 => cases h
  all_goals
    obtain ⟨hb, rfl⟩ := fixedBits_eq_ok.mp h
    exact ⟨congrArg (fun b => some (_, _, b)) hb, rfl⟩

theorem decodeB_opBody {op : BitVec 7} {b : Body} {xs : List XPay} {i : Instr} (h : decodeB op b xs = .ok i) :
    i.opBody = some (3, op, b) ∧ i.isStep = false := by
  unfold decodeB at h
  split at h
  case h_5 =>
    split at h
    all_goals
      obtain ⟨hb, rfl⟩ := fixedBits_eq_ok.mp h
      exact ⟨congrArg (fun b => some (_, _, b)) hb, rfl⟩
  case h_13 => cases h
  all_goals
    obtain ⟨hb, rfl⟩ := fixedBits_eq_ok.mp h
    exact ⟨congrArg (fun b => some (_, _, b)) hb, rfl⟩

theorem decodeC_opBody {op : BitVec 7} {b : Body} {i : Instr} (h : decodeC op b = .ok i) :
    i.opBody = some (4, op, b) ∧ i.isStep = false := by
  unfold decodeC at h
  split at h
  case h_12 => cases h
  all_goals
    obtain ⟨hb, rfl⟩ := fixedBits_eq_ok.mp h
    exact ⟨congrArg (fun b => some (_, _, b)) hb, rfl⟩

theorem decodeE_opBody {op : BitVec 7} {b : Body} {i : Instr} (h : decodeE op b = .ok i) :
    i.opBody = some (5, op, b) ∧ i.isStep = false := by
  unfold decodeE at h
  split at h
  case h_6 => cases h
  all_goals
    obtain ⟨hb, rfl⟩ := fixedBits_eq_ok.mp h
    exact ⟨congrArg (fun b => some (_, _, b)) hb, rfl⟩

theorem decodeW_opBody {op : BitVec 7} {b : Body} {xs : List XPay} {i : Instr} (h : decodeW op b xs = .ok i) :
    i.opBody = some (6, op, b) ∧ i.isStep = false := by
  unfold decodeW at h
  split at h
  case h_62 => cases h
  all_goals
    obtain ⟨hb, rfl⟩ := fixedBits_eq_ok.mp h
    exact ⟨congrArg (fun b => some (_, _, b)) hb, rfl⟩

theorem decodeV_opBody {op : BitVec 7} {b : Body} {xs : List XPay} {i : Instr} (h : decodeV op b xs = .ok i) :
    i.opBody = some (7, op, b) ∧ i.isStep = false := by
  unfold decodeV at h
  split at h
  case h_22 => cases h
  all_goals
    obtain ⟨hb, rfl⟩ := fixedBits_eq_ok.mp h
    exact ⟨congrArg (fun b => some (_, _, b)) hb, rfl⟩

/-- A word that decodes is the slot word of what it decodes to, with its own STOP bit. -/
theorem slotWord_of_decodeSlot {w : SlotWord} {xs : List XPay} {i : Instr} (h : decodeSlot w xs = .ok i) :
    i.opBody = some (slotClass w, w.extractLsb' 20 7, w.extractLsb' 0 20) ∧ i.isStep = false := by
  rw [slotClass]
  unfold decodeSlot at h
  dsimp only at h
  split at h
  case h_1 hc => rw [hc]; exact decodeA_opBody h
  case h_2 hc => rw [hc]; exact decodeF_opBody h
  case h_3 hc => rw [hc]; exact decodeM_opBody h
  case h_4 hc => rw [hc]; exact decodeB_opBody h
  case h_5 hc => rw [hc]; exact decodeC_opBody h
  case h_6 hc => rw [hc]; exact decodeE_opBody h
  case h_7 hc => rw [hc]; exact decodeW_opBody h
  case h_8 hc => rw [hc]; exact decodeV_opBody h
  case h_9 => cases h
  case h_10 => cases h

/-! ### X slots, words and bytes -/

/-- The X slots of an instruction are taken back from its words, STOP ending the last one (R209). -/
theorem takeX_xWords (xs : List XPay) : takeX xs.isEmpty (xWords xs) = (xs, []) := by
  induction xs with
  | nil => rfl
  | cons x xs ih =>
    have hstop : slotStop (BitVec.ofBool xs.isEmpty ++ 8#4 ++ x) = xs.isEmpty := by
      simp -index only [slotStop, BitVec.getLsbD_append]; simp
    have hx : isXSlot (BitVec.ofBool xs.isEmpty ++ 8#4 ++ x) = true := by
      simp -index only [isXSlot, slotClass, BitVec.extractLsb'_append_eq_ite]; simp
    have hpay : (BitVec.ofBool xs.isEmpty ++ 8#4 ++ x : SlotWord).extractLsb' 0 27 = x := by
      simp -index only [BitVec.extractLsb'_append_eq_ite]; simp
    rw [xWords, List.isEmpty_cons, takeX, hx, hstop, ih, hpay]
    rfl

theorem wordsOfBytes_bytesOfWord (ws : List SlotWord) : wordsOfBytes (ws.flatMap bytesOfWord) = ws := by
  induction ws with
  | nil => rfl
  | cons w ws ih =>
    have hw : w.extractLsb' 24 8 ++ w.extractLsb' 16 8 ++ w.extractLsb' 8 8 ++ w.extractLsb' 0 8 = w := by
      rw [BitVec.extractLsb'_append_extractLsb'_eq_extractLsb' (show 24 = 16 + 8 from rfl),
        BitVec.extractLsb'_append_extractLsb'_eq_extractLsb' (show 16 = 8 + 8 from rfl), BitVec.extractLsb'_append_extractLsb'_eq_extractLsb' (show 8 = 0 + 8 from rfl)]
      exact BitVec.extractLsb'_eq_self
    rw [List.flatMap_cons, bytesOfWord, List.cons_append, List.cons_append, List.cons_append, List.cons_append, List.nil_append,
      wordsOfBytes, ih, hw]

/-- The instructions that have an encoding are those of a slot. -/
theorem opBody_isSome {i : Instr} (h : i.isStep = false) : ∃ c op b, i.opBody = some (c, op, b) := by
  cases i <;> first | exact ⟨_, _, _, rfl⟩ | cases h

theorem decodeWords_encode {i : Instr} (hi : i.isStep = false) (hx : i.xpays.length ≤ i.maxX) : decodeWords (encode i) = .ok (i, []) := by
  obtain ⟨c, op, b, h⟩ := opBody_isSome hi
  simp only [encode, h, decodeWords, slotStop_slotWord, takeX_xWords, decodeSlot_slotWord _ h, if_pos hx]

/-- Settles O2: each shape's fields are read back from its operand bits, so each opcode's row is inverted; the converse holds because
every row compares the bits it has read with the word's. -/
theorem decodingInvertsEncoding : Obligations.DecodingInvertsEncoding := by
  refine ⟨?_, ?_⟩
  · intro i hi hx
    have hw := decodeWords_encode hi hx
    refine ⟨hw, ?_⟩
    rw [decodeBytes, wordsOfBytes_bytesOfWord, hw]
  · intro w xs i h
    obtain ⟨hop, hi⟩ := slotWord_of_decodeSlot h
    exact ⟨_, _, _, hop, (slotWord_fields w).symm, hi⟩

end Sys2Proof
end

section
/-! PROOFS. Rules for the effect of an accepted instruction, and for two updates of one thread: what the proofs about single instructions
share (R16, R218, R408). -/

namespace Sys2Proof.Machine

/-! ### Two updates of one thread -/

theorem insertAt_insertAt {α : Type} (k : Nat) (v w : α) (m : SMap α) : insertAt k v (insertAt k w m) = insertAt k v m := by
  induction m with
  | nil => simp [insertAt]
  | cons e m ih =>
    obtain ⟨j, x⟩ := e
    simp only [insertAt]
    split
    · subst_vars; simp [insertAt]
    · split
      · simp [insertAt]
      · simp [insertAt, *]

theorem State.setSeq_setSeq (s : State) (u : Nat) (q r : Seq) : (s.setSeq u q).setSeq u r = s.setSeq u r := by
  simp only [State.setSeq, insertAt_insertAt]

/-- Two updates of one thread are one: a number past the last thread is updated by neither. -/
theorem State.updThread_updThread (s : State) (u t : Nat) (f g : Thread → Thread) :
    (s.updThread u t f).updThread u t g = s.updThread u t (fun th => g (f th)) := by
  have hq : (s.updThread u t f).seq u = (s.seq u).setThread t (f (s.thread u t)) := State.seq_setSeq_self _ _ _
  have hset : ∀ th, (s.updThread u t f).setThread u t th = s.setThread u t th := by
    intro th
    rw [State.setThread, hq, State.updThread, State.setThread, State.setSeq_setSeq, State.setThread]
    congr 1
    simp only [Seq.setThread, Vector.setIfInBounds_setIfInBounds]
  by_cases ht : t < 4
  · have hth : (s.updThread u t f).thread u t = f (s.thread u t) := by simp [State.thread_updThread, ht]
    rw [State.updThread, hth, hset]
    rfl
  · have hout : ∀ th, s.setThread u t th = s.setSeq u (s.seq u) := by
      intro th
      rw [State.setThread, Seq.setThread, Vector.setIfInBounds_eq_of_size_le (by omega)]
    rw [State.updThread, hset, hout, State.updThread, hout]

/-! ### An accepted instruction -/

/-- An accepted instruction whose slot commits: the commit applies to the state that has moved on, then the boundary. -/
theorem State.exec_commits {s : State} {i : Instr} {k : Commit} (hi : i.isStep = false) (h : s.accepts i = true)
    (hf : slotOf i (s.issuerOf i) s = .ok k) : exec i s = .next ((k (s.moved i)).boundary s.curUnit s.turnThread s.me.pc) := by
  rw [exec_slot hi, State.issueOne_commits h hf]

/-- The same where the commit leaves no trap pending. -/
theorem State.exec_plain {s : State} {i : Instr} {k : Commit} (hi : i.isStep = false) (h : s.accepts i = true)
    (hf : slotOf i (s.issuerOf i) s = .ok k) (ht : ((k (s.moved i)).thread s.curUnit s.turnThread).traps = []) :
    exec i s = .next (k (s.moved i)) := by
  rw [exec_slot hi, State.issueOne_plain h hf ht]

/-- An accepted instruction whose slot stops. -/
theorem State.exec_stops {s : State} {i : Instr} {e : Stop} (hi : i.isStep = false) (h : s.accepts i = true)
    (hf : slotOf i (s.issuerOf i) s = .error e) :
    exec i s = .next (s.stopAt s.curUnit s.turnThread s.me.pc 0 (classNum (headWord i)) e) := by
  rw [exec_slot hi, State.issueOne_stops h hf]

/-- An accepted instruction holds no reserved value (R429). -/
theorem State.accepts_reservedKind {s : State} {i : Instr} (h : s.accepts i = true) : i.reservedKind = none := by
  simp only [State.accepts, Bool.and_eq_true, List.isEmpty_iff, instrKinds, List.append_eq_nil_iff, Option.toList_eq_nil_iff] at h
  exact h.1.1.1.1.2

/-- The thread that issues is the one whose turn it is. -/
@[simp] theorem State.th_issuerOf (s : State) (i : Instr) : (s.issuerOf i).th s = s.me := rfl

/-- An accepted instruction whose slot commits one predicate. -/
theorem State.exec_writeP {s : State} {i : Instr} {d : BitVec 3} {v : Bool} (hi : i.isStep = false) (h : s.accepts i = true)
    (hf : slotOf i (s.issuerOf i) s = .ok ((s.issuerOf i).commit (fun th => th.setP d v))) :
    exec i s = .next (s.movedWith i (fun th => th.setP d v)) :=
  State.exec_thread hi h hf (fun th ht => (th.setP_traps d v).trans ht)

end Sys2Proof.Machine
end

section
/-! PROOFS. Compares, SEL and PLOG (R240, R241). -/

namespace Sys2Proof.Machine

/-- The row of R240 that a condition code names. -/
theorem intCond_eq {cond : BitVec 3} (h : cond ≠ 7) (a b : Word) : intCond cond a b =
    [decide (a = b), decide (a ≠ b), decide (a.toInt < b.toInt), decide (b.toInt ≤ a.toInt), decide (a.toNat < b.toNat),
      decide (b.toNat ≤ a.toNat), decide (a &&& b ≠ 0)].getD cond.toNat false := by
  have hn : cond.toNat < 7 := by
    have hne : cond.toNat ≠ 7 := fun e => h (BitVec.eq_of_toNat_eq e)
    omega
  simp only [intCond]
  generalize cond.toNat = n at hn
  match n, hn with
  | 0, _ => exact beq_eq_decide a b
  | 1, _ => simp [bne, beq_eq_decide]
  | 2, _ => simp [BitVec.slt_eq_decide]
  | 3, _ => simp only [BitVec.slt_eq_decide, ← not_lt, decide_not]; rfl
  | 4, _ => simp [BitVec.ult_eq_decide]
  | 5, _ => simp only [BitVec.ult_eq_decide, ← not_lt, decide_not]; rfl
  | 6, _ => simp [bne, beq_eq_decide]

/-- The row of R241 that an operation code names. -/
theorem predOp_eq (op : BitVec 3) (a b : Bool) : predOp op a b =
    [a && b, a || b, a != b, a && !b, a || !b, a == b, !(a && b), !(a || b)].getD op.toNat false := by
  have hn : op.toNat < 8 := op.isLt
  simp only [predOp]
  generalize op.toNat = n at hn
  match n, hn with
  | 0, _ | 1, _ | 3, _ | 4, _ | 6, _ | 7, _ => rfl
  | 2, _ | 5, _ => cases a <;> cases b <;> rfl

/-- Condition 7 is reserved (R240), so an accepted compare has another. -/
theorem State.accepts_cmp_cond {s : State} {o : RrrCond} (h : s.accepts (.cmp o) = true) : o.cond ≠ 7 := by
  have hk : firstKind [(o.cond == 7, 3)] = none := State.accepts_reservedKind h
  rintro e
  simp [firstKind_single, e] at hk
theorem State.accepts_cmpi_cond {s : State} {o : RiCond} {xs : List XPay} (h : s.accepts (.cmpi o xs) = true) : o.cond ≠ 7 := by
  have hk : firstKind [(o.cond == 7, 3)] = none := State.accepts_reservedKind h
  rintro e
  simp [firstKind_single, e] at hk

theorem State.exec_cmp {s : State} {o : RrrCond} (ha : s.me.fullX o.srcA = true) (hb : s.me.fullX o.srcB = true)
    (h : s.accepts (.cmp o) = true) :
    exec (.cmp o) s = .next (s.movedWith (.cmp o) (fun th => th.setP o.dst (intCond o.cond (s.me.getX o.srcA) (s.me.getX o.srcB)))) := by
  have hr : ready s.me [(o.srcA, o.ta), (o.srcB, o.tb)] [] = .ok () := ready_full (by simp [ha, hb]) (by simp)
  have hslot : slotOf (.cmp o) = slotCmp o := rfl
  apply State.exec_writeP rfl h
  simp only [hslot, slotCmp, State.th_issuerOf, hr]

theorem State.exec_cmpi {s : State} {o : RiCond} {xs : List XPay} (ha : s.me.fullX o.srcA = true) (h : s.accepts (.cmpi o xs) = true) :
    exec (.cmpi o xs) s =
      .next (s.movedWith (.cmpi o xs) (fun th => th.setP o.dst (intCond o.cond (s.me.getX o.srcA) (immediate o.imm xs)))) := by
  have hr : ready s.me [(o.srcA, o.ta)] [] = .ok () := ready_full (by simp [ha]) (by simp)
  have hslot : slotOf (.cmpi o xs) = slotCmpi o xs := rfl
  apply State.exec_writeP rfl h
  simp only [hslot, slotCmpi, State.th_issuerOf, hr]

theorem State.exec_sel {s : State} {o : RrrPred} (ha : s.me.fullX o.srcA = true) (hb : s.me.fullX o.srcB = true)
    (hd : s.me.fullX o.dst = true) (h : s.accepts (.sel o) = true) :
    exec (.sel o) s = .next (s.movedWith (.sel o) (fun th => th.setX o.dst
      (if s.me.getP o.sel = true then s.me.getX o.srcA else s.me.getX o.srcB))) := by
  have hr : ready s.me [(o.srcA, o.ta), (o.srcB, o.tb)] [o.dst] = .ok () := ready_full (by simp [ha, hb]) (by simp [hd])
  have hslot : slotOf (.sel o) = slotSel o := rfl
  apply State.exec_writeX rfl h
  simp only [hslot, slotSel, State.th_issuerOf, hr]
  rfl

/-- Settles O11: each instruction commits one register, whose value is the row of its table. -/
theorem comparesAndSelects : Obligations.ComparesAndSelects := by
  refine ⟨?_, ?_, ?_, ?_⟩
  · rintro s o _ _ rfl rfl ha hb h
    rw [State.exec_cmp ha hb h, intCond_eq (State.accepts_cmp_cond h)]
  · rintro s o xs _ b rfl hb ha h
    have himm : immediate o.imm xs = b := hb.symm
    rw [State.exec_cmpi ha h, himm, intCond_eq (State.accepts_cmpi_cond h)]
  · intro s o ha hb hd h
    exact State.exec_sel ha hb hd h
  · rintro s o _ _ rfl rfl h
    rw [← predOp_eq]
    exact State.exec_writeP rfl h rfl

end Sys2Proof.Machine
end

section
/-! PROOFS. The F class: arithmetic, compares and conversions (R244 to R247, R433). -/

namespace Sys2Proof.Machine

/-- An accepted instruction that changes its thread and raises flags: they are raised in the cycle of its commit, and an enabled one's
trap is taken at the boundary (R433). -/
theorem State.exec_raise {s : State} {i : Instr} {cls : Nat} {f : Thread → Thread} {fl : BitVec 8} (hi : i.isStep = false)
    (h : s.accepts i = true)
    (hf : slotOf i (s.issuerOf i) s = .ok (fun s' => (s.issuerOf i).raise cls fl ((s.issuerOf i).commit f s'))) :
    exec i s = .next ((s.movedWith i (fun th => (f th).raiseOwn (s.cycles s.curUnit) fl cls 0)).boundary s.curUnit s.turnThread s.me.pc) := by
  rw [State.exec_commits hi h hf]
  show Host.Outcome.next (((((s.moved i).updThread s.curUnit s.turnThread f).updThread s.curUnit s.turnThread _).boundary _ _ _)) = _
  rw [State.updThread_updThread]
  rfl

/-- The FP32 code of an x register is its low 32 bits (R244). -/
theorem fpSource_eq (v : Word) : fpSource v = v.toNat % 2 ^ 32 := BitVec.toNat_setWidth 32 v

/-- Operands none of which is a verdict word do not trap (R434). -/
theorem verdictTrap_ok {rs : List (BitVec 5 × Nat)} (h : ∀ r ∈ rs, fp32.verdict r.2 = none) : verdictTrap rs = .ok () := by
  have hfind : rs.find? (fun r => (fp32.verdict r.2).isSome) = none := by
    rw [List.find?_eq_none]
    intro r hr
    simp [h r hr]
  rw [verdictTrap, hfind]

/-- A two-operand F instruction with full operands that are no verdict words writes its rounded result and raises its flags. -/
theorem State.exec_fp {s : State} {i : Instr} {dst srcA srcB : BitVec 5} {ta tb : Bool} {f : Nat → Nat → Rounded} (hi : i.isStep = false)
    (hslot : slotOf i = slotFp dst srcA srcB ta tb f) (ha : s.me.fullX srcA = true) (hb : s.me.fullX srcB = true)
    (hd : s.me.fullX dst = true) (hva : fp32.verdict (fpSource (s.me.getX srcA)) = none)
    (hvb : fp32.verdict (fpSource (s.me.getX srcB)) = none) (h : s.accepts i = true) :
    exec i s = .next ((s.movedWith i (fun th =>
      (th.setX dst (BitVec.ofNat 64 (f (fpSource (s.me.getX srcA)) (fpSource (s.me.getX srcB))).1)).raiseOwn (s.cycles s.curUnit)
        (f (fpSource (s.me.getX srcA)) (fpSource (s.me.getX srcB))).2 1 0)).boundary s.curUnit s.turnThread s.me.pc) := by
  have hr : ready s.me [(srcA, ta), (srcB, tb)] [dst] = .ok () := ready_full (by simp [ha, hb]) (by simp [hd])
  have hv : verdictTrap [(srcA, fpSource (s.me.getX srcA)), (srcB, fpSource (s.me.getX srcB))] = .ok () :=
    verdictTrap_ok (by simp [hva, hvb])
  apply State.exec_raise hi h
  simp only [hslot, slotFp, State.th_issuerOf, hr, hv]
  rfl

/-- FMA reads its destination as the addend (R245). -/
theorem State.exec_fma {s : State} {o : RrrRound} (ha : s.me.fullX o.srcA = true) (hb : s.me.fullX o.srcB = true)
    (hd : s.me.fullX o.dst = true) (hva : fp32.verdict (fpSource (s.me.getX o.srcA)) = none)
    (hvb : fp32.verdict (fpSource (s.me.getX o.srcB)) = none) (hvd : fp32.verdict (fpSource (s.me.getX o.dst)) = none)
    (h : s.accepts (.fma o) = true) :
    let r := fpFma fp32 o.rnd.toNat 0 (fpSource (s.me.getX o.srcA)) (fpSource (s.me.getX o.srcB)) (fpSource (s.me.getX o.dst))
    exec (.fma o) s = .next ((s.movedWith (.fma o) (fun th => (th.setX o.dst (BitVec.ofNat 64 r.1)).raiseOwn (s.cycles s.curUnit) r.2 1 0)).boundary
      s.curUnit s.turnThread s.me.pc) := by
  have hr : ready s.me [(o.srcA, o.ta), (o.srcB, o.tb), (o.dst, false)] [o.dst] = .ok () := ready_full (by simp [ha, hb, hd]) (by simp [hd])
  have hv : verdictTrap [(o.srcA, fpSource (s.me.getX o.srcA)), (o.srcB, fpSource (s.me.getX o.srcB)), (o.dst, fpSource (s.me.getX o.dst))] =
    .ok () := verdictTrap_ok (by simp [hva, hvb, hvd])
  have hslot : slotOf (.fma o) = slotFma o := rfl
  apply State.exec_raise rfl h
  simp only [hslot, slotFma, State.th_issuerOf, hr, hv]
  rfl

/-- Settles O13: five instructions are the slot of two operands, FMA has one more. -/
theorem scalarFloatResults : Obligations.ScalarFloatResults := by
  intro s dst srcA srcB ta tb rnd ha hb hd
  simp only [← fpSource_eq, List.forall_mem_cons]
  intro hva hvb
  have run {i : Instr} {f : Nat → Nat → Rounded} (hi : i.isStep = false) (hslot : slotOf i = slotFp dst srcA srcB ta tb f) :=
    State.exec_fp hi hslot ha hb hd hva hvb
  exact ⟨fun _ => run rfl rfl, fun _ => run rfl rfl, fun _ => run rfl rfl,
    fun hvd => State.exec_fma (o := ⟨dst, srcA, srcB, ta, tb, rnd⟩) ha hb hd hva hvb (hvd trivial),
    fun _ => run rfl rfl, fun _ => run rfl rfl, List.forall_mem_nil _⟩

theorem State.exec_fcmp {s : State} {o : RrrCond} (ha : s.me.fullX o.srcA = true) (hb : s.me.fullX o.srcB = true)
    (hva : fp32.verdict (fpSource (s.me.getX o.srcA)) = none) (hvb : fp32.verdict (fpSource (s.me.getX o.srcB)) = none)
    (h : s.accepts (.fcmp o) = true) :
    let r := fpCompare fp32 o.cond.toNat (fpSource (s.me.getX o.srcA)) (fpSource (s.me.getX o.srcB))
    exec (.fcmp o) s = .next ((s.movedWith (.fcmp o) (fun th => (th.setP o.dst r.1).raiseOwn (s.cycles s.curUnit) r.2 1 0)).boundary
      s.curUnit s.turnThread s.me.pc) := by
  have hr : ready s.me [(o.srcA, o.ta), (o.srcB, o.tb)] [] = .ok () := ready_full (by simp [ha, hb]) (by simp)
  have hv : verdictTrap [(o.srcA, fpSource (s.me.getX o.srcA)), (o.srcB, fpSource (s.me.getX o.srcB))] = .ok () :=
    verdictTrap_ok (by simp [hva, hvb])
  have hslot : slotOf (.fcmp o) = slotFcmp o := rfl
  apply State.exec_raise rfl h
  simp only [hslot, slotFcmp, State.th_issuerOf, hr, hv]

theorem State.exec_fcvt {s : State} {o : RrRound} {x : XPay} (ha : s.me.fullX o.srcA = true) (hd : s.me.fullX o.dst = true)
    (hv : verdictMisuse (fcvtSrc x) (fcvtDst x) ((s.me.getX o.srcA).toNat % 2 ^ fmtWidth (fcvtSrc x)) = false)
    (h : s.accepts (.fcvt o [x]) = true) :
    let r := convertElem (fcvtSrc x) (fcvtDst x) o.rnd.toNat 0 0 ((s.me.getX o.srcA).toNat % 2 ^ fmtWidth (fcvtSrc x))
    exec (.fcvt o [x]) s = .next ((s.movedWith (.fcvt o [x]) (fun th =>
      (th.setX o.dst (fcvtPlace (fcvtDst x) r.1)).raiseOwn (s.cycles s.curUnit) r.2 1 0)).boundary s.curUnit s.turnThread s.me.pc) := by
  have hr : ready s.me [(o.srcA, o.ta)] [o.dst] = .ok () := ready_full (by simp [ha]) (by simp [hd])
  have hslot : slotOf (.fcvt o [x]) = slotFcvt o [x] := rfl
  apply State.exec_raise rfl h
  simp only [hslot, slotFcvt, State.th_issuerOf, hr, List.headD_cons, hv, Bool.false_eq_true, if_false]
  rfl

/-- With a NaN operand condition UN alone holds (R246). -/
theorem fpCompare_of_isNaN {F : FloatFmt} {a b cond : Nat} (h : F.isNaN a = true ∨ F.isNaN b = true) (hc : cond < 4) :
    (fpCompare F cond a b).1 = true ↔ cond = 3 := by
  have hnan : (F.isNaN a || F.isNaN b) = true := by simpa using h
  match cond, hc with
  | 0, _ | 1, _ | 2, _ | 3, _ => simp [fpCompare, hnan]

/-- Settles O14: the two instructions commit their results with flags; a NaN and the zeros are read off the conditions. -/
theorem scalarFloatComparesAndConversions : Obligations.ScalarFloatComparesAndConversions := by
  refine ⟨⟨?_, ?_⟩, ?_, by decide, by decide⟩
  · intro s o ha hb
    simp only [← fpSource_eq]
    intro hva hvb h
    exact State.exec_fcmp ha hb hva hvb h
  · intro s o x ha hd _ _ _ hv h
    exact State.exec_fcvt ha hd hv h
  · intro a b cond hnan hc _ _
    exact fpCompare_of_isNaN hnan hc

end Sys2Proof.Machine
end

section
/-! PROOFS. What a walk of the page tables and a request on its way leave alone (R131, R144 to R148, R159, R191, R391). -/

namespace Sys2Proof.Machine

/-- The state without what a walk or a request's way to its home may change: translation buffers, lines and slices, requests and
their numbers, flits, the packets that a store may post, and the tag tables. -/
def State.still (s : State) : State :=
  { s with seqs := [], dieTlb := [], cores := [], lines := [], slices := [], copyQ := [], taskQ := [], reqs := [], flitTx := [], output := [],
           nextId := 0, latent := [], unfixable := [], corrected := 0 }

/-- A fold whose steps keep a value of the state keeps it. -/
theorem foldl_keeps {σ α β : Type} {g : σ → β} {f : σ → α → σ} (h : ∀ s a, g (f s a) = g s) (l : List α) (s : σ) :
    g (l.foldl f s) = g s := by
  induction l generalizing s with
  | nil => rfl
  | cons a l ih => rw [List.foldl_cons, ih, h]

/-! ### Fields that the state keeps where it keeps its still part -/

section
variable {s t : State} (h : t.still = s.still)
include h

theorem State.mem_of_still : t.mem = s.mem := by
  change t.still.mem = s.still.mem; rw [h]
theorem State.channels_of_still : t.channels = s.channels := by
  change t.still.channels = s.still.channels; rw [h]
theorem State.parts_of_still : t.parts = s.parts := by
  change t.still.parts = s.still.parts; rw [h]
theorem State.keys_of_still : t.keys = s.keys := by
  change t.still.keys = s.still.keys; rw [h]
theorem State.islands_of_still : t.islands = s.islands := by
  change t.still.islands = s.still.islands; rw [h]
theorem State.gangs_of_still : t.gangs = s.gangs := by
  change t.still.gangs = s.still.gangs; rw [h]
theorem State.tasks_of_still : t.tasks = s.tasks := by
  change t.still.tasks = s.still.tasks; rw [h]
theorem State.launches_of_still : t.launches = s.launches := by
  change t.still.launches = s.still.launches; rw [h]
theorem State.now_of_still : t.now = s.now := by
  change t.still.now = s.still.now; rw [h]
theorem State.modreg_of_still : t.modreg = s.modreg := by
  change t.still.modreg = s.still.modreg; rw [h]
theorem State.agenda_of_still : t.agenda = s.agenda := by
  change t.still.agenda = s.still.agenda; rw [h]
theorem State.curUnit_of_still : t.curUnit = s.curUnit := by
  change t.still.curUnit = s.still.curUnit; rw [h]

theorem State.cycles_of_still (u : Nat) : t.cycles u = s.cycles u := by
  simp only [State.cycles, State.island, State.islands_of_still h, State.now_of_still h]

end

/-! ### Sequencers whose threads are the same -/

/-- Two states hold the same threads. -/
theorem State.thread_of_seqs {s t : State} (h : t.seqs = s.seqs) (v m : Nat) : t.thread v m = s.thread v m := by
  simp only [State.thread, State.seq, h]

theorem State.thread_setSeq (s : State) (u v m : Nat) (q : Seq) :
    (s.setSeq u q).thread v m = if v = u then q.threads.getD m Thread.reset else s.thread v m := by
  split
  · subst_vars; simp [State.thread]
  · simp [State.thread, State.seq_setSeq_ne s ‹_›]

/-! ### Walks -/

@[simp] theorem State.still_writtenBack (s : State) (l : Nat) : (s.writtenBack l).still = s.still := by
  unfold State.writtenBack; split <;> rfl
@[simp] theorem State.seqs_writtenBack (s : State) (l : Nat) : (s.writtenBack l).seqs = s.seqs := by
  unfold State.writtenBack; split <;> rfl
@[simp] theorem State.still_filled (s : State) (l : Nat) : (s.filled l).still = s.still := by
  simp only [State.filled]; split <;> split <;> rfl
@[simp] theorem State.seqs_filled (s : State) (l : Nat) : (s.filled l).seqs = s.seqs := by
  simp only [State.filled]; split <;> split <;> rfl

@[simp] theorem State.still_setSlice (s : State) (i : Nat) (c : Slice) : (s.setSlice i c).still = s.still := rfl

theorem State.touch_keeps {β : Type} (g : State → β) (hs : ∀ s i c, g (State.setSlice s i c) = g s) (hw : ∀ s l, g (State.writtenBack s l) = g s)
    (hf : ∀ s l, g (State.filled s l) = g s) (s : State) (k : Key) (cls : Nat) (always write : Bool) (pa : Nat) :
    g (s.touch k cls always write pa).2 = g s := by
  unfold State.touch
  dsimp only
  split
  · exact hs _ _ _
  · split
    · rw [hs]
      split
      · split
        · rw [hw, hf]
        · exact hf _ _
      · exact hf _ _
    · split
      · split
        · rw [hw, hf]
        · exact hf _ _
      · rw [hs]
        split
        · rw [hw, hf]
        · exact hf _ _

@[simp] theorem State.still_touch (s : State) (k : Key) (cls : Nat) (always write : Bool) (pa : Nat) :
    (s.touch k cls always write pa).2.still = s.still :=
  State.touch_keeps State.still (fun _ _ _ => rfl) State.still_writtenBack State.still_filled s k cls always write pa
@[simp] theorem State.seqs_touch (s : State) (k : Key) (cls : Nat) (always write : Bool) (pa : Nat) :
    (s.touch k cls always write pa).2.seqs = s.seqs :=
  State.touch_keeps State.seqs (fun _ _ _ => rfl) State.seqs_writtenBack State.seqs_filled s k cls always write pa

@[simp] theorem State.still_holdPage (s : State) (u : Nat) (e : TlbEntry) : (s.holdPage u e).still = s.still := by
  unfold State.holdPage; dsimp only; split
  · rfl
  · split <;> rfl
@[simp] theorem State.thread_holdPage (s : State) (u v m : Nat) (e : TlbEntry) : (s.holdPage u e).thread v m = s.thread v m := by
  unfold State.holdPage; dsimp only; split
  · rw [State.thread_setSeq]
    split
    · subst_vars; rfl
    · rfl
  · split <;> rfl

@[simp] theorem State.still_walkInto (s : State) (u p va : Nat) : (s.walkInto u p va).still = s.still := by
  have hfold : ∀ l : List Nat, (l.foldl (fun s pa => (State.touch s (s.keyFor p 0 0) 0 true false pa).2) s).still = s.still :=
    fun l => foldl_keeps (fun _ _ => State.still_touch _ _ _ _ _ _) l s
  unfold State.walkInto; dsimp only; split
  · exact hfold _
  · rw [State.still_holdPage]; exact hfold _
@[simp] theorem State.thread_walkInto (s : State) (u p va v m : Nat) : (s.walkInto u p va).thread v m = s.thread v m := by
  have hfold : ∀ l : List Nat, (l.foldl (fun s pa => (State.touch s (s.keyFor p 0 0) 0 true false pa).2) s).seqs = s.seqs :=
    fun l => foldl_keeps (fun _ _ => State.seqs_touch _ _ _ _ _ _) l s
  unfold State.walkInto; dsimp only; split
  · exact State.thread_of_seqs (hfold _) v m
  · rw [State.thread_holdPage]; exact State.thread_of_seqs (hfold _) v m

@[simp] theorem State.still_walked (s : State) (u p va : Nat) : (s.walked u p va).still = s.still := by
  unfold State.walked; split <;> simp
@[simp] theorem State.thread_walked (s : State) (u p va v m : Nat) : (s.walked u p va).thread v m = s.thread v m := by
  unfold State.walked; split <;> simp

/-! ### A request on its way -/

@[simp] theorem State.still_updCore (s : State) (n : Nat) (f : CoreArr → CoreArr) : (s.updCore n f).still = s.still := rfl
@[simp] theorem State.still_pushReq (s : State) (r : Req) : (s.pushReq r).still = s.still := rfl
@[simp] theorem State.still_dropReq (s : State) (i : Nat) : (s.dropReq i).still = s.still := rfl
@[simp] theorem State.still_updReq (s : State) (i : Nat) (f : Req → Req) : (s.updReq i f).still = s.still := rfl

@[simp] theorem State.still_evicted (s : State) (core slot id : Nat) : (s.evicted core slot id).still = s.still := by
  unfold State.evicted; dsimp only
  exact foldl_keeps (g := State.still) (f := fun s (r : Req) => s.updCore core fun k => k.startFill slot (r.va / 128)) (fun _ _ => rfl) _ _
@[simp] theorem State.seqs_evicted (s : State) (core slot id : Nat) : (s.evicted core slot id).seqs = s.seqs := by
  unfold State.evicted; dsimp only
  exact foldl_keeps (g := State.seqs) (f := fun s (r : Req) => s.updCore core fun k => k.startFill slot (r.va / 128)) (fun _ _ => rfl) _ _

@[simp] theorem State.still_sendFlit (s : State) (p : Nat) (f : Flit) : (s.sendFlit p f).still = s.still := by
  unfold State.sendFlit; split <;> rfl
@[simp] theorem State.seqs_sendFlit (s : State) (p : Nat) (f : Flit) : (s.sendFlit p f).seqs = s.seqs := by
  unfold State.sendFlit; split <;> rfl
@[simp] theorem State.still_notePosts (s : State) (r : Req) (ps : List (Nat × Nat)) : (s.notePosts r ps).still = s.still := by
  unfold State.notePosts; dsimp only; split <;> rfl
@[simp] theorem State.seqs_notePosts (s : State) (r : Req) (ps : List (Nat × Nat)) : (s.notePosts r ps).seqs = s.seqs := by
  unfold State.notePosts; dsimp only; split <;> rfl

/-- The slot of a tag table that an EVICT names where the slot is not dirty: the request has nothing to write then (R143). -/
def State.cleanSlot (s : State) (r : Req) : Option Nat :=
  match r.op with | .evict slot => if tagD ((s.core r.by_.unit).tag slot) then none else some slot | _ => none

theorem State.sendOne_eq (s : State) (r : Req) : s.sendOne r =
    if r.status ≠ .waiting then s
    else if (s.cleanSlot r).isNone && moduleOf r.pa = s.modreg.toNat % 1024 then s
    else if !s.inOrder r then s
    else match s.cleanSlot r with
      | some slot => (s.evicted r.by_.unit slot r.id).dropReq r.id
      | none => match s.routePort r.part (moduleOf r.pa) with
        | none => s.updReq r.id (fun q => { q with status := .served s.now (.fail 0x81 0) })
        | some _ => ((s.sendFlit r.part (s.flitOf r)).updReq r.id (fun q => { q with status := .sent s.cc })).notePosts r r.writes := rfl

theorem State.sendOne_keeps {β : Type} (g : State → β) (he : ∀ s c sl i, g (State.evicted s c sl i) = g s) (hd : ∀ s i, g (State.dropReq s i) = g s)
    (hu : ∀ s i f, g (State.updReq s i f) = g s) (hf : ∀ s p f, g (State.sendFlit s p f) = g s)
    (hn : ∀ s r ps, g (State.notePosts s r ps) = g s) (s : State) (r : Req) : g (s.sendOne r) = g s := by
  rw [State.sendOne_eq]
  split
  · rfl
  · split
    · rfl
    · split
      · rfl
      · split
        · rw [hd, he]
        · split
          · exact hu _ _ _
          · rw [hn, hu, hf]

@[simp] theorem State.still_sendOne (s : State) (r : Req) : (s.sendOne r).still = s.still :=
  State.sendOne_keeps State.still State.still_evicted State.still_dropReq State.still_updReq State.still_sendFlit State.still_notePosts s r
@[simp] theorem State.seqs_sendOne (s : State) (r : Req) : (s.sendOne r).seqs = s.seqs :=
  State.sendOne_keeps State.seqs State.seqs_evicted (fun _ _ => rfl) (fun _ _ _ => rfl) State.seqs_sendFlit State.seqs_notePosts s r

@[simp] theorem State.still_sendReady (s : State) : s.sendReady.still = s.still := foldl_keeps State.still_sendOne s.reqs s
@[simp] theorem State.seqs_sendReady (s : State) : s.sendReady.seqs = s.seqs := foldl_keeps State.seqs_sendOne s.reqs s

@[simp] theorem State.still_submit (s : State) (r : Req) : (s.submit r).still = s.still := by
  rw [State.submit, State.still_sendReady, State.still_pushReq, State.still_walked]
@[simp] theorem State.thread_submit (s : State) (r : Req) (v m : Nat) : (s.submit r).thread v m = s.thread v m := by
  have hsend : (s.submit r).seqs = (s.walked (tlbUnit r.by_) r.part r.va).seqs := State.seqs_sendReady _
  rw [State.thread_of_seqs hsend, State.thread_walked]

end Sys2Proof.Machine
end

section
/-! PROOFS. Loads, stores, atomics and the other accesses of the M class as they issue (R191, R248 to R259, R455). -/

namespace Sys2Proof.Machine

/-! ### The thread that has moved on -/

theorem Thread.advance_keeps {β : Type} (f : Thread → β) (h : ∀ (th : Thread) p l, f { th with pc := p, loop := l } = f th) (th : Thread)
    (n : Word) : f (th.advance n) = f th := by
  have hpc : ∀ p, f { th with pc := p } = f th := fun p => h th p th.loop
  unfold Thread.advance
  split
  · exact hpc n
  · split
    · exact h _ _ _
    · split
      · exact h _ _ _
      · split <;> exact h _ _ _

/-- Moving on changes of a thread its place alone: whom it has yielded to, until when it is occupied, its PC and its loop. -/
theorem State.moved_keeps {β : Type} (f : Thread → β)
    (h : ∀ (th : Thread) p l ys w, f { th with pc := p, loop := l, yielded := ys, waitUntil := w } = f th)
    (s : State) (i : Instr) (v m : Nat) : f ((s.moved i).thread v m) = f (s.thread v m) := by
  obtain ⟨ys, w, hb⟩ := s.thread_bundleIssued s.curUnit s.turnThread (max 1 (slotCycles i)) 1 v m
  have hf : f ((s.bundleIssued s.curUnit s.turnThread (max 1 (slotCycles i)) 1).thread v m) = f (s.thread v m) := by
    rw [hb]; exact h _ _ _ _ _
  rw [State.moved, State.thread_updThread]
  split
  next hc =>
    obtain ⟨rfl, rfl, -⟩ := hc
    rw [Thread.advance_keeps f (fun th p l => h th p l th.yielded th.waitUntil), hf]
  next => exact hf

theorem State.moved_checkScope (s : State) (i : Instr) (g : Target) (own : Option Nat) (pairs : Bool) :
    (s.moved i).checkScope s.curUnit s.turnThread g own pairs = s.checkScope s.curUnit s.turnThread g own pairs := by
  have hpair := State.moved_keeps Thread.fencePair (fun _ _ _ _ _ => rfl) s i s.curUnit s.turnThread
  have howner := State.moved_keeps Thread.owner (fun _ _ _ _ _ => rfl) s i s.curUnit s.turnThread
  simp only [State.checkScope, hpair, howner]
  rfl

/-! ### Addresses (R248, R455) -/

theorem State.scratchOf_some {s : State} {g : Target} {core off : Nat} (h : s.scratchOf g = some (core, off)) :
    s.isLocal g = true ∧ locate (localOf g.pa) = .scratch core off := by
  unfold State.scratchOf at h
  split at h
  next hl =>
    split at h
    next n o hloc =>
      obtain ⟨rfl, rfl⟩ := Prod.mk.inj (Option.some.inj h)
      exact ⟨hl, hloc⟩
    next => cases h
  next => cases h

theorem State.outside_of_mayName {s : State} {u : Nat} {o : Owner} {g : Target} {core off : Nat} (h : s.scratchOf g = some (core, off))
    (hm : s.mayName u o core = true) : s.outside u o g = false := by
  obtain ⟨hl, hloc⟩ := State.scratchOf_some h
  have hl' : (moduleOf g.pa == s.modreg.toNat % 1024) = true := hl
  simp [State.outside, hloc, hl', hm]

theorem Issuer.address_ok {c : Issuer} {s : State} {va n : Nat} {k : Access} {g : Target}
    (ht : s.translate (c.part s) c.unit va k = .ok g) (ha : va % n = 0) (ho : s.outside c.unit (c.th s).owner g = false) :
    c.address s va n k = .ok g := by
  simp [Issuer.address, Issuer.aligned, ht, ha, ho]

theorem Issuer.address_misaligned {c : Issuer} {s : State} {va n : Nat} {k : Access} {g : Target}
    (ht : s.translate (c.part s) c.unit va k = .ok g) (ha : va % n ≠ 0) : c.address s va n k = .error (.xlate 0x47 va 0) := by
  simp [Issuer.address, Issuer.aligned, ht, ha]

theorem Issuer.address_outside {c : Issuer} {s : State} {va n : Nat} {k : Access} {g : Target}
    (ht : s.translate (c.part s) c.unit va k = .ok g) (ha : va % n = 0) (ho : s.outside c.unit (c.th s).owner g = true) :
    c.address s va n k = .error (.xlate 0x49 va (detailStatus 0)) := by
  simp [Issuer.address, Issuer.aligned, ht, ha, ho]

theorem Issuer.scratch_ok {c : Issuer} {s : State} {va n core off : Nat} {k : Access} {g : Target}
    (ht : s.translate (c.part s) c.unit va k = .ok g) (ha : va % n = 0) (hs : s.scratchOf g = some (core, off))
    (hm : s.mayName c.unit (c.th s).owner core = true) : c.scratch s va n k = .ok (core, off, g) := by
  simp [Issuer.scratch, Issuer.address_ok ht ha (State.outside_of_mayName hs hm), hs]

/-! ### An access that issues -/

/-- An accepted instruction whose commit empties at most registers of its thread and sends one access. -/
theorem State.exec_access {s : State} {i : Instr} {f : Thread → Thread} {g : Target} {own : Option Nat} {r : Req} (hi : i.isStep = false)
    (h : s.accepts i = true) (hf : slotOf i (s.issuerOf i) s = .ok ((s.issuerOf i).access f g own r))
    (ht : ∀ th : Thread, (f th).traps = th.traps) :
    exec i s = .next ((s.movedWith i (fun th => (f th).pairDone g)).submit
      { r with check := s.checkScope s.curUnit s.turnThread g own true }) := by
  have hk : (s.issuerOf i).access f g own r (s.moved i) = (s.movedWith i (fun th => (f th).pairDone g)).submit
      { r with check := s.checkScope s.curUnit s.turnThread g own true } := by
    rw [← State.moved_checkScope s i]; rfl
  rw [State.exec_plain hi h hf, hk]
  rw [hk, State.thread_submit, State.movedWith, State.thread_updThread]
  split
  · rw [Thread.pairDone_traps, ht, State.moved_traps h]
  · exact State.moved_traps h

theorem State.checkScope_scratch {s : State} {u t core off : Nat} {g : Target} (own : Option Nat) (pairs : Bool)
    (h : s.scratchOf g = some (core, off)) : s.checkScope u t g own pairs = none := by
  simp [State.checkScope, (State.scratchOf_some h).2]

/-- The same of an access of a scratchpad, which is checked at no scope. -/
theorem State.exec_scratchAccess {s : State} {i : Instr} {f : Thread → Thread} {g : Target} {r : Req} {core off : Nat} (hi : i.isStep = false)
    (h : s.accepts i = true) (hs : s.scratchOf g = some (core, off)) (hr : r.check = none)
    (hf : slotOf i (s.issuerOf i) s = .ok ((s.issuerOf i).access f g none r)) (ht : ∀ th : Thread, (f th).traps = th.traps) :
    exec i s = .next ((s.movedWith i (fun th => (f th).pairDone g)).submit r) := by
  rw [State.exec_access hi h hf ht, State.checkScope_scratch none true hs, ← hr]

/-! ### Loads -/

section
variable {s : State} {i : Instr} {o : LoadOps} {xs : List XPay} {g : Target}

theorem slotLd_address {e : Except Stop Target} (hb : s.me.fullX o.base = true) (hd : s.me.fullX o.reg = true)
    (ha : (s.issuerOf i).address s (eaM (s.me.getX o.base) o.off xs o.size).toNat (sizeBytes o.size) .read = e) :
    slotLd o xs (s.issuerOf i) s = e.map (fun g => (s.issuerOf i).loadCommit o.reg g none
      ((s.issuerOf i).request s 2 (eaM (s.me.getX o.base) o.off xs o.size).toNat (sizeBytes o.size) g
        (.load o.reg.toNat))) := by
  have hr : ready s.me [(o.base, o.tb)] [o.reg] = .ok () := ready_full (by simp [hb]) (by simp [hd])
  subst ha
  simp only [slotLd, State.th_issuerOf, hr]
  split <;> simp_all [Except.map]

theorem slotLda_ok {o : AcqOps} (hb : s.me.fullX o.base = true) (hd : s.me.fullX o.reg = true)
    (ha : (s.issuerOf i).address s (eaMS (s.me.getX o.base) xs o.size).toNat (sizeBytes o.size) .read = .ok g) :
    slotLda o xs (s.issuerOf i) s = .ok ((s.issuerOf i).access (fun th => th.emptyX o.reg) g (some o.scope.toNat)
      { (s.issuerOf i).request s 2 (eaMS (s.me.getX o.base) xs o.size).toNat (sizeBytes o.size) g (.load o.reg.toNat) with acquire := true }) := by
  have hr : ready s.me [(o.base, o.tb)] [o.reg] = .ok () := ready_full (by simp [hb]) (by simp [hd])
  simp only [slotLda, State.th_issuerOf, hr, ha]
  rfl

theorem slotLdeBase_ok {clear : Bool} {core off : Nat} (hb : s.me.fullX o.base = true) (hd : s.me.fullX o.reg = true)
    (ht : s.translate ((s.partOfUnit s.curUnit).getD 0) s.curUnit
      (eaM (s.me.getX o.base) o.off xs o.size).toNat .read = .ok g)
    (ha : (eaM (s.me.getX o.base) o.off xs o.size).toNat % sizeBytes o.size = 0)
    (hs : s.scratchOf g = some (core, off)) (hm : s.mayName s.curUnit s.me.owner core = true)
    (hfull : core = s.curUnit → (s.core core).granuleFull off = true) :
    slotLdeBase o xs clear (s.issuerOf i) s = .ok ((s.issuerOf i).loadCommit o.reg g none
      ((s.issuerOf i).request s 2 (eaM (s.me.getX o.base) o.off xs o.size).toNat (sizeBytes o.size) g
        (.lde o.reg.toNat clear))) := by
  have hr : ready s.me [(o.base, o.tb)] [o.reg] = .ok () := ready_full (by simp [hb]) (by simp [hd])
  have hsc := Issuer.scratch_ok (c := s.issuerOf i) ht ha hs hm
  have hown : s.ownEmpty ((s.issuerOf i).part s) (s.issuerOf i).unit
      (eaM (s.me.getX o.base) o.off xs o.size).toNat = false := by
    have ht' : s.translate ((s.issuerOf i).part s) (s.issuerOf i).unit _ .read = .ok g := ht
    simp only [State.ownEmpty, ht', hs]
    by_cases hc : core = s.curUnit
    · simp [hfull hc]
    · have : (core == (s.issuerOf i).unit) = false := beq_eq_false_iff_ne.mpr hc
      simp [this]
  simp only [slotLdeBase, State.th_issuerOf, hr, hown, hsc]
  rfl

end

/-- Settles O15: each load is ready, its address is accepted, and its commit sends one request. -/
theorem loadsEnterTheIssueOrder : Obligations.LoadsEnterTheIssueOrder := by
  unfold Obligations.LoadsEnterTheIssueOrder
  refine ⟨?_, ?_⟩
  · intro s o xs g n ea hb hd ht ha
    refine ⟨fun ho h => ?_, fun core off hs hm hfull => ⟨fun h => ?_, fun h => ?_⟩⟩
    · exact State.exec_access rfl h (slotLd_address hb hd (Issuer.address_ok ht ha ho)) (fun th => Thread.emptyX_traps th _)
    · exact State.exec_scratchAccess rfl h hs rfl (slotLdeBase_ok hb hd ht ha hs hm hfull) (fun th => Thread.emptyX_traps th _)
    · exact State.exec_scratchAccess rfl h hs rfl (slotLdeBase_ok hb hd ht ha hs hm hfull) (fun th => Thread.emptyX_traps th _)
  · intro s o xs g n ea hb hd ht ha ho h
    exact State.exec_access rfl h (slotLda_ok hb hd (Issuer.address_ok ht ha ho)) (fun th => Thread.emptyX_traps th _)

/-! ### Stores -/

section
variable {s : State} {i : Instr} {o : StoreOps} {xs : List XPay} {g : Target}

theorem slotSt_address {e : Except Stop Target} (hb : s.me.fullX o.base = true) (hd : s.me.fullX o.reg = true)
    (ha : (s.issuerOf i).address s (eaM (s.me.getX o.base) o.off xs o.size).toNat (sizeBytes o.size) .write = e) :
    slotSt o xs (s.issuerOf i) s = e.map (fun g => (s.issuerOf i).storeCommit g none
      ((s.issuerOf i).request s 2 (eaM (s.me.getX o.base) o.off xs o.size).toNat (sizeBytes o.size) g
        (.store (leBytes (sizeBytes o.size) (s.me.getX o.reg).toNat) false))) := by
  have hr : ready s.me [(o.base, o.tb), (o.reg, o.td)] [] = .ok () := ready_full (by simp [hb, hd]) (by simp)
  subst ha
  simp only [slotSt, State.th_issuerOf, hr, storeBytes]
  split <;> simp_all [Except.map]

theorem slotStr_ok {o : RelOps} (hb : s.me.fullX o.base = true) (hd : s.me.fullX o.reg = true)
    (ha : (s.issuerOf i).address s (eaMS (s.me.getX o.base) xs o.size).toNat (sizeBytes o.size) .write = .ok g) :
    slotStr o xs (s.issuerOf i) s = .ok ((s.issuerOf i).access id g (some o.scope.toNat)
      { (s.issuerOf i).request s 2 (eaMS (s.me.getX o.base) xs o.size).toNat (sizeBytes o.size) g
          (.store (leBytes (sizeBytes o.size) (s.me.getX o.reg).toNat) false) with release := true }) := by
  have hr : ready s.me [(o.base, o.tb), (o.reg, o.td)] [] = .ok () := ready_full (by simp [hb, hd]) (by simp)
  simp only [slotStr, State.th_issuerOf, hr, ha, storeBytes]
  rfl

theorem slotStf_ok {core off : Nat} (hb : s.me.fullX o.base = true) (hd : s.me.fullX o.reg = true)
    (ht : s.translate ((s.partOfUnit s.curUnit).getD 0) s.curUnit (eaM (s.me.getX o.base) o.off xs o.size).toNat .write = .ok g)
    (ha : (eaM (s.me.getX o.base) o.off xs o.size).toNat % sizeBytes o.size = 0)
    (hs : s.scratchOf g = some (core, off)) (hm : s.mayName s.curUnit s.me.owner core = true) :
    slotStf o xs (s.issuerOf i) s = .ok ((s.issuerOf i).storeCommit g none
      ((s.issuerOf i).request s 2 (eaM (s.me.getX o.base) o.off xs o.size).toNat (sizeBytes o.size) g
        (.store (leBytes (sizeBytes o.size) (s.me.getX o.reg).toNat) true))) := by
  have hr : ready s.me [(o.base, o.tb), (o.reg, o.td)] [] = .ok () := ready_full (by simp [hb, hd]) (by simp)
  have hsc := Issuer.scratch_ok (c := s.issuerOf i) ht ha hs hm
  simp only [slotStf, State.th_issuerOf, hr, hsc]
  rfl

end

theorem slotGranules_ok {s : State} {i : Instr} {o : TwoSrc} {v : Bool} {g : Target} {core off : Nat} (hb : s.me.fullX o.srcA = true)
    (hd : s.me.fullX o.srcB = true)
    (ht : s.translate ((s.partOfUnit s.curUnit).getD 0) s.curUnit (s.me.getX o.srcA).toNat .write = .ok g)
    (ha : (s.me.getX o.srcA).toNat % 16 = 0) (hs : s.scratchOf g = some (core, off)) (hm : s.mayName s.curUnit s.me.owner core = true)
    (hn : off + 16 * ((s.me.getX o.srcB).toNat % 2 ^ 32) ≤ 0x200000) :
    slotGranules o v (s.issuerOf i) s = .ok (if (s.me.getX o.srcB).toNat % 2 ^ 32 = 0 then fun s => s
      else (s.issuerOf i).storeCommit g none ((s.issuerOf i).request s 2 (s.me.getX o.srcA).toNat 16 g
        (.granules ((s.me.getX o.srcB).toNat % 2 ^ 32) v))) := by
  have hr : ready s.me [(o.srcA, o.ta), (o.srcB, o.tb)] [] = .ok () := ready_full (by simp [hb, hd]) (by simp)
  have hsc := Issuer.scratch_ok (c := s.issuerOf i) ht ha hs hm
  simp only [slotGranules, State.th_issuerOf, hr, hsc]
  exact (if_neg (Nat.not_lt.mpr hn)).trans (apply_ite Except.ok _ _ _).symm

/-- GRSET and GRCLR differ in the value of their granules alone. -/
theorem State.exec_granules {s : State} {i : Instr} {o : TwoSrc} {v : Bool} {g : Target} {core off : Nat} (hi : i.isStep = false)
    (hslot : slotOf i = slotGranules o v) (hb : s.me.fullX o.srcA = true) (hd : s.me.fullX o.srcB = true)
    (ht : s.translate ((s.partOfUnit s.curUnit).getD 0) s.curUnit (s.me.getX o.srcA).toNat .write = .ok g)
    (ha : (s.me.getX o.srcA).toNat % 16 = 0) (hs : s.scratchOf g = some (core, off)) (hm : s.mayName s.curUnit s.me.owner core = true)
    (hn : off + 16 * ((s.me.getX o.srcB).toNat % 2 ^ 32) ≤ 0x200000) (h : s.accepts i = true) :
    exec i s = .next (if (s.me.getX o.srcB).toNat % 2 ^ 32 = 0 then s.moved i
      else (s.movedWith i (fun th => th.pairDone g)).submit ((s.issuerOf i).request s 2 (s.me.getX o.srcA).toNat 16 g
        (.granules ((s.me.getX o.srcB).toNat % 2 ^ 32) v))) := by
  have hok := hslot ▸ slotGranules_ok (i := i) (v := v) hb hd ht ha hs hm hn
  split at hok
  next h0 => rw [if_pos h0, State.exec_plain hi h hok (State.moved_traps h)]
  next h0 => rw [if_neg h0, State.exec_scratchAccess hi h hs rfl hok (fun _ => rfl)]; rfl

/-- Settles O16: each store is ready, its address is accepted, and its commit sends one posted write. -/
theorem storesEnterTheIssueOrder : Obligations.StoresEnterTheIssueOrder := by
  unfold Obligations.StoresEnterTheIssueOrder
  refine ⟨?_, ?_, ?_⟩
  · intro s o xs g n ea hb hd ht ha
    refine ⟨fun ho h => ?_, fun core off hs hm h => ?_⟩
    · exact State.exec_access (f := id) rfl h (slotSt_address hb hd (Issuer.address_ok ht ha ho)) (fun _ => rfl)
    · exact State.exec_scratchAccess (f := id) rfl h hs rfl (slotStf_ok hb hd ht ha hs hm) (fun _ => rfl)
  · intro s o xs g n ea hb hd ht ha ho h
    exact State.exec_access (f := id) rfl h (slotStr_ok hb hd (Issuer.address_ok ht ha ho)) (fun _ => rfl)
  · intro s o g core off ea n hb hd ht ha hs hm hn e he h
    obtain rfl | rfl : e = (.grset o, true) ∨ e = (.grclr o, false) := by simpa using he
    · exact State.exec_granules rfl rfl hb hd ht ha hs hm hn h
    · exact State.exec_granules rfl rfl hb hd ht ha hs hm hn h

/-! ### Addresses that are refused -/

/-- The class of an instruction's slot (R208). -/
theorem classNum_headWord {i : Instr} {c : BitVec 4} {op : BitVec 7} {b : Body} (h : i.opBody = some (c, op, b)) :
    classNum (headWord i) = c.toNat := by
  simp [classNum, headWord, encode, h]

/-- An access that stops with a cause of its address other than 0x41 has the address walked, and its launch ends (R131, R455). -/
theorem State.exec_xlate {s : State} {i : Instr} {op : BitVec 7} {b : Body} {cause va : Nat} {w : BitVec 32} (hi : i.isStep = false)
    (h : s.accepts i = true) (hc : i.opBody = some (2, op, b)) (hcause : cause ≠ 0x41)
    (hf : slotOf i (s.issuerOf i) s = .error (.xlate cause va w)) :
    exec i s = .next ((s.walked s.curUnit ((s.partOfUnit s.curUnit).getD 0) va).fail
      ⟨s.curUnit, s.turnThread, s.me.owner, s.me.pc, 2, 0⟩ cause va w) := by
  rw [State.exec_stops hi h hf, classNum_headWord hc]
  simp only [State.stopAt, hcause, if_false]
  rfl

/-- Settles O17: the address stops the slot, and the stop ends the launch after the walk. -/
theorem misalignedAccessFaults : Obligations.MisalignedAccessFaults := by
  unfold Obligations.MisalignedAccessFaults
  intro s o q xs g
  refine ⟨?_, ?_⟩
  · intro n ea hb hd ht h fails
    refine ⟨fun ha => ?_, fun ha ho => ?_⟩
    · exact State.exec_xlate rfl h rfl (by decide) (slotLd_address hb hd (Issuer.address_misaligned ht ha))
    · exact State.exec_xlate rfl h rfl (by decide) (slotLd_address hb hd (Issuer.address_outside ht ha ho))
  · intro n ea hb hd ht h fails
    refine ⟨fun ha => ?_, fun ha ho => ?_⟩
    · exact State.exec_xlate rfl h rfl (by decide) (slotSt_address hb hd (Issuer.address_misaligned ht ha))
    · exact State.exec_xlate rfl h rfl (by decide) (slotSt_address hb hd (Issuer.address_outside ht ha ho))

/-! ### Atomics -/

/-- An atomic with full operands at an address that is accepted, its data no verdict word where it adds or compares FP32. -/
theorem slotAmo_ok {s : State} {i : Instr} {o : AmoOps} {k : AmoKind} {n : Nat} {g : Target} (hb : s.me.fullX o.base = true)
    (hd : s.me.fullX o.data = true) (hdst : s.me.fullX o.dst = true)
    (hv : amoDataOk k ((s.me.getX o.data).toNat % 2 ^ (8 * n)) = true)
    (ha : (s.issuerOf i).address s (s.me.getX o.base).toNat n .atomic = .ok g) :
    slotAmo o k n (s.issuerOf i) s = .ok (fun s' => (s'.updThread s.curUnit s.turnThread (fun t => t.emptyX o.dst)).submit
      { (s.issuerOf i).request s 2 (s.me.getX o.base).toNat n g (.amo k (BitVec.ofNat 64 ((s.me.getX o.data).toNat % 2 ^ (8 * n)))
          (BitVec.ofNat 64 ((s.me.getX o.dst).toNat % 2 ^ (8 * n))) o.dst.toNat) with
        acquire := o.scope != 0, release := o.scope != 0,
        check := s'.checkScope s.curUnit s.turnThread g (some o.scope.toNat) false }) := by
  have hr : ready s.me ([(o.base, o.tb), (o.data, o.td)] ++ (if k = .cas then [(o.dst, false)] else [])) [o.dst] = .ok () := by
    refine ready_full (fun r hr => ?_) (by simp [hdst])
    simp only [List.mem_append, List.mem_cons, List.not_mem_nil, or_false] at hr
    rcases hr with (rfl | rfl) | hr
    · exact hb
    · exact hd
    · split at hr
      · obtain rfl := List.mem_singleton.mp hr; exact hdst
      · cases hr
  simp only [slotAmo, State.th_issuerOf, hr, hv, ha]
  rfl

theorem State.exec_amo {s : State} {i : Instr} {o : AmoOps} {k : AmoKind} {n : Nat} {g : Target} (hi : i.isStep = false)
    (hslot : slotOf i = slotAmo o k n) (hb : s.me.fullX o.base = true) (hd : s.me.fullX o.data = true) (hdst : s.me.fullX o.dst = true)
    (ht : s.translate ((s.partOfUnit s.curUnit).getD 0) s.curUnit (s.me.getX o.base).toNat .atomic = .ok g)
    (ha : (s.me.getX o.base).toNat % n = 0) (ho : s.outside s.curUnit s.me.owner g = false)
    (hv : amoDataOk k ((s.me.getX o.data).toNat % 2 ^ (8 * n)) = true) (h : s.accepts i = true) :
    exec i s = .next ((s.movedWith i (fun th => th.emptyX o.dst)).submit
      { (s.issuerOf i).request s 2 (s.me.getX o.base).toNat n g (.amo k (BitVec.ofNat 64 ((s.me.getX o.data).toNat % 2 ^ (8 * n)))
          (BitVec.ofNat 64 ((s.me.getX o.dst).toNat % 2 ^ (8 * n))) o.dst.toNat) with
        acquire := o.scope != 0, release := o.scope != 0,
        check := s.checkScope s.curUnit s.turnThread g (some o.scope.toNat) false }) := by
  have hok := hslot ▸ slotAmo_ok (i := i) hb hd hdst hv (Issuer.address_ok ht ha ho)
  rw [State.exec_plain hi h hok]
  · rw [State.moved_checkScope]; rfl
  · rw [State.thread_submit, State.thread_updThread]
    split
    · rw [Thread.emptyX_traps, State.moved_traps h]
    · exact State.moved_traps h

/-- The data of an atomic is none that FADD and FMAX, which have four bytes, may not read. -/
theorem amoDataOk_of_verdict {k : AmoKind} {n v : Nat} (h : k = .fadd ∨ k = .fmax → fp32.verdict (v % 2 ^ 32) = none)
    (hn : n = 4 ∨ (k ≠ .fadd ∧ k ≠ .fmax)) : amoDataOk k (v % 2 ^ (8 * n)) = true := by
  cases k <;> simp_all [amoDataOk]

/-- Settles O21: the 22 atomics are one slot at two sizes. -/
theorem atomicsEnterTheIssueOrder : Obligations.AtomicsEnterTheIssueOrder := by
  unfold Obligations.AtomicsEnterTheIssueOrder
  intro s o g hb hd hdst ea e he ht ha ho hv h
  simp only [List.mem_cons, List.not_mem_nil, or_false] at he
  rcases he with rfl | rfl | rfl | rfl | rfl | rfl | rfl | rfl | rfl | rfl | rfl | rfl | rfl | rfl | rfl | rfl | rfl | rfl | rfl | rfl |
    rfl | rfl <;>
  exact State.exec_amo rfl rfl hb hd hdst ht ha ho (amoDataOk_of_verdict hv (by simp)) h

end Sys2Proof.Machine
end

section
/-! PROOFS. PREF, FENCE and the tag table (R142, R143, R191, R255, R256, R259). -/

namespace Sys2Proof.Machine

/-! ### Commits that send one request -/

/-- An accepted instruction whose commit is a request. -/
theorem State.exec_submit {s : State} {i : Instr} {r : Req} (hi : i.isStep = false) (h : s.accepts i = true)
    (hf : slotOf i (s.issuerOf i) s = .ok (fun s' => s'.submit r)) : exec i s = .next ((s.moved i).submit r) :=
  State.exec_plain hi h hf ((congrArg Thread.traps (State.thread_submit _ _ _ _)).trans (State.moved_traps h))

/-- The same where a register is empty until the answer lands. -/
theorem State.exec_emptySubmit {s : State} {i : Instr} {d : BitVec 5} {r : Req} (hi : i.isStep = false) (h : s.accepts i = true)
    (hf : slotOf i (s.issuerOf i) s = .ok (fun s' => (s'.updThread s.curUnit s.turnThread (fun th => th.emptyX d)).submit r)) :
    exec i s = .next ((s.movedWith i (fun th => th.emptyX d)).submit r) := by
  rw [State.exec_plain hi h hf]
  · rfl
  · rw [State.thread_submit, State.thread_updThread]
    split
    · rw [Thread.emptyX_traps, State.moved_traps h]
    · exact State.moved_traps h

/-- An accepted instruction without an effect of its own. -/
theorem State.exec_idle {s : State} {i : Instr} (hi : i.isStep = false) (h : s.accepts i = true)
    (hf : slotOf i (s.issuerOf i) s = .ok (fun s' => s')) : exec i s = .next (s.moved i) :=
  State.exec_plain hi h hf (State.moved_traps h)

theorem Issuer.xlate_ok {c : Issuer} {s : State} {va : Nat} {k : Access} {g : Target} (h : s.translate (c.part s) c.unit va k = .ok g) :
    c.xlate s va k = .ok g := by
  simp [Issuer.xlate, h]

/-! ### PREF -/

theorem locate_hbm {pa : Nat} (h : pa < 8 * stackBytes) : locate pa = .hbm (pa / stackBytes) (pa % stackBytes) := if_pos h

theorem locate_not_hbm {pa : Nat} (h : 8 * stackBytes ≤ pa) (n o : Nat) : locate pa ≠ .hbm n o := by
  unfold locate
  rw [if_neg (Nat.not_lt.mpr h)]
  split
  · exact nofun
  · split <;> exact nofun

theorem slotPref_eq {s : State} {o : PrefOps} {xs : List XPay} {c : Issuer} (hc : c.th s = s.me) (hb : s.me.fullX o.base = true) :
    slotPref o xs c s = match s.translate (c.part s) c.unit (s.me.getX o.base + immediate o.off xs * 8).toNat .read with
      | .error _ => .ok (fun s => s)
      | .ok g => match locate (localOf g.pa) with
        | .hbm _ _ => if g.cls = 4 || !s.isLocal g then .ok (fun s => s)
          else .ok (fun s' => s'.submit (c.request s 2 (s.me.getX o.base + immediate o.off xs * 8).toNat 1 g .prefetch))
        | _ => .ok (fun s => s) := by
  have hr : ready s.me [(o.base, o.tb)] [] = .ok () := ready_full (by simp [hb]) (by simp)
  simp only [slotPref, hc, hr]
  rfl

theorem exec_pref_cases {s : State} {o : PrefOps} {xs : List XPay} (hb : s.me.fullX o.base = true) (h : s.accepts (.pref o xs) = true) :
    let ea := (s.me.getX o.base + immediate o.off xs * 8).toNat
    let p := (s.partOfUnit s.curUnit).getD 0
    (∀ e, s.translate p s.curUnit ea .read = .error e → exec (.pref o xs) s = .next (s.moved (.pref o xs))) ∧
    (∀ g, s.translate p s.curUnit ea .read = .ok g →
      (localOf g.pa < 8 * stackBytes → g.cls ≠ 4 → s.isLocal g = true →
        exec (.pref o xs) s = .next ((s.moved (.pref o xs)).submit ((s.issuerOf (.pref o xs)).request s 2 ea 1 g .prefetch))) ∧
      ((8 * stackBytes ≤ localOf g.pa ∨ g.cls = 4 ∨ s.isLocal g = false) → exec (.pref o xs) s = .next (s.moved (.pref o xs)))) := by
  intro ea p
  have hslot := slotPref_eq (xs := xs) (c := s.issuerOf (.pref o xs)) rfl hb
  refine ⟨fun e ht => ?_, fun g ht => ⟨fun hpa hcls hl => ?_, fun hno => ?_⟩⟩
  · have ht' : s.translate ((s.issuerOf (.pref o xs)).part s) (s.issuerOf (.pref o xs)).unit ea .read = .error e := ht
    rw [ht'] at hslot
    exact State.exec_idle rfl h hslot
  · have ht' : s.translate ((s.issuerOf (.pref o xs)).part s) (s.issuerOf (.pref o xs)).unit
        (s.me.getX o.base + immediate o.off xs * 8).toNat .read = .ok g := ht
    have hno : ¬ ((g.cls = 4 || !s.isLocal g) = true) := by simp [hcls, hl]
    simp only [ht', locate_hbm hpa, if_neg hno] at hslot
    exact State.exec_submit rfl h hslot
  · have ht' : s.translate ((s.issuerOf (.pref o xs)).part s) (s.issuerOf (.pref o xs)).unit
        (s.me.getX o.base + immediate o.off xs * 8).toNat .read = .ok g := ht
    refine State.exec_idle rfl h (hslot.trans ?_)
    simp only [ht']
    split
    next hloc =>
      refine if_pos ?_
      rcases hno with hpa | hcls | hl
      · exact absurd hloc (locate_not_hbm hpa _ _)
      · simp [hcls]
      · simp [hl]
    next => rfl

/-! ### FENCE -/

theorem exec_fence_cases {s : State} {o : ScopeOps} (h : s.accepts (.fence o) = true) :
    (s.accessesOut s.curUnit s.turnThread = [] →
      exec (.fence o) s = .next (s.movedWith (.fence o) (fun th =>
        { th with fencePair := if o.scope = 0 then th.fencePair else some o.scope.toNat }))) ∧
    (s.accessesOut s.curUnit s.turnThread ≠ [] → exec (.fence o) s = .next (s.blockThread s.curUnit s.turnThread)) := by
  refine ⟨fun hout => ?_, fun hout => ?_⟩
  · have hslot : slotFence o (s.issuerOf (.fence o)) s = .ok ((s.issuerOf (.fence o)).commit (fun th =>
        { th with fencePair := if o.scope = 0 then th.fencePair else some o.scope.toNat })) := if_pos hout
    exact State.exec_thread rfl h hslot (fun _ ht => ht)
  · have hslot : slotFence o (s.issuerOf (.fence o)) s = .error .block := if_neg hout
    exact State.exec_stops rfl h hslot

/-! ### The tag table -/

theorem exec_tlook {s : State} {o : DstSrc} {g : Target} (ha : s.me.fullX o.srcA = true) (hd : s.me.fullX o.dst = true)
    (h : s.accepts (.tlook o) = true)
    (ht : s.translate ((s.partOfUnit s.curUnit).getD 0) s.curUnit (s.me.getX o.srcA).toNat .read = .ok g) {ans : Word}
    (hans : ans = match (s.core s.curUnit).findTag ((s.me.getX o.srcA).toNat / 128) with
      | some k => BitVec.ofNat 64 k
      | none => 0xFFFFFFFFFFFFFFFF) :
    exec (.tlook o) s = .next ((s.movedWith (.tlook o) (fun th => th.emptyX o.dst)).submit
      { (s.issuerOf (.tlook o)).request s 2 (s.me.getX o.srcA).toNat 0 ⟨s.modreg.toNat % 1024 * 2 ^ 42 + scratchPa s.curUnit 0, 0, 0⟩
          (.tlook o.dst.toNat ans) with
        status := .served (s.later s.curUnit 2) (.old ans none 0) }) := by
  have hr : ready s.me [(o.srcA, o.ta)] [o.dst] = .ok () := ready_full (by simp [ha]) (by simp [hd])
  have hx : (s.issuerOf (.tlook o)).xlate s (s.me.getX o.srcA).toNat .read = .ok g := Issuer.xlate_ok ht
  apply State.exec_emptySubmit rfl h
  subst hans
  change slotTlook o _ s = _
  simp only [slotTlook, State.th_issuerOf, hr, hx]
  rfl

section
variable {s : State} {o : TwoSrc} {g : Target} (ha : s.me.fullX o.srcA = true) (hb : s.me.fullX o.srcB = true)
  (ht : s.translate ((s.partOfUnit s.curUnit).getD 0) s.curUnit ((s.me.getX o.srcB).toNat / 128 * 128) .read = .ok g)
  (hk : (s.me.getX o.srcA).toNat < 1024) (hset : (s.me.getX o.srcA).toNat / 4 = (s.me.getX o.srcB).toNat / 128 % 256)
  (hone : ∀ j, (s.core s.curUnit).findTag ((s.me.getX o.srcB).toNat / 128) = some j → j = (s.me.getX o.srcA).toNat)
include ha hb ht hk hset hone

/-- A TFILL whose slot may take the line: a slot with write-backs out waits for them. -/
theorem slotTfill_ok : slotTfill o (s.issuerOf (.tfill o)) s = .ok (fun s' =>
      (if (s.evicting s.curUnit (s.me.getX o.srcA).toNat).isEmpty then
        s'.updCore s.curUnit (fun k => k.startFill (s.me.getX o.srcA).toNat ((s.me.getX o.srcB).toNat / 128)) else s').submit
      { (s.issuerOf (.tfill o)).request s 2 ((s.me.getX o.srcB).toNat / 128 * 128) 128 g (.fill (s.me.getX o.srcA).toNat) with
        after := s.evicting s.curUnit (s.me.getX o.srcA).toNat }) := by
  have hr : ready s.me [(o.srcA, o.ta), (o.srcB, o.tb)] [] = .ok () := ready_full (by simp [ha, hb]) (by simp)
  have hx : (s.issuerOf (.tfill o)).xlate s ((s.me.getX o.srcB).toNat / 128 * 128) .read = .ok g := Issuer.xlate_ok ht
  have hany : ((s.core s.curUnit).findTag ((s.me.getX o.srcB).toNat / 128)).any (fun sl => sl != (s.me.getX o.srcA).toNat) = false := by
    cases hf : (s.core s.curUnit).findTag ((s.me.getX o.srcB).toNat / 128) with
    | none => rfl
    | some j => simp [hone j hf]
  have hany' : ((s.core (s.issuerOf (.tfill o)).unit).findTag ((s.me.getX o.srcB).toNat / 128)).any
    (fun sl => sl != (s.me.getX o.srcA).toNat) = false := hany
  simp only [slotTfill, State.th_issuerOf, hr, hx, hany']
  refine (if_neg (Nat.not_le.mpr hk)).trans ((if_neg (not_not.mpr hset)).trans rfl)

theorem exec_tfill_cases (h : s.accepts (.tfill o) = true) :
    (s.evicting s.curUnit (s.me.getX o.srcA).toNat = [] →
      exec (.tfill o) s = .next (((s.moved (.tfill o)).updCore s.curUnit
          (fun c => c.startFill (s.me.getX o.srcA).toNat ((s.me.getX o.srcB).toNat / 128))).submit
        ((s.issuerOf (.tfill o)).request s 2 ((s.me.getX o.srcB).toNat / 128 * 128) 128 g (.fill (s.me.getX o.srcA).toNat)))) ∧
    (s.evicting s.curUnit (s.me.getX o.srcA).toNat ≠ [] →
      exec (.tfill o) s = .next ((s.moved (.tfill o)).submit
        { (s.issuerOf (.tfill o)).request s 2 ((s.me.getX o.srcB).toNat / 128 * 128) 128 g (.fill (s.me.getX o.srcA).toNat) with
          after := s.evicting s.curUnit (s.me.getX o.srcA).toNat })) := by
  have hslot := slotTfill_ok ha hb ht hk hset hone
  refine ⟨fun hnone => ?_, fun hsome => ?_⟩
  · rw [hnone] at hslot
    exact State.exec_plain rfl h hslot ((congrArg Thread.traps (State.thread_submit _ _ _ _)).trans (State.moved_traps h))
  · have hne : (s.evicting s.curUnit (s.me.getX o.srcA).toNat).isEmpty = false := by simpa using hsome
    simp only [hne] at hslot
    exact State.exec_submit rfl h hslot

end

theorem exec_tevict_cases {s : State} {o : OneSrc} (ha : s.me.fullX o.srcA = true) (h : s.accepts (.tevict o) = true)
    (hk : (s.me.getX o.srcA).toNat < 1024) :
    let e := (s.core s.curUnit).tag (s.me.getX o.srcA).toNat
    let va := 128 * (e.toNat % 2 ^ 49)
    (e.getLsbD 63 = false → exec (.tevict o) s = .next (s.moved (.tevict o))) ∧
    (∀ g, e.getLsbD 63 = true →
      s.translate ((s.partOfUnit s.curUnit).getD 0) s.curUnit va (if e.getLsbD 62 = true then .write else .read) = .ok g →
      exec (.tevict o) s = .next ((s.moved (.tevict o)).submit
        ((s.issuerOf (.tevict o)).request s 2 va 128 g (.evict (s.me.getX o.srcA).toNat)))) := by
  have hr : ready s.me [(o.srcA, o.ta)] [] = .ok () := ready_full (by simp [ha]) (by simp)
  intro e va
  have hslot : slotTevict o (s.issuerOf (.tevict o)) s =
      if !tagV e then .ok (fun s => s)
      else match (s.issuerOf (.tevict o)).xlate s va (if tagD e then .write else .read) with
        | .error e => .error e
        | .ok g => .ok (fun s' => s'.submit ((s.issuerOf (.tevict o)).request s 2 va 128 g (.evict (s.me.getX o.srcA).toNat))) := by
    simp only [slotTevict, State.th_issuerOf, hr]
    exact if_neg (Nat.not_le.mpr hk)
  refine ⟨fun hv => ?_, fun g hv ht => ?_⟩
  · exact State.exec_idle rfl h (hslot.trans (if_pos (by rw [tagV, hv]; rfl)))
  · have hx : (s.issuerOf (.tevict o)).xlate s va (if tagD e then .write else .read) = .ok g := Issuer.xlate_ok ht
    rw [if_neg (by rw [tagV, hv]; decide), hx] at hslot
    exact State.exec_submit rfl h hslot

/-- Settles O18. -/
theorem prefetchFenceAndTagTable : Obligations.PrefetchFenceAndTagTable := by
  unfold Obligations.PrefetchFenceAndTagTable
  refine ⟨⟨fun s o xs => exec_pref_cases, fun s o => exec_fence_cases⟩, ?_, ?_, ?_⟩
  · exact fun s o g ha hd h ht ans hans => exec_tlook ha hd h ht hans
  · exact fun s o g ha hb h ht hk hset hone => exec_tfill_cases ha hb ht hk hset hone h
  · exact fun s o ha h hk => exec_tevict_cases ha h hk

end Sys2Proof.Machine
end

section
/-! PROOFS. MFS and MTS (R230, R236, R260, R406, R430). -/

namespace Sys2Proof.Machine

/-! ### MFS -/

/-- An MFS of a named register of the unit whose value is not read by way of a copy engine. -/
theorem State.exec_mfs {s : State} {o : SpecGet} (hd : s.me.fullX o.reg = true) (h : s.accepts (.mfs o) = true)
    (hn : specNamed o.spec.toNat = true) (hc : (isQuill s.curUnit && specCoreOnly o.spec.toNat) = false)
    (hdone : (decide (0x020 ≤ o.spec.toNat) && decide (o.spec.toNat ≤ 0x02F)) = false) :
    exec (.mfs o) s = .next (s.movedWith (.mfs o) (fun th => th.setX o.reg (s.specValue s.curUnit s.turnThread o.spec.toNat))) := by
  have hr : ready s.me [] [o.reg] = .ok () := ready_full (by simp) (by simp [hd])
  have hslot : slotMfs o (s.issuerOf (.mfs o)) s =
      .ok ((s.issuerOf (.mfs o)).writeX o.reg (s.specValue s.curUnit s.turnThread o.spec.toNat)) := by
    have hc' : (isQuill (s.issuerOf (.mfs o)).unit && specCoreOnly o.spec.toNat) = false := hc
    simp only [slotMfs, hn, hc', State.th_issuerOf, hr, hdone]
    rfl
  exact State.exec_writeX rfl h hslot

theorem State.exec_mfs_doneid {s : State} {o : SpecGet} (hd : s.me.fullX o.reg = true) (h : s.accepts (.mfs o) = true)
    (h1 : 0x020 ≤ o.spec.toNat) (h2 : o.spec.toNat ≤ 0x02F) :
    exec (.mfs o) s = .next ((s.movedWith (.mfs o) (fun th => th.emptyX o.reg)).submit
      { (s.issuerOf (.mfs o)).request s 2 0 0 ⟨s.modreg.toNat % 1024 * 2 ^ 42, 0, 0⟩
          (.doneid o.reg.toNat (16 * engineOf s.curUnit + (o.spec.toNat - 0x020))) with
        status := .served s.now (.data []) }) := by
  have hr : ready s.me [] [o.reg] = .ok () := ready_full (by simp) (by simp [hd])
  have hn : specNamed o.spec.toNat = true := by simp [specNamed]; omega
  have hc : specCoreOnly o.spec.toNat = false := by simp [specCoreOnly]; omega
  have hdone : (decide (0x020 ≤ o.spec.toNat) && decide (o.spec.toNat ≤ 0x02F)) = true := by simp [h1, h2]
  apply State.exec_emptySubmit rfl h
  change slotMfs o _ s = _
  simp only [slotMfs, hn, hc, State.th_issuerOf, hr, hdone, Bool.and_false, Bool.not_true, Bool.or_false]
  rfl

/-- The registers of every unit, with their values (R230, R406). -/
def State.specAll (s : State) : List (Nat × Word) :=
  [(0x000, BitVec.ofNat 64 (if s.curUnit < 192 then s.curUnit else s.curUnit - 192)), (0x002, BitVec.ofNat 64 (blockOfUnit s.curUnit / 2)),
   (0x003, BitVec.ofNat 64 (s.modreg.toNat % 1024)), (0x005, BitVec.ofNat 64 (s.cycles s.curUnit)), (0x006, s.me.flags.setWidth 64),
   (0x00B, BitVec.ofNat 64 (s.part ((s.partOfUnit s.curUnit).getD 0)).latva), (0x00C, (s.seq s.curUnit).slotmap.setWidth 64),
   (0x00D, s.me.stag.setWidth 64), (0x0C0, s.me.tvec), (0x0C1, s.me.tepc), (0x0C2, s.me.tcause.setWidth 64), (0x0C3, s.me.taddr),
   (0x0C4, s.me.tstat.setWidth 64), (0x0C5, if s.me.intrap = true then 1 else 0)]

/-- The registers of a core alone, with their values (R230). -/
def State.specOfCore (s : State) : List (Nat × Word) :=
  let k := s.core s.curUnit
  [(0x001, BitVec.ofNat 64 (((s.coreGang s.curUnit).map (fun g => g.s)).getD 0)), (0x004, BitVec.ofNat 64 k.rank), (0x007, k.prog),
   (0x008, k.pivstat.setWidth 64), (0x009, k.growth.setWidth 64), (0x00A, k.vthr.setWidth 64)] ++
  (List.range 8).map (fun j => (0x010 + j, k.pv.getD j 0)) ++ (List.range 16).map (fun j => (0x030 + j, (k.bfmt.getD j 0).setWidth 64))

/-- The registers of every unit read as `State.specAll` lists them, and none is a core's alone or a DONEIDn. -/
theorem State.specValue_of_specAll {s : State} {n : Nat} {v : Word} (hu : s.curUnit < 224) (h : (n, v) ∈ s.specAll) :
    specNamed n = true ∧ specCoreOnly n = false ∧ (decide (0x020 ≤ n) && decide (n ≤ 0x02F)) = false ∧
      s.specValue s.curUnit s.turnThread n = v := by
  have hq : isQuill s.curUnit = !decide (s.curUnit < 192) := by
    simp only [isQuill, hu, decide_true, Bool.and_true]
    by_cases hc : s.curUnit < 192
    · simp [hc]
    · simp [hc]; omega
  simp only [State.specAll, List.mem_cons, Prod.mk.injEq, List.not_mem_nil, or_false] at h
  rcases h with ⟨rfl, rfl⟩ | ⟨rfl, rfl⟩ | ⟨rfl, rfl⟩ | ⟨rfl, rfl⟩ | ⟨rfl, rfl⟩ | ⟨rfl, rfl⟩ | ⟨rfl, rfl⟩ | ⟨rfl, rfl⟩ | ⟨rfl, rfl⟩ |
    ⟨rfl, rfl⟩ | ⟨rfl, rfl⟩ | ⟨rfl, rfl⟩ | ⟨rfl, rfl⟩ | ⟨rfl, rfl⟩
  case inl =>
    refine ⟨rfl, rfl, rfl, ?_⟩
    change BitVec.ofNat 64 (if isQuill s.curUnit then s.curUnit - 192 else s.curUnit) = _
    rw [hq]
    by_cases hc : s.curUnit < 192 <;> simp [hc]
  all_goals exact ⟨rfl, rfl, rfl, rfl⟩

theorem State.specValue_of_specOfCore {s : State} {n : Nat} {v : Word} (h : (n, v) ∈ s.specOfCore) :
    specNamed n = true ∧ (decide (0x020 ≤ n) && decide (n ≤ 0x02F)) = false ∧ s.specValue s.curUnit s.turnThread n = v := by
  simp only [State.specOfCore, List.mem_append, List.mem_cons, Prod.mk.injEq, List.not_mem_nil, or_false, List.mem_map, List.mem_range] at h
  rcases h with (h | ⟨j, hj, rfl, rfl⟩) | ⟨j, hj, rfl, rfl⟩
  · rcases h with ⟨rfl, rfl⟩ | ⟨rfl, rfl⟩ | ⟨rfl, rfl⟩ | ⟨rfl, rfl⟩ | ⟨rfl, rfl⟩ | ⟨rfl, rfl⟩ <;> exact ⟨rfl, rfl, rfl⟩
  · interval_cases j <;> exact ⟨rfl, rfl, rfl⟩
  · interval_cases j <;> exact ⟨rfl, rfl, rfl⟩

/-- Settles O19. -/
theorem specialRegisterReads : Obligations.SpecialRegisterReads := by
  unfold Obligations.SpecialRegisterReads
  intro s o hd h n k all ofCore
  refine ⟨fun v hv hu => ?_, fun h1 h2 => State.exec_mfs_doneid hd h h1 h2⟩
  rcases hv with hv | ⟨hcore, hv⟩
  · obtain ⟨hn, hc, hdone, hval⟩ := State.specValue_of_specAll hu hv
    rw [State.exec_mfs hd h hn (by simp [n, hc]) hdone, hval]
  · obtain ⟨hn, hdone, hval⟩ := State.specValue_of_specOfCore hv
    have hq : isQuill s.curUnit = false := by simp [isQuill]; omega
    rw [State.exec_mfs hd h hn (by simp [hq]) hdone, hval]

/-! ### MTS -/

theorem State.cycles_moved (s : State) (i : Instr) (u : Nat) : (s.moved i).cycles u = s.cycles u := rfl

/-- The units that the sequencers of a module have (R4, R235). -/
theorem isQuill_of_ge {u : Nat} (h1 : 192 ≤ u) (h2 : u < 224) : isQuill u = true := by simp [isQuill, h1, h2]
theorem isQuill_of_lt {u : Nat} (h : u < 192) : isQuill u = false := by simp [isQuill]; omega

/-- An MTS of a register that the unit has and may write, of a value that sets no reserved bit. -/
theorem slotMts_ok {s : State} {o : SpecPut} (hd : s.me.fullX o.reg = true) (hw : specWritable o.spec.toNat = true)
    (hc : (isQuill s.curUnit && specCoreOnly o.spec.toNat) = false) (hv : badSpecValue o.spec.toNat (s.me.getX o.reg) = false) :
    slotMts o (s.issuerOf (.mts o)) s = .ok (fun s' => s'.putSpec s.curUnit s.turnThread o.spec.toNat (s.me.getX o.reg)) := by
  have hr : ready s.me [(o.reg, o.ta)] [] = .ok () := ready_full (by simp [hd]) (by simp)
  have hn : specNamed o.spec.toNat = true := by
    simp only [specWritable, specNamed, Bool.or_eq_true, Bool.and_eq_true, beq_iff_eq, decide_eq_true_eq] at *; omega
  have hc' : (isQuill (s.issuerOf (.mts o)).unit && specCoreOnly o.spec.toNat) = false := hc
  simp only [slotMts, hn, hc', hw, State.th_issuerOf, hr, hv]
  rfl

/-- A SPEC value that the unit may not name, or that an MTS may not write, is refused at check (R230, R430). -/
theorem slotMts_refused {s : State} {o : SpecPut} (h : specNamed o.spec.toNat = false ∨
      (192 ≤ s.curUnit ∧ s.curUnit < 224 ∧ specCoreOnly o.spec.toNat = true) ∨ specWritable o.spec.toNat = false) :
    slotMts o (s.issuerOf (.mts o)) s = .error (.checkTrap 0x11 1 (o.spec.setWidth 32)) := by
  have hbad : (!specNamed o.spec.toNat || (isQuill s.curUnit && specCoreOnly o.spec.toNat) || !specWritable o.spec.toNat) = true := by
    rcases h with h | ⟨h1, h2, h⟩ | h
    · simp [h]
    · simp [isQuill_of_ge h1 h2, h]
    · simp [h]
  exact (if_pos hbad).trans (by rw [← BitVec.ofNat_toNat])

theorem slotMfs_refused {s : State} {o : SpecGet} (h : specNamed o.spec.toNat = false ∨
      (192 ≤ s.curUnit ∧ s.curUnit < 224 ∧ specCoreOnly o.spec.toNat = true)) :
    slotMfs o (s.issuerOf (.mfs o)) s = .error (.checkTrap 0x11 0 (o.spec.setWidth 32)) := by
  have hbad : (!specNamed o.spec.toNat || (isQuill s.curUnit && specCoreOnly o.spec.toNat)) = true := by
    rcases h with h | ⟨h1, h2, h⟩
    · simp [h]
    · simp [isQuill_of_ge h1 h2, h]
  exact (if_pos hbad).trans (by rw [← BitVec.ofNat_toNat])

/-- A value that sets a reserved bit is refused in the read stage (R55, R430). -/
theorem slotMts_reserved {s : State} {o : SpecPut} (hd : s.me.fullX o.reg = true) (hw : specWritable o.spec.toNat = true)
    (hc : (isQuill s.curUnit && specCoreOnly o.spec.toNat) = false) (hv : badSpecValue o.spec.toNat (s.me.getX o.reg) = true) :
    slotMts o (s.issuerOf (.mts o)) s = .error (.readTrap 0x11 1 (o.spec.setWidth 32)) := by
  have hr : ready s.me [(o.reg, o.ta)] [] = .ok () := ready_full (by simp [hd]) (by simp)
  have hn : specNamed o.spec.toNat = true := by
    simp only [specWritable, specNamed, Bool.or_eq_true, Bool.and_eq_true, beq_iff_eq, decide_eq_true_eq] at *; omega
  have hc' : (isQuill (s.issuerOf (.mts o)).unit && specCoreOnly o.spec.toNat) = false := hc
  rw [← BitVec.ofNat_toNat]
  simp only [slotMts, hn, hc', hw, State.th_issuerOf, hr, hv]
  rfl

/-- An MTS that commits to the issuing core. -/
theorem State.exec_mts_core {s : State} {o : SpecPut} {f : CoreArr → CoreArr} (hd : s.me.fullX o.reg = true) (h : s.accepts (.mts o) = true)
    (hcore : s.curUnit < 192) (hw : specWritable o.spec.toNat = true) (hv : badSpecValue o.spec.toNat (s.me.getX o.reg) = false)
    (hput : ∀ s' : State, s'.putSpec s.curUnit s.turnThread o.spec.toNat (s.me.getX o.reg) = s'.updCore s.curUnit f) :
    exec (.mts o) s = .next ((s.moved (.mts o)).updCore s.curUnit f) := by
  have hslot := slotMts_ok hd hw (by rw [isQuill_of_lt hcore]; rfl) hv
  simp only [hput] at hslot
  exact State.exec_core rfl h hslot

/-- An MTS that commits to the issuing thread. -/
theorem State.exec_mts_thread {s : State} {o : SpecPut} {f : Thread → Thread} (hd : s.me.fullX o.reg = true) (h : s.accepts (.mts o) = true)
    (hw : specWritable o.spec.toNat = true) (hc : specCoreOnly o.spec.toNat = false)
    (hv : badSpecValue o.spec.toNat (s.me.getX o.reg) = false)
    (hput : (s.moved (.mts o)).putSpec s.curUnit s.turnThread o.spec.toNat (s.me.getX o.reg) = s.movedWith (.mts o) f)
    (ht : ∀ th : Thread, (f th).traps = th.traps) :
    exec (.mts o) s = .next (s.movedWith (.mts o) f) := by
  have hslot := slotMts_ok hd hw (by rw [hc, Bool.and_false]) hv
  rw [State.exec_plain rfl h hslot, hput]
  rw [hput, State.movedWith, State.thread_updThread]
  split
  · rw [ht, State.moved_traps h]
  · exact State.moved_traps h

theorem State.putSpec_pv (s : State) (u t : Nat) (v : Word) {j : Nat} (hj : j < 8) :
    s.putSpec u t (0x010 + j) v = s.updCore u (fun k => { k with pv := k.pv.setIfInBounds j v }) := by
  simp only [State.putSpec]
  rw [if_neg (by omega), if_neg (by omega), if_pos (by simp; omega), Nat.add_sub_cancel_left]

theorem State.putSpec_bfmt (s : State) (u t : Nat) (v : Word) {j : Nat} (hj : j < 16) :
    s.putSpec u t (0x030 + j) v = s.updCore u (fun k => { k with bfmt := k.bfmt.setIfInBounds j (v.setWidth 32) }) := by
  simp only [State.putSpec]
  rw [if_neg (by omega), if_neg (by omega), if_neg (by simp; omega), if_pos (by simp; omega), Nat.add_sub_cancel_left]

theorem badSpecValue_bfmt (v : Word) {j : Nat} (hj : j < 16) : badSpecValue (0x030 + j) v = badBankFormat (v.setWidth 32) := by
  rw [badSpecValue, if_neg (by omega), if_neg (by omega), if_pos (by simp; omega)]

theorem badSpecValue_pv (v : Word) {j : Nat} (hj : j < 8) : badSpecValue (0x010 + j) v = false := by
  rw [badSpecValue, if_neg (by omega), if_neg (by omega), if_neg (by simp; omega)]

theorem State.exec_mts_writes {s : State} {o : SpecPut} (hd : s.me.fullX o.reg = true) (h : s.accepts (.mts o) = true) :
     let n := o.spec.toNat
     let v := s.me.getX o.reg
     let c := fun (f : CoreArr → CoreArr) => exec (.mts o) s = .next ((s.moved (.mts o)).updCore s.curUnit f)
     let t := fun (f : Thread → Thread) => exec (.mts o) s = .next (s.movedWith (.mts o) f)
     s.turnThread < 4 →
     (n = 0x006 → v.extractLsb' 15 49 = 0 → v.extractLsb' 6 2 = 0 → t (fun th => { th with
       flags := v.setWidth 15 ||| (if th.flagCycle = s.cycles s.curUnit then th.flagSet.setWidth 15 else 0) })) ∧
     (n = 0x0C0 → t (fun th => { th with tvec := v })) ∧
     (n = 0x0C1 → t (fun th => { th with tepc := v })) ∧
     (s.curUnit < 192 → n = 0x008 → v.extractLsb' 24 8 = 0 → v.extractLsb' 0 4 = 0 →
       c (fun k => { k with pivstat := (k.pivstat &&& 0xFF00000F) ||| (v.setWidth 32 &&& 0x00FFFFF0) })) ∧
     (∀ j, s.curUnit < 192 → j < 8 → n = 0x010 + j → c (fun k => { k with pv := k.pv.setIfInBounds j v })) ∧
     (∀ j, s.curUnit < 192 → j < 16 → n = 0x030 + j → badBankFormat (v.setWidth 32) = false →
       c (fun k => { k with bfmt := k.bfmt.setIfInBounds j (v.setWidth 32) })) := by
  intro n v c t _
  refine ⟨fun hn h1 h2 => ?_, fun hn => ?_, fun hn => ?_, fun hcore hn h1 h2 => ?_, fun j hcore hj hn => ?_, fun j hcore hj hn hb => ?_⟩ <;>
    change o.spec.toNat = _ at hn
  · refine State.exec_mts_thread hd h (by rw [hn]; rfl) (by rw [hn]; rfl) ?_ (by rw [hn]; rfl) (fun _ => rfl)
    rw [hn]
    change (v.extractLsb' 15 49 != 0 || v.extractLsb' 6 2 != 0) = false
    rw [h1, h2]; rfl
  · exact State.exec_mts_thread hd h (by rw [hn]; rfl) (by rw [hn]; rfl) (by rw [hn]; rfl) (by rw [hn]; rfl) (fun _ => rfl)
  · exact State.exec_mts_thread hd h (by rw [hn]; rfl) (by rw [hn]; rfl) (by rw [hn]; rfl) (by rw [hn]; rfl) (fun _ => rfl)
  · refine State.exec_mts_core hd h hcore (by rw [hn]; rfl) ?_ (fun _ => by rw [hn]; rfl)
    rw [hn]
    change (v.extractLsb' 24 8 != 0 || v.extractLsb' 0 4 != 0) = false
    rw [h1, h2]; rfl
  · refine State.exec_mts_core hd h hcore ?_ (by rw [hn, badSpecValue_pv _ hj]) (fun _ => by rw [hn, State.putSpec_pv _ _ _ _ hj])
    simp [specWritable, hn]; omega
  · refine State.exec_mts_core hd h hcore ?_ (by rw [hn, badSpecValue_bfmt _ hj]; exact hb)
      (fun _ => by rw [hn, State.putSpec_bfmt _ _ _ _ hj])
    simp [specWritable, hn]; omega

/-- A value with a reserved bit for FLAGS, or on a core for PIVSTAT or a BFMTn: registers that the unit has and an MTS may write. -/
theorem reservedSpec {s : State} {spec : BitVec 12} {v : Word} (h : (spec = 0x006 ∧ (v.extractLsb' 15 49 ≠ 0 ∨ v.extractLsb' 6 2 ≠ 0)) ∨
      (s.curUnit < 192 ∧ spec = 0x008 ∧ (v.extractLsb' 24 8 ≠ 0 ∨ v.extractLsb' 0 4 ≠ 0)) ∨
      (s.curUnit < 192 ∧ 0x030 ≤ spec.toNat ∧ spec.toNat ≤ 0x03F ∧ badBankFormat (v.setWidth 32) = true)) :
    specWritable spec.toNat = true ∧ (isQuill s.curUnit && specCoreOnly spec.toNat) = false ∧ badSpecValue spec.toNat v = true := by
  rcases h with ⟨rfl, h⟩ | ⟨hcore, rfl, h⟩ | ⟨hcore, h1, h2, h⟩
  · refine ⟨rfl, Bool.and_false _, ?_⟩
    change (v.extractLsb' 15 49 != 0 || v.extractLsb' 6 2 != 0) = true
    simpa only [Bool.or_eq_true, bne_iff_ne] using h
  · refine ⟨rfl, by rw [isQuill_of_lt hcore]; rfl, ?_⟩
    change (v.extractLsb' 24 8 != 0 || v.extractLsb' 0 4 != 0) = true
    simpa only [Bool.or_eq_true, bne_iff_ne] using h
  · obtain ⟨j, hj⟩ : ∃ j, spec.toNat = 0x030 + j := ⟨spec.toNat - 0x030, by omega⟩
    refine ⟨by simp [specWritable]; omega, by rw [isQuill_of_lt hcore]; rfl, ?_⟩
    rw [hj, badSpecValue_bfmt _ (by omega), h]

/-- Settles O20. -/
theorem specialRegisterWritesAndTraps : Obligations.SpecialRegisterWritesAndTraps := by
  unfold Obligations.SpecialRegisterWritesAndTraps
  refine ⟨fun s o hd h => State.exec_mts_writes hd h, fun s o h hbad => ?_, fun s o h hbad => ?_, fun s o hd h hu => ?_⟩
  · rw [State.exec_stops rfl h (slotMfs_refused hbad), classNum_headWord rfl]; rfl
  · rw [State.exec_stops rfl h (slotMts_refused hbad), classNum_headWord rfl]; rfl
  · intro v hbad
    obtain ⟨hw, hc, hv⟩ := reservedSpec hbad
    rw [State.exec_stops rfl h (slotMts_reserved hd hw hc hv), classNum_headWord rfl]; rfl

end Sys2Proof.Machine
end

section
/-! PROOFS. The B class: branches, loops, YIELD, SLEEP, TRIG, TRAP and ERET (R82, R221, R261 to R265, R408 to R410, R431). -/

namespace Sys2Proof.Machine

/-! ### The issuing thread once it has moved on -/

/-- An update of a thread is what it makes of that thread as it is. -/
theorem State.updThread_congr {s : State} {u t : Nat} {f g : Thread → Thread} (h : f (s.thread u t) = g (s.thread u t)) :
    s.updThread u t f = s.updThread u t g := by
  rw [State.updThread, State.updThread, h]

/-- The issuing thread once it has moved on: it has advanced, and may have been passed over. -/
theorem State.moved_me (s : State) (i : Instr) (ht : s.turnThread < 4) :
    ∃ ys w, (s.moved i).thread s.curUnit s.turnThread = ({ s.me with yielded := ys, waitUntil := w } : Thread).advance (afterOne i s.me.pc) := by
  obtain ⟨ys, w, hb⟩ := s.thread_bundleIssued s.curUnit s.turnThread (max 1 (slotCycles i)) 1 s.curUnit s.turnThread
  exact ⟨ys, w, by rw [State.moved, State.thread_updThread, if_pos ⟨rfl, rfl, ht⟩, hb]; rfl⟩

/-- Where an update does nothing to the thread as it has advanced, the state has only moved on. -/
theorem State.movedWith_eq_moved {s : State} {i : Instr} {f : Thread → Thread}
    (h : ∀ ys w, f (({ s.me with yielded := ys, waitUntil := w } : Thread).advance (afterOne i s.me.pc)) =
      ({ s.me with yielded := ys, waitUntil := w } : Thread).advance (afterOne i s.me.pc)) : s.movedWith i f = s.moved i := by
  obtain ⟨ys, w, hb⟩ := s.thread_bundleIssued s.curUnit s.turnThread (max 1 (slotCycles i)) 1 s.curUnit s.turnThread
  rw [State.movedWith, State.moved, State.updThread_updThread]
  refine State.updThread_congr ?_
  rw [hb]
  exact h ys w

/-! ### Branches (R221, R261) -/

theorem branchTarget_eq {k : Nat} (pc : Word) (off : BitVec k) (xs : List XPay) : branchTarget pc off xs = pc + 4 * immediate off xs := by
  rw [branchTarget, BitVec.mul_comm]

theorem State.exec_br {s : State} {o : Jump} {xs : List XPay} (h : s.accepts (.br o xs) = true) :
    exec (.br o xs) s = .next (s.movedWith (.br o xs) (fun th => { th with pc := s.me.pc + 4 * immediate o.off xs, loop := none })) := by
  have hslot : slotOf (.br o xs) (s.issuerOf (.br o xs)) s =
      .ok (fun s' => s'.updThread s.curUnit s.turnThread (fun th => th.jump (branchTarget s.me.pc o.off xs))) := rfl
  rw [branchTarget_eq] at hslot
  exact State.exec_thread rfl h hslot (fun _ ht => ht)

theorem State.exec_bc {s : State} {o : BranchOps} {xs : List XPay} (h : s.accepts (.bc o xs) = true) :
    (s.me.getP o.pred ≠ o.neg → exec (.bc o xs) s = .next (s.movedWith (.bc o xs)
      (fun th => { th with pc := s.me.pc + 4 * immediate o.off xs, loop := none }))) ∧
    (s.me.getP o.pred = o.neg → exec (.bc o xs) s = .next (s.moved (.bc o xs))) := by
  refine ⟨fun htaken => ?_, fun hnot => ?_⟩
  · have hslot : slotOf (.bc o xs) (s.issuerOf (.bc o xs)) s =
        .ok (fun s' => s'.updThread s.curUnit s.turnThread (fun th => th.jump (branchTarget s.me.pc o.off xs))) :=
      if_pos (Bool.xor_iff_ne.mpr htaken)
    rw [branchTarget_eq] at hslot
    exact State.exec_thread rfl h hslot (fun _ ht => ht)
  · exact State.exec_idle rfl h (if_neg (fun hx => Bool.xor_iff_ne.mp hx hnot))

theorem State.exec_bcall {s : State} {o : Jump} {xs : List XPay} (h30 : s.me.fullX 30 = true) (h : s.accepts (.bcall o xs) = true) :
    exec (.bcall o xs) s = .next (s.movedWith (.bcall o xs) (fun th =>
      { th.setX 30 (s.me.pc + BitVec.ofNat 64 (4 * (1 + xs.length))) with pc := s.me.pc + 4 * immediate o.off xs, loop := none })) := by
  have hr : ready s.me [] [30] = .ok () := ready_full (by simp) (fun r hr => List.mem_singleton.mp hr ▸ h30)
  have hslot : slotOf (.bcall o xs) (s.issuerOf (.bcall o xs)) s = .ok (fun s' => s'.updThread s.curUnit s.turnThread
      (fun th => (th.setX 30 (s.me.pc + BitVec.ofNat 64 (4 * (1 + xs.length)))).jump (branchTarget s.me.pc o.off xs))) := by
    change slotBcall o xs _ s = _
    simp only [slotBcall, State.th_issuerOf, hr]
    rfl
  rw [branchTarget_eq] at hslot
  exact State.exec_thread rfl h hslot (fun th ht => (Thread.setX_traps th 30 (s.me.pc + BitVec.ofNat 64 (4 * (1 + xs.length)))).trans ht)

theorem State.exec_ret {s : State} {o : RetOps} (hr : s.me.fullX o.reg = true) (h : s.accepts (.ret o) = true) :
    exec (.ret o) s = .next (s.movedWith (.ret o) (fun th => { th with pc := s.me.getX o.reg, loop := none })) := by
  have hready : ready s.me [(o.reg, o.ta)] [] = .ok () := ready_full (by simp [hr]) (by simp)
  have hslot : slotOf (.ret o) (s.issuerOf (.ret o)) s =
      .ok (fun s' => s'.updThread s.curUnit s.turnThread (fun th => th.jump (s.me.getX o.reg))) := by
    change slotRet o _ s = _
    simp only [slotRet, State.th_issuerOf, hready]
    rfl
  exact State.exec_thread rfl h hslot (fun _ ht => ht)

/-- Settles O22. -/
theorem branchTargets : Obligations.BranchTargets := by
  unfold Obligations.BranchTargets
  exact ⟨fun _ _ _ => State.exec_br, fun _ _ _ => State.exec_bc, fun _ _ _ => State.exec_bcall, fun _ _ => State.exec_ret⟩

/-! ### Loops (R221, R262, R431) -/

/-- Either form of LOOP where the buffer holds no body. -/
theorem State.exec_loopBase {s : State} {i : Instr} {nm1 : BitVec 5} {srcs : List (BitVec 5 × Bool)} {count : Thread → Nat}
    (hi : i.isStep = false) (hslot : slotOf i = slotLoopBase nm1 srcs count) (hloop : s.me.loop = none)
    (hsrc : ∀ r ∈ srcs, s.me.fullX r.1 = true) (h : s.accepts i = true) :
    exec i s = .next (s.movedWith i (fun th => { th with
      pc := afterOne i s.me.pc
      loop := some ⟨s.me.pc, afterOne i s.me.pc, [], nm1.toNat + 1, 0, count s.me, none⟩ })) := by
  have hr : ready s.me srcs [] = .ok () := ready_full hsrc (by simp)
  have hn : loopNested s.me (s.issuerOf i).pc = false := by simp [loopNested, hloop]
  refine State.exec_thread hi h ?_ (fun _ ht => ht)
  simp only [hslot, slotLoopBase, State.th_issuerOf, hn, hr]
  rfl

/-- A LOOP within a body whose repetitions are not over traps (R431). -/
theorem State.exec_loopNested {s : State} {i : Instr} {nm1 : BitVec 5} {srcs : List (BitVec 5 × Bool)} {count : Thread → Nat} {l : LoopState}
    {op : BitVec 7} {b : Body} (hi : i.isStep = false) (hslot : slotOf i = slotLoopBase nm1 srcs count) (hc : i.opBody = some (3, op, b))
    (hloop : s.me.loop = some l) (hrem : l.remaining ≠ 0) (hat : l.at_ ≠ s.me.pc) (h : s.accepts i = true) :
    exec i s = .next (s.takeTrap s.curUnit s.turnThread ⟨0x13, 0, false, 3, 0, 0, 0, none⟩ s.me.pc s.me.pc) := by
  have hn : loopNested s.me (s.issuerOf i).pc = true := by
    have hat' : l.at_ ≠ (s.issuerOf i).pc := hat
    simp [loopNested, hloop, hrem, hat']
  have hstop : slotOf i (s.issuerOf i) s = .error (.checkTrap 0x13 0 0) := by
    simp only [hslot, slotLoopBase, State.th_issuerOf, hn]
    rfl
  rw [State.exec_stops hi h hstop, classNum_headWord hc]
  rfl

theorem loopCount_toNat (imm : BitVec 8) (xs : List XPay) :
    (loopCount imm xs).toNat = match xs with | [] => imm.toNat | x :: _ => (x ++ imm).toNat := by
  cases xs with
  | nil => rw [loopCount, BitVec.toNat_setWidth_of_le (by decide)]
  | cons x xs => rw [loopCount, BitVec.toNat_setWidth_of_le (by decide)]

/-- A bundle of a loop body (R221). -/
theorem State.exec_nop_inLoop {s : State} {l : LoopState} (hloop : s.me.loop = some l) (hs : l.susp = none) (h : s.accepts .nop = true) :
    (l.pos + 1 < l.len → exec .nop s = .next (s.movedWith .nop (fun th => { th with
      pc := s.me.pc + 4, loop := some { l with pos := l.pos + 1 } }))) ∧
    (l.pos + 1 = l.len → 1 < l.remaining → exec .nop s = .next (s.movedWith .nop (fun th => { th with
      pc := l.body, loop := some { l with pos := 0, remaining := l.remaining - 1 } }))) ∧
    (l.pos + 1 = l.len → l.remaining = 1 → exec .nop s = .next (s.movedWith .nop (fun th => { th with
      pc := s.me.pc + 4, loop := none }))) := by
  have hnext : afterOne .nop s.me.pc = s.me.pc + 4 := rfl
  have hidle : exec .nop s = .next (s.moved .nop) := State.exec_idle rfl h rfl
  refine ⟨fun hpos => ?_, fun hpos hrem => ?_, fun hpos hrem => ?_⟩
  · rw [hidle, State.movedWith_eq_moved (fun ys w => by simp [Thread.advance, hloop, hs, hnext, hpos])]
  · rw [hidle, State.movedWith_eq_moved (fun ys w => by simp [Thread.advance, hloop, hs, hpos, hrem])]
  · rw [hidle, State.movedWith_eq_moved (fun ys w => by simp [Thread.advance, hloop, hs, hnext, hpos, hrem])]

/-- Settles O23. -/
theorem loopsStartAndRepeat : Obligations.LoopsStartAndRepeat := by
  unfold Obligations.LoopsStartAndRepeat
  refine ⟨⟨fun s o hloop hc h => ?_, fun s o xs hloop h => ?_, ?_⟩, fun s l hloop hs h => State.exec_nop_inLoop hloop hs h⟩
  · exact State.exec_loopBase (srcs := [(o.count, o.ta)]) (count := fun th => (th.getX o.count).toNat) rfl rfl hloop (by simp [hc]) h
  · intro next
    rw [State.exec_loopBase (nm1 := o.nm1) (srcs := []) (count := fun _ => (loopCount o.imm xs).toNat) rfl rfl hloop (by simp) h,
      loopCount_toNat]
    rfl
  · rintro s i l hloop hrem hat h (⟨o, rfl⟩ | ⟨o, xs, rfl⟩)
    · exact State.exec_loopNested (nm1 := o.nm1) (srcs := [(o.count, o.ta)]) (count := fun th => (th.getX o.count).toNat) rfl rfl rfl hloop
        hrem hat h
    · exact State.exec_loopNested (nm1 := o.nm1) (srcs := []) (count := fun _ => (loopCount o.imm xs).toNat) rfl rfl rfl hloop hrem hat h

/-! ### NOP, YIELD, SLEEP and TRIG (R82, R235, R264, R265) -/

theorem State.exec_sleep {s : State} {o : Count16} (h : s.accepts (.sleep o) = true) :
    exec (.sleep o) s = .next (s.movedWith (.sleep o) (fun th =>
      if o.count = 0 then { th with yielded := (List.range 4).filter (fun j => j != s.turnThread) }
      else { th with sleeping := true, waitUntil := max th.waitUntil (s.cycles s.curUnit + 1 + o.count.toNat) })) := by
  rw [State.exec_plain (k := fun s' => s'.updThread s.curUnit s.turnThread (fun th => if o.count = 0 then th.yieldTo s.turnThread
    else { th with sleeping := true, waitUntil := max th.waitUntil (s'.cycles s.curUnit + 1 + o.count.toNat) })) rfl h rfl]
  · rfl
  · rw [State.thread_updThread]
    split
    · split <;> exact State.moved_traps h
    · exact State.moved_traps h

theorem State.exec_trig_core {s : State} {g : Nat} {k : Gang} (hcore : s.curUnit < 192) (howner : s.me.owner = .gang g)
    (hg : s.gangOf g = some k) (h : s.accepts .trig = true) :
    (k.trigUsed = false →
      exec .trig s = .next (((s.moved .trig).updGang g (fun x => { x with trigUsed := true })).updThread s.curUnit s.turnThread (fun th =>
        { th with trig := some (s.accessesOut s.curUnit s.turnThread) }))) ∧
    (k.trigUsed = true → exec .trig s = .next (s.moved .trig)) := by
  have hq : isQuill s.curUnit = false := isQuill_of_lt hcore
  have hslot : slotOf .trig (s.issuerOf .trig) s = .ok (fun s' => s'.firstTrig s.curUnit s.turnThread) := if_neg (by change ¬ isQuill s.curUnit = true; rw [hq]; decide)
  have howner' : ((s.moved .trig).thread s.curUnit s.turnThread).owner = .gang g :=
    (State.moved_keeps Thread.owner (fun _ _ _ _ _ => rfl) s .trig _ _).trans howner
  have hg' : (s.moved .trig).gangOf g = some k := hg
  refine ⟨fun hused => ?_, fun hused => ?_⟩
  · have hfirst : (s.moved .trig).firstTrig s.curUnit s.turnThread =
        ((s.moved .trig).updGang g (fun x => { x with trigUsed := true })).updThread s.curUnit s.turnThread (fun th =>
          { th with trig := some (s.accessesOut s.curUnit s.turnThread) }) := by
      simp only [State.firstTrig, howner', hg', Option.all_some, hused]
      rfl
    rw [State.exec_plain rfl h hslot]
    · rw [hfirst]
    · rw [hfirst, State.thread_updThread]
      split <;> exact State.moved_traps h
  · have hfirst : (s.moved .trig).firstTrig s.curUnit s.turnThread = s.moved .trig := by
      simp only [State.firstTrig, howner', hg', Option.all_some, hused, if_true]
    rw [State.exec_plain rfl h hslot, hfirst]
    rw [hfirst]; exact State.moved_traps h

/-- Settles O24. -/
theorem threadsGiveUpIssue : Obligations.ThreadsGiveUpIssue := by
  unfold Obligations.ThreadsGiveUpIssue
  refine ⟨fun s h => State.exec_idle rfl h rfl, fun s h => ?_, fun s o h => State.exec_sleep h, fun s h => ⟨fun h1 h2 => ?_, ?_⟩⟩
  · exact State.exec_thread rfl h rfl (fun _ ht => ht)
  · exact State.exec_idle rfl h (if_pos (isQuill_of_ge h1 h2))
  · exact fun g k hcore howner hg _ => State.exec_trig_core hcore howner hg h

/-! ### TRAP and ERET (R408 to R410) -/

/-- A trap that is taken (R408). -/
theorem State.takeTrap_taken {s : State} {u t : Nat} {tr : PendingTrap} {tepc bundle : Word} (hv : (s.thread u t).tvec ≠ 0)
    (hi : (s.thread u t).intrap = false) :
    s.takeTrap u t tr tepc bundle = s.setThread u t { s.thread u t with
      tepc := tepc, tcause := tcauseWord tr, taddr := tr.addr, tstat := tr.stat, intrap := true, pc := (s.thread u t).tvec, traps := [],
      waitUntil := max (s.thread u t).waitUntil (s.cycles u + 1),
      loop := (s.thread u t).loop.map (fun l => { l with susp := some (l.susp.getD tepc) }) } := by
  simp only [State.takeTrap, if_neg hv, hi, Bool.false_eq_true, if_false]

/-- A trap with TVEC 0, or within a handler, is unrecoverable (R408). -/
theorem State.takeTrap_fails {s : State} {u t : Nat} {tr : PendingTrap} {tepc bundle : Word} :
    ((s.thread u t).tvec = 0 →
      s.takeTrap u t tr tepc bundle = s.fail ⟨u, t, (s.thread u t).owner, bundle, tr.cls, tr.slot⟩ tr.cause tr.addr.toNat tr.stat) ∧
    ((s.thread u t).tvec ≠ 0 → (s.thread u t).intrap = true →
      s.takeTrap u t tr tepc bundle = s.fail ⟨u, t, (s.thread u t).owner, bundle, tr.cls, tr.slot⟩ 0x02 tr.addr.toNat tr.stat) := by
  refine ⟨fun hv => ?_, fun hv hi => ?_⟩
  · simp only [State.takeTrap, if_pos hv]
  · simp only [State.takeTrap, if_neg hv, hi, if_true]

/-- The trap of TRAP (R409). -/
def trapOf (o : Code8) : PendingTrap := ⟨0x01, o.code.toNat, false, 3, 0, 0, 0, none⟩

/-- The state in which TRAP's trap waits for the boundary. -/
def State.trapping (s : State) (o : Code8) : State := s.movedWith (.trap o) (fun th => { th with traps := [(trapOf o)] })

/-- The thread of a TRAP outside a loop, at the boundary. -/
theorem State.trapping_me {s : State} {o : Code8} (ht : s.turnThread < 4) (hloop : s.me.loop = none) :
    ∃ ys w, (s.trapping o).thread s.curUnit s.turnThread =
      { s.me with yielded := ys, waitUntil := w, pc := s.me.pc + 4, traps := [(trapOf o)] } := by
  obtain ⟨ys, w, hme⟩ := s.moved_me (.trap o) ht
  refine ⟨ys, w, ?_⟩
  rw [State.trapping, State.movedWith, State.thread_updThread, if_pos ⟨rfl, rfl, ht⟩, hme]
  simp [Thread.advance, hloop]
  rfl

/-- TRAP of a thread outside a loop: its trap is the one that is pending at the boundary. -/
theorem State.exec_trap {s : State} {o : Code8} (h : s.accepts (.trap o) = true) (ht : s.turnThread < 4) (hloop : s.me.loop = none) :
    exec (.trap o) s = .next ((s.trapping o).takeTrap s.curUnit s.turnThread (trapOf o) (s.me.pc + 4) s.me.pc) := by
  have hk : (s.moved (.trap o)).updThread s.curUnit s.turnThread (fun th => { th with traps := th.traps ++ [(trapOf o)] }) = s.trapping o := by
    rw [State.trapping, State.movedWith]
    exact State.updThread_congr (by rw [State.moved_traps h]; rfl)
  obtain ⟨ys, w, hth⟩ := State.trapping_me (o := o) ht hloop
  rw [State.exec_commits (k := fun s' => s'.updThread s.curUnit s.turnThread (fun th => { th with traps := th.traps ++ [(trapOf o)] }))
    rfl h rfl, hk, State.boundary_one _ _ _ _ (trapOf o) (by rw [hth]) (by rw [hth]; simp [Thread.skipping, hloop]), hth]
  rfl

/-- Settles O26: the trap is taken by the thread that has moved on. -/
theorem trapEntersTheHandler : Obligations.TrapEntersTheHandler := by
  unfold Obligations.TrapEntersTheHandler
  intro s o h ht hloop htvec hintrap
  obtain ⟨ys, w, hth⟩ := State.trapping_me (o := o) ht hloop
  refine ⟨_, State.exec_trap h ht hloop, ?_⟩
  rw [State.takeTrap_taken (by rw [hth]; exact htvec) (by rw [hth]; exact hintrap), State.thread_setThread, if_pos ⟨rfl, rfl, ht⟩, hth]
  refine ⟨rfl, ?_, rfl, rfl, rfl, rfl, rfl, rfl, ⟨rfl, rfl, rfl, rfl, rfl, rfl, rfl, rfl, rfl⟩, fun v m hother => ?_, rfl, rfl⟩
  · simp [tcauseWord, trapOf]
  · have hne : ¬ (v = s.curUnit ∧ m = s.turnThread ∧ s.turnThread < 4) := fun ⟨hv, hm, _⟩ => hother.elim (· hv) (· hm)
    rw [State.thread_setThread, if_neg hne, State.trapping, State.movedWith, State.thread_updThread, if_neg hne]
    have hkeeps := State.moved_keeps (fun th => (th.x, th.xfull, th.p, th.g, th.v, th.vfull, th.m, th.flags, th.stag,
      th.tvec, th.tepc, th.tcause, th.taddr, th.tstat, th.intrap)) (fun _ _ _ _ _ => rfl) s (.trap o) v m
    simp only [Prod.mk.injEq] at hkeeps
    simp only [Thread.sameFile, Thread.sameTrap, hkeeps, and_self]

/-! ### ERET (R410) -/

/-- Past the last thread the registers read as after reset. -/
theorem State.turnThread_lt_of_intrap {s : State} (h : s.me.intrap = true) : s.turnThread < 4 := by
  by_contra hge
  have hme : s.me = Thread.reset := Vector.getD_of_ge _ (Nat.not_lt.mp hge)
  rw [hme] at h
  cases h

/-- Within a handler a loop that a trap interrupted is held as it stands, and another has none that could be resumed. -/
theorem Thread.advance_loop_bind {th : Thread} (h : th.intrap = true) (n tepc : Word) :
    (th.advance n).loop.bind (fun l => l.susp.map (fun _ => l.resume tepc)) =
      th.loop.bind (fun l => if l.susp = none then none else some (l.resume tepc)) := by
  unfold Thread.advance
  split
  next hl => simp [hl]
  next l hl =>
    cases hs : l.susp with
    | some a => simp [hl, hs, h]
    | none =>
      simp only [hs, hl, Option.isSome_none, Bool.false_eq_true, if_false, Option.bind_some, if_true]
      split
      · simp
      · split <;> simp

theorem State.exec_eret {s : State} (h : s.accepts .eret = true) :
    (s.me.intrap = true → exec .eret s = .next (s.movedWith .eret (fun th => { th with
      intrap := false
      pc := s.me.tepc
      loop := s.me.loop.bind (fun l => if l.susp = none then none else some (l.resume s.me.tepc)) }))) ∧
    (s.me.intrap = false → exec .eret s = .next (s.fail ⟨s.curUnit, s.turnThread, s.me.owner, s.me.pc, 3, 0⟩ 0x03 0 0)) := by
  refine ⟨fun hi => ?_, fun hi => ?_⟩
  · have hslot : slotOf .eret (s.issuerOf .eret) s = .ok (fun s' => s'.updThread s.curUnit s.turnThread (fun th => th.eret s.me.tepc)) :=
      if_pos hi
    rw [State.exec_thread rfl h hslot (fun _ ht => ht)]
    refine congrArg Host.Outcome.next (State.updThread_congr ?_)
    obtain ⟨ys, w, hme⟩ := s.moved_me .eret (State.turnThread_lt_of_intrap hi)
    rw [hme, Thread.eret, Thread.advance_loop_bind (th := { s.me with yielded := ys, waitUntil := w }) hi]
  · have hslot : slotOf .eret (s.issuerOf .eret) s = .error (.checkFault 0x03 0) := if_neg (by rw [State.th_issuerOf, hi]; decide)
    rw [State.exec_stops rfl h hslot, classNum_headWord rfl]
    rfl

/-- Settles O27. -/
theorem trapsInLoopsReturn : Obligations.TrapsInLoopsReturn := by
  unfold Obligations.TrapsInLoopsReturn
  refine ⟨fun s o h ht hloop => ?_, fun s h => State.exec_eret h, fun th l hloop hs => ?_, fun l pc => ⟨fun hp => ?_, fun j hp hj => ?_, fun hp hj => ?_⟩⟩
  · intro t i
    obtain ⟨ys, w, hth⟩ := State.trapping_me (o := o) ht hloop
    refine ⟨fun hv => ?_, fun hv hi => ?_⟩
    · rw [State.exec_trap h ht hloop, State.takeTrap_fails.1 (by rw [hth]; exact hv), hth]; rfl
    · rw [State.exec_trap h ht hloop, State.takeTrap_fails.2 (by rw [hth]; exact hv) (by rw [hth]; exact hi), hth]; rfl
  · obtain ⟨at_, body, entries, len, pos, remaining, susp⟩ := l
    obtain rfl : susp = none := hs
    simp [Thread.eret, hloop, LoopState.resume]
  · simp [LoopState.resume, hp]
  · simp [LoopState.resume, hp, hj]
  · simp [LoopState.resume, hp, hj]

end Sys2Proof.Machine
end

section
/-! PROOFS. EXIT (R263, R460). -/

namespace Sys2Proof.Machine

/-! ### What EXIT leaves -/

/-- A request of a thread that exits: a write goes on without a result, a read that is no fill is dropped (R263). -/
def Req.afterExit (s : State) (u t : Nat) (r : Req) : Req :=
  if r.by_.unit = u && r.by_.thr = t then
    (if r.op.isWrite then { r with op := r.op.discard }
     else if r.op.isFill || s.readsForHgsc r.op then r else { r with dropped := true })
  else r

/-- An append of a thread that exits has no destination (R263). -/
def Append.afterExit (u t : Nat) (a : Append) : Append := if a.by_.unit = u && a.by_.thr = t then { a with dst := 0 } else a

/-- The state once a thread has exited. -/
def State.exited (s : State) (u t : Nat) : State :=
  let s0 := s.updThread u t (fun th => { th with status := .exiting, loop := none, traps := [] })
  let s1 := if isQuill u then s0 else s0.updCore u (fun k => { k with wflgs := k.wflgs.filter (fun f => f.thr != t) })
  { s1 with
    hgOps := s1.hgOps.filter (fun h => h.scatter || !(h.by_.unit == u && h.by_.thr == t)),
    channels := s1.channels.map (fun e => (e.1, e.2.leave u t s1.nextId (s1.cc / 320))),
    appends := s1.appends.map (Append.afterExit u t),
    reqs := (s1.reqs.filter (fun r => !r.givenUp u t)).map (Req.afterExit s1 u t) }

theorem slotExit_eq (c : Issuer) (s : State) : slotExit c s = .ok (fun s' => s'.exited c.unit c.thr) := rfl

section
variable (s : State) (u t : Nat)

theorem State.exited_mem : (s.exited u t).mem = s.mem := by
  unfold State.exited; dsimp only; split <;> rfl

theorem State.exited_reqs : (s.exited u t).reqs = (s.reqs.filter (fun r => !r.givenUp u t)).map (Req.afterExit s u t) := by
  unfold State.exited; dsimp only; split <;> rfl

theorem State.exited_appends : (s.exited u t).appends = s.appends.map (Append.afterExit u t) := by
  unfold State.exited; dsimp only; split <;> rfl

theorem State.exited_channels : (s.exited u t).channels = s.channels.map (fun e => (e.1, e.2.leave u t s.nextId (s.cc / 320))) := by
  unfold State.exited; dsimp only; split <;> rfl

theorem State.exited_thread (ht : t < 4) :
    (s.exited u t).thread u t = { s.thread u t with status := .exiting, loop := none, traps := [] } := by
  have hseqs : (s.exited u t).seqs = (s.updThread u t (fun th => { th with status := .exiting, loop := none, traps := [] })).seqs := by
    unfold State.exited; dsimp only; split <;> rfl
  rw [State.thread_of_seqs hseqs, State.thread_updThread, if_pos ⟨rfl, rfl, ht⟩]

end

/-! ### Channels -/

theorem lookup_map {α : Type} (f : α → α) (d : α) (k : Nat) (m : SMap α) (h : f d = d) :
    lookup d k (m.map (fun e => (e.1, f e.2))) = f (lookup d k m) := by
  induction m with
  | nil => exact h.symm
  | cons e m ih =>
    simp only [List.map_cons, lookup]
    split
    · rfl
    · exact ih

theorem State.exited_channel (s : State) (u t ch : Nat) :
    (s.exited u t).channel ch = (s.channel ch).leave u t s.nextId (s.cc / 320) := by
  rw [State.channel, State.exited_channels, lookup_map (fun c : Channel => c.leave u t s.nextId (s.cc / 320)) _ _ _ rfl]
  rfl

/-- A thread that leaves closes each run it holds. -/
theorem Channel.leave_runs {c : Channel} {u t n rot : Nat} {e : Nat × Option BulkRun} {r : BulkRun} (he : e ∈ (c.leave u t n rot).runs)
    (hr : e.2 = some r) (hu : r.unit = u) (ht : r.thr = t) : r.closing.isSome = true := by
  unfold Channel.leave at he
  split at he
  next =>
    obtain ⟨e0, he0, rfl⟩ := List.mem_map.mp he
    obtain ⟨r0, hr0, rfl⟩ := Option.map_eq_some_iff.mp hr
    by_cases hme : r0.unit = u ∧ r0.thr = t
    · simp [hme]
    · simp_all
  next hno =>
    refine absurd ?_ hno
    have hany : c.runs.any (fun e => e.2.any (fun r => r.unit == u && r.thr == t)) = true :=
      List.any_eq_true.mpr ⟨e, he, by simp [hr, hu, ht]⟩
    rw [hany]; rfl

/-- The same of the runs it waits for. -/
theorem Channel.leave_runQueue {c : Channel} {u t n rot : Nat} {r : RunRequest} (hr : r ∈ (c.leave u t n rot).runQueue)
    (hu : r.unit = u) (ht : r.thr = t) : r.closing.isSome = true := by
  unfold Channel.leave at hr
  split at hr
  next =>
    obtain ⟨r0, hr0, rfl⟩ := List.mem_map.mp hr
    by_cases hme : r0.unit = u ∧ r0.thr = t
    · simp [hme]
    · simp_all
  next hno =>
    refine absurd ?_ hno
    have hany : c.runQueue.any (fun r => r.unit == u && r.thr == t) = true := List.any_eq_true.mpr ⟨r, hr, by simp [hu, ht]⟩
    rw [hany, Bool.or_true]

/-! ### Requests -/

theorem Req.afterExit_id (s : State) (u t : Nat) (r : Req) : (r.afterExit s u t).id = r.id := by
  unfold Req.afterExit; split
  · split
    · rfl
    · split <;> rfl
  · rfl

theorem Req.afterExit_by (s : State) (u t : Nat) (r : Req) : (r.afterExit s u t).by_ = r.by_ := by
  unfold Req.afterExit; split
  · split
    · rfl
    · split <;> rfl
  · rfl

theorem Req.afterExit_other {s : State} {u t : Nat} {r : Req} (h : r.by_.unit ≠ u ∨ r.by_.thr ≠ t) : r.afterExit s u t = r := by
  refine if_neg ?_
  simp only [Bool.and_eq_true, decide_eq_true_eq, not_and_or]
  exact h

theorem Req.afterExit_write {s : State} {u t : Nat} {r : Req} (hu : r.by_.unit = u) (ht : r.by_.thr = t) (hw : r.op.isWrite = true) :
    r.afterExit s u t = { r with op := r.op.discard } := by
  rw [Req.afterExit, if_pos (by simp [hu, ht]), if_pos hw]

theorem Req.givenUp_other {u t : Nat} {r : Req} (h : r.by_.unit ≠ u ∨ r.by_.thr ≠ t) : r.givenUp u t = false := by
  rcases h with h | h <;> simp [Req.givenUp, h]

theorem Req.givenUp_write {u t : Nat} {r : Req} (h : r.op.isWrite = true) : r.givenUp u t = false := by
  rw [Req.givenUp]
  split
  next heq => rw [heq] at h; cases h
  next => rw [Bool.and_false]

theorem MemOp.discard_isWrite (o : MemOp) : o.discard.isWrite = o.isWrite := by
  cases o <;> rfl

/-- A read of the thread that is left and neither a fill nor for an HGSC is dropped. -/
theorem Req.afterExit_dropped {s : State} {u t : Nat} {r : Req} (hu : r.by_.unit = u) (ht : r.by_.thr = t)
    (hw : (r.afterExit s u t).op.isWrite = false) (hf : (r.afterExit s u t).op.isFill = false)
    (hh : s.readsForHgsc (r.afterExit s u t).op = false) : (r.afterExit s u t).dropped = true := by
  have hme : (decide (r.by_.unit = u) && decide (r.by_.thr = t)) = true := by simp [hu, ht]
  by_cases hwr : r.op.isWrite = true
  · rw [Req.afterExit_write hu ht hwr, MemOp.discard_isWrite, hwr] at hw; cases hw
  · by_cases hfill : (r.op.isFill || s.readsForHgsc r.op) = true
    · have hsame : r.afterExit s u t = r := by rw [Req.afterExit, if_pos hme, if_neg hwr, if_pos hfill]
      rw [hsame] at hf hh
      rw [hf, hh] at hfill; cases hfill
    · rw [Req.afterExit, if_pos hme, if_neg hwr, if_neg hfill]

theorem MemOp.discard_of_not_amo {o : MemOp} (h : ∀ k v w d, o ≠ .amo k v w d) : o.discard = o := by
  cases o with
  | amo k v w d => exact absurd rfl (h k v w d)
  | _ => rfl

/-- Settles O25. -/
theorem exitEndsIssue : Obligations.ExitEndsIssue := by
  unfold Obligations.ExitEndsIssue
  intro s h ht
  have hth := State.exited_thread (s.moved .exit) s.curUnit s.turnThread ht
  have hreqs : ((s.moved .exit).exited s.curUnit s.turnThread).reqs =
      (s.reqs.filter (fun r => !r.givenUp s.curUnit s.turnThread)).map (Req.afterExit s s.curUnit s.turnThread) :=
    State.exited_reqs (s.moved .exit) s.curUnit s.turnThread
  have hexec : exec .exit s = .next ((s.moved .exit).exited s.curUnit s.turnThread) :=
    State.exec_plain rfl h (slotExit_eq _ s) (congrArg Thread.traps hth)
  have hkept : ∀ r ∈ s.reqs, r.givenUp s.curUnit s.turnThread = false →
      r.afterExit s s.curUnit s.turnThread ∈ ((s.moved .exit).exited s.curUnit s.turnThread).reqs := by
    intro r hr hg
    rw [hreqs]
    exact List.mem_map_of_mem (List.mem_filter.mpr ⟨hr, by rw [hg]; rfl⟩)
  refine ⟨_, hexec, by rw [hth], by rw [hth], ?_, ?_, ?_, ?_, ?_, ?_, ?_, ?_, ?_, ?_⟩
  · have hkeeps := State.moved_keeps (fun th => (th.x, th.xfull, th.p, th.g, th.v, th.vfull, th.m, th.flags, th.stag))
      (fun _ _ _ _ _ => rfl) s .exit s.curUnit s.turnThread
    simp only [Prod.mk.injEq] at hkeeps
    rw [hth]
    exact hkeeps
  · exact State.exited_mem _ _ _
  · rw [State.threadFree, hth]; rfl
  · rw [hreqs, List.map_map]
    exact List.map_congr_left (fun r _ => Req.afterExit_id _ _ _ r)
  · intro r hr hother
    have hmem := hkept r hr (Req.givenUp_other hother)
    rwa [Req.afterExit_other hother] at hmem
  · intro r hr hu htt hw
    have hmem := hkept r hr (Req.givenUp_write hw)
    rw [Req.afterExit_write hu htt hw] at hmem
    refine ⟨fun k v w d hop => ?_, fun hop => ?_⟩
    · rwa [hop] at hmem
    · rwa [MemOp.discard_of_not_amo hop] at hmem
  · intro a ha hu htt
    rw [State.exited_appends] at ha
    obtain ⟨a0, -, rfl⟩ := List.mem_map.mp ha
    unfold Append.afterExit at *
    split at * <;> simp_all
  · intro ch e r he hr hu htt
    rw [State.exited_channel] at he
    exact Channel.leave_runs he hr hu htt
  · intro ch r hr hu htt
    rw [State.exited_channel] at hr
    exact Channel.leave_runQueue hr hu htt
  · intro r hr hu htt hw hf hh
    rw [hreqs] at hr
    obtain ⟨r0, -, rfl⟩ := List.mem_map.mp hr
    rw [Req.afterExit_by] at hu htt
    exact Req.afterExit_dropped hu htt hw hf hh

end Sys2Proof.Machine
end

section
/-! PROOFS. The C class as it issues: appends, WAITID, wells and bulk runs (R173, R176, R177, R192, R267 to R276, R460). -/

namespace Sys2Proof.Machine

/-! ### Appends (R267 to R270) -/

@[simp] theorem State.thread_pushAppend (s : State) (a : Append) (v m : Nat) : (s.pushAppend a).thread v m = s.thread v m :=
  State.thread_of_seqs (t := s.pushAppend a) rfl v m

/-- An accepted instruction whose commit starts an append. -/
theorem State.exec_append {s : State} {i : Instr} {dst : BitVec 5} {a : Append} (hi : i.isStep = false) (h : s.accepts i = true)
    (hf : slotOf i (s.issuerOf i) s = .ok (fun s' => (s'.updThread s.curUnit s.turnThread (fun th => th.emptyX dst)).pushAppend a)) :
    exec i s = .next ((s.movedWith i (fun th => th.emptyX dst)).pushAppend a) := by
  rw [State.exec_plain hi h hf]
  · rfl
  · rw [State.thread_pushAppend, State.thread_updThread]
    split
    · rw [Thread.emptyX_traps, State.moved_traps h]
    · exact State.moved_traps h

theorem readyUnless_ok {th : Thread} {srcs : List (BitVec 5 × Bool)} {dsts : List (BitVec 5)} (h : ready th srcs dsts = .ok ()) :
    readyUnless th srcs dsts none = .ok () := by
  simp only [readyUnless, h]

section
variable {s : State} {dst srcA srcB : BitVec 5} {ta tb : Bool} (ha : s.me.fullX srcA = true) (hb : s.me.fullX srcB = true)
  (hd : s.me.fullX dst = true) (hroom : (s.appendsOf s.curUnit s.turnThread).length < 4)
include ha hb hd hroom

theorem slotCpy_ok {i : Instr} {md : BitVec 2} : slotCpy ⟨dst, srcA, srcB, ta, tb, md⟩ (s.issuerOf i) s =
    .ok ((s.issuerOf i).appendCommit ((s.issuerOf i).issue s 4) ((s.issuerOf i).part s) (s.ownerLaunch s.me.owner) (.cpy md.toNat)
      (s.me.getX srcA) (s.me.getX srcB) dst) := by
  have hr : ready s.me [(srcA, ta), (srcB, tb)] [dst] = .ok () := ready_full (by simp [ha, hb]) (by simp [hd])
  refine (if_neg (Nat.not_le.mpr hroom)).trans ?_
  simp only [State.th_issuerOf, hr]

theorem slotCpyx_ok {i : Instr} {chan : BitVec 3} (hen : (s.copyQueue (16 * engineOf s.curUnit + chan.toNat)).en = true) :
    slotCpyx ⟨dst, srcA, srcB, ta, tb, chan⟩ (s.issuerOf i) s =
      .ok ((s.issuerOf i).appendCommit ((s.issuerOf i).issue s 4) ((s.issuerOf i).part s) (s.ownerLaunch s.me.owner) (.cpyx chan.toNat)
        (s.me.getX srcA) (s.me.getX srcB) dst) := by
  have hr : ready s.me [(srcA, ta), (srcB, tb)] [dst] = .ok () := ready_full (by simp [ha, hb]) (by simp [hd])
  refine (if_neg (Nat.not_le.mpr hroom)).trans ?_
  simp only [State.th_issuerOf, hr]
  refine if_neg ?_
  change ¬ (!(s.copyQueue (16 * engineOf s.curUnit + chan.toNat)).en) = true
  simp [hen]

theorem slotQpost_ok {i : Instr} (hq : (s.me.getX srcB).toNat < 64) (hen : (s.launchQueue (s.me.getX srcB).toNat).en = true)
    (hpart : (s.launchQueue (s.me.getX srcB).toNat).part = (s.partOfUnit s.curUnit).getD 0) :
    slotQpost ⟨dst, srcA, srcB, ta, tb⟩ (s.issuerOf i) s =
      .ok ((s.issuerOf i).appendCommit ((s.issuerOf i).issue s 4) ((s.issuerOf i).part s) (s.ownerLaunch s.me.owner)
        (.qpost (s.me.getX srcB).toNat) (s.me.getX srcA) (s.me.getX srcB) dst) := by
  have hr : ready s.me [(srcA, ta), (srcB, tb)] [dst] = .ok () := ready_full (by simp [ha, hb]) (by simp [hd])
  have hno : ¬ (s.me.fullX srcB && decide (64 ≤ (s.me.getX srcB).toNat)) = true := by simp; omega
  have hru : readyUnless ((s.issuerOf i).th s) [(srcA, ta), (srcB, tb)] [dst]
      (if ((s.issuerOf i).th s).fullX srcB && 64 ≤ (((s.issuerOf i).th s).getX srcB).toNat then some (.readTrap 0x10 8 (s.issuerOf i).word)
        else none) = .ok () := (congrArg _ (if_neg hno)).trans (readyUnless_ok hr)
  have hpart' : ((s.launchQueue (s.me.getX srcB).toNat).part != (s.issuerOf i).part s) = false := by
    simp only [bne_eq_false_iff_eq]; exact hpart
  refine (if_neg (Nat.not_le.mpr hroom)).trans ?_
  rw [hru]
  simp only [State.th_issuerOf, hen, hpart']
  rfl

end

/-! ### WAITID (R173, R271) -/

/-- An accepted instruction that blocks leaves its thread not ready (R218). -/
theorem State.exec_blocks {s : State} {i : Instr} (hi : i.isStep = false) (h : s.accepts i = true)
    (hf : slotOf i (s.issuerOf i) s = .error .block) : exec i s = .next (s.blockThread s.curUnit s.turnThread) := by
  rw [State.exec_stops hi h hf]; rfl

theorem State.exec_waitid {s : State} {o : WaitOps} (ha : s.me.fullX o.srcA = true) (h : s.accepts (.waitid o) = true) :
    let d := (s.copyQueue (16 * engineOf s.curUnit + o.chan.toNat)).doneid
    let x := (s.me.getX o.srcA).setWidth 32
    (s.acquiresOut s.curUnit s.turnThread = [] → (d - x - 1).toNat < 2 ^ 31 → exec (.waitid o) s = .next (s.moved (.waitid o))) ∧
    ((s.acquiresOut s.curUnit s.turnThread ≠ [] ∨ 2 ^ 31 ≤ (d - x - 1).toNat) →
      exec (.waitid o) s = .next (s.blockThread s.curUnit s.turnThread)) := by
  intro d x
  have hr : ready s.me [(o.srcA, o.ta)] [] = .ok () := ready_full (by simp [ha]) (by simp)
  have hslot : slotWaitid o (s.issuerOf (.waitid o)) s =
      if !(s.acquiresOut s.curUnit s.turnThread).isEmpty then .error .block
      else if (d - x - 1).toNat < 2 ^ 31 then .ok (fun s => s) else .error .block := by
    simp only [slotWaitid, State.th_issuerOf, hr]
    rfl
  refine ⟨fun hacq hlt => ?_, fun hwait => ?_⟩
  · rw [hacq, if_neg (by decide), if_pos hlt] at hslot
    exact State.exec_idle rfl h hslot
  · refine State.exec_blocks rfl h (hslot.trans ?_)
    by_cases hacq : s.acquiresOut s.curUnit s.turnThread = []
    · have hge : ¬ (d - x - 1).toNat < 2 ^ 31 := Nat.not_lt.mpr (hwait.resolve_left (not_not.mpr hacq))
      rw [hacq, if_neg (by decide), if_neg hge]
    · exact if_pos (by simpa using hacq)

/-- Settles O28. -/
theorem appendsStart : Obligations.AppendsStart := by
  unfold Obligations.AppendsStart
  refine ⟨fun s dst srcA srcB ta tb md chan ha hb hd hroom => ⟨fun h => ?_, fun h hen => ?_, fun h hq hen hpart => ?_⟩,
    fun s o ha h => State.exec_waitid ha h⟩
  · exact State.exec_append rfl h (slotCpy_ok ha hb hd hroom)
  · exact State.exec_append rfl h (slotCpyx_ok ha hb hd hroom hen)
  · exact State.exec_append rfl h (slotQpost_ok ha hb hd hroom hq hen hpart)

end Sys2Proof.Machine
end

section
/-! PROOFS. The well instructions as they issue (R176, R177, R235, R272, R273). -/

namespace Sys2Proof.Machine

/-! ### Who may use wells -/

theorem wellAllowed_ok {s : State} {c : Issuer} (h : isQuill c.unit = true → (s.ownerGang (c.th s).owner).isSome = true) :
    wellAllowed s c false = .ok () := by
  refine if_neg ?_
  cases hq : isQuill c.unit with
  | false => simp
  | true => simpa [Option.isSome_iff_ne_none] using h hq

theorem wellAllowed_core {s : State} {c : Issuer} (h : isQuill c.unit = false) (drops : Bool) : wellAllowed s c drops = .ok () :=
  if_neg (by simp [h])

/-! ### Operations that are put on their way -/

@[simp] theorem State.thread_pushWell (s : State) (i : Issue) (p va : Nat) (g : Target) (k : WellKind) (n v m : Nat) :
    (s.pushWell i p va g k n).thread v m = s.thread v m := State.thread_submit _ _ v m

/-- The operation of an accepted well instruction enters its thread's order. -/
theorem State.exec_pushWell {s : State} {i : Instr} {va : Nat} {g : Target} {k : WellKind} (hi : i.isStep = false) (h : s.accepts i = true)
    (hf : slotOf i (s.issuerOf i) s = .ok (fun s' => s'.pushWell ((s.issuerOf i).issue s 4) ((s.issuerOf i).part s) va g k
      ((s.issuerOf i).me s))) :
    exec i s = .next ((s.moved i).pushWell ⟨s.curUnit, s.turnThread, s.me.owner, s.me.pc, 4, 0⟩ ((s.partOfUnit s.curUnit).getD 0) va g k
      (4 * (s.core s.curUnit).rank + s.turnThread)) :=
  State.exec_plain hi h hf ((congrArg Thread.traps (State.thread_pushWell _ _ _ _ _ _ _ _ _)).trans (State.moved_traps h))

theorem slotWarr_ok {s : State} {i : Instr} {a b : BitVec 5} {ta tb : Bool} {scope : BitVec 3} {core off : Nat} {g : Target}
    (hw : wellAllowed s (s.issuerOf i) false = .ok ()) (ha : s.me.fullX a = true) (hb : s.me.fullX b = true)
    (hs : (s.issuerOf i).scratch s (s.me.getX a).toNat 128 .write = .ok (core, off, g)) :
    slotWarr ⟨a, b, ta, tb, scope⟩ (s.issuerOf i) s = .ok (fun s' => s'.pushWell ((s.issuerOf i).issue s 4) ((s.issuerOf i).part s)
      (s.me.getX a).toNat g (.arrive ((s.me.getX b).setWidth 32).toInt) ((s.issuerOf i).me s)) := by
  have hr : ready s.me [(a, ta), (b, tb)] [] = .ok () := ready_full (by simp [ha, hb]) (by simp)
  simp only [slotWarr, hw, State.th_issuerOf, hr, hs]

theorem slotWdrop_ok {s : State} {i : Instr} {a : BitVec 5} {ta : Bool} {scope : BitVec 3} {core off : Nat} {g : Target}
    (hw : wellAllowed s (s.issuerOf i) true = .ok ()) (ha : s.me.fullX a = true)
    (hs : (s.issuerOf i).scratch s (s.me.getX a).toNat 128 .write = .ok (core, off, g)) :
    slotWdrop ⟨a, ta, scope⟩ (s.issuerOf i) s = .ok (fun s' => s'.pushWell ((s.issuerOf i).issue s 4) ((s.issuerOf i).part s)
      (s.me.getX a).toNat g (.drop false) ((s.issuerOf i).me s)) := by
  have hr : ready s.me [(a, ta)] [] = .ok () := ready_full (by simp [ha]) (by simp)
  simp only [slotWdrop, hw, State.th_issuerOf, hr, hs]

/-! ### WINIT -/

/-- The six pieces of a participation bitmap, each in a scratchpad (R176). -/
theorem Issuer.bitmap_ok {c : Issuer} {s : State} {p : Nat} {gb : Nat → Target} (hq : isQuill c.unit = false) (hp : p % 16 = 0) :
    ∀ n, (∀ j < n, s.translate (c.part s) c.unit (p + 16 * j) .read = .ok (gb j) ∧ (s.scratchOf (gb j)).isSome = true) →
      c.bitmap s p n = .ok ((List.range n).map (fun j => (gb j).pa)) := by
  intro n
  induction n with
  | zero => intro _; rfl
  | succ n ih =>
    intro h
    obtain ⟨ht, hs⟩ := h n (Nat.lt_succ_self n)
    obtain ⟨⟨core, off⟩, hsc⟩ := Option.isSome_iff_exists.mp hs
    have hm : s.mayName c.unit (c.th s).owner core = true := by simp [State.mayName, hq]
    rw [Issuer.bitmap, ih (fun j hj => h j (Nat.lt_succ_of_lt hj)), Issuer.scratch_ok ht (by omega) hsc hm, List.range_succ, List.map_append]
    rfl

section
variable {s : State} {i : Instr} {d a b : BitVec 5} {ta tb : Bool} {sel : BitVec 3} {core off : Nat} {g : Target}
  (hw : wellAllowed s (s.issuerOf i) true = .ok ()) (ha : s.me.fullX a = true) (hb : s.me.fullX b = true) (hd : s.me.fullX d = true)
  (hn : (s.me.getX b).toNat ≤ 768) (hs : (s.issuerOf i).scratch s (s.me.getX a).toNat 128 .write = .ok (core, off, g))
include hw ha hb hd hn hs

theorem slotWinit_eq (hp : (s.me.getX d).toNat % 16 = 0) : slotWinit ⟨d, a, b, ta, tb, sel⟩ (s.issuerOf i) s =
    if (s.me.getX d).toNat = 0 then .ok (fun s' => s'.pushWell ((s.issuerOf i).issue s 4) ((s.issuerOf i).part s)
        (s.me.getX a).toNat g (.init (s.me.getX b).toNat none) ((s.issuerOf i).me s))
    else match (s.issuerOf i).bitmap s (s.me.getX d).toNat 6 with
      | .error e => .error e
      | .ok ps => .ok (fun s' => s'.pushWell ((s.issuerOf i).issue s 4) ((s.issuerOf i).part s)
        (s.me.getX a).toNat g (.init (s.me.getX b).toNat (some ps)) ((s.issuerOf i).me s)) := by
  have hr : ready s.me [(a, ta), (b, tb), (d, false)] [] = .ok () := ready_full (by simp [ha, hb, hd]) (by simp)
  have hno : ¬ ((s.me.fullX b && decide (1024 ≤ (s.me.getX b).toNat)) || decide ((s.me.getX d).toNat % 16 ≠ 0)) = true := by
    simp [hp]; omega
  have hru : readyUnless ((s.issuerOf i).th s) [(a, ta), (b, tb), (d, false)] []
      (if (((s.issuerOf i).th s).fullX b && decide (1024 ≤ (((s.issuerOf i).th s).getX b).toNat)) ||
          decide ((((s.issuerOf i).th s).getX d).toNat % 16 ≠ 0) then some (.readTrap 0x10 8 (s.issuerOf i).word) else none) = .ok () :=
    (congrArg _ (if_neg hno)).trans (readyUnless_ok hr)
  simp only [slotWinit, hw]
  rw [hru]
  refine (if_neg (Nat.not_lt.mpr hn)).trans ?_
  simp only [State.th_issuerOf, hs]
  rfl

end

/-! ### WWAIT and WTEST -/

theorem slotWwait_eq {s : State} {i : Instr} {a b : BitVec 5} {ta tb : Bool} {scope : BitVec 3} {core off : Nat} {g : Target}
    (hw : wellAllowed s (s.issuerOf i) false = .ok ()) (ha : s.me.fullX a = true) (hb : s.me.fullX b = true)
    (hs : (s.issuerOf i).scratch s (s.me.getX a).toNat 128 .read = .ok (core, off, g))
    (hp : s.wellPending s.curUnit s.turnThread g.pa = false) :
    slotWwait ⟨a, b, ta, tb, scope⟩ (s.issuerOf i) s =
      if core = s.curUnit then (if s.wellPhase (localOf g.pa) = (s.me.getX b).getLsbD 0 then .error .block else .ok (fun s => s))
      else if s.me.wellSeen (localOf g.pa) ((s.me.getX b).getLsbD 0) then
        .ok (fun s' => s'.updThread s.curUnit s.turnThread (fun t => { t with wellWait := none }))
      else .error (.wellBlock (localOf g.pa) ((s.me.getX b).getLsbD 0)) := by
  have hr : ready s.me [(a, ta), (b, tb)] [] = .ok () := ready_full (by simp [ha, hb]) (by simp)
  simp only [slotWwait, hw, State.th_issuerOf, hr, hs]
  refine (if_neg ?_).trans rfl
  change ¬ s.wellPending s.curUnit s.turnThread g.pa = true
  rw [hp]; decide

theorem State.exec_wwait {s : State} {a b : BitVec 5} {ta tb : Bool} {scope : BitVec 3} {core off : Nat} {g : Target}
    (hw : wellAllowed s (s.issuerOf (.wwait ⟨a, b, ta, tb, scope⟩)) false = .ok ()) (ha : s.me.fullX a = true) (hb : s.me.fullX b = true)
    (hs : (s.issuerOf (.wwait ⟨a, b, ta, tb, scope⟩)).scratch s (s.me.getX a).toNat 128 .read = .ok (core, off, g))
    (h : s.accepts (.wwait ⟨a, b, ta, tb, scope⟩) = true) (hp : s.wellPending s.curUnit s.turnThread g.pa = false) :
    let ph := (s.me.getX b).getLsbD 0
    (core = s.curUnit → s.wellPhase (localOf g.pa) ≠ ph →
      exec (.wwait ⟨a, b, ta, tb, scope⟩) s = .next (s.moved (.wwait ⟨a, b, ta, tb, scope⟩))) ∧
    (core = s.curUnit → s.wellPhase (localOf g.pa) = ph →
      exec (.wwait ⟨a, b, ta, tb, scope⟩) s = .next (s.blockThread s.curUnit s.turnThread)) ∧
    (core ≠ s.curUnit → s.me.wellWait = some (localOf g.pa, ph, true) →
      exec (.wwait ⟨a, b, ta, tb, scope⟩) s =
        .next (s.movedWith (.wwait ⟨a, b, ta, tb, scope⟩) (fun th => { th with wellWait := none }))) ∧
    (core ≠ s.curUnit → s.me.wellWait = none →
      exec (.wwait ⟨a, b, ta, tb, scope⟩) s = .next ((s.updThread s.curUnit s.turnThread (fun th =>
        { th with wellWait := some (localOf g.pa, ph, false) })).blockThread s.curUnit s.turnThread)) := by
  intro ph
  have hslot := slotWwait_eq (ta := ta) (tb := tb) (scope := scope) hw ha hb hs hp
  refine ⟨fun hc hph => ?_, fun hc hph => ?_, fun hc hseen => ?_, fun hc hnone => ?_⟩
  · exact State.exec_idle rfl h (hslot.trans ((if_pos hc).trans (if_neg hph)))
  · exact State.exec_blocks rfl h (hslot.trans ((if_pos hc).trans (if_pos hph)))
  · have hsn : s.me.wellSeen (localOf g.pa) ph = true := by simp [Thread.wellSeen, hseen]
    exact State.exec_thread rfl h (hslot.trans ((if_neg hc).trans (if_pos hsn))) (fun _ ht => ht)
  · have hsn : ¬ s.me.wellSeen (localOf g.pa) ph = true := by simp [Thread.wellSeen, hnone]
    rw [State.exec_stops rfl h (hslot.trans ((if_neg hc).trans (if_neg hsn)))]
    refine congrArg (fun s' : State => Host.Outcome.next (s'.blockThread s.curUnit s.turnThread)) (State.updThread_congr ?_)
    have hnone' : (s.thread s.curUnit s.turnThread).wellWait = none := hnone
    simp only [hnone']
    rfl

theorem slotWtest_ok {s : State} {i : Instr} {d a : BitVec 5} {ta : Bool} {scope : BitVec 3} {core off : Nat} {g : Target}
    (hw : wellAllowed s (s.issuerOf i) false = .ok ()) (ha : s.me.fullX a = true) (hd : s.me.fullX d = true)
    (hs : (s.issuerOf i).scratch s (s.me.getX a).toNat 128 .read = .ok (core, off, g)) :
    slotWtest ⟨d, a, ta, scope⟩ (s.issuerOf i) s = .ok (fun s' => (s'.updThread s.curUnit s.turnThread (fun t => t.emptyX d)).submit
      { (s.issuerOf i).request s 4 (s.me.getX a).toNat 4 g (.wtest d.toNat) with acquire := true }) := by
  have hr : ready s.me [(a, ta)] [d] = .ok () := ready_full (by simp [ha]) (by simp [hd])
  simp only [slotWtest, hw, State.th_issuerOf, hr, hs]
  rfl

/-- Settles O29. -/
theorem wellInstructions : Obligations.WellInstructions := by
  unfold Obligations.WellInstructions
  intro s d a b ta tb scope sel g core off va p push hgang ha hb hd hva hsc hm
  have hw : ∀ i, wellAllowed s (s.issuerOf i) false = .ok () := fun i => wellAllowed_ok hgang
  refine ⟨fun ht => ?_, fun ht => ?_⟩
  · have hs : ∀ i, (s.issuerOf i).scratch s va 128 .write = .ok (core, off, g) := fun i => Issuer.scratch_ok ht hva hsc hm
    refine ⟨fun h hq hn => ⟨fun h0 => ?_, fun gb h0 hal hgb => ?_⟩, fun h => ?_, fun h hq => ?_⟩
    · have h0' : (s.me.getX d).toNat = 0 := by rw [h0]; rfl
      refine State.exec_pushWell rfl h ?_
      exact (slotWinit_eq (wellAllowed_core hq true) ha hb hd hn (hs _) (by rw [h0'])).trans (if_pos h0')
    · have h0' : ¬ (s.me.getX d).toNat = 0 := fun hz => h0 (BitVec.eq_of_toNat_eq hz)
      refine State.exec_pushWell rfl h ?_
      refine (slotWinit_eq (wellAllowed_core hq true) ha hb hd hn (hs _) hal).trans ((if_neg h0').trans ?_)
      rw [Issuer.bitmap_ok (c := s.issuerOf (.winit ⟨d, a, b, ta, tb, sel⟩)) hq hal 6 hgb]
    · exact State.exec_pushWell rfl h (slotWarr_ok (hw _) ha hb (hs _))
    · exact State.exec_pushWell rfl h (slotWdrop_ok (wellAllowed_core hq true) ha (hs _))
  · have hs : ∀ i, (s.issuerOf i).scratch s va 128 .read = .ok (core, off, g) := fun i => Issuer.scratch_ok ht hva hsc hm
    exact ⟨fun h hp => State.exec_wwait (hw _) ha hb (hs _) h hp,
      fun h => State.exec_emptySubmit rfl h (slotWtest_ok (hw _) ha hd (hs _))⟩

end Sys2Proof.Machine
end

section
/-! PROOFS. BOPEN and BCLOSE as they issue (R275, R276, R460). -/

namespace Sys2Proof.Machine

/-- An accepted instruction whose commit changes one channel and takes a number. -/
theorem State.exec_freshChannel {s : State} {i : Instr} {n : Nat} {f : State → Channel → Channel} (hi : i.isStep = false)
    (h : s.accepts i = true) (hf : slotOf i (s.issuerOf i) s = .ok (fun s' => s'.fresh.updChannel n (f s'))) :
    exec i s = .next ((s.moved i).fresh.updChannel n (f (s.moved i))) := by
  have hth : ((s.moved i).fresh.updChannel n (f (s.moved i))).thread s.curUnit s.turnThread = (s.moved i).thread s.curUnit s.turnThread :=
    State.thread_of_seqs (t := (s.moved i).fresh.updChannel n (f (s.moved i))) rfl _ _
  exact State.exec_plain hi h hf ((congrArg Thread.traps hth).trans (State.moved_traps h))

/-- The run of a channel, and the requests for one, that a BCLOSE of a thread marks. -/
def Channel.close (u t run n rotation : Nat) (k : Channel) : Channel :=
  { k with runs := adjust none run (fun r => r.map (fun b => if b.unit = u && b.thr = t then { b with closing := some (b.closing.getD n) } else b)) k.runs,
           runQueue := k.runQueue.map (fun r => if r.unit = u && r.thr = t && r.run = run then { r with closing := some (r.closing.getD n) } else r),
           rotation := rotation }

section
variable {s : State} {o : BulkOps} {g : Target} (ha : s.me.fullX o.srcA = true)
  (ht : s.translate ((s.partOfUnit s.curUnit).getD 0) s.curUnit (s.me.getX o.srcA).toNat .read = .ok g) (hl : s.isLocal g = true)
  (hown : s.ownHbm ((s.partOfUnit s.curUnit).getD 0) (localOf g.pa) 1 = true)
include ha ht hl hown

theorem slotBopen_ok (hrun : s.hasRun (channelOf (localOf g.pa)) o.run.toNat = true) :
    slotBopen o (s.issuerOf (.bopen o)) s = .ok (fun s' => s'.fresh.updChannel (channelOf (localOf g.pa)) (fun c =>
      { c with runQueue := c.runQueue ++ [⟨s.curUnit, s.turnThread, o.run.toNat, bankOf (localOf g.pa), localOf g.pa / 128, s'.nextId, none⟩]
               rotation := s'.cc / 320 })) := by
  have hr : ready s.me [(o.srcA, o.ta)] [] = .ok () := ready_full (by simp [ha]) (by simp)
  have hx : (s.issuerOf (.bopen o)).xlate s (s.me.getX o.srcA).toNat .read = .ok g := Issuer.xlate_ok ht
  have hown' : s.ownHbm ((s.issuerOf (.bopen o)).part s) (localOf g.pa) 1 = true := hown
  simp only [slotBopen, State.th_issuerOf, hr, hx, hl, hown', hrun]
  rfl

theorem slotBclose_ok (hrun : (s.channel (channelOf (localOf g.pa))).holds s.curUnit s.turnThread o.run.toNat = true) :
    slotBclose o (s.issuerOf (.bclose o)) s = .ok (fun s' => s'.fresh.updChannel (channelOf (localOf g.pa))
      (Channel.close s.curUnit s.turnThread o.run.toNat s'.nextId (s'.cc / 320))) := by
  have hr : ready s.me [(o.srcA, o.ta)] [] = .ok () := ready_full (by simp [ha]) (by simp)
  have hx : (s.issuerOf (.bclose o)).xlate s (s.me.getX o.srcA).toNat .read = .ok g := Issuer.xlate_ok ht
  have hbad : ¬ (!(s.isLocal g && s.ownHbm ((s.partOfUnit s.curUnit).getD 0) (localOf g.pa) 1 &&
      (s.channel (channelOf (localOf g.pa))).holds s.curUnit s.turnThread o.run.toNat)) = true := by simp [hl, hown, hrun]
  simp only [slotBclose, State.th_issuerOf, hr, hx]
  exact if_neg hbad

end

theorem State.channel_updChannel (s : State) (n m : Nat) (f : Channel → Channel) :
    (s.updChannel n f).channel m = if m = n then f (s.channel n) else s.channel m :=
  lookup_adjust Channel.reset m n f s.channels

/-- A thread's own run of the number is closing. -/
theorem Channel.close_runs {k : Channel} {u t run n rotation : Nat} {r : BulkRun}
    (h : lookup none run (k.close u t run n rotation).runs = some r) (hu : r.unit = u) (ht : r.thr = t) : r.closing.isSome = true := by
  simp only [Channel.close, lookup_adjust, if_true] at h
  obtain ⟨b, -, rfl⟩ := Option.map_eq_some_iff.mp h
  by_cases hme : b.unit = u ∧ b.thr = t
  · simp [hme]
  · simp_all

/-- Settles O30. -/
theorem bulkRunsOpenAndClose : Obligations.BulkRunsOpenAndClose := by
  unfold Obligations.BulkRunsOpenAndClose
  intro s o g va pa p ha ht hl hown
  refine ⟨fun h hrun => ?_, fun h hrun => ?_⟩
  · exact State.exec_freshChannel (f := fun s' c => { c with
      runQueue := c.runQueue ++ [⟨s.curUnit, s.turnThread, o.run.toNat, bankOf pa, pa / 128, s'.nextId, none⟩], rotation := s'.cc / 320 })
      rfl h (slotBopen_ok ha ht hl hown hrun)
  · have hexec := State.exec_freshChannel (f := fun s' => Channel.close s.curUnit s.turnThread o.run.toNat s'.nextId (s'.cc / 320)) rfl h
      (slotBclose_ok ha ht hl hown hrun)
    have hch : ∀ m, (((s.moved (.bclose o)).fresh.updChannel (channelOf pa)
        (Channel.close s.curUnit s.turnThread o.run.toNat s.nextId (s.cc / 320))).channel m) =
        if m = channelOf pa then (s.channel (channelOf pa)).close s.curUnit s.turnThread o.run.toNat s.nextId (s.cc / 320) else s.channel m :=
      fun m => State.channel_updChannel _ _ _ _
    refine ⟨_, hexec, rfl, ?_, fun r hr hu htt => ?_, fun ch hne => ?_⟩
    · refine (congrArg Channel.runQueue ((hch _).trans (if_pos rfl))).trans ?_
      simp [Channel.close, and_assoc]
    · have hc := (hch (channelOf pa)).trans (if_pos rfl)
      exact Channel.close_runs (hc ▸ hr) hu htt
    · exact (hch ch).trans (if_neg hne)

end Sys2Proof.Machine
end

section
/-! PROOFS. The E and W classes as they issue: edge streams, wave instructions, library strokes, PVST, WFLG and WDRAIN (R105 to R107, R122, R123,
R306, R307, R311, R312, R319, R327, R328, R331, R336, R343, R440). -/

namespace Sys2Proof.Machine

/-! ### Cores -/

theorem State.core_updCore (s : State) (n m : Nat) (f : CoreArr → CoreArr) :
    (s.updCore n f).core m = if m = n then f (s.core n) else s.core m := by
  split
  · subst_vars; exact State.core_updCore_self s _ f
  · exact State.core_setCore_ne s ‹_› _

theorem State.updCore_updCore (s : State) (n : Nat) (f g : CoreArr → CoreArr) :
    (s.updCore n f).updCore n g = s.updCore n (fun k => g (f k)) := by
  rw [State.updCore, State.core_updCore_self, State.updCore, State.updCore, State.setCore, State.setCore, State.setCore, insertAt_insertAt]

theorem State.moved_core (s : State) (i : Instr) (n : Nat) : (s.moved i).core n = s.core n := rfl

theorem CoreArr.edge_setEdge (k : CoreArr) (e f : EdgeId) (v : EdgeUnit) : (k.setEdge e v).edge f = if f = e then v else k.edge f := by
  cases e <;> cases f <;> rfl

theorem CoreArr.cells_setEdge (k : CoreArr) (e : EdgeId) (v : EdgeUnit) : (k.setEdge e v).cells = k.cells := by
  cases e <;> rfl

/-! ### Edge streams (R311, R312) -/

/-- The stream that an E slot adds. -/
def newStream (sid : Nat) (by_ : Issue) (after : List Nat) (panel : Bool) (prune : Nat) (bitmap stash : Bool) (va va2 : Nat) : Stream :=
  { sid := sid, by_ := by_, after := after, panel := panel, prune := prune, bitmap := bitmap, stash := stash, fst := StreamEnd.unread va,
    snd := StreamEnd.unread va2, live := false, total := 0, taken := 0, written := 0, amax := 0, sent := 0, amaxOut := [], finished := false,
    closing := false, phase := 0 }

/-- An accepted E instruction on a core that takes part in the wave, whose edge unit has room. -/
theorem State.exec_stream {s : State} {i : Instr} {e : EdgeId} {srcs : List (BitVec 5)} {panel bitmap stash : Bool} {prune : Nat}
    (hi : i.isStep = false) (hslot : slotOf i = slotStream e srcs panel prune bitmap stash) (hfull : ∀ r ∈ srcs, s.me.fullX r = true)
    (h : s.accepts i = true) (hpart : (s.chainGrid s.curUnit).takesPart (s.chainPos s.curUnit) e = true)
    (hroom : ((s.core s.curUnit).edge e).held.length < 2) :
    exec i s = .next ((s.moved i).updCore s.curUnit (fun k =>
      { k.setEdge e { k.edge e with streams := (k.edge e).streams ++ [newStream k.nextSid ((s.issuerOf i).issue (s.moved i) 5)
          (s.writesOut s.curUnit s.turnThread) panel prune bitmap stash (s.me.getX (srcs.getD 0 0)).toNat (s.me.getX (srcs.getD 1 0)).toNat] } with
        nextSid := k.nextSid + 1 })) := by
  have hr : ready s.me (srcs.map (fun r => (r, false))) [] = .ok () := by
    refine ready_full (fun r hr => ?_) (by simp)
    obtain ⟨q, hq, rfl⟩ := List.mem_map.mp hr
    exact hfull q hq
  have hpart' : ¬ (!(s.chainGrid (s.issuerOf i).unit).takesPart (s.chainPos (s.issuerOf i).unit) e) = true := by
    change ¬ (!(s.chainGrid s.curUnit).takesPart (s.chainPos s.curUnit) e) = true
    simp [hpart]
  have hroom' : ¬ 2 ≤ ((s.core (s.issuerOf i).unit).edge e).held.length := Nat.not_le.mpr hroom
  rw [State.exec_plain (k := fun s' => s'.updCore s.curUnit (fun k =>
      { k.setEdge e { k.edge e with streams := (k.edge e).streams ++ [newStream k.nextSid ((s.issuerOf i).issue s' 5)
          (s'.writesOut s.curUnit s.turnThread) panel prune bitmap stash (s.me.getX (srcs.getD 0 0)).toNat (s.me.getX (srcs.getD 1 0)).toNat] } with
        nextSid := k.nextSid + 1 })) hi h]
  · rfl
  · simp only [hslot, slotStream, if_neg hpart', if_neg hroom', State.th_issuerOf, hr]
    rfl
  · exact State.moved_traps h

/-- What it leaves: the stream at its edge, and all else of every core. -/
theorem State.exec_stream_spec {s : State} {i : Instr} {e : EdgeId} {srcs : List (BitVec 5)} {panel bitmap stash : Bool} {prune : Nat}
    (hi : i.isStep = false) (hslot : slotOf i = slotStream e srcs panel prune bitmap stash) (hfull : ∀ r ∈ srcs, s.me.fullX r = true)
    (h : s.accepts i = true) (hpart : (s.chainGrid s.curUnit).takesPart (s.chainPos s.curUnit) e = true)
    (hroom : ((s.core s.curUnit).edge e).held.length < 2) :
    ∃ t x, exec i s = .next t ∧ ((t.core s.curUnit).edge e).streams = ((s.core s.curUnit).edge e).streams ++ [x] ∧
      x.fst.hdrVa = (s.me.getX (srcs.getD 0 0)).toNat ∧ x.fst.hdr = none ∧ (stash = true → x.snd.hdrVa = (s.me.getX (srcs.getD 1 0)).toNat) ∧
      x.panel = panel ∧ x.prune = prune ∧ x.bitmap = bitmap ∧ x.stash = stash ∧ x.live = false ∧ x.taken = 0 ∧
      x.after = s.writesOut s.curUnit s.turnThread ∧
      (∀ f, f ≠ e → (t.core s.curUnit).edge f = (s.core s.curUnit).edge f) ∧ (∀ n, n ≠ s.curUnit → t.core n = s.core n) ∧
      (t.core s.curUnit).cells = (s.core s.curUnit).cells ∧ t.mem = s.mem := by
  refine ⟨_, newStream (s.core s.curUnit).nextSid ((s.issuerOf i).issue (s.moved i) 5) (s.writesOut s.curUnit s.turnThread) panel prune bitmap
      stash (s.me.getX (srcs.getD 0 0)).toNat (s.me.getX (srcs.getD 1 0)).toNat, State.exec_stream hi hslot hfull h hpart hroom, ?_, rfl, rfl, fun _ => rfl, rfl, rfl, rfl, rfl, rfl, rfl, rfl,
    fun f hf => ?_, fun n hn => ?_, ?_, rfl⟩
  · rw [State.core_updCore_self]
    change ((CoreArr.setEdge _ e _).edge e).streams = _
    rw [CoreArr.edge_setEdge, if_pos rfl]
    rfl
  · rw [State.core_updCore_self]
    change (CoreArr.setEdge _ e _).edge f = _
    rw [CoreArr.edge_setEdge, if_neg hf]
    rfl
  · rw [State.core_updCore, if_neg hn]; rfl
  · rw [State.core_updCore_self]
    exact CoreArr.cells_setEdge _ _ _

/-- Settles O31. -/
theorem streamsAreProgrammed : Obligations.StreamsAreProgrammed := by
  unfold Obligations.StreamsAreProgrammed
  intro s i e h h2 panel bitmap stash prune hi hh hh2 hacc hpart hroom
  rcases hi with ⟨o, rfl, rfl, rfl, rfl, rfl, rfl, rfl, rfl⟩ | ⟨o, rfl, rfl, rfl, rfl, rfl, rfl, rfl, rfl⟩ |
    ⟨o, rfl, rfl, rfl, rfl, rfl, rfl, rfl, rfl⟩ | ⟨o, rfl, rfl, rfl, rfl, rfl, rfl, rfl, rfl⟩
  · exact State.exec_stream_spec (srcs := [o.hdr]) rfl rfl (by simp [hh]) hacc hpart hroom
  · exact State.exec_stream_spec (srcs := [o.hdr]) rfl rfl (by simp [hh]) hacc hpart hroom
  · exact State.exec_stream_spec (srcs := [o.hdr]) rfl rfl (by simp [hh]) hacc hpart hroom
  · cases hs : o.stash with
    | false =>
      have hslot : slotOf (.ews o) = slotStream .south [o.hdr] (o.geom == 1) 0 o.bmc false := by
        change slotEws o = _; rw [slotEws, hs]; rfl
      exact State.exec_stream_spec rfl hslot (by simp [hh]) hacc hpart hroom
    | true =>
      rw [if_pos hs] at hh2
      have hslot : slotOf (.ews o) = slotStream .south [o.hdr, o.hdr2] (o.geom == 1) 0 o.bmc true := by
        change slotEws o = _; rw [slotEws, hs]; rfl
      exact State.exec_stream_spec rfl hslot (by simp [hh, hh2]) hacc hpart hroom

end Sys2Proof.Machine
end

section
/-! PROOFS. EDRAIN, wave instructions, library strokes, PVST, WFLG and WDRAIN (R105 to R107, R122, R123, R306, R307, R319, R327, R328, R331, R336,
R343, R440). -/

namespace Sys2Proof.Machine

/-! ### EDRAIN (R123, R319) -/

theorem State.core_updEdge (s : State) (n : Nat) (e : EdgeId) (f : EdgeUnit → EdgeUnit) :
    (s.updEdge n e f).core n = (s.core n).setEdge e (f ((s.core n).edge e)) := State.core_updCore_self s n _

/-- The loaders that a mask names, their streams ended. -/
def State.endLoaders (s : State) (n : Nat) (m : BitVec 4) : State :=
  ((drainUnits m).filter (fun e => !writer e)).foldl (fun s e => s.updEdge n e (fun u => { u with streams := [] })) s

theorem drainUnits_loaders (m : BitVec 4) : (drainUnits m).filter (fun e => !writer e) =
    (if m.getLsbD 0 then [EdgeId.west] else []) ++ (if m.getLsbD 1 then [EdgeId.north] else []) := by
  unfold drainUnits
  generalize m.getLsbD 0 = a, m.getLsbD 1 = b, m.getLsbD 2 = c, m.getLsbD 3 = d
  revert a b c d
  decide

theorem State.endLoaders_core (s : State) (n : Nat) (m : BitVec 4) : (s.endLoaders n m).core n = { s.core n with
    west := if m.getLsbD 0 then { (s.core n).west with streams := [] } else (s.core n).west
    north := if m.getLsbD 1 then { (s.core n).north with streams := [] } else (s.core n).north } := by
  rw [State.endLoaders, drainUnits_loaders]
  cases m.getLsbD 0 <;> cases m.getLsbD 1 <;> simp [State.core_updEdge, CoreArr.setEdge, CoreArr.edge]

theorem State.endLoaders_mem (s : State) (n : Nat) (m : BitVec 4) : (s.endLoaders n m).mem = s.mem :=
  foldl_keeps (g := State.mem) (f := fun s e => s.updEdge n e (fun u => { u with streams := [] })) (fun _ _ => rfl) _ s

theorem State.endLoaders_thread (s : State) (n : Nat) (m : BitVec 4) (v k : Nat) : (s.endLoaders n m).thread v k = s.thread v k :=
  foldl_keeps (g := fun s => s.thread v k) (f := fun s e => s.updEdge n e (fun u => { u with streams := [] })) (fun _ _ => rfl) _ s

theorem slotEdrain_eq {o : Mask4} {s : State} {i : Instr} : slotEdrain o (s.issuerOf i) s =
    if !(s.core (s.waveCore s.curUnit)).drained then .error .block
    else if (drainUnits o.mask).any (fun e => writer e && !((s.core s.curUnit).edge e).streams.isEmpty) then .error (.drain o.mask)
    else .ok (fun s' => s'.endLoaders s.curUnit o.mask) := rfl

/-- A writer that the mask names has a stream open. -/
theorem drainUnits_any (m : BitVec 4) (k : CoreArr) : (drainUnits m).any (fun e => writer e && !(k.edge e).streams.isEmpty) =
    ((m.getLsbD 2 && !k.east.streams.isEmpty) || (m.getLsbD 3 && !k.south.streams.isEmpty)) := by
  unfold drainUnits
  cases m.getLsbD 0 <;> cases m.getLsbD 1 <;> cases m.getLsbD 2 <;> cases m.getLsbD 3 <;> simp [writer, CoreArr.edge]

/-- Settles O32. -/
theorem drainsEndStreams : Obligations.DrainsEndStreams := by
  unfold Obligations.DrainsEndStreams
  intro s o h
  have hslot : slotOf (.edrain o) (s.issuerOf (.edrain o)) s = _ := slotEdrain_eq
  rw [drainUnits_any] at hslot
  refine ⟨fun hd => ?_, fun hd hopen => ?_, fun hd heast hsouth => ?_⟩
  · exact State.exec_blocks rfl h (hslot.trans (if_pos (by rw [hd]; rfl)))
  · have hbusy : ((o.mask.getLsbD 2 && !(s.core s.curUnit).east.streams.isEmpty) ||
        (o.mask.getLsbD 3 && !(s.core s.curUnit).south.streams.isEmpty)) = true := by
      rcases hopen with ⟨hm, hs⟩ | ⟨hm, hs⟩ <;> simp [hm, hs]
    rw [State.exec_stops rfl h (hslot.trans ((if_neg (by rw [hd]; decide)).trans (if_pos hbusy)))]
    rfl
  · have hfree : ((o.mask.getLsbD 2 && !(s.core s.curUnit).east.streams.isEmpty) ||
        (o.mask.getLsbD 3 && !(s.core s.curUnit).south.streams.isEmpty)) = false := by
      simp only [Bool.or_eq_false_iff, Bool.and_eq_false_imp, Bool.not_eq_false', List.isEmpty_iff]
      exact ⟨heast, hsouth⟩
    have hexec := State.exec_plain rfl h (hslot.trans ((if_neg (by rw [hd]; decide)).trans (if_neg (by rw [hfree]; decide))))
      ((congrArg Thread.traps (State.endLoaders_thread (s.moved (.edrain o)) s.curUnit o.mask _ _)).trans (State.moved_traps h))
    refine ⟨_, hexec, ?_⟩
    rw [State.endLoaders_core, State.endLoaders_mem]
    refine ⟨?_, ?_, rfl, rfl, rfl, rfl⟩
    · cases o.mask.getLsbD 0 <;> rfl
    · cases o.mask.getLsbD 1 <;> rfl

/-! ### Wave instructions (R107, R122, R440) -/

section
variable {s : State} {i j : Instr} {srcs : List (BitVec 5)} {check : Thread → Except Stop Unit} {also : Word → Word → CoreArr → CoreArr}

theorem slotWave_follows (hl : s.leadsChain s.curUnit = false) : slotWave j srcs check also (s.issuerOf i) s = .error (.checkFault 0x16 0) := by
  have hl' : s.leadsChain (s.issuerOf i).unit = false := hl
  simp only [slotWave, Issuer.leading, hl', Bool.false_eq_true, if_false]

theorem slotWave_blocks (hl : s.leadsChain s.curUnit = true) (hn : s.nibOpen = false) :
    slotWave j srcs check also (s.issuerOf i) s = .error .block := by
  have hl' : s.leadsChain (s.issuerOf i).unit = true := hl
  have hb : (decide (8 ≤ (s.core s.curUnit).nib.length) || s.strokeOn s.curUnit) = true := by
    simp only [State.nibOpen, hl, Bool.true_and, Bool.and_eq_false_iff, decide_eq_false_iff_not, Nat.not_lt] at hn
    rcases hn with hn | hn
    · simp [hn]
    · rw [State.strokeOn, ← Option.not_isNone, hn, Bool.not_false, Bool.or_true]
  simp only [slotWave, Issuer.leading, hl', if_true]
  exact if_pos hb

theorem slotWave_ok (hn : s.nibOpen = true) (hfull : ∀ r ∈ srcs, s.me.fullX r = true) (hc : check s.me = .ok ()) :
    slotWave j srcs check also (s.issuerOf i) s = .ok (fun s' => s'.updCore s.curUnit (fun k =>
      also (s.me.getX (srcs.getD 0 0)) (s.me.getX (srcs.getD 1 0)) (k.enter j ((s.issuerOf i).issue s' 6) (s.me.getX (srcs.getD 0 0))
        (s.me.getX (srcs.getD 1 0)) (headWord i) (s'.cycles s.curUnit)))) := by
  simp only [State.nibOpen, Bool.and_eq_true, decide_eq_true_eq] at hn
  obtain ⟨⟨hl, hroom⟩, hstroke⟩ := hn
  have hl' : s.leadsChain (s.issuerOf i).unit = true := hl
  have hb : ¬ (decide (8 ≤ (s.core s.curUnit).nib.length) || s.strokeOn s.curUnit) = true := by
    simp only [State.strokeOn, Option.isNone_iff_eq_none.mp hstroke]
    simp; omega
  have hr : ready s.me (srcs.map (fun r => (r, false))) [] = .ok () := by
    refine ready_full (fun r hr => ?_) (by simp)
    obtain ⟨q, hq, rfl⟩ := List.mem_map.mp hr
    exact hfull q hq
  simp only [slotWave, Issuer.leading, hl', if_true, State.th_issuerOf, hr, hc]
  exact if_neg hb

end

/-- The one who issues, once the thread has moved on. -/
theorem State.issue_moved (s : State) (i : Instr) (cls : Nat) :
    (s.issuerOf i).issue (s.moved i) cls = ⟨s.curUnit, s.turnThread, s.me.owner, s.me.pc, cls, 0⟩ := by
  have howner := State.moved_keeps Thread.owner (fun _ _ _ _ _ => rfl) s i s.curUnit s.turnThread
  change (⟨s.curUnit, s.turnThread, ((s.moved i).thread s.curUnit s.turnThread).owner, s.me.pc, cls, 0⟩ : Issue) = _
  rw [howner]; rfl

/-- An accepted wave instruction at an open nib enters it; some write a register of the core with it. -/
theorem State.exec_wave {s : State} {i : Instr} {srcs : List (BitVec 5)} {check : Thread → Except Stop Unit}
    {also : Word → Word → CoreArr → CoreArr} (hi : i.isStep = false) (h : s.accepts i = true)
    (hslot : slotOf i (s.issuerOf i) s = slotWave i srcs check also (s.issuerOf i) s) (hn : s.nibOpen = true)
    (hfull : ∀ r ∈ srcs, s.me.fullX r = true) (hc : check s.me = .ok ()) :
    exec i s = .next ((s.moved i).updCore s.curUnit (fun k => also (s.me.getX (srcs.getD 0 0)) (s.me.getX (srcs.getD 1 0))
      (k.enter i ⟨s.curUnit, s.turnThread, s.me.owner, s.me.pc, 6, 0⟩ (s.me.getX (srcs.getD 0 0)) (s.me.getX (srcs.getD 1 0)) (headWord i)
        ((s.moved i).cycles s.curUnit)))) := by
  rw [State.exec_plain hi h (hslot.trans (slotWave_ok hn hfull hc)) (State.moved_traps h), State.issue_moved]

/-- One that enters the nib and writes a register of its core. -/
theorem State.entered_updCore (s : State) (i : Instr) (x0 x1 : Word) (f : CoreArr → CoreArr) :
    (s.entered i x0 x1).updCore s.curUnit f = (s.moved i).updCore s.curUnit (fun k => f (k.enter i
      ⟨s.curUnit, s.turnThread, s.me.owner, s.me.pc, 6, 0⟩ x0 x1 (headWord i) ((s.moved i).cycles s.curUnit))) :=
  State.updCore_updCore _ _ _ _

theorem slotOf_plainWave {i : Instr} (h : plainWave i = true) : i.isStep = false ∧ slotOf i = slotPlain i ∧ ∃ op b, i.opBody = some (6, op, b) := by
  cases i <;> first | (have h' : false = true := h; cases h') | exact ⟨rfl, rfl, _, _, rfl⟩

/-- A block length of VBEG between 1 and 65,535 (R327). -/
theorem vbeg_length_ok {v : Word} (hpos : 0 < v.toNat) (hlt : v.toNat < 2 ^ 16) :
    ¬ (v.extractLsb' 16 48 != 0 || v.setWidth 16 == 0#16) = true := by
  have hhigh : v.extractLsb' 16 48 = 0 := by
    apply BitVec.eq_of_toNat_eq
    simp only [BitVec.extractLsb'_toNat, Nat.shiftRight_eq_div_pow, Nat.div_eq_of_lt hlt]
    rfl
  have hlow : v.setWidth 16 ≠ 0#16 := by bv_omega
  simp [hhigh, hlow]

/-- Settles O33. -/
theorem waveInstructionsEnterTheNibWithTheirOperands : Obligations.WaveInstructionsEnterTheNibWithTheirOperands := by
  unfold Obligations.WaveInstructionsEnterTheNibWithTheirOperands
  refine ⟨fun s i hp h => ?_, fun s o xs h hn hb => ?_, fun s o xs h hn ha hb hmd hpos hlt => ?_, fun s o h hn ha => ?_⟩
  · obtain ⟨hi, hslot, op, b, hop⟩ := slotOf_plainWave hp
    refine ⟨fun hn => ?_, fun hl hn => ?_, fun hl => ?_⟩
    · exact State.exec_wave (srcs := []) (check := fun _ => .ok ()) (also := fun _ _ k => k) hi h (by rw [hslot]; rfl) hn (by simp) rfl
    · exact State.exec_blocks hi h (by rw [hslot]; exact slotWave_blocks hl hn)
    · rw [State.exec_stops hi h (by rw [hslot]; exact slotWave_follows hl), classNum_headWord hop]; rfl
  · exact State.exec_wave (srcs := [0, o.srcB]) (check := fun _ => .ok ()) (also := fun _ _ k => k) rfl h rfl hn (by simp [hb]) rfl
  · rw [State.entered_updCore]
    have hthr : ¬ (o.md != 2 && o.srcB != 0) = true := by rcases hmd with hmd | hmd <;> simp [hmd]
    refine State.exec_wave (srcs := [o.srcA, o.srcB]) (also := fun _ x1 k => { k with vthr := x1.setWidth 32 }) rfl h (if_neg hthr) hn
      (by simp [ha, hb]) (if_neg ?_)
    exact vbeg_length_ok hpos hlt
  · rw [State.entered_updCore]
    exact State.exec_wave (srcs := [o.srcA]) (check := fun _ => .ok ()) (also := fun x0 _ k => { k with vthr := x0.setWidth 32 }) rfl h rfl hn
      (by simp [ha]) rfl

/-! ### Library strokes (R122, R336) -/

/-- An accepted library stroke on a core that leads its chain. -/
theorem State.exec_stroke {s : State} {i : Instr} (hi : i.isStep = false) (hslot : slotOf i = slotStroke i)
    (hl : s.leadsChain s.curUnit = true) (h : s.accepts i = true) :
    ((s.core s.curUnit).nib.length < 8 → (s.core s.curUnit).stroke = none →
      exec i s = .next ((s.moved i).updCore s.curUnit (fun k => { k with
        stroke := some ⟨i, ⟨s.curUnit, s.turnThread, s.me.owner, s.me.pc, 6, 0⟩, headWord i, k.nextWid, 0, 0, 0, false, false, false, none⟩
        nextWid := k.nextWid + 1
        lastWid := some k.nextWid }))) ∧
    (8 ≤ (s.core s.curUnit).nib.length ∨ (s.core s.curUnit).stroke ≠ none →
      exec i s = .next (s.blockThread s.curUnit s.turnThread)) := by
  have hl' : s.leadsChain (s.issuerOf i).unit = true := hl
  have heq : slotOf i (s.issuerOf i) s = if 8 ≤ (s.core s.curUnit).nib.length || s.strokeOn s.curUnit then .error .block
      else .ok (fun s' => s'.updCore s.curUnit (fun k => { k with
        stroke := some ⟨i, (s.issuerOf i).issue s' 6, headWord i, k.nextWid, 0, 0, 0, false, false, false, none⟩
        nextWid := k.nextWid + 1
        lastWid := some k.nextWid })) := by
    simp only [hslot, slotStroke, Issuer.leading, hl', if_true]
    rfl
  refine ⟨fun hroom hs => ?_, fun hbusy => ?_⟩
  · have hb : ¬ (decide (8 ≤ (s.core s.curUnit).nib.length) || s.strokeOn s.curUnit) = true := by simp [State.strokeOn, hs, hroom]
    rw [State.exec_plain hi h (heq.trans (if_neg hb)) (State.moved_traps h), State.issue_moved]
  · refine State.exec_blocks hi h (heq.trans (if_pos ?_))
    rcases hbusy with hn | hs
    · simp [hn]
    · simp [State.strokeOn, Option.isSome_iff_ne_none, hs]

/-! ### PVST (R343) -/

/-- Only cores have class W (R208). -/
theorem State.accepts_core {s : State} {i : Instr} {op : BitVec 7} {b : Body} (h : s.accepts i = true) (hop : i.opBody = some (6, op, b)) :
    isQuill s.curUnit = false := by
  simp only [State.accepts, Bool.and_eq_true, List.isEmpty_iff, instrKinds, List.append_eq_nil_iff] at h
  have hclass : (if classAbsent (isQuill s.curUnit) (instrClass i) = true then [1] else []) = [] := h.1.1.1.1.1.1
  cases hq : isQuill s.curUnit with
  | false => rfl
  | true => simp [hq, instrClass, hop, classAbsent] at hclass

/-- A fold that adds an entry at each step collects the entries in order. -/
theorem foldl_range_ok {ε α : Type} {f : Except ε (List α) → Nat → Except ε (List α)} {e : Nat → α} :
    ∀ n, (∀ ts, ∀ j < n, f (.ok ts) j = .ok (ts ++ [e j])) → (List.range n).foldl f (.ok []) = .ok ((List.range n).map e) := by
  intro n
  induction n with
  | zero => intro _; rfl
  | succ n ih =>
    intro h
    rw [List.range_succ, List.foldl_append, ih (fun ts j hj => h ts j (Nat.lt_succ_of_lt hj)), List.map_append]
    exact h _ n (Nat.lt_succ_self n)

/-- The store of one of the eight words of a PVST. -/
def State.storePivots (s : State) (o : AddrSrc) (va : Nat) (g : Nat → Target) (t : State) (j : Nat) : State :=
  (t.updThread s.curUnit s.turnThread (fun th => th.pairDone (g j))).submit
    { (s.issuerOf (.pvst o)).request t 6 (va + 8 * j) 8 (g j) (.store (leBytes 8 ((t.core s.curUnit).pv.getD j 0).toNat) false) with
      check := t.checkScope s.curUnit s.turnThread (g j) none true }

theorem State.storePivots_traps (s : State) (o : AddrSrc) (va : Nat) (g : Nat → Target) (t : State) (j : Nat) :
    ((s.storePivots o va g t j).thread s.curUnit s.turnThread).traps = (t.thread s.curUnit s.turnThread).traps := by
  rw [State.storePivots, State.thread_submit, State.thread_updThread]
  split
  · exact Thread.pairDone_traps _ _
  · rfl

theorem State.exec_pvst {s : State} {o : AddrSrc} {g : Nat → Target} (h : s.accepts (.pvst o) = true) (hl : s.leadsChain s.curUnit = true)
    (hs : (s.core s.curUnit).stroke = none) (hp : (s.core s.curUnit).progDue = none ∨ (s.core s.curUnit).prog = 64)
    (ha : s.me.fullX o.srcA = true) (hva : (s.me.getX o.srcA).toNat % 8 = 0)
    (ht : ∀ j < 8, s.translate ((s.partOfUnit s.curUnit).getD 0) s.curUnit ((s.me.getX o.srcA).toNat + 8 * j) .write = .ok (g j)) :
    exec (.pvst o) s = .next ((List.range 8).foldl (s.storePivots o (s.me.getX o.srcA).toNat g) (s.moved (.pvst o))) := by
  have hl' : s.leadsChain (s.issuerOf (.pvst o)).unit = true := hl
  have hq : isQuill s.curUnit = false := State.accepts_core h rfl
  have hr : ready s.me [(o.srcA, false)] [] = .ok () := ready_full (by simp [ha]) (by simp)
  have hadd : ∀ j < 8, (s.issuerOf (.pvst o)).address s ((s.me.getX o.srcA).toNat + 8 * j) 8 .write = .ok (g j) := by
    intro j hj
    refine Issuer.address_ok (ht j hj) (by omega) ?_
    change s.outside s.curUnit s.me.owner (g j) = false
    unfold State.outside
    split
    · rw [hq, Bool.false_and]
    · rfl
  have hb : ¬ (s.strokeOn s.curUnit || ((s.core s.curUnit).progDue.isSome && (s.core s.curUnit).prog != 64)) = true := by
    rcases hp with hp | hp <;> simp [State.strokeOn, hs, hp]
  have hslot : slotPvst o (s.issuerOf (.pvst o)) s = .ok (fun s' => (List.range 8).foldl (s.storePivots o (s.me.getX o.srcA).toNat g) s') := by
    simp only [slotPvst, Issuer.leading, hl', if_true, State.th_issuerOf, hr]
    refine (if_neg hb).trans ?_
    rw [foldl_range_ok (e := fun j => ((s.me.getX o.srcA).toNat + 8 * j, g j)) 8 (fun ts j hj => by simp only [hadd j hj])]
    rfl
  exact State.exec_plain rfl h hslot ((foldl_keeps (g := fun t : State => (t.thread s.curUnit s.turnThread).traps)
    (State.storePivots_traps s o _ g) _ _).trans (State.moved_traps h))

/-- Settles O34. -/
theorem libraryStrokesAndPivotStores : Obligations.LibraryStrokesAndPivotStores := by
  unfold Obligations.LibraryStrokesAndPivotStores
  refine ⟨fun s a b c hl i hi h => ?_, fun s o g h hl hs hp ha hva ht => State.exec_pvst h hl hs hp ha hva ht⟩
  simp only [List.mem_cons, List.not_mem_nil, or_false] at hi
  rcases hi with rfl | rfl | rfl | rfl <;> exact State.exec_stroke rfl rfl hl h

/-! ### WFLG and WDRAIN (R105, R106, R306, R307) -/

theorem slotWflg_eq {s : State} {o : FlagOps} (hl : s.leadsChain s.curUnit = true) (hs : (s.core s.curUnit).stroke = none)
    (hd : s.me.fullX o.dst = true) : slotWflg o (s.issuerOf (.wflg o)) s =
      match (s.core s.curUnit).lastWid with
      | none => .ok ((s.issuerOf (.wflg o)).writeX o.dst (Aggregate.empty.part o.md.toNat o.qidx.toNat))
      | some w => match (s.core s.curUnit).validAgg with
        | some (v, a) => if v = w then .ok ((s.issuerOf (.wflg o)).writeX o.dst (a.part o.md.toNat o.qidx.toNat))
          else .ok (slotWflg.pending o (s.issuerOf (.wflg o)) w)
        | none => .ok (slotWflg.pending o (s.issuerOf (.wflg o)) w) := by
  have hl' : s.leadsChain (s.issuerOf (.wflg o)).unit = true := hl
  have hb : ¬ s.strokeOn s.curUnit = true := by simp [State.strokeOn, hs]
  have hr : ready s.me [] [o.dst] = .ok () := ready_full (by simp) (by simp [hd])
  simp only [slotWflg, Issuer.leading, hl', if_true, State.th_issuerOf, hr]
  exact if_neg hb

/-- The aggregate of no executing cell: every "all" is 1, every "any" 0 and every bitmap empty (R105). -/
theorem Aggregate.empty_part (md : BitVec 2) (k : Nat) : Aggregate.empty.part md.toNat k = if md = 0 then 1 else 0 := by
  revert md
  simp only [Aggregate.part, Aggregate.empty, BitVec.ofNat_eq_ofNat, BitVec.getLsbD_zero, lookup]
  decide

theorem State.exec_wflg {s : State} {o : FlagOps} {w : Nat} {a : Aggregate} (h : s.accepts (.wflg o) = true)
    (hl : s.leadsChain s.curUnit = true) (hs : (s.core s.curUnit).stroke = none) (hd : s.me.fullX o.dst = true) :
    ((s.core s.curUnit).lastWid = none →
      exec (.wflg o) s = .next (s.movedWith (.wflg o) (fun th => th.setX o.dst (if o.md = 0 then 1 else 0)))) ∧
    ((s.core s.curUnit).lastWid = some w → (s.core s.curUnit).validAgg = some (w, a) →
      exec (.wflg o) s = .next (s.movedWith (.wflg o) (fun th => th.setX o.dst (a.part o.md.toNat o.qidx.toNat)))) ∧
    ((s.core s.curUnit).lastWid = some w → (∀ x, (s.core s.curUnit).validAgg ≠ some (w, x)) → o.dst ≠ 0 →
      exec (.wflg o) s = .next ((s.movedWith (.wflg o) (fun th => th.emptyX o.dst)).updCore s.curUnit (fun k => { k with
        wflgs := k.wflgs ++ [⟨w, s.turnThread, o.dst.toNat, o.md.toNat, o.qidx.toNat⟩] }))) := by
  have hslot := slotWflg_eq hl hs hd
  refine ⟨fun hw => ?_, fun hw hv => ?_, fun hw hv hz => ?_⟩
  · rw [hw, Aggregate.empty_part] at hslot
    exact State.exec_writeX rfl h hslot
  · simp only [hw, hv, if_true] at hslot
    exact State.exec_writeX rfl h hslot
  · have hpend : slotWflg o (s.issuerOf (.wflg o)) s = .ok (slotWflg.pending o (s.issuerOf (.wflg o)) w) := by
      rw [hslot, hw]
      cases hva : (s.core s.curUnit).validAgg with
      | none => rfl
      | some p =>
        obtain ⟨v, x⟩ := p
        have hne : v ≠ w := fun hvw => hv x (by rw [hva, hvw])
        exact if_neg hne
    have hk : slotWflg.pending o (s.issuerOf (.wflg o)) w = fun s' => (s'.updThread s.curUnit s.turnThread (fun t => t.emptyX o.dst)).updCore
        s.curUnit (fun k => { k with wflgs := k.wflgs ++ [⟨w, s.turnThread, o.dst.toNat, o.md.toNat, o.qidx.toNat⟩] }) :=
      funext (fun s' => if_neg hz)
    rw [hk] at hpend
    rw [State.exec_plain rfl h hpend]
    · rfl
    · rw [State.thread_updCore, State.thread_updThread]
      split
      · rw [Thread.emptyX_traps, State.moved_traps h]
      · exact State.moved_traps h

theorem State.exec_wdrain {s : State} (h : s.accepts .wdrain = true) (hl : s.leadsChain s.curUnit = true) :
    let k := s.core s.curUnit
    (k.nib = [] ∧ k.stroke = none ∧ k.wave = [] ∧ k.progDue = none → exec .wdrain s = .next (s.moved .wdrain)) ∧
    (¬ (k.nib = [] ∧ k.stroke = none ∧ k.wave = [] ∧ k.progDue = none) →
      exec .wdrain s = .next (s.blockThread s.curUnit s.turnThread)) := by
  intro k
  have hl' : s.leadsChain (s.issuerOf .wdrain).unit = true := hl
  have hslot : slotWdrain (s.issuerOf .wdrain) s = if s.waveDrained s.curUnit then .ok (fun s => s) else .error .block := by
    simp only [slotWdrain, Issuer.leading, hl', if_true]
    rfl
  have hiff : s.waveDrained s.curUnit = true ↔ (k.nib = [] ∧ k.stroke = none ∧ k.wave = [] ∧ k.progDue = none) := by
    simp only [State.waveDrained, CoreArr.drained, Bool.and_eq_true, List.isEmpty_iff, Option.isNone_iff_eq_none]
    constructor
    · rintro ⟨⟨hn, hs⟩, ⟨hwv, -⟩, hp⟩; exact ⟨hn, hs, hwv, hp⟩
    · rintro ⟨hn, hs, hwv, hp⟩; exact ⟨⟨hn, hs⟩, ⟨hwv, by simp [k] at hs; simp [hs]⟩, hp⟩
  refine ⟨fun hd => ?_, fun hd => ?_⟩
  · exact State.exec_idle rfl h (hslot.trans (if_pos (hiff.mpr hd)))
  · exact State.exec_blocks rfl h (hslot.trans (if_neg (hd ∘ hiff.mp)))

/-- Settles O36. -/
theorem waveFlagsAndDrain : Obligations.WaveFlagsAndDrain := by
  unfold Obligations.WaveFlagsAndDrain
  exact ⟨fun s o w a h hl hs hd => State.exec_wflg h hl hs hd, fun s h hl => State.exec_wdrain h hl⟩

end Sys2Proof.Machine
end

section
/-! PROOFS. The decoder on fixed words, reserved encodings as traps, and the values after reset (R206 to R209, R219, R384, R404, R406, R408, R429). -/

namespace Sys2Proof.Machine

/-- Settles O1: the decoder evaluates each word. -/
theorem wordsDecode : Obligations.WordsDecode := by
  unfold Obligations.WordsDecode
  refine ⟨rfl, rfl, rfl, rfl, rfl, rfl, rfl, rfl, rfl⟩

/-! ### What a class without a code in its map raises (R208, R429) -/

theorem fixedBits_ne_classCode (b enc m : Body) (i : Instr) : fixedBits b enc m i ≠ .error .classCode := by
  unfold fixedBits
  split
  · exact nofun
  · split <;> exact nofun

theorem decodeE_ne_classCode (op : BitVec 7) (b : Body) : decodeE op b ≠ .error .classCode := by
  unfold decodeE
  split
  case h_6 => exact nofun
  all_goals exact fixedBits_ne_classCode _ _ _ _

theorem decodeW_ne_classCode (op : BitVec 7) (b : Body) (xs : List XPay) : decodeW op b xs ≠ .error .classCode := by
  unfold decodeW
  split
  case h_62 => exact nofun
  all_goals exact fixedBits_ne_classCode _ _ _ _

theorem decodeV_ne_classCode (op : BitVec 7) (b : Body) (xs : List XPay) : decodeV op b xs ≠ .error .classCode := by
  unfold decodeV
  split
  case h_22 => exact nofun
  all_goals exact fixedBits_ne_classCode _ _ _ _

theorem DecodeError.kind_eq_zero {e : DecodeError} : e.kind = 0 ↔ e = .classCode := by
  cases e <;> decide

/-- The classes that a unit may lack are E, W and V (R208). -/
theorem slotClass_of_absent {quill : Bool} {w : SlotWord} (h : classAbsent quill (classNum w) = true) :
    slotClass w = 5 ∨ slotClass w = 6 ∨ slotClass w = 7 := by
  have hc : classNum w = 5 ∨ classNum w = 6 ∨ classNum w = 7 := by
    simp only [classAbsent, Bool.or_eq_true, Bool.and_eq_true, beq_iff_eq] at h
    omega
  rcases hc with hc | hc | hc
  · exact .inl (BitVec.eq_of_toNat_eq hc)
  · exact .inr (.inl (BitVec.eq_of_toNat_eq hc))
  · exact .inr (.inr (BitVec.eq_of_toNat_eq hc))

theorem decodeSlot_ne_classCode {w : SlotWord} {xs : List XPay} (h : slotClass w = 5 ∨ slotClass w = 6 ∨ slotClass w = 7) :
    decodeSlot w xs ≠ .error .classCode := by
  rcases h with h | h | h <;> rw [slotClass] at h <;> simp only [decodeSlot, h]
  · exact decodeE_ne_classCode _ _
  · exact decodeW_ne_classCode _ _ _
  · exact decodeV_ne_classCode _ _ _

theorem slotKinds_absent {quill : Bool} {w : SlotWord} (h : classAbsent quill (classNum w) = true) :
    (slotKinds quill ⟨w, 0, [], [], 0⟩).head? = some 1 := by
  have hclass := slotClass_of_absent h
  have habs : classAbsent quill (slotClass w).toNat = true := h
  simp only [slotKinds]
  split
  next e he =>
    have hk : ¬ e.kind = 0 := fun hz => decodeSlot_ne_classCode hclass (DecodeError.kind_eq_zero.mp hz ▸ he)
    rw [if_neg hk, habs]; rfl
  next i hi =>
    have hi' : classAbsent quill (instrClass i) = true := by
      rw [instrClass, (slotWord_of_decodeSlot hi).1]; exact h
    rw [instrKinds, hi']; rfl

theorem slotKinds_opcode {quill : Bool} {w : SlotWord} (h : classAbsent quill (classNum w) = false) (hd : decodeSlot w [] = .error .opcode) :
    (slotKinds quill ⟨w, 0, [], [], 0⟩).head? = some 2 := by
  have habs : classAbsent quill (slotClass w).toNat = false := h
  simp only [slotKinds, hd, habs]
  cases (quill && decide ((slotClass w).toNat = 2) && coreOnlyOp w) <;> rfl

theorem slotKinds_classCode {quill : Bool} {w : SlotWord} (h : 9 ≤ classNum w) : slotKinds quill ⟨w, 0, [], [], 0⟩ = [0] := by
  have hd : decodeSlot w [] = .error .classCode := by
    have hc : 9 ≤ (w.extractLsb' 27 4).toNat := h
    unfold decodeSlot
    dsimp only
    split
    case h_10 => rfl
    all_goals (rename_i heq; rw [heq] at hc; exact absurd hc (by decide))
  have h7 : (decide ((slotClass w).toNat ≤ 7)) = false := decide_eq_false (by have : 9 ≤ (slotClass w).toNat := h; omega)
  simp [slotKinds, hd, h7, DecodeError.kind]

theorem slotKinds_xSlot {quill : Bool} {w : SlotWord} (h : classNum w = 8) : slotKinds quill ⟨w, 0, [], [], 0⟩ = [5] := by
  have hc : slotClass w = 8 := BitVec.eq_of_toNat_eq h
  have hd : decodeSlot w [] = .error .xSlot := by
    rw [slotClass] at hc
    simp only [decodeSlot, hc]
    rfl
  simp only [slotKinds, hd, hc]
  cases quill <;> rfl

/-! ### The trap (R404, R408) -/

/-- The bundle of one word is one raw slot. -/
theorem checkBundle_error {quill : Bool} {w : SlotWord} {k : Nat} {ks : List Nat} (h : slotKinds quill ⟨w, 0, [], [], 0⟩ = k :: ks) :
    checkBundle quill [w] = .error (k, ⟨w, 0, [], [], 0⟩) := by
  have hraw : rawSlots 0 [w] [] = [⟨w, 0, [], [], 0⟩] := by
    simp only [rawSlots]
    split
    · rename_i heq; cases heq
    · rfl
  simp only [checkBundle, hraw, checkSlots, h]

/-- No slot stands before the first. -/
theorem State.earlierStop_zero (s : State) (u t : Nat) (pc next : Word) (ws : List SlotWord) : s.earlierStop u t pc next ws 0 = none := by
  simp [State.earlierStop, rawSlots, checkSlots, slotRuns, runSlots, firstStop]

theorem State.issueWords_error {s : State} {u t : Nat} {pc : Word} {ws : List SlotWord} {k : Nat} {r : RawSlot}
    (hs : (s.thread u t).skipping = false) (h : checkBundle (isQuill u) ws = .error (k, r)) (hr : r.pos = 0) :
    s.issueWords u t pc ws = .done ((({ s with inbox := s.inbox.filter (fun m => !(m.unit == u && m.thr == t)) } : State).updThread u t
      (fun th => th.record pc ws)).stopAt u t pc r.pos (classNum r.word) (.checkTrap 0x10 k r.word)) := by
  rw [State.issueWords]
  simp only [hs, h, hr, State.earlierStop_zero]
  rfl

theorem State.stopAt_checkTrap (s : State) (u t : Nat) (pc : Word) (slot cls cause info : Nat) (w : BitVec 32) :
    s.stopAt u t pc slot cls (.checkTrap cause info w) = s.takeTrap u t ⟨cause, info, false, cls, slot, 0, w, none⟩ pc pc := rfl

/-- A trap that is taken changes the registers of the trap, the PC and the loop of its thread, and nothing else. -/
theorem State.takeTrap_spec {s : State} {u t k c : Nat} {pc : Word} {w : SlotWord} (ht : t < 4) (hv : (s.thread u t).tvec ≠ 0)
    (hi : (s.thread u t).intrap = false) :
    let s' := s.takeTrap u t ⟨0x10, k, false, c, 0, 0, w, none⟩ pc pc
    let th := s'.thread u t
    th.tepc = pc ∧ th.tcause = BitVec.ofNat 32 (0x10 * 2 ^ 16 + k * 2 ^ 8 + c * 2 ^ 4) ∧ th.taddr = 0 ∧ th.tstat = w ∧ th.intrap = true ∧
      th.pc = (s.thread u t).tvec ∧ th.sameFile (s.thread u t) ∧ s.sameOthers s' u t ∧ s'.mem = s.mem ∧ s'.cores = s.cores := by
  dsimp only
  rw [State.takeTrap_taken hv hi, State.thread_setThread, if_pos ⟨rfl, rfl, ht⟩]
  refine ⟨rfl, ?_, rfl, rfl, rfl, rfl, ⟨rfl, rfl, rfl, rfl, rfl, rfl, rfl, rfl, rfl⟩, fun v m hne => ?_, rfl, rfl⟩
  · change BitVec.ofNat 32 (0 + 0x10 * 2 ^ 16 + k * 2 ^ 8 + c * 2 ^ 4 + 0) = _
    rw [Nat.zero_add, Nat.add_zero]
  · have hother : ¬ (v = u ∧ m = t ∧ t < 4) := fun ⟨hv', hm, _⟩ => hne.elim (· hv') (· hm)
    rw [State.thread_setThread, if_neg hother]
    exact ⟨⟨rfl, rfl, rfl, rfl, rfl, rfl, rfl, rfl, rfl⟩, ⟨rfl, rfl, rfl, rfl, rfl, rfl⟩⟩

/-- Settles O4. -/
theorem reservedEncodingsTrap : Obligations.ReservedEncodingsTrap := by
  unfold Obligations.ReservedEncodingsTrap
  refine ⟨fun s i k ks hi hk => ?_, fun s u t pc w k ks _ hs hk => ?_,
    fun quill w => ⟨slotKinds_classCode, slotKinds_absent, slotKinds_opcode, slotKinds_xSlot⟩,
    fun s u t k c pc w ht hv hi => State.takeTrap_spec ht hv hi⟩
  · rw [exec_slot hi, State.issueOne, hk]
    rfl
  · rw [State.issueWords_error hs (checkBundle_error hk) rfl, State.stopAt_checkTrap]

/-! ### After reset -/

/-- Settles O5: the reset state is a value, and each claim evaluates it. -/
theorem resetLeavesTheStatedValues : Obligations.ResetLeavesTheStatedValues := by
  unfold Obligations.ResetLeavesTheStatedValues
  have hth : ∀ u t, State.reset.thread u t = Thread.reset := by
    intro u t
    change (Vector.replicate 4 Thread.reset).getD t Thread.reset = _
    by_cases ht : t < 4
    · rw [Vector.getD_of_lt _ ht, Vector.getElem_replicate]
    · rw [Vector.getD_of_ge _ (Nat.not_lt.mp ht)]
  refine ⟨⟨rfl, fun _ h => absurd h List.not_mem_nil⟩, rfl, rfl, rfl, rfl, fun u t => ?_, fun u => ⟨fun h => ?_, fun h1 _ => ?_⟩, fun n r c _ hc => ?_,
    fun n => ⟨rfl, rfl, rfl, rfl⟩, fun n off => rfl, fun i => ⟨rfl, rfl, rfl, rfl⟩, fun q => ⟨rfl, rfl, rfl⟩⟩
  · rw [hth]; exact ⟨rfl, rfl, rfl, rfl, rfl, rfl, rfl⟩
  · exact if_neg (Nat.not_le.mpr h)
  · exact if_pos h1
  · change cellSeed ((16 * r + c) / 16) ((16 * r + c) % 16) = _
    rw [show (16 * r + c) / 16 = r by omega, show (16 * r + c) % 16 = c by omega, cellSeed, Nat.mul_comm]
    rfl

end Sys2Proof.Machine
end

section
/-! PROOFS. The lanes of a cell's operands, and its two-operand floating and integer instructions (R278, R282, R291, R292, R297, R435). -/

namespace Sys2Proof.Machine

/-! ### Packed lanes (R278) -/

/-- The number that packs these lanes is the one with these digits to base 2^w. -/
theorem packLanes_eq (w : Nat) (ls : List Nat) : packLanes w ls = BitVec.ofNat 256 (Nat.ofDigits (2 ^ w) (ls.map (· % 2 ^ w))) := by
  have hsum : (ls.mapIdx (fun i x => x % 2 ^ w * 2 ^ (w * i))) = (ls.map (· % 2 ^ w)).mapIdx (fun i x => x * (2 ^ w) ^ i) := by
    refine List.ext_getElem (by simp) (fun i h _ => ?_)
    simp [pow_mul]
  rw [packLanes, hsum, Nat.ofDigits_eq_sum_mapIdx, List.sum_eq_foldl]

/-- A digit of a number. -/
theorem ofDigits_digit (b : Nat) (hb : 1 < b) (ds : List Nat) (h : ∀ d ∈ ds, d < b) (i : Nat) :
    Nat.ofDigits b ds / b ^ i % b = ds.getD i 0 := by
  rw [Nat.ofDigits_div_pow_eq_ofDigits_drop i (by omega) ds h]
  by_cases hi : i < ds.length
  · rw [List.drop_eq_getElem_cons hi, Nat.ofDigits_cons, Nat.add_mul_mod_self_left, Nat.mod_eq_of_lt (h _ (List.getElem_mem hi))]
    simp [List.getD, hi]
  · rw [List.drop_eq_nil_of_le (by omega)]
    simp [List.getD, List.getElem?_eq_none (by omega : ds.length ≤ i)]

/-- The lanes of an operand that was packed from lanes. -/
theorem laneOf_packLanes (w : Nat) (ls : List Nat) (hl : w * ls.length ≤ 256) (i : Nat) (hi : i < ls.length) :
    laneOf (packLanes w ls) w i = ls.getD i 0 % 2 ^ w := by
  rcases Nat.eq_zero_or_pos w with rfl | hw
  · simp [laneOf, BitVec.of_length_zero, Nat.mod_one]
  have hb : 1 < 2 ^ w := Nat.one_lt_two_pow (by omega)
  have hd : ∀ d ∈ ls.map (· % 2 ^ w), d < 2 ^ w := by
    intro d hd
    obtain ⟨x, -, rfl⟩ := List.mem_map.mp hd
    exact Nat.mod_lt _ (by omega)
  have hlt : Nat.ofDigits (2 ^ w) (ls.map (· % 2 ^ w)) < 2 ^ 256 := by
    refine lt_of_lt_of_le (Nat.ofDigits_lt_base_pow_length hb hd) ?_
    rw [List.length_map, ← pow_mul]
    exact Nat.pow_le_pow_right (by omega) hl
  rw [packLanes_eq, laneOf, BitVec.extractLsb'_toNat, BitVec.toNat_ofNat, Nat.mod_eq_of_lt hlt, Nat.shiftRight_eq_div_pow, pow_mul,
    ofDigits_digit _ hb _ hd]
  simp [List.getD, hi]

/-- The same for lanes that are given by a function, as many as an operand holds. -/
theorem laneOf_packLanes_map (w : Nat) (f : Nat → Nat) (i : Nat) (hi : i < 256 / w) :
    laneOf (packLanes w ((List.range (256 / w)).map f)) w i = f i % 2 ^ w := by
  rw [laneOf_packLanes w _ (by simpa using Nat.mul_div_le 256 w) i (by simpa using hi)]
  simp [List.getD, hi]

/-! ### Lanes in order (R282) -/

/-- Lanes that draw no random number. -/
theorem drawLanes_plain (f : Nat → Nat → Rounded) (n i : Nat) (s : BitVec 32) (fl : BitVec 8) :
    (drawLanes false f n i s).1 = (List.range' i n).map (fun l => (f l 0).1) ∧
    fl ||| (drawLanes false f n i s).2.1 = (List.range' i n).foldl (fun g l => g ||| (f l 0).2) fl ∧
    (drawLanes false f n i s).2.2 = s := by
  induction n generalizing i fl with
  | zero => simp [drawLanes]
  | succ n ih =>
    obtain ⟨h1, h2, h3⟩ := ih (i + 1) (fl ||| (f i 0).2)
    simp only [drawLanes, List.range'_succ, List.map_cons, List.foldl_cons, ← h1, ← h2, BitVec.or_assoc]
    exact ⟨rfl, rfl, h3⟩

/-! ### A fragment as destination (R279) -/

theorem Cell.put_frag {c : Cell} {crow : Nat} {code : BitVec 5} (v : BitVec 256) (h : code.toNat < 16) :
    c.put crow code v = { c with f := c.f.setIfInBounds code.toNat v } := by
  rw [Cell.put]
  exact if_pos h

theorem Cell.frag_put_self {c : Cell} {crow : Nat} {code : BitVec 5} (v : BitVec 256) (h : code.toNat < 16) :
    (c.put crow code v).frag code.toNat = v := by
  rw [Cell.put_frag v h, Cell.frag]
  simp [Vector.getD, h]

theorem Cell.frag_put_of_ne {c : Cell} {crow n : Nat} {code : BitVec 5} (v : BitVec 256) (h : code.toNat < 16) (hn : n ≠ code.toNat) :
    (c.put crow code v).frag n = c.frag n := by
  rw [Cell.put_frag v h, Cell.frag, Cell.frag]
  simp [Vector.getD, hn.symm]

/-! ### Floating lanes -/

theorem Cell.floatLanes_verdict {c : Cell} {x : XFields} {dst : BitVec 5} {srcs : List (BitVec 256)} {rounds : Bool}
    {f : FloatFmt → Nat → Nat → (Nat → Nat → Nat) → Rounded} (h : srcs.any (anyVerdict (xFloat x)) = true) :
    c.floatLanes x dst srcs rounds f = .error (0x20, 0) := if_pos h

/-- Floating lanes without a verdict word and without a random number: the lanes of the destination, the flags and what stays. -/
theorem Cell.floatLanes_ok {c : Cell} {x : XFields} {dst : BitVec 5} {srcs : List (BitVec 256)} {rounds : Bool}
    {f : FloatFmt → Nat → Nat → (Nat → Nat → Nat) → Rounded} (g : Nat → Rounded) (h : srcs.any (anyVerdict (xFloat x)) = false)
    (hr : rounds = false ∨ x.rnd ≠ 4) (hd : dst.toNat < 16)
    (hg : ∀ l, f (xFloat x) x.rnd.toNat 0 (fun k _ => laneOf (srcs.getD k 0) (xFloat x).width l) = g l) :
    ∃ c', c.floatLanes x dst srcs rounds f = .ok c' ∧
      (∀ l, l < 256 / (xFloat x).width → laneOf (c'.frag dst.toNat) (xFloat x).width l = (g l).1 % 2 ^ (xFloat x).width) ∧
      c'.flags = (List.range (256 / (xFloat x).width)).foldl (fun f l => f ||| (g l).2) c.flags ∧
      (∀ n, n ≠ dst.toNat → c'.frag n = c.frag n) ∧ c'.c = c.c ∧ c'.h0 = c.h0 ∧ c'.h1 = c.h1 ∧ c'.q = c.q ∧ c'.s = c.s ∧
      c'.store = c.store := by
  have hrsr : (rounds && x.rnd == 4) = false := by
    rcases hr with h | h
    · rw [h, Bool.false_and]
    · rw [beq_false_of_ne h, Bool.and_false]
  set F := xFloat x
  let lanes := fun i rho => f F x.rnd.toNat rho (fun k _ => laneOf (srcs.getD k 0) F.width i)
  obtain ⟨h1, h2, h3⟩ := drawLanes_plain lanes (256 / F.width) 0 c.s c.flags
  have hl : (drawLanes false lanes (256 / F.width) 0 c.s).1 = (List.range (256 / F.width)).map (fun l => (g l).1) := by
    rw [h1, List.range_eq_range']
    exact List.map_congr_left (fun l _ => congrArg Prod.fst (hg l))
  have heq : c.floatLanes x dst srcs rounds f = .ok (({ c with s := (drawLanes false lanes (256 / F.width) 0 c.s).2.2 }.put (xRow x) dst
      (packLanes F.width (drawLanes false lanes (256 / F.width) 0 c.s).1)).orFlags (drawLanes false lanes (256 / F.width) 0 c.s).2.1) := by
    rw [← hrsr]
    exact if_neg (by simp [F, h])
  rw [heq, h3, hl]
  refine ⟨_, rfl, ?_, ?_, ?_, ?_⟩
  · intro l hlt
    change laneOf (Cell.frag (Cell.put _ _ _ _) _) _ _ = _
    rw [Cell.frag_put_self _ hd]
    exact laneOf_packLanes_map _ _ l hlt
  · rw [Cell.put_frag _ hd]
    refine h2.trans ?_
    rw [List.range_eq_range']
    exact List.foldl_ext _ _ _ (fun fl l _ => congrArg (fun r : Rounded => fl ||| r.2) (hg l))
  · intro n hn
    exact Cell.frag_put_of_ne _ hd hn
  · rw [Cell.put_frag _ hd]
    exact ⟨rfl, rfl, rfl, rfl, rfl, rfl⟩

/-- Settles O37: every one of the six is floatLanes over its two operands. -/
theorem cellFloatLanes : Obligations.CellFloatLanes := by
  intro o xs v c x F a b
  have two : ∀ (i : Instr) (rounds : Bool) (op : FloatFmt → Nat → Nat → Nat → Nat → Rounded),
      cellEffect i v c = c.floatLanes x o.dst [a, b] rounds (fun F m rho l => op F m rho (l 0 0) (l 1 0)) →
      ((anyVerdict F a = true ∨ anyVerdict F b = true) → cellEffect i v c = .error (0x20, 0)) ∧
      (anyVerdict F a = false → anyVerdict F b = false → (rounds = false ∨ x.rnd ≠ 4) → o.dst.toNat < 16 →
        ∃ c', cellEffect i v c = .ok c' ∧
          (∀ l, l < 256 / F.width → laneOf (c'.frag o.dst.toNat) F.width l =
            (op F x.rnd.toNat 0 (laneOf a F.width l) (laneOf b F.width l)).1 % 2 ^ F.width) ∧
          c'.flags = (List.range (256 / F.width)).foldl
            (fun f l => f ||| (op F x.rnd.toNat 0 (laneOf a F.width l) (laneOf b F.width l)).2) c.flags ∧
          (∀ n, n ≠ o.dst.toNat → c'.frag n = c.frag n) ∧ c'.c = c.c ∧ c'.h0 = c.h0 ∧ c'.h1 = c.h1 ∧ c'.q = c.q ∧ c'.s = c.s ∧
          c'.store = c.store) := by
    intro i rounds op hi
    rw [hi]
    constructor
    · intro h
      refine Cell.floatLanes_verdict ?_
      change (anyVerdict F a || (anyVerdict F b || false)) = true
      rcases h with h | h <;> simp [h]
    · intro ha hb hr hd
      have hany : [a, b].any (anyVerdict (xFloat x)) = false := by
        change (anyVerdict F a || (anyVerdict F b || false)) = false
        rw [ha, hb]
        rfl
      exact Cell.floatLanes_ok (fun l => op F x.rnd.toNat 0 (laneOf a F.width l) (laneOf b F.width l)) hany hr hd (fun l => rfl)
  refine List.forall_mem_cons.mpr ⟨two _ true fpAdd rfl, List.forall_mem_cons.mpr ⟨two _ true fpSub rfl,
    List.forall_mem_cons.mpr ⟨two _ true fpMul rfl, List.forall_mem_cons.mpr ⟨two _ true fpDiv rfl,
    List.forall_mem_cons.mpr ⟨two _ false (fun F _ _ => fpMinMax F false) rfl,
    List.forall_mem_cons.mpr ⟨two _ false (fun F _ _ => fpMinMax F true) rfl, List.forall_mem_nil _⟩⟩⟩⟩⟩⟩

/-! ### Integer lanes -/

/-- Integer lanes: the lanes of the destination and what stays. -/
theorem Cell.intLanes_ok {c : Cell} {v : CellEnv} {xs : List XPay} {dst srcA srcB : BitVec 5} {f : Nat → Nat → Nat → Nat} {w : Nat}
    (g : Nat → Nat) (hw : fmtWidth (xFmt (XFields.of xs) fmtINT32) = w) (hd : dst.toNat < 16)
    (hg : ∀ l, f w (laneOf (c.operand v 0 srcA) w l) (laneOf (c.operand v 0 srcB) w l) = g l) :
    ∃ c', c.intLanes v xs dst srcA srcB f = .ok c' ∧
      (∀ l, l < 256 / w → laneOf (c'.frag dst.toNat) w l = g l % 2 ^ w) ∧ (∀ n, n ≠ dst.toNat → c'.frag n = c.frag n) ∧
      c'.c = c.c ∧ c'.h0 = c.h0 ∧ c'.h1 = c.h1 ∧ c'.flags = c.flags ∧ c'.q = c.q ∧ c'.s = c.s ∧ c'.store = c.store := by
  subst hw
  refine ⟨_, rfl, ?_, ?_, ?_⟩
  · intro l hl
    rw [Cell.frag_put_self _ hd, laneOf_packLanes_map _ _ l hl, hg]
  · intro n hn
    exact Cell.frag_put_of_ne _ hd hn
  · rw [Cell.put_frag _ hd]
    exact ⟨rfl, rfl, rfl, rfl, rfl, rfl, rfl⟩

theorem satInt_md (md : BitVec 2) (w : Nat) (r : Int) :
    satInt (md == 1) w r = twos w (if md = 1 then max (-(2 ^ (w - 1))) (min (2 ^ (w - 1) - 1) r) else r) := by
  rw [satInt]
  congr 1
  by_cases h : md = 1 <;> simp [h]

/-- Settles O38: every one of the nine is intLanes over its two operands. -/
theorem cellIntegerLanes : Obligations.CellIntegerLanes := by
  intro o q xs v c hA hB hD fmt w a b sat _ hd
  have whole : ∀ (i : Instr) (dst srcA srcB : BitVec 5) (f : Nat → Nat → Nat → Nat) (g : Nat → Nat),
      dst = o.dst → srcA = o.srcA → srcB = o.srcB → cellEffect i v c = c.intLanes v xs dst srcA srcB f → (∀ l, f w (a l) (b l) = g l) →
      ∃ c', cellEffect i v c = .ok c' ∧
        (∀ l, l < 256 / w → laneOf (c'.frag o.dst.toNat) w l = g l % 2 ^ w) ∧ (∀ n, n ≠ o.dst.toNat → c'.frag n = c.frag n) ∧
        c'.c = c.c ∧ c'.h0 = c.h0 ∧ c'.h1 = c.h1 ∧ c'.flags = c.flags ∧ c'.q = c.q ∧ c'.s = c.s ∧ c'.store = c.store := by
    intro i dst srcA srcB f g h1 h2 h3 hi hg
    subst h1 h2 h3
    rw [hi]
    exact Cell.intLanes_ok _ rfl hd hg
  have plain := fun (i : Instr) (f : Nat → Nat → Nat → Nat) (hi : cellEffect i v c = c.intLanes v xs q.dst q.srcA q.srcB f) =>
    whole i _ _ _ f _ hD hA hB hi (fun _ => rfl)
  have clamped := fun (i : Instr) (r : Nat → Nat → Nat → Int)
      (hi : cellEffect i v c = c.intLanes v xs o.dst o.srcA o.srcB (fun w a b => satInt (o.md == 1) w (r w a b))) =>
    whole i _ _ _ _ (fun l => sat (r w (a l) (b l))) rfl rfl rfl hi (fun l => satInt_md o.md w (r w (a l) (b l)))
  simp only [List.forall_mem_cons]
  exact ⟨clamped _ (fun w a b => signExt w a + signExt w b) rfl, clamped _ (fun w a b => signExt w a - signExt w b) rfl,
    clamped _ (fun w a b => signExt w a * signExt w b) rfl, plain _ (fun _ a b => a &&& b) rfl, plain _ (fun _ a b => a ||| b) rfl,
    plain _ (fun _ a b => a ^^^ b) rfl, plain _ (fun w a b => a * 2 ^ (b % w)) rfl, plain _ (fun w a b => a / 2 ^ (b % w)) rfl,
    plain _ (fun w a b => twos w (signExt w a / 2 ^ (b % w))) rfl, List.forall_mem_nil _⟩

end Sys2Proof.Machine
end

section
/-! PROOFS. The lanes of a v register and of a mask, and the lane formats (R345, R346, R349). -/

namespace Sys2Proof.Machine

/-! ### Lanes (R345, R346) -/

/-- A bit of a lane below n of what the first n lanes make. -/
theorem getLsbD_foldl_lanes (f : Nat → BitVec 32) (n : Nat) (hn : n ≤ 32) (l : Nat) (hl : l < 32) (i : Nat) (hi : i < 32) :
    ((List.range n).foldl (fun v l => v ||| ((f l).setWidth 1024 <<< (32 * l))) (0 : BitVec 1024)).getLsbD (32 * l + i) =
      (decide (l < n) && (f l).getLsbD i) := by
  induction n with
  | zero => simp
  | succ n ih =>
    rw [List.range_succ, List.foldl_append, List.foldl_cons, List.foldl_nil, BitVec.getLsbD_or, ih (by omega), BitVec.getLsbD_shiftLeft,
      BitVec.getLsbD_setWidth]
    rcases lt_trichotomy l n with h | h | h
    · simp [h, show l < n + 1 by omega, show 32 * l + i < 32 * n by omega]
    · subst h
      simp [show 32 * l + i < 1024 by omega, show i < 1024 by omega]
    · have hout : ¬ 32 * l + i - 32 * n < 32 := by omega
      simp [show ¬ l < n by omega, show ¬ l < n + 1 by omega, BitVec.getLsbD_of_ge (f n) _ (by omega : 32 ≤ 32 * l + i - 32 * n)]

@[simp] theorem lane_ofLanes (f : Nat → BitVec 32) {l : Nat} (hl : l < 32) : lane (ofLanes f) l = f l := by
  refine BitVec.eq_of_getLsbD_eq (fun i hi => ?_)
  rw [lane, BitVec.getLsbD_extractLsb', ofLanes, getLsbD_foldl_lanes f 32 (le_refl _) l hl i hi]
  simp [hi, hl]

theorem lane_mergeLanes (m : BitVec 32) (old : BitVec 1024) (f : Nat → BitVec 32) {l : Nat} (hl : l < 32) :
    lane (mergeLanes m old f) l = if m.getLsbD l = true then f l else lane old l := lane_ofLanes _ hl

/-- A bit of what the first n bits make. -/
theorem getLsbD_foldl_mask (f : Nat → Bool) (n : Nat) (hn : n ≤ 32) (l : Nat) :
    ((List.range n).foldl (fun v l => if f l then v ||| (1#32 <<< l) else v) 0#32).getLsbD l = (decide (l < n) && f l) := by
  induction n with
  | zero => simp
  | succ n ih =>
    rw [List.range_succ, List.foldl_append, List.foldl_cons, List.foldl_nil]
    have hbit : (1#32 <<< n).getLsbD l = decide (l = n) := by
      rw [BitVec.getLsbD_shiftLeft, BitVec.getLsbD_one]
      by_cases h : l = n
      · simp [h, show n < 32 by omega]
      · have : ¬ (n ≤ l ∧ l - n = 0) := by omega
        simp only [h, decide_false]
        by_cases hln : l < n
        · simp [hln]
        · simp [show l - n ≠ 0 by omega]
    by_cases hf : f n = true
    · rw [if_pos hf, BitVec.getLsbD_or, ih (by omega), hbit]
      by_cases h : l = n
      · subst h
        simp [hf]
      · simp [h, show l < n + 1 ↔ l < n by omega]
    · rw [if_neg hf, ih (by omega)]
      by_cases h : l = n
      · subst h
        simp [hf]
      · simp [show l < n + 1 ↔ l < n by omega]

theorem getLsbD_maskOf (f : Nat → Bool) {l : Nat} (hl : l < 32) : (maskOf f).getLsbD l = f l := by
  rw [maskOf, show (0 : BitVec 32) = 0#32 from rfl, getLsbD_foldl_mask f 32 (le_refl _) l]
  simp [hl]

theorem mem_activeLanes {m : BitVec 32} {l : Nat} : l ∈ activeLanes m ↔ l < 32 ∧ m.getLsbD l = true := by
  rw [activeLanes, List.mem_filter, List.mem_range]

/-! ### Lane formats (R345, R355) -/

/-- A format of V arithmetic, its default put in, is FP32, BF16, FP16 or INT32. -/
theorem laneFmt_of_isVArith {f : BitVec 4} (h : isVArith f = true) :
    laneFmt f = fmtFP32 ∨ laneFmt f = fmtBF16 ∨ laneFmt f = fmtFP16 ∨ laneFmt f = fmtINT32 := by
  revert h
  revert f
  decide

/-- A code of a format of V arithmetic fills the lane from bit 0. -/
theorem placeLane_of_isVArith {f : BitVec 4} (h : isVArith f = true) (c : Nat) : placeLane (laneFmt f) c = BitVec.ofNat 32 c := by
  have hne : laneFmt f ≠ fmtINT8 := by
    revert h
    revert f
    decide
  exact if_neg hne

/-- A format of V arithmetic without a floating format is INT32. -/
theorem laneFmt_int {f : BitVec 4} (h : isVArith f = true) (hF : floatFmt (laneFmt f) = none) : laneFmt f = fmtINT32 := by
  rcases laneFmt_of_isVArith h with hf | hf | hf | hf
  · rw [hf] at hF; cases hF
  · rw [hf] at hF; cases hF
  · rw [hf] at hF; cases hF
  · exact hf

theorem laneCode_int32 (v : BitVec 32) : laneCode fmtINT32 v = v.toNat := Nat.mod_eq_of_lt v.isLt

/-- A floating format is as wide as the lane format. -/
theorem floatFmt_width {f : BitVec 4} {F : FloatFmt} (h : floatFmt f = some F) : F.width = fmtWidth f := by
  have hall : ∀ f, (floatFmt f).all (fun F => F.width == fmtWidth f) = true := by decide
  have := hall f
  rw [h] at this
  simpa using this

theorem signExt_toNat (v : BitVec 32) : signExt 32 v.toNat = v.toInt := by
  rw [signExt, BitVec.toInt_eq_toNat_cond]
  have := v.isLt
  rw [Nat.mod_eq_of_lt this]
  split <;> split <;> omega

theorem ofNat_twos (v : Int) : BitVec.ofNat 32 (twos 32 v) = BitVec.ofInt 32 v := by
  refine BitVec.eq_of_toNat_eq ?_
  rw [BitVec.toNat_ofNat, BitVec.toNat_ofInt, twos]
  omega

/-! ### Verdict words in active lanes (R349, R434) -/

/-- No verdict word in an active lane of a source: nothing traps. -/
theorem verdictCheck_ok {fmt : BitVec 4} {m : BitVec 32} {srcs : List (Nat × BitVec 1024)}
    (h : ∀ F, floatFmt fmt = some F → ∀ l < 32, m.getLsbD l = true → ∀ r ∈ srcs, F.verdict (laneCode fmt (lane r.2 l)) = none) :
    verdictCheck fmt m srcs = .ok () := by
  rw [verdictCheck]
  cases hF : floatFmt fmt with
  | none => rfl
  | some F =>
    have hnone : verdictLane F m srcs = none := by
      rw [verdictLane, List.findSome?_eq_none_iff]
      intro l hl
      obtain ⟨hl, hm⟩ := mem_activeLanes.mp hl
      rw [Option.map_eq_none_iff, List.find?_eq_none]
      intro r hr
      have := h F hF l hl hm r hr
      rw [laneCode, ← floatFmt_width hF] at this
      simp [this]
    simp only [hnone]

/-! ### Commits of lane instructions -/

/-- Flags 0 leave a thread as it is. -/
theorem Thread.raiseOwn_zero (th : Thread) (c cls slot : Nat) : th.raiseOwn c 0 cls slot = th := by
  have he : th.enabled 0 = 0 := by simp [Thread.enabled]
  rw [Thread.raiseOwn, if_pos he]
  exact if_pos rfl

/-- An accepted instruction that writes a v register and raises flags. -/
theorem State.exec_writeV {s : State} {i : Instr} {d : Nat} {v : BitVec 1024} {f : BitVec 8} (hi : i.isStep = false)
    (h : s.accepts i = true) (hf : slotOf i (s.issuerOf i) s = .ok ((s.issuerOf i).writeV d v f)) :
    exec i s = .next ((s.movedWith i (fun th => (th.setV d v).raiseOwn (s.cycles s.curUnit) f 7 0)).boundary s.curUnit s.turnThread s.me.pc) :=
  State.exec_raise hi h hf

/-- An accepted instruction that writes a v register without flags. -/
theorem State.exec_moveV {s : State} {i : Instr} {d : Nat} {v : BitVec 1024} (hi : i.isStep = false) (h : s.accepts i = true)
    (hf : slotOf i (s.issuerOf i) s = .ok ((s.issuerOf i).writeV d v 0)) :
    exec i s = .next (s.movedWith i (fun th => th.setV d v)) := by
  have hk : (s.issuerOf i).writeV d v 0 = (s.issuerOf i).commit (fun th => th.setV d v) := by
    funext s'
    refine (State.updThread_updThread s' s.curUnit s.turnThread (fun th => th.setV d v)
      (fun th => th.raiseOwn ((s'.updThread s.curUnit s.turnThread (fun th => th.setV d v)).cycles s.curUnit) 0 7 0)).trans ?_
    exact State.updThread_congr (Thread.raiseOwn_zero _ _ _ _)
  exact State.exec_thread hi h (hf.trans (congrArg Except.ok hk)) (fun th ht => (th.setV_traps d v).trans ht)

/-! ### Lane arithmetic (R355) -/

/-- What a lane operation computes in one lane. -/
def laneResult (fmt : BitVec 4) (rnd : Nat) (f : FloatFmt → Nat → Nat → Nat → Nat → Rounded) (g : Int → Int → Int → Nat → Nat → Nat)
    (a b d : BitVec 32) : Rounded :=
  match floatFmt fmt with
  | some F => f F rnd (laneCode fmt a) (laneCode fmt b) (laneCode fmt d)
  | none => (g (signExt 32 (laneCode fmt a)) (signExt 32 (laneCode fmt b)) (signExt 32 (laneCode fmt d)) (laneCode fmt a) (laneCode fmt b), 0)

/-- On INT32 lanes: the operation on the lanes' integers, and no flag. -/
theorem laneResult_int {rnd : Nat} {f : FloatFmt → Nat → Nat → Nat → Nat → Rounded} {g : Int → Int → Int → Nat → Nat → Nat} (a b d : BitVec 32) :
    laneResult fmtINT32 rnd f g a b d = (g a.toInt b.toInt d.toInt a.toNat b.toNat, 0) := by
  have hF : floatFmt fmtINT32 = none := rfl
  simp only [laneResult, hF, laneCode_int32, signExt_toNat]

section
variable {s : State} {i : Instr} {o : VTriMod} {xs : List XPay} {acc : Bool} {fmt : BitVec 4} {m : BitVec 32} {a b d : BitVec 1024}
  {f : FloatFmt → Nat → Nat → Nat → Nat → Rounded} {g : Int → Int → Int → Nat → Nat → Nat}

/-- The operands of a lane operation: its format, mask and registers, these full and without a verdict word in a lane it combines. -/
structure LaneOperands (s : State) (o : VTriMod) (xs : List XPay) (acc : Bool) (fmt : BitVec 4) (m : BitVec 32) (a b d : BitVec 1024) : Prop where
  fmt_eq : laneFmt (XFields.of xs).fmtA = fmt
  mask_eq : s.me.getM o.mask = m
  a_eq : s.me.getV o.srcA.toNat = a
  b_eq : s.me.getV o.srcB.toNat = b
  d_eq : s.me.getV o.dst.toNat = d
  a_full : s.me.fullV o.srcA.toNat = true
  b_full : s.me.fullV o.srcB.toNat = true
  d_full : s.me.fullV o.dst.toNat = true
  ab_plain : ∀ F, floatFmt fmt = some F → ∀ l < 32, m.getLsbD l = true →
    F.verdict (laneCode fmt (lane a l)) = none ∧ F.verdict (laneCode fmt (lane b l)) = none
  d_plain : acc = true → ∀ F, floatFmt fmt = some F → ∀ l < 32, m.getLsbD l = true → F.verdict (laneCode fmt (lane d l)) = none

/-- A lane operation on such operands commits the lanes' results and flags. -/
theorem LaneOperands.slotLanes_ok (h : LaneOperands s o xs acc fmt m a b d) : slotLanes o xs acc f g (s.issuerOf i) s =
    .ok ((s.issuerOf i).writeV o.dst.toNat
      (mergeLanes m d (fun l => placeLane fmt (laneResult fmt (XFields.of xs).rnd.toNat f g (lane a l) (lane b l) (lane d l)).1))
      (laneFlags m (fun l => (laneResult fmt (XFields.of xs).rnd.toNat f g (lane a l) (lane b l) (lane d l)).2))) := by
  obtain ⟨rfl, rfl, rfl, rfl, rfl, ha, hb, hd, hab, hacc⟩ := h
  have hready : vready s.me [] [o.srcA.toNat, o.srcB.toNat, o.dst.toNat] = .ok () := vready_full (by simp) (by simp [ha, hb, hd])
  have hcheck : verdictCheck (laneFmt (XFields.of xs).fmtA) (s.me.getM o.mask) ([(o.srcA.toNat, s.me.getV o.srcA.toNat),
      (o.srcB.toNat, s.me.getV o.srcB.toNat)] ++ (if acc then [(o.dst.toNat, s.me.getV o.dst.toNat)] else [])) = .ok () := by
    refine verdictCheck_ok (fun F hf l hl hm p hp => ?_)
    rcases List.mem_append.mp hp with hp | hp
    · simp only [List.mem_cons, List.not_mem_nil, or_false] at hp
      rcases hp with rfl | rfl
      · exact (hab F hf l hl hm).1
      · exact (hab F hf l hl hm).2
    · cases acc
      · exact absurd hp List.not_mem_nil
      · rw [if_pos rfl, List.mem_singleton] at hp
        subst hp
        exact hacc rfl F hf l hl hm
  simp only [slotLanes, State.th_issuerOf, hready, hcheck]
  rfl

/-- A lane operation writes r in each active lane and raises the flags of r in them. -/
theorem State.exec_lanes (ops : LaneOperands s o xs acc fmt m a b d) (r : Nat → Rounded) (hi : i.isStep = false)
    (hslot : slotOf i = slotLanes o xs acc f g) (hk : isVArith (XFields.of xs).fmtA = true) (h : s.accepts i = true)
    (hF : ∀ F, floatFmt fmt = some F → ∀ l,
      f F (XFields.of xs).rnd.toNat (laneCode fmt (lane a l)) (laneCode fmt (lane b l)) (laneCode fmt (lane d l)) = r l)
    (hI : fmt = fmtINT32 → ∀ l, (r l).2 = 0 ∧
      BitVec.ofNat 32 (g (lane a l).toInt (lane b l).toInt (lane d l).toInt (lane a l).toNat (lane b l).toNat) = BitVec.ofNat 32 (r l).1) :
    ∃ v fl, exec i s = .next ((s.movedWith i (fun th => (th.setV o.dst.toNat v).raiseOwn (s.cycles s.curUnit) fl 7 0)).boundary
        s.curUnit s.turnThread s.me.pc) ∧
      (∀ l < 32, lane v l = if m.getLsbD l = true then BitVec.ofNat 32 (r l).1 else lane d l) ∧
      fl = ((List.range 32).filter (fun l => m.getLsbD l)).foldl (fun f l => f ||| (r l).2) 0 := by
  have hone : ∀ l, BitVec.ofNat 32 (laneResult fmt (XFields.of xs).rnd.toNat f g (lane a l) (lane b l) (lane d l)).1 = BitVec.ofNat 32 (r l).1 ∧
      (laneResult fmt (XFields.of xs).rnd.toNat f g (lane a l) (lane b l) (lane d l)).2 = (r l).2 := by
    intro l
    cases hf : floatFmt fmt with
    | some F => simp only [laneResult, hf, hF F hf l, and_self]
    | none =>
      have hint : fmt = fmtINT32 := ops.fmt_eq ▸ laneFmt_int hk (ops.fmt_eq.symm ▸ hf)
      obtain ⟨h2, h1⟩ := hI hint l
      subst hint
      simp only [laneResult_int, h1, h2, and_self]
  refine ⟨_, _, State.exec_writeV hi h ((congrFun (congrFun hslot _) _).trans ops.slotLanes_ok), fun l hl => ?_, ?_⟩
  · rw [lane_mergeLanes m d _ hl, ← ops.fmt_eq, placeLane_of_isVArith hk, ops.fmt_eq, (hone l).1]
  · simp only [laneFlags, activeLanes, (hone _).2]

end

/-- A value wrapped, or clamped with .SAT, to 32 bits. -/
theorem ofNat_intLane (md : BitVec 2) (v : Int) :
    BitVec.ofNat 32 (intLane (md == 1) v) = BitVec.ofInt 32 (if md = 1 then max (-2147483648) (min v 2147483647) else v) := by
  by_cases h : md = 1
  · subst h
    exact ofNat_twos _
  · rw [if_neg h, beq_false_of_ne h]
    exact ofNat_twos v

theorem ofNat_fmaLane (p q r : BitVec 32) : BitVec.ofNat 32 (intLane false (p.toInt * q.toInt + r.toInt)) = p * q + r := by
  rw [intLane, if_neg Bool.false_ne_true, ofNat_twos, BitVec.ofInt_add, BitVec.ofInt_mul]
  simp only [BitVec.ofInt_toInt]

/-- The smaller of two lanes, unsigned or signed. -/
theorem ofNat_minLane (md : BitVec 2) (p q : BitVec 32) :
    BitVec.ofNat 32 (if md = 1 then min p.toNat q.toNat else twos 32 (min p.toInt q.toInt)) =
      if md = 1 then (if p.toNat ≤ q.toNat then p else q) else if p.toInt ≤ q.toInt then p else q := by
  split
  · rw [min_def]
    split <;> simp
  · rw [ofNat_twos, min_def]
    split <;> exact BitVec.ofInt_toInt

/-- The larger of two lanes, unsigned or signed. -/
theorem ofNat_maxLane (md : BitVec 2) (p q : BitVec 32) :
    BitVec.ofNat 32 (if md = 1 then max p.toNat q.toNat else twos 32 (max p.toInt q.toInt)) =
      if md = 1 then (if p.toNat ≤ q.toNat then q else p) else if p.toInt ≤ q.toInt then q else p := by
  split
  · rw [max_def]
    split <;> simp
  · rw [ofNat_twos, max_def]
    split <;> exact BitVec.ofInt_toInt

/-- Nothing forbids the X slot of an instruction that is not reserved. -/
theorem bad_of_vKind {x : XFields} {bad f z : Bool} (h : vKind x bad f z = none) : bad = false := by
  rw [vKind, firstKind_cons] at h
  by_contra hb
  simp [Bool.not_eq_false _ ▸ hb] at h

theorem isVArith_of_bad {f : BitVec 4} {a : Bool} (h : (!isVArith f || a) = false) : isVArith f = true := by
  simpa using (Bool.or_eq_false_iff.mp h).1

theorem isVArith_of_bad_or {f : BitVec 4} {a b : Bool} (h : (!isVArith f || a || b) = false) : isVArith f = true :=
  isVArith_of_bad (Bool.or_eq_false_iff.mp h).1

/-- Settles O39: the six are lane operations; of INT32 each is the operation on the lanes' integers. -/
theorem laneArithmetic : Obligations.LaneArithmetic := by
  intro s o xs x fmt m a b d ha hb hd hv clamp
  have kind : ∀ {b c e f : Bool}, vKind x (!isVArith x.fmtA || b || c) e f = none → isVArith x.fmtA = true :=
    fun h => isVArith_of_bad_or (bad_of_vKind h)
  have int : fmt = fmtINT32 → floatFmt fmt = none := fun h => h ▸ rfl
  have run : ∀ (i : Instr) (acc : Bool) (f : FloatFmt → Nat → Nat → Nat → Nat → Rounded) (g : Int → Int → Int → Nat → Nat → Nat)
      (one : Nat → Rounded), slotOf i = slotLanes o xs acc f g → i.isStep = false → isVArith x.fmtA = true → s.accepts i = true →
      (acc = true → ∀ F, floatFmt fmt = some F → ∀ l < 32, m.getLsbD l = true → F.verdict (laneCode fmt (lane d l)) = none) →
      (∀ F, floatFmt fmt = some F → ∀ l, f F x.rnd.toNat (laneCode fmt (lane a l)) (laneCode fmt (lane b l)) (laneCode fmt (lane d l)) = one l) →
      (fmt = fmtINT32 → ∀ l, (one l).2 = 0 ∧
        BitVec.ofNat 32 (g (lane a l).toInt (lane b l).toInt (lane d l).toInt (lane a l).toNat (lane b l).toNat) = BitVec.ofNat 32 (one l).1) →
      ∃ v fl, exec i s = .next ((s.movedWith i (fun th => (th.setV o.dst.toNat v).raiseOwn (s.cycles s.curUnit) fl 7 0)).boundary
          s.curUnit s.turnThread s.me.pc) ∧
        (∀ l < 32, lane v l = if m.getLsbD l = true then BitVec.ofNat 32 (one l).1 else lane d l) ∧
        fl = ((List.range 32).filter (fun l => m.getLsbD l)).foldl (fun f l => f ||| (one l).2) 0 := by
    intro i acc f g one hslot hi hk h hacc hF hI
    have ops : LaneOperands s o xs acc fmt m a b d := ⟨rfl, rfl, rfl, rfl, rfl, ha, hb, hd, hv, hacc⟩
    exact State.exec_lanes ops one hi hslot hk h hF hI
  refine List.forall_mem_cons.mpr ⟨?_, List.forall_mem_cons.mpr ⟨?_, List.forall_mem_cons.mpr ⟨?_,
    List.forall_mem_cons.mpr ⟨?_, List.forall_mem_cons.mpr ⟨?_, List.forall_mem_cons.mpr ⟨?_, List.forall_mem_nil _⟩⟩⟩⟩⟩⟩
  all_goals intro h hacc one
  · refine run (.vadd o xs) false (fun F r p q _ => fpAdd F r 0 p q) (fun p q _ _ _ => intLane (o.md == 1) (p + q)) one rfl rfl
      (kind (State.accepts_reservedKind h)) h nofun (fun F hf l => ?_) (fun hint l => ?_)
    · simp only [one, hf]
    · simp only [one, int hint, ofNat_intLane, clamp, BitVec.ofNat_toNat, BitVec.setWidth_eq, and_self]
  · refine run (.vsub o xs) false (fun F r p q _ => fpSub F r 0 p q) (fun p q _ _ _ => intLane (o.md == 1) (p - q)) one rfl rfl
      (kind (State.accepts_reservedKind h)) h nofun (fun F hf l => ?_) (fun hint l => ?_)
    · simp only [one, hf]
    · simp only [one, int hint, ofNat_intLane, clamp, BitVec.ofNat_toNat, BitVec.setWidth_eq, and_self]
  · refine run (.vmul o xs) false (fun F r p q _ => fpMul F r 0 p q) (fun p q _ _ _ => intLane (o.md == 1) (p * q)) one rfl rfl
      (kind (State.accepts_reservedKind h)) h nofun (fun F hf l => ?_) (fun hint l => ?_)
    · simp only [one, hf]
    · simp only [one, int hint, ofNat_intLane, clamp, BitVec.ofNat_toNat, BitVec.setWidth_eq, and_self]
  · refine run (.vfma o xs) true (fun F r p q w => fpFma F r 0 p q w) (fun p q w _ _ => intLane false (p * q + w)) one rfl rfl
      (kind (State.accepts_reservedKind h)) h (fun _ => hacc rfl) (fun F hf l => ?_) (fun hint l => ?_)
    · simp only [one, hf]
    · simp only [one, int hint, ofNat_fmaLane, BitVec.ofNat_toNat, BitVec.setWidth_eq, and_self]
  · refine run (.vmin o xs) false (fun F _ p q _ => fpMinMax F false p q) (fun a b _ p q => if o.md = 1 then min p q else twos 32 (min a b)) one rfl rfl
      (kind (State.accepts_reservedKind h)) h nofun (fun F hf l => ?_) (fun hint l => ?_)
    · simp only [one, hf]
    · simp only [one, int hint, ofNat_minLane, BitVec.ofNat_toNat, BitVec.setWidth_eq, and_self]
  · refine run (.vmax o xs) false (fun F _ p q _ => fpMinMax F true p q) (fun a b _ p q => if o.md = 1 then max p q else twos 32 (max a b)) one rfl rfl
      (kind (State.accepts_reservedKind h)) h nofun (fun F hf l => ?_) (fun hint l => ?_)
    · simp only [one, hf]
    · simp only [one, int hint, ofNat_maxLane, BitVec.ofNat_toNat, BitVec.setWidth_eq, and_self]

end Sys2Proof.Machine
end

section
/-! PROOFS. Lane compares, conversions, reductions, pooling, moves and distinct values (R356 to R363). -/

namespace Sys2Proof.Machine

/-! ### Compares and conversions (R356, R357) -/

/-- The conditions of VCMP on INT32 lanes as a table. -/
theorem intLaneCond_eq (md : BitVec 2) (a b : BitVec 32) : intLaneCond md a b =
    [decide (a = b), decide (a.toInt < b.toInt), decide (a.toInt ≤ b.toInt), decide (a.toNat < b.toNat)].getD md.toNat false := by
  have hslt : ∀ p q : BitVec 32, p.slt q = decide (p.toInt < q.toInt) := fun p q => rfl
  fin_cases md
  · rfl
  · exact hslt a b
  · show (!b.slt a) = decide (a.toInt ≤ b.toInt)
    rw [hslt]
    by_cases h : b.toInt < a.toInt
    · simp [h, show ¬ a.toInt ≤ b.toInt by omega]
    · simp [h, show a.toInt ≤ b.toInt by omega]
  · rfl

/-- A lane's condition under VCMP, and its flags. -/
def cmpLane (fmt : BitVec 4) (md : BitVec 2) (a b : BitVec 32) : Bool × BitVec 8 :=
  match floatFmt fmt with
  | some F => fpCompare F md.toNat (laneCode fmt a) (laneCode fmt b)
  | none => (intLaneCond md a b, 0)

/-- VCMP with full sources and no verdict word writes the mask of its condition. -/
theorem vcmp_mask (s : State) (o : VTriMod) (xs : List XPay) (fmt : BitVec 4) (m : BitVec 32) (a b : BitVec 1024)
    (hfmt : laneFmt (XFields.of xs).fmtA = fmt) (hm : s.me.getM o.mask = m) (ha : s.me.getV o.srcA.toNat = a) (hb : s.me.getV o.srcB.toNat = b)
    (hfa : s.me.fullV o.srcA.toNat = true) (hfb : s.me.fullV o.srcB.toNat = true) (h : s.accepts (.vcmp o xs) = true)
    (hv : ∀ F, floatFmt fmt = some F → ∀ l < 32, m.getLsbD l = true →
      F.verdict (laneCode fmt (lane a l)) = none ∧ F.verdict (laneCode fmt (lane b l)) = none) :
    ∃ w f, exec (.vcmp o xs) s = .next ((s.movedWith (.vcmp o xs) (fun th => (th.setM (o.dst.setWidth 3) w).raiseOwn (s.cycles s.curUnit) f 7 0)).boundary
        s.curUnit s.turnThread s.me.pc) ∧
      ∀ l < 32, w.getLsbD l = (m.getLsbD l && (cmpLane fmt o.md (lane a l) (lane b l)).1) := by
  subst hfmt hm ha hb
  have hready : vready s.me [] [o.srcA.toNat, o.srcB.toNat] = .ok () := vready_full (by simp) (by simp [hfa, hfb])
  have hcheck : verdictCheck (laneFmt (XFields.of xs).fmtA) (s.me.getM o.mask)
      [(o.srcA.toNat, s.me.getV o.srcA.toNat), (o.srcB.toNat, s.me.getV o.srcB.toNat)] = .ok () := by
    refine verdictCheck_ok (fun F hf l hl hm p hp => ?_)
    simp only [List.mem_cons, List.not_mem_nil, or_false] at hp
    rcases hp with rfl | rfl
    · exact (hv F hf l hl hm).1
    · exact (hv F hf l hl hm).2
  refine ⟨maskOf (fun l => (s.me.getM o.mask).getLsbD l && (cmpLane (laneFmt (XFields.of xs).fmtA) o.md (lane (s.me.getV o.srcA.toNat) l)
      (lane (s.me.getV o.srcB.toNat) l)).1),
    laneFlags (s.me.getM o.mask) (fun l => (cmpLane (laneFmt (XFields.of xs).fmtA) o.md (lane (s.me.getV o.srcA.toNat) l)
      (lane (s.me.getV o.srcB.toNat) l)).2), State.exec_raise rfl h ?_, fun l hl => getLsbD_maskOf _ hl⟩
  show slotVcmp o xs (s.issuerOf (.vcmp o xs)) s = _
  simp only [slotVcmp, State.th_issuerOf, hready, hcheck]
  rfl

/-- VCVT with full registers and no misused verdict word converts its active lanes. -/
theorem vcvt_lanes (s : State) (o : VUnary) (xs : List XPay) (hfa : s.me.fullV o.srcA.toNat = true) (hfd : s.me.fullV o.dst.toNat = true)
    (h : s.accepts (.vcvt o xs) = true)
    (hv : ∀ l < 32, (s.me.getM o.mask).getLsbD l = true → verdictMisuse (XFields.of xs).fmtA (XFields.of xs).fmtB
      (laneCode (XFields.of xs).fmtA (lane (s.me.getV o.srcA.toNat) l)) = false) :
    ∃ v f, exec (.vcvt o xs) s = .next ((s.movedWith (.vcvt o xs) (fun th => (th.setV o.dst.toNat v).raiseOwn (s.cycles s.curUnit) f 7 0)).boundary
        s.curUnit s.turnThread s.me.pc) ∧
      ∀ l < 32, lane v l = if (s.me.getM o.mask).getLsbD l = true then
        placeLane (XFields.of xs).fmtB (convertElem (XFields.of xs).fmtA (XFields.of xs).fmtB (XFields.of xs).rnd.toNat 0 0
          (laneCode (XFields.of xs).fmtA (lane (s.me.getV o.srcA.toNat) l))).1
        else lane (s.me.getV o.dst.toNat) l := by
  have hready : vready s.me [] [o.srcA.toNat, o.dst.toNat] = .ok () := vready_full (by simp) (by simp [hfa, hfd])
  have hno : convertMisuse (XFields.of xs).fmtA (XFields.of xs).fmtB (s.me.getM o.mask) (s.me.getV o.srcA.toNat) = none := by
    rw [convertMisuse, List.find?_eq_none]
    intro l hl
    obtain ⟨hl, hm⟩ := mem_activeLanes.mp hl
    simp [hv l hl hm]
  refine ⟨_, _, State.exec_writeV (d := o.dst.toNat) (v := mergeLanes (s.me.getM o.mask) (s.me.getV o.dst.toNat) _)
    (f := laneFlags (s.me.getM o.mask) (fun l => (convertElem (XFields.of xs).fmtA (XFields.of xs).fmtB (XFields.of xs).rnd.toNat 0 0
      (laneCode (XFields.of xs).fmtA (lane (s.me.getV o.srcA.toNat) l))).2)) rfl h ?_,
    fun l hl => lane_mergeLanes _ _ _ hl⟩
  show slotVcvt o xs (s.issuerOf (.vcvt o xs)) s = _
  simp only [slotVcvt, State.th_issuerOf, hready, hno]

/-! ### Reductions and pooling (R61, R358, R363) -/

/-- One combining step as the table of R358 has it: a rounded sum, or one modulo 2^32, a minimum or a maximum. -/
def combineStep (fmt : BitVec 4) (rnd op : Nat) (t c : Nat) : Nat :=
  match floatFmt fmt with
  | some F => (if op = 0 then fpAdd F rnd 0 t c else fpMinMax F (op == 2) t c).1
  | none => if op = 0 then (t + c) % 2 ^ 32
      else (if op = 2 then (if (BitVec.ofNat 32 t).toInt ≤ (BitVec.ofNat 32 c).toInt then BitVec.ofNat 32 c else BitVec.ofNat 32 t)
        else (if (BitVec.ofNat 32 t).toInt ≤ (BitVec.ofNat 32 c).toInt then BitVec.ofNat 32 t else BitVec.ofNat 32 c)).toNat

theorem signExt_eq_toInt (n : Nat) : signExt 32 n = (BitVec.ofNat 32 n).toInt := by
  rw [← signExt_toNat, BitVec.toNat_ofNat, signExt, signExt, Nat.mod_mod]

theorem twos_toInt (v : BitVec 32) : twos 32 v.toInt = v.toNat := by
  have h := congrArg BitVec.toNat (ofNat_twos v.toInt)
  rw [BitVec.ofInt_toInt, BitVec.toNat_ofNat] at h
  rw [← h, Nat.mod_eq_of_lt]
  rw [twos]
  omega

theorem combine_eq (fmt : BitVec 4) (rnd op t c : Nat) : (combine fmt rnd op t c).1 = combineStep fmt rnd op t c := by
  rw [combine, combineStep]
  cases floatFmt fmt with
  | some F => rfl
  | none =>
    dsimp only
    by_cases h0 : op = 0
    · rw [if_pos h0, if_pos h0]
    · rw [if_neg h0, if_neg h0, signExt_eq_toInt, signExt_eq_toInt]
      by_cases h2 : op = 2
      · rw [if_pos h2, if_pos h2, max_def]
        split <;> exact twos_toInt _
      · rw [if_neg h2, if_neg h2, min_def]
        split <;> exact twos_toInt _

theorem combineAll_eq (fmt : BitVec 4) (rnd op t : Nat) (cs : List Nat) :
    (combineAll fmt rnd op t cs).1 = cs.foldl (combineStep fmt rnd op) t := by
  induction cs generalizing t with
  | nil => rfl
  | cons c cs ih => rw [List.foldl_cons, ← combine_eq, ← ih, combineAll]

/-- The elements of a list combined in order; of none, 0. -/
def combined (fmt : BitVec 4) (rnd op : Nat) (cs : List Nat) : Rounded :=
  match cs with
  | [] => (0, 0)
  | t :: rest => combineAll fmt rnd op t rest

/-- What VPOOL computes for one segment: none without contributors. -/
def pooled (fmt : BitVec 4) (rnd : Nat) (md : BitVec 2) (old : BitVec 32) (vs : List Nat) : Option Nat × BitVec 8 :=
  match vs with
  | [] => (none, 0)
  | v :: rest =>
    let q := if 2 ≤ md then combineAll fmt rnd (if md = 0 || md = 2 then 0 else 2) (laneCode fmt old) vs
      else combineAll fmt rnd (if md = 0 || md = 2 then 0 else 2) v rest
    (some q.1, q.2)

/-- The lane that VPOOL writes for a segment. -/
def poolLane (fmt : BitVec 4) (md : BitVec 2) (old : BitVec 32) (r : Option Nat × BitVec 8) : BitVec 32 :=
  match r.1 with
  | some v => placeLane fmt v
  | none => emptySegment fmt md.toNat old

theorem poolLane_nil (fmt : BitVec 4) (rnd : Nat) (md : BitVec 2) (old : BitVec 32) :
    poolLane fmt md old (pooled fmt rnd md old []) = if md = 0 then 0 else if md = 1 then (match floatFmt fmt with
      | some F => BitVec.ofNat 32 (F.withSign true F.infCode) | none => 0x80000000) else old := by
  fin_cases md <;> rfl

theorem poolLane_cons {f : BitVec 4} (hf : isVArith f = true) (rnd : Nat) (md : BitVec 2) (old : BitVec 32) (c : Nat) (cs : List Nat) :
    poolLane (laneFmt f) md old (pooled (laneFmt f) rnd md old (c :: cs)) =
      if md = 0 ∨ md = 1 then BitVec.ofNat 32 (cs.foldl (combineStep (laneFmt f) rnd (if md = 0 ∨ md = 2 then 0 else 2)) c)
      else BitVec.ofNat 32 ((c :: cs).foldl (combineStep (laneFmt f) rnd (if md = 0 ∨ md = 2 then 0 else 2)) (laneCode (laneFmt f) old)) := by
  have hop : (if md = 0 || md = 2 then 0 else 2) = if md = 0 ∨ md = 2 then 0 else 2 := by
    simp only [Bool.or_eq_true, decide_eq_true_eq]
  have hacc : (2 ≤ md) ↔ ¬ (md = 0 ∨ md = 1) := by
    revert md
    decide
  simp only [poolLane, pooled, hop, hacc, placeLane_of_isVArith hf]
  by_cases hmd : md = 0 ∨ md = 1
  · rw [if_neg (not_not.mpr hmd), if_pos hmd, combineAll_eq]
  · rw [if_pos hmd, if_neg hmd, combineAll_eq]

section
variable (s : State) (o : VTriMod) (xs : List XPay) (fmt : BitVec 4) (m : BitVec 32) (a b d : BitVec 1024)
  (hfmt : laneFmt (XFields.of xs).fmtA = fmt) (hm : s.me.getM o.mask = m) (ha : s.me.getV o.srcA.toNat = a)
  (hb : s.me.getV o.srcB.toNat = b) (hd : s.me.getV o.dst.toNat = d)
  (hfa : s.me.fullV o.srcA.toNat = true) (hfb : s.me.fullV o.srcB.toNat = true) (hfd : s.me.fullV o.dst.toNat = true)
  (hv : ∀ F, floatFmt fmt = some F → ∀ l < 32, m.getLsbD l = true → F.verdict (laneCode fmt (lane a l)) = none)
include hfmt hm ha hfa hfd hv

/-- VRED with full registers and no verdict word: lane 0 has the active lanes combined, the others 0. -/
theorem vred_lanes (h : s.accepts (.vred o xs) = true) :
    ∃ v f, exec (.vred o xs) s = .next ((s.movedWith (.vred o xs) (fun th => (th.setV o.dst.toNat v).raiseOwn (s.cycles s.curUnit) f 7 0)).boundary
        s.curUnit s.turnThread s.me.pc) ∧
      (∀ l, 0 < l → l < 32 → lane v l = 0) ∧
      lane v 0 = (match (List.range 32).filter (fun l => m.getLsbD l) with
        | [] => 0
        | k :: ks => BitVec.ofNat 32 (ks.foldl (fun t l => combineStep fmt (XFields.of xs).rnd.toNat o.md.toNat t (laneCode fmt (lane a l)))
            (laneCode fmt (lane a k)))) := by
  subst hfmt hm ha
  have hready : vready s.me [] [o.srcA.toNat, o.dst.toNat] = .ok () := vready_full (by simp) (by simp [hfa, hfd])
  have hcheck : verdictCheck (laneFmt (XFields.of xs).fmtA) (s.me.getM o.mask) [(o.srcA.toNat, s.me.getV o.srcA.toNat)] = .ok () :=
    verdictCheck_ok (fun F hf l hl hm p hp => by rw [List.mem_singleton.mp hp]; exact hv F hf l hl hm)
  have hk : isVArith (XFields.of xs).fmtA = true := by
    have hbad := bad_of_vKind (State.accepts_reservedKind h)
    simpa using (Bool.or_eq_false_iff.mp (Bool.or_eq_false_iff.mp hbad).1).2
  let r := combined (laneFmt (XFields.of xs).fmtA) (XFields.of xs).rnd.toNat o.md.toNat
    ((activeLanes (s.me.getM o.mask)).map (fun l => laneCode (laneFmt (XFields.of xs).fmtA) (lane (s.me.getV o.srcA.toNat) l)))
  refine ⟨ofLanes (fun l => if l = 0 then placeLane (laneFmt (XFields.of xs).fmtA) r.1 else 0), r.2, State.exec_writeV rfl h ?_, ?_, ?_⟩
  · show slotVred o xs (s.issuerOf (.vred o xs)) s = _
    simp only [slotVred, State.th_issuerOf, hready, hcheck]
    rfl
  · intro l h0 hl
    rw [lane_ofLanes _ hl, if_neg (by omega)]
  · rw [lane_ofLanes _ (by omega), if_pos rfl, placeLane_of_isVArith hk]
    simp only [r, activeLanes]
    cases (List.range 32).filter (fun l => (s.me.getM o.mask).getLsbD l) with
    | nil => rfl
    | cons k ks => simp only [combined, List.map_cons, combineAll_eq, List.foldl_map]

include hb hd hfb hfd in
/-- VPOOL with full registers and no verdict word: each segment has its contributors combined, for MOD 2 and 3 from the old lane on. -/
theorem vpool_lanes (hvd : ∀ F, floatFmt fmt = some F → ∀ l < 32, F.verdict (laneCode fmt (lane d l)) = none)
    (h : s.accepts (.vpool o xs) = true) :
    ∃ v f, exec (.vpool o xs) s = .next ((s.movedWith (.vpool o xs) (fun th => (th.setV o.dst.toNat v).raiseOwn (s.cycles s.curUnit) f 7 0)).boundary
        s.curUnit s.turnThread s.me.pc) ∧
      ∀ t < 32, lane v t = (match (List.range 32).filter (fun l => m.getLsbD l && (lane b l).toNat == t) with
        | [] => if o.md = 0 then 0 else if o.md = 1 then (match floatFmt fmt with
              | some F => BitVec.ofNat 32 (F.withSign true F.infCode) | none => 0x80000000) else lane d t
        | k :: ks =>
          let op := if o.md = 0 ∨ o.md = 2 then 0 else 2
          if o.md = 0 ∨ o.md = 1 then BitVec.ofNat 32 (ks.foldl (fun t l => combineStep fmt (XFields.of xs).rnd.toNat op t (laneCode fmt (lane a l)))
            (laneCode fmt (lane a k)))
          else BitVec.ofNat 32 ((k :: ks).foldl (fun t l => combineStep fmt (XFields.of xs).rnd.toNat op t (laneCode fmt (lane a l)))
            (laneCode fmt (lane d t)))) := by
  subst hfmt hm ha hb hd
  have hready : vready s.me [] [o.srcA.toNat, o.srcB.toNat, o.dst.toNat] = .ok () := vready_full (by simp) (by simp [hfa, hfb, hfd])
  have hcheck : verdictCheck (laneFmt (XFields.of xs).fmtA) (s.me.getM o.mask) [(o.srcA.toNat, s.me.getV o.srcA.toNat)] = .ok () :=
    verdictCheck_ok (fun F hf l hl hm p hp => by rw [List.mem_singleton.mp hp]; exact hv F hf l hl hm)
  have hcheckd : ∀ m', (if 2 ≤ o.md then verdictCheck (laneFmt (XFields.of xs).fmtA) m' [(o.dst.toNat, s.me.getV o.dst.toNat)] else .ok ()) =
      Except.ok () := by
    intro m'
    split
    · exact verdictCheck_ok (fun F hf l hl _ p hp => by rw [List.mem_singleton.mp hp]; exact hvd F hf l hl)
    · rfl
  have hk : isVArith (XFields.of xs).fmtA = true := isVArith_of_bad (bad_of_vKind (State.accepts_reservedKind h))
  let r := fun t => pooled (laneFmt (XFields.of xs).fmtA) (XFields.of xs).rnd.toNat o.md (lane (s.me.getV o.dst.toNat) t)
    ((contributors (s.me.getM o.mask) (s.me.getV o.srcB.toNat) t).map
      (fun l => laneCode (laneFmt (XFields.of xs).fmtA) (lane (s.me.getV o.srcA.toNat) l)))
  refine ⟨ofLanes (fun t => poolLane (laneFmt (XFields.of xs).fmtA) o.md (lane (s.me.getV o.dst.toNat) t) (r t)),
    laneFlags (BitVec.allOnes 32) (fun t => (r t).2), State.exec_writeV rfl h ?_, fun t ht => ?_⟩
  · show slotVpool o xs (s.issuerOf (.vpool o xs)) s = _
    simp only [slotVpool, State.th_issuerOf, hready, hcheck, hcheckd]
    rfl
  · rw [lane_ofLanes _ ht]
    simp only [r, contributors, activeLanes, List.filter_filter, Bool.and_comm ((lane _ _).toNat == t)]
    cases (List.range 32).filter (fun l => (s.me.getM o.mask).getLsbD l && (lane (s.me.getV o.srcB.toNat) l).toNat == t) with
    | nil => exact poolLane_nil _ _ _ _
    | cons k ks => simp only [List.map_cons, poolLane_cons hk, List.foldl_cons, List.foldl_map]

end

/-- Settles O40: the compare and the conversion lane by lane, the reduction and the pooling by folds of the combining step. -/
theorem laneComparesConversionsAndReductions : Obligations.LaneComparesConversionsAndReductions := by
  refine ⟨⟨?_, fun s o xs ha hd h hv => vcvt_lanes s o xs ha hd h hv⟩, ?_⟩
  · intro s o xs x fmt m a b ha hb h hv
    obtain ⟨w, f, hx, hw⟩ := vcmp_mask s o xs fmt m a b rfl rfl rfl rfl ha hb h hv
    refine ⟨w, f, hx, fun l hl => ?_⟩
    rw [hw l hl, cmpLane]
    cases hf : floatFmt fmt with
    | some F => rfl
    | none => simp only [intLaneCond_eq]
  · intro s o xs x fmt m a b d step code ha hb hd hv
    have hstep : step = combineStep fmt x.rnd.toNat := rfl
    rw [hstep]
    exact ⟨vred_lanes s o xs fmt m a rfl rfl rfl ha hd hv,
      vpool_lanes s o xs fmt m a b d rfl rfl rfl rfl rfl ha hb hd hv⟩

/-! ### Moves (R359, R360, R361) -/

/-- An accepted instruction that replaces the active lanes of a v register. -/
theorem State.exec_mergeV {s : State} {i : Instr} {d : Nat} {m : BitVec 32} {old : BitVec 1024} {f : Nat → BitVec 32} (hi : i.isStep = false)
    (h : s.accepts i = true) (hf : slotOf i (s.issuerOf i) s = .ok ((s.issuerOf i).writeV d (mergeLanes m old f) 0)) :
    ∃ v, exec i s = .next (s.movedWith i (fun th => th.setV d v)) ∧
      ∀ l < 32, lane v l = if m.getLsbD l = true then f l else lane old l :=
  ⟨_, State.exec_moveV hi h hf, fun _ hl => lane_mergeLanes _ _ _ hl⟩

theorem slotVsel_ok {s : State} {c : Issuer} {o : VTri} {xs : List XPay} (ha : (c.th s).fullV o.srcA.toNat = true)
    (hb : (c.th s).fullV o.srcB.toNat = true) (hd : (c.th s).fullV o.dst.toNat = true) : slotVsel o xs c s =
      .ok (c.writeV o.dst.toNat (mergeLanes ((c.th s).getM o.mask) ((c.th s).getV o.srcB.toNat) (lane ((c.th s).getV o.srcA.toNat))) 0) := by
  simp only [slotVsel, vready_full (th := c.th s) (xs := []) (vs := [o.srcA.toNat, o.srcB.toNat, o.dst.toNat]) (by simp) (by simp [ha, hb, hd])]

theorem slotViota_ok {s : State} {c : Issuer} {o : VTri} {xs : List XPay} (ha : (c.th s).fullX o.srcA = true)
    (hb : (c.th s).fullX o.srcB = true) (hd : (c.th s).fullV o.dst.toNat = true) : slotViota o xs c s =
      .ok (c.writeV o.dst.toNat (mergeLanes ((c.th s).getM o.mask) ((c.th s).getV o.dst.toNat)
        (fun l => ((c.th s).getX o.srcA + BitVec.ofNat 64 l * (c.th s).getX o.srcB).setWidth 32)) 0) := by
  simp only [slotViota, vready_full (th := c.th s) (xs := [o.srcA, o.srcB]) (vs := [o.dst.toNat]) (by simp [ha, hb]) (by simp [hd])]

/-- VMOV's four forms (R359). -/
theorem slotVmov_lanes {s : State} {c : Issuer} {o : VTriMod} {xs : List XPay} (hmd : o.md = 0) (ha : (c.th s).fullV o.srcA.toNat = true)
    (hd : (c.th s).fullV o.dst.toNat = true) : slotVmov o xs c s =
      .ok (c.writeV o.dst.toNat (mergeLanes ((c.th s).getM o.mask) ((c.th s).getV o.dst.toNat) (lane ((c.th s).getV o.srcA.toNat))) 0) := by
  simp only [slotVmov, hmd, vready_full (th := c.th s) (xs := []) (vs := [o.srcA.toNat, o.dst.toNat]) (by simp) (by simp [ha, hd])]
  rfl

theorem slotVmov_spread {s : State} {c : Issuer} {o : VTriMod} {xs : List XPay} (hmd : o.md = 1) (ha : (c.th s).fullX o.srcA = true)
    (hd : (c.th s).fullV o.dst.toNat = true) : slotVmov o xs c s =
      .ok (c.writeV o.dst.toNat (mergeLanes ((c.th s).getM o.mask) ((c.th s).getV o.dst.toNat) (fun _ => ((c.th s).getX o.srcA).setWidth 32)) 0) := by
  simp only [slotVmov, hmd, vready_full (th := c.th s) (xs := [o.srcA]) (vs := [o.dst.toNat]) (by simp [ha]) (by simp [hd])]
  rfl

theorem slotVmov_pick {s : State} {c : Issuer} {o : VTriMod} {xs : List XPay} (hmd : o.md = 2) (hb : (c.th s).fullX o.srcB = true)
    (hd : (c.th s).fullX o.dst = true) (ha : (c.th s).fullV o.srcA.toNat = true) : slotVmov o xs c s =
      .ok (c.writeX o.dst ((lane ((c.th s).getV o.srcA.toNat) (((c.th s).getX o.srcB).toNat % 32)).setWidth 64)) := by
  simp only [slotVmov, hmd, vready_full (th := c.th s) (xs := [o.srcB, o.dst]) (vs := [o.srcA.toNat]) (by simp [hb, hd]) (by simp [ha])]
  rfl

theorem slotVmov_toMask {s : State} {c : Issuer} {o : VTriMod} {xs : List XPay} (hmd : o.md = 3) (hx : (XFields.of xs).spec = 0)
    (ha : (c.th s).fullX o.srcA = true) : slotVmov o xs c s =
      .ok (c.commit (fun t => t.setM (o.dst.setWidth 3) (((c.th s).getX o.srcA).setWidth 32))) := by
  simp only [slotVmov, hmd, hx, vready_full (th := c.th s) (xs := [o.srcA]) (vs := []) (by simp [ha]) (by simp)]
  rfl

theorem slotVmov_ofMask {s : State} {c : Issuer} {o : VTriMod} {xs : List XPay} (hmd : o.md = 3) (hx : (XFields.of xs).spec ≠ 0)
    (hd : (c.th s).fullX o.dst = true) : slotVmov o xs c s =
      .ok (c.writeX o.dst (((c.th s).getM (o.srcA.setWidth 3)).setWidth 64)) := by
  simp only [slotVmov, hmd, bne_iff_ne.mpr hx, vready_full (th := c.th s) (xs := [o.dst]) (vs := []) (by simp [hd]) (by simp)]
  rfl

/-! ### Distinct values (R362) -/

/-- What VDEDUP has made of the lanes it has passed: the distinct values `ds`, and for each lane its place `mp`. -/
structure Dedup (a : BitVec 1024) (ls : List Nat) (ds : List (BitVec 32)) (mp : List (Nat × Nat)) : Prop where
  distinct : ds.Nodup
  lanes : mp.map (fun e => e.1) = ls
  short : ds.length ≤ ls.length
  place : ∀ e ∈ mp, ds[e.2]? = some (lane a e.1)
  first : ∀ n < ds.length, ∃ p q l, mp = p ++ (l, n) :: q ∧ ∀ e ∈ p, e.2 < n

/-- A lane whose value has a place already. -/
theorem Dedup.old {a : BitVec 1024} {ls : List Nat} {ds : List (BitVec 32)} {mp : List (Nat × Nat)} (h : Dedup a ls ds mp) {l e : Nat}
    (hidx : ds.idxOf? (lane a l) = some e) : Dedup a (ls ++ [l]) ds (mp ++ [(l, e)]) := by
  obtain ⟨he, hval, -⟩ := List.idxOf?_eq_some_iff.mp hidx
  obtain ⟨hd, hl, hs, hp, hf⟩ := h
  refine ⟨hd, by simp [hl], by simp; omega, fun x hx => ?_, fun n hn => ?_⟩
  · rcases List.mem_append.mp hx with hx | hx
    · exact hp x hx
    · rw [List.mem_singleton.mp hx, List.getElem?_eq_getElem he, hval]
  · obtain ⟨p, q, k, heq, hlt⟩ := hf n hn
    exact ⟨p, q ++ [(l, e)], k, by simp [heq], hlt⟩

/-- A lane with a value of its own. -/
theorem Dedup.new {a : BitVec 1024} {ls : List Nat} {ds : List (BitVec 32)} {mp : List (Nat × Nat)} (h : Dedup a ls ds mp) {l : Nat}
    (hidx : ds.idxOf? (lane a l) = none) : Dedup a (ls ++ [l]) (ds ++ [lane a l]) (mp ++ [(l, ds.length)]) := by
  have hnot : lane a l ∉ ds := List.idxOf?_eq_none_iff.mp hidx
  obtain ⟨hd, hl, hs, hp, hf⟩ := h
  have hlt : ∀ x ∈ mp, x.2 < ds.length := fun x hx => (List.getElem?_eq_some_iff.mp (hp x hx)).1
  refine ⟨List.Nodup.append hd (List.nodup_singleton _) (by simpa using hnot), by simp [hl], by simpa using hs, fun x hx => ?_, fun n hn => ?_⟩
  · rcases List.mem_append.mp hx with hx | hx
    · rw [List.getElem?_append_left (hlt x hx)]
      exact hp x hx
    · rw [List.mem_singleton.mp hx]
      simp
  · rw [List.length_append, List.length_singleton] at hn
    rcases Nat.lt_succ_iff_lt_or_eq.mp hn with hn | rfl
    · obtain ⟨p, q, k, heq, hlt⟩ := hf n hn
      exact ⟨p, q ++ [(l, ds.length)], k, by simp [heq], hlt⟩
    · exact ⟨mp, [], l, rfl, hlt⟩

theorem Dedup.dedup {a : BitVec 1024} (ls : List Nat) {ks : List Nat} {ds : List (BitVec 32)} {mp : List (Nat × Nat)} (h : Dedup a ks ds mp) :
    Dedup a (ks ++ ls) (Machine.dedup a ls ds mp).1 (Machine.dedup a ls ds mp).2 := by
  induction ls generalizing ks ds mp with
  | nil => simpa [Machine.dedup] using h
  | cons l ls ih =>
    rw [show ks ++ l :: ls = ks ++ [l] ++ ls by simp]
    cases hidx : ds.idxOf? (lane a l) with
    | some e =>
      simp only [Machine.dedup, hidx]
      exact ih (h.old hidx)
    | none =>
      simp only [Machine.dedup, hidx]
      exact ih (h.new hidx)

/-- The lanes of the map: each lane passed has the place of its value, another all ones. -/
def placeOf (mp : List (Nat × Nat)) (l : Nat) : BitVec 32 :=
  match mp.find? (fun e => e.1 == l) with
  | some e => BitVec.ofNat 32 e.2
  | none => 0xFFFFFFFF

section
variable {a : BitVec 1024} {m : BitVec 32} {ds : List (BitVec 32)} {mp : List (Nat × Nat)} (h : Dedup a (activeLanes m) ds mp)
include h

theorem Dedup.length_le : ds.length ≤ 32 := by
  have := List.length_filter_le (fun l => m.getLsbD l) (List.range 32)
  have := h.short
  simp only [activeLanes, List.length_range] at *
  omega

/-- The place of an active lane: below the number of values, and of its value. -/
theorem Dedup.placeOf_active {l : Nat} (hl : l ∈ activeLanes m) :
    ∃ e ∈ mp, e.1 = l ∧ (placeOf mp l).toNat = e.2 ∧ e.2 < ds.length ∧ ds[e.2]? = some (lane a l) := by
  rw [← h.lanes, List.mem_map] at hl
  obtain ⟨x, hx, hxl⟩ := hl
  cases hfind : mp.find? (fun e => e.1 == l) with
  | none => exact absurd (List.find?_eq_none.mp hfind x hx) (by simp [hxl])
  | some e =>
    have he : e ∈ mp := List.mem_of_find?_eq_some hfind
    have hel : e.1 = l := by simpa using List.find?_some hfind
    have hval := h.place e he
    have hlt := (List.getElem?_eq_some_iff.mp hval).1
    have := h.length_le
    refine ⟨e, he, hel, ?_, hlt, hel ▸ hval⟩
    rw [placeOf, hfind]
    exact Nat.mod_eq_of_lt (by omega)

theorem Dedup.placeOf_inactive {l : Nat} (hl : l ∉ activeLanes m) : placeOf mp l = 0xFFFFFFFF := by
  rw [← h.lanes, List.mem_map] at hl
  have hfind : mp.find? (fun e => e.1 == l) = none := List.find?_eq_none.mpr (fun x hx => by
    simp only [beq_iff_eq]
    exact fun hxl => hl ⟨x, hx, hxl⟩)
  rw [placeOf, hfind]

/-- Each value has a first lane: its place is that value's, and every active lane before it has an earlier place. -/
theorem Dedup.exists_first {n : Nat} (hn : n < ds.length) :
    ∃ l ∈ activeLanes m, (placeOf mp l).toNat = n ∧ ∀ k < l, k ∈ activeLanes m → (placeOf mp k).toNat < n := by
  obtain ⟨p, q, l, heq, hlt⟩ := h.first n hn
  have hsorted : (mp.map (fun e => e.1)).Pairwise (· < ·) := by
    rw [h.lanes]
    exact List.Pairwise.filter _ List.pairwise_lt_range
  rw [heq, List.map_append, List.map_cons, List.pairwise_append, List.pairwise_cons] at hsorted
  obtain ⟨-, ⟨hq, -⟩, hp⟩ := hsorted
  have hbefore : ∀ e ∈ mp, e.1 < l → e ∈ p := by
    intro e he hel
    rw [heq] at he
    rcases List.mem_append.mp he with he | he
    · exact he
    · rcases List.mem_cons.mp he with rfl | he
      · exact absurd hel (lt_irrefl _)
      · exact absurd (hq e.1 (List.mem_map_of_mem he)) (by omega)
  have hlm : l ∈ activeLanes m := by
    rw [← h.lanes, heq]
    simp
  refine ⟨l, hlm, ?_, fun k hk hkm => ?_⟩
  · obtain ⟨e, he, hel, hpl, -⟩ := h.placeOf_active hlm
    rw [heq] at he
    rcases List.mem_append.mp he with he | he
    · exact absurd (hp e.1 (List.mem_map_of_mem he) l (List.mem_cons_self ..)) (by omega)
    · rcases List.mem_cons.mp he with rfl | he
      · exact hpl
      · exact absurd (hq e.1 (List.mem_map_of_mem he)) (by omega)
  · obtain ⟨e, he, hel, hpl, -⟩ := h.placeOf_active hkm
    rw [hpl]
    exact hlt e (hbefore e he (hel ▸ hk))

end

/-- VDEDUP with full registers (R362). -/
theorem vdedup_values (s : State) (o : VTri) (xs : List XPay) (ha : s.me.fullV o.srcA.toNat = true) (hd : s.me.fullV o.dst.toNat = true)
    (hd1 : s.me.fullV (o.dst.toNat + 1) = true) (hacc : s.accepts (.vdedup o xs) = true) :
    ∃ vals map n, n ≤ 32 ∧ (∀ e < n, ∀ f < n, lane vals e = lane vals f → e = f) ∧
      exec (.vdedup o xs) s = .next (s.movedWith (.vdedup o xs) (fun th =>
        ((th.setV o.dst.toNat vals).setV (o.dst.toNat + 1) map).setM (o.srcB.setWidth 3) (BitVec.ofNat 32 (2 ^ n - 1)))) ∧
      (∀ l < 32, (s.me.getM o.mask).getLsbD l = true → (lane map l).toNat < n ∧ lane vals (lane map l).toNat = lane (s.me.getV o.srcA.toNat) l) ∧
      (∀ l < 32, (s.me.getM o.mask).getLsbD l = false → lane map l = 0xFFFFFFFF) ∧
      (∀ e < n, ∃ l < 32, (s.me.getM o.mask).getLsbD l = true ∧ lane map l = BitVec.ofNat 32 e ∧
        (∀ k < l, (s.me.getM o.mask).getLsbD k = true → (lane map k).toNat < e)) ∧
      (∀ e, n ≤ e → e < 32 → lane vals e = 0) := by
  have h : Dedup (s.me.getV o.srcA.toNat) (activeLanes (s.me.getM o.mask)) _ _ :=
    Dedup.dedup (activeLanes (s.me.getM o.mask)) ⟨List.nodup_nil, rfl, le_refl _, fun _ hx => absurd hx List.not_mem_nil, fun _ hn => absurd hn (Nat.not_lt_zero _)⟩
  have hle := h.length_le
  revert h hle
  generalize hr : Machine.dedup (s.me.getV o.srcA.toNat) (activeLanes (s.me.getM o.mask)) [] [] = r
  intro h hle
  have hready : vready s.me [] [o.srcA.toNat, o.dst.toNat, o.dst.toNat + 1] = .ok () := vready_full (by simp) (by simp [ha, hd, hd1])
  refine ⟨ofLanes (fun l => r.1.getD l 0), ofLanes (placeOf r.2), r.1.length, hle, ?_, ?_, ?_, ?_, ?_, ?_⟩
  · intro e he f hf heq
    rw [lane_ofLanes _ (by omega), lane_ofLanes _ (by omega)] at heq
    rw [List.getD_eq_getElem _ _ he, List.getD_eq_getElem _ _ hf] at heq
    exact (List.Nodup.getElem_inj_iff h.distinct).mp heq
  · refine State.exec_thread rfl hacc ?_ (fun th ht => ?_)
    · show slotVdedup o xs (s.issuerOf (.vdedup o xs)) s = _
      simp only [slotVdedup, State.th_issuerOf, hready, hr]
      rfl
    · rw [Thread.setM_traps]
      exact ht
  · intro l hl hm
    obtain ⟨e, -, -, hpl, hlt, hval⟩ := h.placeOf_active (mem_activeLanes.mpr ⟨hl, hm⟩)
    rw [lane_ofLanes _ hl, hpl, lane_ofLanes _ (by omega)]
    exact ⟨hlt, by rw [List.getD, hval]; rfl⟩
  · intro l hl hm
    rw [lane_ofLanes _ hl]
    exact h.placeOf_inactive (fun hin => by simp [mem_activeLanes, hm] at hin)
  · intro e he
    obtain ⟨l, hl, hpl, hfirst⟩ := h.exists_first he
    obtain ⟨hl32, hm⟩ := mem_activeLanes.mp hl
    refine ⟨l, hl32, hm, ?_, fun k hk hkm => ?_⟩
    · rw [lane_ofLanes _ hl32, ← hpl, BitVec.ofNat_toNat, BitVec.setWidth_eq]
    · rw [lane_ofLanes _ (by omega)]
      exact hfirst k hk (mem_activeLanes.mpr ⟨by omega, hkm⟩)
  · intro e he hlt
    rw [lane_ofLanes _ hlt, List.getD, List.getElem?_eq_none he]
    rfl

/-- Settles O41. -/
theorem laneMovesAndDistinctValues : Obligations.LaneMovesAndDistinctValues := by
  refine ⟨⟨fun s o xs hd => ⟨fun ha hb h => ?_, fun ha hb h => ?_⟩, fun s o xs h => ⟨fun hmd ha hd => ?_, fun hmd ha hd => ?_,
    fun hmd hb hd ha => ?_, fun hmd hx ha => ?_, fun hmd hx hd => ?_⟩⟩, fun s o xs ha hd hd1 h => vdedup_values s o xs ha hd hd1 h⟩
  · exact State.exec_mergeV rfl h (slotVsel_ok (xs := xs) ha hb hd)
  · exact State.exec_mergeV rfl h (slotViota_ok (xs := xs) ha hb hd)
  · exact State.exec_mergeV rfl h (slotVmov_lanes hmd ha hd)
  · exact State.exec_mergeV rfl h (slotVmov_spread hmd ha hd)
  · exact State.exec_writeX rfl h (slotVmov_pick hmd hb hd ha)
  · exact State.exec_thread rfl h (slotVmov_toMask hmd hx ha) (fun th ht => (th.setM_traps _ _).trans ht)
  · exact State.exec_writeX rfl h (slotVmov_ofMask hmd hx hd)

end Sys2Proof.Machine
end

section
/-! PROOFS. Lane loads, stores, gathers and scatters (R351 to R354). -/

namespace Sys2Proof.Machine

/-! ### Translated lanes (R351, R452) -/

theorem collect_map_ok {α β : Type} {f : α → Except Stop β} {g : α → β} {l : List α} (h : ∀ x ∈ l, f x = .ok (g x)) :
    collect (l.map f) = .ok (l.map g) := by
  induction l with
  | nil => rfl
  | cons x l ih =>
    simp only [List.map_cons, collect, h x List.mem_cons_self, ih (fun y hy => h y (List.mem_cons_of_mem x hy))]

/-- The active lanes with the addresses and targets that the list gives, each aligned and none outside its gang's cores. -/
structure LanesNamed (s : State) (m : BitVec 32) (z : Nat) (k : Access) (f : Nat → Word) (ts : List (Nat × Nat × Target)) : Prop where
  lanes : ts.map (fun t => t.1) = (List.range 32).filter (fun l => m.getLsbD l)
  each : ∀ t ∈ ts, t.2.1 = (f t.1).toNat ∧ s.translate ((s.partOfUnit s.curUnit).getD 0) s.curUnit t.2.1 k = .ok t.2.2 ∧ t.2.1 % z = 0 ∧
    s.outside s.curUnit s.me.owner t.2.2 = false

theorem LanesNamed.laneTargets_ok {s : State} {m : BitVec 32} {z : Nat} {k : Access} {f : Nat → Word} {ts : List (Nat × Nat × Target)}
    (h : LanesNamed s m z k f ts) (i : Instr) : (s.issuerOf i).laneTargets s z k (laneAddresses m f) = .ok ts := by
  have haddr : laneAddresses m f = ts.map (fun t => (t.1, t.2.1)) := by
    have hl : activeLanes m = ts.map (fun t => t.1) := h.lanes.symm
    rw [laneAddresses, hl, List.map_map]
    exact List.map_congr_left (fun t ht => by rw [(h.each t ht).1]; rfl)
  have hone : ∀ t ∈ ts, (match (s.issuerOf i).laneAddress s t.1 t.2.1 z k with
      | .error e => (.error e : Except Stop (Nat × Nat × Target))
      | .ok g => .ok (t.1, t.2.1, g)) = .ok (id t) := by
    intro t ht
    obtain ⟨-, hx, ha, ho⟩ := h.each t ht
    have hadd : (s.issuerOf i).address s t.2.1 z k = .ok t.2.2 := Issuer.address_ok hx ha ho
    simp only [Issuer.laneAddress, hadd, id_eq]
  rw [Issuer.laneTargets, haddr, List.map_map]
  exact (collect_map_ok hone).trans (congrArg Except.ok (List.map_id ts))

/-! ### Requests one after another -/

theorem State.thread_access_traps (s : State) (c : Issuer) (g : Target) (own : Option Nat) (r : Req) (u t : Nat) :
    ((c.access id g own r s).thread u t).traps = (s.thread u t).traps := by
  show (State.thread (State.submit _ _) u t).traps = _
  rw [State.thread_submit, State.thread_updThread]
  split
  · next h =>
    obtain ⟨rfl, rfl, -⟩ := h
    exact Thread.pairDone_traps _ _
  · rfl

theorem State.thread_laneCommit_traps (s' : State) (c : Issuer) (s : State) (gs : List LaneGroup) (op : LaneGroup → MemOp) (u t : Nat) :
    ((c.laneCommit s gs op s').thread u t).traps = (s'.thread u t).traps := by
  induction gs generalizing s' with
  | nil => rfl
  | cons x gs ih =>
    exact (ih (c.access id x.target none (c.request s 7 x.va 128 x.target (op x)) s')).trans
      (State.thread_access_traps s' c x.target none (c.request s 7 x.va 128 x.target (op x)) u t)

section
variable {s : State} {i : Instr} {ts : List (Nat × Nat × Target)}

/-- A lane store: one request for each group. -/
theorem State.exec_laneStore {v : BitVec 1024} {fmt : BitVec 4} (hi : i.isStep = false) (h : s.accepts i = true)
    (hf : slotOf i (s.issuerOf i) s = .ok ((s.issuerOf i).laneStore s v fmt ts)) :
    exec i s = .next ((s.issuerOf i).laneStore s v fmt ts (s.moved i)) :=
  State.exec_plain hi h hf ((State.thread_laneCommit_traps _ _ _ _ _ _ _).trans (State.moved_traps h))

/-- A lane load: nothing without a group, else an empty destination and one request for each group. -/
theorem State.exec_laneLoad {d : Nat} {fmt : BitVec 4} (hi : i.isStep = false) (h : s.accepts i = true)
    (hf : slotOf i (s.issuerOf i) s = .ok ((s.issuerOf i).laneLoad s d fmt ts)) :
    exec i s = .next (if s.laneGroups ts [] = [] then s.moved i
      else (s.issuerOf i).laneCommit s (s.laneGroups ts []) (fun x => .vload d fmt x.lanes) (s.movedWith i (fun th => th.emptyV d))) := by
  have hcases : (s.issuerOf i).laneLoad s d fmt ts (s.moved i) = if s.laneGroups ts [] = [] then s.moved i
      else (s.issuerOf i).laneCommit s (s.laneGroups ts []) (fun x => .vload d fmt x.lanes) (s.movedWith i (fun th => th.emptyV d)) := by
    show (if (s.laneGroups ts []).isEmpty then _ else _) = _
    simp only [List.isEmpty_iff]
    rfl
  rw [State.exec_plain hi h hf, hcases]
  rw [hcases]
  split
  · exact State.moved_traps h
  · rw [State.thread_laneCommit_traps, State.movedWith, State.thread_updThread]
    split <;> exact State.moved_traps h

end

/-! ### The four slots -/

section
variable {s : State} {i : Instr} {o : VTriMod} {q : VTri} {xs : List XPay} {ts : List (Nat × Nat × Target)}
  (ha : s.me.fullX o.srcA = true) (hb : s.me.fullX o.srcB = true) (hd : s.me.fullV o.dst.toNat = true)

include ha hb hd in
theorem vready_strided : vready s.me (stridedRegs o) [o.dst.toNat] = .ok () := by
  refine vready_full (fun r hr => ?_) (by simp [hd])
  rw [stridedRegs] at hr
  split at hr
  · rw [List.mem_singleton.mp hr]
    exact ha
  · simp only [List.mem_cons, List.not_mem_nil, or_false] at hr
    rcases hr with rfl | rfl
    · exact ha
    · exact hb

include ha hb hd in
theorem slotVld_ok (h : LanesNamed s (s.me.getM o.mask) (laneBytes (laneFmt (XFields.of xs).fmtA)) .read
      (stridedLane s.me o (laneBytes (laneFmt (XFields.of xs).fmtA))) ts) :
    slotVld o xs (s.issuerOf i) s = .ok ((s.issuerOf i).laneLoad s o.dst.toNat (laneFmt (XFields.of xs).fmtA) ts) := by
  simp only [slotVld, State.th_issuerOf, vready_strided ha hb hd, h.laneTargets_ok i]

include ha hb hd in
theorem slotVst_ok (h : LanesNamed s (s.me.getM o.mask) (laneBytes (laneFmt (XFields.of xs).fmtA)) .write
      (stridedLane s.me o (laneBytes (laneFmt (XFields.of xs).fmtA))) ts) :
    slotVst o xs (s.issuerOf i) s = .ok ((s.issuerOf i).laneStore s (s.me.getV o.dst.toNat) (laneFmt (XFields.of xs).fmtA) ts) := by
  simp only [slotVst, State.th_issuerOf, vready_strided ha hb hd, h.laneTargets_ok i]

variable (hva : s.me.fullV o.srcB.toNat = true)

include ha hd hva in
theorem slotVgth_ok (h : LanesNamed s (s.me.getM o.mask) (laneBytes (laneFmt (XFields.of xs).fmtA)) .read
      (fun l => if o.md = 0 then indexedLane (s.me.getX o.srcA) (s.me.getV o.srcB.toNat) ((XFields.of xs).spec.extractLsb' 0 4).toNat l
        else indexedLane (s.me.getX o.srcA) (s.me.getV o.srcB.toNat) ((XFields.of xs).spec.extractLsb' 0 4).toNat
          ((XFields.of xs).spec.extractLsb' 4 5).toNat + BitVec.ofNat 64 (l * laneBytes (laneFmt (XFields.of xs).fmtA))) ts) :
    slotVgth o xs (s.issuerOf i) s = .ok ((s.issuerOf i).laneLoad s o.dst.toNat (laneFmt (XFields.of xs).fmtA) ts) := by
  have hready : vready s.me [o.srcA] [o.srcB.toNat, o.dst.toNat] = .ok () := vready_full (by simp [ha]) (by simp [hva, hd])
  simp only [slotVgth, State.th_issuerOf, hready, h.laneTargets_ok i]

end

theorem slotVsct_ok {s : State} {i : Instr} {q : VTri} {xs : List XPay} {ts : List (Nat × Nat × Target)} (ha : s.me.fullX q.srcA = true)
    (hd : s.me.fullV q.dst.toNat = true) (hva : s.me.fullV q.srcB.toNat = true)
    (h : LanesNamed s (s.me.getM q.mask) (laneBytes (laneFmt (XFields.of xs).fmtA)) .write
      (indexedLane (s.me.getX q.srcA) (s.me.getV q.srcB.toNat) ((XFields.of xs).spec.extractLsb' 0 4).toNat) ts) :
    slotVsct q xs (s.issuerOf i) s = .ok ((s.issuerOf i).laneStore s (s.me.getV q.dst.toNat) (laneFmt (XFields.of xs).fmtA) ts) := by
  have hready : vready s.me [q.srcA] [q.srcB.toNat, q.dst.toNat] = .ok () := vready_full (by simp [ha]) (by simp [hva, hd])
  simp only [slotVsct, State.th_issuerOf, hready, h.laneTargets_ok i]

/-- Settles O42: the lanes' addresses translate as named, and the commit sends their groups. -/
theorem laneAccessesEnterTheIssueOrder : Obligations.LaneAccessesEnterTheIssueOrder := by
  intro s o q xs ts x fmt z m hqd hqa hqb hqm ha hb hd hvb row sh picked gather named groups sent loads stores
  refine ⟨fun h hn => ?_, fun h hn => ?_, fun h hn => ?_, fun h hn => ?_⟩
  · exact State.exec_laneLoad rfl h (slotVld_ok ha hb hd ⟨hn.1, hn.2⟩)
  · exact State.exec_laneStore rfl h (slotVst_ok ha hb hd ⟨hn.1, hn.2⟩)
  · exact State.exec_laneLoad rfl h (slotVgth_ok ha hd hvb ⟨hn.1, hn.2⟩)
  · have hslot := slotVsct_ok (i := .vsct q xs) (xs := xs) (ts := ts) (q := q) (hqa ▸ ha) (hqd ▸ hd) (hqb ▸ hvb)
      (by rw [hqm, hqa, hqb]; exact ⟨hn.1, hn.2⟩)
    rw [hqd] at hslot
    exact State.exec_laneStore rfl h hslot

end Sys2Proof.Machine
end

section
/-! PROOFS. TSTR, HGLD and HGSC at issue (R364 to R371). -/

namespace Sys2Proof.Machine

/-! ### What a failure leaves alone (R405, R417, R447) -/

theorem State.seqs_failLaunch (s : State) (r : FaultRec) : (s.failLaunch r).seqs = s.seqs := by
  unfold State.failLaunch
  dsimp only
  split <;> split <;> rfl

/-- A task that fails stops its threads; nothing pends on a thread on which nothing pended. -/
theorem State.failTask_traps {s : State} {t cause u n : Nat} (h : (s.thread u n).traps = []) : ((s.failTask t cause).thread u n).traps = [] := by
  unfold State.failTask
  dsimp only
  split
  · exact h
  · next k _ =>
    show (State.thread (List.foldl _ _ _) u n).traps = []
    generalize k.threads = ts
    clear * - h
    induction ts generalizing s with
    | nil => exact h
    | cons i ts ih =>
      rw [List.foldl_cons]
      refine ih ?_
      rw [State.thread_updThread]
      split
      · rfl
      · exact h

theorem State.fail_traps {s : State} {i : Issue} {cause addr u n : Nat} {w : BitVec 32} (h : (s.thread u n).traps = []) :
    ((s.fail i cause addr w).thread u n).traps = [] := by
  have hl : ∀ r, ((s.failLaunch r).thread u n).traps = [] := fun r =>
    (congrArg Thread.traps (State.thread_of_seqs (s.seqs_failLaunch r) u n)).trans h
  unfold State.fail
  dsimp only
  split
  · exact h
  · exact hl _
  · split
    · exact hl _
    · exact State.failTask_traps h

/-! ### TSTR (R364, R365) -/

theorem tstrWidth_eq (d : BitVec 4) : tstrWidth d = if isMx d = true then 4 * mxWidth d else 32 * laneBytes d := rfl

section
variable {s : State} {i : Instr} {va l n core off : Nat}

/-- A granule of the range lies in a scratchpad that the thread may name. -/
theorem Issuer.tstrGranule_ok {e : Target} (ht : s.translate ((s.partOfUnit s.curUnit).getD 0) s.curUnit (va + 16 * n) .write = .ok e)
    (hs : s.scratchOf e = some (core, off)) (hm : s.mayName s.curUnit s.me.owner core = true) :
    (s.issuerOf i).tstrGranule s va l n = .ok (core, off) := by
  have hx : (s.issuerOf i).xlate s (va + 16 * n) .write = .ok e := Issuer.xlate_ok ht
  have hno : ((s.ownerGang s.me.owner).isSome && !s.mayName s.curUnit s.me.owner core) = false := by rw [hm, Bool.not_true, Bool.and_false]
  simp only [Issuer.tstrGranule, hx, hs, State.th_issuerOf]
  exact if_neg (by rw [Bool.not_eq_true]; exact hno)

theorem tstrBegins_ok {d : BitVec 4} {o m : Nat} (h : isMx d = true → o % tstrWidth d = 0)
    (h6 : d = fmtMXI6 → o / tstrWidth d % 2 = 0 ∧ m % 2 = 0) : tstrBegins d o m = true := by
  rw [tstrBegins]
  by_cases hd : isMx d = true
  · rw [hd, h hd]
    by_cases h6' : d = fmtMXI6
    · rw [(h6 h6').1, (h6 h6').2]
      simp
    · simp [h6']
  · simp [hd]

/-- The places of all granules. -/
theorem Issuer.tstrPlaces_ok {d : BitVec 4} {m : Nat} {place : Nat → Nat} (hva : va % 16 = 0) (hb : tstrBegins d (off % 2 ^ 17) n = true)
    (hm : (n * tstrWidth d + 15) / 16 = m)
    (hg : ∀ j < m, (s.issuerOf i).tstrGranule s va (tstrLane d j) j = .ok (core, place j)) :
    (s.issuerOf i).tstrPlaces s va n d off = .ok ((List.range m).map (fun j => (core, place j))) := by
  subst hm
  have hfirst : (if va % 16 = 0 && tstrBegins d (off % 2 ^ 17) n then .ok (0, 0) else .error (.xlate 0x47 va 0) : Except Stop (Nat × Nat)) = .ok (0, 0) :=
    if_pos (by rw [Bool.and_eq_true]; exact ⟨decide_eq_true hva, hb⟩)
  have hrest := collect_map_ok (f := fun j => (s.issuerOf i).tstrGranule s va (tstrLane d j) j) (g := fun j => (core, place j))
    (l := List.range ((n * tstrWidth d + 15) / 16)) (fun j hj => hg j (List.mem_range.mp hj))
  rw [Issuer.tstrPlaces]
  simp only [hfirst, collect, hrest, List.tail_cons]

end

/-- TSTR with full registers whose granules lie in one bank without the format NM. -/
theorem slotTstr_ok {s : State} {i : Instr} {o : VTstr} {xs : List XPay} {core off : Nat} {ps : List (Nat × Nat)}
    (hready : vready s.me [o.srcA] ((List.range (2 ^ o.count.toNat)).map (fun i => o.dst.toNat + i)) = .ok ())
    (hfirst : (s.issuerOf i).tstrGranule s (s.me.getX o.srcA).toNat 0 0 = .ok (core, off))
    (hplaces : (s.issuerOf i).tstrPlaces s (s.me.getX o.srcA).toNat (2 ^ o.count.toNat)
      (s.tstrFormat (laneFmt (XFields.of xs).fmtA) core off) off = .ok ps)
    (hgang : (s.ownerGang s.me.owner).isNone = false) (hnm : s.tstrFormat (laneFmt (XFields.of xs).fmtA) core off ≠ fmtNM)
    (hsame : ps.any (fun p => p.1 != core || p.2 / 2 ^ 17 != off / 2 ^ 17) = false) :
    slotTstr o xs (s.issuerOf i) s = .ok (fun s' => (s'.agentFlags s.curUnit s.turnThread
        (((List.range (2 ^ o.count.toNat)).map (fun i => tstrRegister (laneFmt (XFields.of xs).fmtA)
          (s.tstrFormat (laneFmt (XFields.of xs).fmtA) core off) (XFields.of xs).rnd.toNat (s.me.getM o.mask)
          (s.me.getV (o.dst.toNat + i)))).foldl (fun f r => f ||| r.2.2) 0)).submit
      ((s.issuerOf i).request s 7 (s.me.getX o.srcA).toNat (2 ^ o.count.toNat * tstrWidth (s.tstrFormat (laneFmt (XFields.of xs).fmtA) core off))
        ⟨s.home + scratchPa core (off / 2 ^ 17 * 2 ^ 17), 0, 0⟩
        (tstrOp (s.tstrFormat (laneFmt (XFields.of xs).fmtA) core off)
          ((List.range (2 ^ o.count.toNat)).map (fun i => tstrRegister (laneFmt (XFields.of xs).fmtA)
            (s.tstrFormat (laneFmt (XFields.of xs).fmtA) core off) (XFields.of xs).rnd.toNat (s.me.getM o.mask)
            (s.me.getV (o.dst.toNat + i)))) ps))) := by
  simp only [slotTstr, State.th_issuerOf, hready, hfirst, hplaces, hgang, hnm, hsame, Bool.false_eq_true, decide_false, Bool.or_self, if_false]
  rfl

/-- The bytes and sides of a TSTR's access. -/
theorem tstrOp_parts (d : BitVec 4) (rs : List (List Byte × Option Byte × BitVec 8)) (ps : List (Nat × Nat)) :
    ∃ parts sides, tstrOp d rs ps = .tstr parts sides ∧ parts.length = ps.length ∧
      (∀ j < ps.length, ∃ p b, ps[j]? = some p ∧ parts[j]? = some (p.2 % 2 ^ 17, b) ∧ b = ((rs.flatMap (fun r => r.1)).drop (16 * j)).take 16) ∧
      ((∀ r ∈ rs, r.2.1 = none) → sides = []) := by
  refine ⟨_, _, rfl, List.length_mapIdx, fun j hj => ⟨ps[j], _, List.getElem?_eq_getElem hj, ?_, rfl⟩, fun h => ?_⟩
  · rw [List.getElem?_mapIdx, List.getElem?_eq_getElem hj]
    rfl
  · rw [List.filterMap_eq_nil_iff]
    intro a ha
    obtain ⟨k, hk, rfl⟩ := List.mem_mapIdx.mp ha
    rw [h _ (List.getElem_mem hk)]
    rfl

/-! ### HGLD and HGSC (R366, R369) -/

theorem State.seqs_dropHg (s : State) (i : Nat) : (s.dropHg i).seqs = s.seqs := rfl

theorem State.hgRead_traps {s : State} {h : HgOp} {index va n u t : Nat} (ht : (s.thread u t).traps = []) :
    ((s.hgRead h index va n).thread u t).traps = [] := by
  have hfault : ∀ cause w, ((s.hgFault h cause va w).thread u t).traps = [] := by
    intro cause w
    refine State.fail_traps ?_
    show (State.thread (s.walkedFor h.by_.unit h.part cause va) u t).traps = []
    rw [State.walkedFor]
    split
    · rw [State.thread_walked, ht]
    · exact ht
  unfold State.hgRead
  split
  · exact hfault _ _
  · dsimp only
    split
    · exact hfault _ _
    · rw [State.thread_of_seqs (State.seqs_sendReady _)]
      show (State.thread (s.walked h.by_.unit h.part va) u t).traps = []
      rw [State.thread_walked, ht]

theorem Thread.foldl_emptyV_traps (rs : List Nat) (th : Thread) : (rs.foldl (fun th r => th.emptyV r) th).traps = th.traps :=
  foldl_keeps (g := Thread.traps) (f := fun th r => Thread.emptyV th r) (fun _ _ => rfl) rs th

theorem mem_upToEight {a r : Nat} : r ∈ upToEight a ↔ ∃ k < 8, a + k < 32 ∧ r = a + k := by
  simp only [upToEight, List.mem_filterMap, List.mem_range, Option.ite_none_right_eq_some, Option.some.injEq]
  exact ⟨fun ⟨k, hk, hlt, h⟩ => ⟨k, hk, hlt, h.symm⟩, fun ⟨k, hk, hlt, h⟩ => ⟨k, hk, hlt, h.symm⟩⟩

/-- The operation that HGLD or HGSC begins. -/
def State.hgBegun (s : State) (o : VTri) (scatter : Bool) : HgOp where
  id := s.nextId
  by_ := ⟨s.curUnit, s.turnThread, s.me.owner, s.me.pc, 7, 0⟩
  part := (s.partOfUnit s.curUnit).getD 0
  scatter := scatter
  va := o.srcA.toNat
  dst := o.dst.toNat
  hdrVa := (s.me.getX o.srcB).toNat / 64 * 64
  level := (s.me.getX o.srcB).toNat % 32
  bit5 := (s.me.getX o.srcB).toNat / 32 % 2 == 1
  mask := s.me.getM o.mask
  coords := (upToEight o.srcA.toNat).map s.me.getV
  grads := if scatter = true then (upToEight o.dst.toNat).map s.me.getV else []
  phase := 0
  after := s.acquiresOut s.curUnit s.turnThread
  header := []
  desc := []
  reads := []
  outstanding := 0

/-- The state in which it begins: HGLD has emptied its destinations. -/
def State.hgStart (s : State) (i : Instr) (o : VTri) (scatter : Bool) : State :=
  if scatter = true then s.moved i
  else s.movedWith i (fun th => (upToEight o.dst.toNat).foldl (fun th r => th.emptyV r) th)

theorem Issuer.hgCommit_eq (s : State) (i : Instr) (o : VTri) (scatter : Bool) : (s.issuerOf i).hgCommit s o scatter (s.moved i) =
    { s.hgStart i o scatter with hgOps := s.hgOps ++ [s.hgBegun o scatter], nextId := s.nextId + 1 }.hgRead (s.hgBegun o scatter) 0
      (s.hgBegun o scatter).hdrVa 64 := by
  cases scatter <;> rfl

theorem State.hgStart_traps {s : State} {i : Instr} (o : VTri) (scatter : Bool) (h : s.accepts i = true) :
    ((s.hgStart i o scatter).thread s.curUnit s.turnThread).traps = [] := by
  rw [State.hgStart]
  split
  · exact State.moved_traps h
  · rw [State.movedWith, State.thread_updThread]
    split
    · rw [Thread.foldl_emptyV_traps, State.moved_traps h]
    · exact State.moved_traps h

/-- HGLD and HGSC commit: the operation joins, with its header's read. -/
theorem State.exec_hg {s : State} {i : Instr} {o : VTri} {scatter : Bool} (hi : i.isStep = false) (h : s.accepts i = true)
    (hslot : slotOf i (s.issuerOf i) s = .ok ((s.issuerOf i).hgCommit s o scatter)) :
    exec i s = .next ({ s.hgStart i o scatter with hgOps := s.hgOps ++ [s.hgBegun o scatter], nextId := s.nextId + 1 }.hgRead
      (s.hgBegun o scatter) 0 (s.hgBegun o scatter).hdrVa 64) := by
  rw [State.exec_plain hi h hslot, Issuer.hgCommit_eq]
  rw [Issuer.hgCommit_eq]
  exact State.hgRead_traps (State.hgStart_traps o scatter h)

theorem vready_hg {th : Thread} {o : VTri} (hb : th.fullX o.srcB = true)
    (hc : ∀ k < 8, o.srcA.toNat + k < 32 → th.fullV (o.srcA.toNat + k) = true)
    (hd : ∀ k < 8, o.dst.toNat + k < 32 → th.fullV (o.dst.toNat + k) = true) :
    vready th [o.srcB] (upToEight o.srcA.toNat ++ upToEight o.dst.toNat) = .ok () := by
  refine vready_full (by simp [hb]) (fun r hr => ?_)
  rcases List.mem_append.mp hr with hr | hr
  · obtain ⟨k, hk, hlt, rfl⟩ := mem_upToEight.mp hr
    exact hc k hk hlt
  · obtain ⟨k, hk, hlt, rfl⟩ := mem_upToEight.mp hr
    exact hd k hk hlt

/-- HGLD and HGSC with full registers. -/
theorem exec_hgld_or_hgsc {s : State} {o : VTri} {e : Instr × Bool} (hb : s.me.fullX o.srcB = true)
    (hc : ∀ k < 8, o.srcA.toNat + k < 32 → s.me.fullV (o.srcA.toNat + k) = true)
    (hd : ∀ k < 8, o.dst.toNat + k < 32 → s.me.fullV (o.dst.toNat + k) = true)
    (hslot : slotOf e.1 = if e.2 = true then slotHgsc o else slotHgld o) (hi : e.1.isStep = false) (h : s.accepts e.1 = true) :
    exec e.1 s = .next ({ s.hgStart e.1 o e.2 with hgOps := s.hgOps ++ [s.hgBegun o e.2], nextId := s.nextId + 1 }.hgRead
      (s.hgBegun o e.2) 0 (s.hgBegun o e.2).hdrVa 64) := by
  refine State.exec_hg hi h ?_
  have hready := vready_hg hb hc hd
  rw [hslot]
  cases hsc : e.2
  · rw [if_neg Bool.false_ne_true]
    simp only [slotHgld, State.th_issuerOf, hready]
  · rw [if_pos rfl]
    simp only [slotHgsc, State.th_issuerOf, hready]

/-- Settles O43. -/
theorem tileStoresAndHashedGridsBegin : Obligations.TileStoresAndHashedGridsBegin := by
  refine ⟨?_, tstrOp_parts, ?_⟩
  · intro s o xs g core off place x fmt n va p bank own d w m rs c ha hv h hgang ht hva hs hmay hnm hmx h6 h0 hplace
    have hready : vready s.me [o.srcA] ((List.range n).map (fun i => o.dst.toNat + i)) = .ok () := by
      refine vready_full (by simp [ha]) (fun r hr => ?_)
      obtain ⟨k, hk, rfl⟩ := List.mem_map.mp hr
      exact hv k (List.mem_range.mp hk)
    have hfirst : c.tstrGranule s va 0 0 = .ok (core, off) := Issuer.tstrGranule_ok ht hs hmay
    have hplaces : c.tstrPlaces s va n d off = .ok ((List.range m).map (fun j => (core, place j))) := by
      refine Issuer.tstrPlaces_ok hva (tstrBegins_ok hmx h6) rfl (fun j hj => ?_)
      obtain ⟨⟨e, he, hse⟩, -⟩ := hplace j hj
      exact Issuer.tstrGranule_ok he hse hmay
    have hsame : ((List.range m).map (fun j => (core, place j))).any (fun q => q.1 != core || q.2 / 2 ^ 17 != off / 2 ^ 17) = false := by
      rw [List.any_eq_false]
      intro q hq
      obtain ⟨j, hj, rfl⟩ := List.mem_map.mp hq
      have hb : place j / 2 ^ 17 = off / 2 ^ 17 := (hplace j (List.mem_range.mp hj)).2
      simp only [hb, bne_self_eq_false, Bool.or_self, Bool.false_eq_true, not_false_eq_true]
    have hgang' : (s.ownerGang s.me.owner).isNone = false := by
      rw [← Option.not_isSome, hgang]
      rfl
    have hslot := slotTstr_ok (i := .tstr o xs) hready hfirst hplaces hgang' hnm hsame
    have hexec := State.exec_commits (i := .tstr o xs) rfl h hslot
    exact hexec
  · intro s o hb hc hd
    exact List.forall_mem_cons.mpr ⟨exec_hgld_or_hgsc hb hc hd rfl rfl, List.forall_mem_cons.mpr ⟨exec_hgld_or_hgsc hb hc hd rfl rfl,
      List.forall_mem_nil _⟩⟩

end Sys2Proof.Machine
end

section
/-! PROOFS. Requests of the device: what a walk leaves alone, a request on its way to a home of this module, and reads of one piece (R131,
R152, R159, R191). -/

namespace Sys2Proof.Machine

/-! ### What a translation reads (R127 to R131) -/

/-- The state without what no translation reads. -/
def State.view (s : State) : State :=
  { s with islands := [], portsDown := [], launchQ := [], copyQ := [], taskQ := [], launches := [], gangs := [], saved := [], tasks := [],
           copies := [], reqs := [], inbox := [], hgOps := [], appends := [], faults := [], entries := [], commands := [], copybooks := [],
           recordings := [], host := [], engines := [], flitTx := [], flitRx := [], extends3 := [], extends4 := [], booted := [],
           power := 0, cmdWidx := 0, cmdRidx := 0, now := 0, nextId := 0, nextKey := 0, freeCount := 0, agenda := [], devTurn := false,
           devCount := 0, curUnit := 0, corrected := 0, output := [] }

theorem State.ownHbm_view (s : State) : s.view.ownHbm = s.ownHbm := rfl
theorem State.entryLost_view (s : State) : s.view.entryLost = s.entryLost := rfl
theorem State.poisonedAt_view (s : State) : s.view.poisonedAt = s.poisonedAt := rfl
theorem State.pte_view (s : State) : s.view.pte = s.pte := rfl
theorem State.home_view (s : State) : s.view.home = s.home := rfl
theorem State.cached_view (s : State) : s.view.cached = s.cached := rfl
theorem State.part_view (s : State) : s.view.part = s.part := rfl
theorem State.owns_view (s : State) : s.view.owns = s.owns := rfl
theorem State.noCore_view (s : State) : s.view.noCore = s.noCore := rfl
theorem State.reachable_view (s : State) : s.view.reachable = s.reachable := rfl
theorem State.modreg_view (s : State) : s.view.modreg = s.modreg := rfl

theorem State.walkFrom_view (s : State) (p va : Nat) (k : Access) (level : Nat) :
    s.view.walkFrom p va k level = s.walkFrom p va k level := by
  induction level with
  | zero =>
    funext table
    rw [State.walkFrom.eq_1 s.view, State.walkFrom.eq_1 s, State.ownHbm_view, State.entryLost_view, State.poisonedAt_view, State.pte_view,
      State.home_view]
  | succ l ih =>
    funext table
    rw [State.walkFrom.eq_1 s.view, State.walkFrom.eq_1 s, State.ownHbm_view, State.entryLost_view, State.poisonedAt_view, State.pte_view,
      State.home_view]
    simp only [ih]

theorem State.translate_view (s : State) : s.view.translate = s.translate := by
  funext p u va k
  rw [State.translate, State.translate, State.pageOf, State.pageOf, State.walkFrom_view, State.cached_view, State.part_view, State.owns_view,
    State.noCore_view, State.reachable_view, State.modreg_view]

theorem State.translate_of_view {s t : State} (h : t.view = s.view) : t.translate = s.translate := by
  rw [← State.translate_view t, h, State.translate_view]

/-! ### What a walk leaves alone (R131) -/

/-- The state without what a walk of the page tables may change: translation buffers, lines and slices. -/
def State.apart (s : State) : State :=
  { s with seqs := [], dieTlb := [], lines := [], slices := [], latent := [], unfixable := [], corrected := 0 }

theorem State.apart_writtenBack (s : State) (l : Nat) : (s.writtenBack l).apart = s.apart := by
  unfold State.writtenBack; split <;> rfl
theorem State.apart_filled (s : State) (l : Nat) : (s.filled l).apart = s.apart := by
  simp only [State.filled]; split <;> split <;> rfl
theorem State.apart_touch (s : State) (k : Key) (cls : Nat) (always write : Bool) (pa : Nat) :
    (s.touch k cls always write pa).2.apart = s.apart :=
  State.touch_keeps State.apart (fun _ _ _ => rfl) State.apart_writtenBack State.apart_filled s k cls always write pa
theorem State.apart_holdPage (s : State) (u : Nat) (e : TlbEntry) : (s.holdPage u e).apart = s.apart := by
  unfold State.holdPage; dsimp only; split
  · rfl
  · split <;> rfl
theorem State.apart_walkInto (s : State) (u p va : Nat) : (s.walkInto u p va).apart = s.apart := by
  have hfold : ∀ l : List Nat, (l.foldl (fun s pa => (State.touch s (s.keyFor p 0 0) 0 true false pa).2) s).apart = s.apart :=
    fun l => foldl_keeps (fun _ _ => State.apart_touch _ _ _ _ _ _) l s
  unfold State.walkInto; dsimp only; split
  · exact hfold _
  · rw [State.apart_holdPage]; exact hfold _
theorem State.apart_walked (s : State) (u p va : Nat) : (s.walked u p va).apart = s.apart := by
  unfold State.walked; split
  · rfl
  · exact State.apart_walkInto _ _ _ _

section
variable (s : State) (u p va : Nat)

@[simp] theorem State.reqs_walked : (s.walked u p va).reqs = s.reqs := (congrArg State.reqs (s.apart_walked u p va) :)
@[simp] theorem State.nextId_walked : (s.walked u p va).nextId = s.nextId := (congrArg State.nextId (s.apart_walked u p va) :)
@[simp] theorem State.modreg_walked : (s.walked u p va).modreg = s.modreg := (congrArg State.modreg (s.apart_walked u p va) :)
@[simp] theorem State.cores_walked : (s.walked u p va).cores = s.cores := (congrArg State.cores (s.apart_walked u p va) :)
@[simp] theorem State.mem_walked : (s.walked u p va).mem = s.mem := (congrArg State.mem (s.apart_walked u p va) :)
@[simp] theorem State.output_walked : (s.walked u p va).output = s.output := (congrArg State.output (s.apart_walked u p va) :)
@[simp] theorem State.host_walked : (s.walked u p va).host = s.host := (congrArg State.host (s.apart_walked u p va) :)

end

/-! ### Requests whose home lies in this module -/

/-- A request that stays here until its home serves it: its home lies in this module, and it is not the write-back of a clean slot. -/
def State.staysHere (s : State) (r : Req) : Prop := s.cleanSlot r = none ∧ moduleOf r.pa = s.modreg.toNat % 1024

theorem State.sendOne_here {s : State} {r : Req} (h : s.staysHere r) : s.sendOne r = s := by
  obtain ⟨hc, hm⟩ := h
  rw [State.sendOne_eq, hc, hm]
  simp

theorem State.sendReady_here {s : State} (h : ∀ r ∈ s.reqs, s.staysHere r) : s.sendReady = s := by
  have hall : ∀ l : List Req, (∀ r ∈ l, s.staysHere r) → l.foldl (fun s r => State.sendOne s r) s = s := by
    intro l
    induction l with
    | nil => exact fun _ => rfl
    | cons r l ih =>
      intro hl
      rw [List.foldl_cons, State.sendOne_here (hl r List.mem_cons_self)]
      exact ih (fun x hx => hl x (List.mem_cons_of_mem r hx))
  exact hall s.reqs h

theorem State.cleanSlot_none {s : State} {r : Req} (h : ∀ slot, r.op ≠ .evict slot) : s.cleanSlot r = none := by
  unfold State.cleanSlot
  split
  · next slot heq => exact absurd heq (h slot)
  · rfl

/-- The first request, with its home in this module: the page is walked, and the request waits. -/
theorem State.submit_first {s : State} {r : Req} (hr : s.reqs = []) (hloc : moduleOf r.pa = s.modreg.toNat % 1024)
    (hop : ∀ slot, r.op ≠ .evict slot) (hrel : r.release = false) :
    s.submit r = { s.walked (tlbUnit r.by_) r.part r.va with reqs := [{ r with id := s.nextId }], nextId := s.nextId + 1 } := by
  have hpush : (s.walked (tlbUnit r.by_) r.part r.va).pushReq r =
      { s.walked (tlbUnit r.by_) r.part r.va with reqs := [{ r with id := s.nextId }], nextId := s.nextId + 1 } := by
    have hnil : (s.walked (tlbUnit r.by_) r.part r.va).reqs = [] := by rw [State.reqs_walked, hr]
    simp only [State.pushReq, hrel, Bool.false_eq_true, if_false, State.accessesOut, State.acquiresOut, State.reqsOf, hnil, List.filter_nil, List.map_nil,
      List.append_nil, List.nil_append, State.nextId_walked]
  rw [State.submit, hpush]
  refine State.sendReady_here (fun q hq => ?_)
  rw [List.mem_singleton.mp hq]
  exact ⟨State.cleanSlot_none hop, hloc.trans (congrArg (fun w : Word => w.toNat % 1024) (State.modreg_walked s _ _ _)).symm⟩

/-! ### Queues up to the packets' origins -/

/-- A queue without the origins of the packets in its ring, which a store on its way may note. -/
def Queue.bare (q : Queue) : Queue := { q with origins := [] }

theorem State.bare_walked (s : State) (u p va : Nat) (k : QueueKind) (n : Nat) : ((s.walked u p va).queue k n).bare = (s.queue k n).bare :=
  (congrArg (fun t : State => (t.queue k n).bare) (s.apart_walked u p va) :)

theorem State.bare_notePosts (s : State) (r : Req) (ps : List (Nat × Nat)) (k : QueueKind) (n : Nat) :
    ((s.notePosts r ps).queue k n).bare = (s.queue k n).bare := by
  have hreset : ∀ f : Nat × Queue → Queue, (∀ e, (f e).bare = e.2.bare) → ∀ m : SMap Queue,
      (lookup Queue.reset n (m.map (fun e => (e.1, f e)))).bare = (lookup Queue.reset n m).bare := by
    intro f hf m
    induction m with
    | nil => rfl
    | cons e m ih =>
      simp only [List.map_cons, lookup]
      split
      · exact hf e
      · exact ih
  unfold State.notePosts
  dsimp only
  split
  · rfl
  · cases k
    · rfl
    · refine hreset _ (fun e => ?_) s.copyQ
      split <;> rfl
    · refine hreset _ (fun e => ?_) s.taskQ
      split <;> rfl

theorem State.bare_evicted (s : State) (core slot id : Nat) (k : QueueKind) (n : Nat) :
    ((s.evicted core slot id).queue k n).bare = (s.queue k n).bare := by
  unfold State.evicted; dsimp only
  exact foldl_keeps (g := fun t : State => (t.queue k n).bare) (f := fun s (r : Req) => State.updCore s core (fun k => k.startFill slot (r.va / 128)))
    (fun _ _ => rfl) _ _

theorem State.bare_sendFlit (s : State) (p : Nat) (f : Flit) (k : QueueKind) (n : Nat) :
    ((s.sendFlit p f).queue k n).bare = (s.queue k n).bare := by
  unfold State.sendFlit
  split <;> rfl

theorem State.bare_submit (s : State) (r : Req) (k : QueueKind) (n : Nat) : ((s.submit r).queue k n).bare = (s.queue k n).bare := by
  have hone : ∀ (s : State) (r : Req), ((s.sendOne r).queue k n).bare = (s.queue k n).bare := fun s r =>
    State.sendOne_keeps (fun t : State => (t.queue k n).bare) (fun _ _ _ _ => State.bare_evicted _ _ _ _ _ _) (fun _ _ => rfl)
      (fun _ _ _ => rfl) (fun _ _ _ => State.bare_sendFlit _ _ _ _ _) (fun _ _ _ => State.bare_notePosts _ _ _ _ _) s r
  have hready := foldl_keeps (g := fun t : State => (t.queue k n).bare) hone ((s.walked (tlbUnit r.by_) r.part r.va).pushReq r).reqs
    ((s.walked (tlbUnit r.by_) r.part r.va).pushReq r)
  exact hready.trans (s.bare_walked _ _ _ k n)

theorem State.bare_postPieces (i : Issue) (p : Nat) (a : Access) (rel : Bool) (k : QueueKind) (n : Nat) (ps : List (Nat × Nat)) (s : State)
    (bs : List Byte) : ((s.postPieces i p a rel ps bs).queue k n).bare = (s.queue k n).bare := by
  induction ps generalizing s bs with
  | nil => rfl
  | cons x ps ih =>
    rw [State.postPieces]
    split
    · rw [ih, State.bare_submit]
    · rw [ih, State.bare_walked]

/-! ### Reads of one piece -/

theorem tlbUnit_devIssue (p n : Nat) : tlbUnit (devIssue p n) = 258 + p := by
  have hu : (devIssue p n).unit = 258 + p := rfl
  refine if_neg (fun h => ?_)
  simp only [Bool.and_eq_true, decide_eq_true_eq, hu] at h
  omega

/-- A range inside one line is one piece. -/
theorem pieces_one {va n : Nat} (hn : 0 < n) (h : va % 128 + n ≤ 128) : pieces va n = [(va, n)] := by
  have hmin : min n (128 - va % 128) = n := by omega
  have hfuel : ∃ f, n / 128 + 2 = f + 1 + 1 := ⟨n / 128, rfl⟩
  obtain ⟨f, hf⟩ := hfuel
  rw [pieces, hf, linePieces, if_neg (by omega)]
  simp only [hmin, Nat.sub_self]
  rw [linePieces, if_pos rfl]

/-- A read of one piece is the read of that piece. -/
theorem State.readVa_one {s : State} {i : Issue} {p va n : Nat} (hn : 0 < n) (h : va % 128 + n ≤ 128) :
    s.readVa i p va n = match s.readPiece i p va n with
      | .ok s' bs b => .ok s' bs b
      | .fault c a w => .fault c a w
      | .wait s' => .wait s' := by
  rw [State.readVa, pieces_one hn h, State.readPieces]
  cases s.readPiece i p va n <;> simp [State.readPieces]

/-- A scratchpad of this module is read at once, but by a copy engine. -/
theorem State.readVa_near {s : State} {i : Issue} {p va n core off : Nat} {g : Target} (hn : 0 < n) (h : va % 128 + n ≤ 128)
    (ht : s.translate p (tlbUnit i) va .read = .ok g) (hl : s.isLocal g = true) (hg : locate (localOf g.pa) = .scratch core off)
    (hi : i.unit < 224 ∨ 240 ≤ i.unit) : ∃ b, s.readVa i p va n = .ok s (memRead s.mem (localOf g.pa) n) b := by
  have hnear : s.readsNear i g = true := by
    simp only [State.readsNear, State.isNear, hl, hg, Bool.and_true, Bool.true_and, Bool.not_eq_true', Bool.and_eq_false_iff, decide_eq_false_iff_not]
    omega
  have hread : (s.readNear g n).1 = memRead s.mem (localOf g.pa) n := by simp only [State.readNear, hg]
  refine ⟨(s.readNear g n).2, ?_⟩
  rw [State.readVa_one hn h, State.readPiece, ht]
  simp only [hnear, if_true, hread]

/-- A line of HBM is asked for where no answer has come. -/
theorem State.readVa_far {s : State} {i : Issue} {p va n bl off : Nat} {g : Target} (hn : 0 < n) (h : va % 128 + n ≤ 128)
    (ht : s.translate p (tlbUnit i) va .read = .ok g) (hg : locate (localOf g.pa) = .hbm bl off) (ha : s.answeredRead i g n = none) :
    s.readVa i p va n = .wait (s.askLine i p va g n) := by
  have hnear : s.readsNear i g = false := by simp only [State.readsNear, State.isNear, hg, Bool.and_false, Bool.false_and]
  rw [State.readVa_one hn h, State.readPiece, ht]
  simp only [hnear, Bool.false_eq_true, if_false, ha]

end Sys2Proof.Machine
end

section
/-! PROOFS. The registers that the host writes: queue descriptors, route entries and the device control space (R67, R70, R162, R182, R384,
R391). -/

namespace Sys2Proof.Machine

/-! ### Queues by their kind -/

/-- A queue of a kind put at a number. -/
def State.putQueue (s : State) (k : QueueKind) (n : Nat) (q : Queue) : State :=
  match k with
  | .launch => { s with launchQ := insertAt n q s.launchQ }
  | .copy => { s with copyQ := insertAt n q s.copyQ }
  | .task => { s with taskQ := insertAt n q s.taskQ }

theorem State.queue_putQueue_self (s : State) (k : QueueKind) (n : Nat) (q : Queue) : (s.putQueue k n q).queue k n = q := by
  cases k <;> exact lookup_insertAt_self _ _ _ _

theorem State.queue_putQueue_ne (s : State) (k : QueueKind) {n m : Nat} (q : Queue) (h : m ≠ n) : (s.putQueue k n q).queue k m = s.queue k m := by
  cases k <;> exact lookup_insertAt_ne _ h _ _

theorem State.updQueue_eq (s : State) (k : QueueKind) (n : Nat) (f : Queue → Queue) : s.updQueue k n f = s.putQueue k n (f (s.queue k n)) := by
  cases k <;> rfl

theorem State.translate_putQueue (s : State) (k : QueueKind) (n : Nat) (q : Queue) : (s.putQueue k n q).translate = s.translate := by
  cases k <;> exact State.translate_of_view rfl

/-- A queue of a kind serves a partition: a launch queue the one that the write names, a copy or task queue that of its block. -/
def State.serves (s : State) (k : QueueKind) (n b p : Nat) : Prop :=
  match k with
  | .launch => n < 64 ∧ b = p ∧ (s.part p).present = true
  | .copy => s.partOfBlock (n / 32) = some b
  | .task => n < 32 ∧ s.partOfBlock (n / 4) = some b

/-- A write of a descriptor without reserved values to a queue without unfinished work. -/
theorem State.queueDescriptorWrite_eq {s : State} {k : QueueKind} {n b : Nat} {p : Nat} {v : BitVec 128} (hbad : badDescriptor k v.toNat = false)
    (hh : s.queueHolds k n = false)
    (hb : s.serves k n b p) :
    s.queueDescriptorWrite k n p v = (s.putQueue k n (enabledQueue (s.queue k n) b v.toNat)).queueWritten k n := by
  have hgo : (badDescriptor k v.toNat || s.queueHolds k n) = false := by rw [hbad, hh, Bool.or_false]
  refine (if_neg (by rw [hgo]; exact Bool.false_ne_true)).trans ?_
  cases k with
  | launch =>
    obtain ⟨hn, rfl, hp⟩ := hb
    refine if_neg ?_
    rw [hp, Bool.not_true, Bool.or_false, decide_eq_true_eq]
    omega
  | copy =>
    have hb : s.partOfBlock (n / 32) = some b := hb
    simp only [hb]
    rfl
  | task =>
    obtain ⟨hn, hb⟩ := hb
    refine (if_neg (Nat.not_le.mpr hn)).trans ?_
    simp only [hb]
    rfl

/-! ### Fields of a descriptor (R67) -/

theorem ofNat_bitsOf {n w : Nat} (v : BitVec n) (hi lo : Nat) (h : hi + 1 = lo + w) : BitVec.ofNat w (bitsOf v.toNat hi lo) = v.extractLsb' lo w := by
  refine BitVec.eq_of_toNat_eq ?_
  rw [BitVec.extractLsb'_toNat, BitVec.toNat_ofNat, bitsOf, Nat.shiftRight_eq_div_pow, show hi + 1 - lo = w by omega, Nat.mod_mod]

theorem bitsOf_toNat {n w : Nat} (v : BitVec n) (hi lo : Nat) (h : hi + 1 = lo + w) : bitsOf v.toNat hi lo = (v.extractLsb' lo w).toNat := by
  rw [BitVec.extractLsb'_toNat, bitsOf, Nat.shiftRight_eq_div_pow, show hi + 1 - lo = w by omega]

theorem bitsOf_one {n : Nat} (v : BitVec n) (i : Nat) : (bitsOf v.toNat i i == 1) = v.getLsbD i := by
  rw [bitsOf, show i + 1 - i = 1 by omega, BitVec.getLsbD, Nat.testBit_eq_decide_div_mod_eq]
  rfl

section
variable (q : Queue) (b : Nat) (v : BitVec 128)

theorem enabledQueue_ring : (enabledQueue q b v.toNat).ring = v.extractLsb' 72 56 := ofNat_bitsOf v 127 72 rfl
theorem enabledQueue_widx : (enabledQueue q b v.toNat).widx = v.extractLsb' 8 56 := ofNat_bitsOf v 63 8 rfl
theorem enabledQueue_en : (enabledQueue q b v.toNat).en = v.getLsbD 7 := bitsOf_one v 7
theorem enabledQueue_weight : (enabledQueue q b v.toNat).weight = v.extractLsb' 3 4 := ofNat_bitsOf v 6 3 rfl
theorem enabledQueue_prio : (enabledQueue q b v.toNat).prio = v.extractLsb' 0 3 := ofNat_bitsOf v 2 0 rfl
theorem enabledQueue_rising : (enabledQueue q b v.toNat).rising = (v.getLsbD 7 && (q.rising || !q.en)) :=
  congrArg (· && (q.rising || !q.en)) (bitsOf_one v 7)

end

/-- The word at WIDX of a descriptor without reserved values lies in one line. -/
theorem widx_in_line {k : QueueKind} {v : BitVec 128} (h : badDescriptor k v.toNat = false) : (v.extractLsb' 8 56).toNat % 128 + 4 ≤ 128 := by
  have h4 : bitsOf v.toNat 63 8 % 4 = 0 := by
    have hlast : decide (bitsOf v.toNat 63 8 % 4 ≠ 0) = false := (Bool.or_eq_false_iff.mp h).2
    simpa using hlast
  rw [bitsOf_toNat v 63 8 (w := 56) rfl] at h4
  omega

/-! ### The word at WIDX (R70) -/

/-- What a read by the device leaves of a value of the state, whether it has its bytes or waits for them. -/
def DevRead.keeps {β : Type} (g : State → β) (b : β) : DevRead → Prop
  | .ok s _ _ => g s = b
  | .wait s => g s = b
  | .fault _ _ _ => True

theorem State.readPiece_keeps {β : Type} {g : State → β} (hask : ∀ s i p va t n, g (State.askLine s i p va t n) = g s) (s : State) (i : Issue)
    (p va n : Nat) : (s.readPiece i p va n).keeps g (g s) := by
  unfold State.readPiece
  split
  · trivial
  · split
    · rfl
    · split
      · split
        · trivial
        · rfl
      · exact hask _ _ _ _ _ _

theorem State.bare_askLine (s : State) (i : Issue) (p va : Nat) (t : Target) (n : Nat) (k : QueueKind) (m : Nat) :
    ((s.askLine i p va t n).queue k m).bare = (s.queue k m).bare := by
  unfold State.askLine
  split
  · rfl
  · exact State.bare_submit _ _ _ _

/-- Only a queue whose EN has just risen reads the word at its WIDX. -/
theorem State.queueWritten_eq (s : State) (k : QueueKind) (n : Nat) :
    s.queueWritten k n = if (s.queue k n).rising = true then s.ringRise k n else s := rfl

/-- The queue once the word at WIDX has been read. -/
def Queue.risen (q : Queue) (w : BitVec 32) : Queue := { q with rising := false, ridx := w, doneid := w, line := none }

theorem State.bare_mirror (s : State) (p widx : Nat) (r : BitVec 32) (k : QueueKind) (n : Nat) :
    ((s.mirror p widx r).queue k n).bare = (s.queue k n).bare := State.bare_postPieces _ _ _ _ _ _ _ _ _

/-- The queue that has read its word, and the others. -/
theorem State.bare_risen (s : State) (i : Issue) (p widx : Nat) (w : BitVec 32) (k : QueueKind) (n m : Nat) :
    ((((s.clearInbox i).updQueue k n (fun x => { x with rising := false, ridx := w, doneid := w, line := none })).mirror p widx w).queue k m).bare =
      if m = n then ((s.queue k n).risen w).bare else (s.queue k m).bare := by
  have hclear : ∀ j, (s.clearInbox i).queue k j = s.queue k j := fun _ => rfl
  rw [State.bare_mirror, State.updQueue_eq, hclear]
  split
  · next h =>
    subst h
    rw [State.queue_putQueue_self]
    rfl
  · next h => rw [State.queue_putQueue_ne _ _ _ h, hclear]

/-- What the read of the word at WIDX does to the queues, up to their packets' origins: nothing, or the queue takes the word. -/
theorem State.bare_ringRise (s : State) (k : QueueKind) (n : Nat) (hline : (s.queue k n).widx.toNat % 128 + 4 ≤ 128) :
    (∀ m, ((s.ringRise k n).queue k m).bare = (s.queue k m).bare) ∨
    ∃ w, ∀ m, ((s.ringRise k n).queue k m).bare = if m = n then ((s.queue k n).risen w).bare else (s.queue k m).bare := by
  have hkeep : ∀ m, ((s.readVa (ringIssue (s.queue k n).part k.num n) (s.queue k n).part (s.queue k n).widx.toNat 4).keeps
      (fun t => (t.queue k m).bare) (s.queue k m).bare) := by
    intro m
    have hpiece := State.readPiece_keeps (g := fun t => (State.queue t k m).bare) (fun _ _ _ _ _ _ => State.bare_askLine _ _ _ _ _ _ _ _) s
      (ringIssue (s.queue k n).part k.num n) (s.queue k n).part (s.queue k n).widx.toNat 4
    rw [State.readVa_one (by omega) hline]
    cases hp : s.readPiece (ringIssue (s.queue k n).part k.num n) (s.queue k n).part (s.queue k n).widx.toNat 4 with
    | ok s1 bs b => rw [hp] at hpiece; exact hpiece
    | wait s1 => rw [hp] at hpiece; exact hpiece
    | fault c a w => trivial
  unfold State.ringRise
  dsimp only
  cases hr : s.readVa (ringIssue (s.queue k n).part k.num n) (s.queue k n).part (s.queue k n).widx.toNat 4 with
  | wait s1 =>
    refine Or.inl (fun m => ?_)
    have := hkeep m
    rw [hr] at this
    exact this
  | fault c a w => exact Or.inl (fun _ => rfl)
  | ok s1 bs b =>
    refine Or.inr ⟨BitVec.ofNat 32 (leNat bs), fun m => ?_⟩
    have hm := hkeep m
    have hn := hkeep n
    rw [hr] at hm hn
    have hn : (s1.queue k n).bare = (s.queue k n).bare := hn
    have hm : (s1.queue k m).bare = (s.queue k m).bare := hm
    dsimp only
    rw [State.bare_risen, hm]
    have hrisen : ((s1.queue k n).risen (BitVec.ofNat 32 (leNat bs))).bare = ((s.queue k n).bare.risen (BitVec.ofNat 32 (leNat bs))).bare := by
      rw [← hn]
      rfl
    rw [hrisen]
    rfl

/-- Where the word lies in a scratchpad here, the queue takes it at once. -/
theorem State.bare_ringRise_near {s : State} {k : QueueKind} {n core off : Nat} {g : Target} (hline : (s.queue k n).widx.toNat % 128 + 4 ≤ 128)
    (ht : s.translate (s.queue k n).part (258 + (s.queue k n).part) (s.queue k n).widx.toNat .read = .ok g) (hl : s.isLocal g = true)
    (hg : locate (localOf g.pa) = .scratch core off) :
    ((s.ringRise k n).queue k n).bare = ((s.queue k n).risen (BitVec.ofNat 32 (leNat (memRead s.mem (localOf g.pa) 4)))).bare := by
  have ht' : s.translate (s.queue k n).part (tlbUnit (ringIssue (s.queue k n).part k.num n)) (s.queue k n).widx.toNat .read = .ok g := by
    rw [ringIssue, tlbUnit_devIssue, ht]
  obtain ⟨b, hr⟩ := State.readVa_near (i := ringIssue (s.queue k n).part k.num n) (n := 4) (by omega) hline ht' hl hg
    (Or.inr (show 240 ≤ 258 + (s.queue k n).part by omega))
  unfold State.ringRise
  dsimp only
  rw [hr]
  dsimp only
  rw [State.bare_risen, if_pos rfl]

/-- Where it lies in HBM here and nothing is out, its line is asked for. -/
theorem State.ringRise_far {s : State} {k : QueueKind} {n bl off : Nat} {g : Target} (hline : (s.queue k n).widx.toNat % 128 + 4 ≤ 128)
    (ht : s.translate (s.queue k n).part (258 + (s.queue k n).part) (s.queue k n).widx.toNat .read = .ok g) (hl : s.isLocal g = true)
    (hg : locate (localOf g.pa) = .hbm bl off) (hr : s.reqs = []) (hi : s.inbox = []) :
    s.ringRise k n = s.submit (lineReq s (ringIssue (s.queue k n).part k.num n) (s.queue k n).part (s.queue k n).widx.toNat 4 g .fetch) ∧
    (s.ringRise k n).reqs = [{ lineReq s (ringIssue (s.queue k n).part k.num n) (s.queue k n).part (s.queue k n).widx.toNat 4 g .fetch with
      id := s.nextId }] := by
  have ht' : s.translate (s.queue k n).part (tlbUnit (ringIssue (s.queue k n).part k.num n)) (s.queue k n).widx.toNat .read = .ok g := by
    rw [ringIssue, tlbUnit_devIssue, ht]
  have hask : s.ringRise k n =
      s.submit (lineReq s (ringIssue (s.queue k n).part k.num n) (s.queue k n).part (s.queue k n).widx.toNat 4 g .fetch) := by
    have hfar := State.readVa_far (i := ringIssue (s.queue k n).part k.num n) (n := 4) (by omega) hline ht' hg (by rw [State.answeredRead, hi]; rfl)
    unfold State.ringRise
    dsimp only
    rw [hfar]
    dsimp only
    rw [State.askLine, hr]
    rfl
  refine ⟨hask, ?_⟩
  rw [hask, State.submit_first (r := lineReq s _ _ _ 4 g .fetch) hr (beq_iff_eq.mp hl) (fun _ => nofun) rfl]

/-- What the proofs below know of a queue after a descriptor write. -/
theorem State.bare_written {s : State} {k : QueueKind} {n : Nat} {q : Queue} (hline : q.widx.toNat % 128 + 4 ≤ 128) :
    (∀ m, m ≠ n → ((((s.putQueue k n q).queueWritten k n).unblock).queue k m).bare = (s.queue k m).bare) ∧
    (((((s.putQueue k n q).queueWritten k n).unblock).queue k n).bare = q.bare ∨
      q.rising = true ∧ ∃ w, ((((s.putQueue k n q).queueWritten k n).unblock).queue k n).bare = (q.risen w).bare) := by
  have hq := s.queue_putQueue_self k n q
  have hother : ∀ m, m ≠ n → (s.putQueue k n q).queue k m = s.queue k m := fun m hm => s.queue_putQueue_ne k q hm
  have hunblock : ∀ t : State, t.unblock.queue k = t.queue k := fun _ => rfl
  rw [State.queueWritten_eq, hq, hunblock]
  split
  · next hr =>
    rcases (s.putQueue k n q).bare_ringRise k n (by rw [hq]; exact hline) with h | ⟨w, h⟩
    · exact ⟨fun m hm => by rw [h m, hother m hm], Or.inl (by rw [h n, hq])⟩
    · refine ⟨fun m hm => by rw [h m, if_neg hm, hother m hm], Or.inr ⟨hr, w, ?_⟩⟩
      rw [h n, if_pos rfl, hq]
  · exact ⟨fun m hm => by rw [hother m hm], Or.inl (by rw [hq])⟩

theorem fields_of_bare {x y : Queue} (h : x.bare = y.bare) : x.ring = y.ring ∧ x.widx = y.widx ∧ x.en = y.en ∧ x.part = y.part ∧
    x.weight = y.weight ∧ x.prio = y.prio := by
  simp only [Queue.bare, Queue.mk.injEq] at h
  obtain ⟨h1, h2, h3, h4, h5, -, h6, -⟩ := h
  exact ⟨h1, h2, h3, h6, h4, h5⟩

theorem rising_of_bare {x y : Queue} (h : x.bare = y.bare) : x.rising = y.rising ∧ x.ridx = y.ridx ∧ x.doneid = y.doneid := by
  simp only [Queue.bare, Queue.mk.injEq] at h
  obtain ⟨-, -, -, -, -, h1, -, h2, -, -, -, h3, -⟩ := h
  exact ⟨h3, h1, h2⟩

/-- A write of a queue descriptor (R67, R70, R162, R182). -/
theorem descriptorWrite (s : State) (kind : QueueKind) (n : Fin 256) (p : Fin 8) (b : Nat) (v : BitVec 128)
    (hbad : badDescriptor kind v.toNat = false) (hh : s.queueHolds kind n = false)
    (hb : s.serves kind n b p) :
    ∃ t, exec (.queueDescriptorWrite kind n p v) s = .next t ∧
      (t.queue kind n).ring = v.extractLsb' 72 56 ∧ (t.queue kind n).widx = v.extractLsb' 8 56 ∧ (t.queue kind n).en = v.getLsbD 7 ∧
      (t.queue kind n).part = b ∧ (t.queue kind n).weight = v.extractLsb' 3 4 ∧ (t.queue kind n).prio = v.extractLsb' 0 3 ∧
      (((s.queue kind n).en = true ∧ (s.queue kind n).rising = false) ∨ v.getLsbD 7 = false →
        (t.queue kind n).rising = false ∧ (t.queue kind n).ridx = (s.queue kind n).ridx ∧ (t.queue kind n).doneid = (s.queue kind n).doneid) ∧
      (∀ g, (s.queue kind n).en = false → v.getLsbD 7 = true → s.translate b (258 + b) (v.extractLsb' 8 56).toNat .read = .ok g → s.isLocal g = true →
        (∀ core off, locate (localOf g.pa) = .scratch core off → (t.queue kind n).rising = false ∧
          (t.queue kind n).ridx = BitVec.ofNat 32 (leNat (memRead s.mem (localOf g.pa) 4)) ∧ (t.queue kind n).doneid = (t.queue kind n).ridx) ∧
        (∀ bl off, locate (localOf g.pa) = .hbm bl off → s.reqs = [] → s.inbox = [] →
          (t.queue kind n).rising = true ∧ (t.queue kind n).ridx = (s.queue kind n).ridx ∧
          ∃ r, t.reqs = [r] ∧ r.by_ = ringIssue b kind.num n ∧ r.pa = g.pa ∧ r.size = 4 ∧ r.op = .fetch)) ∧
      (∀ m, m ≠ n.val → { t.queue kind m with origins := [] } = { s.queue kind m with origins := [] }) := by
  have hexec : exec (.queueDescriptorWrite kind n p v) s =
      .next (((s.putQueue kind n (enabledQueue (s.queue kind n) b v.toNat)).queueWritten kind n).unblock) :=
    congrArg (fun t : State => Host.Outcome.next t.unblock) (State.queueDescriptorWrite_eq hbad hh hb)
  generalize hq : enabledQueue (s.queue kind n) b v.toNat = q at hexec
  have hwidx : q.widx = v.extractLsb' 8 56 := hq ▸ enabledQueue_widx _ _ _
  have hline : q.widx.toNat % 128 + 4 ≤ 128 := by rw [hwidx]; exact widx_in_line hbad
  have hpart : q.part = b := hq ▸ rfl
  have hrising : q.rising = (v.getLsbD 7 && ((s.queue kind n).rising || !(s.queue kind n).en)) := hq ▸ enabledQueue_rising _ _ _
  obtain ⟨hothers, hself⟩ := State.bare_written (s := s) (k := kind) (n := n) hline
  generalize ht : ((s.putQueue kind n q).queueWritten kind n).unblock = t at hexec hothers hself
  have hwritten : t.queue kind n = (((s.putQueue kind n q).queueWritten kind n)).queue kind n := ht ▸ rfl
  obtain ⟨hring, hw, hen, hp, hweight, hprio⟩ : (t.queue kind n).ring = q.ring ∧ (t.queue kind n).widx = q.widx ∧ (t.queue kind n).en = q.en ∧
      (t.queue kind n).part = q.part ∧ (t.queue kind n).weight = q.weight ∧ (t.queue kind n).prio = q.prio := by
    rcases hself with h | ⟨-, w, h⟩
    · exact fields_of_bare h
    · exact fields_of_bare (y := q.risen w) h
  refine ⟨t, hexec, hring.trans (hq ▸ enabledQueue_ring _ _ _), hw.trans hwidx, hen.trans (hq ▸ enabledQueue_en _ _ _), hp.trans hpart,
    hweight.trans (hq ▸ enabledQueue_weight _ _ _), hprio.trans (hq ▸ enabledQueue_prio _ _ _), fun hno => ?_, fun g hoff hon htr hl => ?_, hothers⟩
  · have hstill : q.rising = false := by
      rw [hrising]
      rcases hno with ⟨h1, h2⟩ | h
      · rw [h1, h2, Bool.not_true, Bool.or_self, Bool.and_false]
      · rw [h, Bool.false_and]
    rcases hself with h | ⟨h, -⟩
    · obtain ⟨h1, h2, h3⟩ := rising_of_bare h
      exact ⟨h1.trans hstill, h2.trans (hq ▸ rfl), h3.trans (hq ▸ rfl)⟩
    · rw [hstill] at h
      exact absurd h Bool.false_ne_true
  · have hr : q.rising = true := by rw [hrising, hon, hoff]; simp
    have hqn := s.queue_putQueue_self kind n q
    have htr' : (s.putQueue kind n q).translate q.part (258 + q.part) q.widx.toNat .read = .ok g := by
      rw [State.translate_putQueue, hpart, hwidx, htr]
    have hrise : (s.putQueue kind n q).queueWritten kind n = (s.putQueue kind n q).ringRise kind n := by
      rw [State.queueWritten_eq, hqn, if_pos hr]
    refine ⟨fun core off hg => ?_, fun bl off hg hreqs hinbox => ?_⟩
    · have hnear := State.bare_ringRise_near (s := s.putQueue kind n q) (k := kind) (n := n) (g := g) (by rw [hqn]; exact hline)
        (by rw [hqn]; exact htr') (by cases kind <;> exact hl) hg
      rw [← hrise, hqn, ← hwritten, show (s.putQueue kind n q).mem = s.mem by cases kind <;> rfl] at hnear
      obtain ⟨h1, h2, h3⟩ := rising_of_bare (y := q.risen _) hnear
      exact ⟨h1, h2, h3.trans h2.symm⟩
    · obtain ⟨hfar, hfreqs⟩ := State.ringRise_far (s := s.putQueue kind n q) (k := kind) (n := n) (g := g) (by rw [hqn]; exact hline)
        (by rw [hqn]; exact htr') (by cases kind <;> exact hl) hg (by cases kind <;> exact hreqs) (by cases kind <;> exact hinbox)
      have hb : (t.queue kind n).bare = q.bare := by
        rw [hwritten, hrise, hfar, State.bare_submit, hqn]
      obtain ⟨h1, h2, h3⟩ := rising_of_bare hb
      have hsent : t.reqs = ((s.putQueue kind n q).ringRise kind n).reqs := by
        rw [← ht, hrise]
        rfl
      refine ⟨h1.trans hr, h2.trans (hq ▸ rfl), _, hsent.trans hfreqs, ?_, rfl, rfl, rfl⟩
      rw [hqn, hpart]
      rfl

/-! ### Route entries and registers (R384, R391) -/

/-- A write to the command ring (R384). -/
theorem State.registerWrite_ring (s : State) (w : Nat) (v : Word) (hw : w < 0x4000) : s.registerWrite (0x200000 + 4 * w) v =
    { s with mem := memWrite s.mem (0x20000000000 + (0x200000 + 4 * w)) (leBytes 4 v.toNat) } := by
  have h1 : ¬ 0x200000 + 4 * w = 0 := by omega
  have h2 : ¬ 0x200000 + 4 * w = 8 := by omega
  have h3 : ¬ (decide (0x100000 ≤ 0x200000 + 4 * w) && decide (0x200000 + 4 * w < 0x100000 + 640 * 256)) = true := by
    rw [Bool.and_eq_true, decide_eq_true_eq, decide_eq_true_eq]
    omega
  have h4 : (decide (0x200000 ≤ 0x200000 + 4 * w) && decide (0x200000 + 4 * w < 0x210000)) = true := by
    rw [Bool.and_eq_true, decide_eq_true_eq, decide_eq_true_eq]
    omega
  have h5 : (0x200000 + 4 * w) / 4 * 4 = 0x200000 + 4 * w := by omega
  rw [State.registerWrite, if_neg h1, if_neg h2, if_neg h3, if_pos h4, h5]
  rfl

/-- A write to an entry of a calendar shadow (R384). -/
theorem State.registerWrite_shadow (s : State) (ch slot : Nat) (v : Word) (hc : ch < 256) (hs : slot < 320) :
    s.registerWrite (0x100000 + 640 * ch + 2 * slot) v =
      s.updChannel ch (fun c => { c with shadow := { c.shadow with put := insertAt slot (v.setWidth 16 &&& 0xF1FF) c.shadow.put } }) := by
  have h1 : ¬ 0x100000 + 640 * ch + 2 * slot = 0 := by omega
  have h2 : ¬ 0x100000 + 640 * ch + 2 * slot = 8 := by omega
  have h3 : (decide (0x100000 ≤ 0x100000 + 640 * ch + 2 * slot) && decide (0x100000 + 640 * ch + 2 * slot < 0x100000 + 640 * 256)) = true := by
    rw [Bool.and_eq_true, decide_eq_true_eq, decide_eq_true_eq]
    omega
  have h4 : (0x100000 + 640 * ch + 2 * slot - 0x100000) / 640 = ch := by omega
  have h5 : (0x100000 + 640 * ch + 2 * slot - 0x100000) % 640 / 2 = slot := by omega
  rw [State.registerWrite, if_neg h1, if_neg h2, if_pos h3]
  dsimp only
  rw [h4, h5]

/-- Settles O44. -/
theorem hostRegistersAreWritten : Obligations.HostRegistersAreWritten := by
  refine ⟨?_, fun s p m v hv => ?_, fun s v => ⟨rfl, rfl, fun ch slot hc hs => ?_, fun w hw => ?_⟩⟩
  · intro s kind n p b v get
    have hget : get = fun t m => State.queue t kind m := by
      funext t m
      cases kind <;> rfl
    rw [hget]
    refine ⟨fun hh => ?_, fun hbad hh hb => descriptorWrite s kind n p b v hbad hh (by cases kind <;> exact hb)⟩
    have hstay : s.queueDescriptorWrite kind n p v = s := if_pos (by rw [hh, Bool.or_true])
    exact congrArg (fun t : State => Host.Outcome.next t.unblock) hstay
  · exact congrArg (fun t : State => Host.Outcome.next t.unblock) (if_neg (not_not.mpr hv))
  · have hoff : (BitVec.ofNat 32 (0x100000 + 640 * ch + 2 * slot)).toNat = 0x100000 + 640 * ch + 2 * slot := by
      rw [BitVec.toNat_ofNat]
      omega
    have hw : s.registerWrite (BitVec.ofNat 32 (0x100000 + 640 * ch + 2 * slot)).toNat v = s.updChannel ch (fun c =>
        { c with shadow := { c.shadow with put := insertAt slot (v.setWidth 16 &&& 0xF1FF) c.shadow.put } }) := by
      rw [hoff, State.registerWrite_shadow s ch slot v hc hs]
    have hch : (s.updChannel ch (fun c => { c with shadow := { c.shadow with put := insertAt slot (v.setWidth 16 &&& 0xF1FF) c.shadow.put } })).channel ch =
        { s.channel ch with shadow := { (s.channel ch).shadow with put := insertAt slot (v.setWidth 16 &&& 0xF1FF) (s.channel ch).shadow.put } } :=
      (State.channel_updChannel s ch ch _).trans (if_pos rfl)
    refine ⟨_, congrArg (fun t : State => Host.Outcome.next t.unblock) hw, ?_⟩
    have hunblock : ∀ t : State, t.unblock.channel ch = t.channel ch := fun _ => rfl
    rw [hunblock, hch]
    exact ⟨lookup_insertAt_self _ _ _ _, rfl⟩
  · have hoff : (BitVec.ofNat 32 (0x200000 + 4 * w)).toNat = 0x200000 + 4 * w := by
      rw [BitVec.toNat_ofNat]
      omega
    refine congrArg (fun t : State => Host.Outcome.next t.unblock) ?_
    rw [hoff, State.registerWrite_ring s w v hw]

end Sys2Proof.Machine
end

section
/-! PROOFS. Bytes of numbers (R2), and the accesses of the host (R196, R382 to R384). -/

namespace Sys2Proof.Machine

/-! ### Bytes of numbers (R2) -/

@[simp] theorem leBytes_length (n v : Nat) : (leBytes n v).length = n := by
  induction n generalizing v with
  | zero => rfl
  | succ n ih => simp [leBytes, ih]

theorem leNat_leBytes (n v : Nat) : leNat (leBytes n v) = v % 256 ^ n := by
  induction n generalizing v with
  | zero => simp [leBytes, leNat, Nat.mod_one]
  | succ n ih =>
    rw [leBytes, leNat, ih, BitVec.toNat_ofNat, show 256 ^ (n + 1) = 256 * 256 ^ n from pow_succ' 256 n, Nat.mod_mul]

@[simp] theorem leNat_leBytes_word (x : Word) : leNat (leBytes 8 x.toNat) = x.toNat :=
  (leNat_leBytes 8 _).trans (Nat.mod_eq_of_lt x.isLt)

theorem leNat_lt (bs : List Byte) : leNat bs < 256 ^ bs.length := by
  induction bs with
  | nil => simp [leNat]
  | cons b bs ih =>
    have := b.isLt
    rw [leNat, List.length_cons, pow_succ]
    omega

@[simp] theorem bytesAt_all (bs : List Byte) : bytesAt bs 0 bs.length = bs := by
  simp [bytesAt]

theorem bytesAt_all' {bs : List Byte} {n : Nat} (h : bs.length = n) : bytesAt bs 0 n = bs := h ▸ bytesAt_all bs

/-! ### An access of the host that is alone (R196) -/

/-- The only access of the host goes: its pieces are sent. -/
theorem State.hostSend_only {s : State} {h : HostAccess} (hs : s.host = [h]) :
    s.hostSend 0 = h.todo.foldl (fun s e => s.hostPiece 0 e.1 e.2) { s with host := [{ h with todo := [] }] } := by
  rw [State.hostSend, hs]
  rfl

theorem State.hostPump_only {s : State} {h : HostAccess} (hs : s.host = [h]) :
    s.hostPump = { s.hostSend 0 with
      output := (s.hostSend 0).output ++ ((s.hostSend 0).host.filter (fun h => h.finished)).map HostAccess.result,
      host := (s.hostSend 0).host.filter (fun h => !h.finished) } := by
  rw [State.hostPump, hs]
  rfl

/-- An access that has arrived as one piece for memory of this module waits for its answer. -/
theorem State.hostArrive_mem {s : State} {k : HostKind} {r : Req} (hh : s.host = []) (hr : s.reqs = [])
    (hl : moduleOf r.pa = s.modreg.toNat % 1024) (hop : ∀ slot, r.op ≠ .evict slot) (hrel : r.release = false) :
    (s.hostArrive k [.mem r]).mem = s.mem ∧ (s.hostArrive k [.mem r]).output = s.output ∧
    (s.hostArrive k [.mem r]).host = [⟨k, [], [(s.nextId, 0)], [], false, false⟩] ∧
    (s.hostArrive k [.mem r]).reqs = [{ r with id := s.nextId }] := by
  let s1 : State := { s with host := [⟨k, [], [(s.nextId, 0)], [], false, false⟩] }
  have hsub : s1.submit r = { s1.walked (tlbUnit r.by_) r.part r.va with reqs := [{ r with id := s.nextId }], nextId := s.nextId + 1 } :=
    State.submit_first (s := s1) hr hl hop hrel
  have hsend : ({ s with host := [⟨k, [(0, .mem r)], [], [], false, false⟩] } : State).hostSend 0 = s1.submit r :=
    State.hostSend_only (s := { s with host := [⟨k, [(0, .mem r)], [], [], false, false⟩] }) (h := ⟨k, [(0, .mem r)], [], [], false, false⟩) rfl
  have harrive : s.hostArrive k [.mem r] = { s1.submit r with
      output := (s1.submit r).output ++ ((s1.submit r).host.filter (fun h => h.finished)).map HostAccess.result,
      host := (s1.submit r).host.filter (fun h => !h.finished) } := by
    have hpump := State.hostPump_only (s := { s with host := [⟨k, [(0, .mem r)], [], [], false, false⟩] }) rfl
    rw [hsend] at hpump
    rw [State.hostArrive, hh]
    exact hpump
  have hhost : (s1.submit r).host = [⟨k, [], [(s.nextId, 0)], [], false, false⟩] := by
    rw [hsub]
    exact State.host_walked s1 _ _ _
  have hout : (s1.submit r).output = s.output := by
    rw [hsub]
    exact State.output_walked s1 _ _ _
  rw [harrive]
  refine ⟨?_, ?_, ?_, ?_⟩
  · show (s1.submit r).mem = s.mem
    rw [hsub]
    exact State.mem_walked s1 _ _ _
  · show (s1.submit r).output ++ _ = _
    rw [hhost, hout]
    exact List.append_nil _
  · show (s1.submit r).host.filter _ = _
    rw [hhost]
    rfl
  · show (s1.submit r).reqs = _
    rw [hsub]

/-- An access that is answered as it arrives. -/
theorem State.hostArrive_now {s s1 : State} {k : HostKind} {x : HostPiece} {h : HostAccess} (hh : s.host = [])
    (hx : ({ s with host := [⟨k, [], [], [], false, false⟩] } : State).hostPiece 0 0 x = s1) (h1 : s1.host = [h]) (hf : h.finished = true) :
    s.hostArrive k [x] = { s1 with output := s1.output ++ [h.result], host := [] } := by
  have hsend : ({ s with host := [⟨k, [(0, x)], [], [], false, false⟩] } : State).hostSend 0 = s1 :=
    (State.hostSend_only (s := { s with host := [⟨k, [(0, x)], [], [], false, false⟩] }) (h := ⟨k, [(0, x)], [], [], false, false⟩) rfl).trans hx
  have hpump := State.hostPump_only (s := { s with host := [⟨k, [(0, x)], [], [], false, false⟩] }) rfl
  rw [hsend, h1] at hpump
  rw [State.hostArrive, hh]
  refine hpump.trans ?_
  simp only [List.filter_cons, hf, List.filter_nil, List.map_cons, List.map_nil, Bool.not_true, if_true, Bool.false_eq_true, if_false]

/-! ### Answers of the host's requests -/

@[simp] theorem HostAccess.take_todo (h : HostAccess) (place : Nat) (a : Reply) : (h.take place a).todo = h.todo := by
  cases a <;> rfl

/-- The answer of the only request of the only access ends it. -/
theorem State.hostAnswer_only {s : State} {h : HostAccess} {id : Nat} {a : Reply} (hs : s.host = [h]) (ho : h.out = [(id, 0)])
    (ht : h.todo = []) :
    s.hostAnswer id a = { s with output := s.output ++ [({ h.take 0 a with out := [] } : HostAccess).result], host := [] } := by
  let h1 : HostAccess := { h.take 0 a with out := [] }
  have hk : (h.take 0 a).todo = [] := (h.take_todo 0 a).trans ht
  have hmap : s.host.map (fun (h : HostAccess) => match h.out.find? (fun e => e.1 == id) with
      | some e => { h.take e.2 a with out := h.out.filter (fun x => x.1 != id) }
      | none => h) = [h1] := by
    rw [hs, List.map_singleton, ho]
    simp [h1]
  have hsend : ({ s with host := [h1] } : State).hostSend 0 = { s with host := [h1] } := by
    have h1todo : h1.todo = [] := hk
    have hsame : ({ h1 with todo := [] } : HostAccess) = h1 := by rw [← h1todo]
    rw [State.hostSend_only (s := { s with host := [h1] }) rfl, h1todo, hsame]
    rfl
  have hpump := State.hostPump_only (s := { s with host := [h1] }) rfl
  have hfin : h1.finished = true := by
    show ((h.take 0 a).todo.isEmpty && true) = true
    rw [hk]
    rfl
  rw [hsend] at hpump
  refine (congrArg (fun hs : List HostAccess => ({ s with host := hs } : State).hostPump) hmap).trans (hpump.trans ?_)
  simp only [List.filter_cons, hfin, List.filter_nil, List.map_cons, List.map_nil, Bool.not_true, if_true, Bool.false_eq_true, if_false, h1]

/-- The answer to the only request there is, the host's own, ends its access. -/
theorem State.landReq_host {s : State} {r : Req} {h : HostAccess} {due : Nat} {a : Reply} (hs : s.host = [h]) (ho : h.out = [(r.id, 0)])
    (ht : h.todo = []) (hreqs : s.reqs = [r]) (hu : r.by_.unit = 256) (hrep : r.reply = none) (hd : r.dropped = false) :
    s.landReq r due a = { s with reqs := [], host := [], now := max s.now due,
                                 output := s.output ++ [({ h.take 0 a with out := [] } : HostAccess).result] } := by
  have hdrop : (s.dropReq r.id).passTo due = { s with reqs := [], now := max s.now due } := by
    simp [State.dropReq, State.passTo, hreqs]
  have hans := State.hostAnswer_only (s := { s with reqs := [], now := max s.now due }) (h := h) (id := r.id) (a := a) hs ho ht
  simp only [State.landReq, hdrop, hd, Bool.false_and, Bool.false_eq_true, if_false, hrep, if_pos hu, hans]
  exact State.sendReady_here (fun _ hx => absurd hx List.not_mem_nil)

theorem State.arrive_only {s : State} {r : Req} {due : Nat} {a : Reply} {d : Bool} (hreqs : s.reqs = [r]) (hst : r.status = .served due a)
    (hl : r.op.landsData = d) : s.arrive d r.id = s.landReq r due a := by
  simp [State.arrive, hreqs, hst, hl]

/-! ### Accesses through the windows (R382, R383) -/

theorem State.hostPieces_one {s : State} {o p va n : Nat} {k : Access} {g : Target} (hw : s.window o = some (p, va)) (hn : 0 < n)
    (hline : va % 128 + n ≤ 128) (ht : s.translate p 256 va k = .ok g) (op : Nat → Nat → MemOp) :
    s.hostPieces o n k op = some [.mem (lineReq s hostIssue p va n g (op 0 n))] := by
  simp only [State.hostPieces, hw, pieces_one hn hline, State.targets, ht, List.map_cons, List.map_nil, Nat.sub_self]

/-- What the host's access to part of one line leaves: one request of requester 256 on its way to its home. -/
def State.hostSent (s : State) (p va : Nat) (g : Target) (t : State) (k : HostKind) (n : Nat) (op : MemOp) : Prop :=
  t.mem = s.mem ∧ t.output = s.output ∧ t.host = [⟨k, [], [(s.nextId, 0)], [], false, false⟩] ∧
  ∃ r, t.reqs = [r] ∧ r.id = s.nextId ∧ r.by_.unit = 256 ∧ r.part = p ∧ r.va = va ∧ r.pa = g.pa ∧ r.cls = g.cls ∧ r.kslot = g.kslot ∧ r.size = n ∧
    r.op = op ∧ r.status = .waiting ∧ r.after = [] ∧ r.reply = none

theorem State.hostArrive_sent {s : State} {p va n : Nat} {g : Target} {op : MemOp} (k : HostKind) (hh : s.host = []) (hr : s.reqs = [])
    (hl : s.isLocal g = true) (hop : ∀ slot, op ≠ .evict slot) :
    s.hostSent p va g ((s.hostArrive k [.mem (lineReq s hostIssue p va n g op)]).unblock) k n op := by
  obtain ⟨hmem, hout, hhost, hreqs⟩ := State.hostArrive_mem (k := k) (r := lineReq s hostIssue p va n g op) hh hr (beq_iff_eq.mp hl) hop rfl
  exact ⟨hmem, hout, hhost, _, hreqs, rfl, rfl, rfl, rfl, rfl, rfl, rfl, rfl, rfl, rfl, rfl, rfl⟩

/-! ### Accesses to the device control space (R384) -/

/-- A write of MODREG. -/
theorem State.controlWrite_modreg (s : State) {bs : List Byte} (h : bs.length = 8) :
    s.controlWrite 0 bs = { s with modreg := BitVec.ofNat 64 (leNat bs) &&& 0x3FF03FF } := by
  have hw : (bs.length + 8 - 1) / 8 = 1 := by rw [h]
  have hfield : fieldAt bs 0 8 = leNat bs := congrArg leNat (bytesAt_all' h)
  show (List.range ((bs.length + 8 - 1) / 8)).foldl (fun s i => s.registerWrite (0 + 8 * i) (BitVec.ofNat 64 (fieldAt bs (8 * i) 8))) s = _
  rw [hw]
  show ({ s with modreg := BitVec.ofNat 64 (fieldAt bs 0 8) &&& 0x3FF03FF } : State) = _
  rw [hfield]

/-- MODREG as it reads. -/
theorem leNat_modreg (s : State) : leNat (s.controlRead 0 8) = s.modreg.toNat := by
  have hread : s.controlRead 0 8 = leBytes 8 s.modreg.toNat := by
    simp [State.controlRead, State.controlByte, List.range_succ, leBytes, Nat.div_div_eq_div_mul]
  rw [hread, leNat_leBytes_word]

/-- A fetch and add of MODREG. -/
theorem State.hostPiece_fetchAdd {s : State} {h : HostAccess} (hs : s.host = [h]) (v cmp : Word) :
    s.hostPiece 0 0 (.amoControl 0 .fetchAdd true v cmp) =
      { s with modreg := (s.modreg + v) &&& 0x3FF03FF, host := [h.take 0 (.old s.modreg none 0)] } := by
  have hsum : BitVec.ofNat 64 (leNat (leBytes 8 ((s.modreg.toNat + v.toNat) % 2 ^ (8 * 8)))) = s.modreg + v := by
    rw [← BitVec.toNat_add, leNat_leBytes_word, BitVec.ofNat_toNat, BitVec.setWidth_eq]
  simp only [State.hostPiece, hostAmo, if_true, leNat_modreg, amoNew]
  rw [State.controlWrite_modreg _ (leBytes_length 8 _), hsum, hs]
  rw [List.modify_zero_cons, BitVec.ofNat_toNat, BitVec.setWidth_eq]

/-- Settles O45. -/
theorem hostAccessesReachMemory : Obligations.HostAccessesReachMemory := by
  refine ⟨?_, ?_, fun s hh => ⟨fun o n => ?_, fun relaxed bs hbs => ?_, fun v cmp => ?_⟩⟩
  · intro s o p va g hh hr hw hl sent
    refine ⟨fun n hn hline ht => ?_, fun relaxed bs hbs hline ht => ?_, fun k wide v cmp => ?_⟩
    · refine ⟨_, ?_, State.hostArrive_sent .read hh hr hl (fun _ => nofun)⟩
      show Host.Outcome.next (s.hostWindowAccess (.bar2 o) (.read n)).unblock = _
      rw [State.hostWindowAccess, State.hostPieces_one hw hn hline ht]
    · refine ⟨_, ?_, State.hostArrive_sent (.write relaxed) hh hr hl (fun _ => nofun)⟩
      show Host.Outcome.next (s.hostWindowAccess (.bar2 o) (.write relaxed bs)).unblock = _
      rw [State.hostWindowAccess, State.hostPieces_one hw (List.length_pos_iff.mpr hbs) hline ht]
      simp only [bytesAt_all]
    · intro n hal hline ht
      have hn : 0 < n := by
        show 0 < (if wide = true then 8 else 4)
        split <;> omega
      have hsome := State.hostPieces_one hw hn hline ht
        (fun _ _ => .amo (hostAmo k) (BitVec.ofNat 64 (v.toNat % 2 ^ (8 * n))) (BitVec.ofNat 64 (cmp.toNat % 2 ^ (8 * n))) 0)
      have hexec : s.hostAtomicop (.bar2 o) k wide v cmp = s.hostArrive .atomic [.mem (lineReq s hostIssue p va n g
          (.amo (hostAmo k) (BitVec.ofNat 64 (v.toNat % 2 ^ (8 * n))) (BitVec.ofNat 64 (cmp.toNat % 2 ^ (8 * n))) 0))] := by
        rw [State.hostAtomicop]
        dsimp only
        rw [if_neg (not_not.mpr hal), hsome]
      have hstate : ∃ t, exec (.hostAtomicop (.bar2 o) k wide v cmp) s = .next t ∧ s.hostSent p va g t .atomic n
          (.amo (hostAmo k) (BitVec.ofNat 64 (v.toNat % 2 ^ (8 * n))) (BitVec.ofNat 64 (cmp.toNat % 2 ^ (8 * n))) 0) :=
        ⟨_, congrArg (fun t : State => Host.Outcome.next t.unblock) hexec, State.hostArrive_sent .atomic hh hr hl (fun _ => nofun)⟩
      cases k <;> exact hstate
  · intro s r h due hs ht ho hg hf hp hreqs hu hrep hd ended
    refine ⟨fun bs hk hop hst => ?_, fun k v w d x tag f hk hop hst => ?_, fun relaxed d tag f hk hop hst => ?_⟩
    · have harr := State.arrive_only (d := true) hreqs hst (by rw [hop]; rfl)
      refine congrArg (fun t : State => Host.Outcome.next t.unblock) (harr.trans ?_)
      rw [State.landReq_host hs ho ht hreqs hu hrep hd]
      simp [HostAccess.take, HostAccess.result, hk, hf, hp, hg, insertAt]
    · have harr := State.arrive_only (d := true) hreqs hst (by rw [hop]; rfl)
      refine congrArg (fun t : State => Host.Outcome.next t.unblock) (harr.trans ?_)
      rw [State.landReq_host hs ho ht hreqs hu hrep hd]
      simp [HostAccess.take, HostAccess.result, hk, hf, hg, insertAt]
    · have harr := State.arrive_only (d := false) hreqs hst (by rw [hop]; rfl)
      refine congrArg (fun t : State => Host.Outcome.next t.unblock) (harr.trans ?_)
      rw [State.landReq_host hs ho ht hreqs hu hrep hd]
      simp [HostAccess.take, HostAccess.result, hk]
  · refine congrArg (fun t : State => Host.Outcome.next t.unblock) ?_
    refine (State.hostArrive_now (s1 := { s with host := [⟨.read, [], [], [(0, s.controlRead o.toNat n)], false, false⟩] }) hh rfl rfl rfl).trans ?_
    rw [← hh]
    simp [HostAccess.result]
  · refine congrArg (fun t : State => Host.Outcome.next t.unblock) ?_
    refine (State.hostArrive_now (x := .writeControl 0 bs) hh
      (State.controlWrite_modreg { s with host := [⟨.write relaxed, [], [], [], false, false⟩] } hbs) rfl rfl).trans ?_
    rw [← hh]
    rfl
  · refine congrArg (fun t : State => Host.Outcome.next t.unblock) ?_
    refine (State.hostArrive_now hh (State.hostPiece_fetchAdd (s := { s with host := [⟨.atomic, [], [], [], false, false⟩] }) rfl v cmp)
      rfl rfl).trans ?_
    rw [← hh]
    simp [HostAccess.result, HostAccess.take, insertAt]

end Sys2Proof.Machine
end

section
/-! PROOFS. What the posts and notes of the scheduler leave alone, and what a dispatch makes of a core (R65, R66, R75, R94, R385, R398). -/

namespace Sys2Proof.Machine

/-! ### Posts (R94, R385) -/

@[simp] theorem State.still_postPieces (i : Issue) (p : Nat) (k : Access) (rel : Bool) (ps : List (Nat × Nat)) (s : State) (bs : List Byte) :
    (s.postPieces i p k rel ps bs).still = s.still := by
  induction ps generalizing s bs with
  | nil => rfl
  | cons x ps ih =>
    rw [State.postPieces]
    split
    · rw [ih, State.still_submit]
    · rw [ih, State.still_walked]

@[simp] theorem State.thread_postPieces (i : Issue) (p : Nat) (k : Access) (rel : Bool) (ps : List (Nat × Nat)) (s : State) (bs : List Byte)
    (v m : Nat) : (s.postPieces i p k rel ps bs).thread v m = s.thread v m := by
  induction ps generalizing s bs with
  | nil => rfl
  | cons x ps ih =>
    rw [State.postPieces]
    split
    · rw [ih, State.thread_submit]
    · rw [ih, State.thread_walked]

@[simp] theorem State.still_post (s : State) (i : Issue) (p va : Nat) (bs : List Byte) : (s.post i p va bs).still = s.still :=
  State.still_postPieces _ _ _ _ _ _ _
@[simp] theorem State.still_postLast (s : State) (i : Issue) (p va : Nat) (bs : List Byte) : (s.postLast i p va bs).still = s.still :=
  State.still_postPieces _ _ _ _ _ _ _
@[simp] theorem State.still_putBook (s : State) (c : Copybook) (at_ : Nat) (bs : List Byte) : (s.putBook c at_ bs).still = s.still :=
  State.still_post _ _ _ _ _

/-! ### Notes of the scheduler: queues, copybooks and answers (R84, R398) -/

/-- The still part of the state without what the scheduler notes beside its launches: queues, copybooks and answers. -/
def State.plain (s : State) : State := { s.still with launchQ := [], copybooks := [], inbox := [] }

theorem State.plain_of_still {s t : State} (h : t.still = s.still) : t.plain = s.plain :=
  congrArg (fun x : State => { x with launchQ := [], copybooks := [], inbox := [] }) h

@[simp] theorem State.plain_putBook (s : State) (c : Copybook) (at_ : Nat) (bs : List Byte) : (s.putBook c at_ bs).plain = s.plain :=
  State.plain_of_still (s.still_putBook c at_ bs)
@[simp] theorem State.plain_updCopybook (s : State) (c : Copybook) (f : Copybook → Copybook) : (s.updCopybook c f).plain = s.plain := rfl
@[simp] theorem State.plain_overflowBook (s : State) (c : Copybook) : (s.overflowBook c).plain = s.plain := by
  unfold State.overflowBook
  split
  · rfl
  · rw [State.plain_updCopybook, State.plain_putBook]
@[simp] theorem State.plain_clearInbox (s : State) (i : Issue) : (s.clearInbox i).plain = s.plain := rfl
@[simp] theorem State.plain_follow (s : State) (l : Launch) : (s.follow l).plain = s.plain := rfl
@[simp] theorem State.plain_updQueue (s : State) (k : QueueKind) (n : Nat) (f : Queue → Queue) : (s.updQueue k n f).plain = s.plain := by
  cases k <;> rfl
@[simp] theorem State.plain_passSlotOf (s : State) (k : QueueKind) (n : Nat) : (s.passSlotOf k n).plain = s.plain := by
  unfold State.passSlotOf State.mirror
  exact (State.plain_of_still (State.still_post _ _ _ _ _)).trans (State.plain_updQueue _ _ _ _)
@[simp] theorem State.plain_takePacket (s : State) (k : QueueKind) (n : Nat) : (s.takePacket k n).plain = s.plain := by
  rw [State.takePacket, State.plain_clearInbox, State.plain_passSlotOf]
@[simp] theorem State.plain_beginBook (s : State) (l : Launch) : (s.beginBook l).plain = s.plain := by
  unfold State.beginBook
  split
  · rfl
  · rw [State.plain_updCopybook, State.plain_putBook]
@[simp] theorem State.plain_beginReplay (s : State) (l : Launch) : (s.beginReplay l).plain = s.plain := by
  unfold State.beginReplay
  split <;> rfl
@[simp] theorem State.plain_readEnds (s : State) (l : Launch) : (s.readEnds l).plain = s.plain := by
  simp only [State.readEnds, State.plain_beginReplay, State.plain_beginBook, State.plain_clearInbox]
@[simp] theorem State.plain_recordDispatch (s : State) (l n : Nat) (cores : List Nat) : (s.recordDispatch l n cores).plain = s.plain := by
  unfold State.recordDispatch
  split
  · rfl
  · split
    · rw [State.plain_updCopybook, State.plain_putBook]
    · exact State.plain_overflowBook _ _
@[simp] theorem State.plain_recordDigests (s : State) (l : Nat) : (s.recordDigests l).plain = s.plain := by
  unfold State.recordDigests
  split
  · rfl
  · exact State.plain_putBook _ _ _ _

section
variable {s t : State} (h : t.plain = s.plain)
include h

theorem State.gangs_of_plain : t.gangs = s.gangs := by
  change t.plain.gangs = s.plain.gangs; rw [h]
theorem State.launches_of_plain : t.launches = s.launches := by
  change t.plain.launches = s.plain.launches; rw [h]
theorem State.parts_of_plain : t.parts = s.parts := by
  change t.plain.parts = s.plain.parts; rw [h]
theorem State.now_of_plain : t.now = s.now := by
  change t.plain.now = s.plain.now; rw [h]

end

/-! ### Threads that are looked at again (R92) -/

theorem Seq.unblock_reset (u : Nat) : (Seq.reset u).unblock = Seq.reset u := by
  have hmap : (Vector.replicate 4 Thread.reset).map (fun t => ({ t with blocked := false } : Thread)) = Vector.replicate 4 Thread.reset := by
    rw [Vector.map_replicate]
    rfl
  exact congrArg (fun v => ({ Seq.reset u with threads := v } : Seq)) hmap

theorem State.seq_unblock (s : State) (u : Nat) : s.unblock.seq u = (s.seq u).unblock :=
  lookup_map Seq.unblock (Seq.reset u) u s.seqs (Seq.unblock_reset u)

theorem State.thread_unblock (s : State) (u t : Nat) : s.unblock.thread u t = { s.thread u t with blocked := false } := by
  rw [State.thread, State.thread, State.seq_unblock]
  show ((s.seq u).threads.map _).getD t Thread.reset = _
  by_cases h : t < 4
  · simp [Vector.getD, h]
  · simp [Vector.getD, h, Thread.reset]

/-! ### What a step of a fold establishes -/

/-- What one step of a fold over a range establishes and the other steps keep holds after the fold. -/
theorem foldl_range_at {σ : Type} {P : σ → Prop} {f : σ → Nat → σ} {k : Nat} (hk : ∀ s, P (f s k)) {m : Nat} (hkm : k < m)
    (ho : ∀ s j, j < m → j ≠ k → P s → P (f s j)) (s : σ) : P ((List.range m).foldl f s) := by
  induction m with
  | zero => exact absurd hkm (Nat.not_lt_zero k)
  | succ m ih =>
    rw [List.range_succ, List.foldl_append]
    by_cases h : k = m
    · exact h ▸ hk _
    · exact ho _ m (Nat.lt_succ_self m) (Ne.symm h) (ih (by omega) (fun s j hj => ho s j (Nat.lt_succ_of_lt hj)))

/-! ### A core that takes part in a gang (R65, R66, R75) -/

/-- A core as a dispatch leaves it: it belongs to the gang at its rank, and its threads start with the values of R75. -/
def State.startedAs (s : State) (l : Launch) (g n k : Nat) : Prop :=
  (s.core n).gang = some g ∧ (s.core n).rank = k ∧ (s.core n).prog = 0 ∧ (s.core n).pivstat = 0 ∧ (s.core n).growth = 0 ∧
    ∀ j ≤ l.tpc,
      (s.thread n j).pc = l.code ∧ (s.thread n j).owner = .gang g ∧ (s.thread n j).status = .run ∧ (s.thread n j).p = 1 ∧
      (s.thread n j).flags = 0 ∧ (s.thread n j).intrap = false ∧ (s.thread n j).tvec = 0 ∧ (s.thread n j).loop = none ∧
      (s.thread n j).getX 23 = l.args ∧ (s.thread n j).getX 24 = BitVec.ofInt 64 (l.index l.next 0) ∧
      (s.thread n j).getX 25 = BitVec.ofInt 64 (l.index l.next 1) ∧ (s.thread n j).getX 26 = BitVec.ofInt 64 (l.index l.next 2) ∧
      (s.thread n j).getX 27 = BitVec.ofInt 64 (l.index l.next 3) ∧ (s.thread n j).getX 28 = BitVec.ofNat 64 k ∧
      (s.thread n j).getX 29 = BitVec.ofNat 64 j

/-- A thread as a dispatch starts it. -/
def Launch.startThread (l : Launch) (g rank t : Nat) (th : Thread) : Thread :=
  { th.start l.code
      [(23, l.args), (24, BitVec.ofInt 64 (l.index l.next 0)), (25, BitVec.ofInt 64 (l.index l.next 1)), (26, BitVec.ofInt 64 (l.index l.next 2)),
       (27, BitVec.ofInt 64 (l.index l.next 3)), (28, BitVec.ofNat 64 rank), (29, BitVec.ofNat 64 t)] (.gang g) with g := Vector.replicate 8 0 }

/-- The values that a started thread finds in its x registers (R75). -/
theorem Launch.getX_startThread (l : Launch) (g rank t : Nat) (th : Thread) :
    let st := l.startThread g rank t th
    st.getX 23 = l.args ∧ st.getX 24 = BitVec.ofInt 64 (l.index l.next 0) ∧ st.getX 25 = BitVec.ofInt 64 (l.index l.next 1) ∧
    st.getX 26 = BitVec.ofInt 64 (l.index l.next 2) ∧ st.getX 27 = BitVec.ofInt 64 (l.index l.next 3) ∧ st.getX 28 = BitVec.ofNat 64 rank ∧
    st.getX 29 = BitVec.ofNat 64 t := by
  simp [Launch.startThread, Thread.start, Thread.getX, Vector.getD]

/-- The threads of a core that a dispatch starts. -/
def State.startThreads (s : State) (l : Launch) (g n rank : Nat) : State :=
  (List.range (l.tpc + 1)).foldl (fun s t => s.updThread n t (l.startThread g rank t)) s

theorem State.startCore_eq (s : State) (l : Launch) (g n rank : Nat) (grid : Grid) : s.startCore l g n rank grid =
    (s.updCore n (fun k => { k with
      gang := some g, rank := rank, grid := grid, lastWid := none, waveFault := none, prog := 0, pivstat := 0, growth := 0,
      cells := k.cells.map (fun e => (e.1, { e.2 with flags := 0 })) })).startThreads l g n rank := rfl

theorem State.cores_startThreads (s : State) (l : Launch) (g n rank : Nat) : (s.startThreads l g n rank).cores = s.cores :=
  foldl_keeps (g := State.cores) (f := fun s t => s.updThread n t (l.startThread g rank t)) (fun _ _ => rfl) _ s

theorem State.thread_startThreads_ne (s : State) (l : Launch) (g rank j : Nat) {n n' : Nat} (h : n' ≠ n) :
    (s.startThreads l g n rank).thread n' j = s.thread n' j :=
  foldl_keeps (g := fun s : State => s.thread n' j) (f := fun s t => s.updThread n t (l.startThread g rank t)) (fun s t => by rw [State.thread_updThread, if_neg (fun hc => h hc.1)]) _ s

theorem State.startCore_started (s : State) (l : Launch) (g n k : Nat) (grid : Grid) (ht : l.tpc < 4) : (s.startCore l g n k grid).startedAs l g n k := by
  rw [State.startCore_eq]
  generalize hs1 : s.updCore n _ = s1
  have hthread : ∀ j ≤ l.tpc, ∃ th : Thread, (s1.startThreads l g n k).thread n j = l.startThread g k j th := by
    intro j hj
    refine foldl_range_at (P := fun s : State => ∃ th : Thread, s.thread n j = l.startThread g k j th) (k := j)
      (fun s => ⟨s.thread n j, ?_⟩) (Nat.lt_succ_of_le hj) (fun s i _ hi ⟨th, h⟩ => ⟨th, ?_⟩) s1
    · rw [State.thread_updThread, if_pos ⟨rfl, rfl, by omega⟩]
    · rw [State.thread_updThread, if_neg (fun hc => hi hc.2.1.symm), h]
  have hself : ∀ {α : Type} (f : CoreArr → α), f ((s1.startThreads l g n k).core n) = f (s1.core n) := by
    intro α f
    rw [State.core, State.core, State.cores_startThreads]
  refine ⟨?_, ?_, ?_, ?_, ?_, fun j hj => ?_⟩
  · rw [hself CoreArr.gang, ← hs1, State.core_updCore_self]
  · rw [hself CoreArr.rank, ← hs1, State.core_updCore_self]
  · rw [hself CoreArr.prog, ← hs1, State.core_updCore_self]
  · rw [hself CoreArr.pivstat, ← hs1, State.core_updCore_self]
  · rw [hself CoreArr.growth, ← hs1, State.core_updCore_self]
  · obtain ⟨th, h⟩ := hthread j hj
    rw [h]
    exact ⟨rfl, rfl, rfl, rfl, rfl, rfl, rfl, rfl, l.getX_startThread g k j th⟩

theorem State.startedAs_startCore {s : State} {l : Launch} {g n k n' k' : Nat} {grid : Grid} (hn : n' ≠ n) (h : s.startedAs l g n k) :
    (s.startCore l g n' k' grid).startedAs l g n k := by
  have hcore : (s.startCore l g n' k' grid).core n = s.core n := by
    rw [State.startCore_eq, State.core, State.cores_startThreads]
    exact State.core_setCore_ne s (Ne.symm hn) _
  have hthread : ∀ j, (s.startCore l g n' k' grid).thread n j = s.thread n j := fun j => by
    rw [State.startCore_eq, State.thread_startThreads_ne _ _ _ _ _ (Ne.symm hn), State.thread_updCore]
  unfold State.startedAs
  simp only [hcore, hthread]
  exact h

end Sys2Proof.Machine
end

section
/-! PROOFS. Launches that are read and dispatched (R63, R69, R71, R72, R75, R78, R79, R85, R389). -/

namespace Sys2Proof.Machine

/-! ### Reads of the scheduler that are answered (R452) -/

theorem State.readPiece_ok {s s1 : State} {i : Issue} {p va n : Nat} {bs : List Byte} {b : Bool} (h : s.readPiece i p va n = .ok s1 bs b) :
    s1 = s := by
  unfold State.readPiece at h
  split at h
  · cases h
  · split at h
    · cases h; rfl
    · split at h
      · split at h
        · cases h
        · cases h; rfl
      · cases h

theorem State.readPieces_ok (i : Issue) (p : Nat) (ps : List (Nat × Nat)) (s s1 : State) (bs : List Byte) (b : Bool)
    (h : s.readPieces i p ps = .ok s1 bs b) : s1 = s := by
  induction ps generalizing s s1 bs b with
  | nil => cases h; rfl
  | cons x ps ih =>
    rw [State.readPieces] at h
    split at h
    · cases h
    · split at h <;> cases h
    · next s' bs' b' hp =>
      cases State.readPiece_ok hp
      split at h
      · next s2 bs2 b2 hps =>
        cases h
        exact ih _ _ _ _ hps
      · next hno =>
        exact absurd h (hno _ _ _)

/-- A read that is answered changes nothing. -/
theorem State.readVa_ok {s s1 : State} {i : Issue} {p va n : Nat} {bs : List Byte} {b : Bool} (h : s.readVa i p va n = .ok s1 bs b) : s1 = s :=
  State.readPieces_ok i p _ s s1 bs b h

theorem State.ringPacket_state {s s0 : State} {k : QueueKind} {n : Nat} {pkt : List Byte} (h : s.ringPacket k n = .packet s0 pkt) : s0 = s := by
  unfold State.ringPacket at h
  dsimp only at h
  split at h
  · cases h
  · split at h
    · cases h
    · split at h
      · cases h
      · split at h <;> cases h
      · next s1 bs b hr =>
        cases State.readVa_ok hr
        split at h
        · split at h <;> cases h
        · split at h
          · cases h; rfl
          · cases h

/-- Where the answer is not out, asking ahead changes nothing. -/
theorem State.askAhead_answered {s : State} {i : Issue} {p va n : Nat} (h : ∀ s1, s.readVa i p va n ≠ .wait s1) : s.askAhead i p va n = s := by
  unfold State.askAhead
  split
  · next s1 hw => exact absurd hw (h s1)
  · rfl

theorem State.readCode_answered {s : State} {l : Launch} {k : State → Launch → State}
    (h : ∀ s1, s.readVa (schedIssue l.part) l.part (l.code.toNat / 128 * 128) 128 ≠ .wait s1) : s.readCode l k = k s l := by
  unfold State.readCode
  split
  · next s1 hw => exact absurd hw (h s1)
  · rfl

/-! ### Dependences (R72, R78) -/

/-- A launch whose entries are met is not looked at again. -/
theorem State.lookEntry_met {s : State} {i which : Nat} {l : Launch} (h : s.launchOf i = some l) (hm : (if which = 0 then l.dep0 else l.dep1) = true) :
    s.lookEntry i which = s := by
  unfold State.lookEntry
  rw [h]
  simp only [hm, Bool.true_or, if_true]

/-- The head launch of a queue, whose entries are met. -/
theorem State.dependencyWrite_met {s : State} {q : Nat} {l : Launch} (hq : s.headLaunch q = some l) (hl : s.launchOf l.id = some l)
    (h0 : l.dep0 = true) (h1 : l.dep1 = true) : s.dependencyWrite q = s.eligibleNow l.id := by
  unfold State.dependencyWrite
  rw [hq]
  dsimp only
  rw [State.lookEntry_met (which := 0) hl h0, State.lookEntry_met (which := 1) hl h1]

theorem State.headLaunch_cause {s : State} {q : Nat} {l : Launch} (h : s.headLaunch q = some l) : l.cause = none := by
  have := List.find?_some h
  simp only [Bool.and_eq_true, Option.isNone_iff_eq_none] at this
  exact this.1.2

theorem State.eligibleNow_eq {s : State} {l : Launch} (hl : s.launchOf l.id = some l) (hw : l.state = .waiting) (hc : l.cause = none)
    (h0 : l.dep0 = true) (h1 : l.dep1 = true) :
    s.eligibleNow l.id = if s.depMet l then s.updLaunch l.id (fun x => { x with state := .eligible, lastDispatch := s.cc }) else s := by
  unfold State.eligibleNow
  rw [hl]
  simp only [hw, hc, h0, h1, decide_true, Option.isNone_none, Bool.true_and, Bool.and_true]

theorem State.launchOf_updLaunch (s : State) (i j : Nat) (f : Launch → Launch) (hf : ∀ x, (f x).id = x.id) :
    (s.updLaunch i f).launchOf j = (s.launchOf j).map (fun x => if x.id = i then f x else x) := by
  have hid : (fun x : Launch => x.id == j) ∘ (fun x => if x.id = i then f x else x) = fun x => x.id == j := by
    funext x
    simp only [Function.comp_apply]
    split
    · rw [hf]
    · rfl
  rw [State.launchOf, State.launchOf, State.updLaunch, List.find?_map, hid]

/-- The dependence of a launch does not turn on which launches are eligible. -/
theorem State.depMet_eligible (s : State) (i c : Nat) (l : Launch) :
    (s.updLaunch i (fun x => { x with state := .eligible, lastDispatch := c })).depMet l = s.depMet l := by
  have hprev : l.prev.bind (s.updLaunch i (fun x => { x with state := .eligible, lastDispatch := c })).launchOf =
      (l.prev.bind s.launchOf).map (fun x => if x.id = i then { x with state := .eligible, lastDispatch := c } else x) := by
    cases l.prev with
    | none => rfl
    | some j => exact State.launchOf_updLaunch s i j _ (fun _ => rfl)
  have htrig : (s.updLaunch i (fun x => { x with state := .eligible, lastDispatch := c })).prevTriggered l = s.prevTriggered l := by
    rw [State.prevTriggered, State.prevTriggered, hprev]
    cases l.prev.bind s.launchOf with
    | none => rfl
    | some x =>
      dsimp only [Option.map_some]
      split <;> rfl
  have hcc : (s.updLaunch i (fun x => { x with state := .eligible, lastDispatch := c })).cc = s.cc := rfl
  rw [State.depMet, State.depMet, hprev, htrig, hcc, Option.isNone_map]

/-! ### LAUNCH_POSTED (R69, R71, R78) -/

/-- A field of eight bytes fits a word. -/
theorem fieldAt_lt (bs : List Byte) (o n : Nat) : fieldAt bs o n < 256 ^ n := by
  have hlen : (bytesAt bs o n).length = n := by
    simp only [bytesAt, List.length_append, List.length_take, List.length_replicate]
    omega
  have h := leNat_lt (bytesAt bs o n)
  rwa [hlen] at h

theorem State.launchInvalid_done {s : State} {l : Launch} (h : s.launchInvalid l = none) : l.doneVa % 64 = 0 := by
  by_contra hd
  have hbad : decide (l.doneVa % 64 ≠ 0) = true := decide_eq_true hd
  simp only [State.launchInvalid, hbad, Bool.true_or, Bool.or_true, if_true] at h
  split at h <;> cases h

/-- A launch that the scheduler has taken into the launches, with its entries met, is the head of its queue. -/
theorem State.posted_eligible {s s2 : State} {q : Nat} {l : Launch} (hs : s2.launches = s.launches ++ [l])
    (hq : ∀ x ∈ s.launches, x.queue = q → x.cause ≠ none ∨ x.state = .draining ∨ x.state = .done) (hid : ∀ x ∈ s.launches, x.id < l.id)
    (hlq : l.queue = q) (hc : l.cause = none) (hw : l.state = .waiting) (h0 : l.dep0 = true) (h1 : l.dep1 = true) :
    ∃ l', (s2.dependencyWrite q).launches = s.launches ++ [l'] ∧ (l' = l ∨ l' = { l with state := .eligible, lastDispatch := s2.cc }) ∧
      (l'.state = .eligible ↔ (s2.dependencyWrite q).depMet l' = true) ∧ (l'.state = .eligible ∨ l'.state = .waiting) := by
  have hhead : s2.headLaunch q = some l := by
    rw [State.headLaunch, hs, List.find?_append, List.find?_eq_none.mpr, Option.none_or]
    · simp [hlq, hc, hw]
    · intro x hx
      simp only [Bool.and_eq_true, beq_iff_eq, Option.isNone_iff_eq_none, decide_eq_true_eq, not_and]
      rintro ⟨hxq, hxc⟩ hxd
      rcases hq x hx hxq with h | h | h
      · exact fun _ => h hxc
      · exact absurd h hxd
      · exact fun hn => hn h
  have hof : s2.launchOf l.id = some l := by
    rw [State.launchOf, hs, List.find?_append, List.find?_eq_none.mpr, Option.none_or]
    · simp
    · intro x hx
      have := hid x hx
      simp only [beq_iff_eq]
      omega
  rw [State.dependencyWrite_met hhead hof h0 h1, State.eligibleNow_eq hof hw hc h0 h1]
  by_cases hd : s2.depMet l = true
  · rw [if_pos hd]
    refine ⟨{ l with state := .eligible, lastDispatch := s2.cc }, ?_, Or.inr rfl, ⟨fun _ => ?_, fun _ => rfl⟩, Or.inl rfl⟩
    · have hothers : s.launches.map (fun x => if x.id = l.id then { x with state := .eligible, lastDispatch := s2.cc } else x) = s.launches := by
        refine (List.map_congr_left (fun x hx => ?_)).trans (List.map_id _)
        exact if_neg (Nat.ne_of_lt (hid x hx))
      rw [State.updLaunch, hs, List.map_append, hothers, List.map_singleton, if_pos rfl]
    · rw [State.depMet_eligible]
      exact hd
  · rw [if_neg hd]
    refine ⟨l, hs, Or.inl rfl, ⟨fun h => ?_, fun h => absurd h hd⟩, Or.inr hw⟩
    rw [hw] at h
    cases h

/-- A packet without loops or placement, whose lines have come, becomes a launch. -/
theorem State.launchPosted_eq {s : State} {q : Nat} {pkt : List Byte} {done : Target} (hen : (s.launchQueue q).en = true)
    (hq : ∀ x ∈ s.launches, x.queue = q → x.cause ≠ none ∨ x.state = .draining ∨ x.state = .done) (hpkt : s.ringPacket .launch q = .packet s pkt)
    (hcode : ∀ s1, s.readVa (schedIssue (s.launchQueue q).part) (s.launchQueue q).part (fieldAt pkt 8 8 / 128 * 128) 128 ≠ .wait s1)
    (hinv : s.launchInvalid (s.newLaunch q (s.launchQueue q) pkt) = none)
    (hdone : s.translate (s.launchQueue q).part (258 + (s.launchQueue q).part) (fieldAt pkt 56 8) .write = .ok done)
    (hloops : fieldAt pkt 24 8 = 0) (hplace : fieldAt pkt 32 8 = 0) :
    s.launchPosted q = (((({ s.fresh with launches := s.launches ++ [s.newLaunch q (s.launchQueue q) pkt] } : State).follow
      (s.newLaunch q (s.launchQueue q) pkt)).readEnds (s.newLaunch q (s.launchQueue q) pkt)).dependencyWrite q) := by
  have hbusy : s.launches.any (fun l => l.queue == q && l.cause.isNone && l.state != .draining && l.state != .done) = false := by
    rw [List.any_eq_false]
    intro x hx
    simp only [Bool.and_eq_true, beq_iff_eq, bne_iff_ne, Option.isNone_iff_eq_none, not_and, ne_eq, not_not]
    intro ⟨⟨hxq, hxc⟩, hxd⟩
    exact ((hq x hx hxq).resolve_left (fun h => h hxc)).resolve_left hxd
  generalize hl : s.newLaunch q (s.launchQueue q) pkt = l at hinv ⊢
  have hpart : l.part = (s.launchQueue q).part := hl ▸ rfl
  have hlc : l.code.toNat = fieldAt pkt 8 8 := by
    rw [← hl]
    exact Nat.mod_eq_of_lt (fieldAt_lt pkt 8 8)
  have hlv : l.loopsVa = 0 := by rw [← hl]; exact hloops
  have hpv : l.placeVa = 0 := by rw [← hl]; exact hplace
  have hread : ∀ s1, s.readVa (schedIssue l.part) l.part (l.code.toNat / 128 * 128) 128 ≠ .wait s1 := by rw [hpart, hlc]; exact hcode
  have hask : s.askRecords l = s := by
    unfold State.askRecords
    dsimp only
    rw [if_pos hpv, if_pos hlv, State.askAhead_answered hread]
  have htr : s.translate l.part (258 + l.part) l.doneVa .write = .ok done := by
    rw [hpart, ← hl]
    exact hdone
  unfold State.launchPosted
  dsimp only
  rw [hen, hbusy, hpkt]
  dsimp only
  rw [hl, hinv]
  dsimp only
  rw [hask, State.readLoops, if_pos hlv, State.readPlace, if_pos hpv, State.readCode_answered hread, State.checkDone, htr]
  rfl

/-! ### DISPATCH (R65, R75, R79) -/

/-- The gang of a launch's next iteration. -/
def Launch.nextGang (l : Launch) (id : Nat) (cores : List Nat) : Gang :=
  { id := id, launch := l.id, part := l.part, s := l.next, cores := cores, ha := (shapeDims l.shape).1, wa := (shapeDims l.shape).2, tpc := l.tpc,
    trigUsed := false, trig := false, wells := [], parks := 0, place := .resident, ending := false }

/-- A launch once its next iteration has been dispatched in a controller cycle. -/
def Launch.dispatched (l : Launch) (cc : Nat) : Launch :=
  { l with next := l.next + 1, state := if l.next + 1 = l.total then .draining else .running, lastDispatch := cc,
           tstart := if l.next = 0 then cc else l.tstart }

theorem State.startCores_keeps {β : Type} (g : State → β) (hc : ∀ s n f, g (State.updCore s n f) = g s) (ht : ∀ s u t f, g (State.updThread s u t f) = g s)
    (l : Launch) (i : Nat) (cores : List Nat) (grid : Nat → Grid) (m : Nat) (s : State) :
    g ((List.range m).foldl (fun s k => s.startCore l i (cores.getD k 0) k (grid k)) s) = g s := by
  refine foldl_keeps (f := fun s k => s.startCore l i (cores.getD k 0) k (grid k)) (fun s k => ?_) _ s
  rw [State.startCore_eq, State.startThreads]
  exact (foldl_keeps (f := fun s t => s.updThread (cores.getD k 0) t (l.startThread i k t)) (fun s t => ht s _ _ _) _ _).trans (hc _ _ _)

/-- The next iteration of a launch begins. -/
theorem State.dispatchOn_spec (s : State) (l : Launch) {cores : List Nat} (ht : l.tpc < 4) (hc : cores.Nodup) :
    (s.dispatchOn l cores).gangs = s.gangs ++ [l.nextGang s.nextId cores] ∧
    (s.dispatchOn l cores).launches = s.launches.map (fun x => if x.id = l.id then x.dispatched s.cc else x) ∧
    ((s.dispatchOn l cores).part l.part).lastDispatch = some s.cc ∧
    ∀ k < cores.length, ∀ n, cores[k]? = some n → (s.dispatchOn l cores).startedAs l s.nextId n k := by
  let s2 := (if l.next = 0 then (s.passSlotOf .launch l.queue).recordDigests l.id else s).recordDispatch l.id l.next cores
  have hplain : s2.plain = s.plain := by
    rw [State.plain_recordDispatch]
    split
    · rw [State.plain_recordDigests, State.plain_passSlotOf]
    · rfl
  let s3 : State := { s2.fresh with gangs := s2.gangs ++ [l.nextGang s.nextId cores] }
  let grid : Nat → Grid := fun k => ⟨(cores.drop (k / (l.nextGang s.nextId cores).chainSize * (l.nextGang s.nextId cores).chainSize)).take
    (l.nextGang s.nextId cores).chainSize, (shapeDims l.shape).1, (shapeDims l.shape).2⟩
  have hon : s.dispatchOn l cores = (((List.range cores.length).foldl (fun t k => t.startCore l s.nextId (cores.getD k 0) k (grid k)) s3).updLaunch
      l.id (fun x => x.dispatched s.cc)).updPart l.part (fun k => { k with lastDispatch := some s.cc }) := rfl
  have hgangs := State.startCores_keeps State.gangs (fun _ _ _ => rfl) (fun _ _ _ _ => rfl) l s.nextId cores grid cores.length s3
  have hlaunches := State.startCores_keeps State.launches (fun _ _ _ => rfl) (fun _ _ _ _ => rfl) l s.nextId cores grid cores.length s3
  rw [hon]
  generalize hs4 : (List.range cores.length).foldl (fun t k => t.startCore l s.nextId (cores.getD k 0) k (grid k)) s3 = s4 at hgangs hlaunches
  refine ⟨?_, ?_, ?_, fun k hk n hn => ?_⟩
  · show s4.gangs = _
    rw [hgangs]
    show s2.gangs ++ _ = _
    rw [State.gangs_of_plain hplain]
  · show s4.launches.map _ = _
    rw [hlaunches]
    show s2.launches.map _ = _
    rw [State.launches_of_plain hplain]
  · simp [State.part, State.updPart, State.setPart]
  · have hstarted : s4.startedAs l s.nextId n k := by
      have hget : cores.getD k 0 = n := by rw [List.getD_eq_getElem?_getD, hn, Option.getD_some]
      rw [← hs4]
      refine foldl_range_at (P := fun s' => s'.startedAs l s.nextId n k) (k := k)
        (f := fun t k => t.startCore l s.nextId (cores.getD k 0) k (grid k)) (fun t => ?_) hk (fun t j hj hjk h => ?_) s3
      · show (t.startCore l s.nextId (cores.getD k 0) k (grid k)).startedAs l s.nextId n k
        rw [hget]
        exact State.startCore_started t l s.nextId n k (grid k) ht
      · refine State.startedAs_startCore (fun hc' => hjk ?_) h
        rw [← hget, List.getD_eq_getElem _ _ hj, List.getD_eq_getElem _ _ hk] at hc'
        exact (List.Nodup.getElem_inj_iff hc).mp hc'
    exact hstarted

/-- The state on which a dispatch decides: eight controller cycles after the last one, with what falls in its cycle settled. -/
def State.dueState (s : State) (p : Nat) : State :=
  (match (s.part p).lastDispatch with | some c => s.ccTo (c + 8) | none => s).settleCycle p

theorem State.dispatch_due {s : State} {p : Nat} (hu : s.undigested p = []) : s.dispatch p = ((s.dueState p).dispatchChoice p).getD s := by
  rw [State.dispatch, hu]
  rfl

theorem State.updPart_updPart (s : State) (p : Nat) (f g : Partition → Partition) : (s.updPart p f).updPart p g = s.updPart p (fun k => g (f k)) := by
  simp [State.updPart, State.setPart, State.part, insertAt_insertAt]

/-- The one launch that can dispatch is chosen. -/
theorem State.dispatchChoice_only {b : State} {p : Nat} {l : Launch} {cores : List Nat} (hcan : b.dispatchable p = [(l, cores)])
    (hrep : (b.movePointers p (b.dispatchable p)).replayDiffers l = none) :
    ∃ f, b.dispatchChoice p = some ((b.updPart p f).dispatchOn l cores) := by
  rw [hcan] at hrep
  generalize hs1 : b.movePointers p [(l, cores)] = s1 at hrep
  have hserved : ∀ ptr : Nat × Nat, ∃ new, servedQueue ptr [l.queue] = some (l.queue, new) := by
    intro ptr
    unfold servedQueue
    by_cases h : ptr.1 = l.queue
    · exact ⟨(ptr.1, ptr.2 + 1), by simp [h]⟩
    · refine ⟨(l.queue, 1), ?_⟩
      have hn : [l.queue].contains ptr.1 = false := by simp [h]
      rw [hn]
      simp only [Bool.false_eq_true, if_false, nextAbove]
      by_cases h' : ptr.1 < l.queue <;> simp [h']
  obtain ⟨ptr, hptr⟩ := hserved (lookup (0, 0) (s1.level l) (s1.part p).pointers)
  have hmax : [s1.level l].foldl max 0 = s1.level l := Nat.zero_max _
  have htop : [(l, cores)].filter (fun e => s1.level e.1 == s1.level l) = [(l, cores)] := by simp
  have hchoice : b.dispatchChoice p =
      some ((s1.updPart p (fun k => { k with pointers := insertAt (s1.level l) ptr k.pointers })).dispatchOn l cores) := by
    unfold State.dispatchChoice
    simp only [hcan, hs1, hmax, htop, List.map_cons, List.map_nil, hptr, List.find?_cons, beq_self_eq_true, hrep]
  subst hs1
  rw [hchoice, State.movePointers, State.updPart_updPart]
  exact ⟨_, rfl⟩

/-- Settles O46. -/
theorem launchesAreReadAndDispatched : Obligations.LaunchesAreReadAndDispatched := by
  refine ⟨?_, ?_, ?_⟩
  · intro s s0 q pkt done hen hq hid hpkt hcode hinv hdone hloops hplace h40 h48
    cases State.ringPacket_state hpkt
    have hposted := State.launchPosted_eq hen hq hpkt hcode hinv hdone hloops hplace
    let l := s.newLaunch q (s.launchQueue q) pkt
    have hl : (((({ s.fresh with launches := s.launches ++ [l] } : State).follow l).readEnds l)).launches = s.launches ++ [l] := by
      rw [State.launches_of_plain ((State.plain_readEnds _ l).trans (State.plain_follow _ l))]
    have hdep : ∀ o, fieldAt pkt o 8 = 0 → (!depOn (fieldAt pkt o 8)) = true := fun o h => by rw [h]; rfl
    obtain ⟨l', hlaunches, hcase, hstate, hor⟩ := State.posted_eligible hl hq hid rfl rfl rfl (hdep 40 h40) (hdep 48 h48)
    have hat : l.doneAt = some done := by
      have hal : fieldAt pkt 56 8 % 64 = 0 := State.launchInvalid_done hinv
      show (if fieldAt pkt 56 8 % 64 ≠ 0 then none else _) = _
      rw [if_neg (not_not.mpr hal), hdone]
    refine ⟨_, l', congrArg (fun t : State => Host.Outcome.next t.unblock) hposted, hlaunches, ?_⟩
    rcases hcase with h | h <;> subst h
    · exact ⟨rfl, rfl, rfl, rfl, rfl, rfl, rfl, rfl, rfl, rfl, rfl, hat, rfl, rfl, rfl, rfl, hstate, hor⟩
    · exact ⟨rfl, rfl, rfl, rfl, rfl, rfl, rfl, rfl, rfl, rfl, rfl, hat, rfl, rfl, rfl, rfl, hstate, hor⟩
  · intro s q l hq hl hw h0 h1 hd
    refine congrArg (fun t : State => Host.Outcome.next t.unblock) ?_
    show s.dependencyWrite q = _
    rw [State.dependencyWrite_met hq hl h0 h1, State.eligibleNow_eq hl hw (State.headLaunch_cause hq) h0 h1, if_pos hd]
  · intro s p l cores b hu hcan hp hrep ht hc
    have hb : b = s.dueState p := by
      show State.settleCycle _ p = State.settleCycle _ p
      cases (s.part p).lastDispatch <;> rfl
    clear_value b
    obtain ⟨f, hchoice⟩ := State.dispatchChoice_only hcan hrep
    obtain ⟨hgangs, hlaunches, hpart, hcores⟩ := State.dispatchOn_spec (b.updPart p f) l ht hc
    have hdisp : s.dispatch p = (b.updPart p f).dispatchOn l cores := by
      rw [State.dispatch_due hu, ← hb, hchoice, Option.getD_some]
    rw [hp] at hpart
    generalize (b.updPart p f).dispatchOn l cores = t at hdisp hgangs hlaunches hpart hcores
    refine ⟨t.unblock, l.nextGang (b.updPart p f).nextId cores, congrArg (fun t : State => Host.Outcome.next t.unblock) hdisp, hgangs, rfl, rfl, rfl, rfl,
      rfl, rfl, rfl, hlaunches, hpart, fun k hk n hn => ?_⟩
    obtain ⟨h1, h2, h3, h4, h5, h6⟩ := hcores k hk n hn
    refine ⟨h1, h2, h3, h4, h5, fun j hj => ?_⟩
    intro th
    have hth : th = { t.thread n j with blocked := false } := State.thread_unblock _ n j
    rw [hth]
    exact h6 j hj

end Sys2Proof.Machine
end

section
/-! PROOFS. The ends of triggers, threads, gangs and launches (R57, R66, R78, R82, R94, R263, R264). -/

namespace Sys2Proof.Machine

/-! ### Threads of a gang that has ended (R66) -/

/-- What one step of a fold establishes and every step keeps holds after the fold. -/
theorem foldl_mem_at {σ α : Type} {P : σ → Prop} {f : σ → α → σ} {l : List α} {a : α} (ha : a ∈ l) (hat : ∀ s, P (f s a))
    (ho : ∀ s b, P s → P (f s b)) (s : σ) : P (l.foldl f s) := by
  induction l generalizing s with
  | nil => exact absurd ha List.not_mem_nil
  | cons b l ih =>
    rw [List.foldl_cons]
    rcases List.mem_cons.mp ha with rfl | h
    · have hall : ∀ (l : List α) (s : σ), P s → P (l.foldl f s) := by
        intro l
        induction l with
        | nil => exact fun _ h => h
        | cons c l ihl => exact fun s h => ihl _ (ho s c h)
      exact hall l _ (hat s)
    · exact ih h _

theorem Seq.threads_firmware (q : Seq) (u : Nat) : (q.firmware u).threads = q.threads := by
  simp only [Seq.firmware, apply_ite Seq.threads, ite_self]

theorem State.firmware_keeps {β : Type} (g : State → β) (hs : ∀ s u q, g (State.setSeq s u q) = g s) (hp : ∀ s p f, g (State.updPart s p f) = g s)
    (s : State) (u : Nat) : g (s.firmware u) = g s := by
  unfold State.firmware State.spareEntries
  dsimp only
  split
  · split
    · split
      · exact hs _ _ _
      · rw [hp, hs]
    · exact hs _ _ _
  · rfl

theorem State.thread_firmware (s : State) (u v m : Nat) : (s.firmware u).thread v m = s.thread v m := by
  have hset : (s.setSeq u ((s.seq u).firmware u)).thread v m = s.thread v m := by
    rw [State.thread_setSeq]
    split
    · subst_vars
      rw [Seq.threads_firmware]
      rfl
    · rfl
  unfold State.firmware State.spareEntries
  dsimp only
  split
  · split
    · split
      · exact hset
      · exact hset
    · exact hset
  · rfl

/-- A thread that belongs to nothing any more. -/
def Thread.freed (th : Thread) : Prop := th.status = .idle ∧ th.owner = .none

/-- A thread as it is freed. -/
def Thread.free (th : Thread) : Thread :=
  { th with status := .idle, owner := .none, traps := [], loop := none, trig := none, stopped := false, sleeping := false, waitUntil := 0,
            yielded := [], blocked := false }

theorem State.clearThreads_eq (s : State) (u : Nat) (ts : List Nat) :
    s.clearThreads u ts = ((ts.foldl (fun s t => s.updThread u t Thread.free) s).dropFetches u ts).firmware u := rfl

theorem State.clearThreads_keeps {β : Type} (g : State → β) (hs : ∀ s u q, g (State.setSeq s u q) = g s) (hp : ∀ s p f, g (State.updPart s p f) = g s)
    (hd : ∀ s u ts, g (State.dropFetches s u ts) = g s) (s : State) (u : Nat) (ts : List Nat) : g (s.clearThreads u ts) = g s := by
  rw [State.clearThreads_eq, State.firmware_keeps g hs hp, hd]
  exact foldl_keeps (f := fun s t => s.updThread u t Thread.free) (fun _ _ => hs _ _ _) ts s

theorem State.thread_dropFetches (s : State) (u v m : Nat) (ts : List Nat) : (s.dropFetches u ts).thread v m = s.thread v m := rfl

theorem State.freed_updThread {s : State} {n i : Nat} (u t : Nat) (h : (s.thread n i).freed) : ((s.updThread u t Thread.free).thread n i).freed := by
  rw [State.thread_updThread]
  split
  · exact ⟨rfl, rfl⟩
  · exact h

theorem State.freed_clearThreads {s : State} {n i u : Nat} {ts : List Nat} (h : (n = u ∧ i ∈ ts ∧ i < 4) ∨ (s.thread n i).freed) :
    ((s.clearThreads u ts).thread n i).freed := by
  rw [State.clearThreads_eq, State.thread_firmware, State.thread_dropFetches]
  rcases h with ⟨rfl, hi, h4⟩ | h
  · refine foldl_mem_at (P := fun s : State => (s.thread n i).freed) (f := fun s t => s.updThread n t Thread.free) hi (fun s => ?_)
      (fun s t => State.freed_updThread n t) s
    rw [State.thread_updThread, if_pos ⟨rfl, rfl, h4⟩]
    exact ⟨rfl, rfl⟩
  · have hall : ∀ (ts : List Nat) (s : State), (s.thread n i).freed → ((ts.foldl (fun s t => s.updThread u t Thread.free) s).thread n i).freed := by
      intro ts
      induction ts with
      | nil => exact fun _ h => h
      | cons t ts ih => exact fun s h => ih _ (State.freed_updThread u t h)
    exact hall ts s h

/-- The cores of a gang that has ended, set free one after another. -/
def State.endCores (s : State) (cores : List Nat) : State :=
  cores.foldl (fun s n => (s.clearThreads n (List.range 4)).updCore n (fun k => { k with gang := none, saving := none })) s

theorem State.endCores_keeps {β : Type} (g : State → β) (hs : ∀ s u q, g (State.setSeq s u q) = g s) (hp : ∀ s p f, g (State.updPart s p f) = g s)
    (hd : ∀ s u ts, g (State.dropFetches s u ts) = g s) (hc : ∀ s n f, g (State.updCore s n f) = g s) (s : State) (cores : List Nat) :
    g (s.endCores cores) = g s :=
  foldl_keeps (f := fun s n => (s.clearThreads n (List.range 4)).updCore n (fun k => { k with gang := none, saving := none }))
    (fun s n => (hc _ _ _).trans (State.clearThreads_keeps g hs hp hd s n _)) cores s

theorem State.endCores_free (s : State) {cores : List Nat} {n : Nat} (hn : n ∈ cores) :
    ((s.endCores cores).core n).gang = none ∧ ((s.endCores cores).core n).saving = none ∧ ∀ i < 4, ((s.endCores cores).thread n i).freed := by
  have hcore : ∀ (s : State) (m : Nat), (s.clearThreads m (List.range 4)).core n = s.core n := fun s m =>
    State.clearThreads_keeps (fun s => s.core n) (fun _ _ _ => rfl) (fun _ _ _ => rfl) (fun _ _ _ => rfl) s m _
  refine foldl_mem_at (P := fun t : State => (t.core n).gang = none ∧ (t.core n).saving = none ∧ ∀ i < 4, (t.thread n i).freed)
    (f := fun s n => (s.clearThreads n (List.range 4)).updCore n (fun k => { k with gang := none, saving := none })) hn (fun s => ?_)
    (fun s m ⟨h1, h2, h3⟩ => ?_) s
  · refine ⟨by rw [State.core_updCore_self], by rw [State.core_updCore_self], fun i hi => ?_⟩
    rw [State.thread_updCore]
    exact State.freed_clearThreads (Or.inl ⟨rfl, List.mem_range.mpr hi, hi⟩)
  · refine ⟨?_, ?_, fun i hi => ?_⟩
    · rw [State.core_updCore]
      split
      · rfl
      · rw [hcore]; exact h1
    · rw [State.core_updCore]
      split
      · rfl
      · rw [hcore]; exact h2
    · rw [State.thread_updCore]
      exact State.freed_clearThreads (Or.inr (h3 i hi))

/-! ### THREAD_END (R57, R66) -/

theorem State.gangFlags_updThread (s : State) (k : Gang) (u t : Nat) (f : Thread → Thread) (hf : ∀ th, (f th).flagByte = th.flagByte) :
    (s.updThread u t f).gangFlags k = s.gangFlags k := by
  have hbyte : ∀ n i, ((s.updThread u t f).thread n i).flagByte = (s.thread n i).flagByte := by
    intro n i
    rw [State.thread_updThread]
    split
    · next h => obtain ⟨rfl, rfl, -⟩ := h; exact hf _
    · rfl
  simp only [State.gangFlags, hbyte]
  rfl

/-- The last thread of a gang has ended. -/
theorem State.gangEnd_spec (s : State) (k : Gang) : (s.gangEnd k).mem = s.mem ∧
    (∀ n ∈ k.cores, ((s.gangEnd k).core n).gang = none ∧ ((s.gangEnd k).core n).saving = none ∧ ∀ i < 4, ((s.gangEnd k).thread n i).freed) ∧
    (s.gangEnd k).launches = (s.launches.map (fun x => if x.id = k.launch then { x with
      ended := x.ended + 1, trigEnds := if k.trig = true then x.trigEnds else x.trigEnds + 1, flags := x.flags ||| s.gangFlags k } else x)).map
      (fun x => if k.trig = false ∧ x.prev = some k.launch then { x with notBefore := s.cc + 1 } else x) := by
  have hkeep : ∀ {β : Type} (g : State → β), (∀ s u q, g (State.setSeq s u q) = g s) → (∀ s p f, g (State.updPart s p f) = g s) →
      (∀ s u ts, g (State.dropFetches s u ts) = g s) → (∀ s n f, g (State.updCore s n f) = g s) → g (s.endCores k.cores) = g s :=
    fun g hs hp hd hc => State.endCores_keeps g hs hp hd hc s k.cores
  let s2 := ((s.endCores k.cores).updGang k.id (fun x => { x with ending := true, wells := [] })).updLaunch k.launch (fun x =>
    { x with ended := x.ended + 1, trigEnds := if k.trig then x.trigEnds else x.trigEnds + 1, flags := x.flags ||| s.gangFlags k })
  have hend : s.gangEnd k = if k.trig then s2 else s2.noteTriggered k.launch := rfl
  have hmem : (s.endCores k.cores).mem = s.mem := hkeep State.mem (fun _ _ _ => rfl) (fun _ _ _ => rfl) (fun _ _ _ => rfl) (fun _ _ _ => rfl)
  have hlaunches : (s.endCores k.cores).launches = s.launches :=
    hkeep State.launches (fun _ _ _ => rfl) (fun _ _ _ => rfl) (fun _ _ _ => rfl) (fun _ _ _ => rfl)
  have hcc : (s.endCores k.cores).cc = s.cc := hkeep State.cc (fun _ _ _ => rfl) (fun _ _ _ => rfl) (fun _ _ _ => rfl) (fun _ _ _ => rfl)
  rw [hend]
  cases htrig : k.trig with
  | true =>
    refine ⟨hmem, fun n hn => s.endCores_free hn, ?_⟩
    rw [if_pos rfl]
    simp only [Bool.true_eq_false, false_and, if_false, List.map_id_fun', id_eq]
    show (s.endCores k.cores).launches.map _ = _
    rw [hlaunches]
    simp [htrig]
  | false =>
    refine ⟨hmem, fun n hn => s.endCores_free hn, ?_⟩
    have hs2 : s2.cc = s.cc := hcc
    show ((s.endCores k.cores).launches.map _).map (fun x : Launch => if x.prev = some k.launch then { x with notBefore := s2.cc + 1 } else x) = _
    rw [hlaunches, hs2]
    simp only [htrig, Bool.false_eq_true, if_false, true_and]

/-- A thread whose accesses are over ends. -/
theorem State.threadEnd_last {s : State} {u j g : Nat} {k : Gang} (hst : (s.thread u j).status = .exiting) (ho : (s.thread u j).owner = .gang g)
    (htrig : (s.thread u j).trig = none) (hw : s.writesOut u j = [])
    (hreqs : ∀ r ∈ s.reqs, r.by_.unit = u → r.by_.thr = j → r.op.isWell = false) (hk : s.gangOf g = some k) (hwells : k.wells = [])
    (hfail : s.launchFailed (some k.launch) = false) :
    s.threadEnd u j = (s.updThread u j (fun th => { th with status := .ended })).gangMayEnd g := by
  have hwell : s.reqs.any (fun r => r.by_.unit == u && r.by_.thr == j && r.op.isWell) = false := by
    rw [List.any_eq_false]
    intro r hr
    simp only [Bool.and_eq_true, beq_iff_eq, not_and, Bool.not_eq_true]
    exact fun ⟨h1, h2⟩ => hreqs r hr h1 h2
  have hlaunch : s.ownerLaunch (.gang g) = some k.launch := congrArg (Option.map (fun x : Gang => x.launch)) hk
  have hgang : (s.ownerGang (.gang g)).bind s.gangOf = some k := hk
  unfold State.threadEnd
  simp only [ho, hw, hwell, htrig, hlaunch, hfail, hst, hgang, hwells, List.isEmpty_nil, Bool.not_true, Option.isSome_none, Bool.or_self, Bool.true_or,
    Bool.false_eq_true, if_false, if_true]
  unfold State.threadEnded
  simp only [ho, hk, Option.isSome_some, if_true]

theorem State.gangMayEnd_eq {s : State} {g : Nat} {k : Gang} (hk : s.gangOf g = some k) (he : k.ending = false) :
    s.gangMayEnd g = if ∀ n ∈ k.cores, ∀ i ≤ k.tpc, (s.thread n i).status = .ended then s.gangEnd k else s := by
  have hcond : (!k.ending && k.cores.all (fun n => (List.range (k.tpc + 1)).all (fun t => (s.thread n t).status == .ended))) = true ↔
      ∀ n ∈ k.cores, ∀ i ≤ k.tpc, (s.thread n i).status = .ended := by
    simp only [he, Bool.not_false, Bool.true_and, List.all_eq_true, List.mem_range, Nat.lt_succ_iff, beq_iff_eq]
  unfold State.gangMayEnd
  rw [hk]
  exact if_congr hcond rfl rfl

/-! ### COMPLETION_RECORD (R78, R94) -/

/-- A request with its home in this module, where every other request has its home here too. -/
theorem State.submit_here {s : State} {r : Req} (hall : ∀ q ∈ s.reqs, (∀ slot, q.op ≠ .evict slot) ∧ moduleOf q.pa = s.modreg.toNat % 1024)
    (hloc : moduleOf r.pa = s.modreg.toNat % 1024) (hop : ∀ slot, r.op ≠ .evict slot) :
    s.submit r = (s.walked (tlbUnit r.by_) r.part r.va).pushReq r := by
  rw [State.submit]
  have hmod : ((s.walked (tlbUnit r.by_) r.part r.va).pushReq r).modreg = s.modreg := State.modreg_walked s _ _ _
  refine State.sendReady_here (fun q hq => ?_)
  rcases List.mem_append.mp hq with h | h
  · rw [State.reqs_walked] at h
    obtain ⟨h1, h2⟩ := hall q h
    exact ⟨State.cleanSlot_none h1, by rw [hmod]; exact h2⟩
  · rw [List.mem_singleton.mp h]
    exact ⟨State.cleanSlot_none hop, by rw [hmod]; exact hloc⟩

/-- The record of a launch goes in two pieces, its status word last. -/
theorem State.writeRecord_spec {s : State} {l : Launch} {g : Target} (hd : l.doneAt = some g) (hr : s.reqs = [])
    (hm : moduleOf g.pa = s.modreg.toNat % 1024) (hal : g.pa % 64 = 0) :
    ∃ a b, (s.writeRecord l).reqs = [a, b] ∧ a.by_ = recordIssue l.part l.id ∧ b.by_ = recordIssue l.part l.id ∧ a.pa = g.pa + 4 ∧ b.pa = g.pa ∧
      a.op = .engine none [(0, leBytes 4 l.lwidx.toNat ++ leBytes 8 l.ended ++ leBytes 8 l.tstart ++ leBytes 8 s.cc ++ leBytes 8 l.trigd ++
        leBytes 8 (l.cause.getD (0, 0)).2 ++ leBytes 16 0)] false [] 0 false ∧
      b.op = .engine none [(0, leBytes 4 (2 ^ 31 + (l.cause.getD (0, 0)).1 % 256 * 2 ^ 16 + l.queue % 64 * 2 ^ 8 + l.flags.toNat))] false [] 0 false ∧
      b.release = true ∧ a.id ∈ b.after := by
  have hm4 : moduleOf (g.pa + 4) = s.modreg.toNat % 1024 := by
    rw [← hm, moduleOf, moduleOf]
    omega
  let body := leBytes 4 l.lwidx.toNat ++ leBytes 8 l.ended ++ leBytes 8 l.tstart ++ leBytes 8 s.cc ++ leBytes 8 l.trigd ++
    leBytes 8 (l.cause.getD (0, 0)).2 ++ leBytes 16 0
  let word := leBytes 4 (2 ^ 31 + (l.cause.getD (0, 0)).1 % 256 * 2 ^ 16 + l.queue % 64 * 2 ^ 8 + l.flags.toNat)
  let i := recordIssue l.part l.id
  let put := fun (s : State) (o : Nat) (bs : List Byte) =>
    lineReq s i l.part (l.doneVa + o) bs.length { g with pa := g.pa + o } (.engine none [(0, bs)] false [] 0 false)
  let s1 := s.submit (put s 4 body)
  have hs1 : s1 = { s.walked (tlbUnit i) l.part (l.doneVa + 4) with reqs := [{ put s 4 body with id := s.nextId }], nextId := s.nextId + 1 } :=
    State.submit_first hr hm4 (fun _ => nofun) rfl
  have hrec : s.writeRecord l = s1.submit { put s1 0 word with release := true } := by
    rw [State.writeRecord, hd]
  have hreqs1 : s1.reqs = [{ put s 4 body with id := s.nextId }] := by rw [hs1]
  have hmod1 : s1.modreg = s.modreg := by rw [hs1]; exact State.modreg_walked s _ _ _
  have hs2 : s1.submit { put s1 0 word with release := true } = (s1.walked (tlbUnit i) l.part (l.doneVa + 0)).pushReq { put s1 0 word with release := true } := by
    refine State.submit_here (fun q hq => ?_) (by rw [hmod1]; exact hm) (fun _ => nofun)
    rw [hreqs1] at hq
    rw [List.mem_singleton.mp hq, hmod1]
    exact ⟨fun _ => nofun, hm4⟩
  have hreqs2 : (s1.walked (tlbUnit i) l.part (l.doneVa + 0)).reqs = [{ put s 4 body with id := s.nextId }] := by rw [State.reqs_walked, hreqs1]
  rw [hrec, hs2]
  generalize s1.walked (tlbUnit i) l.part (l.doneVa + 0) = s2 at hreqs2
  refine ⟨{ put s 4 body with id := s.nextId }, { put s1 0 word with release := true, id := s2.nextId, after := s2.accessesOut i.unit i.thr }, ?_, rfl, rfl,
    rfl, rfl, rfl, rfl, rfl, ?_⟩
  · show s2.reqs ++ _ = _
    rw [hreqs2]
    rfl
  · show s.nextId ∈ s2.accessesOut i.unit i.thr
    simp only [State.accessesOut, State.reqsOf, hreqs2]
    simp [put, lineReq, MemOp.isWrite]

@[simp] theorem State.still_writeRecord (s : State) (l : Launch) : (s.writeRecord l).still = s.still := by
  unfold State.writeRecord
  split
  · rfl
  · rw [State.still_submit, State.still_submit]

/-- Settles O47. -/
theorem launchesEnd : Obligations.LaunchesEnd := by
  refine ⟨?_, ?_, fun s l hl => ⟨fun hnd hend hbusy hfaults hissue => ?_, fun hdone hissue hbooks => ?_⟩, fun s u j hs => ?_⟩
  · intro s u j w g k htrig ho hfin hfail hk hkt
    refine congrArg (fun t : State => Host.Outcome.next t.unblock) ?_
    show s.trigger u j = _
    unfold State.trigger
    rw [htrig, ho]
    simp only [hfin, hfail, hk, hkt, Bool.not_true, Bool.or_self, Bool.false_eq_true, if_false]
  · intro s u j g k hst ho htrig hw hreqs hk hwells hending hfail hu hj
    have hended := State.threadEnd_last hst ho htrig hw hreqs hk hwells hfail
    have hmay := State.gangMayEnd_eq (s := s.updThread u j (fun th => { th with status := .ended })) hk hending
    have hstatus : ∀ n i, ((s.updThread u j (fun th => { th with status := .ended })).thread n i).status =
        if n = u ∧ i = j then .ended else (s.thread n i).status := by
      intro n i
      rw [State.thread_updThread]
      simp only [j.isLt, and_true]
      split <;> rfl
    refine ⟨fun ⟨n, hn, i, hi, hne, hrun⟩ => ?_, fun hall => ?_⟩
    · refine congrArg (fun t : State => Host.Outcome.next t.unblock) (hended.trans (hmay.trans (if_neg (fun h => hrun ?_))))
      have := h n hn i hi
      rwa [hstatus, if_neg hne] at this
    · have hlast := hended.trans (hmay.trans (if_pos (fun n hn i hi => by
        rw [hstatus]
        split
        · rfl
        · next h => exact hall n hn i hi h)))
      obtain ⟨hmem, hfree, hlaunches⟩ := State.gangEnd_spec (s.updThread u j (fun th => { th with status := .ended })) k
      rw [State.gangFlags_updThread s k u j (fun th => { th with status := .ended }) (fun _ => rfl)] at hlaunches
      refine ⟨_, congrArg (fun t : State => Host.Outcome.next t.unblock) hlast, hmem, fun n hn => ?_, hlaunches⟩
      obtain ⟨h1, h2, h3⟩ := hfree n hn
      refine ⟨h1, h2, fun i hi => ?_⟩
      rw [State.thread_unblock]
      exact h3 i hi
  · have hdone' : ¬ l.state = .done := hnd
    have hready : ((l.cause.isSome || decide (l.state = .draining)) && !s.launchBusy l.id && s.faults.all (fun f => decide (f.launch ≠ some l.id)) &&
        (l.cause.isNone || !s.issuing (faultIssue l.part))) = true := by
      have h1 : (l.cause.isSome || decide (l.state = .draining)) = true := by
        rw [Bool.or_eq_true, decide_eq_true_eq]
        exact hend.imp (fun h => Option.isSome_iff_ne_none.mpr h) id
      have h3 : s.faults.all (fun f => decide (f.launch ≠ some l.id)) = true := by
        rw [List.all_eq_true]
        exact fun f hf => decide_eq_true (hfaults f hf)
      have h4 : (l.cause.isNone || !s.issuing (faultIssue l.part)) = true := by
        rcases hissue with h | h <;> simp [h]
      rw [h1, hbusy, h3, h4]
      rfl
    have hrec : s.completionRecord l.id = (s.writeRecord l).updLaunch l.id (fun x => { x with state := .done }) := by
      unfold State.completionRecord
      rw [hl]
      dsimp only
      rw [if_neg hdone', if_pos hready]
    have hstill := s.still_writeRecord l
    refine ⟨_, congrArg (fun t : State => Host.Outcome.next t.unblock) hrec, State.mem_of_still (t := s.writeRecord l) hstill, ?_, fun hn => ?_, fun g hg hr hm hal => ?_⟩
    · show (s.writeRecord l).launches.map _ = _
      rw [State.launches_of_still hstill]
    · show (s.writeRecord l).reqs = _
      rw [State.writeRecord, hn]
    · exact State.writeRecord_spec hg hr hm hal
  · have hclose : s.closeBooks l = s := by
      simp only [State.closeBooks, State.bookOf, hbooks, List.find?_nil]
    have hrec : s.completionRecord l.id = s.launchDone l := by
      unfold State.completionRecord
      rw [hl]
      dsimp only
      rw [if_pos hdone, if_neg (by rw [hissue]; exact Bool.false_ne_true)]
    refine ⟨_, congrArg (fun t : State => Host.Outcome.next t.unblock) hrec, ?_⟩
    simp only [State.launchDone, hclose]
    cases hc : l.cause with
    | none => simp
    | some c => exact ⟨rfl, rfl, by simp [State.noteTriggered], rfl⟩
  · refine congrArg (fun t : State => Host.Outcome.next t.unblock) ?_
    show s.sleepExpiry u j = _
    exact if_pos hs

end Sys2Proof.Machine
end

section
/-! PROOFS. Appends and copies as they advance (R138, R162, R164, R171, R172, R174, R266, R267, R269). -/

namespace Sys2Proof.Machine

/-! ### A request among others (R191) -/

/-- A request is out, whatever its status. -/
def State.hasReq (s : State) (x : Req) : Prop := ∃ st, { x with status := st } ∈ s.reqs

theorem State.reqs_evicted (s : State) (core slot id : Nat) : (s.evicted core slot id).reqs = s.reqs :=
  foldl_keeps (g := State.reqs) (f := fun s (r : Req) => State.updCore s core (fun k => k.startFill slot (r.va / 128))) (fun _ _ => rfl) _ _

theorem State.hasReq_updReq {s : State} {x : Req} (h : s.hasReq x) (i : Nat) (f : ReqStatus) : (s.updReq i (fun q => { q with status := f })).hasReq x := by
  obtain ⟨st, hx⟩ := h
  have hm := List.mem_map_of_mem (f := fun r : Req => if r.id = i then { r with status := f } else r) hx
  dsimp only at hm
  split at hm
  · exact ⟨f, hm⟩
  · exact ⟨st, hm⟩

theorem State.hasReq_sendOne {s : State} {x r : Req} (h : s.hasReq x) (hr : r.id = x.id → ∀ slot, r.op ≠ .evict slot) : (s.sendOne r).hasReq x := by
  rw [State.sendOne_eq]
  split
  · exact h
  · split
    · exact h
    · split
      · exact h
      · split
        · next slot hclean =>
          have hne : r.id ≠ x.id := fun hid => by
            rw [State.cleanSlot_none (hr hid)] at hclean
            cases hclean
          obtain ⟨st, hx⟩ := h
          refine ⟨st, List.mem_filter.mpr ⟨?_, bne_iff_ne.mpr (Ne.symm hne)⟩⟩
          rw [State.reqs_evicted]
          exact hx
        · split
          · exact State.hasReq_updReq h _ _
          · have hflit : (s.sendFlit r.part (s.flitOf r)).reqs = s.reqs := by
              unfold State.sendFlit
              split <;> rfl
            have hnote : ∀ (t : State) (ps : List (Nat × Nat)), (t.notePosts r ps).reqs = t.reqs := fun t ps => by
              unfold State.notePosts
              dsimp only
              split <;> rfl
            have hup := State.hasReq_updReq (s := s.sendFlit r.part (s.flitOf r)) (x := x) (by rw [State.hasReq, hflit]; exact h) r.id (.sent s.cc)
            rw [State.hasReq, hnote]
            exact hup

/-- A request that joins the issue order is out. -/
theorem State.submit_hasReq {s : State} {r : Req} (hids : ∀ q ∈ s.reqs, q.id < s.nextId) (hop : ∀ slot, r.op ≠ .evict slot) :
    ∃ x ∈ (s.submit r).reqs, ∃ st af, x = { r with id := s.nextId, after := af, status := st } := by
  let s1 := (s.walked (tlbUnit r.by_) r.part r.va).pushReq r
  obtain ⟨af, hreqs⟩ : ∃ af, s1.reqs = s.reqs ++ [{ r with id := s.nextId, after := af }] := by
    refine ⟨r.after ++ (if r.release then (s.walked (tlbUnit r.by_) r.part r.va).accessesOut r.by_.unit r.by_.thr
      else (s.walked (tlbUnit r.by_) r.part r.va).acquiresOut r.by_.unit r.by_.thr), ?_⟩
    show (s.walked (tlbUnit r.by_) r.part r.va).reqs ++ [_] = _
    rw [State.reqs_walked, State.nextId_walked]
  have hall : ∀ (l : List Req) (t : State), (∀ q ∈ l, q.id = s.nextId → ∀ slot, q.op ≠ .evict slot) →
      t.hasReq { r with id := s.nextId, after := af } → (l.foldl (fun s r => State.sendOne s r) t).hasReq { r with id := s.nextId, after := af } := by
    intro l
    induction l with
    | nil => exact fun _ _ h => h
    | cons q l ih =>
      intro t hl ht
      exact ih _ (fun x hx => hl x (List.mem_cons_of_mem q hx)) (State.hasReq_sendOne ht (hl q List.mem_cons_self))
  have hne : ∀ q ∈ s1.reqs, q.id = s.nextId → ∀ slot, q.op ≠ .evict slot := fun q hq hid => by
    rw [hreqs] at hq
    rcases List.mem_append.mp hq with h | h
    · exact absurd hid (Nat.ne_of_lt (hids q h))
    · rw [List.mem_singleton.mp h]
      exact hop
  obtain ⟨st, hx⟩ := hall s1.reqs s1 hne ⟨r.status, by rw [hreqs]; exact List.mem_append_right _ List.mem_cons_self⟩
  exact ⟨_, hx, st, af, rfl⟩

/-! ### APPEND (R266, R267, R269) -/

theorem State.appends_of_still {s t : State} (h : t.still = s.still) : t.appends = s.appends := by
  change t.still.appends = s.still.appends; rw [h]
theorem State.copies_of_still {s t : State} (h : t.still = s.still) : t.copies = s.copies := by
  change t.still.copies = s.still.copies; rw [h]

/-- The only append of a thread takes its next stage. -/
theorem State.appendStep_only {s : State} {a : Append} {u j : Nat} (ha : s.appends = [a]) (hu : a.by_.unit = u) (hj : a.by_.thr = j)
    (hf : s.agentFault a = none) : s.appendStep u j = match a.stage with
      | 0 => s.appendImage 0 a
      | 1 => s.claim 0 a
      | 2 => s.appendFill 0 a
      | 3 => s.appendPost 0 a
      | _ => s.appendEnd 0 a := by
  unfold State.appendStep
  rw [ha]
  simp only [hu, hj, List.findIdx?_cons, beq_self_eq_true, Bool.and_self, if_true, List.getElem?_cons_zero, hf] <;> rfl

theorem State.setAppend_only {s : State} {a b : Append} (ha : s.appends = [a]) : s.setAppend 0 b = { s with appends := [b] } := by
  rw [State.setAppend, ha]
  rfl

/-- The stages of an append (R267). -/
theorem appendsAdvance (s : State) (a : Append) (u : Fin 224) (j : Fin 4) (ha : s.appends = [a]) (hu : a.by_.unit = u.val) (hj : a.by_.thr = j.val)
    (hf : s.agentFault a = none) :
    (∀ ch, a.stage = 0 → a.kind = .cpyx ch →
      exec (.append u j) s = .next (({ s with appends := [{ a with img := a.packet [], stage := 1 }] } : State).unblock)) ∧
    (∀ s1 bs, a.stage = 0 → (∀ ch, a.kind ≠ .cpyx ch) → s.imageBusy a = false → a.a.toNat % 64 = 0 →
      s.readVa a.issue a.part a.a.toNat 64 = .ok s1 bs false → imageFault (s1.clearInbox a.issue) { a with img := a.packet bs } = none →
      s1.appends = [a] →
      exec (.append u j) s = .next (({ s1.clearInbox a.issue with appends := [{ a with img := a.packet bs, stage := 1 }] } : State).unblock)) ∧
    (∀ g, a.stage = 1 → s.translate a.part a.by_.unit (a.queue s).widx.toNat .atomic = .ok g → s.answered a.issue g = none →
      s.issuing a.issue = false → (∀ q ∈ s.reqs, q.id < s.nextId) →
      ∃ t r, exec (.append u j) s = .next t ∧ t.appends = [a] ∧ t.mem = s.mem ∧ r ∈ t.reqs ∧ r.id = s.nextId ∧ r.by_ = a.issue ∧ r.pa = g.pa ∧
        r.size = 4 ∧ r.op = .amo .add 1 0 a.dst) ∧
    (∀ g m, a.stage = 1 → s.translate a.part a.by_.unit (a.queue s).widx.toNat .atomic = .ok g → s.answered a.issue g = some m → m.cause = 0 →
      let wi : BitVec 32 := BitVec.ofNat 32 (leNat m.bytes)
      exec (.append u j) s = .next (({ (s.updThread u j (fun th =>
          if (s.thread u j).owner = a.by_.owner then th.setX (BitVec.ofNat 5 a.dst) (wi.setWidth 64) else th)).clearInbox a.issue with
        appends := [{ a with stage := 2, wi := wi, slotVa := (a.queue s).ring.toNat + 64 * (wi.toNat % a.ringSize) }] } : State).unblock)) ∧
    (∀ s', a.stage = 2 → (a.wi - (a.queue s).ridx).toNat < a.ringSize →
      s.writeVa a.issue a.part (a.slotVa + 4) (bytesAt a.img 4 60) = .ok s' → s'.appends = [a] →
      exec (.append u j) s = .next (({ s' with appends := [{ a with stage := 3 }] } : State).unblock)) ∧
    (∀ s', a.stage = 3 → s.finished a.after = true → s.issuing a.issue = false →
      s.writeVa a.issue a.part a.slotVa (leBytes 4 (a.wi.toNat / a.ringSize % 65536 * 65536 + a.typeCode * 256)) = .ok s' → s'.appends = [a] →
      exec (.append u j) s = .next ((({ s' with appends := [{ a with stage := 4 }] } : State).noteOrigin a).unblock)) ∧
    (a.stage = 4 → s.issuing a.issue = false → exec (.append u j) s = .next (({ s with appends := [] } : State).unblock)) := by
  have hstep := State.appendStep_only ha hu hj hf
  have hexec : ∀ {t : State}, s.appendStep u j = t → exec (.append u j) s = .next t.unblock :=
    fun h => congrArg (fun t : State => Host.Outcome.next t.unblock) h
  refine ⟨fun ch h0 hk => ?_, fun s1 bs h0 hk hb hal hr hi h1 => ?_, fun g h1 ht hn hi hids => ?_, fun g m h1 ht hs hc => ?_,
    fun s' h2 hlt hw hs' => ?_, fun s' h3 hfin hi hw hs' => ?_, fun h4 hi => ?_⟩
  · refine hexec (hstep.trans ?_)
    rw [h0]
    simp only [State.appendImage, hk, imageFault]
    exact State.setAppend_only ha
  · refine hexec (hstep.trans ?_)
    rw [h0]
    have hread : s.appendImage 0 a = (s1.clearInbox a.issue).setAppend 0 { a with img := a.packet bs, stage := 1 } := by
      unfold State.appendImage
      split
      · next hch => exact absurd hch (hk _)
      · simp only [hb, hal, hr, hi, Bool.false_eq_true, if_false, ne_eq, not_true_eq_false]
    exact hread.trans (State.setAppend_only h1)
  · have hsub : s.claim 0 a = { s.submit (s.claimReq a g) with appends := [a] } := by
      simp only [State.claim, ht, hn, hi, Bool.false_eq_true, if_false]
      exact State.setAppend_only ((State.appends_of_still (s.still_submit _)).trans ha)
    obtain ⟨x, hx, st, af, rfl⟩ := State.submit_hasReq (r := s.claimReq a g) hids (fun _ => nofun)
    refine ⟨({ s.submit (s.claimReq a g) with appends := [a] } : State).unblock, _, hexec (hstep.trans ?_), rfl, ?_, hx, rfl, rfl, rfl, rfl, rfl⟩
    · rw [h1]
      exact hsub
    · exact State.mem_of_still (t := s.submit (s.claimReq a g)) (s.still_submit _)
  · intro wi
    refine hexec (hstep.trans ?_)
    rw [h1, ← hu, ← hj]
    simp only [State.claim, ht, hs, hc, ne_eq, not_true_eq_false, if_false]
    exact State.setAppend_only ha
  · refine hexec (hstep.trans ?_)
    rw [h2]
    simp only [State.appendFill, hlt, if_true, hw]
    exact State.setAppend_only hs'
  · refine hexec (hstep.trans ?_)
    rw [h3]
    simp only [State.appendPost, hfin, hi, Bool.not_false, Bool.and_self, if_true, hw]
    rw [State.setAppend_only hs']
  · refine hexec (hstep.trans ?_)
    rw [h4]
    simp only [State.appendEnd, hi, Bool.false_eq_true, if_false, ha, List.eraseIdx_cons_zero]

end Sys2Proof.Machine
end

section
/-! PROOFS. The start of a copy (R162, R164). -/

namespace Sys2Proof.Machine

/-! ### Reads keep what asking for lines keeps -/

theorem State.readPieces_keeps {β : Type} {g : State → β} (hask : ∀ s i p va t n, g (State.askLine s i p va t n) = g s) (i : Issue) (p : Nat)
    (ps : List (Nat × Nat)) (s : State) : (s.readPieces i p ps).keeps g (g s) := by
  induction ps generalizing s with
  | nil => exact rfl
  | cons x ps ih =>
    have hpiece := State.readPiece_keeps hask s i p x.1 x.2
    rw [State.readPieces]
    split
    · trivial
    · next s' hp =>
      rw [hp] at hpiece
      have hps := ih s'
      rw [show g s' = g s from hpiece] at hps
      split
      · next heq => rw [heq] at hps; exact hps
      · next heq => rw [heq] at hps; exact hps
      · exact hpiece
    · next s' bs b hp =>
      rw [hp] at hpiece
      have hps := ih s'
      rw [show g s' = g s from hpiece] at hps
      split
      · next heq => rw [heq] at hps; exact hps
      · next e hno => exact hps

theorem State.readVa_keeps {β : Type} {g : State → β} (hask : ∀ s i p va t n, g (State.askLine s i p va t n) = g s) (s : State) (i : Issue)
    (p va n : Nat) : (s.readVa i p va n).keeps g (g s) :=
  State.readPieces_keeps hask i p _ s

/-! ### The copies of the state and the queue that they come from -/

/-- What tells one copy from another, which stands from its start. -/
def Copy.head (c : Copy) : Nat × Nat × BitVec 32 × Nat × List Byte := (c.id, c.chan, c.tid, c.part, c.pkt)

/-- The copies, and the queue of a channel up to the packets' origins. -/
def State.lot (s : State) (ch : Nat) : List Copy × Queue := (s.copies, (s.queue .copy ch).bare)

theorem State.lot_of {s t : State} {ch : Nat} (hc : t.copies = s.copies) (hq : (t.queue .copy ch).bare = (s.queue .copy ch).bare) :
    t.lot ch = s.lot ch := by
  rw [State.lot, State.lot, hc, hq]

@[simp] theorem State.lot_submit (s : State) (r : Req) (ch : Nat) : (s.submit r).lot ch = s.lot ch :=
  State.lot_of (State.copies_of_still (s.still_submit r)) (s.bare_submit r .copy ch)
@[simp] theorem State.lot_walked (s : State) (u p va ch : Nat) : (s.walked u p va).lot ch = s.lot ch :=
  State.lot_of (State.copies_of_still (s.still_walked u p va)) (s.bare_walked u p va .copy ch)
@[simp] theorem State.lot_askLine (s : State) (i : Issue) (p va : Nat) (t : Target) (n ch : Nat) : (s.askLine i p va t n).lot ch = s.lot ch := by
  unfold State.askLine
  split
  · rfl
  · exact State.lot_submit _ _ _
theorem State.lot_walkedFor (s : State) (u p cause va ch : Nat) : (s.walkedFor u p cause va).lot ch = s.lot ch := by
  unfold State.walkedFor
  split
  · exact State.lot_walked _ _ _ _ _
  · rfl
theorem State.lot_failLaunch (s : State) (r : FaultRec) (ch : Nat) : (s.failLaunch r).lot ch = s.lot ch := by
  unfold State.failLaunch
  dsimp only
  split <;> split <;> rfl

/-- The copy of a number has begun: each copy of that number, and there is one, has its head; and the channel's RIDX stands. -/
def Begun (i : Nat) (h : Nat × Nat × BitVec 32 × Nat × List Byte) (ridx : BitVec 32) (l : List Copy × Queue) : Prop :=
  (∀ x ∈ l.1, x.id = i → x.head = h) ∧ (∃ x ∈ l.1, x.id = i) ∧ l.2.ridx = ridx

/-- An update of a copy that leaves the heads of copies alone, those of the copy's number or all. -/
theorem Begun.updCopy {s : State} {i ch : Nat} {h : Nat × Nat × BitVec 32 × Nat × List Byte} {ridx : BitVec 32} (hs : Begun i h ridx (s.lot ch)) (j : Nat)
    (f : Copy → Copy) (hf : ∀ x ∈ s.copies, x.id = j → (f x).head = x.head ∨ ((f x).head = h ∧ x.head = h)) :
    Begun i h ridx ((s.updCopy j f).lot ch) := by
  obtain ⟨hall, ⟨x, hx, hxi⟩, hr⟩ := hs
  have hhead : ∀ x ∈ s.copies, ((if x.id = j then f x else x) : Copy).head = x.head := by
    intro x hx
    split
    · next hj =>
      rcases hf x hx hj with h | ⟨h1, h2⟩
      · exact h
      · rw [h1, h2]
    · rfl
  refine ⟨?_, ⟨_, List.mem_map_of_mem hx, ?_⟩, hr⟩
  · intro y hy hyi
    obtain ⟨x, hx, rfl⟩ := List.mem_map.mp hy
    have hxi : x.id = i := (congrArg Prod.fst (hhead x hx)).symm.trans hyi
    rw [hhead x hx]
    exact hall x hx hxi
  · exact (congrArg Prod.fst (hhead x hx)).trans hxi

/-- What a header's reading leaves, whether the header is there or still to come. -/
def HeaderTurn.keeps (P : State → Prop) : HeaderTurn → Prop
  | .ok t _ => P t
  | .fault _ _ _ => True
  | .wait t => P t

theorem Begun.copyFault {s : State} {i ch : Nat} {h : Nat × Nat × BitVec 32 × Nat × List Byte} {ridx : BitVec 32} (hs : Begun i h ridx (s.lot ch)) (c : Copy) (cause addr : Nat) (status : BitVec 32) :
    Begun i h ridx ((s.copyFault c cause addr status).lot ch) := by
  have hw : Begun i h ridx ((s.walkedFor c.unit c.part cause addr).lot ch) := by rw [State.lot_walkedFor]; exact hs
  unfold State.copyFault
  dsimp only
  split
  · exact hw.updCopy c.id (fun x => { x with parked := true, go := false }) (fun _ _ _ => Or.inl rfl)
  · have hstop := hw.updCopy c.id (fun x => { x with stopped := true, ecode := cause }) (fun _ _ _ => Or.inl rfl)
    split
    · rw [State.lot_failLaunch]
      exact hstop
    · exact hstop

theorem Begun.engineRead {s : State} {i ch : Nat} {h : Nat × Nat × BitVec 32 × Nat × List Byte} {ridx : BitVec 32} (hs : Begun i h ridx (s.lot ch)) (e : Nat) : Begun i h ridx ((s.engineRead e).lot ch) := by
  unfold State.engineRead
  dsimp only
  split
  · exact hs
  · split
    · exact hs
    · split
      · exact hs
      · split
        · exact hs
        · next c _ _ _ va n rest _ =>
          have hup := hs.updCopy c.id (fun x => { x with asks := rest }) (fun _ _ _ => Or.inl rfl)
          split
          · exact Begun.copyFault hs _ _ _ _
          · rw [State.lot_askLine]
            exact hup

theorem Begun.copyHeader {s : State} {i ch : Nat} {h : Nat × Nat × BitVec 32 × Nat × List Byte} {ridx : BitVec 32} (hs : Begun i h ridx (s.lot ch)) (c : Copy) (va : Nat) (b : Bool) :
    (s.copyHeader c va b).keeps (fun t => Begun i h ridx (t.lot ch)) := by
  have hread := State.readVa_keeps (g := fun t => State.lot t ch) (fun _ _ _ _ _ _ => State.lot_askLine _ _ _ _ _ _ _) s c.issue c.part va 64
  unfold State.copyHeader
  split
  · trivial
  · split
    · exact hs
    · split
      · exact Begun.engineRead hs _
      · split
        · exact hs.updCopy c.id (fun x => { x with asked := true, asks := s.farPieces c (pieces va 64) }) (fun _ _ _ => Or.inl rfl)
        · split
          · next s1 heq =>
            rw [heq] at hread
            have hlot : s1.lot ch = s.lot ch := hread
            show Begun i h ridx (s1.lot ch)
            rw [hlot]
            exact hs
          · trivial
          · next s1 bs p heq =>
            cases State.readVa_ok heq
            dsimp only
            split_ifs <;> trivial

section
variable {i ch : Nat} {h : Nat × Nat × BitVec 32 × Nat × List Byte} {ridx : BitVec 32} (hi : h.1 = i)
include hi

/-- The copy replaced by one with its head. -/
theorem Begun.put {s : State} {c : Copy} (hs : Begun i h ridx (s.lot ch)) (hc : c.head = h) :
    Begun i h ridx ((s.updCopy c.id (fun _ => c)).lot ch) := by
  have hid : c.id = i := (congrArg Prod.fst hc).trans hi
  refine hs.updCopy c.id (fun _ => c) (fun x hx hxi => Or.inr ⟨hc, hs.1 x hx (hxi.trans hid)⟩)

theorem Begun.copyPrepare {s : State} {c : Copy} (hs : Begun i h ridx (s.lot ch)) (hc : c.head = h) : Begun i h ridx ((s.copyPrepare c).lot ch) := by
  have hput : ∀ c' : Copy, c'.head = c.head → Begun i h ridx ((s.updCopy c'.id (fun _ => c')).lot ch) := fun c' h' => Begun.put hi hs (h'.trans hc)
  have hfault : ∀ (st : Option Target) (w : BitVec 32),
      Begun i h ridx (((s.updCopy c.id (fun _ => { c with stat := st })).copyFault c 0x58 0 w).lot ch) :=
    fun st w => Begun.copyFault (hput { c with stat := st } rfl) c 0x58 0 w
  unfold State.copyPrepare
  dsimp only
  split
  · exact hfault _ _
  · split
    · split
      · exact Begun.copyFault hs _ _ _ _
      · next g _ => exact hput { c with stat := some g } rfl
    · split
      · have hturn := Begun.copyHeader hs c c.src (c.bmap == 2)
        split
        · next heq => rw [heq] at hturn; exact hturn
        · exact Begun.copyFault (hput { c with asked := false } rfl) _ _ _ _
        · next x heq => rw [heq] at hturn; exact Begun.put hi (c := { c with asked := false, sh := some x }) hturn hc
      · split
        · have hturn := Begun.copyHeader hs c c.dst false
          split
          · next heq => rw [heq] at hturn; exact hturn
          · exact Begun.copyFault (hput { c with asked := false } rfl) _ _ _ _
          · next x heq => rw [heq] at hturn; exact Begun.put hi (c := { c with asked := false, dh := some x }) hturn hc
        · split
          · split
            · exact Begun.copyFault hs _ _ _ _
            · split
              · next g _ _ _ _ _ => exact hput { c with well := some g } rfl
              · exact Begun.copyFault hs _ _ _ _
          · split
            · exact Begun.copyFault hs _ _ _ _
            · split
              · exact Begun.copyFault hs _ _ _ _
              · exact hput { c with ready := true, core := s.coreAtVa c.part c.unit (s.copyTensors c).2.base } rfl

theorem Begun.copyPrepareAll (n : Nat) {s : State} (hs : Begun i h ridx (s.lot ch)) : Begun i h ridx ((s.copyPrepareAll i n).lot ch) := by
  induction n generalizing s with
  | zero => exact hs
  | succ n ih =>
    rw [State.copyPrepareAll]
    split
    · exact hs
    · next c hc =>
      have hhead : c.head = h := hs.1 c (List.mem_of_find?_eq_some hc) (by simpa using List.find?_some hc)
      split
      · exact hs
      · exact ih (Begun.copyPrepare hi hs hhead)

end

/-! ### COPY_START (R164) -/

theorem State.bare_passSlotOf (s : State) (k : QueueKind) (n : Nat) : ((s.passSlotOf k n).queue k n).ridx = (s.queue k n).ridx + 1 := by
  have hpost : ∀ (t : State) (i : Issue) (p va : Nat) (bs : List Byte), ((t.post i p va bs).queue k n).bare = (t.queue k n).bare :=
    fun t i p va bs => State.bare_postPieces _ _ _ _ _ _ _ _ _
  have hridx := congrArg Queue.ridx (hpost (s.updQueue k n (fun x => { x with
    ridx := x.ridx + 1, line := none, origins := eraseAt ((s.queue k n).ridx.toNat % k.ring) x.origins }))
    (mirrorIssue (s.queue k n).part) (s.queue k n).part ((s.queue k n).widx.toNat + 4) (leBytes 4 ((s.queue k n).ridx + 1).toNat))
  refine hridx.trans ?_
  rw [State.updQueue_eq, State.queue_putQueue_self]
  rfl

/-- A packet of a copy queue becomes a copy. -/
theorem copyStarts (s s0 : State) (ch : Fin 256) (pkt : List Byte) (hen : (s.copyQueue ch).en = true) (hlen : (s.copiesOn ch).length < 8)
    (hdown : s.engineDown ch = false) (hpkt : s.ringPacket .copy ch = .packet s0 pkt)
    (hfail : ∀ l, ((s.copyQueue ch).originAt ((s.copyQueue ch).ridx.toNat % 1024)).bind (fun o => o.launch) = some l → s.launchFailed (some l) = false)
    (hids : ∀ c ∈ s.copies, c.id < s.nextId) :
    ∃ t, exec (.copyStart ch) s = .next t ∧ (t.copyQueue ch).ridx = (s.copyQueue ch).ridx + 1 ∧
      ∃ c ∈ t.copies, c.id = s.nextId ∧ c.chan = ch.val ∧ c.tid = (s.copyQueue ch).ridx ∧ c.part = (s.copyQueue ch).part ∧ c.pkt = pkt := by
  cases State.ringPacket_state hpkt
  let q := s.copyQueue ch
  let c : Copy :=
    { id := s.nextId, chan := ch, tid := q.ridx, part := q.part, origin := q.originAt (q.ridx.toNat % 1024), pkt := pkt, ready := false, sh := none,
      dh := none, stat := none, well := none, core := none, row := 0, off := 0, asks := [], asked := false, landings := [], held := [], progress := 0,
      flags := 0, ecode := 0, parked := false, go := false, stopped := false, finished := false, reported := false }
  let s1 := s.fresh.takePacket .copy ch
  have hplain : s1.plain = s.fresh.plain := State.plain_takePacket s.fresh .copy ch
  have hcopies : s1.copies = s.copies := by
    change s1.plain.copies = s.fresh.plain.copies
    rw [hplain]
  have hok : ¬ s.launchFailed c.launch = true := by
    cases hcl : c.launch with
    | none => exact Bool.false_ne_true
    | some l =>
      rw [hfail l hcl]
      exact Bool.false_ne_true
  have hstart : s.copyStart ch = ({ s1 with copies := s1.copies ++ [c] } : State).copyPrepareAll c.id 8 := by
    unfold State.copyStart
    dsimp only
    rw [if_neg (by simp only [hen, hdown, Bool.not_true, Bool.false_or, Bool.or_false, decide_eq_true_eq]; omega), hpkt]
    dsimp only
    exact if_neg hok
  have hridx : (s1.queue .copy ch).ridx = q.ridx + 1 := State.bare_passSlotOf s.fresh .copy ch
  have hbegun : Begun s.nextId c.head (q.ridx + 1) (({ s1 with copies := s1.copies ++ [c] } : State).lot ch) := by
    refine ⟨fun x hx hxi => ?_, ⟨c, List.mem_append_right _ List.mem_cons_self, rfl⟩, hridx⟩
    rcases List.mem_append.mp hx with h | h
    · rw [hcopies] at h
      exact absurd hxi (Nat.ne_of_lt (hids x h))
    · rw [List.mem_singleton.mp h]
  obtain ⟨hall, ⟨x, hx, hxi⟩, hr⟩ := Begun.copyPrepareAll (i := s.nextId) rfl 8 hbegun
  have hhead := hall x hx hxi
  simp only [Copy.head, Prod.mk.injEq] at hhead
  exact ⟨_, congrArg (fun t : State => Host.Outcome.next t.unblock) hstart, hr, x, hx, hhead⟩

end Sys2Proof.Machine
end

section
/-! PROOFS. The units, landings and ends of copies (R138, R160, R164, R170 to R174). -/

namespace Sys2Proof.Machine

/-! ### The only copy (R160, R164) -/

theorem channel_ofNat {n : Nat} (h : n < 256) : (Fin.ofNat 256 n).val = n := Nat.mod_eq_of_lt h

/-- The turn of an engine goes to the only channel that has something for it. -/
theorem nextChannel_only {ch last : Nat} {f : Nat → Bool} (hf : ∀ n, f n = true ↔ n = ch) : nextChannel (ch / 16) last f = some ch := by
  have hmem : ch ∈ (List.range 16).map (fun i => 16 * (ch / 16) + (last + 1 + i) % 16) := by
    refine List.mem_map.mpr ⟨(ch % 16 + 15 - last % 16) % 16, List.mem_range.mpr (by omega), ?_⟩
    omega
  cases hx : nextChannel (ch / 16) last f with
  | none => exact absurd ((hf ch).mpr rfl) (List.find?_eq_none.mp hx ch hmem)
  | some x => rw [(hf x).mp (List.find?_some hx)]

theorem State.copyOf_only {s : State} {c : Copy} (h : s.copies = [c]) : s.copyOf c.id = some c := by
  simp [State.copyOf, h]

theorem State.updCopy_only {s : State} {c : Copy} (h : s.copies = [c]) (f : Copy → Copy) : s.updCopy c.id f = { s with copies := [f c] } := by
  simp [State.updCopy, h]

/-- What is found among the copies of a channel, where there is one copy. -/
theorem State.copiesOn_find {s : State} {c : Copy} (h : s.copies = [c]) (ch : Nat) (f : Copy → Bool) :
    (s.copiesOn ch).find? f = if ch = c.chan ∧ f c = true then some c else none := by
  rw [State.copiesOn, h]
  by_cases hch : c.chan = ch
  · subst hch
    simp [List.find?_cons]
    cases f c <;> rfl
  · simp [hch, Ne.symm hch]

/-! ### COPY_UNIT (R160, R170) -/

/-- One line of the only copy that has lines to ask for. -/
theorem State.engineRead_only {b : State} {k : Copy} {va n : Nat} {rest : List (Nat × Nat)} {g : Target} (hb : b.copies = [k])
    (ha : k.asks = (va, n) :: rest) (hs : k.stopped = false) (hi : b.issuedNow k.unit false < 16) (ht : b.translate k.part k.unit va .read = .ok g) :
    b.engineRead (k.chan / 16) = ({ b.updCopy k.id (fun x => { x with asks := rest }) with
      engines := insertAt (k.chan / 16) (k.chan % 16, (lookup (0, 0) (k.chan / 16) b.engines).2) b.engines } : State).askLine k.issue k.part va g n := by
  have hask : ∀ ch, b.asking ch = if ch = k.chan then some k else none := by
    intro ch
    rw [State.asking, State.copiesOn_find hb]
    simp [ha, hs]
  have hnext : nextChannel (k.chan / 16) (lookup (0, 0) (k.chan / 16) b.engines).1 (fun ch => (b.asking ch).isSome) = some k.chan := by
    refine nextChannel_only (fun n => ?_)
    rw [hask]
    split <;> simp [*]
  have hself : b.asking k.chan = some k := (hask k.chan).trans (if_pos rfl)
  have hfew : ¬ engineLines ≤ b.issuedNow k.unit false := Nat.not_le.mpr hi
  unfold State.engineRead
  dsimp only
  rw [hnext]
  dsimp only
  rw [hself]
  dsimp only
  rw [if_neg hfew, ha]
  dsimp only
  rw [ht]

/-- The only copy goes on with its units. -/
theorem State.copyUnit_only {s : State} {c : Copy} (hc : s.copies = [c]) (hready : c.ready = true) (hstop : c.stopped = false) (hfin : c.finished = false)
    (hfail : s.launchFailed c.launch = false) (hdown : s.engineDown c.chan = false) (hruns : s.copyRuns c = true)
    (hwait : c.asked = false → c.trans = true → c.landings = [] ∧ (s.updCopy c.id (fun _ => { c with parked := false, go := false })).copyOut
      { c with parked := false, go := false } = false) :
    s.copyUnit c.chan c.id = (s.updCopy c.id (fun _ => { c with parked := false, go := false })).nextUnit_ { c with parked := false, go := false } := by
  let k : Copy := { c with parked := false, go := false }
  let b := s.updCopy c.id (fun _ => k)
  have hb : b.copies = [k] := by rw [show b = { s with copies := [k] } from State.updCopy_only hc _]
  have hbehind : b.copyBehind k = false := by
    rw [State.copyBehind, State.copiesOn, hb]
    simp [k]
  have hturn : (!k.asked && (b.copyBehind k || (k.trans && (!k.landings.isEmpty || b.copyOut k)))) = false := by
    rw [hbehind]
    cases ha : c.asked with
    | true => simp [k, ha]
    | false =>
      cases htr : c.trans with
      | false => simp [k, Copy.trans, Copy.word] at htr ⊢; simp [htr]
      | true =>
        obtain ⟨hl, ho⟩ := hwait ha htr
        have hk : k.landings = [] := hl
        have hout : b.copyOut k = false := ho
        simp only [hk, hout, List.isEmpty_nil, Bool.not_true, Bool.or_self, Bool.and_false]
  unfold State.copyUnit
  rw [State.copyOf_only hc]
  dsimp only
  rw [if_neg (by simp [hstop, hfin, hdown]), if_neg (by rw [hfail]; exact Bool.false_ne_true), if_neg (by rw [hruns]; exact Bool.false_ne_true),
    if_neg (by rw [hready]; exact Bool.false_ne_true)]
  exact if_neg (by rw [hturn]; exact Bool.false_ne_true)

/-- A unit that meets no fault is planned, and what it must ask for is noted. -/
theorem State.nextUnit_plans {b d : State} {k : Copy} {t : Tensor × Tensor} {pl : UnitPlan} (ht : b.copyTensors k = t) (hpl : k.plan t.1 t.2 = pl)
    (ha : k.asked = false) (has : k.asks = []) (hr : b.firstFault k.part k.unit .read pl.reads = none)
    (hw : b.firstFault k.part k.unit .write pl.writes = none)
    (hd : (k.bulk = false ∧ d = b) ∨ (k.bulk = true ∧ b.bulkLines k (b.bulkSide k pl.reads pl.writes) = .ok d)) :
    b.nextUnit_ k = d.updCopy k.id (fun x => { x with asked := true, asks := d.farPieces k (pl.reads.flatMap (fun r => pieces r.1 r.2)) }) := by
  unfold State.nextUnit_
  simp only [ht, hpl, has, ha, hr, hw, List.isEmpty_nil, Bool.not_true, Bool.not_false, Bool.false_eq_true, if_false, if_true]
  rcases hd with ⟨hb, rfl⟩ | ⟨hb, hd⟩
  · rw [if_neg (by rw [hb]; exact Bool.false_ne_true)]
  · rw [if_pos hb, hd]

/-- A unit whose bytes have come is issued. -/
theorem State.nextUnit_issues {b s' : State} {k : Copy} {t : Tensor × Tensor} {pl : UnitPlan} {bs : List Byte} {poison : Bool}
    (ht : b.copyTensors k = t) (hpl : k.plan t.1 t.2 = pl) (ha : k.asked = true) (has : k.asks = [])
    (hread : b.readPieces k.issue k.part (pl.reads.flatMap (fun r => pieces r.1 r.2)) = .ok s' bs poison)
    (hbm : k.bmap = 2 → bitmapAgrees (k.sh.getD (headerOf [])) ((splitSnap pl.reads bs).bytes t.1.base (bitmapBytes (t.1.rows * t.1.cols)))
      (t.1.rows * t.1.cols) = true) :
    b.nextUnit_ k = (s'.clearInbox k.issue).issueUnit k { pl.after with asked := false } t.1 t.2 (splitSnap pl.reads bs) poison := by
  unfold State.nextUnit_
  simp only [ht, hpl, has, ha, hread, List.isEmpty_nil, Bool.not_true, Bool.false_eq_true, if_false]
  refine if_neg (fun h => ?_)
  simp only [Bool.and_eq_true, decide_eq_true_eq, Bool.not_eq_true'] at h
  rw [hbm h.1] at h
  cases h.2

/-- The units of a copy: planned, asked for line by line, and issued from what the lines hold. -/
theorem copyUnits (s : State) (c : Copy) (hc : s.copies = [c]) (hch : c.chan < 256) (hready : c.ready = true) (hstop : c.stopped = false)
    (hfin : c.finished = false) (hfail : s.launchFailed c.launch = false) (hdown : s.engineDown c.chan = false) (hruns : s.copyRuns c = true) :
    let k := { c with parked := false, go := false }
    let b := s.updCopy c.id (fun _ => k)
    let t := b.copyTensors k
    let pl := k.plan t.1 t.2
    let ps := pl.reads.flatMap (fun r => pieces r.1 r.2)
    (∀ d, c.asked = false → c.asks = [] → (c.trans = true → c.landings = [] ∧ b.copyOut k = false) →
      b.firstFault c.part c.unit .read pl.reads = none → b.firstFault c.part c.unit .write pl.writes = none →
      ((c.bulk = false ∧ d = b) ∨ (c.bulk = true ∧ b.bulkLines k (b.bulkSide k pl.reads pl.writes) = .ok d)) →
      exec (.copyUnit (Fin.ofNat 256 c.chan) c.id) s =
        .next ((d.updCopy c.id (fun x => { x with asked := true, asks := d.farPieces k ps })).unblock)) ∧
    (∀ va n rest g, c.asked = true → c.asks = (va, n) :: rest → b.issuedNow c.unit false < 16 → b.translate c.part c.unit va .read = .ok g →
      exec (.copyUnit (Fin.ofNat 256 c.chan) c.id) s =
        .next ((({ b.updCopy c.id (fun x => { x with asks := rest }) with
          engines := insertAt (c.chan / 16) (c.chan % 16, (lookup (0, 0) (c.chan / 16) s.engines).2) s.engines } : State).askLine
          c.issue c.part va g n).unblock)) ∧
    (∀ s' bs poison, c.asked = true → c.asks = [] → b.readPieces c.issue c.part ps = .ok s' bs poison →
      (c.bmap = 2 → bitmapAgrees (c.sh.getD (headerOf [])) ((splitSnap pl.reads bs).bytes t.1.base (bitmapBytes (t.1.rows * t.1.cols)))
        (t.1.rows * t.1.cols) = true) →
      exec (.copyUnit (Fin.ofNat 256 c.chan) c.id) s =
        .next (((s'.clearInbox c.issue).issueUnit k { pl.after with asked := false } t.1 t.2 (splitSnap pl.reads bs) poison).unblock)) := by
  intro k b t pl ps
  have hexec : ∀ {x : State}, s.copyUnit c.chan c.id = x → exec (.copyUnit (Fin.ofNat 256 c.chan) c.id) s = .next x.unblock := fun {x} h => by
    show Host.Outcome.next (s.copyUnit (Fin.ofNat 256 c.chan).val c.id).unblock = _
    rw [channel_ofNat hch, h]
  refine ⟨fun d ha has htr hr hw hd => ?_, fun va n rest g ha has hi ht => ?_, fun s' bs poison ha has hread hbm => ?_⟩
  · refine hexec ((State.copyUnit_only hc hready hstop hfin hfail hdown hruns (fun _ => htr)).trans ?_)
    exact State.nextUnit_plans (t := t) (pl := pl) rfl rfl ha has hr hw hd
  · refine hexec ((State.copyUnit_only hc hready hstop hfin hfail hdown hruns (fun h => ?_)).trans ?_)
    · rw [ha] at h; cases h
    · have hb : b.copies = [k] := by rw [show b = { s with copies := [k] } from State.updCopy_only hc _]
      have hread := State.engineRead_only (k := k) hb has hstop hi ht
      have has' : (!k.asks.isEmpty) = true := by show (!c.asks.isEmpty) = true; rw [has]; rfl
      unfold State.nextUnit_
      dsimp only
      rw [if_pos has']
      exact hread
  · refine hexec ((State.copyUnit_only hc hready hstop hfin hfail hdown hruns (fun h => ?_)).trans ?_)
    · rw [ha] at h; cases h
    · exact State.nextUnit_issues (t := t) (pl := pl) rfl rfl ha has hread hbm

/-! ### COPY_LANDING (R138, R171) -/

theorem State.endBank_view (s : State) : s.view.endBank = s.endBank := by
  funext c va
  rw [State.endBank, State.endBank, State.translate_view]
  rfl
theorem State.endStored_view (s : State) : s.view.endStored = s.endStored := by
  funext c t
  rw [State.endStored, State.endStored, State.endBank_view]
theorem State.copyEnds_view (s : State) : s.view.copyEnds = s.copyEnds := by
  funext c
  rw [State.copyEnds, State.copyEnds, State.endStored_view]
theorem State.copyTensors_view (s : State) : s.view.copyTensors = s.copyTensors := by
  funext c
  rw [State.copyTensors, State.copyTensors, State.copyEnds_view]
theorem State.completes_of_view {s t : State} (h : t.view = s.view) : t.completes = s.completes := by
  funext c l rest
  rw [State.completes, State.completes, ← State.copyTensors_view t, h, State.copyTensors_view]

/-- The oldest piece of the only copy lands. -/
theorem State.copyLanding_only {s : State} {c : Copy} {l : Landing} {rest : List Landing} (hc : s.copies = [c])
    (hl : c.landings = l :: rest) (hdown : s.engineDown c.chan = false) (hi : s.issuedNow c.unit true < 16) :
    ∃ e, s.copyLanding c.chan c.id = ({ s with engines := e } : State).landPiece c l rest := by
  have hland : ∀ ch, s.landing ch = if ch = c.chan then some c else none := by
    intro ch
    rw [State.landing, State.copiesOn_find hc]
    simp [hl]
  have hnext : nextChannel (c.chan / 16) (lookup (0, 0) (c.chan / 16) s.engines).2 (fun n => (s.landing n).isSome) = some c.chan := by
    refine nextChannel_only (fun n => ?_)
    rw [hland]
    split <;> simp [*]
  have hself : s.landing c.chan = some c := (hland c.chan).trans (if_pos rfl)
  have hfew : ¬ engineLines ≤ s.issuedNow c.unit true := Nat.not_le.mpr hi
  refine ⟨insertAt (c.chan / 16) ((lookup (0, 0) (c.chan / 16) s.engines).1, c.chan % 16) s.engines, ?_⟩
  unfold State.copyLanding
  rw [State.copyOf_only hc]
  dsimp only
  rw [if_neg (by simp [hl, hdown]), hnext, Option.bind_some, hself]
  dsimp only
  rw [if_neg hfew, hl]

end Sys2Proof.Machine
end

section
/-! PROOFS. What lands at a home, and the ends of copies (R138, R171, R172, R174). -/

namespace Sys2Proof.Machine

/-! ### Bytes by their place -/

theorem cells_eq (l : Landing) : l.cells = (List.range l.bytes.length).map (fun i => (l.pa + i, l.bytes.getD i 0, decide (0 < l.count))) := rfl

/-- The byte of a landing at a place. -/
theorem find_cells {l : Landing} {x : Nat} (h : x < l.bytes.length) :
    l.cells.find? (fun e => e.1 == l.pa + x) = some (l.pa + x, l.bytes.getD x 0, decide (0 < l.count)) := by
  have hfind : (List.range l.bytes.length).find? (fun i => l.pa + i == l.pa + x) = some x := by
    rw [List.find?_range_eq_some]
    refine ⟨beq_self_eq_true _, List.mem_range.mpr h, fun j hj => ?_⟩
    simp only [Bool.not_eq_true', beq_eq_false_iff_ne]
    omega
  rw [cells_eq, List.find?_map]
  show Option.map _ ((List.range l.bytes.length).find? (fun i => l.pa + i == l.pa + x)) = _
  rw [hfind]
  rfl

/-- Sixteen at a time, or one after another. -/
theorem flatMap_blocks {α : Type} (f : Nat → α) (m : Nat) :
    (List.range m).flatMap (fun j => (List.range 16).map (fun i => f (16 * j + i))) = (List.range (16 * m)).map f := by
  induction m with
  | zero => rfl
  | succ m ih =>
    rw [@List.range_succ m, List.flatMap_append, ih, show 16 * (m + 1) = 16 * m + 16 from rfl, List.range_add, List.map_append, List.map_map,
      List.flatMap_singleton]
    rfl

/-- Bytes one after another join to one piece. -/
theorem joinParts_bytes (o : Nat) (bs : List Byte) (h : bs ≠ []) :
    joinParts ((List.range bs.length).map (fun i => (o + i, [bs.getD i 0]))) = [(o, bs)] := by
  induction bs generalizing o with
  | nil => exact absurd rfl h
  | cons b bs ih =>
    rw [List.length_cons, List.range_succ_eq_map, List.map_cons, List.map_map]
    cases bs with
    | nil => rfl
    | cons b' bs' =>
      have htail : (List.range (b' :: bs').length).map ((fun i => (o + i, [(b :: b' :: bs').getD i 0])) ∘ Nat.succ) =
          (List.range (b' :: bs').length).map (fun i => (o + 1 + i, [(b' :: bs').getD i 0])) := by
        refine List.map_congr_left (fun i _ => ?_)
        rw [Function.comp_apply, List.getD_cons_succ, Nat.succ_eq_add_one, show o + (i + 1) = o + 1 + i by omega]
      rw [htail, joinParts, ih (o + 1) (List.cons_ne_nil _ _)]
      simp

/-! ### Whole granules of a scratchpad (R138, R171) -/

section
variable {l : Landing} {core off : Nat} (hloc : locate (localOf l.pa) = .scratch core off) (hal : l.pa % 16 = 0) (hlen : l.bytes.length % 16 = 0)
  (hline : l.pa % 128 + l.bytes.length ≤ 128)

include hloc in
theorem locate_scratch : scratchBase ≤ localOf l.pa ∧ off = (localOf l.pa - scratchBase) % 0x200000 := by
  unfold locate at hloc
  split_ifs at hloc with _ hs
  cases hloc
  simp only [Bool.and_eq_true, decide_eq_true_eq] at hs
  exact ⟨hs.1, rfl⟩

include hloc hal hline in
/-- The offsets of the bytes of such a landing. -/
theorem offset_of_cell {i : Nat} (hi : i < l.bytes.length) :
    (localOf (l.pa + i) - scratchBase) % 0x200000 = off + i ∧ off % 16 = 0 ∧ off ≤ l.pa ∧ off % 128 = l.pa % 128 := by
  obtain ⟨hge, hoff⟩ := locate_scratch hloc
  have h42 : localOf (l.pa + i) = localOf l.pa + i := by unfold localOf; omega
  unfold scratchBase at *
  have hle : localOf l.pa ≤ l.pa := Nat.mod_le _ _
  have hmod : localOf l.pa % 128 = l.pa % 128 := by unfold localOf; omega
  omega

include hloc hal hline in
/-- Every byte of the landing is of one line and of a granule that it completes. -/
theorem cells_whole : l.cells.filter (fun e => l.pa / 128 == e.1 / 128 &&
    (granulesOf off l.bytes.length).contains (((localOf e.1 - scratchBase) % 0x200000) / 16)) = l.cells := by
  rw [List.filter_eq_self]
  intro e he
  rw [cells_eq] at he
  obtain ⟨i, hi, rfl⟩ := List.mem_map.mp he
  have hi := List.mem_range.mp hi
  obtain ⟨ho, h16, -, -⟩ := offset_of_cell hloc hal hline hi
  dsimp only
  rw [ho, Bool.and_eq_true, beq_iff_eq, List.contains_iff_mem, granulesOf, if_neg (by omega)]
  refine ⟨by omega, List.mem_map.mpr ⟨i / 16, List.mem_range.mpr (by omega), by omega⟩⟩

include hloc hal hlen hline in
/-- Its granules, each with its sixteen bytes. -/
theorem parts_whole (hne : l.bytes ≠ []) :
    ((granulesOf off l.bytes.length).filterMap (fun k =>
      let a := l.pa - off + 16 * k
      let bs := (List.range 16).filterMap (fun i => (l.cells.find? (fun e => e.1 == a + i)).map (fun e => (i, e.2.1)))
      if bs.isEmpty then none else some (a - l.pa / 128 * 128, bs))).flatMap (fun p => p.2.map (fun b => (p.1 + b.1, [b.2]))) =
    (List.range l.bytes.length).map (fun i => (l.pa % 128 + i, [l.bytes.getD i 0])) := by
  have hpos := List.length_pos_iff.mpr hne
  obtain ⟨-, h16, hle, hmod⟩ := offset_of_cell hloc hal hline hpos
  have hcount : (off + l.bytes.length - 1) / 16 - off / 16 + 1 = l.bytes.length / 16 := by omega
  have hgs : granulesOf off l.bytes.length = (List.range (l.bytes.length / 16)).map (fun j => off / 16 + j) := by
    rw [granulesOf, if_neg (by omega), hcount]
  have hpart : ∀ j ∈ List.range (l.bytes.length / 16), ((fun k =>
      let a := l.pa - off + 16 * k
      let bs := (List.range 16).filterMap (fun i => (l.cells.find? (fun e => e.1 == a + i)).map (fun e => (i, e.2.1)))
      if bs.isEmpty then none else some (a - l.pa / 128 * 128, bs)) ∘ (fun j => off / 16 + j)) j =
      some (l.pa % 128 + 16 * j, (List.range 16).map (fun i => (i, l.bytes.getD (16 * j + i) 0))) := by
    intro j hj
    have hj := List.mem_range.mp hj
    have hbs : (List.range 16).filterMap (fun i => (l.cells.find? (fun e => e.1 == l.pa - off + 16 * (off / 16 + j) + i)).map (fun e => (i, e.2.1))) =
        (List.range 16).map (fun i => (i, l.bytes.getD (16 * j + i) 0)) := by
      rw [← List.filterMap_eq_map]
      refine List.filterMap_congr (fun i hi => ?_)
      have hi := List.mem_range.mp hi
      rw [show l.pa - off + 16 * (off / 16 + j) + i = l.pa + (16 * j + i) by omega, find_cells (by omega)]
      rfl
    show (if _ then none else some (l.pa - off + 16 * (off / 16 + j) - l.pa / 128 * 128, _)) = _
    rw [hbs, show l.pa - off + 16 * (off / 16 + j) - l.pa / 128 * 128 = l.pa % 128 + 16 * j by omega]
    rfl
  rw [hgs, List.filterMap_map, List.filterMap_congr hpart]
  show (((List.range (l.bytes.length / 16)).filterMap (some ∘ _)).flatMap _) = _
  rw [List.filterMap_eq_map, List.flatMap_map]
  have hblocks := flatMap_blocks (fun i => (l.pa % 128 + i, [l.bytes.getD i 0])) (l.bytes.length / 16)
  rw [show 16 * (l.bytes.length / 16) = l.bytes.length by omega] at hblocks
  rw [← hblocks]
  refine List.flatMap_congr (fun j _ => ?_)
  rw [List.map_map]
  refine List.map_congr_left (fun i _ => ?_)
  simp only [Function.comp_apply, Nat.add_assoc]

end

/-- What a step that ends with a request on its way leaves. -/
theorem State.submit_unblock {s : State} {r : Req} (hids : ∀ q ∈ s.reqs, q.id < s.nextId) (hop : ∀ slot, r.op ≠ .evict slot) :
    (s.submit r).unblock.mem = s.mem ∧ (s.submit r).unblock.copies = s.copies ∧
    ∃ x ∈ (s.submit r).unblock.reqs, ∃ st af, x = { r with id := s.nextId, after := af, status := st } :=
  ⟨State.mem_of_still (t := s.submit r) (s.still_submit r), State.copies_of_still (t := s.submit r) (s.still_submit r), State.submit_hasReq hids hop⟩

/-! ### COPY_LANDING (R138, R171) -/

/-- A piece for HBM goes to its home. -/
theorem State.landPiece_hbm {s : State} {c : Copy} {l : Landing} {rest : List Landing} {b off : Nat} (hloc : locate (localOf l.pa) = .hbm b off) :
    s.landPiece c l rest = (s.updCopy c.id (fun x => { x with landings := rest })).submit
      (lineReq (s.updCopy c.id (fun x => { x with landings := rest })) c.issue c.part l.va l.bytes.length ⟨l.pa, l.cls, l.kslot⟩
        (.engine (some c.id) [(0, l.bytes)] false [] l.count l.poison)) := by
  unfold State.landPiece
  rw [hloc]

/-- A piece that completes no granule stays with the engine. -/
theorem State.landPiece_held {s : State} {c : Copy} {l : Landing} {rest : List Landing} {core off : Nat}
    (hloc : locate (localOf l.pa) = .scratch core off) (hcs : s.completes c l rest = []) (hsc : l.scales = []) :
    ∃ held, s.landPiece c l rest = s.updCopy c.id (fun x => { x with landings := rest, held := held }) := by
  unfold State.landPiece
  rw [hloc]
  dsimp only
  rw [hcs, hsc]
  exact ⟨_, rfl⟩

/-- A piece that completes every granule it reaches goes to the bank unit together with their bits. -/
theorem State.landPiece_whole {s : State} {c : Copy} {l : Landing} {rest : List Landing} {core off : Nat}
    (hloc : locate (localOf l.pa) = .scratch core off) (hheld : c.held = []) (hne : l.bytes ≠ []) (hal : l.pa % 16 = 0)
    (hlen : l.bytes.length % 16 = 0) (hline : l.pa % 128 + l.bytes.length ≤ 128) (hcs : s.completes c l rest = granulesOf off l.bytes.length) :
    s.landPiece c l rest = (s.updCopy c.id (fun x => { x with landings := rest, held := [] })).submit
      { lineReq (s.updCopy c.id (fun x => { x with landings := rest, held := [] })) c.issue c.part l.va 128 ⟨l.pa / 128 * 128, l.cls, l.kslot⟩
          (.engine (some c.id) [(l.pa % 128, l.bytes)] true l.scales (if 0 < l.count then l.bytes.length else 0) l.poison) with
        va := l.va / 128 * 128 } := by
  have hoff : (localOf l.pa - scratchBase) % 0x200000 = off := (locate_scratch hloc).2.symm
  have hmine := cells_whole hloc hal hline
  have hrest : l.cells.filter (fun e => !(l.pa / 128 == e.1 / 128 &&
      (granulesOf off l.bytes.length).contains (((localOf e.1 - scratchBase) % 0x200000) / 16))) = [] := by
    rw [List.filter_eq_nil_iff]
    intro e he
    rw [← hmine] at he
    rw [(List.mem_filter.mp he).2]
    exact Bool.false_ne_true
  have hparts := parts_whole hloc hal hlen hline hne
  have hjoin := joinParts_bytes (l.pa % 128) l.bytes hne
  have hsome : ((List.range l.bytes.length).map (fun i => (l.pa % 128 + i, [l.bytes.getD i 0]))).isEmpty = false := by
    rw [List.isEmpty_eq_false_iff, ne_eq, List.map_eq_nil_iff, List.range_eq_nil, List.length_eq_zero_iff]
    exact hne
  have hcount : (l.cells.filter (fun e => e.2.2)).length = if 0 < l.count then l.bytes.length else 0 := by
    rw [cells_eq, List.filter_map, List.length_map]
    by_cases h : 0 < l.count
    · rw [if_pos h]
      simp [Function.comp_def, h]
    · rw [if_neg h]
      simp [Function.comp_def, h]
  unfold State.landPiece
  rw [hloc]
  dsimp only
  rw [hcs, hoff, hheld, List.map_nil, List.append_nil, hmine, hrest, hparts, hjoin, hsome, hcount]
  rfl

/-- The oldest piece of a copy lands. -/
theorem copiesLand (s : State) (c : Copy) (l : Landing) (rest : List Landing) (hc : s.copies = [c]) (hch : c.chan < 256)
    (hl : c.landings = l :: rest) (hdown : s.engineDown c.chan = false) (hi : s.issuedNow c.unit true < 16) (hids : ∀ q ∈ s.reqs, q.id < s.nextId) :
    (∀ b off, locate (localOf l.pa) = .hbm b off →
      ∃ t r, exec (.copyLanding (Fin.ofNat 256 c.chan) c.id) s = .next t ∧ t.mem = s.mem ∧ t.copies = [{ c with landings := rest }] ∧ r ∈ t.reqs ∧
        r.id = s.nextId ∧ r.by_ = c.issue ∧ r.pa = l.pa ∧ r.op = .engine (some c.id) [(0, l.bytes)] false [] l.count l.poison) ∧
    (∀ core off, locate (localOf l.pa) = .scratch core off → s.completes c l rest = [] → l.scales = [] →
      ∃ t, exec (.copyLanding (Fin.ofNat 256 c.chan) c.id) s = .next t ∧ t.mem = s.mem ∧ t.reqs = s.reqs ∧
        ∃ x, t.copies = [x] ∧ x.landings = rest) ∧
    (∀ core off, locate (localOf l.pa) = .scratch core off → c.held = [] → l.bytes ≠ [] → l.pa % 16 = 0 → l.bytes.length % 16 = 0 →
      l.pa % 128 + l.bytes.length ≤ 128 → s.completes c l rest = granulesOf off l.bytes.length →
      ∃ t r, exec (.copyLanding (Fin.ofNat 256 c.chan) c.id) s = .next t ∧ t.mem = s.mem ∧ t.copies = [{ c with landings := rest }] ∧ r ∈ t.reqs ∧
        r.id = s.nextId ∧ r.by_ = c.issue ∧ r.pa = l.pa / 128 * 128 ∧
        r.op = .engine (some c.id) [(l.pa % 128, l.bytes)] true l.scales (if 0 < l.count then l.bytes.length else 0) l.poison) := by
  obtain ⟨e, hland⟩ := State.copyLanding_only hc hl hdown hi
  have hcs : ({ s with engines := e } : State).completes = s.completes := State.completes_of_view rfl
  have hexec : ∀ {x : State}, ({ s with engines := e } : State).landPiece c l rest = x →
      exec (.copyLanding (Fin.ofNat 256 c.chan) c.id) s = .next x.unblock := fun {x} h => by
    show Host.Outcome.next (s.copyLanding (Fin.ofNat 256 c.chan).val c.id).unblock = _
    rw [channel_ofNat hch, hland, h]
  have hupd : ∀ f : Copy → Copy, ({ s with engines := e } : State).updCopy c.id f = { s with engines := e, copies := [f c] } :=
    fun f => State.updCopy_only (s := { s with engines := e }) hc f
  refine ⟨fun b off hloc => ?_, fun core off hloc hno hsc => ?_, fun core off hloc hheld hne hal hlen hline hwhole => ?_⟩
  · have hpiece := State.landPiece_hbm (s := { s with engines := e }) (c := c) (rest := rest) hloc
    rw [hupd] at hpiece
    generalize hr : lineReq _ c.issue c.part l.va l.bytes.length ⟨l.pa, l.cls, l.kslot⟩ _ = r at hpiece
    obtain ⟨hmem, hcopies, x, hx, st, af, rfl⟩ := State.submit_unblock (s := { s with engines := e, copies := [{ c with landings := rest }] }) (r := r) hids
      (fun _ => by rw [← hr]; nofun)
    exact ⟨_, _, hexec hpiece, hmem, hcopies, hx, rfl, by rw [← hr]; rfl, by rw [← hr]; rfl, by rw [← hr]; rfl⟩
  · obtain ⟨held, hpiece⟩ := State.landPiece_held (s := { s with engines := e }) (c := c) (rest := rest) hloc (by rw [hcs]; exact hno) hsc
    rw [hupd] at hpiece
    exact ⟨_, hexec hpiece, rfl, rfl, _, rfl, rfl⟩
  · have hpiece := State.landPiece_whole (s := { s with engines := e }) (c := c) (rest := rest) hloc hheld hne hal hlen hline (by rw [hcs]; exact hwhole)
    rw [hupd] at hpiece
    generalize hr : lineReq _ c.issue c.part l.va 128 ⟨l.pa / 128 * 128, l.cls, l.kslot⟩ _ = r at hpiece
    obtain ⟨hmem, hcopies, x, hx, st, af, rfl⟩ := State.submit_unblock (s := { s with engines := e, copies := [{ c with landings := rest, held := [] }] })
      (r := { r with va := l.va / 128 * 128 }) hids (fun _ => by rw [← hr]; nofun)
    exact ⟨_, _, hexec hpiece, hmem, hcopies.trans (by rw [← hheld]), hx, rfl, by rw [← hr]; rfl,
      by rw [← hr]; rfl, by rw [← hr]; rfl⟩

/-! ### COPY_COMPLETE (R172, R174) -/

theorem State.copyQueue_updCopyQ (s : State) (ch : Nat) (f : Queue → Queue) : (s.updCopyQ ch f).copyQueue ch = f (s.copyQueue ch) :=
  lookup_insertAt_self Queue.reset ch _ s.copyQ

/-- A copy whose bytes have landed ends. -/
theorem copiesEnd (s : State) (c : Copy) (hc : s.copies = [c]) (hch : c.chan < 256) (hend : c.finished = true ∨ c.stopped = true)
    (hpark : c.parked = false ∨ c.stopped = true) (hl : c.landings = []) (ho : s.copyOut c = false) (hids : ∀ q ∈ s.reqs, q.id < s.nextId) :
    (∀ g, c.stat = some g → c.reported = false →
      ∃ t r, exec (.copyComplete (Fin.ofNat 256 c.chan) c.id) s = .next t ∧ t.mem = s.mem ∧ t.copies = [{ c with reported := true }] ∧ r ∈ t.reqs ∧
        r.id = s.nextId ∧ r.by_ = c.issue ∧ r.pa = g.pa ∧ r.size = 8 ∧
        r.op = .engine none [(0, leBytes 8 (c.tid.toNat * 2 ^ 32 + 2 ^ 31 + c.ecode % 256 * 2 ^ 16 + c.flags.toNat))] true [] 0 false) ∧
    ((c.stat = none ∨ c.reported = true) →
      ∃ t, exec (.copyComplete (Fin.ofNat 256 c.chan) c.id) s = .next t ∧ t.copies = [] ∧ t.mem = s.mem ∧
        (t.copyQueue c.chan).doneid = (s.copyQueue c.chan).ridx) := by
  have hexec : ∀ {x : State}, s.copyComplete c.chan c.id = x → exec (.copyComplete (Fin.ofNat 256 c.chan) c.id) s = .next x.unblock := fun {x} h => by
    show Host.Outcome.next (s.copyComplete (Fin.ofNat 256 c.chan).val c.id).unblock = _
    rw [channel_ofNat hch, h]
  have hover : (c.finished || c.stopped) = true := by rcases hend with h | h <;> simp [h]
  have hgo : (c.parked && !c.stopped) = false := by rcases hpark with h | h <;> simp [h]
  have hcond : ¬ (decide (c.chan ≠ c.chan) || !(c.finished || c.stopped) || (c.parked && !c.stopped) || !c.landings.isEmpty || s.copyOut c) = true := by
    simp [hover, hgo, hl, ho]
  refine ⟨fun g hg hrep => ?_, fun hrep => ?_⟩
  · have hword : statusWord c.tid.toNat c.ecode c.flags.toNat = c.tid.toNat * 2 ^ 32 + 2 ^ 31 + c.ecode % 256 * 2 ^ 16 + c.flags.toNat := by
      rw [statusWord, Nat.mod_eq_of_lt c.tid.isLt, Nat.mod_eq_of_lt c.flags.isLt]
    have hcomp : s.copyComplete c.chan c.id = ({ s with copies := [{ c with reported := true }] } : State).submit (lineReq s c.issue c.part c.statVa 8 g
        (.engine none [(0, leBytes 8 (c.tid.toNat * 2 ^ 32 + 2 ^ 31 + c.ecode % 256 * 2 ^ 16 + c.flags.toNat))] true [] 0 false)) := by
      unfold State.copyComplete
      rw [State.copyOf_only hc]
      dsimp only
      rw [if_neg hcond, if_pos (by simp [hg, hrep]), State.updCopy_only hc, hword]
      split
      · next g' hg' => cases hg.symm.trans hg'; rfl
      · next hn => cases hg.symm.trans hn
    generalize hr : lineReq s c.issue c.part c.statVa 8 g _ = r at hcomp
    obtain ⟨hmem, hcopies, x, hx, st, af, rfl⟩ := State.submit_unblock (s := { s with copies := [{ c with reported := true }] }) (r := r) hids
      (fun _ => by rw [← hr]; nofun)
    exact ⟨_, _, hexec hcomp, hmem, hcopies, hx, rfl, by rw [← hr]; rfl, by rw [← hr]; rfl,
      by rw [← hr]; rfl, by rw [← hr]; rfl⟩
  · have hnone : s.copies.filter (fun x => x.id != c.id) = [] := by simp [hc]
    have hcomp : s.copyComplete c.chan c.id = (({ s with copies := [] } : State).clearInbox c.issue).updCopyQ c.chan
        (fun q => { q with doneid := (s.copyQueue c.chan).ridx }) := by
      unfold State.copyComplete
      rw [State.copyOf_only hc]
      dsimp only
      rw [if_neg hcond, if_neg (by rcases hrep with h | h <;> simp [h]), hnone]
      rfl
    refine ⟨_, hexec hcomp, rfl, rfl, ?_⟩
    exact congrArg Queue.doneid (State.copyQueue_updCopyQ (({ s with copies := [] } : State).clearInbox c.issue) c.chan
      (fun q => { q with doneid := (s.copyQueue c.chan).ridx }))

/-- Settles O48. -/
theorem appendsAndCopiesAdvance : Obligations.AppendsAndCopiesAdvance :=
  ⟨fun s a u j ha hu hj hf => appendsAdvance s a u j ha hu hj hf,
   fun s s0 ch pkt hen hlen hdown hpkt hfail hids => copyStarts s s0 ch pkt hen hlen hdown hpkt hfail hids,
   fun s c hc hch hready hstop hfin hfail hdown hruns => copyUnits s c hc hch hready hstop hfin hfail hdown hruns,
   fun s c l rest hc hch _ hl hdown hi hids => copiesLand s c l rest hc hch hl hdown hi hids,
   fun s c hc hch hend hpark hl ho hids => copiesEnd s c hc hch hend hpark hl ho hids⟩

end Sys2Proof.Machine
end

section
/-! PROOFS. Quill tasks that start (R182, R183). -/

namespace Sys2Proof.Machine

/-! ### Numbers only rise -/

theorem State.nextId_submit (s : State) (r : Req) : (s.submit r).nextId = s.nextId + 1 := by
  have hsend : ∀ t : State, t.sendReady.nextId = t.nextId := fun t =>
    foldl_keeps (State.sendOne_keeps State.nextId
      (fun s c sl i => foldl_keeps (g := State.nextId) (f := fun s (r : Req) => State.updCore s c (fun k => k.startFill sl (r.va / 128))) (fun _ _ => rfl) _ _)
      (fun _ _ => rfl) (fun _ _ _ => rfl) (fun _ _ _ => by unfold State.sendFlit; split <;> rfl)
      (fun _ _ _ => by unfold State.notePosts; dsimp only; split <;> rfl)) t.reqs t
  rw [State.submit, hsend]
  show (s.walked _ _ _).nextId + 1 = _
  rw [State.nextId_walked]

theorem State.nextId_postPieces (i : Issue) (p : Nat) (k : Access) (rel : Bool) (ps : List (Nat × Nat)) (s : State) (bs : List Byte) :
    s.nextId ≤ (s.postPieces i p k rel ps bs).nextId := by
  induction ps generalizing s bs with
  | nil => exact Nat.le_refl _
  | cons x ps ih =>
    rw [State.postPieces]
    split
    · exact Nat.le_trans (by rw [State.nextId_submit]; exact Nat.le_succ _) (ih _ _)
    · exact Nat.le_trans (by rw [State.nextId_walked]) (ih _ _)

theorem State.nextId_takePacket (s : State) (k : QueueKind) (n : Nat) : s.nextId ≤ (s.takePacket k n).nextId := by
  have hupd : ∀ f, (s.updQueue k n f).nextId = s.nextId := fun f => by cases k <;> rfl
  exact Nat.le_trans (Nat.le_of_eq (hupd _).symm) (State.nextId_postPieces _ _ _ _ _ _ _)

/-! ### TASK_START (R182, R183) -/

/-- The threads that a task starts, each with its number. -/
def State.startTask (s : State) (u : Nat) (code : Word) (pre : Nat → List (Nat × Word)) (o : Owner) (ts : List Nat) : State :=
  (List.range ts.length).foldl (fun s n => s.updThread u (ts.getD n 0) (fun th => th.start code (pre n) o)) s

theorem State.thread_startTask (s : State) (u : Nat) (code : Word) (pre : Nat → List (Nat × Word)) (o : Owner) {ts : List Nat} (hts : ts.Nodup)
    (h4 : ∀ x ∈ ts, x < 4) {m : Nat} (hm : m < ts.length) :
    ∃ th : Thread, (s.startTask u code pre o ts).thread u ts[m] = th.start code (pre m) o := by
  have hget : ∀ j, (hj : j < ts.length) → ts.getD j 0 = ts[j] := fun j hj => List.getD_eq_getElem ts 0 hj
  refine foldl_range_at (P := fun s : State => ∃ th : Thread, s.thread u ts[m] = th.start code (pre m) o) (k := m)
    (f := fun s n => s.updThread u (ts.getD n 0) (fun th => th.start code (pre n) o)) (fun s => ⟨s.thread u ts[m], ?_⟩) hm
    (fun s j hj hjm ⟨th, h⟩ => ⟨th, ?_⟩) s
  · rw [State.thread_updThread, hget m hm, if_pos ⟨rfl, rfl, h4 _ (List.getElem_mem hm)⟩]
  · rw [State.thread_updThread, hget j hj, if_neg (fun hc => hjm ((List.Nodup.getElem_inj_iff hts).mp hc.2.1.symm)), h]

theorem State.startTask_keeps {β : Type} (g : State → β) (ht : ∀ s u q, g (State.setSeq s u q) = g s) (s : State) (u : Nat) (code : Word)
    (pre : Nat → List (Nat × Word)) (o : Owner) (ts : List Nat) : g (s.startTask u code pre o ts) = g s :=
  foldl_keeps (f := fun s n => s.updThread u (ts.getD n 0) (fun th => th.start code (pre n) o)) (fun _ _ => ht _ _ _) _ s

theorem State.freeThreads_spec (s : State) (u n : Nat) :
    ((s.freeThreads u).take n).Nodup ∧ ∀ x ∈ (s.freeThreads u).take n, x < 4 := by
  refine ⟨((List.nodup_range).filter _).sublist (List.take_sublist _ _), fun x hx => ?_⟩
  exact List.mem_range.mp (List.mem_filter.mp (List.mem_of_mem_take hx)).1

/-- A task packet becomes a task on the lowest free threads. -/
theorem tasksStart (s s0 : State) (q : Fin 32) (pkt : List Byte) :
    let k := s.taskQueue q
    let u := 192 + q.val
    let n := bitsOf (fieldAt pkt 4 4) 1 0 + 1
    let ts := (s.freeThreads u).take n
    k.en = true → (s.seq u).retired = false → (s.island (islandOfUnit u)).stopped = false → s.ringPacket .task q = .packet s0 pkt →
    s.launchFailed ((k.originAt (k.ridx.toNat % 256)).bind (fun o => o.launch)) = false → taskInvalid pkt = none → fieldAt pkt 32 8 = 0 →
    ts.length = n → (∀ x ∈ s.tasks, x.id < s.nextId) →
    ∃ t x, exec (.taskStart q) s = .next t ∧ t.tasks = s.tasks ++ [x] ∧ x.quill = q.val ∧ x.threads = ts ∧ x.idx = k.ridx ∧
      (t.taskQueue q).ridx = k.ridx + 1 ∧
      ∀ m, (h : m < ts.length) →
        let th := t.thread u ts[m]
        th.pc = BitVec.ofNat 64 (fieldAt pkt 8 8) ∧ th.owner = .task x.id ∧ th.status = .run ∧ th.getX 23 = BitVec.ofNat 64 (fieldAt pkt 16 8) ∧
        th.getX 24 = BitVec.ofNat 64 (fieldAt pkt 24 8) ∧ th.getX 28 = BitVec.ofNat 64 q.val ∧ th.getX 29 = BitVec.ofNat 64 m := by
  intro k u n ts hen hret hstop hpkt hfail hinv hstat hlen hids
  cases State.ringPacket_state hpkt
  obtain ⟨read, hread⟩ : ∃ r, r = s.takePacket .task q := ⟨_, rfl⟩
  let o := k.originAt (k.ridx.toNat % 256)
  let x : Task :=
    { id := read.nextId, quill := q, part := k.part, gang := (o.bind (fun x => read.ownerGang x.by_.owner)), launch := o.bind (fun x => x.launch),
      threads := ts, idx := k.ridx, statVa := fieldAt pkt 32 8, stat := none, parked := false, go := false, done := none, posted := false }
  let pre := fun (n : Nat) => [(23, BitVec.ofNat 64 (fieldAt pkt 16 8)), (24, BitVec.ofNat 64 (fieldAt pkt 24 8)), (28, BitVec.ofNat 64 q.val),
    (29, BitVec.ofNat 64 n)]
  obtain ⟨s1, hs1⟩ : ∃ s1, s1 = ({ read.fresh with tasks := read.tasks ++ [x] } : State) := ⟨_, rfl⟩
  obtain ⟨s2, hs2⟩ : ∃ s2, s2 = s1.startTask u (BitVec.ofNat 64 (fieldAt pkt 8 8)) pre (.task x.id) ts := ⟨_, rfl⟩
  have hplain : read.plain = s.plain := hread ▸ State.plain_takePacket s .task q
  have htasks : s2.tasks = s.tasks ++ [x] := by
    have h : s2.tasks = s1.tasks := hs2 ▸ State.startTask_keeps State.tasks (fun _ _ _ => rfl) s1 _ _ _ _ _
    have hr : read.tasks = s.tasks := (congrArg State.tasks hplain :)
    rw [h, hs1, ← hr]
  have hof : s2.taskOf x.id = some x := by
    rw [State.taskOf, htasks, List.find?_append, List.find?_eq_none.mpr, Option.none_or]
    · simp
    · intro y hy
      have hle : s.nextId ≤ read.nextId := hread ▸ State.nextId_takePacket s .task q
      have hlt := hids y hy
      have hx : x.id = read.nextId := rfl
      simp only [beq_iff_eq]
      omega
  have hstart : s.taskStart q = s2 := by
    have hbegin : read.beginTask q k o pkt ts = s2 := by
      have hstill : s2.taskStat x.id = s2 := by
        rw [State.taskStat, hof]
        exact if_pos (by simp [x, hstat])
      rw [← hstill, hs2, hs1]
      rfl
    have hgo : ¬ (!k.en || (s.seq u).retired || (s.island (islandOfUnit u)).stopped) = true := by
      rw [hen, hret, hstop]
      exact Bool.false_ne_true
    unfold State.taskStart
    refine (if_neg hgo).trans ?_
    rw [hpkt]
    dsimp only
    rw [← hread]
    rw [if_neg (by rw [hfail]; exact Bool.false_ne_true), hinv]
    dsimp only
    exact (if_neg (by rw [hlen]; exact Nat.lt_irrefl _)).trans hbegin
  have hridx : (s2.taskQueue q).ridx = k.ridx + 1 := by
    have h : s2.taskQ = s1.taskQ := hs2 ▸ State.startTask_keeps State.taskQ (fun _ _ _ => rfl) s1 _ _ _ _ _
    rw [State.taskQueue, h, hs1, hread]
    exact State.bare_passSlotOf s .task q
  refine ⟨s2.unblock, x, congrArg (fun t : State => Host.Outcome.next t.unblock) hstart, htasks, rfl, rfl, rfl, hridx, fun m hm => ?_⟩
  obtain ⟨hnodup, h4⟩ := s.freeThreads_spec u n
  obtain ⟨th, hth⟩ := State.thread_startTask s1 u (BitVec.ofNat 64 (fieldAt pkt 8 8)) pre (.task x.id)
    hnodup h4 hm
  have hth' : s2.unblock.thread u ts[m] = { th.start (BitVec.ofNat 64 (fieldAt pkt 8 8)) (pre m) (.task x.id) with blocked := false } := by
    rw [State.thread_unblock, hs2, hth]
  intro th'
  have : th' = _ := hth'
  rw [this]
  refine ⟨rfl, rfl, rfl, ?_⟩
  simp [Thread.start, Thread.getX, Vector.getD, pre]

end Sys2Proof.Machine
end


section
/-! PROOFS. A bank cycle with one request in it, and the well operations (R176, R177, R464). -/

namespace Sys2Proof.Machine

/-! ### Reading bytes after a write -/

theorem memRead_length (m : List Host.Cell) (a n : Nat) : (memRead m a n).length = n := by simp [memRead]

theorem memRead_congr {m m' : List Host.Cell} {a n : Nat} (h : ∀ j, a ≤ j → j < a + n → memGet m j = memGet m' j) :
    memRead m a n = memRead m' a n :=
  List.map_congr_left fun i hi => h (a + i) (by omega) (by have := List.mem_range.1 hi; omega)

theorem memRead_memWrite_self {m : List Host.Cell} (hm : Memory.wf m = true) (a : Nat) (bs : List Byte) :
    memRead (memWrite m a bs) a bs.length = bs := by
  refine List.ext_getElem (memRead_length _ _ _) fun i h1 h2 => ?_
  simp only [memRead, List.getElem_map, List.getElem_range]
  rw [memGet_memWrite bs a (a + i) hm, if_pos ⟨by omega, by omega⟩]
  simp [h2]

/-! ### A well's words -/

theorem signExt_32_range (v : Nat) : -(2 ^ 31) ≤ signExt 32 v ∧ signExt 32 v < 2 ^ 31 := by
  unfold signExt
  split <;> omega

theorem signExt_twos {v : Int} (hlo : -(2 ^ 31) ≤ v) (hhi : v < 2 ^ 31) : signExt 32 (twos 32 v) = v := by
  unfold signExt twos
  split <;> omega

theorem twos_lt (v : Int) : twos 32 v < 2 ^ 32 := by unfold twos; omega

/-- The counts that a well's two words can hold. -/
def WellWord.InRange (w : WellWord) : Prop := w.expect < 1024 ∧ w.pend < 1024 ∧ -(2 ^ 31) ≤ w.bytes ∧ w.bytes < 2 ^ 31

theorem State.wellAt_inRange (s : State) (pa : Nat) : (s.wellAt pa).InRange := by
  obtain ⟨hlo, hhi⟩ := signExt_32_range (leNat (memRead s.mem (pa + 4) 4))
  exact ⟨Nat.mod_lt _ (by decide), Nat.mod_lt _ (by decide), hlo, hhi⟩

theorem State.wellAt_congr {s t : State} {pa : Nat} (h : ∀ a, pa ≤ a → a < pa + 8 → memGet t.mem a = memGet s.mem a) :
    t.wellAt pa = s.wellAt pa := by
  have h1 : memRead t.mem pa 4 = memRead s.mem pa 4 := memRead_congr fun j hj hj' => h j hj (by omega)
  have h2 : memRead t.mem (pa + 4) 4 = memRead s.mem (pa + 4) 4 := memRead_congr fun j hj hj' => h j (by omega) (by omega)
  rw [State.wellAt, State.wellAt, h1, h2]

theorem State.partBit_congr {s t : State} {pa me : Nat} (h : memGet t.mem (pa + 16 + me / 8) = memGet s.mem (pa + 16 + me / 8)) :
    t.partBit pa me = s.partBit pa me := by rw [State.partBit, State.partBit, h]

theorem State.putWell_wf {s : State} (hm : Memory.wf s.mem = true) (pa : Nat) (w : WellWord) : Memory.wf (s.putWell pa w).mem = true :=
  memWrite_wf _ _ (memWrite_wf _ _ hm)

/-- Writing a well's counts changes its first 8 bytes alone. -/
theorem State.memGet_putWell {s : State} (hm : Memory.wf s.mem = true) {pa : Nat} (w : WellWord) {a : Nat} (ha : a < pa ∨ pa + 8 ≤ a) :
    memGet (s.putWell pa w).mem a = memGet s.mem a := by
  unfold State.putWell
  rw [memGet_memWrite _ _ _ (memWrite_wf _ _ hm), leBytes_length, if_neg (by omega), memGet_memWrite _ _ _ hm, leBytes_length,
    if_neg (by omega)]

/-- A well reads as it was written, of counts that its words can hold (R175). -/
theorem State.wellAt_putWell {s : State} (hm : Memory.wf s.mem = true) (pa : Nat) {w : WellWord} (hw : w.InRange) :
    (s.putWell pa w).wellAt pa = w := by
  obtain ⟨he, hp, hlo, hhi⟩ := hw
  obtain ⟨old, hold⟩ : ∃ n, n = bitsOf (leNat (memRead s.mem pa 4)) 30 20 := ⟨_, rfl⟩
  have hold' : old < 2048 := hold ▸ Nat.mod_lt _ (by decide)
  obtain ⟨v, hv⟩ : ∃ v, v = (if w.phase then 2 ^ 31 else 0) + old * 2 ^ 20 + w.expect % 1024 * 2 ^ 10 + w.pend % 1024 := ⟨_, rfl⟩
  have hmem : (s.putWell pa w).mem = memWrite (memWrite s.mem pa (leBytes 4 v)) (pa + 4) (leBytes 4 (twos 32 w.bytes)) := by
    rw [hv, hold]
    rfl
  have hwf := memWrite_wf (leBytes 4 v) pa hm
  have hlt : v < 2 ^ 32 := by
    rw [hv]
    split <;> omega
  have hword : leNat (memRead (s.putWell pa w).mem pa 4) = v := by
    have h4 : memRead (memWrite s.mem pa (leBytes 4 v)) pa 4 = leBytes 4 v := by
      simpa using memRead_memWrite_self hm pa (leBytes 4 v)
    rw [hmem, memRead_congr (m' := memWrite s.mem pa (leBytes 4 v)), h4, leNat_leBytes]
    · exact Nat.mod_eq_of_lt hlt
    · intro j _ hj
      rw [memGet_memWrite _ _ _ hwf, if_neg (by omega)]
  have hbytes : leNat (memRead (s.putWell pa w).mem (pa + 4) 4) = twos 32 w.bytes := by
    have h4 := memRead_memWrite_self hwf (pa + 4) (leBytes 4 (twos 32 w.bytes))
    rw [leBytes_length] at h4
    rw [hmem, h4, leNat_leBytes]
    exact Nat.mod_eq_of_lt (twos_lt _)
  have hphase : (bitsOf v 31 31 == 1) = w.phase := by
    rw [hv]
    cases w.phase <;> simp [bitsOf] <;> omega
  have hexpect : bitsOf v 19 10 = w.expect := by
    rw [hv]
    unfold bitsOf
    split <;> omega
  have hpend : bitsOf v 9 0 = w.pend := by
    rw [hv]
    unfold bitsOf
    split <;> omega
  rw [State.wellAt, hword, hbytes, signExt_twos hlo hhi, hphase, hexpect, hpend]

/-- What completes is in range where the counts before it were (R176). -/
theorem WellWord.complete_inRange {w : WellWord} (hw : w.InRange) : w.complete.InRange := by
  obtain ⟨he, hp, hb⟩ := hw
  unfold WellWord.complete
  split
  · exact ⟨he, he, hb⟩
  · exact ⟨he, hp, hb⟩

/-! ### A bank cycle that takes one request -/

/-- The state in which a core's bank unit serves its cycle: the time of it has come (R133). -/
def State.bankReady (s : State) (core t c : Nat) : State := ({ s with now := t } : State).updCore core (fun k => { k with bankAt := c + 1 })

/-- What a bank cycle may take does not depend on the time nor on the cycles served, and a later cycle takes it too. -/
theorem State.bankTakes_ready {s : State} {core c c' t t' n n' : Nat} {r : Req} (hc : c ≤ c')
    (h : (s.bankReady core t n).bankTakes core c r = true) : (s.bankReady core t' n').bankTakes core c' r = true := by
  have helig : (s.bankReady core t' n').eligible r = (s.bankReady core t n).eligible r := by
    have hcore : ∀ m, ((s.bankReady core t' n').core m).tags = ((s.bankReady core t n).core m).tags := fun m => by
      simp only [State.bankReady, State.core_updCore]
      split <;> rfl
    have hslot : (s.bankReady core t' n').slotSettled r = (s.bankReady core t n).slotSettled r := by
      unfold State.slotSettled CoreArr.tag
      simp only [hcore]
    have horder : (s.bankReady core t' n').inOrder r = (s.bankReady core t n).inOrder r := by
      unfold State.inOrder
      rw [hslot]
      rfl
    unfold State.eligible
    rw [horder]
    rfl
  have hfull : ∀ off, ((s.bankReady core t' n').core core).granuleFull off = ((s.bankReady core t n).core core).granuleFull off := fun off => by
    simp only [State.bankReady, State.core_updCore, if_true]
    rfl
  have hisl : ∀ i, (s.bankReady core t' n').island i = (s.bankReady core t n).island i := fun _ => rfl
  unfold State.bankTakes at h ⊢
  rw [helig, hisl]
  simp only [hfull]
  split at h
  next m off hloc =>
    simp only [Bool.and_eq_true, Bool.or_eq_true, decide_eq_true_eq] at h ⊢
    obtain ⟨⟨h1, h2⟩, h3⟩ := h
    exact ⟨⟨h1, h2.imp (fun h => by omega) id⟩, h3⟩
  · exact h

theorem Island.cycles_le (k : Island) {t t' : Nat} (h : t ≤ t') : k.cycles t ≤ k.cycles t' := by
  unfold Island.cycles
  split
  · exact le_rfl
  · exact Nat.add_le_add_left (Nat.div_le_div_right (Nat.mul_le_mul_right _ (by omega))) _

/-- A bank cycle whose only request is one that the cycle takes, and no copy's landing, is that request's service (R140). -/
theorem State.bankAccess_single {s : State} {core off : Nat} {r : Req} (hreqs : s.reqs = [r]) (hloc : locate (localOf r.pa) = .scratch core off)
    (hop : ∀ i ps full ss k p, r.op ≠ .engine (some i) ps full ss k p)
    (htake : (s.bankReady core (max s.now (s.timeOfCycle core (max (s.cycles core) (s.core core).bankAt)))
      (max (s.cycles core) (s.core core).bankAt)).bankTakes core (max (s.cycles core) (s.core core).bankAt) r = true) :
    ∃ t c, s.bankAccess core = ((s.bankReady core t c).applyBank r core off).notePosts r r.writes := by
  obtain ⟨c, hc⟩ : ∃ c, c = max (s.cycles core) (s.core core).bankAt := ⟨_, rfl⟩
  rw [← hc] at htake
  obtain ⟨s1, hs1⟩ : ∃ s1, s1 = s.passTo (s.timeOfCycle core c) := ⟨_, rfl⟩
  have hno : s.wellCores core c = [] := by
    unfold State.wellCores
    rw [hreqs]
    refine List.filterMap_eq_nil_iff.2 fun q hq => ?_
    rw [List.mem_singleton.1 (List.mem_filter.1 hq).1]
    split
    next i _ _ _ _ _ h => exact absurd h (hop _ _ _ _ _ _)
    · rfl
  obtain ⟨c', hc'⟩ : ∃ c', c' = max (s1.cycles core) (s1.core core).bankAt := ⟨_, rfl⟩
  have hle : c ≤ c' := by
    have hcy : s.cycles core ≤ s1.cycles core := hs1 ▸ Island.cycles_le _ (Nat.le_max_left _ _)
    have hat : (s1.core core).bankAt = (s.core core).bankAt := by rw [hs1]; rfl
    omega
  obtain ⟨b, hb⟩ : ∃ b, b = s.bankReady core (max s1.now (s1.timeOfCycle core c')) c' := ⟨_, rfl⟩
  have hcycle : s1.bankCycle core = (b.bankQueue core c').foldl (fun s i => s.bankOne core i) b := by
    rw [hb, hc', hs1]
    rfl
  have hbreqs : b.reqs = [r] := by rw [hb]; exact hreqs
  have htake' : b.bankTakes core c' r = true := hb ▸ State.bankTakes_ready hle htake
  have hqueue : b.bankQueue core c' = [r.id] := by
    rw [State.bankQueue, hbreqs, List.filter_singleton, htake']
    rfl
  have hone : b.bankOne core r.id = (b.applyBank r core off).notePosts r r.writes := by
    rw [State.bankOne, hbreqs, List.find?_singleton, if_pos (by simp)]
    dsimp only
    rw [hloc]
  refine ⟨max s1.now (s1.timeOfCycle core c'), c', ?_⟩
  have hacc : s.bankAccess core = s1.bankCycle core := by
    unfold State.bankAccess
    dsimp only
    rw [← hc, hno, hs1]
    rfl
  rw [hacc, hcycle, hqueue, ← hb, ← hone]
  rfl

theorem State.notePosts_mem (s : State) (r : Req) (ps : List (Nat × Nat)) : (s.notePosts r ps).mem = s.mem := by
  unfold State.notePosts; dsimp only; split <;> rfl

theorem State.notePosts_reqs (s : State) (r : Req) (ps : List (Nat × Nat)) : (s.notePosts r ps).reqs = s.reqs := by
  unfold State.notePosts; dsimp only; split <;> rfl

/-- A well operation that the cycle takes is applied at its well, and its request is over (R177). -/
theorem State.exec_wellOperation {s : State} {core off me : Nat} {r : Req} {w : WellKind} (hreqs : s.reqs = [r]) (hop : r.op = .well w me)
    (hloc : locate (localOf r.pa) = .scratch core off)
    (htake : (s.bankReady core (max s.now (s.timeOfCycle core (max (s.cycles core) (s.core core).bankAt)))
      (max (s.cycles core) (s.core core).bankAt)).bankTakes core (max (s.cycles core) (s.core core).bankAt) r = true) :
    ∃ n c t, exec (.wellOperation 0) s = .next t ∧ t.mem = ((s.bankReady core n c).applyWell r w me).mem ∧
      (((s.bankReady core n c).applyWell r w me).reqs = s.reqs → t.reqs = []) := by
  obtain ⟨n, c, hacc⟩ := State.bankAccess_single hreqs hloc (fun _ _ _ _ _ _ h => by rw [hop] at h; cases h) htake
  have hwell : s.wellOperation 0 = s.bankAccess core := by
    simp [State.wellOperation, hreqs, hop, hloc]
  have happly : (s.bankReady core n c).applyBank r core off = ((s.bankReady core n c).applyWell r w me).dropReq r.id := by
    unfold State.applyBank
    rw [hop]
  refine ⟨n, c, (s.wellOperation 0).unblock, rfl, ?_, fun hkeep => ?_⟩
  · rw [hwell, hacc, happly, State.unblock_mem, State.notePosts_mem]
    rfl
  · rw [hwell, hacc, happly, State.unblock_reqs, State.notePosts_reqs, State.dropReq, hkeep, hreqs]
    simp

/-! ### The three operations (R176, R177) -/

/-- The PART bits of a well read as its bitmap was written (R176). -/
theorem memGet_bitmap {m : List Host.Cell} (hm : Memory.wf m = true) (a bits j : Nat) (hj : j < 768) :
    (memGet (memWrite m a (leBytes 96 bits)) (a + j / 8)).getLsbD (j % 8) = bits.testBit j := by
  have hget : ∀ n v i, i < n → (leBytes n v).getD i 0 = BitVec.ofNat 8 (v / 256 ^ i) := by
    intro n
    induction n with
    | zero => intro v i hi; omega
    | succ n ih =>
      intro v i hi
      cases i with
      | zero => simp [leBytes]
      | succ i => rw [leBytes, List.getD_cons_succ, ih _ _ (by omega), Nat.div_div_eq_div_mul, ← pow_succ']
  rw [memGet_memWrite _ _ _ hm, leBytes_length, if_pos ⟨by omega, by omega⟩, show a + j / 8 - a = j / 8 by omega, hget _ _ _ (by omega),
    BitVec.getLsbD_ofNat, show (256 : Nat) = 2 ^ 8 from rfl, ← pow_mul, Nat.testBit_div_two_pow, Nat.mod_add_div]
  simp [Nat.mod_lt]

/-- A gang with fewer than 16 wells registers another, which changes no byte and no request (R178). -/
theorem State.register_ok {s : State} {g : Nat} (pa : Nat) (h : ∀ k, s.gangOf g = some k → k.wells.length < 16) :
    ∃ t, s.register g pa = some t ∧ t.mem = s.mem ∧ t.reqs = s.reqs := by
  unfold State.register
  split
  · exact ⟨s, rfl, rfl, rfl⟩
  next k hk =>
    split
    · exact ⟨s, rfl, rfl, rfl⟩
    · rw [if_neg (by have := h k hk; omega)]
      exact ⟨_, rfl, rfl, rfl⟩

/-- The completion test after the count of the pending has gone down by one (R176). -/
theorem WellWord.complete_pend (p : Bool) (e : Nat) {q : Nat} (b : Int) (hpend : q ≠ 0) :
    WellWord.complete ⟨p, e, q - 1, b⟩ = if q = 1 ∧ b = 0 then ⟨!p, e, e, 0⟩ else ⟨p, e, q - 1, b⟩ := by
  have h1 : q - 1 = 0 ↔ q = 1 := by omega
  by_cases hc : q = 1 ∧ b = 0
  · rw [if_pos hc]
    simp [WellWord.complete, hc.1, hc.2]
  · rw [if_neg hc]
    simp [WellWord.complete, h1, hc]

/-- WINIT at its well: the counts, the participants and nothing else (R176). -/
theorem State.applyWell_init {s : State} (hm : Memory.wf s.mem = true) (r : Req) (me : Nat) {n : Nat} (ps : Option (List Nat)) (hn : n < 1024)
    (hlen : ∀ k, s.gangOf ((s.ownerGang r.by_.owner).getD 0) = some k → k.wells.length < 16) :
    ∃ t, s.applyWell r (.init n ps) me = t ∧ t.reqs = s.reqs ∧
      (∀ a, (a < localOf r.pa ∨ localOf r.pa + 112 ≤ a) → memGet t.mem a = memGet s.mem a) ∧
      t.wellAt (localOf r.pa) = ⟨(s.wellAt (localOf r.pa)).phase, n, n, 0⟩ ∧
      ∀ j < 768, t.partBit (localOf r.pa) j = ((match ps with
        | some ps => s.bitmapAt ps
        | none => ((s.gangOf ((s.ownerGang r.by_.owner).getD 0)).map allThreads).getD 0) : Nat).testBit j := by
  obtain ⟨pa, hpa⟩ : ∃ pa, pa = localOf r.pa := ⟨_, rfl⟩
  obtain ⟨bits, hbits⟩ : ∃ n : Nat, n = (match ps with
    | some ps => s.bitmapAt ps
    | none => ((s.gangOf ((s.ownerGang r.by_.owner).getD 0)).map allThreads).getD 0) := ⟨_, rfl⟩
  obtain ⟨s1, hs1, hs1mem, hs1reqs⟩ := State.register_ok pa hlen
  obtain ⟨y, hy⟩ : ∃ y : WellWord, y = ⟨(s.wellAt pa).phase, n, n, 0⟩ := ⟨_, rfl⟩
  have hyr : y.InRange := by rw [hy]; exact ⟨hn, hn, by simp, by simp⟩
  have hwf1 : Memory.wf s1.mem = true := by rw [hs1mem]; exact hm
  have hwf2 : Memory.wf (s1.putWell pa y).mem = true := State.putWell_wf hwf1 pa y
  obtain ⟨t, ht⟩ : ∃ t : State, t = { s1.putWell pa y with mem := memWrite (s1.putWell pa y).mem (pa + 16) (leBytes 96 bits) } := ⟨_, rfl⟩
  have happly : s.applyWell r (.init n ps) me = t := by
    have hput : ({ s1.wellAt pa with expect := n, pend := n, bytes := 0 } : WellWord) = y := by
      rw [State.wellAt_congr (s := s) (t := s1) (pa := pa) (fun _ _ _ => by rw [hs1mem]), hy]
    unfold State.applyWell
    dsimp only
    rw [← hpa, hs1]
    dsimp only
    rw [hput, ht, hbits] <;> cases ps <;> rfl
  have htmem : t.mem = memWrite (s1.putWell pa y).mem (pa + 16) (leBytes 96 bits) := by rw [ht]
  have hout : ∀ a, (a < pa + 16 ∨ pa + 112 ≤ a) → memGet t.mem a = memGet (s1.putWell pa y).mem a := fun a ha => by
    rw [htmem, memGet_memWrite _ _ _ hwf2, leBytes_length, if_neg (by omega)]
  rw [← hpa, ← hbits]
  refine ⟨t, happly, by rw [ht]; exact hs1reqs, fun a ha => ?_, ?_, fun j hj => ?_⟩
  · rw [hout a (by omega), State.memGet_putWell hwf1 y (by omega), hs1mem]
  · rw [State.wellAt_congr (s := s1.putWell pa y) fun a _ ha => hout a (by omega), State.wellAt_putWell hwf1 pa hyr, hy]
  · rw [State.partBit, htmem, memGet_bitmap hwf2 (pa + 16) bits j hj]

/-- WARR at its well, of which something is pending and whose bytes stay in range (R176, R177). -/
theorem State.applyWell_arrive {s : State} (hm : Memory.wf s.mem = true) (r : Req) (me : Nat) {v : Int}
    (hpend : (s.wellAt (localOf r.pa)).pend ≠ 0) (hlo : -(2 ^ 31) ≤ (s.wellAt (localOf r.pa)).bytes + v)
    (hhi : (s.wellAt (localOf r.pa)).bytes + v < 2 ^ 31) :
    ∃ t, s.applyWell r (.arrive v) me = t ∧ t.reqs = s.reqs ∧
      (∀ a, (a < localOf r.pa ∨ localOf r.pa + 8 ≤ a) → memGet t.mem a = memGet s.mem a) ∧
      t.wellAt (localOf r.pa) = WellWord.complete ⟨(s.wellAt (localOf r.pa)).phase, (s.wellAt (localOf r.pa)).expect,
        (s.wellAt (localOf r.pa)).pend - 1, (s.wellAt (localOf r.pa)).bytes + v⟩ := by
  obtain ⟨x, hx⟩ : ∃ x, x = s.wellAt (localOf r.pa) := ⟨_, rfl⟩
  rw [← hx] at hpend hlo hhi ⊢
  obtain ⟨hxe, hxp, -⟩ : x.InRange := hx ▸ s.wellAt_inRange _
  obtain ⟨y, hy⟩ : ∃ y : WellWord, y = ({ x with bytes := x.bytes + v, pend := x.pend - 1 } : WellWord).complete := ⟨_, rfl⟩
  have hyr : y.InRange := by
    rw [hy]
    exact WellWord.complete_inRange (w := ⟨x.phase, x.expect, x.pend - 1, x.bytes + v⟩) ⟨hxe, by dsimp only; omega, hlo, hhi⟩
  have happly : s.applyWell r (.arrive v) me = s.putWell (localOf r.pa) y := by
    have harr : x.arrive v = .ok y := by
      rw [hy]
      have hin : inBytes (x.bytes + v) = true := by simp only [inBytes, decide_eq_true hlo, decide_eq_true hhi, Bool.and_self]
      simp [WellWord.arrive, hpend, hin]
    unfold State.applyWell
    dsimp only
    rw [← hx, harr]
  exact ⟨_, happly, rfl, fun a ha => State.memGet_putWell hm y ha, (State.wellAt_putWell hm _ hyr).trans hy⟩

/-- WDROP of a participant of its well, of which something is pending (R176, R177). -/
theorem State.applyWell_drop {s : State} (hm : Memory.wf s.mem = true) (r : Req) {me : Nat} (im : Bool)
    (hexp : (s.wellAt (localOf r.pa)).expect ≠ 0) (hpend : (s.wellAt (localOf r.pa)).pend ≠ 0)
    (hpart : s.partBit (localOf r.pa) me = true) (hme : me < 768) :
    ∃ t, s.applyWell r (.drop im) me = t ∧ t.reqs = s.reqs ∧
      (∀ a, (a < localOf r.pa ∨ localOf r.pa + 112 ≤ a) → memGet t.mem a = memGet s.mem a) ∧ t.partBit (localOf r.pa) me = false ∧
      t.wellAt (localOf r.pa) = WellWord.complete ⟨(s.wellAt (localOf r.pa)).phase, (s.wellAt (localOf r.pa)).expect - 1,
        (s.wellAt (localOf r.pa)).pend - 1, (s.wellAt (localOf r.pa)).bytes⟩ := by
  obtain ⟨pa, hpa⟩ : ∃ pa, pa = localOf r.pa := ⟨_, rfl⟩
  obtain ⟨x, hx⟩ : ∃ x, x = s.wellAt pa := ⟨_, rfl⟩
  rw [← hpa] at hpart ⊢
  rw [← hpa, ← hx] at hexp hpend
  rw [← hx]
  obtain ⟨hxe, hxp, hxb⟩ : x.InRange := hx ▸ s.wellAt_inRange _
  obtain ⟨y, hy⟩ : ∃ y : WellWord, y = ({ x with expect := x.expect - 1, pend := x.pend - 1 } : WellWord).complete := ⟨_, rfl⟩
  have hyr : y.InRange := by
    rw [hy]
    exact WellWord.complete_inRange (w := ⟨x.phase, x.expect - 1, x.pend - 1, x.bytes⟩) ⟨by dsimp only; omega, by dsimp only; omega, hxb⟩
  have happly : s.applyWell r (.drop im) me = (s.putWell pa y).clearPart pa me := by
    have hdrop : s.wellDrop pa me = .ok ((s.putWell pa y).clearPart pa me) := by
      have hone : x.dropOne true = .ok y := by
        rw [hy]
        simp [WellWord.dropOne, hexp, hpend]
      rw [State.wellDrop, ← hx, hpart, hone]
    unfold State.applyWell
    dsimp only
    rw [← hpa, hpart, hdrop]
    simp
  have hwf1 : Memory.wf (s.putWell pa y).mem = true := State.putWell_wf hm pa y
  have hget : ∀ a, memGet ((s.putWell pa y).clearPart pa me).mem a =
      if a = pa + 16 + me / 8 then memGet (s.putWell pa y).mem (pa + 16 + me / 8) &&& ~~~(1#8 <<< (me % 8))
      else memGet (s.putWell pa y).mem a := fun a => memGet_memPut _ _ a hwf1
  refine ⟨_, happly, rfl, fun a ha => ?_, ?_, ?_⟩
  · rw [hget, if_neg (by omega), State.memGet_putWell hm y (by omega)]
  · rw [State.partBit, hget, if_pos rfl]
    simp [Nat.mod_lt]
  · rw [State.wellAt_congr (s := s.putWell pa y) (fun a _ ha => by rw [hget, if_neg (by omega)]), State.wellAt_putWell hm pa hyr, hy]

/-- Settles O49: a task starts on the lowest free threads of its quill core; an initialisation, an arrival and a drop are applied at
their well in the bank cycle that takes them. -/
theorem tasksAndWellsAdvance : Obligations.TasksAndWellsAdvance := by
  refine ⟨tasksStart, ?_⟩
  intro s r w me core off hreqs hop hloc _ _ htake hm pa x outside
  obtain ⟨n, c, t, hexec, htmem, htreqs⟩ := State.exec_wellOperation hreqs hop hloc htake
  obtain ⟨b, hb⟩ : ∃ b, b = s.bankReady core n c := ⟨_, rfl⟩
  rw [← hb] at htmem htreqs
  have hbm : b.mem = s.mem := by rw [hb]; rfl
  have hbreqs : b.reqs = s.reqs := by rw [hb]; rfl
  have hbwf : Memory.wf b.mem = true := by rw [hbm]; exact hm
  have hbx : b.wellAt (localOf r.pa) = x := by rw [hb]; rfl
  clear_value x
  refine ⟨fun n ps hw hn hlen => ?_, fun v hw hpend hlo hhi => ?_, fun im hw hexp hpend hpart hme => ?_⟩
  · obtain ⟨u, hu, hreqs', hout, hwell, hpart⟩ := State.applyWell_init hbwf r me ps hn (fun k hk => hlen k (by rw [hb] at hk; exact hk))
    rw [hw, hu] at htmem htreqs
    refine ⟨t, hexec, ?_, ⟨htreqs (hreqs'.trans hbreqs), fun a ha => ?_⟩, fun j hj => ?_⟩
    · rw [State.wellAt_congr (s := u) (fun _ _ _ => by rw [htmem]), hwell, hbx]
    · rw [htmem, hout a ha, hbm]
    · rw [State.partBit_congr (s := u) (by rw [htmem]), hpart j hj, hb]
      cases ps <;> rfl
  · rw [← hbx] at hpend hlo hhi
    obtain ⟨u, hu, hreqs', hout, hwell⟩ := State.applyWell_arrive hbwf r me hpend hlo hhi
    rw [hw, hu] at htmem htreqs
    refine ⟨t, hexec, ⟨htreqs (hreqs'.trans hbreqs), fun a ha => ?_⟩, ?_⟩
    · rw [htmem, hout a ha, hbm]
    · rw [State.wellAt_congr (s := u) (fun _ _ _ => by rw [htmem]), hwell, ← hbx]
      exact WellWord.complete_pend _ _ _ hpend
  · rw [← hbx] at hexp hpend
    obtain ⟨u, hu, hreqs', hout, hbit, hwell⟩ := State.applyWell_drop hbwf r im hexp hpend
      (by rw [State.partBit_congr (s := s) (by rw [hbm])]; exact hpart) hme
    rw [hw, hu] at htmem htreqs
    refine ⟨t, hexec, ⟨htreqs (hreqs'.trans hbreqs), fun a ha => ?_⟩, ?_, ?_⟩
    · rw [htmem, hout a ha, hbm]
    · rw [State.partBit_congr (s := u) (by rw [htmem]), hbit]
    · rw [State.wellAt_congr (s := u) (fun _ _ _ => by rw [htmem]), hwell, ← hbx]
      exact WellWord.complete_pend _ _ _ hpend

end Sys2Proof.Machine
end


section
/-! PROOFS. Bank units: a cycle served behind a clock that no island's rating allows (R133, R140). -/

namespace Sys2Proof.Machine

/-- An LDE on its way to granule 0 of core 0's scratchpad, whose granule is empty. -/
def waitingLde : Req :=
  { id := 0, by_ := ⟨0, 0, .gang 0, 0, 0, 0⟩, part := 0, va := 0, pa := scratchPa 0 0, size := 16, cls := 0, kslot := 0, op := .lde 4 false,
    acquire := false, release := false, check := none, after := [], born := 0, status := .waiting, dropped := false, reply := none }

/-- Core 0's island counts more than one cycle in each eighth of a controller cycle: 20,000 MHz. Its bank unit has served cycle 0. -/
def racingBank : State :=
  { State.reset with
    islands := [(islandOfUnit 0, { Island.reset with mhz := 20000 })]
    cores := [(0, { CoreArr.reset with bankAt := 1 })]
    reqs := [waitingLde] }

/-- The bank unit serves cycle 2 there, the first of the time at which cycle 1 has come, and not cycle 1. -/
theorem bankAt_racingBank : ((racingBank.bankAccess 0).core 0).bankAt = 3 := by decide +kernel

theorem bankTakes_racingBank : (racingBank.bankReady 0 1 1).bankTakes 0 1 waitingLde = true := by decide +kernel

/-- Refutes O51: where an island's clock is above 9,375 MHz, which the statement does not exclude, the time of the cycle that the bank unit
is to serve is already in a later cycle, and the unit serves that one: of an LDE that finds its granule empty the whole next state is
stated, with another cycle served last. -/
theorem not_bankUnitsServeAndAnswersArrive : ¬ Obligations.BankUnitsServeAndAnswersArrive := by
  intro h
  obtain ⟨hlde, -⟩ := h.1 racingBank 0 waitingLde 0 (by decide +kernel) rfl (fun _ => rfl) (by decide +kernel) (.bankAccess 0) (by simp)
  have hempty := (hlde 4 false rfl).2 rfl
  have hat : ∀ t u : State, (.next t : Result) = .next u → (t.core 0).bankAt = (u.core 0).bankAt := fun t u e => by cases e; rfl
  have hthree : ((racingBank.bankAccess 0).unblock.core 0).bankAt = 3 := bankAt_racingBank
  exact absurd (hthree.symm.trans (hat _ _ hempty)) (by decide +kernel)

end Sys2Proof.Machine
end


section
/-! PROOFS. A request in its calendar slot (R145, R149, R152, R190, R257, R258). -/

namespace Sys2Proof.Machine

/-! ### What an access to a line leaves -/

theorem State.filled_lines {s : State} {l : Nat} (h : lookup false l s.unfixable = false) : (s.filled l).lines = s.lines := by
  have h1 : ∀ t : State, t.unfixable = s.unfixable → t.lines = s.lines →
      (if lookup false l t.unfixable then t.setLine l { t.lineMeta l with poison := true } else t).lines = s.lines := by
    intro t hu hl
    rw [hu, h]
    exact hl
  unfold State.filled
  dsimp only
  split
  · exact h1 _ rfl rfl
  · exact h1 _ rfl rfl

theorem State.writtenBack_lines (s : State) (l : Nat) : (s.writtenBack l).lines = s.lines := by
  unfold State.writtenBack; split <;> rfl

theorem State.writtenBack_reqs (s : State) (l : Nat) : (s.writtenBack l).reqs = s.reqs := by
  unfold State.writtenBack; split <;> rfl

theorem State.filled_reqs (s : State) (l : Nat) : (s.filled l).reqs = s.reqs := by
  unfold State.filled; dsimp only; split <;> split <;> rfl

theorem State.touch_reqs (s : State) (k : Key) (cls : Nat) (always write : Bool) (pa : Nat) :
    (s.touch k cls always write pa).2.reqs = s.reqs :=
  State.touch_keeps State.reqs (fun _ _ _ => rfl) State.writtenBack_reqs State.filled_reqs s k cls always write pa

theorem State.touch_lines {s : State} (k : Key) (cls : Nat) (always write : Bool) {pa : Nat}
    (h : lookup false (lineOf pa) s.unfixable = false) : (s.touch k cls always write pa).2.lines = s.lines := by
  unfold State.touch
  dsimp only
  split
  · rfl
  · split
    · split
      · split
        · exact (State.writtenBack_lines _ _).trans (State.filled_lines h)
        · exact State.filled_lines h
      · exact State.filled_lines h
    · split
      · split
        · exact (State.writtenBack_lines _ _).trans (State.filled_lines h)
        · exact State.filled_lines h
      · split
        · exact (State.writtenBack_lines _ _).trans (State.filled_lines h)
        · exact State.filled_lines h

theorem Slice.set_upTo (c : Slice) (n i : Nat) : (c.upTo n).set i = c.set i := by
  unfold Slice.upTo; split <;> rfl

/-- Whether an access hits is whether its line stands in the slice (R144). -/
theorem State.touch_hit (s : State) (k : Key) (cls : Nat) (always write : Bool) (pa : Nat) :
    (s.touch k cls always write pa).1 = (((s.slice (sliceOf pa)).set (setOf pa)).find (lineOf pa)).isSome := by
  unfold State.touch
  dsimp only
  rw [Slice.set_upTo]
  split
  next w hw => rw [hw]; rfl
  next hn =>
    rw [hn]
    split
    · rfl
    · split <;> rfl

/-! ### A request at its home -/

/-- A line that is clean, sound and under the key of an access is read as memory holds it (R157). -/
theorem State.bytesUnder_own {s : State} {k : Key} {pa : Nat} (n : Nat) (h : (s.lineMeta (lineOf pa)).key = none ∨ (s.lineMeta (lineOf pa)).key = some k) :
    s.bytesUnder k pa n = memRead s.mem pa n := by
  unfold State.bytesUnder
  split
  · rcases h with h | h
    · rw [h]
    · rw [h]
      simp
  · rfl

/-- And written as such (R157). -/
theorem State.writeUnder_own {s : State} {k : Key} {pa st off : Nat} (bs : List Byte) (hloc : locate pa = .hbm st off)
    (h : (s.lineMeta (lineOf pa)).key = none ∨ (s.lineMeta (lineOf pa)).key = some k) :
    s.writeUnder k pa bs = { s with mem := memWrite s.mem pa bs, lines := insertAt (lineOf pa) { s.lineMeta (lineOf pa) with key := some k } s.lines } := by
  unfold State.writeUnder
  rw [hloc]
  dsimp only
  rcases h with h | h
  · rw [h]
  · rw [h]
    dsimp only
    rw [if_pos rfl]

theorem State.watching_none {s : State} (h : s.copybooks = []) (l : Nat) : s.watching l = [] := by
  rw [State.watching, h]
  rfl

theorem State.witnessFree_none {s : State} (h : s.copybooks = []) (u t l : Nat) : s.witnessFree u t l = true := by
  rw [State.witnessFree, State.watching_none h]
  rfl

theorem State.witnessDone_none {s : State} (h : s.copybooks = []) (u t l : Nat) : s.witnessDone u t l = s := by
  rw [State.witnessDone, State.watching_none h]
  rfl

section
variable {s : State} {r : Req} {st off : Nat} (hloc : locate (localOf r.pa) = .hbm st off) (hcheck : r.check = none)
  (hcause : s.homeCause r.part ⟨r.pa, r.cls, r.kslot⟩ = none) (hpoison : (s.lineMeta (lineOf (localOf r.pa))).poison = false)
  (hfix : lookup false (lineOf (localOf r.pa)) s.unfixable = false)
include hloc hpoison hfix

theorem State.poisonedAt_sound : s.poisonedAt ⟨r.pa, r.cls, r.kslot⟩ = false := by
  unfold State.poisonedAt
  dsimp only
  rw [hloc]
  dsimp only
  rw [hpoison, hfix]
  rfl

include hcheck hcause

/-- A sound line's home serves a request that does not fail: one that changes nothing is answered after its access, another writes its
bytes, raises the line's tag and is answered with it (R145, R189, R190). -/
theorem State.applyGlobal_sound {e : Effect}
    (heff : r.op.effect r.size (fun o n => s.bytesUnder (s.keyFor r.part r.cls r.kslot) (localOf r.pa + o) n) = e)
    (hok : ∀ c w, e.reply ≠ .fail c w) :
    s.applyGlobal r =
      let t := s.touch (s.keyFor r.part r.cls r.kslot) r.cls r.op.allocates r.op.changes (localOf r.pa)
      if r.op.changes = true then
        let s' := patch (localOf r.pa) (s.keyFor r.part r.cls r.kslot) t.2 (s.outgoing r e)
        let s3 := s'.setLine (lineOf (localOf r.pa)) { s'.lineMeta (lineOf (localOf r.pa)) with poison := s.poisons r }
        let s4 := ((s3.bumpTag (lineOf (localOf r.pa))).witnessDone r.by_.unit r.thread (lineOf (localOf r.pa))).notePosts r
          ((s.outgoing r e).map (fun p => (p.1, p.2.length)))
        s4.answer r.id (s.latency r t.1) (e.reply.tagged (s4.lineMeta (lineOf (localOf r.pa))).tag)
      else t.2.answer r.id (s.latency r t.1) e.reply := by
  unfold State.applyGlobal
  dsimp only
  rw [hcause]
  dsimp only
  rw [hcheck]
  dsimp only [Option.bind_none]
  rw [State.poisonedAt_sound hloc hpoison hfix, heff]
  obtain ⟨parts, rep⟩ := e
  cases rep with
  | fail c w => exact absurd rfl (hok c w)
  | _ => cases r.op.changes <;> simp

/-- A request that writes bytes at the head of its range, under the line's key, leaves them there and raises the line's tag (R145, R190). -/
theorem State.applyGlobal_write {rep : Reply} {bs : List Byte}
    (hkey : (s.lineMeta (lineOf (localOf r.pa))).key = none ∨
      (s.lineMeta (lineOf (localOf r.pa))).key = some (s.keyFor r.part r.cls r.kslot))
    (hbooks : s.copybooks = [])
    (heff : r.op.effect r.size (fun o n => s.bytesUnder (s.keyFor r.part r.cls r.kslot) (localOf r.pa + o) n) = ⟨[(0, bs)], rep⟩)
    (hok : ∀ c w, rep ≠ .fail c w) (hop : r.op.changes = true) (hev : ∀ sl, r.op ≠ .evict sl) :
    ∃ t : State, s.applyGlobal r = t.answer r.id
        (s.latency r (((s.slice (sliceOf (localOf r.pa))).set (setOf (localOf r.pa))).find (lineOf (localOf r.pa))).isSome)
        (rep.tagged ((s.lineMeta (lineOf (localOf r.pa))).tag + 1)) ∧
      t.mem = memWrite s.mem (localOf r.pa) bs ∧ t.now = s.now ∧ t.reqs = s.reqs ∧ t.channels = s.channels ∧
      (t.lineMeta (lineOf (localOf r.pa))).tag = (s.lineMeta (lineOf (localOf r.pa))).tag + 1 := by
  obtain ⟨pa, hpa⟩ : ∃ pa, pa = localOf r.pa := ⟨_, rfl⟩
  obtain ⟨k, hk⟩ : ∃ k, k = s.keyFor r.part r.cls r.kslot := ⟨_, rfl⟩
  obtain ⟨s2, hs2⟩ : ∃ s2, s2 = (s.touch k r.cls r.op.allocates true pa).2 := ⟨_, rfl⟩
  have hlines : s2.lines = s.lines := hs2 ▸ State.touch_lines _ _ _ _ (hpa ▸ hfix)
  have hstill : s2.still = s.still := hs2 ▸ State.still_touch s _ _ _ _ _
  have hreqs : s2.reqs = s.reqs := hs2 ▸ State.touch_reqs s _ _ _ _ _
  have hmeta : s2.lineMeta (lineOf pa) = s.lineMeta (lineOf pa) := by rw [State.lineMeta, hlines]; rfl
  have hout : s.outgoing r ⟨[(0, bs)], rep⟩ = [(0, bs)] := by
    unfold State.outgoing
    split
    next sl h => exact absurd h (hev sl)
    · rfl
  obtain ⟨s3, hs3⟩ : ∃ s3, s3 = (s2.writeUnder k pa bs).setLine (lineOf pa)
      { (s2.writeUnder k pa bs).lineMeta (lineOf pa) with poison := s.poisons r } := ⟨_, rfl⟩
  have hwrite := State.writeUnder_own (s := s2) (k := k) bs (hpa ▸ hloc) (by rw [hmeta, hpa, hk]; exact hkey)
  obtain ⟨t, ht⟩ : ∃ t, t = (s3.bumpTag (lineOf pa)).notePosts r [(0, bs.length)] := ⟨_, rfl⟩
  have hbump : (s3.bumpTag (lineOf pa)).witnessDone r.by_.unit r.thread (lineOf pa) = s3.bumpTag (lineOf pa) := by
    refine State.witnessDone_none ?_ _ _ _
    rw [hs3, hwrite]
    exact (congrArg State.copybooks hstill :).trans hbooks
  have htag3 : (s3.lineMeta (lineOf pa)).tag = (s.lineMeta (lineOf pa)).tag := by
    rw [hs3, hwrite, ← hmeta]
    simp [State.lineMeta, State.setLine, lookup_insertAt_self]
  have htag : (t.lineMeta (lineOf pa)).tag = (s.lineMeta (lineOf pa)).tag + 1 := by
    have hl : t.lines = (s3.bumpTag (lineOf pa)).lines := by
      rw [ht]
      unfold State.notePosts
      dsimp only
      split <;> rfl
    rw [State.lineMeta, hl, State.bumpTag, State.setLine, lookup_insertAt_self, ← htag3]
  have htstill : t.still = (s3.bumpTag (lineOf pa)).still := ht ▸ State.still_notePosts _ _ _
  refine ⟨t, ?_, ?_, ?_, ?_, ?_, hpa ▸ htag⟩
  · rw [State.applyGlobal_sound hloc hcheck hcause hpoison hfix heff hok]
    dsimp only
    rw [if_pos hop, hop, hout, ← hpa, ← hk, ← hs2, ← htag, State.touch_hit s k r.cls r.op.allocates true]
    simp only [patch, Nat.add_zero, List.map_cons, List.map_nil]
    rw [← hs3, hbump, ← ht]
  · have hm : t.mem = s3.mem := State.mem_of_still htstill
    rw [hm, hs3, hwrite, ← hpa, ← State.mem_of_still hstill]
    rfl
  · have hm : t.now = s3.now := State.now_of_still htstill
    rw [hm, hs3, hwrite, ← State.now_of_still hstill]
    rfl
  · rw [ht, State.notePosts_reqs, hs3, hwrite, ← hreqs]
    rfl
  · have hm : t.channels = s3.channels := State.channels_of_still htstill
    rw [hm, hs3, hwrite, ← State.channels_of_still hstill]
    rfl

end

/-! ### The slot (R149, R152) -/

theorem mem_insertByKey {α : Type} (f : α → Nat) {x y : α} : ∀ {l : List α}, y ∈ insertByKey f x l → y = x ∨ y ∈ l
  | [], h => Or.inl (List.mem_singleton.1 h)
  | z :: l, h => by
    unfold insertByKey at h
    split at h
    · exact List.mem_cons.1 h
    · rcases List.mem_cons.1 h with rfl | h
      · exact Or.inr List.mem_cons_self
      · exact (mem_insertByKey f h).imp id (List.mem_cons_of_mem _)

theorem mem_sortByKey {α : Type} (f : α → Nat) {y : α} {l : List α} (h : y ∈ sortByKey f l) : y ∈ l := by
  have hall : ∀ (l acc : List α), y ∈ l.foldl (fun acc x => insertByKey f x acc) acc → y ∈ l ∨ y ∈ acc := by
    intro l
    induction l with
    | nil => exact fun acc h => Or.inr h
    | cons x l ih =>
      intro acc h
      rcases ih _ h with h | h
      · exact Or.inl (List.mem_cons_of_mem _ h)
      · exact (mem_insertByKey f h).imp (fun (e : y = x) => by rw [e]; exact List.mem_cons_self) id
  exact (hall l [] h).resolve_right List.not_mem_nil

/-- A slot serves a request for a line of HBM (R149). -/
theorem State.slotRequest_hbm {s : State} {ch c : Nat} {r : Req} (h : s.slotRequest ch c = some r) :
    ∃ st off, locate (localOf r.pa) = .hbm st off := by
  have hon : s.onChannel r ch = true := by
    unfold State.slotRequest at h
    dsimp only at h
    have hmem : r ∈ s.reqs.filter (fun r => s.onChannel r ch && decide (ccOf r.born + 2 ≤ c) && s.servesLane ch c (s.laneOf r) && s.eligible r &&
        !(r.op.changes && s.witnessHeld r.by_.unit r.thread (lineOf (localOf r.pa)))) := by
      split at h
      · exact mem_sortByKey _ (List.mem_of_head? h)
      · exact List.mem_of_head? h
    have := (List.mem_filter.1 hmem).2
    simp only [Bool.and_eq_true] at this
    obtain ⟨⟨⟨⟨hon, -⟩, -⟩, -⟩, -⟩ := this
    exact hon
  unfold State.onChannel at hon
  simp only [Bool.and_eq_true] at hon
  have h2 := hon.2
  split at h2
  next st off hl => exact ⟨st, off, hl⟩
  · cases h2

/-- An atomic's new value and flags, by its kind, where the old value is one that it may read (R257, R258). -/
theorem amoNew_cases {k : AmoKind} {size old x cmp new : Nat} {fl : BitVec 8}
    (h : (k = .add ∧ new = (old + x) % 2 ^ (8 * size) ∧ fl = 0) ∨ (k = .and ∧ new = old &&& x ∧ fl = 0) ∨ (k = .or ∧ new = old ||| x ∧ fl = 0) ∨
        (k = .xor ∧ new = old ^^^ x ∧ fl = 0) ∨ (k = .min ∧ new = (if signExt (8 * size) x < signExt (8 * size) old then x else old) ∧ fl = 0) ∨
        (k = .max ∧ new = (if signExt (8 * size) old < signExt (8 * size) x then x else old) ∧ fl = 0) ∨ (k = .minu ∧ new = min old x ∧ fl = 0) ∨
        (k = .maxu ∧ new = max old x ∧ fl = 0) ∨ (k = .swp ∧ new = x ∧ fl = 0) ∨ (k = .cas ∧ new = (if old = cmp then x else old) ∧ fl = 0) ∨
        (k = .fadd ∧ fp32.verdict old = none ∧ (new, fl) = fpAdd fp32 rndRNE 0 old x) ∨
        (k = .fmax ∧ fp32.verdict old = none ∧ (new, fl) = fpMinMax fp32 true old x)) :
    amoNew k size old x cmp = some (new, fl) := by
  rcases h with ⟨rfl, rfl, rfl⟩ | ⟨rfl, rfl, rfl⟩ | ⟨rfl, rfl, rfl⟩ | ⟨rfl, rfl, rfl⟩ | ⟨rfl, rfl, rfl⟩ | ⟨rfl, rfl, rfl⟩ | ⟨rfl, rfl, rfl⟩ |
    ⟨rfl, rfl, rfl⟩ | ⟨rfl, rfl, rfl⟩ | ⟨rfl, rfl, rfl⟩ | ⟨rfl, hv, hnew⟩ | ⟨rfl, hv, hnew⟩
  case inr.inr.inr.inr.inr.inr.inl =>
    have : min old x = if x < old then x else old := by split <;> omega
    rw [this]
    rfl
  case inr.inr.inr.inr.inr.inr.inr.inl =>
    have : max old x = if old < x then x else old := by split <;> omega
    rw [this]
    rfl
  case inr.inr.inr.inr.inr.inr.inr.inr.inr.inr.inl =>
    rw [hnew]
    simp [amoNew, hv]
  case inr.inr.inr.inr.inr.inr.inr.inr.inr.inr.inr =>
    rw [hnew]
    simp [amoNew, hv]
  all_goals rfl

theorem State.cc_of_now {s t : State} (h : t.now = s.now) : t.cc = s.cc := by rw [State.cc, State.cc, h]

/-- Settles O50: the request that a channel's slot serves takes its instant there: a load reads, a store and an atomic write and raise the
line's tag, and each is answered after the latency of its access. -/
theorem calendarSlotsServeRequests : Obligations.CalendarSlotsServeRequests := by
  intro s ch slot r c a b pa l g u hit hfree hslot hcheck hcause hpoison hfix hkey hbooks
  obtain ⟨st, off, hloc⟩ := State.slotRequest_hbm hslot
  have hexec : exec (.calendarSlot ch slot) s = .next ((b.serveGlobal r).unblock) := by
    have hserve : a.serveSlot ch = b.serveGlobal r := by
      unfold State.serveSlot
      rw [if_neg (by omega)]
      dsimp only
      rw [hslot]
    exact congrArg (fun t : State => Host.Outcome.next t.unblock) hserve
  have hchan : (b.channel ch).freeAt = b.cc + 1 := by
    show ((State.updChannel a ch _).channel ch).freeAt = _
    rw [State.channel_updChannel, if_pos rfl]
    rfl
  clear_value b
  refine ⟨fun d hop => ?_, fun d full hop => ?_, ?_⟩
  · have hserve : b.serveGlobal r = b.applyGlobal r := by
      unfold State.serveGlobal
      rw [hop]
      rfl
    have hread : (r.op.effect r.size (fun o n => b.bytesUnder (b.keyFor r.part r.cls r.kslot) (localOf r.pa + o) n)) =
        ⟨[], .data (memRead b.mem pa r.size)⟩ := by
      rw [hop]
      simp only [MemOp.effect, Nat.add_zero]
      rw [State.bytesUnder_own _ hkey]
    have happly := State.applyGlobal_sound hloc hcheck hcause hpoison hfix hread (fun _ _ h => by cases h)
    have hch : r.op.changes = false := by rw [hop]; rfl
    dsimp only at happly
    rw [if_neg (by rw [hch]; exact Bool.false_ne_true), State.touch_hit] at happly
    obtain ⟨t, ht⟩ : ∃ t, t = (b.touch (b.keyFor r.part r.cls r.kslot) r.cls r.op.allocates r.op.changes (localOf r.pa)).2 := ⟨_, rfl⟩
    rw [← ht] at happly
    have htstill : t.still = b.still := ht ▸ State.still_touch b _ _ _ _ _
    have htreqs : t.reqs = b.reqs := ht ▸ State.touch_reqs b _ _ _ _ _
    rw [hserve, happly] at hexec
    refine ⟨_, hexec, State.mem_of_still htstill, State.now_of_still htstill, ?_, ?_⟩
    · rw [← hchan, State.channel, State.channel, ← State.channels_of_still htstill]
      rfl
    · rw [← htreqs]
      have hlat : b.latency r hit = if hit = true then b.latHit u (channelOf pa) else b.latMiss u (channelOf pa) := by
        unfold State.latency
        rw [hop]
      rw [← hlat, ← State.cc_of_now (State.now_of_still htstill)]
      rfl
  · have hserve : b.serveGlobal r = b.applyGlobal r := by
      unfold State.serveGlobal
      rw [hop, State.witnessFree_none hbooks]
      rfl
    obtain ⟨t, happly, hmem, hnow, hreqs, hchans, htag⟩ := State.applyGlobal_write hloc hcheck hcause hpoison hfix (bs := d) (rep := .ack none 0) hkey hbooks
      (by rw [hop]; rfl) (fun _ _ h => by cases h) (by rw [hop]; rfl) (fun _ h => by rw [hop] at h; cases h)
    rw [hserve, happly] at hexec
    refine ⟨_, hexec, hmem, hnow, htag, ?_⟩
    have hlat : ∀ h, b.latency r h = b.latHit u (channelOf pa) := fun h => by
      unfold State.latency
      rw [hop]
    rw [← hreqs, ← hlat, ← State.cc_of_now hnow]
    rfl
  · intro k v w d new fl hop old x n hnew
    have hserve : b.serveGlobal r = b.applyGlobal r := by
      unfold State.serveGlobal
      rw [hop, State.witnessFree_none hbooks]
      rfl
    have heff : (r.op.effect r.size (fun o n => b.bytesUnder (b.keyFor r.part r.cls r.kslot) (localOf r.pa + o) n)) =
        ⟨[(0, leBytes r.size new)], .old (BitVec.ofNat 64 old) none fl⟩ := by
      rw [hop]
      simp only [MemOp.effect, Nat.add_zero]
      rw [State.bytesUnder_own _ hkey, amoNew_cases hnew]
    obtain ⟨t, happly, hmem, hnow, hreqs, hchans, htag⟩ := State.applyGlobal_write hloc hcheck hcause hpoison hfix hkey hbooks
      heff (fun _ _ h => by cases h) (by rw [hop]; rfl) (fun _ h => by rw [hop] at h; cases h)
    rw [hserve, happly] at hexec
    refine ⟨_, hexec, hmem, hnow, htag, ?_⟩
    have hlat : b.latency r hit = if hit = true then b.latAtom u (channelOf pa)
              else b.latMiss u (channelOf pa) + b.latAtom u (channelOf pa) - b.latHit u (channelOf pa) := by
      unfold State.latency
      rw [hop]
    rw [← hreqs, ← hlat, ← State.cc_of_now hnow]
    rfl

end Sys2Proof.Machine
end


section
/-! PROOFS. Service of slices and channels: swaps, layouts, runs, refreshes, scrubs and recalibrations (R148, R154, R155, R275, R468, R483). -/

namespace Sys2Proof.Machine

@[simp] theorem State.slice_setSlice (s : State) (n : Nat) (c : Slice) : (s.setSlice n c).slice n = c := lookup_insertAt_self _ _ _ _

theorem State.part_updPart (s : State) (p : Nat) (f : Partition → Partition) : (s.updPart p f).part p = f (s.part p) :=
  lookup_insertAt_self _ _ _ _

theorem State.channel_updChannel_self (s : State) (n : Nat) (f : Channel → Channel) : (s.updChannel n f).channel n = f (s.channel n) := by
  rw [State.channel_updChannel, if_pos rfl]

/-- Time that passes to the next boundary of so many controller cycles is there (R148, R154). -/
theorem State.cc_ccTo_boundary (s : State) {n : Nat} (hn : 0 < n) :
    (s.ccTo ((s.cc + (n - 1)) / n * n)).cc % n = 0 ∧ s.cc ≤ (s.ccTo ((s.cc + (n - 1)) / n * n)).cc ∧
      (s.ccTo ((s.cc + (n - 1)) / n * n)).cc < s.cc + n := by
  obtain ⟨b, hb⟩ : ∃ b, b = (s.cc + (n - 1)) / n * n := ⟨_, rfl⟩
  have hmod : b % n = 0 := hb ▸ Nat.mul_mod_left _ _
  have hdiv := Nat.div_add_mod' (s.cc + (n - 1)) n
  have hlt := Nat.mod_lt (s.cc + (n - 1)) hn
  have hcc : (s.ccTo b).cc = b := by
    have hnow : s.cc = s.now / 8 := rfl
    have hto : (s.ccTo b).cc = max s.now (8 * b) / 8 := rfl
    omega
  rw [← hb, hcc]
  exact ⟨hmod, by omega, by omega⟩

/-- The slice after the swap that follows those it has made (R148). -/
theorem Slice.upTo_next (c : Slice) :
    (c.upTo (c.swaps + 1)).currentB = !c.currentB ∧
      if c.currentB = true then (c.upTo (c.swaps + 1)).filterA = [] ∧ (c.upTo (c.swaps + 1)).filterB = c.filterB
      else (c.upTo (c.swaps + 1)).filterB = [] ∧ (c.upTo (c.swaps + 1)).filterA = c.filterA := by
  unfold Slice.upTo
  rw [if_neg (Nat.not_succ_le_self _), Nat.add_sub_cancel_left]
  cases c.currentB <;> simp

theorem Slice.swaps_upTo {c : Slice} {n : Nat} (h : c.swaps < n) : (c.upTo n).swaps = n := by
  unfold Slice.upTo
  rw [if_neg (Nat.not_le.2 h)]

theorem Slice.sets_upTo (c : Slice) (n : Nat) : (c.upTo n).sets = c.sets := by
  unfold Slice.upTo
  split <;> rfl

/-- A slice makes its next swap at the rotation that is due for it (R148). -/
theorem blotterSwaps (s : State) (n : Fin 64) :
    let k := max ((s.slice n).swaps + 1) (s.cc / (2048 * 320))
    ∃ t, exec (.blotterSwap n) s = .next t ∧ t.mem = s.mem ∧ t.now = max s.now (8 * (2048 * 320 * k)) ∧ (t.slice n).swaps = k ∧
      (t.slice n).sets = (s.slice n).sets ∧
      (k = (s.slice n).swaps + 1 → (t.slice n).currentB = !(s.slice n).currentB ∧
        (if (s.slice n).currentB = true then (t.slice n).filterA = [] ∧ (t.slice n).filterB = (s.slice n).filterB
          else (t.slice n).filterB = [] ∧ (t.slice n).filterA = (s.slice n).filterA)) := by
  intro k
  obtain ⟨t, ht⟩ : ∃ t, t = (s.blotterSwap n).unblock := ⟨_, rfl⟩
  have hslice : t.slice n = (s.slice n).upTo k := by
    rw [ht]
    exact lookup_insertAt_self _ _ _ _
  have hnow : t.now = max s.now (8 * (k * (2048 * 320))) := by rw [ht]; rfl
  refine ⟨t, by rw [ht]; rfl, by rw [ht]; rfl, by rw [hnow, Nat.mul_comm k], hslice ▸ Slice.swaps_upTo (by omega),
    hslice ▸ Slice.sets_upTo _ _, fun hk => ?_⟩
  rw [hslice, hk]
  exact Slice.upTo_next _

/-- The committed shadow of a channel is in force from the next rotation boundary on (R154). -/
theorem layoutTakesEffect (s : State) (p : Fin 8) (ch : Nat) (cal : Calendar) (hp : (s.part p).pendingCal = some [(ch, cal)]) :
    ∃ t, exec (.layoutTakesEffect p) s = .next t ∧ (t.channel ch).cal = cal ∧ (t.part p).pendingCal = none ∧ t.cc % 320 = 0 ∧ s.cc ≤ t.cc ∧
      t.cc < s.cc + 320 := by
  obtain ⟨s3, hs3⟩ : ∃ s3, s3 = ((s.ccTo ((s.cc + 319) / 320 * 320)).updChannel ch (fun c => { c with cal := cal })).updPart p
    (fun k => { k with pendingCal := none }) := ⟨_, rfl⟩
  have hstep : ∃ t : State, s.layoutTakesEffect p = t ∧ t.channels = s3.channels ∧ t.parts = s3.parts ∧ t.now = s3.now := by
    unfold State.layoutTakesEffect
    rw [hp]
    dsimp only [List.foldl_cons, List.foldl_nil]
    rw [← hs3]
    split
    · exact ⟨_, rfl, rfl, rfl, rfl⟩
    · exact ⟨_, rfl, rfl, rfl, rfl⟩
  obtain ⟨t, ht, hchans, hparts, hnow⟩ := hstep
  have hcal : (s3.channel ch).cal = cal := by
    have : s3.channel ch = { (s.ccTo ((s.cc + 319) / 320 * 320)).channel ch with cal := cal } := by
      have hc : s3.channel ch = ((s.ccTo ((s.cc + 319) / 320 * 320)).updChannel ch (fun c => { c with cal := cal })).channel ch := by
        rw [hs3]
        rfl
      rw [hc, State.channel_updChannel_self]
    rw [this]
  have hpart : (s3.part p).pendingCal = none := by rw [hs3, State.part_updPart]
  have hcc : t.cc = (s.ccTo ((s.cc + 319) / 320 * 320)).cc := by
    rw [State.cc_of_now hnow, hs3]
    rfl
  refine ⟨t.unblock, congrArg (fun t : State => Host.Outcome.next t.unblock) ht, ?_, ?_, ?_⟩
  · rw [← hcal, State.channel, State.channel, ← hchans]
    rfl
  · rw [← hpart, State.part, State.part, ← hparts]
    rfl
  · have : t.unblock.cc = t.cc := rfl
    rw [this, hcc]
    exact s.cc_ccTo_boundary (n := 320) (by decide)

/-- The only request of a channel without runs takes its run at the next rotation boundary (R275). -/
theorem bulkReserves (s : State) (ch : Fin 256) (r : RunRequest) (hq : (s.channel ch).runQueue = [r]) (hr : (s.channel ch).runs = []) :
    ∃ t, exec (.bulkReservation ch) s = .next t ∧ (t.channel ch).runQueue = [] ∧
      lookup none r.run (t.channel ch).runs = some ⟨r.unit, r.thr, r.bank, r.start, none, r.opened, r.closing⟩ ∧ t.cc % 320 = 0 ∧ s.cc ≤ t.cc ∧
      t.cc < s.cc + 320 := by
  obtain ⟨s1, hs1⟩ : ∃ s1, s1 = s.ccTo ((s.cc + 319) / 320 * 320) := ⟨_, rfl⟩
  obtain ⟨t, ht⟩ : ∃ t, t = (s.bulkReservation ch).unblock := ⟨_, rfl⟩
  have hclosed : (s1.closeRuns ch).channel ch = s.channel ch := by
    have h1 : s1.channel ch = s.channel ch := by rw [hs1]; rfl
    rw [State.closeRuns, State.channel_updChannel, if_pos rfl, h1, hr, List.map_nil, ← hr]
  have hchan : t.channel ch = { grantRuns [r] (s.channel ch) with rotation := (s1.closeRuns ch).cc / 320 } := by
    have hb : t.channel ch = (s1.runBoundary ch).channel ch := by rw [ht, hs1]; rfl
    rw [hb, State.runBoundary, State.channel_updChannel_self, hclosed, hq]
    rfl
  have hgrant : grantRuns [r] (s.channel ch) = { s.channel ch with
      runs := [(r.run, some ⟨r.unit, r.thr, r.bank, r.start, none, r.opened, r.closing⟩)], runQueue := [] } := by
    have hadm : (s.channel ch).admits r = true := by
      rw [Channel.admits, hr]
      rfl
    rw [grantRuns, if_pos hadm, grantRuns, hr, hq, List.erase_cons_head]
    rfl
  refine ⟨t, by rw [ht]; rfl, by rw [hchan, hgrant], ?_, ?_⟩
  · rw [hchan, hgrant]
    simp [lookup]
  · have : t.cc = s1.cc := by rw [ht, hs1]; rfl
    rw [this, hs1]
    exact s.cc_ccTo_boundary (n := 320) (by decide)

/-- Settles O52: slices swap their filters, layouts take effect and runs are reserved at rotation boundaries, refreshes are put off, wrong
bits corrected and channels lost at the third failure of their recalibration. -/
theorem channelsAndSlicesAreServiced : Obligations.ChannelsAndSlicesAreServiced := by
  refine ⟨blotterSwaps, layoutTakesEffect, bulkReserves, ?_, fun s line h => ?_, fun s ch ok => ?_⟩
  · intro s ch held
    have : s.openBankRefresh ch = s.updChannel ch (fun k => { k with
        refreshDue := if held = true ∧ k.refreshDue < 8 then k.refreshDue + 1 else 0 }) := by
      simp only [State.openBankRefresh, State.updChannel, Bool.and_eq_true, decide_eq_true_eq, held]
    exact congrArg (fun t : State => Host.Outcome.next t.unblock) this
  · have : s.scrub line = { s with latent := eraseAt line s.latent, corrected := s.corrected + 1 } := if_pos h
    exact congrArg (fun t : State => Host.Outcome.next t.unblock) this
  · obtain ⟨t, ht⟩ : ∃ t, t = (s.phyRecalibration ch ok).unblock := ⟨_, rfl⟩
    have hchan : t.channel ch = if ok then { s.channel ch with recalFails := 0 } else { s.channel ch with
        recalFails := (s.channel ch).recalFails + 1, lost := (s.channel ch).lost || decide (2 ≤ (s.channel ch).recalFails) } := by
      have hc : t.channel ch = (s.phyRecalibration ch ok).channel ch := by rw [ht]; rfl
      rw [hc, State.phyRecalibration, State.channel_updChannel_self]
    refine ⟨t, by rw [ht]; rfl, ?_⟩
    rw [hchan]
    cases ok <;> simp

end Sys2Proof.Machine
end


section
/-! PROOFS. The nib, the hold line's limit and aggregates (R97, R98, R101, R105, R106, R108, R306, R437, R441). -/

namespace Sys2Proof.Machine

/-- A fault at departure depends on the loaders alone (R436). -/
theorem State.departureFault_congr {s t : State} (hw : ∀ m, (t.core m).west = (s.core m).west) (hn : ∀ m, (t.core m).north = (s.core m).north)
    (g : Grid) (i : Instr) : t.departureFault g i = s.departureFault g i := by
  unfold State.departureFault
  simp only [hw, hn]

/-- An instruction without pieces and captures joins the wave behind the others, with its selector as it is now (R97, R98, R101). -/
theorem nibDeparts (s : State) (n : Fin 192) (e : NibEntry) (rest : List NibEntry) (hnib : (s.core n).nib = e :: rest)
    (hdep : s.departs n e.instr = true) (hfault : s.departureFault ((s.core n).chain n) e.instr = none) (hwest : namesWest e.instr = false)
    (hnorth : namesNorth e.instr = false) (heast : givesEast e.instr = false) (hsouth : givesSouth e.instr = false) :
    ∃ t beta, exec (.nibDeparture n) s = .next t ∧ t.mem = s.mem ∧ (t.core n).nib = rest ∧ (t.core n).cells = (s.core n).cells ∧
      (t.core n).wave = (s.core n).wave ++ [{
        wid := e.wid, instr := e.instr, by_ := e.by_, x0 := e.x0, x1 := e.x1,
        sel := (s.thread n e.by_.thr).getG (waveSel e.instr), beta := beta, west := [], north := [], east := [], south := [], elapsed := 0,
        agg := Aggregate.empty, trail := [], forfeit := false }] := by
  obtain ⟨s1, hs1⟩ : ∃ s1, s1 = s.updCore n (fun k =>
    { k with nib := k.nib.drop 1, waveAt := if k.wave.isEmpty then max k.waveAt (max (s.cycles n) e.since) else k.waveAt }) := ⟨_, rfl⟩
  have hcore : ∀ m, (s1.core m).west = (s.core m).west ∧ (s1.core m).north = (s.core m).north := fun m => by
    rw [hs1, State.core_updCore]
    split
    next h => rw [h]; exact ⟨rfl, rfl⟩
    · exact ⟨rfl, rfl⟩
  have hself : s1.core n = { s.core n with nib := rest, waveAt := if (s.core n).wave.isEmpty then max (s.core n).waveAt (max (s.cycles n) e.since)
      else (s.core n).waveAt } := by
    rw [hs1, State.core_updCore_self, hnib]
    rfl
  have hfault1 : s1.departureFault ((s.core n).chain n) e.instr = none :=
    (State.departureFault_congr (fun m => (hcore m).1) (fun m => (hcore m).2) _ _).trans hfault
  obtain ⟨beta, hleave⟩ : ∃ beta, s.leaveNib n e = s1.updCore n (fun k => { k with wave := k.wave ++ [
      { wid := e.wid, instr := e.instr, by_ := e.by_, x0 := e.x0, x1 := e.x1,
        sel := (s.thread n e.by_.thr).getG (waveSel e.instr), beta := beta, west := [], north := [], east := [], south := [], elapsed := 0,
        agg := Aggregate.empty, trail := [], forfeit := false }] }) := by
    refine ⟨((s1.core (((s.core n).chain n).at_ 0 0)).west.nextHeader.map (fun h => h.bias.toInt)).getD 0 +
      ((s1.core (((s.core n).chain n).at_ 0 0)).north.nextHeader.map (fun h => h.bias.toInt)).getD 0, ?_⟩
    unfold State.leaveNib
    dsimp only
    rw [← hs1, hfault1]
    dsimp only
    rw [hwest, hnorth, heast, hsouth]
    simp only [Bool.false_eq_true, if_false]
    rw [hs1]
    rfl
  have hstep : s.nibDeparture n = s.leaveNib n e := by
    unfold State.nibDeparture
    dsimp only
    rw [hnib]
    exact if_pos hdep
  obtain ⟨t, ht⟩ : ∃ t, t = s.leaveNib n e := ⟨_, rfl⟩
  have htcore : t.core n = { s1.core n with wave := (s1.core n).wave ++ [
      { wid := e.wid, instr := e.instr, by_ := e.by_, x0 := e.x0, x1 := e.x1,
        sel := (s.thread n e.by_.thr).getG (waveSel e.instr), beta := beta, west := [], north := [], east := [], south := [], elapsed := 0,
        agg := Aggregate.empty, trail := [], forfeit := false }] } := by
    rw [ht, hleave, State.core_updCore_self]
  have hun : t.unblock.core n = t.core n := rfl
  refine ⟨t.unblock, beta, by rw [ht]; exact congrArg (fun t : State => Host.Outcome.next t.unblock) hstep, ?_, ?_, ?_, ?_⟩
  · rw [State.unblock_mem, ht, hleave, hs1]
    rfl
  · rw [hun, htcore, hself]
  · rw [hun, htcore, hself]
  · rw [hun, htcore, hself]

/-- A hold that has counted to its limit is the report of its core (R437, R441). -/
theorem holdLimits (s : State) (n : Fin 192) (b : Bool) (r c : Nat) (w : WaveEntry) (g : Gang) (hhold : (s.core n).hold ≠ none)
    (hblock : s.blocker n = some (b, r, c, w)) (hgang : s.coreGang n = some g) (hplace : g.place = .resident)
    (hpark : s.launchParked g.launch = false) (hfault : (s.core n).waveFault = none) :
    exec (.holdLimit n) s = .next (((((s.passTo (s.timeOfCycle n ((s.core n).holdFrom + 2 ^ 26))).updCore n (fun k => { k with waveFault := some 1 })).fail
       w.by_ 0x26 0 (waveStatus (if b = true then 1 else 0) (((s.core n).chain n).posOf r c) r c))).unblock) := by
  obtain ⟨h, hh⟩ := Option.ne_none_iff_exists'.1 hhold
  have hcounts : s.holdCounts n = true := by
    unfold State.holdCounts
    rw [hgang]
    dsimp only
    rw [hplace, hpark]
    rfl
  refine congrArg (fun t : State => Host.Outcome.next t.unblock) ?_
  unfold State.holdLimit
  rw [hh, hblock]
  dsimp only
  rw [hcounts, hfault]
  refine (if_pos rfl).trans ?_
  have hnone : ((s.passTo (s.timeOfCycle n (s.core n).holdDue)).core n).waveFault = none := hfault
  unfold State.waveFails
  rw [hnone]
  rfl

theorem foldl_updThread_keeps {α β : Type} (g : State → β) (hg : ∀ s u t f, g (State.updThread s u t f) = g s) (n : Nat) (i : α → Nat)
    (h : α → Thread → Thread) (l : List α) (s : State) : g (l.foldl (fun s x => s.updThread n (i x) (h x)) s) = g s :=
  foldl_keeps (f := fun s x => State.updThread s n (i x) (h x)) (fun _ _ => hg _ _ _ _) l s

/-- The oldest finished aggregate becomes valid in its wave cycle, and a WFLG that waits for it has its result (R106, R306). -/
theorem aggregatesBecomeValid (s : State) (n : Fin 192) (wid due : Nat) (a : Aggregate) (rest : SMap (Nat × Aggregate))
    (hdone : (s.core n).doneAggs = (wid, (due, a)) :: rest) (hreached : s.waveReached n due = true) :
    ∃ t, exec (.aggregateValid n) s = .next t ∧ t.now = max s.now (s.timeOfCycle n due) ∧ (t.core n).doneAggs = rest ∧
      (t.core n).validAgg = some (wid, a) ∧ (t.core n).wflgs = (s.core n).wflgs.filter (fun f => f.wid != wid) ∧
      (∀ f, (s.core n).wflgs = [f] → f.wid = wid → f.thr < 4 → 0 < f.dst → f.dst < 32 →
        (t.thread n f.thr).getX (BitVec.ofNat 5 f.dst) = a.part f.md f.qidx ∧ (t.thread n f.thr).fullX (BitVec.ofNat 5 f.dst) = true) := by
  obtain ⟨s1, hs1⟩ : ∃ s1, s1 = (s.passTo (s.timeOfCycle n due)).updCore n (fun k =>
    { k with doneAggs := rest, validAgg := some (wid, a), wflgs := k.wflgs.filter (fun f => f.wid != wid) }) := ⟨_, rfl⟩
  obtain ⟨t, ht⟩ : ∃ t, t = ((s.core n).wflgs.filter (fun f => f.wid == wid)).foldl
    (fun s f => s.updThread n f.thr (fun t => t.flagged (BitVec.ofNat 5 f.dst) (a.part f.md f.qidx) due)) s1 := ⟨_, rfl⟩
  have hstep : s.aggregateValid n = t := by
    unfold State.aggregateValid
    rw [hdone]
    dsimp only
    rw [hreached]
    refine (if_neg (by decide)).trans ?_
    rw [ht, hs1]
  have hnow : t.now = s1.now := ht ▸ foldl_updThread_keeps State.now (fun _ _ _ _ => rfl) n _ _ _ _
  have hcores : t.cores = s1.cores := ht ▸ foldl_updThread_keeps State.cores (fun _ _ _ _ => rfl) n _ _ _ _
  have hcore : t.unblock.core n = { s.core n with doneAggs := rest, validAgg := some (wid, a), wflgs := (s.core n).wflgs.filter (fun f => f.wid != wid) } := by
    have h1 : t.unblock.core n = s1.core n := by rw [State.core, State.core, ← hcores]; rfl
    rw [h1, hs1, State.core_updCore_self]
    rfl
  refine ⟨t.unblock, congrArg (fun t : State => Host.Outcome.next t.unblock) hstep, ?_, by rw [hcore], by rw [hcore], by rw [hcore],
    fun f hf hwid hthr hlo hhi => ?_⟩
  · have : t.unblock.now = t.now := rfl
    rw [this, hnow, hs1]
    rfl
  · have hthread : t.thread n f.thr = (s1.thread n f.thr).flagged (BitVec.ofNat 5 f.dst) (a.part f.md f.qidx) due := by
      rw [ht, hf, List.filter_singleton, hwid, beq_self_eq_true]
      simp only [cond_true, List.foldl_cons, List.foldl_nil]
      rw [State.thread_updThread, if_pos ⟨rfl, rfl, hthr⟩]
    have hd : BitVec.ofNat 5 f.dst ≠ 0 := fun h => by
      have := congrArg BitVec.toNat h
      simp at this
      omega
    rw [State.thread_unblock, hthread]
    refine ⟨?_, Thread.fullX_setX (s1.thread n f.thr) (BitVec.ofNat 5 f.dst) (a.part f.md f.qidx)⟩
    exact (Thread.getX_setX (s1.thread n f.thr) _ _ _).trans (if_pos ⟨rfl, hd⟩)

/-- Settles O53: the head of the nib joins the wave, a hold at its limit ends its launch, and aggregates become valid in their order. -/
theorem instructionsLeaveTheNibAndHoldsResolve : Obligations.InstructionsLeaveTheNibAndHoldsResolve :=
  ⟨nibDeparts, holdLimits, aggregatesBecomeValid⟩

end Sys2Proof.Machine
end


section
/-! PROOFS. One wave cycle of a core that stands alone (R97, R101, R108, R481). -/

namespace Sys2Proof.Machine

/-! ### Cells -/

theorem CoreArr.cell_setCell (k : CoreArr) (i j : Nat) (v : Cell) : (k.setCell i v).cell j = if j = i then v else k.cell j := by
  show lookup (Cell.reset j) j (insertAt i v k.cells) = _
  split
  next h => rw [h, lookup_insertAt_self]
  next h => rw [lookup_insertAt_ne _ h]; rfl

/-- An instruction that has pulled no pieces and assigned no captures (R104, R118). -/
def WaveEntry.Bare (w : WaveEntry) : Prop := w.west = [] ∧ w.north = [] ∧ w.east = [] ∧ w.south = []

/-- The instruction takes its effect at a cell of a core that stands alone (R101, R481). -/
def State.takesEffect (s : State) (n : Nat) (w : WaveEntry) (r c : Nat) : Bool :=
  !(s.core n).down && (w.sel.getLsbD 32 && w.sel.getLsbD r && w.sel.getLsbD (16 + c))

/-- An instruction at one cell of a core that stands alone: the cell has the effect where the instruction executes there and does not fault,
and nothing else of the module changes (R97, R101). -/
theorem State.cellStep_alone {s : State} {n r c : Nat} {w : WaveEntry} (hw : w.Bare) (hr : r < 16) (hc : c < 16) :
    ∃ t agg trail f, s.cellStep ⟨[n], 1, 1⟩ w r c = (t, { w with agg := agg, trail := trail }, f) ∧
      (t = s ∨ ∃ v, t = s.updCore n (fun k => k.setCell (16 * r + c) v)) ∧
      (s.takesEffect n w r c = true → ∀ x, cellEffect w.instr (s.cellEnv ⟨[n], 1, 1⟩ w r c 0 0) ((s.core n).cell (16 * r + c)) = .ok x →
        t = s.updCore n (fun k => k.setCell (16 * r + c) x)) ∧
      (s.takesEffect n w r c = false → t = s) := by
  obtain ⟨hwest, hnorth, heast, hsouth⟩ := hw
  have hr16 : r / 16 = 0 := by omega
  have hc16 : c / 16 = 0 := by omega
  have hcore : Grid.coreOf ⟨[n], 1, 1⟩ r c = n := by
    rw [Grid.coreOf, hr16, hc16]
    rfl
  have hpw : (if c = 0 then pieceAt (s.pieceFor true w r) else (0, 0, false, none)) = (0, 0, false, none) := by
    have : s.pieceFor true w r = none := by
      rw [State.pieceFor, if_pos rfl, hwest]
      rfl
    rw [this]
    exact ite_self _
  have hpn : (if r = 0 then pieceAt (s.pieceFor false w c) else (0, 0, false, none)) = (0, 0, false, none) := by
    have : s.pieceFor false w c = none := by
      unfold State.pieceFor
      rw [if_neg (by decide), hnorth]
      rfl
    rw [this]
    exact ite_self _
  have hcap : ∀ (t : State) (m : Nat) (e : EdgeId) (k : Nat) (line : Nat) (v : BitVec 256),
      t.capture m e (lookup none k (List.map (fun (e : Nat × (Nat × Nat)) => (e.1, some e.2)) [])) line v = t := fun _ _ _ _ _ _ => rfl
  have hsel : (!(s.core n).down && w.selects ⟨[n], 1, 1⟩ r c && !false && !false) = s.takesEffect n w r c := by
    rw [State.takesEffect, WaveEntry.selects, Grid.posOf, hr16, hc16, Nat.mod_eq_of_lt hr, Nat.mod_eq_of_lt hc]
    simp
  have hcell : s.gridCell ⟨[n], 1, 1⟩ r c = (s.core n).cell (16 * r + c) := by
    rw [State.gridCell, hcore, Nat.mod_eq_of_lt hr, Nat.mod_eq_of_lt hc]
  have hset : ∀ v, s.setGridCell ⟨[n], 1, 1⟩ r c v = s.updCore n (fun k => k.setCell (16 * r + c) v) := fun v => by
    rw [State.setGridCell, hcore, Nat.mod_eq_of_lt hr, Nat.mod_eq_of_lt hc]
  unfold State.cellStep
  dsimp only
  rw [hpw, hpn]
  simp only [hwest, hnorth, heast, hsouth, ite_self, List.getElem?_nil, hcore, hsel, hcell, hset, hcap]
  cases hte : s.takesEffect n w r c with
  | false => exact ⟨s, _, _, _, rfl, Or.inl rfl, nofun, fun _ => rfl⟩
  | true =>
    rw [if_pos rfl]
    cases heff : cellEffect w.instr (s.cellEnv ⟨[n], 1, 1⟩ w r c 0 0) ((s.core n).cell (16 * r + c)) with
    | error e => exact ⟨s, _, _, _, rfl, Or.inl rfl, nofun, nofun⟩
    | ok v => exact ⟨_, _, _, _, rfl, Or.inr ⟨v, rfl⟩, fun _ x hx => by cases hx; rfl, nofun⟩

/-! ### A diagonal of cells -/

/-- What an instruction sees from a cell does not depend on the cells of the cell's own diagonal (R102 to R104). -/
theorem State.cellEnv_congr {s t : State} {n d r c : Nat} {w v : WaveEntry} (hr : r < 16) (hc : c < 16) (hd : r + c = d)
    (hcells : ∀ r' c', r' < 16 → c' < 16 → r' + c' ≠ d → (t.core n).cell (16 * r' + c') = (s.core n).cell (16 * r' + c'))
    (hbeta : v.beta = w.beta) (hx0 : v.x0 = w.x0) (hx1 : v.x1 = w.x1) (ew en : BitVec 256) :
    t.cellEnv ⟨[n], 1, 1⟩ v r c ew en = s.cellEnv ⟨[n], 1, 1⟩ w r c ew en := by
  have hgrid : ∀ r' c', r' < 16 → c' < 16 → r' + c' ≠ d → t.gridCell ⟨[n], 1, 1⟩ r' c' = s.gridCell ⟨[n], 1, 1⟩ r' c' := fun r' c' h1 h2 h3 => by
    have hcore : Grid.coreOf ⟨[n], 1, 1⟩ r' c' = n := by
      rw [Grid.coreOf, show r' / 16 = 0 by omega, show c' / 16 = 0 by omega]
      rfl
    rw [State.gridCell, State.gridCell, hcore, Nat.mod_eq_of_lt h1, Nat.mod_eq_of_lt h2, hcells r' c' h1 h2 h3]
  have hwest : ∀ kt ks : BitVec 256 × BitVec 256, (if c = 0 then (0, 0) else if c % 16 = 0 then kt else (t.gridCell ⟨[n], 1, 1⟩ r (c - 1)).hs) =
      (if c = 0 then (0, 0) else if c % 16 = 0 then ks else (s.gridCell ⟨[n], 1, 1⟩ r (c - 1)).hs) := fun kt ks => by
    split
    · rfl
    · rw [if_neg (by omega), if_neg (by omega), hgrid _ _ hr (by omega) (by omega)]
  have hnorth : ∀ kt ks : BitVec 256 × BitVec 256, (if r = 0 then (0, 0) else if r % 16 = 0 then kt else (t.gridCell ⟨[n], 1, 1⟩ (r - 1) c).hs) =
      (if r = 0 then (0, 0) else if r % 16 = 0 then ks else (s.gridCell ⟨[n], 1, 1⟩ (r - 1) c).hs) := fun kt ks => by
    split
    · rfl
    · rw [if_neg (by omega), if_neg (by omega), hgrid _ _ (by omega) hc (by omega)]
  have heast : (if c + 1 = Grid.cols ⟨[n], 1, 1⟩ then (0, 0) else (t.gridCell ⟨[n], 1, 1⟩ r (c + 1)).hs) =
      (if c + 1 = Grid.cols ⟨[n], 1, 1⟩ then (0, 0) else (s.gridCell ⟨[n], 1, 1⟩ r (c + 1)).hs) := by
    have hcols : Grid.cols ⟨[n], 1, 1⟩ = 16 := rfl
    split
    · rfl
    · rw [hgrid _ _ hr (by omega) (by omega)]
  have hsouth : (if r + 1 = Grid.rows ⟨[n], 1, 1⟩ then (0, 0) else (t.gridCell ⟨[n], 1, 1⟩ (r + 1) c).hs) =
      (if r + 1 = Grid.rows ⟨[n], 1, 1⟩ then (0, 0) else (s.gridCell ⟨[n], 1, 1⟩ (r + 1) c).hs) := by
    have hrows : Grid.rows ⟨[n], 1, 1⟩ = 16 := rfl
    split
    · rfl
    · rw [hgrid _ _ (by omega) hc (by omega)]
  unfold State.cellEnv
  dsimp only
  rw [hbeta, hx0, hx1, hwest _ (lookup (0, 0) (64 * r + (c - 1)) w.trail), hnorth _ (lookup (0, 0) (64 * (r - 1) + c) w.trail), heast, hsouth]

/-- An instruction at cells of one diagonal of a core that stands alone (R97, R101): each has the effect of the instruction there, as it sees
the cells before, or stays. -/
theorem State.cellsStep_alone {n d : Nat} {w0 : WaveEntry} {s0 : State} :
    ∀ (ps : List (Nat × Nat)) (s : State) (w : WaveEntry), w.Bare → ps.Nodup → (∀ p ∈ ps, p.1 < 16 ∧ p.2 < 16 ∧ p.1 + p.2 = d) →
      (∃ agg trail, w = { w0 with agg := agg, trail := trail }) → (s.core n).down = (s0.core n).down →
      (∀ r c, r < 16 → c < 16 → r + c ≠ d → (s.core n).cell (16 * r + c) = (s0.core n).cell (16 * r + c)) →
      ∃ t agg trail fs, s.cellsStep ⟨[n], 1, 1⟩ w ps = (t, { w0 with agg := agg, trail := trail }, fs) ∧
        t.core n = { s.core n with cells := (t.core n).cells } ∧
        ∀ r < 16, ∀ c < 16,
          ((r, c) ∈ ps → s0.takesEffect n w0 r c = true → ∀ x,
            cellEffect w0.instr (s0.cellEnv ⟨[n], 1, 1⟩ w0 r c 0 0) ((s.core n).cell (16 * r + c)) = .ok x → (t.core n).cell (16 * r + c) = x) ∧
          ((r, c) ∉ ps ∨ s0.takesEffect n w0 r c = false → (t.core n).cell (16 * r + c) = (s.core n).cell (16 * r + c)) := by
  intro ps
  induction ps with
  | nil =>
    rintro s w hw - - ⟨agg, trail, hwe⟩ - -
    refine ⟨s, agg, trail, [], by rw [hwe]; rfl, rfl, fun r _ c _ => ⟨fun h => absurd h List.not_mem_nil, fun _ => rfl⟩⟩
  | cons p ps ih =>
    rintro s w hw hnodup hps ⟨agg, trail, hwe⟩ hdown hcells
    obtain ⟨hnot, hnodup'⟩ := List.nodup_cons.1 hnodup
    obtain ⟨hp1, hp2, hpd⟩ := hps p List.mem_cons_self
    obtain ⟨s1, agg1, trail1, f, hstep, hone, heff, hskip⟩ := State.cellStep_alone (s := s) (n := n) (r := p.1) (c := p.2) hw hp1 hp2
    have hte : s.takesEffect n w p.1 p.2 = s0.takesEffect n w0 p.1 p.2 := by
      rw [State.takesEffect, State.takesEffect, hdown, hwe]
    have henv : s.cellEnv ⟨[n], 1, 1⟩ w p.1 p.2 0 0 = s0.cellEnv ⟨[n], 1, 1⟩ w0 p.1 p.2 0 0 :=
      State.cellEnv_congr hp1 hp2 hpd hcells (by rw [hwe]) (by rw [hwe]) (by rw [hwe]) 0 0
    have hcore1 : s1.core n = { s.core n with cells := (s1.core n).cells } := by
      rcases hone with h | ⟨v, h⟩
      · rw [h]
      · rw [h, State.core_updCore_self]
        rfl
    have hother : ∀ r c, r < 16 → c < 16 → (r, c) ≠ p → (s1.core n).cell (16 * r + c) = (s.core n).cell (16 * r + c) := fun r c hr hc hne => by
      rcases hone with h | ⟨v, h⟩
      · rw [h]
      · rw [h, State.core_updCore_self, CoreArr.cell_setCell, if_neg]
        intro he
        exact hne (Prod.ext (by dsimp only; omega) (by dsimp only; omega))
    obtain ⟨t, agg', trail', fs, hrest, hcore, hall⟩ := ih s1 { w with agg := agg1, trail := trail1 } hw hnodup'
      (fun q hq => hps q (List.mem_cons_of_mem _ hq)) ⟨agg1, trail1, by rw [hwe]⟩ (by rw [hcore1]; exact hdown)
      (fun r c hr hc hne => (hother r c hr hc (fun h => hne (by rw [← h] at hpd; exact hpd))).trans (hcells r c hr hc hne))
    refine ⟨t, agg', trail', f.toList ++ fs, ?_, by rw [hcore, hcore1], fun r hr c hc => ⟨fun hmem hte' x hx => ?_, fun hno => ?_⟩⟩
    · rw [State.cellsStep.eq_2, hstep]
      dsimp only
      rw [hrest]
    · by_cases hp : (r, c) = p
      · have hr1 : r = p.1 := congrArg Prod.fst hp
        have hc1 : c = p.2 := congrArg Prod.snd hp
        subst hr1 hc1
        rw [((hall _ hp1 _ hp2).2 (Or.inl hnot)), heff (hte.trans hte') x (by rw [henv, hwe]; exact hx), State.core_updCore_self,
          CoreArr.cell_setCell, if_pos rfl]
      · have hmem' : (r, c) ∈ ps := (List.mem_cons.1 hmem).resolve_left hp
        exact (hall r hr c hc).1 hmem' hte' x (by rw [hother r c hr hc hp]; exact hx)
    · by_cases hp : (r, c) = p
      · have hr1 : r = p.1 := congrArg Prod.fst hp
        have hc1 : c = p.2 := congrArg Prod.snd hp
        subst hr1 hc1
        have hfalse : s0.takesEffect n w0 p.1 p.2 = false := hno.resolve_left (fun h => h (List.mem_cons_self))
        rw [((hall _ hp1 _ hp2).2 (Or.inl hnot)), hskip (hte.trans hfalse)]
      · rw [(hall r hr c hc).2 (hno.imp (fun h h' => h (List.mem_cons_of_mem _ h')) id), hother r c hr hc hp]

/-! ### The cycle -/

theorem Grid.delay_alone {n r c : Nat} (hr : r < 16) (hc : c < 16) : Grid.delay ⟨[n], 1, 1⟩ r c = r + c := by
  rw [Grid.delay, show r / 16 = 0 by omega, show c / 16 = 0 by omega]
  rfl

/-- The cells that an instruction reaches in an array of its own are those of a diagonal, each once (R97). -/
theorem Grid.mem_reached_alone {n d : Nat} {p : Nat × Nat} : p ∈ Grid.reached ⟨[n], 1, 1⟩ d ↔ p.1 < 16 ∧ p.2 < 16 ∧ p.1 + p.2 = d := by
  obtain ⟨r, c⟩ := p
  have hrows : Grid.rows ⟨[n], 1, 1⟩ = 16 := rfl
  have hcols : Grid.cols ⟨[n], 1, 1⟩ = 16 := rfl
  simp only [Grid.reached, List.mem_flatMap, List.mem_map, List.mem_filter, List.mem_range, beq_iff_eq, Prod.mk.injEq, hrows, hcols]
  constructor
  · rintro ⟨r', hr', c', ⟨hc', hd⟩, rfl, rfl⟩
    exact ⟨hr', hc', by rwa [Grid.delay_alone hr' hc'] at hd⟩
  · rintro ⟨hr, hc, hd⟩
    exact ⟨r, hr, c, ⟨hc, by rwa [Grid.delay_alone hr hc]⟩, rfl, rfl⟩

theorem Grid.nodup_reached (g : Grid) (d : Nat) : (g.reached d).Nodup := by
  refine List.nodup_flatMap.2 ⟨fun r _ => ?_, ?_⟩
  · exact (List.nodup_range.filter _).map fun a b h => congrArg Prod.snd h
  · refine List.nodup_range.imp fun {a b} hab => ?_
    rw [Function.onFun, List.disjoint_left]
    intro p hp hp'
    obtain ⟨x, -, rfl⟩ := List.mem_map.1 hp
    obtain ⟨y, -, hy⟩ := List.mem_map.1 hp'
    exact hab (congrArg Prod.fst hy).symm

theorem State.cores_failLaunch (s : State) (r : FaultRec) : (s.failLaunch r).cores = s.cores := by
  unfold State.failLaunch
  dsimp only
  split <;> split <;> rfl

theorem State.cores_failTask (s : State) (t cause : Nat) : (s.failTask t cause).cores = s.cores := by
  unfold State.failTask
  split
  · rfl
  · dsimp only
    exact foldl_updThread_keeps State.cores (fun _ _ _ _ => rfl) _ (fun i => i) (fun _ th => { th with status := .idle, owner := .none, traps := [], loop := none, trig := none }) _ _

theorem State.cores_fail (s : State) (i : Issue) (cause addr : Nat) (w : BitVec 32) : (s.fail i cause addr w).cores = s.cores := by
  unfold State.fail
  dsimp only
  split
  · rfl
  · exact State.cores_failLaunch _ _
  · split
    · exact State.cores_failLaunch _ _
    · exact State.cores_failTask _ _ _

/-- A report of a core changes no cell and nothing of the wave but the mark of the report (R437). -/
theorem State.core_waveFails (s : State) (n : Nat) (i : Issue) (cause detail pos row col age : Nat) :
    ∃ f, (s.waveFails n i cause detail pos row col age).core n = { s.core n with waveFault := f } := by
  unfold State.waveFails
  split
  next f hf => exact ⟨(s.core n).waveFault, rfl⟩
  · refine ⟨some age, ?_⟩
    rw [State.core, State.cores_fail]
    exact State.core_updCore_self s n _

/-- A wave cycle of one instruction in an array of its own (R97, R101, R108, R481). -/
theorem cellsExecute (s : State) (n : Fin 192) (w : WaveEntry) (hhold : (s.core n).hold = none) (hblock : s.blocker n = none)
    (hwave : (s.core n).wave = [w]) (hchain : (s.core n).chain n = ⟨[n.val], 1, 1⟩) (hwest : w.west = []) (hnorth : w.north = [])
    (heast : w.east = []) (hsouth : w.south = []) :
    ∃ t, exec (.cellExecute n) s = .next t ∧ (t.core n).waveAt = (s.core n).waveAt + 1 ∧
      (w.elapsed < 30 → ∃ x, (t.core n).wave = [x] ∧ x.elapsed = w.elapsed + 1 ∧ x.instr = w.instr ∧ x.wid = w.wid ∧ x.sel = w.sel) ∧
      (30 ≤ w.elapsed → (t.core n).wave = []) ∧
      ∀ r < 16, ∀ c < 16,
        let here := (s.core n).cell (16 * r + c)
        let after := (t.core n).cell (16 * r + c)
        (r + c = w.elapsed → (s.core n).down = false → w.sel.getLsbD 32 = true → w.sel.getLsbD r = true → w.sel.getLsbD (16 + c) = true → ∀ x,
          cellEffect w.instr (s.cellEnv ((s.core n).chain n) w r c 0 0) here = .ok x → after = x) ∧
        ((r + c ≠ w.elapsed ∨ (s.core n).down = true ∨ w.sel.getLsbD 32 = false ∨ w.sel.getLsbD r = false ∨ w.sel.getLsbD (16 + c) = false) → after = here) := by
  obtain ⟨a, agg, trail, fs, hcells, hcore, hall⟩ := State.cellsStep_alone (n := n) (d := w.elapsed) (w0 := w) (s0 := s)
    (Grid.reached ⟨[n.val], 1, 1⟩ w.elapsed) s w ⟨hwest, hnorth, heast, hsouth⟩ (Grid.nodup_reached _ _) (fun p hp => Grid.mem_reached_alone.1 hp)
    ⟨w.agg, w.trail, rfl⟩ rfl (fun _ _ _ _ _ => rfl)
  obtain ⟨x, hx⟩ : ∃ x : WaveEntry, x = { w with agg := agg, trail := trail, elapsed := w.elapsed + 1 } := ⟨_, rfl⟩
  have hentries : s.entriesStep ⟨[n.val], 1, 1⟩ [w] = (a, [x], fs ++ []) := by
    rw [State.entriesStep.eq_2, hcells, hx]
    rfl
  have hspan : Grid.span ⟨[n.val], 1, 1⟩ = 30 := Grid.delay_alone (r := 15) (c := 15) (by decide) (by decide)
  obtain ⟨t, hcycle, hat, hwave1, hcells1⟩ : ∃ t : State, s.waveCycle n = t ∧ (t.core n).waveAt = (a.core n).waveAt + 1 ∧
      (t.core n).wave = [x].filter (fun w => decide (w.elapsed ≤ 30)) ∧ (t.core n).cells = (a.core n).cells := by
    obtain ⟨s1, hs1⟩ : ∃ s1, s1 = a.updCore n (fun k => { k with
        wave := [x].filter (fun w => decide (w.elapsed ≤ 30))
        doneAggs := ([x].filter (fun w => decide (30 < w.elapsed))).foldl (fun m w => insertAt w.wid (k.waveAt + 2, w.agg) m) k.doneAggs
        waveAt := k.waveAt + 1
        waveFault := k.waveFault.map (fun t => t + 1) }) := ⟨_, rfl⟩
    have hfields : (s1.core n).waveAt = (a.core n).waveAt + 1 ∧ (s1.core n).wave = [x].filter (fun w => decide (w.elapsed ≤ 30)) ∧
        (s1.core n).cells = (a.core n).cells := by
      rw [hs1, State.core_updCore_self]
      exact ⟨rfl, rfl, rfl⟩
    unfold State.waveCycle
    dsimp only
    rw [hchain, hwave, hentries, hspan]
    dsimp only
    rw [← hs1]
    split
    · exact ⟨_, rfl, hfields⟩
    next f _ =>
      obtain ⟨m, hm⟩ := s1.core_waveFails n f.2.2.2.2 f.1 f.2.1 (Grid.posOf ⟨[n.val], 1, 1⟩ f.2.2.1 f.2.2.2.1) f.2.2.1 f.2.2.2.1 1
      refine ⟨_, rfl, ?_⟩
      rw [hm]
      exact hfields
  have hstep : s.cellExecute n = t := by
    unfold State.cellExecute
    rw [hhold, hblock]
    exact hcycle
  have hcell : ∀ i, (t.core n).cell i = (a.core n).cell i := fun i => by rw [CoreArr.cell, CoreArr.cell, hcells1]
  have hun : t.unblock.core n = t.core n := rfl
  refine ⟨t.unblock, congrArg (fun t : State => Host.Outcome.next t.unblock) hstep, ?_, fun hlt => ⟨x, ?_, by rw [hx], by rw [hx], by rw [hx], by rw [hx]⟩,
    fun hle => ?_, fun r hr c hc => ?_⟩
  · rw [hun, hat, hcore]
  · have hk : x.elapsed ≤ 30 := by rw [hx]; exact hlt
    rw [hun, hwave1, List.filter_singleton, decide_eq_true hk]
    rfl
  · have hk : ¬ x.elapsed ≤ 30 := by rw [hx]; exact Nat.not_le.2 (Nat.lt_succ_of_le hle)
    rw [hun, hwave1, List.filter_singleton, decide_eq_false hk]
    rfl
  · intro here after
    have hafter : after = (a.core n).cell (16 * r + c) := hcell _
    obtain ⟨heff, hstay⟩ := hall r hr c hc
    rw [hafter]
    refine ⟨fun hd hdown h32 hrow hcol y hy => ?_, fun hno => hstay ?_⟩
    · exact heff (Grid.mem_reached_alone.2 ⟨hr, hc, hd⟩) (by rw [State.takesEffect, hdown, h32, hrow, hcol]; rfl) y (by rw [← hchain]; exact hy)
    · rcases hno with h | h | h | h | h
      · exact Or.inl (fun hm => h (Grid.mem_reached_alone.1 hm).2.2)
      all_goals refine Or.inr ?_; rw [State.takesEffect, h]; simp

/-- Settles O54: a wave cycle of an array that stands alone, a hold line that is raised, and one that drops. -/
theorem cellsExecuteInWaveOrder : Obligations.CellsExecuteInWaveOrder := by
  refine ⟨cellsExecute, fun s n b r c w hhold hblock => ?_, fun s n hhold hblock => ?_⟩
  · refine congrArg (fun t : State => Host.Outcome.next t.unblock) ?_
    unfold State.cellExecute
    rw [hhold, hblock]
    rfl
  · obtain ⟨h, hh⟩ := Option.ne_none_iff_exists'.1 hhold
    have hstep : s.holdDrop n = s.updCore n (fun k => k.dropHold (s.cycles n + 1)) := by
      unfold State.holdDrop
      rw [hh, hblock]
      rfl
    have hcore : (s.holdDrop n).unblock.core n = (s.core n).dropHold (s.cycles n + 1) := by
      rw [hstep]
      exact State.core_updCore_self s n (fun k => k.dropHold (s.cycles n + 1))
    exact ⟨(s.holdDrop n).unblock, rfl, by rw [hcore]; rfl, by rw [hcore]; rfl, by rw [hcore]; rfl, by rw [hcore]; rfl, by rw [hstep]; rfl⟩

end Sys2Proof.Machine
end


section
/-! PROOFS. Edge streams and library strokes (R107, R118, R121, R122, R311, R312, R336, R337). -/

namespace Sys2Proof.Machine

/-! ### What submitting an access leaves of a core -/

/-- A core without its tag table and its granules' bits, which fills change (R143). -/
def State.besides (s : State) (n : Nat) : CoreArr := { s.core n with tags := [], full := [] }

theorem State.besides_updCore (s : State) (n m : Nat) (f : CoreArr → CoreArr)
    (hf : ∀ k, ({ f k with tags := [], full := [] } : CoreArr) = { k with tags := [], full := [] }) :
    (s.updCore m f).besides n = s.besides n := by
  rw [State.besides, State.besides, State.core_updCore]
  split
  next h => rw [h, hf]
  · rfl

theorem State.besides_evicted (s : State) (n c slot i : Nat) : (s.evicted c slot i).besides n = s.besides n := by
  unfold State.evicted
  dsimp only
  refine (foldl_keeps (g := fun s => s.besides n) (f := fun s (r : Req) => State.updCore s c (fun k => k.startFill slot (r.va / 128)))
    (fun s r => State.besides_updCore s n c _ (fun _ => rfl)) _ _).trans ?_
  exact State.besides_updCore s n c _ (fun _ => rfl)

theorem State.cores_notePosts (s : State) (r : Req) (ps : List (Nat × Nat)) : (s.notePosts r ps).cores = s.cores := by
  unfold State.notePosts; dsimp only; split <;> rfl

theorem State.besides_submit (s : State) (r : Req) (n : Nat) : (s.submit r).besides n = s.besides n := by
  have hcores : ∀ t u : State, t.cores = u.cores → t.besides n = u.besides n := fun t u h => by
    rw [State.besides, State.besides, State.core, State.core, h]
  have hone : ∀ (t : State) (q : Req), (t.sendOne q).besides n = t.besides n :=
    State.sendOne_keeps (fun s => State.besides s n) (fun s c sl i => s.besides_evicted n c sl i) (fun _ _ => rfl) (fun _ _ _ => rfl)
      (fun s p f => hcores _ _ (by unfold State.sendFlit; split <;> rfl)) (fun s r ps => hcores _ _ (s.cores_notePosts r ps))
  have hsend : ∀ t : State, t.sendReady.besides n = t.besides n := fun t => foldl_keeps (g := fun s => State.besides s n) hone _ t
  rw [State.submit, hsend]
  exact hcores _ _ (State.cores_walked ..)

theorem State.edge_submit (s : State) (r : Req) (n : Nat) (e : EdgeId) : ((s.submit r).core n).edge e = (s.core n).edge e := by
  have h := s.besides_submit r n
  cases e
  · exact (congrArg CoreArr.west h :)
  · exact (congrArg CoreArr.north h :)
  · exact (congrArg CoreArr.east h :)
  · exact (congrArg CoreArr.south h :)

theorem State.edge_updEdge (s : State) (n : Nat) (e : EdgeId) (f : EdgeUnit → EdgeUnit) :
    ((s.updEdge n e f).core n).edge e = f ((s.core n).edge e) := by
  rw [State.core_updEdge, CoreArr.edge_setEdge, if_pos rfl]

/-! ### HEADER_READ (R311, R312) -/

/-- A scratchpad without poison gives its bytes as they stand. -/
theorem State.readVa_sound {s : State} {i : Issue} {p va n core off : Nat} {g : Target} (hn : 0 < n) (h : va % 128 + n ≤ 128)
    (ht : s.translate p (tlbUnit i) va .read = .ok g) (hl : s.isLocal g = true) (hg : locate (localOf g.pa) = .scratch core off)
    (hi : i.unit < 224 ∨ 240 ≤ i.unit) (hp : ∀ k, lookup false k (s.core core).gpoison = false) :
    s.readVa i p va n = .ok s (memRead s.mem (localOf g.pa) n) false := by
  have hnear : s.readsNear i g = true := by
    simp only [State.readsNear, State.isNear, hl, hg, Bool.and_true, Bool.true_and, Bool.not_eq_true', Bool.and_eq_false_iff, decide_eq_false_iff_not]
    omega
  have hread : s.readNear g n = (memRead s.mem (localOf g.pa) n, false) := by simp only [State.readNear, hg, hp, List.any_eq_false.2 (fun _ _ => Bool.false_ne_true)]
  rw [State.readVa_one hn h, State.readPiece, ht]
  simp only [hnear, if_true, hread]

/-- The captures of a writer's only stream, counted anew when its groups are known: those beyond its groups go nowhere (R118). -/
theorem State.recount_single {s : State} {n : Nat} {e : EdgeId} {z : Stream} (h : ((s.core n).edge e).streams = [z]) :
    ∃ z', ((((s.recount n e z.sid).core n).edge e).streams) = [z'] ∧ z'.fst = z.fst ∧ z'.sid = z.sid ∧ z'.taken = min z.taken z.total ∧ z'.total = z.total ∧
      (s.recount n e z.sid).mem = s.mem := by
  obtain ⟨z', hz'⟩ : ∃ z' : Stream, z' = { z with taken := min z.taken z.total, finished := decide (z.total ≤ z.taken) } := ⟨_, rfl⟩
  have hstreams : (((s.core n).edge e).recount z.sid).1.streams = [z'] := by
    unfold EdgeUnit.recount
    rw [h, List.find?_singleton, if_pos (by simp), hz']
    simp
  have hclose : (((s.core n).edge e).recount z.sid).1.closeThird = (((s.core n).edge e).recount z.sid).1 := by
    unfold EdgeUnit.closeThird
    dsimp only
    rw [if_neg]
    rw [hstreams]
    exact Nat.not_le.2 (lt_of_le_of_lt (List.length_filter_le _ _) (Nat.lt_of_sub_pos Nat.two_pos))
  have hedge : ((s.recount n e z.sid).core n).edge e = (((s.core n).edge e).recount z.sid).1 := by
    unfold State.recount
    dsimp only
    rw [State.core_updCore]
    split
    next hw =>
      rw [← hw]
      refine Eq.trans ?_ ((s.edge_updEdge n e (fun _ => (((s.core n).edge e).recount z.sid).1.closeThird)).trans hclose)
      cases e <;> rfl
    · exact (s.edge_updEdge n e (fun _ => (((s.core n).edge e).recount z.sid).1.closeThird)).trans hclose
  refine ⟨z', by rw [hedge, hstreams], by rw [hz'], by rw [hz'], by rw [hz'], by rw [hz'], rfl⟩

/-- Groups of a stream of an edge unit by its header (R313, R314, R316). -/
def groupsOf (e : EdgeId) (x : Stream) (y : StreamEnd) (h : Header) : Nat :=
  match e with
  | .west => loaderTotal true x.panel (x.prune != 0 || y.form.fmt == fmtNM) h
  | .north => loaderTotal false x.panel (x.prune != 0 || y.form.fmt == fmtNM) h
  | .east => writerTotal true x.panel h
  | .south => writerTotal false x.panel h

/-- A stream's first header that has come, is sound and passes its checks (R312). -/
theorem State.headerRead_first {s : State} {n : Nat} {e : EdgeId} {x : Stream} {y : StreamEnd} {bs : List Byte}
    (hread : s.toRead n e = some x) (hhdr : x.fst.hdr = none) (hal : x.fst.hdrVa % 64 = 0)
    (hbytes : s.readVa (x.reader n e) ((s.partOfUnit n).getD 0) x.fst.hdrVa 64 = .ok s bs false)
    (hcheck : s.checkEnd ((s.partOfUnit n).getD 0) (tlbUnit (x.reader n e)) e x x.fst (headerOf bs) none = .ok y)
    (hov : (headerOf bs).bmovf = false) :
    s.headerRead n e =
      if writer e = true then ((s.clearInbox (x.reader n e)).updEdge n e (fun u => u.upd x.sid (fun z =>
        { z with fst := y, total := groupsOf e x y (headerOf bs) }))).recount n e x.sid
      else (s.clearInbox (x.reader n e)).updEdge n e (fun u => u.upd x.sid (fun z => { z with fst := y, total := groupsOf e x y (headerOf bs) })) := by
  unfold State.headerRead
  rw [hread]
  dsimp only
  rw [hhdr]
  dsimp only [Option.isSome_none]
  simp only [Bool.false_eq_true, if_false]
  rw [if_neg (not_not.2 hal), hbytes]
  simp only [Bool.false_eq_true, if_false, hcheck, hov, Bool.and_false, Bool.not_false, Bool.and_true]
  cases e <;> rfl

/-- HEADER_READ of a header in a scratchpad (R311, R312). -/
theorem headersAreRead (s : State) (n : Fin 192) (e : EdgeId) (x : Stream) (core off : Nat) (g : Target) (y : StreamEnd)
    (hread : s.toRead n e = some x) (hhdr : x.fst.hdr = none) (hal : x.fst.hdrVa % 64 = 0)
    (htr : s.translate ((s.partOfUnit n).getD 0) (tlbUnit (x.reader n e)) x.fst.hdrVa .read = .ok g) (hloc : s.isLocal g = true)
    (hscr : locate (localOf g.pa) = .scratch core off) (hp : ∀ k, lookup false k (s.core core).gpoison = false)
    (hcheck : s.checkEnd ((s.partOfUnit n).getD 0) (tlbUnit (x.reader n e)) e x x.fst (headerOf (memRead s.mem (localOf g.pa) 64)) none = .ok y)
    (hov : (headerOf (memRead s.mem (localOf g.pa) 64)).bmovf = false) (hone : ((s.core n).edge e).streams = [x]) :
    ∃ t z, exec (.headerRead n e) s = .next t ∧ t.mem = s.mem ∧ ((t.core n).edge e).streams = [z] ∧ z.fst = y ∧ z.sid = x.sid ∧
      z.taken = (if writer e = true then min x.taken z.total else x.taken) := by
  have hbytes : s.readVa (x.reader n e) ((s.partOfUnit n).getD 0) x.fst.hdrVa 64 = .ok s (memRead s.mem (localOf g.pa) 64) false :=
    State.readVa_sound (by decide) (by omega) htr hloc hscr (Or.inl (by have := n.isLt; show n.val < 224; omega)) hp
  have hstep := State.headerRead_first hread hhdr hal hbytes hcheck hov
  obtain ⟨total, htot⟩ : ∃ total, total = groupsOf e x y (headerOf (memRead s.mem (localOf g.pa) 64)) := ⟨_, rfl⟩
  rw [← htot] at hstep
  obtain ⟨s2, hs2⟩ : ∃ s2, s2 = (s.clearInbox (x.reader n e)).updEdge n e (fun u => u.upd x.sid (fun z => { z with fst := y, total := total })) := ⟨_, rfl⟩
  obtain ⟨z, hz⟩ : ∃ z : Stream, z = { x with fst := y, total := total } := ⟨_, rfl⟩
  have hstreams : ((s2.core n).edge e).streams = [z] := by
    rw [hs2, State.edge_updEdge]
    have hc : (((s.clearInbox (x.reader n e)).core n).edge e).streams = [x] := hone
    rw [EdgeUnit.upd, hc, hz]
    simp
  rw [← hs2] at hstep
  cases hw : writer e with
  | false =>
    rw [hw, if_neg Bool.false_ne_true] at hstep
    refine ⟨s2.unblock, z, congrArg (fun t : State => Host.Outcome.next t.unblock) hstep, by rw [hs2]; rfl, hstreams, by rw [hz], by rw [hz], ?_⟩
    rw [if_neg Bool.false_ne_true, hz]
  | true =>
    have hsid : x.sid = z.sid := by rw [hz]
    rw [hw, if_pos rfl, hsid] at hstep
    obtain ⟨z', h1, h2, h3, h4, htotal, h5⟩ := State.recount_single hstreams
    refine ⟨(s2.recount n e z.sid).unblock, z', congrArg (fun t : State => Host.Outcome.next t.unblock) hstep, ?_, h1, by rw [h2, hz], by rw [h3, hsid], ?_⟩
    · exact h5.trans (by rw [hs2]; rfl)
    · rw [if_pos rfl, h4, htotal, hz]

/-! ### Writers (R118, R121, R312) -/

theorem State.edge_fillAll (s : State) (i : Issue) (stash : Bool) (fs : List Fill) (n : Nat) (e : EdgeId) :
    ((s.fillAll i stash fs).core n).edge e = (s.core n).edge e := by
  have hone : ∀ (t : State) (out : List Nat) (l : List Fill),
      ((l.foldl (fun s f => State.fillGranule s i out f) t).core n).edge e = (t.core n).edge e := fun t out l =>
    foldl_keeps (g := fun s => (State.core s n).edge e) (f := fun s f => State.fillGranule s i out f) (fun s f => s.edge_submit _ n e) l t
  unfold State.fillAll
  split
  · exact hone s [] fs
  · exact foldl_keeps (g := fun s => (State.core s n).edge e)
      (f := fun s t => (fs.filter (fun f => f.turn == t)).foldl (fun u f => State.fillGranule u i (s.writesOut i.unit i.thr) f) s)
      (fun s t => hone s _ _) _ s

theorem State.core_flagStream (s : State) (x : Stream) (f : BitVec 8) (n : Nat) : (s.flagStream x f).core n = s.core n := by
  unfold State.flagStream
  split <;> rfl

/-- A group that a writer writes leaves its buffer, and its stream counts it (R118, R312). -/
theorem State.edge_writeGroup (s : State) (n : Nat) (e : EdgeId) (x : Stream) (h : Header) (vs : List (BitVec 256))
    (hone : ((s.core n).edge e).streams = [x]) :
    ∃ z, (((s.writeGroup n e x h vs).core n).edge e).streams = [z] ∧ z.sid = x.sid ∧ z.written = x.written + 1 ∧
      (((s.writeGroup n e x h vs).core n).edge e).buffer = ((s.core n).edge e).buffer.filter (fun c => !(c.1 == x.sid && c.2.1 == x.written)) := by
  unfold State.writeGroup
  dsimp only
  rw [State.core_flagStream, State.edge_updEdge, State.edge_fillAll]
  dsimp only [EdgeUnit.upd]
  rw [hone, List.map_singleton, if_pos rfl]
  exact ⟨_, rfl, rfl, rfl, rfl⟩

/-- WRITER_WRITE of a stream's next whole group (R118, R312). -/
theorem writersWrite (s : State) (n : Fin 192) (e : EdgeId) (x : Stream) (h : Header) (vs : List (BitVec 256)) (he : e = .east ∨ e = .south)
    (hone : ((s.core n).edge e).streams = [x]) (hhdr : x.fst.hdr = some h) (hknown : x.known = true)
    (hgroup : ((s.core n).edge e).group x.sid x.written = some vs) :
    ∃ t z, exec (.writerWrite n e) s = .next t ∧ ((t.core n).edge e).streams = [z] ∧ z.sid = x.sid ∧ z.written = x.written + 1 ∧
      ((t.core n).edge e).buffer = ((s.core n).edge e).buffer.filter (fun c => !(c.1 == x.sid && c.2.1 == x.written)) := by
  have hturn : s.writeTurn n e x = some (s.writeGroup n e x h vs) := by
    unfold State.writeTurn
    rw [hhdr]
    dsimp only
    rw [hknown, if_pos rfl, hgroup]
  have hstep : s.writerWrite n e = s.writeGroup n e x h vs := by
    have hw : writer e = true := by rcases he with rfl | rfl <;> rfl
    rw [State.writerWrite, hw, if_pos rfl, hone, List.findSome?_cons, hturn]
    rfl
  obtain ⟨z, hz⟩ := s.edge_writeGroup n e x h vs hone
  exact ⟨(s.writeGroup n e x h vs).unblock, z, congrArg (fun t : State => Host.Outcome.next t.unblock) hstep, hz⟩

theorem State.reqs_pushReq_first {s : State} (h : s.reqs = []) (r : Req) :
    ∃ r', (s.pushReq r).reqs = [r'] ∧ r'.op = r.op ∧ r'.pa = r.pa ∧ r'.size = r.size := by
  refine ⟨{ r with id := s.nextId, after := r.after ++ (if r.release then s.accessesOut r.by_.unit r.by_.thr else s.acquiresOut r.by_.unit r.by_.thr) }, ?_, rfl, rfl, rfl⟩
  unfold State.pushReq
  dsimp only
  rw [h, List.nil_append]

/-- AMAX_SEND of a running maximum that is due (R121, R202). -/
theorem amaxIsSent (s : State) (n : Fin 192) (e : EdgeId) (x : Stream) (h : Header) (g : Target) (hone : ((s.core n).edge e).streams = [x])
    (hhdr : x.fst.hdr = some h) (hamax : h.amax ≠ 0) (hal : h.amax % 4 = 0) (hphase : x.phase < 2)
    (hdue : decide (x.sent < ((s.core n).edge e).captured x / 64) = true ∨ x.phase = 1) (hreqs : s.reqs = [])
    (htr : s.translate ((s.partOfUnit n).getD 0) (tlbUnit (x.reader n e)) h.amax .atomic = .ok g) (hloc : s.isLocal g = true) :
    ∃ t r, exec (.amaxSend n e) s = .next t ∧ t.reqs = [r] ∧ r.op = .amax (x.amax.setWidth 64) ∧ r.pa = g.pa ∧ r.size = 4 ∧ t.mem = s.mem ∧
      ((t.core n).edge e).streams = [{ x with sent := x.sent + 1, phase := if x.phase = 1 ∧ decide (x.sent < ((s.core n).edge e).captured x / 64) = false then 2 else x.phase,
                                              amaxOut := x.amaxOut ++ [s.nextId] }] := by
  have hfind : ((s.core n).edge e).streams.find? ((s.core n).edge e).amaxDue = some x := by
    have hx : ((s.core n).edge e).amaxDue x = true := by
      unfold EdgeUnit.amaxDue
      rw [hhdr]
      dsimp only
      rw [bne_iff_ne.2 hamax, decide_eq_true hphase]
      simpa [EdgeUnit.sendDue] using hdue
    rw [hone, List.find?_singleton, if_pos hx]
  obtain ⟨m, hm⟩ : ∃ m, m = s.updEdge n e (fun u => u.upd x.sid (fun z =>
      { z with sent := z.sent + 1, phase := if z.phase = 1 && !((s.core n).edge e).sendDue x then 2 else z.phase, amaxOut := z.amaxOut ++ [s.nextId] })) := ⟨_, rfl⟩
  obtain ⟨r, hr⟩ : ∃ r : Req, r =
      { id := 0, by_ := x.by_, part := (s.partOfUnit n).getD 0, va := h.amax, pa := g.pa, size := 4, cls := g.cls, kslot := g.kslot,
        op := .amax (x.amax.setWidth 64), acquire := false, release := false, check := none, after := [], born := s.now, status := .waiting,
        dropped := false, reply := none } := ⟨_, rfl⟩
  have hstep : s.amaxSend n e = m.submit r := by
    unfold State.amaxSend
    dsimp only
    rw [hfind]
    dsimp only
    rw [hhdr]
    dsimp only [Option.map_some, Option.getD_some]
    rw [htr]
    dsimp only
    rw [if_neg (not_not.2 hal), hm, hr]
    rfl
  have hmreqs : m.reqs = [] := by rw [hm]; exact hreqs
  have hsub : m.submit r = (m.walked (tlbUnit r.by_) r.part r.va).pushReq r := by
    refine State.submit_here (fun q hq => by rw [hmreqs] at hq; cases hq) ?_ (fun sl hop => by rw [hr] at hop; cases hop)
    rw [hr, hm]
    exact beq_iff_eq.1 hloc
  obtain ⟨r', hreq, hop, hpa, hsize⟩ := State.reqs_pushReq_first (s := m.walked (tlbUnit r.by_) r.part r.va) (by rw [State.reqs_walked, hmreqs]) r
  have hedge : ((m.submit r).core n).edge e = ((s.core n).edge e).upd x.sid (fun z =>
      { z with sent := z.sent + 1, phase := if z.phase = 1 && !((s.core n).edge e).sendDue x then 2 else z.phase, amaxOut := z.amaxOut ++ [s.nextId] }) := by
    rw [State.edge_submit, hm, State.edge_updEdge]
  have hmem : (m.submit r).mem = s.mem := (State.mem_of_still (State.still_submit m r)).trans (by rw [hm]; rfl)
  refine ⟨(m.submit r).unblock, r', congrArg (fun t : State => Host.Outcome.next t.unblock) hstep, by rw [State.unblock_reqs, hsub, hreq], by rw [hop, hr], by rw [hpa, hr],
    by rw [hsize, hr], hmem, ?_⟩
  have hun : ((m.submit r).unblock.core n).edge e = ((m.submit r).core n).edge e := rfl
  rw [hun, hedge, EdgeUnit.upd, hone]
  simp only [List.map_singleton, if_true, EdgeUnit.sendDue, Bool.and_eq_true, decide_eq_true_eq, Bool.not_eq_true']

/-! ### Library strokes (R122, R336, R337) -/

/-- Behind an empty nib the next step of a stroke begins (R107, R122, R337). -/
theorem strokesBegin (s : State) (n : Fin 192) (x : Stroke) (hnib : (s.core n).nib = []) (hstroke : (s.core n).stroke = some x) (hdue : x.due = none)
    (hhold : (s.core n).hold = none) (hblock : s.blocker n = none) (hfault : (s.core n).waveFault = none) (hmay : s.mayDepart n = true)
    (hwave : (s.core n).wave = []) (hprog : x.prog < 64) :
    let c := max (s.core n).waveAt (s.cycles n)
    ∃ t, exec (.nibDeparture n) s = .next t ∧ t.mem = s.mem ∧ (t.core n).cells = (s.core n).cells ∧
      (t.core n).prog = (if x.begun = true then (s.core n).prog else 0) ∧
      (t.core n).stroke = some { x with begun := true, due := some (c + strokeCycles x.instr) } := by
  intro c
  have hgo : (x.due.isNone && (s.core n).hold.isNone && (s.blocker n).isNone && (s.core n).unfaulted && s.mayDepart n &&
      (s.core n).spaced ((s.core n).chain n) .wdrain) = true := by
    have hun : (s.core n).unfaulted = true := by rw [CoreArr.unfaulted, hfault]
    have hsp : (s.core n).spaced ((s.core n).chain n) .wdrain = true := by
      unfold CoreArr.spaced
      rw [hwave]
      rfl
    rw [hun, hsp, hdue, hhold, hblock, hmay]
    rfl
  have hstep : s.nibDeparture n = s.updCore n (fun k => k.startStep (if k.wave.isEmpty then max k.waveAt (s.cycles n) else k.waveAt) x) := by
    unfold State.nibDeparture
    dsimp only
    rw [hnib]
    dsimp only
    rw [hstroke]
    exact if_pos hgo
  have hcore : (s.nibDeparture n).core n = (s.core n).startStep c x := by
    rw [hstep, State.core_updCore_self, hwave]
    rfl
  have hun : (s.nibDeparture n).unblock.core n = (s.nibDeparture n).core n := rfl
  refine ⟨(s.nibDeparture n).unblock, rfl, by rw [hstep]; rfl, ?_, ?_, ?_⟩
  · rw [hun, hcore]
    rfl
  · rw [hun, hcore]
    rfl
  · rw [hun, hcore, CoreArr.startStep, if_neg (Nat.not_le.2 hprog)]

/-- A step's work keeps what the stroke is and whether it has begun. -/
theorem CoreArr.strokeWork_keeps (k : CoreArr) (t : Stroke) : (k.strokeWork t).2.1.instr = t.instr ∧ (k.strokeWork t).2.1.begun = t.begun := by
  unfold CoreArr.strokeWork
  dsimp only
  split
  · split <;> exact ⟨rfl, rfl⟩
  · split <;> exact ⟨rfl, rfl⟩
  all_goals exact ⟨rfl, rfl⟩

/-- A step of a stroke completes (R122, R336, R337). -/
theorem strokeStepsComplete (s : State) (n : Fin 192) (x : Stroke) (due : Nat) (hstroke : (s.core n).stroke = some x) (hbegun : x.begun = true)
    (hdue : x.due = some due) (hwave : (s.core n).wave = []) (hfault : (s.core n).waveFault = none) (hprog : x.prog < 64) :
    ∃ t, exec (.strokeStep n) s = .next t ∧ t.mem = s.mem ∧
      (t.core n).cells = ((s.core n).strokeWork x).1.cells ∧ (t.core n).pv = ((s.core n).strokeWork x).1.pv ∧
      (x.prog = 63 → (t.core n).stroke = none ∧ (t.core n).progDue = some due) ∧
      (x.prog < 63 → (t.core n).prog = BitVec.ofNat 64 (x.prog + 1) ∧ t.now = max s.now (s.timeOfCycle n due) ∧
        ∃ y, (t.core n).stroke = some y ∧ y.prog = x.prog + 1 ∧ y.instr = x.instr ∧ (y.due ≠ none ↔ s.mayDepart n = true)) := by
  obtain ⟨r, hr⟩ : ∃ r, r = (s.core n).strokeWork x := ⟨_, rfl⟩
  obtain ⟨hinstr, hbegun'⟩ := CoreArr.strokeWork_keeps (s.core n) x
  rw [← hr] at hinstr hbegun'
  obtain ⟨k1, hk1⟩ : ∃ k1 : CoreArr, k1 = { r.1 with pivstat := if r.2.2 then pivotEvent r.1.pivstat (!x.event) x.prog else r.1.pivstat } := ⟨_, rfl⟩
  obtain ⟨y, hy⟩ : ∃ y : Stroke, y = { r.2.1 with prog := x.prog + 1, event := x.event || r.2.2 } := ⟨_, rfl⟩
  obtain ⟨k2, hk2⟩ : ∃ k2, k2 = if x.prog = 63 then k1.endStroke n y due else k1.stepDone y due (s.mayDepart n) := ⟨_, rfl⟩
  obtain ⟨s1, hs1⟩ : ∃ s1, s1 = (s.passTo (s.timeOfCycle n (x.workAt due))).setCore n k2 := ⟨_, rfl⟩
  obtain ⟨t, ht, htcore, htmem, htnow⟩ : ∃ t : State, s.strokeStep n = t ∧ t.core n = k2 ∧ t.mem = s.mem ∧ t.now = max s.now (s.timeOfCycle n (x.workAt due)) := by
    have hcore : s1.core n = k2 := by rw [hs1]; exact lookup_insertAt_self _ _ _ _
    have hmem : s1.mem = s.mem := by rw [hs1]; rfl
    have hnow : s1.now = max s.now (s.timeOfCycle n (x.workAt due)) := by rw [hs1]; rfl
    unfold State.strokeStep
    dsimp only
    rw [hstroke]
    dsimp only [Option.bind_some]
    rw [hdue]
    dsimp only [Option.map_some]
    rw [hwave, hfault]
    simp only [List.isEmpty_nil, Bool.not_true, Option.isSome_none, Bool.or_self, Bool.false_eq_true, if_false]
    rw [if_neg (Nat.not_le.2 hprog), ← hr, ← hy, ← hk1, ← hk2, ← hs1]
    split
    · exact ⟨_, rfl, hcore, hmem, hnow⟩
    · exact ⟨_, rfl, hcore, hmem, hnow⟩
  have hun : t.unblock.core n = k2 := htcore
  refine ⟨t.unblock, congrArg (fun t : State => Host.Outcome.next t.unblock) ht, htmem, ?_, ?_, fun h63 => ?_, fun hlt => ?_⟩
  · rw [hun, hk2, ← hr]
    have hend : (k1.endStroke n y due).cells = r.1.cells := by rw [hk1]; rfl
    have hdone : (k1.stepDone y due (s.mayDepart n)).cells = r.1.cells := by
      rw [hk1]
      cases s.mayDepart n <;> rfl
    split
    · exact hend
    · exact hdone
  · rw [hun, hk2, ← hr]
    have hend : (k1.endStroke n y due).pv = r.1.pv := by rw [hk1]; rfl
    have hdone : (k1.stepDone y due (s.mayDepart n)).pv = r.1.pv := by
      rw [hk1]
      cases s.mayDepart n <;> rfl
    split
    · exact hend
    · exact hdone
  · rw [hun, hk2, if_pos h63]
    exact ⟨rfl, rfl⟩
  · have hwork : x.workAt due = due := if_pos hlt
    have hyprog : y.prog = x.prog + 1 := by rw [hy]
    have hyinstr : y.instr = x.instr := by rw [hy]; exact hinstr
    have hybegun : y.begun = true := by rw [hy]; exact hbegun'.trans hbegun
    rw [hun, hk2, if_neg (by omega)]
    cases hmay : s.mayDepart n with
    | true =>
      refine ⟨?_, by rw [← hwork]; exact htnow, { y with begun := true, due := some (due + (if 64 ≤ y.prog then 0 else strokeCycles y.instr)) }, rfl, hyprog, hyinstr, by simp⟩
      show (if y.begun then BitVec.ofNat 64 y.prog else 0) = _
      rw [hybegun, hyprog]
      rfl
    | false =>
      exact ⟨congrArg (BitVec.ofNat 64) hyprog, by rw [← hwork]; exact htnow, { y with due := none }, rfl, hyprog, hyinstr, by simp⟩

/-- Settles O55: headers are read, streams become active, groups are written, running maxima sent, and the steps of a stroke begin, complete
and end. -/
theorem streamsAndStrokesAdvance : Obligations.StreamsAndStrokesAdvance := by
  refine ⟨headersAreRead, ?_, writersWrite, amaxIsSent, strokesBegin, strokeStepsComplete, ?_⟩
  · intro s n e x hhead hlive hknown
    refine congrArg (fun t : State => Host.Outcome.next t.unblock) ?_
    unfold State.streamActivate
    rw [hhead]
    dsimp only
    rw [hlive, hknown]
    rfl
  · intro s n due hstroke hdue hreached
    refine congrArg (fun t : State => Host.Outcome.next t.unblock) ?_
    unfold State.strokeStep
    dsimp only
    rw [hstroke, hdue]
    dsimp only [Option.bind_none]
    rw [hreached]
    simp only [Bool.not_true, Bool.false_eq_true, if_false, State.updCore, CoreArr.behindStroke, Bool.or_eq_true, decide_eq_true_eq]
    rfl

end Sys2Proof.Machine
end


section
/-! PROOFS. The fault queue, the end of a failed launch, and a core's context on its way to its save area (R87, R91, R411 to R417). -/

namespace Sys2Proof.Machine

/-! ### Posts through the scratchpad window (R127, R411) -/

/-- The place that a window address names. -/
def State.padTarget (s : State) (core off : Nat) : Target := ⟨s.modreg.toNat % 1024 * 2 ^ 42 + scratchPa core off, 0, 0⟩

theorem State.translate_window {s : State} {p core off va u : Nat} {k : Access} (hva : va = 2 ^ 56 - 2 ^ 29 + core * 2 ^ 21 + off) (hc : core < 192)
    (ho : off < 0x200000) (hk : k ≠ .fetch) (howns : s.owns p (core / 24) = true) (hno : s.noCore core = false) :
    s.translate p u va k = .ok (s.padTarget core off) := by
  have hn : bitsOf va 28 21 = core := by
    unfold bitsOf
    omega
  have hoff : va % 0x200000 = off := by omega
  unfold State.translate
  rw [if_neg (by omega), if_pos (by omega)]
  dsimp only
  rw [hn, hoff, if_neg hk]
  refine (if_neg ?_).trans rfl
  simp [howns, hno, hc]

theorem inWindow_of {va core off : Nat} (hva : va = 2 ^ 56 - 2 ^ 29 + core * 2 ^ 21 + off) (hc : core < 192) (ho : off < 0x200000) :
    inWindow va = true := by
  rw [inWindow, beq_iff_eq]
  omega

theorem State.walked_window (s : State) (u p : Nat) {va : Nat} (h : inWindow va = true) : s.walked u p va = s := by
  unfold State.walked
  exact if_pos (by rw [h]; simp)

theorem moduleOf_padTarget (s : State) {core off : Nat} (hc : core < 192) (ho : off < 0x200000) :
    moduleOf (s.padTarget core off).pa = s.modreg.toNat % 1024 := by
  simp only [State.padTarget, moduleOf, scratchPa, scratchBase]
  omega

theorem localOf_padTarget (s : State) {core off : Nat} (hc : core < 192) (ho : off < 0x200000) :
    localOf (s.padTarget core off).pa = scratchPa core off := by
  simp only [State.padTarget, localOf, scratchPa, scratchBase]
  omega

/-- The access of one piece that the device writes. -/
def State.postReq (s : State) (i : Issue) (p va : Nat) (bs : List Byte) (g : Target) (release : Bool) : Req :=
  { lineReq s i p va bs.length g (.engine none [(0, bs)] false [] 0 false) with release := release }

/-- Bytes within one line go as one piece. -/
theorem State.postPieces_one {s : State} {i : Issue} {p va : Nat} {bs : List Byte} {release : Bool} {g : Target} (hn : 0 < bs.length)
    (hva : va % 128 + bs.length ≤ 128) (ht : s.translate p (tlbUnit i) va .write = .ok g) :
    s.postPieces i p .write release (pieces va bs.length) bs = s.submit (s.postReq i p va bs g release) := by
  rw [pieces_one hn hva, State.postPieces, ht]
  dsimp only
  rw [State.postPieces, List.take_length]
  rfl

/-! ### FAULT_QUEUE_WRITE (R411 to R413) -/

/-- The entry of a fault goes out, its valid word last. -/
def State.postEntry (s : State) (p : Nat) (r : FaultRec) : State :=
  (s.post (faultIssue p) p (s.entryVa p (s.part p).fwidx + 4) r.body).postLast (faultIssue p) p (s.entryVa p (s.part p).fwidx)
    (leBytes 4 (validWord (s.part p).fwidx r.kind))

/-- What the device notes of an entry that it writes. -/
def State.noteEntry (s : State) (p w : Nat) (r : FaultRec) : State :=
  { s.updPart p (fun k => { k with fwidx := w + 1 }) with
    faults := s.faults.erase r, entries := s.entries ++ [⟨w, p, r.unit, r.launch, 0, false⟩] }

theorem State.faultQueueWrite_only {s : State} {p : Nat} {r : FaultRec} (hf : s.faults = [r]) (hp : r.part = p) (hk : r.kind ≠ 3)
    (hz : (s.reported p (s.entryVa p (s.part p).fwidx)).getD 0 = 0) (hi : s.issuing (faultIssue p) = false) :
    s.faultQueueWrite p = (s.postEntry p r).noteEntry p (s.part p).fwidx r := by
  have hfind : s.faults.find? (fun r => r.part == p) = some r := by
    rw [hf, List.find?_cons_of_pos (by exact beq_iff_eq.mpr hp)]
  unfold State.faultQueueWrite
  rw [hfind]
  dsimp only
  rw [hz, hi]
  refine (if_neg (by decide)).trans ?_
  split
  · next h _ => exact absurd h hk
  · rfl

theorem State.still_postEntry (s : State) (p : Nat) (r : FaultRec) : (s.postEntry p r).still = s.still :=
  (State.still_postLast _ _ _ _ _).trans (State.still_post _ _ _ _ _)

theorem FaultRec.body_length (r : FaultRec) : r.body.length = 60 := by
  simp only [FaultRec.body, List.length_append, leBytes_length]

/-- Through the scratchpad window the entry goes in two pieces, the second a release after the first. -/
theorem State.postEntry_window {s : State} {p core off : Nat} (r : FaultRec) (hva : s.entryVa p (s.part p).fwidx = 2 ^ 56 - 2 ^ 29 + core * 2 ^ 21 + off)
    (hc : core < 192) (ho : off + 64 ≤ 0x200000) (h64 : off % 64 = 0) (howns : s.owns p (core / 24) = true) (hno : s.noCore core = false)
    (hr : s.reqs = []) :
    ∃ a b, (s.postEntry p r).reqs = [a, b] ∧ a.by_ = faultIssue p ∧ b.by_ = faultIssue p ∧ localOf a.pa = scratchPa core off + 4 ∧
      localOf b.pa = scratchPa core off ∧ a.op = .engine none [(0, r.body)] false [] 0 false ∧
      b.op = .engine none [(0, leBytes 4 (validWord (s.part p).fwidx r.kind))] false [] 0 false ∧ b.release = true ∧ a.id ∈ b.after := by
  let i := faultIssue p
  let va := s.entryVa p (s.part p).fwidx
  let word := leBytes 4 (validWord (s.part p).fwidx r.kind)
  have hva4 : va + 4 = 2 ^ 56 - 2 ^ 29 + core * 2 ^ 21 + (off + 4) := by show s.entryVa p _ + 4 = _; rw [hva]; omega
  have ho4 : off + 4 < 0x200000 := by omega
  have ho0 : off < 0x200000 := by omega
  have hm4 := moduleOf_padTarget s hc ho4
  have hm0 := moduleOf_padTarget s hc ho0
  let q1 := s.postReq i p (va + 4) r.body (s.padTarget core (off + 4)) false
  let s1 : State := { s with reqs := [{ q1 with id := s.nextId }], nextId := s.nextId + 1 }
  have hs1 : s.post i p (va + 4) r.body = s1 := by
    have hpost := State.postPieces_one (s := s) (i := i) (p := p) (release := false) (bs := r.body) (by rw [r.body_length]; decide)
      (by rw [r.body_length]; omega) (State.translate_window (u := tlbUnit i) (k := .write) hva4 hc ho4 (by decide) howns hno)
    refine hpost.trans ((State.submit_first (r := q1) hr hm4 (fun _ => nofun) rfl).trans ?_)
    exact congrArg (fun t : State => { t with reqs := [{ q1 with id := s.nextId }], nextId := s.nextId + 1 })
      (State.walked_window s (tlbUnit i) p (inWindow_of hva4 hc ho4))
  let q2 := s1.postReq i p va word (s1.padTarget core off) true
  have hs2 : s1.postLast i p va word = s1.pushReq q2 := by
    have hpost := State.postPieces_one (s := s1) (i := i) (p := p) (release := true) (bs := word) (va := va) (by rw [leBytes_length]; decide)
      (by rw [leBytes_length]; show s.entryVa p _ % 128 + 4 ≤ 128; rw [hva]; omega)
      (State.translate_window (s := s1) (u := tlbUnit i) (k := .write) hva hc ho0 (by decide) howns hno)
    refine hpost.trans ((State.submit_here (s := s1) (r := q2) (fun q hq => ?_) hm0 (fun _ => nofun)).trans ?_)
    · rw [List.mem_singleton.mp hq]
      exact ⟨fun _ => nofun, hm4⟩
    · exact congrArg (fun t : State => t.pushReq q2) (State.walked_window s1 (tlbUnit i) p (inWindow_of hva hc ho0))
  have hentry : s.postEntry p r = s1.pushReq q2 := by
    rw [State.postEntry, hs1, hs2]
  rw [hentry]
  refine ⟨{ q1 with id := s.nextId }, { q2 with id := s.nextId + 1, after := s1.accessesOut i.unit i.thr }, rfl, rfl, rfl, ?_, ?_, rfl, rfl, rfl, ?_⟩
  · exact (localOf_padTarget s hc ho4).trans (by unfold scratchPa; omega)
  · exact localOf_padTarget s hc ho0
  · show s.nextId ∈ s1.accessesOut i.unit i.thr
    simp [State.accessesOut, State.reqsOf, s1, q1, State.postReq, lineReq, MemOp.isWrite]

/-- FAULT_QUEUE_WRITE of the only fault that waits. -/
theorem faultsAreRecorded (s : State) (p : Fin 8) (r : FaultRec) (hf : s.faults = [r]) (hp : r.part = p.val) (hk : r.kind ≠ 3)
    (hz : (s.reported p (s.entryVa p (s.part p).fwidx)).getD 0 = 0) (hi : s.issuing (faultIssue p) = false) :
    ∃ t, exec (.faultQueueWrite p) s = .next t ∧ t.faults = [] ∧ t.mem = s.mem ∧ (t.part p).fwidx = (s.part p).fwidx + 1 ∧
      t.entries = s.entries ++ [⟨(s.part p).fwidx, p, r.unit, r.launch, 0, false⟩] ∧ t.reqs = (s.postEntry p r).reqs := by
  have hstill := s.still_postEntry p r
  refine ⟨((s.postEntry p r).noteEntry p (s.part p).fwidx r).unblock,
    congrArg (fun t : State => Host.Outcome.next t.unblock) (State.faultQueueWrite_only hf hp hk hz hi), ?_, ?_, ?_, ?_, rfl⟩
  · show (s.postEntry p r).faults.erase r = []
    rw [show (s.postEntry p r).faults = s.faults from (congrArg State.faults hstill :), hf, List.erase_cons_head]
  · exact State.mem_of_still (t := s.postEntry p r) hstill
  · show (((s.postEntry p r).updPart p (fun k => { k with fwidx := (s.part p).fwidx + 1 })).part p).fwidx = _
    rw [State.part_updPart]
  · show (s.postEntry p r).entries ++ _ = _
    rw [show (s.postEntry p r).entries = s.entries from (congrArg State.entries hstill :)]

/-! ### ACT_WRITE and RESUME_ENTRY (R413, R416, R421) -/

theorem State.actOf_watched {s : State} {e : QueueEntry} {w : Nat} (ha : e.act = 0)
    (hw : s.entryWord e.part (s.entryVa e.part e.idx + 48) = some w) : (e.watchAct s).act = bitsOf w 1 0 := by
  rw [QueueEntry.watchAct, if_pos ha]
  show s.actOf e = _
  rw [State.actOf, hw]
  rfl

/-- The state once a partition may resume an entry again: at most one in 8 controller cycles (R416). -/
def State.atResume (s : State) (p : Nat) : State := match (s.part p).lastResume with | some c => s.ccTo (c + 8) | none => s

theorem State.resumeEntry_only {s : State} {p g : Nat} {i : Issue} {e : QueueEntry} (he : s.entries = [e]) (hp : e.part = p) (hgo : e.go = true)
    (hu : e.unit = .gang g i) :
    s.resumeEntry p = (((s.atResume p).freeEntry e).updGang g (fun x => { x with parks := x.parks - 1 })).updPart p
      (fun k => { k with lastResume := some (s.atResume p).cc }) := by
  have hold : s.entries.filter (fun e => e.part == p && e.go) = [e] := by
    rw [he, List.filter_cons_of_pos (by rw [hgo, Bool.and_true, beq_iff_eq]; exact hp), List.filter_nil]
  unfold State.resumeEntry
  rw [hold]
  simp only [List.foldl_cons, List.foldl_nil, State.resumeUnit, hu]
  rfl

theorem le_cc_ccTo (s : State) (c : Nat) : c ≤ (s.ccTo c).cc := by
  show c ≤ ccOf (max s.now (timeOfCc c))
  unfold ccOf timeOfCc
  omega

/-- RESUME_ENTRY of a gang's entry. -/
theorem gangsResume (s : State) (p : Fin 8) (e : QueueEntry) (g : Nat) (i : Issue) (he : s.entries = [e]) (hp : e.part = p.val) (hgo : e.go = true)
    (hu : e.unit = .gang g i) :
    ∃ t, exec (.resumeEntry p) s = .next t ∧ t.entries = [] ∧
      t.gangs = s.gangs.map (fun x => if x.id = g then { x with parks := x.parks - 1 } else x) ∧
      (∀ c, (s.part p).lastResume = some c → c + 8 ≤ t.cc) ∧ (t.part p).lastResume = some t.cc := by
  obtain ⟨s1, hs1, hent, hgangs, hcc⟩ : ∃ s1 : State, s.atResume p = s1 ∧
      s1.entries = s.entries ∧ s1.gangs = s.gangs ∧ ∀ c, (s.part p).lastResume = some c → c + 8 ≤ s1.cc := by
    unfold State.atResume
    cases hl : (s.part p).lastResume with
    | none => exact ⟨s, rfl, rfl, rfl, nofun⟩
    | some c =>
      refine ⟨s.ccTo (c + 8), rfl, rfl, rfl, fun d hd => ?_⟩
      cases hd
      exact le_cc_ccTo s (c + 8)
  have hstill : (s1.post (faultIssue e.part) e.part (s1.entryVa e.part e.idx) (leBytes 4 0)).still = s1.still := State.still_post ..
  have hfree : (s1.freeEntry e).cc = s1.cc :=
    State.cc_of_now (s := s1) (t := s1.freeEntry e) (State.now_of_still (t := s1.post (faultIssue e.part) e.part (s1.entryVa e.part e.idx) (leBytes 4 0)) hstill)
  have hgang : (s1.freeEntry e).gangs = s1.gangs :=
    State.gangs_of_still (t := s1.post (faultIssue e.part) e.part (s1.entryVa e.part e.idx) (leBytes 4 0)) hstill
  have hents : (s1.freeEntry e).entries = [] := by
    show s1.entries.filter _ = []
    rw [hent, he, List.filter_cons_of_neg (by simp), List.filter_nil]
  have hstep := State.resumeEntry_only he hp hgo hu
  rw [hs1] at hstep
  generalize s1.freeEntry e = s2 at *
  refine ⟨_, congrArg (fun t : State => Host.Outcome.next t.unblock) hstep, hents, ?_, fun c hc => (hcc c hc).trans (Nat.le_of_eq hfree.symm), ?_⟩
  · show s2.gangs.map _ = _
    rw [hgang, hgangs]
  · have hpart := State.part_updPart (s2.updGang g (fun x => { x with parks := x.parks - 1 })) p (fun k => { k with lastResume := some s1.cc })
    exact (congrArg Partition.lastResume hpart).trans (congrArg some hfree.symm)

/-! ### LAUNCH_END (R417) -/

/-- The array of a core that runs nothing from the nib on. -/
def CoreArr.halted (k : CoreArr) : Prop := k.nib = [] ∧ k.stroke = none ∧ k.west.streams = [] ∧ k.north.streams = []

/-- A core whose threads and array have stopped. -/
def State.haltedCore (s : State) (n tpc : Nat) : Prop := (s.core n).halted ∧ ∀ j ≤ tpc, j < 4 → (s.thread n j).freed

theorem CoreArr.halted_cut (k : CoreArr) (c free : Nat) : (k.cut c free).halted := by
  refine ⟨rfl, ?_, rfl, rfl⟩
  show (k.stopStroke c free).stroke = none
  unfold CoreArr.stopStroke
  split
  · dsimp only
    split_ifs <;> rfl
  · rfl

theorem State.haltedCore_updCore {s : State} {n tpc : Nat} (m : Nat) {f : CoreArr → CoreArr} (hf : ∀ k, k.halted → (f k).halted)
    (h : s.haltedCore n tpc) : (s.updCore m f).haltedCore n tpc := by
  refine ⟨?_, h.2⟩
  rw [State.core_updCore]
  split
  · next hm => exact hf _ (hm ▸ h.1)
  · exact h.1

/-- The threads of a core of a gang that is cut stop one after another. -/
def State.stopThreads (s : State) (n tpc : Nat) : State :=
  (List.range (tpc + 1)).foldl (fun s t => (s.stopThread n t).dropRuns n t) s

theorem State.cores_stopThreads (s : State) (n tpc : Nat) : (s.stopThreads n tpc).cores = s.cores :=
  foldl_keeps (g := State.cores) (f := fun s t => (State.stopThread s n t).dropRuns n t)
    (fun s t => State.clearThreads_keeps State.cores (fun _ _ _ => rfl) (fun _ _ _ => rfl) (fun _ _ _ => rfl) s n [t]) _ _
theorem State.mem_stopThreads (s : State) (n tpc : Nat) : (s.stopThreads n tpc).mem = s.mem :=
  foldl_keeps (g := State.mem) (f := fun s t => (State.stopThread s n t).dropRuns n t)
    (fun s t => State.clearThreads_keeps State.mem (fun _ _ _ => rfl) (fun _ _ _ => rfl) (fun _ _ _ => rfl) s n [t]) _ _

theorem State.freed_stopThread {s : State} {n j m t : Nat} (h : (n = m ∧ j = t ∧ j < 4) ∨ (s.thread n j).freed) :
    (((s.stopThread m t).dropRuns m t).thread n j).freed :=
  State.freed_clearThreads (s := s) (u := m) (ts := [t]) (h.imp_left (fun ⟨hn, hj, h4⟩ => ⟨hn, List.mem_singleton.mpr hj, h4⟩))

theorem State.freed_stopThreads {s : State} {n j m tpc : Nat} (h : (n = m ∧ j ≤ tpc ∧ j < 4) ∨ (s.thread n j).freed) :
    ((s.stopThreads m tpc).thread n j).freed := by
  rcases h with ⟨rfl, hj, h4⟩ | h
  · exact foldl_mem_at (P := fun s : State => (s.thread n j).freed) (f := fun s t => (s.stopThread n t).dropRuns n t)
      (List.mem_range.mpr (Nat.lt_succ_of_le hj)) (fun s => State.freed_stopThread (Or.inl ⟨rfl, rfl, h4⟩))
      (fun s t hs => State.freed_stopThread (Or.inr hs)) s
  · have hall : ∀ (ts : List Nat) (s : State), (s.thread n j).freed →
        ((ts.foldl (fun s t => (State.stopThread s m t).dropRuns m t) s).thread n j).freed := by
      intro ts
      induction ts with
      | nil => exact fun _ h => h
      | cons t ts ih => exact fun s hs => ih _ (State.freed_stopThread (Or.inr hs))
    exact hall _ s h

/-- One core of a gang is cut. -/
def State.cutCore (s : State) (tpc n : Nat) : State :=
  { (s.stopThreads n tpc).updCore n (fun k => k.cut ((s.stopThreads n tpc).cycles n) (s.stopThreads n tpc).freeCount) with
    freeCount := (s.stopThreads n tpc).freeCount + cutFree }

theorem State.haltedCore_cutCore {s : State} {n tpc m : Nat} (h : n = m ∨ s.haltedCore n tpc) : (s.cutCore tpc m).haltedCore n tpc := by
  have hthread : ∀ j ≤ tpc, j < 4 → ((s.cutCore tpc m).thread n j).freed := fun j hj h4 =>
    State.freed_stopThreads (s := s) (h.imp (fun hn => ⟨hn, hj, h4⟩) (fun hh => hh.2 j hj h4))
  have hcore : (s.cutCore tpc m).core n =
      ((s.stopThreads m tpc).updCore m (fun k => k.cut ((s.stopThreads m tpc).cycles m) (s.stopThreads m tpc).freeCount)).core n := rfl
  refine ⟨?_, hthread⟩
  rw [hcore, State.core_updCore]
  split
  · exact CoreArr.halted_cut _ _ _
  · next hm =>
    rw [State.core, State.cores_stopThreads]
    exact (h.resolve_left hm).1

theorem State.haltedCore_cutGang {s : State} {g : Gang} {n : Nat} (hn : n ∈ s.heldCores g) : (s.cutGang g).haltedCore n g.tpc :=
  foldl_mem_at (P := fun s : State => s.haltedCore n g.tpc) (f := fun s m => s.cutCore g.tpc m) hn (fun _ => State.haltedCore_cutCore (Or.inl rfl))
    (fun _ _ h => State.haltedCore_cutCore (Or.inr h)) s

theorem State.mem_cutGang (s : State) (g : Gang) : (s.cutGang g).mem = s.mem :=
  foldl_keeps (g := State.mem) (f := fun s m => State.cutCore s g.tpc m) (fun s m => State.mem_stopThreads s m g.tpc) _ _

/-- What a fold over cores changes of each, a halted core stays halted. -/
theorem State.haltedCore_foldl {n tpc : Nat} {f : State → Nat → State} (hf : ∀ s m, s.haltedCore n tpc → (f s m).haltedCore n tpc) (l : List Nat) {s : State}
    (h : s.haltedCore n tpc) : (l.foldl f s).haltedCore n tpc := by
  induction l generalizing s with
  | nil => exact h
  | cons m l ih => exact ih (hf s m h)

theorem State.haltedCore_closeGang {s : State} {g : Gang} {n tpc : Nat} (h : s.haltedCore n tpc) : (s.closeGang g).haltedCore n tpc := by
  refine State.haltedCore_foldl (fun s m hs => ?_) _ h
  split
  · exact State.haltedCore_updCore m (fun k hk => hk) hs
  · exact hs

theorem State.mem_closeGang (s : State) (g : Gang) : (s.closeGang g).mem = s.mem :=
  foldl_keeps (g := State.mem)
    (f := fun s n => if (State.core s (s.waveCore n)).wave.isEmpty then s.updCore n (fun k => { k with east := k.east.lastTurn, south := k.south.lastTurn }) else s)
    (fun s m => by split <;> rfl) _ _

/-- The array of a core that is set free. -/
def CoreArr.setFree (k : CoreArr) : CoreArr :=
  { k with gang := none, saving := none, saveOut := false, hold := none, waveFault := none,
           east := { k.east with streams := [] }, south := { k.south with streams := [] } }

theorem State.haltedCore_freeCores {s : State} {g : Gang} {n tpc : Nat} (h : s.haltedCore n tpc) : (s.freeCores g).haltedCore n tpc :=
  State.haltedCore_foldl (n := n) (tpc := tpc)
    (f := fun s n => s.updCore n CoreArr.setFree)
    (fun _ m hs => State.haltedCore_updCore m (fun _ hk => hk) hs) (s.heldCores g) h

theorem State.mem_freeCores (s : State) (g : Gang) : (s.freeCores g).mem = s.mem :=
  foldl_keeps (g := State.mem)
    (f := fun s n => State.updCore s n CoreArr.setFree) (fun _ _ => rfl) (s.heldCores g) s

/-- A gang of an ended launch: its cores have stopped, and memory is as it was. -/
theorem State.endGang_spec (s : State) (g : Gang) : (s.endGang g).mem = s.mem ∧ ∀ n ∈ s.heldCores g, (s.endGang g).haltedCore n g.tpc := by
  have hmem : ((s.cutGang g).closeGang g).mem = s.mem := (State.mem_closeGang _ _).trans (State.mem_cutGang s g)
  have hhalt : ∀ n ∈ s.heldCores g, ((s.cutGang g).closeGang g).haltedCore n g.tpc := fun n hn =>
    State.haltedCore_closeGang (State.haltedCore_cutGang hn)
  unfold State.endGang
  dsimp only
  split
  · exact ⟨(State.mem_freeCores _ _).trans hmem, fun n hn => State.haltedCore_freeCores (hhalt n hn)⟩
  · exact ⟨hmem, hhalt⟩

theorem State.launchEnd_only {s : State} {p : Nat} {l : Launch} {g : Gang} (hl : s.launches.filter (fun x => x.part == p && x.cause.isSome) = [l])
    (hg : s.gangs.filter (fun x => x.launch == l.id && !x.ending) = [g]) (ht : ∀ k ∈ s.tasks, k.launch ≠ some l.id) :
    s.launchEnd p = (s.endCopies l.id).endGang g := by
  have htask : s.tasks.filter (fun k => decide (k.launch = some l.id) && k.done.isNone) = [] :=
    List.filter_eq_nil_iff.mpr (fun k hk => by simp [ht k hk])
  rw [State.launchEnd, hl, List.foldl_cons, List.foldl_nil, State.endLaunch, htask, List.foldl_nil]
  rw [hg, List.foldl_cons, List.foldl_nil]

theorem failedLaunchesStop (s : State) (p : Fin 8) (l : Launch) (g : Gang) (hl : s.launches.filter (fun x => x.part == p.val && x.cause.isSome) = [l])
    (hg : s.gangs.filter (fun x => x.launch == l.id && !x.ending) = [g]) (ht : ∀ k ∈ s.tasks, k.launch ≠ some l.id)
    (hc : ∀ n ∈ g.cores, n < 192 ∧ (s.core n).gang = some g.id) :
    ∃ t, exec (.launchEnd p) s = .next t ∧ t.mem = s.mem ∧
      ∀ n ∈ g.cores, (t.core n).nib = [] ∧ (t.core n).stroke = none ∧ (t.core n).west.streams = [] ∧ (t.core n).north.streams = [] ∧
        ∀ j ≤ g.tpc, j < 4 → (t.thread n j).status = .idle ∧ (t.thread n j).owner = .none := by
  obtain ⟨hmem, hhalt⟩ := (s.endCopies l.id).endGang_spec g
  refine ⟨((s.endCopies l.id).endGang g).unblock, congrArg (fun t : State => Host.Outcome.next t.unblock) (State.launchEnd_only hl hg ht), hmem,
    fun n hn => ?_⟩
  obtain ⟨⟨h1, h2, h3, h4⟩, hthreads⟩ := hhalt n (List.mem_filter.mpr ⟨hn, decide_eq_true (hc n hn).2⟩)
  refine ⟨h1, h2, h3, h4, fun j hj hj4 => ?_⟩
  rw [State.thread_unblock]
  exact hthreads j hj hj4

/-! ### CONTEXT_SAVE (R87, R88, R91) -/

/-- Who asks for each access that is out, and in whose partition. -/
def State.askers (s : State) : List (Issue × Nat) := s.reqs.map (fun r => (r.by_, r.part))

theorem State.mem_askers_submit {s : State} {r : Req} {x : Issue × Nat} (h : x ∈ (s.submit r).askers) : x ∈ s.askers ∨ x = (r.by_, r.part) := by
  have hreqs : ∀ t u : State, u.reqs = t.reqs → u.askers = t.askers := fun t u h => congrArg (List.map _) h
  have hup : ∀ (t : State) (i : Nat) (st : ReqStatus), (t.updReq i (fun q => { q with status := st })).askers = t.askers := fun t i st => by
    show (t.reqs.map _).map _ = _
    rw [List.map_map]
    refine List.map_congr_left (fun q _ => ?_)
    dsimp only [Function.comp]
    split <;> rfl
  have hnote : ∀ (t : State) (q : Req) (ps : List (Nat × Nat)), (t.notePosts q ps).askers = t.askers := fun t q ps => hreqs _ _ (t.notePosts_reqs q ps)
  have hone : ∀ (t : State) (q : Req) (x), x ∈ (t.sendOne q).askers → x ∈ t.askers := by
    intro t q x hx
    rw [State.sendOne_eq] at hx
    split at hx
    · exact hx
    · split at hx
      · exact hx
      · split at hx
        · exact hx
        · split at hx
          · next slot _ =>
            obtain ⟨y, hy, rfl⟩ := List.mem_map.mp hx
            have hy := (List.mem_filter.mp hy).1
            rw [State.reqs_evicted] at hy
            exact List.mem_map_of_mem hy
          · split at hx
            · exact hup .. ▸ hx
            · rw [hnote, hup, hreqs t _ (by unfold State.sendFlit; split <;> rfl)] at hx
              exact hx
  have hall : ∀ (l : List Req) (t : State), x ∈ (l.foldl (fun s q => State.sendOne s q) t).askers → x ∈ t.askers := by
    intro l
    induction l with
    | nil => exact fun _ h => h
    | cons q l ih => exact fun t hx => hone t q x (ih _ hx)
  have hpush := hall _ _ h
  obtain ⟨q, hq, rfl⟩ := List.mem_map.mp hpush
  rcases List.mem_append.mp hq with hq | hq
  · rw [State.reqs_walked] at hq
    exact Or.inl (List.mem_map_of_mem hq)
  · rw [List.mem_singleton.mp hq]
    exact Or.inr rfl

theorem State.mem_askers_postPieces {i : Issue} {p : Nat} {k : Access} {release : Bool} {ps : List (Nat × Nat)} {s : State} {bs : List Byte}
    {x : Issue × Nat} (h : x ∈ (s.postPieces i p k release ps bs).askers) : x ∈ s.askers ∨ x = (i, p) := by
  induction ps generalizing s bs with
  | nil => exact Or.inl h
  | cons y ps ih =>
    rw [State.postPieces] at h
    split at h
    · rcases ih h with h | h
      · exact State.mem_askers_submit h
      · exact Or.inr h
    · refine (ih h).imp_left (fun h => ?_)
      rw [State.askers, State.reqs_walked] at h
      exact h

theorem State.besides_postPieces (n : Nat) (i : Issue) (p : Nat) (k : Access) (release : Bool) (ps : List (Nat × Nat)) (s : State) (bs : List Byte) :
    (s.postPieces i p k release ps bs).besides n = s.besides n := by
  induction ps generalizing s bs with
  | nil => rfl
  | cons y ps ih =>
    rw [State.postPieces]
    split
    · rw [ih, State.besides_submit]
    · rw [ih, State.besides, State.core, State.cores_walked]
      rfl

/-- What the posts of a context leave as it is, and who asks for them. -/
theorem State.saveContext_spec (s : State) (p n base : Nat) :
    (s.saveContext p n base).still = s.still ∧ (∀ m, (s.saveContext p n base).besides m = s.besides m) ∧
      (∀ v j, (s.saveContext p n base).thread v j = s.thread v j) ∧
      (s.reqs = [] → ∀ r ∈ (s.saveContext p n base).reqs, r.by_ = saveIssue n ∧ r.part = p) := by
  obtain ⟨l, hl⟩ : ∃ l : List (Nat × List Byte), s.saveContext p n base = l.foldl (fun s e => s.post (saveIssue n) p (base + e.1) e.2) s := ⟨_, rfl⟩
  rw [hl]
  refine ⟨foldl_keeps (g := State.still) (fun s _ => State.still_post s _ _ _ _) l s, fun m => ?_, fun v j => ?_, fun hr r hx => ?_⟩
  · exact foldl_keeps (g := fun s => State.besides s m) (f := fun s (e : Nat × List Byte) => State.post s (saveIssue n) p (base + e.1) e.2)
      (fun s _ => State.besides_postPieces m _ _ _ _ _ s _) l s
  · exact foldl_keeps (g := fun s => State.thread s v j) (f := fun s (e : Nat × List Byte) => State.post s (saveIssue n) p (base + e.1) e.2)
      (fun s _ => State.thread_postPieces _ _ _ _ _ s _ v j) l s
  · have hall : ∀ (l : List (Nat × List Byte)) (t : State) (x), x ∈ (l.foldl (fun s e => State.post s (saveIssue n) p (base + e.1) e.2) t).askers →
        x ∈ t.askers ∨ x = (saveIssue n, p) := by
      intro l
      induction l with
      | nil => exact fun _ _ h => Or.inl h
      | cons e l ih =>
        intro t x hx
        rcases ih _ x hx with h | h
        · exact State.mem_askers_postPieces h
        · exact Or.inr h
    rcases hall l s _ (List.mem_map_of_mem hx) with h | h
    · rw [State.askers, hr] at h
      exact absurd h List.not_mem_nil
    · exact Prod.mk.injEq .. ▸ h

/-- The flag bytes of a thread that is saved stand in its save area. -/
def Thread.flagsOut (th : Thread) : Thread := { th with flags := th.flags &&& 0x7F00 }

theorem State.flagsSaved_eq (s : State) (n : Nat) :
    ∃ l : List Nat, s.flagsSaved n = l.foldl (fun s t => s.updThread n t Thread.flagsOut) s := ⟨_, rfl⟩

theorem State.flagsSaved_keeps {β : Type} (f : State → β) (hf : ∀ s u q, f (State.setSeq s u q) = f s) (s : State) (n : Nat) :
    f (s.flagsSaved n) = f s := by
  obtain ⟨l, hl⟩ := s.flagsSaved_eq n
  rw [hl]
  exact foldl_keeps (f := fun s t => s.updThread n t Thread.flagsOut) (fun s t => hf s _ _) l s

theorem State.thread_flagsSaved {β : Type} (f : Thread → β) (hf : ∀ th, f th.flagsOut = f th) (s : State) (n v j : Nat) :
    f ((s.flagsSaved n).thread v j) = f (s.thread v j) := by
  obtain ⟨l, hl⟩ := s.flagsSaved_eq n
  rw [hl]
  refine foldl_keeps (g := fun s => f (State.thread s v j)) (f := fun s t => s.updThread n t Thread.flagsOut) (fun s t => ?_) l s
  rw [State.thread_updThread]
  split
  next h => rw [hf, h.1, h.2.1]
  · rfl

/-- A core's context is on its way to its save area. -/
def State.contextOut (s : State) (p n base : Nat) : State := ((s.saveContext p n base).flagsSaved n).updCore n (fun k => { k with saveOut := true })

theorem State.contextSave_first {s : State} {n base : Nat} {g : Gang} (hsave : (s.core n).saving = some (false, base))
    (hgang : (s.core n).gang.bind s.gangOf = some g) (hcores : g.cores = [n]) (hfail : s.launchFailed (some g.launch) = false)
    (hexit : s.gangExits g = false) (hout : (s.core n).saveOut = false) (hdr : (s.core n).drained = true) (htw : s.taskWrites g.id = false)
    (hset : s.coreSettled n false = true) : s.contextSave n = s.contextOut g.part n base := by
  have hd : s.gangDrained g = true := by
    rw [State.gangDrained, hcores, List.all_cons, List.all_nil, hdr]
    rfl
  unfold State.contextSave
  rw [hsave, hgang]
  dsimp only
  simp only [hfail, hexit, hout, hd, htw, hset, Bool.or_self, Bool.not_true, Bool.false_eq_true, if_false]
  rfl

theorem State.core_contextOut (s : State) (p n base : Nat) :
    ∃ k : CoreArr, { k with tags := [], full := [] } = s.besides n ∧ (s.contextOut p n base).core n = { k with saveOut := true } := by
  obtain ⟨_, hbeside, _⟩ := s.saveContext_spec p n base
  refine ⟨(s.saveContext p n base).core n, hbeside n, (State.core_updCore_self ..).trans ?_⟩
  rw [State.flagsSaved_keeps (fun s => State.core s n) (fun _ _ _ => rfl)]

/-- What a context's way out leaves as it is, and who asks for its accesses. -/
theorem State.contextOut_spec {s : State} (p n base : Nat) (hr : s.reqs = []) :
    (s.contextOut p n base).mem = s.mem ∧ (s.contextOut p n base).gangs = s.gangs ∧
      (∀ j, ((s.contextOut p n base).thread n j).x = (s.thread n j).x ∧ ((s.contextOut p n base).thread n j).pc = (s.thread n j).pc) ∧
      ∀ r ∈ (s.contextOut p n base).reqs, r.by_ = saveIssue n ∧ r.part = p := by
  obtain ⟨hstill, _, hthread, hreqs⟩ := s.saveContext_spec p n base
  have hx : ∀ v j, (((s.saveContext p n base).flagsSaved n).thread v j).x = ((s.saveContext p n base).thread v j).x :=
    State.thread_flagsSaved Thread.x (fun _ => rfl) _ n
  have hpc : ∀ v j, (((s.saveContext p n base).flagsSaved n).thread v j).pc = ((s.saveContext p n base).thread v j).pc :=
    State.thread_flagsSaved Thread.pc (fun _ => rfl) _ n
  have hmem : ((s.saveContext p n base).flagsSaved n).mem = _ := State.flagsSaved_keeps State.mem (fun _ _ _ => rfl) _ n
  have hgangs : ((s.saveContext p n base).flagsSaved n).gangs = _ := State.flagsSaved_keeps State.gangs (fun _ _ _ => rfl) _ n
  have hreqs' : ((s.saveContext p n base).flagsSaved n).reqs = _ := State.flagsSaved_keeps State.reqs (fun _ _ _ => rfl) _ n
  rw [State.contextOut]
  generalize (s.saveContext p n base).flagsSaved n = u at *
  refine ⟨hmem.trans (State.mem_of_still hstill), hgangs.trans (State.gangs_of_still hstill), fun j => ?_, fun r hr' => hreqs hr r (hreqs' ▸ hr')⟩
  rw [State.thread_updCore, hx, hpc, hthread]
  exact ⟨rfl, rfl⟩

theorem contextsLeave (s : State) (n : Fin 192) (g : Gang) (base : Nat) (hsave : (s.core n).saving = some (false, base))
    (hgang : (s.core n).gang.bind s.gangOf = some g) (hcores : g.cores = [n.val]) (hfail : s.launchFailed (some g.launch) = false)
    (hexit : s.gangExits g = false) (hout : (s.core n).saveOut = false) (hdr : (s.core n).drained = true) (htw : s.taskWrites g.id = false)
    (hset : s.coreSettled n false = true) (hr : s.reqs = []) :
    ∃ t, exec (.contextSave n) s = .next t ∧ (t.core n).saveOut = true ∧ (t.core n).saving = (s.core n).saving ∧
      (t.core n).cells = (s.core n).cells ∧ (t.core n).nib = (s.core n).nib ∧ t.mem = s.mem ∧ t.gangs = s.gangs ∧
      (∀ j, (t.thread n j).x = (s.thread n j).x ∧ (t.thread n j).pc = (s.thread n j).pc) ∧
      ∀ r ∈ t.reqs, r.by_ = saveIssue n ∧ r.part = g.part := by
  obtain ⟨hmem, hgangs, hthread, hreqs⟩ := State.contextOut_spec g.part n base hr
  obtain ⟨k, hk, hcore⟩ := s.core_contextOut g.part n base
  have hstep := State.contextSave_first hsave hgang hcores hfail hexit hout hdr htw hset
  generalize s.contextOut g.part n base = t at *
  have hun : t.unblock.core n = { k with saveOut := true } := hcore
  refine ⟨t.unblock, congrArg (fun t : State => Host.Outcome.next t.unblock) hstep,
    by rw [hun], ?_, ?_, ?_, hmem, hgangs, fun j => ?_, hreqs⟩
  · rw [hun]
    exact (congrArg CoreArr.saving hk :)
  · rw [hun]
    exact (congrArg CoreArr.cells hk :)
  · rw [hun]
    exact (congrArg CoreArr.nib hk :)
  · rw [State.thread_unblock]
    exact hthread j

theorem contextsAreSaved (s : State) (n : Fin 192) (g : Gang) (base : Nat) (hsave : (s.core n).saving = some (false, base))
    (hgang : (s.core n).gang.bind s.gangOf = some g) (hcores : g.cores = [n.val]) (hfail : s.launchFailed (some g.launch) = false)
    (hexit : s.gangExits g = false) (hout : (s.core n).saveOut = true) (hissue : s.issuing (saveIssue n) = false) :
    ∃ t, exec (.contextSave n) s = .next t ∧ (t.core n).saving = none ∧ (t.core n).saveOut = false ∧ (t.core n).cells = (s.core n).cells ∧
      (t.core n).nib = (s.core n).nib ∧ (∀ j, (t.thread n j).sameFile (s.thread n j)) ∧ t.mem = s.mem ∧
      t.gangs = s.gangs.map (fun x => if x.id = g.id then { x with place := .saved false } else x) := by
  let s1 := s.updCore n (fun k => { k with saving := none, saveOut := false })
  have hcore : s1.core n = { s.core n with saving := none, saveOut := false } := State.core_updCore_self ..
  have hstep : s.contextSave n = { s1.updGang g.id (fun x => { x with place := .saved false }) with
      tasks := s1.tasks.map (fun k => if k.gang = some g.id then { k with go := false } else k) } := by
    have hall : g.cores.all (fun n => (s1.core n).saving.isNone) = true := by
      rw [hcores, List.all_cons, List.all_nil, hcore]
      rfl
    unfold State.contextSave
    rw [hsave, hgang]
    dsimp only
    simp only [hfail, hexit, hout, hissue, Bool.or_self, Bool.false_eq_true, if_false, if_true]
    exact if_pos hall
  generalize htasks : s1.tasks.map (fun k => if k.gang = some g.id then { k with go := false } else k) = tasks at hstep
  let t : State := { s1.updGang g.id (fun x => { x with place := .saved false }) with tasks := tasks }
  have hun : t.unblock.core n = { s.core n with saving := none, saveOut := false } := hcore
  refine ⟨t.unblock, congrArg (fun t : State => Host.Outcome.next t.unblock) hstep, by rw [hun], by rw [hun], by rw [hun], by rw [hun],
    fun j => ?_, rfl, rfl⟩
  rw [State.thread_unblock]
  exact ⟨rfl, rfl, rfl, rfl, rfl, rfl, rfl, rfl, rfl⟩

/-- Settles O56: faults are recorded, entries acted on and resumed, failed launches stopped, and contexts saved. -/
theorem faultsAreReportedAndContextsSaved : Obligations.FaultsAreReportedAndContextsSaved := by
  refine ⟨⟨fun s p r hf hp hk hz hi => ?_, fun s p i e he hgo ha w hw => ?_, gangsResume⟩, fun s p l g hl hg _ ht hc => failedLaunchesStop s p l g hl hg ht hc,
    fun s n g base hsave hgang hg hcores hfail hexit => ?_⟩
  · obtain ⟨t, ht, hfaults, hmem, hw, hentries, hreqs⟩ := faultsAreRecorded s p r hf hp hk hz hi
    refine ⟨t, ht, hfaults, hmem, hw, hentries, fun core off hva hc ho h64 howns hno hr => ?_⟩
    rw [hreqs]
    exact State.postEntry_window r hva hc ho h64 howns hno hr
  · have hpart : e.part = p.val := by
      have := (List.mem_filter.mp (List.mem_of_getLast? he)).2
      rw [Bool.and_eq_true, beq_iff_eq] at this
      exact this.1
    have hact := State.actOf_watched (s := s) ha (by rw [hpart]; exact hw)
    have hstep : ∀ act, act ≠ 0 → (e.watchAct s).act = act → s.actWrite p i =
        if e.unit = .none then s.freeEntry e
        else if act = 1 then { s with entries := s.entries.map (fun x => if x.part = p.val && x.idx = e.idx then { x with go := true } else x) }
        else (s.abort e).freeEntry e := by
      intro act h0 hact
      unfold State.actWrite
      rw [he]
      dsimp only
      rw [hact, hgo]
      exact if_neg (by simpa using h0)
    refine ⟨fun h1 hu => ?_, fun h0 hu => ⟨(s.freeEntry e).unblock, ?_, ?_⟩⟩
    · refine congrArg (fun t : State => Host.Outcome.next t.unblock) ((hstep _ (by rw [h1]; decide) hact).trans ((if_neg hu).trans ((if_pos h1).trans ?_)))
      simp only [Bool.and_eq_true, decide_eq_true_eq]
    · exact congrArg (fun t : State => Host.Outcome.next t.unblock) ((hstep _ h0 hact).trans (if_pos hu))
    · show s.entries.filter _ = _
      rw [hpart]
  · have hg' : (s.core n).gang.bind s.gangOf = some g := by rw [hgang]; exact hg
    exact ⟨contextsLeave s n g base hsave hg' hcores hfail hexit, contextsAreSaved s n g base hsave hg' hcores hfail hexit⟩

end Sys2Proof.Machine
end


section
/-! PROOFS. Flits, ports, keys, measurements and the replay's timeout (R159, R390 to R395, R401, R451, R479, R480, R485, R490). -/

namespace Sys2Proof.Machine

/-! ### What a walk reads (R128 to R131) -/

section
variable {s t : State} (ho : t.ownHbm = s.ownHbm) (hl : t.entryLost = s.entryLost) (hp : t.poisonedAt = s.poisonedAt) (he : t.pte = s.pte)
  (hh : t.home = s.home)
include ho hl hp he hh

theorem State.walkFrom_congr (p va : Nat) (k : Access) (level : Nat) : t.walkFrom p va k level = s.walkFrom p va k level := by
  induction level with
  | zero =>
    funext table
    rw [State.walkFrom.eq_1 t, State.walkFrom.eq_1 s, ho, hl, hp, he, hh]
  | succ l ih =>
    funext table
    rw [State.walkFrom.eq_1 t, State.walkFrom.eq_1 s, ho, hl, hp, he, hh]
    simp only [ih]

theorem State.leavesFrom_congr (hm : t.mem = s.mem) (p level : Nat) : t.leavesFrom p level = s.leavesFrom p level := by
  have hi : t.tableIndexes = s.tableIndexes := by
    funext table
    rw [State.tableIndexes, State.tableIndexes, hm]
  have hw := State.walkFrom_congr ho hl hp he hh
  induction level with
  | zero =>
    funext table vbase
    rw [State.leavesFrom.eq_1 t, State.leavesFrom.eq_1 s, ho, hi, he]
    simp only [hw]
  | succ l ih =>
    funext table vbase
    rw [State.leavesFrom.eq_1 t, State.leavesFrom.eq_1 s, ho, hi, he]
    simp only [hw, ih]

end

/-! ### FLIT_RECEIVE (R159, R390 to R392, R451, R454) -/

/-- A flit of a partition has come in at a port. -/
def State.counted (s : State) (port p : Nat) : State := (s.countFlit port).updPart p (fun k => { k with flits := k.flits + 1 })

section
variable (s : State) (port p : Nat)

theorem State.part_counted {β : Type} (g : Partition → β) (hg : ∀ k n, g { k with flits := n } = g k) (q : Nat) :
    g ((s.counted port p).part q) = g (s.part q) := by
  by_cases h : q = p
  · rw [h, State.counted, State.part_updPart, hg]
    rfl
  · exact congrArg g (lookup_insertAt_ne _ h _ _)

theorem State.owns_counted : (s.counted port p).owns = s.owns := by
  funext q b
  rw [State.owns, State.owns, State.part_counted s port p Partition.present (fun _ _ => rfl), State.part_counted s port p Partition.blocks (fun _ _ => rfl)]

theorem State.ownHbm_counted : (s.counted port p).ownHbm = s.ownHbm := by
  funext q pa n
  rw [State.ownHbm, State.ownHbm, State.owns_counted]

theorem State.pte_counted : (s.counted port p).pte = s.pte := by
  funext q pa
  have hkey : (s.counted port p).keyFor q 0 0 = s.keyFor q 0 0 :=
    congrArg (Key.partition q) (State.part_counted s port p Partition.gen (fun _ _ => rfl) q)
  rw [State.pte, State.pte, hkey]
  rfl

theorem State.lineClass_counted (q a : Nat) : (s.counted port p).lineClass q a = s.lineClass q a := by
  rw [State.lineClass, State.lineClass, State.part_counted s port p Partition.ptbase (fun _ _ => rfl),
    State.leavesFrom_congr (s.ownHbm_counted port p) rfl rfl (s.pte_counted port p) rfl rfl]
  rfl

theorem State.pageOf_counted : (s.counted port p).pageOf = s.pageOf := by
  funext q u va k
  rw [State.pageOf, State.pageOf, State.walkFrom_congr (s.ownHbm_counted port p) rfl rfl (s.pte_counted port p) rfl,
    State.part_counted s port p Partition.ptbase (fun _ _ => rfl)]
  rfl

theorem State.refusedStatus_counted (r : Req) : (s.counted port p).refusedStatus r = s.refusedStatus r := by
  rw [State.refusedStatus, State.refusedStatus, State.pageOf_counted]

theorem State.padOf_counted : (s.counted port p).padOf = s.padOf := by
  funext q a
  rw [State.padOf, State.padOf, State.owns_counted]

theorem State.flitReaches_counted (q : Nat) (f : Flit) : (s.counted port p).flitReaches q f = s.flitReaches q f := by
  rw [State.flitReaches, State.flitReaches, State.owns_counted, State.part_counted s port p Partition.destroying (fun _ _ => rfl)]
  rfl

end

/-- An authentic flit of the port's partition for this module, without a copybook, is counted and accepted. -/
theorem State.flitReceive_authentic {s : State} {port p : Nat} {f : Flit} (hdown : lookup false port s.portsDown = false)
    (hp : s.partOfBlock (port / 2) = some p) (hdst : f.dst = s.modreg.toNat % 1024) (hauth : f.auth = true) (hkey : s.linkKey p = some f.key)
    (hpart : f.part = p) (hbooks : s.copybooks = []) : s.flitReceive port f = (s.counted port p).acceptFlit port p f := by
  have hinj : s.injected port f = none := by rw [State.injected, hbooks, List.find?_nil]
  have hrec : (s.countFlit port).recordFlit port p f = s.countFlit port := by
    rw [State.recordFlit, show (s.countFlit port).copybooks = [] from hbooks, List.filter_nil, List.foldl_nil]
  unfold State.flitReceive
  rw [hinj]
  dsimp only
  rw [hdown, hp]
  simp only [hauth, hkey, hpart, hdst, decide_true, beq_self_eq_true, Bool.and_self, Bool.false_eq_true, if_false, if_true]
  unfold State.localFlit
  rw [hbooks, hrec]
  rfl

/-- An access that comes in at a port (R159, R454). -/
def State.flitReq (s : State) (port p : Nat) (f : Flit) : Req :=
  { id := s.nextId, by_ := ⟨240 + port, 0, .none, 0, 15, 0⟩, part := p, va := f.addr,
    pa := s.modreg.toNat % 1024 * 2 ^ 42 + f.addr, size := f.size, cls := (s.lineClass p f.addr).1, kslot := (s.lineClass p f.addr).2, op := flitOp f,
    acquire := false, release := false, check := if f.scope = 0 then none else some f.scope, after := [], born := s.now, status := .waiting,
    dropped := false, reply := some ⟨f.src, f.token, f.unit, f.thr, f.gang, f.node, f.well.filter (fun w => s.padOf p w.1)⟩ }

theorem State.acceptFlit_request {s : State} {port p : Nat} {f : Flit} (hk : f.kind = .load ∨ f.kind = .store ∨ f.kind = .atomic)
    (hreach : s.flitReaches p f = true) : (s.counted port p).acceptFlit port p f =
      { (s.counted port p).fresh with reqs := s.reqs ++ [s.flitReq port p f] } := by
  have henter : (s.counted port p).enterFlit port p f = { (s.counted port p).fresh with reqs := s.reqs ++ [s.flitReq port p f] } := by
    rw [State.enterFlit, State.lineClass_counted, State.padOf_counted]
    rfl
  have hreach' : (s.counted port p).flitReaches p f = true := (s.flitReaches_counted port p p f).trans hreach
  unfold State.acceptFlit
  rcases hk with h | h | h <;> rw [h] <;> exact (if_pos hreach').trans henter

theorem requestsComeIn (s : State) (port : Fin 16) (f : Flit) (p : Nat) (hstep : s.flitReceive port f = (s.counted port p).acceptFlit port p f)
    (hk : f.kind = .load ∨ f.kind = .store ∨ f.kind = .atomic) (hreach : s.flitReaches p f = true) :
    ∃ t r, exec (.flitReceive port f) s = .next t ∧ t.reqs = s.reqs ++ [r] ∧ r.by_.unit = 240 + port.val ∧ r.op = flitOp f ∧ r.size = f.size ∧
      localOf r.pa = f.addr % 2 ^ 42 ∧ (r.cls, r.kslot) = s.lineClass p f.addr ∧ r.status = .waiting ∧
      r.reply = some ⟨f.src, f.token, f.unit, f.thr, f.gang, f.node, f.well.filter (fun w => s.padOf p w.1)⟩ ∧ t.mem = s.mem ∧
      lookup 0 port.val t.flitRx = lookup 0 port.val s.flitRx + 1 ∧ (t.part p).flits = (s.part p).flits + 1 := by
  refine ⟨({ (s.counted port p).fresh with reqs := s.reqs ++ [s.flitReq port p f] } : State).unblock, s.flitReq port p f,
    congrArg (fun t : State => Host.Outcome.next t.unblock) (hstep.trans (State.acceptFlit_request hk hreach)), rfl, rfl, rfl, rfl, ?_, rfl, rfl, rfl, rfl,
    ?_, ?_⟩
  · show (s.modreg.toNat % 1024 * 2 ^ 42 + f.addr) % 2 ^ 42 = _
    omega
  · exact lookup_insertAt_self _ _ _ _
  · exact congrArg Partition.flits (State.part_updPart (s.countFlit port) p (fun k => { k with flits := k.flits + 1 }))

theorem responsesEndWaits (s : State) (port : Fin 16) (f : Flit) (p : Nat) (hstep : s.flitReceive port f = (s.counted port p).acceptFlit port p f) (r : Req)
    (hk : f.kind = .response) (hr : s.reqs = [r]) (hid : r.id = f.token) (hsent : ∃ c, r.status = .sent c) (hsrc : moduleOf r.pa = f.src) :
    ∃ t a, exec (.flitReceive port f) s = .next t ∧ t.reqs = [{ r with status := .served s.now a }] ∧ t.mem = s.mem ∧
      (f.refused = true → a = .fail 0x46 (s.refusedStatus r)) ∧
      (∀ d, f.refused = false → f.atomic = 0 → f.poison = false → r.op = .load d → a = .data (bytesAt f.data 0 r.size)) := by
  let s1 := s.counted port p
  have hr1 : s1.reqs = [r] := hr
  obtain ⟨c, hc⟩ := hsent
  have htake : s1.takeResponse f = s1.updReq r.id (fun q => { q with status := .served s1.now (s1.flitReply f r) }) := by
    unfold State.takeResponse
    rw [hr1, List.find?_cons_of_pos (by rw [hc]; simp [hid, hsrc])]
  have haccept : s1.acceptFlit port p f = s1.takeResponse f := by
    unfold State.acceptFlit
    rw [hk]
  refine ⟨(s1.updReq r.id (fun q => { q with status := .served s1.now (s1.flitReply f r) })).unblock, s1.flitReply f r,
    congrArg (fun t : State => Host.Outcome.next t.unblock) (hstep.trans (haccept.trans htake)), ?_, rfl, fun href => ?_, fun d href hat hpo hop => ?_⟩
  · show s1.reqs.map _ = _
    rw [hr1, List.map_singleton, if_pos rfl]
    rfl
  · unfold State.flitReply
    dsimp only
    rw [if_pos href, State.refusedStatus_counted]
  · unfold State.flitReply
    dsimp only
    rw [href, hat, hpo, hop]
    rfl

/-! ### Timeouts and ports (R479, R480) -/

theorem accessesTimeOut (s : State) (r : Req) (c : Nat) (hr : s.reqs = [r]) (hc : r.status = .sent c) :
    ∃ t, exec (.responseTimeout r.id) s = .next t ∧ t.now = max s.now (8 * (c + 2 ^ 22)) ∧
      t.reqs = [{ r with status := .served t.now (.fail 0x81 0) }] := by
  let s1 := s.ccTo (c + 2 ^ 22)
  have hstep : s.responseTimeout r.id = s1.updReq r.id (fun q => { q with status := .served s1.now (.fail 0x81 0) }) := by
    unfold State.responseTimeout
    rw [hr, List.find?_cons_of_pos (by exact beq_self_eq_true _)]
    dsimp only
    rw [hc]
  refine ⟨(s1.updReq r.id (fun q => { q with status := .served s1.now (.fail 0x81 0) })).unblock,
    congrArg (fun t : State => Host.Outcome.next t.unblock) hstep, rfl, ?_⟩
  show s.reqs.map _ = _
  rw [hr, List.map_singleton, if_pos rfl]
  rfl

theorem lookup_portsUp (s : State) (port q : Nat) :
    lookup false q (s.phyReset port).portsDown = if q / 2 = port / 2 then false else lookup false q s.portsDown := by
  show lookup false q (insertAt (port / 2 * 2) false (insertAt (port / 2 * 2 + 1) false s.portsDown)) = _
  rw [lookup_insertAt, lookup_insertAt]
  split_ifs <;> first | rfl | omega

/-! ### KEY_DELIVERY (R395, R485) -/

theorem State.keyDelivery_takes {s : State} {k : KeyMsg} (hslot : k.slot < 64) (hfree : (s.keySlot k.slot).bound = none)
    (hpart : (s.part k.part).present = true) (hm : s.measurement (16 + k.part) = some k.policy) (hu : k.unwraps = true) :
    s.keyDelivery k =
      let s1 := { s with keys := insertAt k.slot ⟨some k.part, k.key, s.nextKey⟩ s.keys, keyValues := insertAt s.nextKey k.key s.keyValues,
                         nextKey := s.nextKey + 1, output := s.output ++ [.keyLoaded k.slot] }
      if k.link then s1.updPart k.part (fun x => { x with linkGen := some s.nextKey }) else s1 := by
  unfold State.keyDelivery
  refine if_neg ?_
  simp [hfree, hpart, hm, hu, hslot]

theorem keysAreLoaded (s : State) (k : KeyMsg) (hslot : k.slot < 64) (hfree : (s.keySlot k.slot).bound = none)
    (hpart : (s.part k.part).present = true) (hm : s.measurement (16 + k.part) = some k.policy) (hu : k.unwraps = true) :
    ∃ t, exec (.keyDelivery k) s = .next t ∧ (t.keySlot k.slot).bound = some k.part ∧ (t.keySlot k.slot).gen = s.nextKey ∧
      (t.keySlot k.slot).key = k.key ∧ t.keyValue (.slot k.slot s.nextKey) = k.key ∧
      t.nextKey = s.nextKey + 1 ∧ t.output = s.output ++ [.keyLoaded k.slot] ∧
      (t.part k.part).linkGen = (if k.link = true then some s.nextKey else (s.part k.part).linkGen) ∧
      (∀ j, j ≠ k.slot → t.keySlot j = s.keySlot j) := by
  let s1 : State := { s with keys := insertAt k.slot ⟨some k.part, k.key, s.nextKey⟩ s.keys, keyValues := insertAt s.nextKey k.key s.keyValues,
                             nextKey := s.nextKey + 1, output := s.output ++ [.keyLoaded k.slot] }
  obtain ⟨t, ht, hkeys, hvals, hnext, hout, hlink⟩ : ∃ t : State, s.keyDelivery k = t ∧ t.keys = s1.keys ∧ t.keyValues = s1.keyValues ∧
      t.nextKey = s1.nextKey ∧ t.output = s1.output ∧ (t.part k.part).linkGen = (if k.link = true then some s.nextKey else (s.part k.part).linkGen) := by
    refine ⟨_, State.keyDelivery_takes hslot hfree hpart hm hu, ?_⟩
    dsimp only
    split
    · exact ⟨rfl, rfl, rfl, rfl, congrArg Partition.linkGen (State.part_updPart s1 _ _)⟩
    · exact ⟨rfl, rfl, rfl, rfl, rfl⟩
  have hself : t.keySlot k.slot = ⟨some k.part, k.key, s.nextKey⟩ := by
    rw [State.keySlot, hkeys]
    exact lookup_insertAt_self _ _ _ _
  have hself' : t.unblock.keySlot k.slot = ⟨some k.part, k.key, s.nextKey⟩ := hself
  refine ⟨t.unblock, congrArg (fun t : State => Host.Outcome.next t.unblock) ht, by rw [hself'], by rw [hself'], by rw [hself'], ?_, hnext, hout, hlink,
    fun j hj => ?_⟩
  · show lookup 0 s.nextKey t.keyValues = k.key
    rw [hvals]
    exact lookup_insertAt_self _ _ _ _
  · show lookup KeySlot.reset j t.keys = _
    rw [hkeys]
    exact lookup_insertAt_ne _ hj _ _

/-! ### REPLAY_TIMEOUT (R401, R490) -/

/-- A launch that a fault ends keeps the cause of its first one. -/
def Launch.failedBy (x : Launch) (cause : Nat) : Launch := if x.cause.isSome = true then x else { x with cause := some (cause, 0) }

theorem State.launches_failLaunch {s : State} {r : FaultRec} {l : Nat} (h : r.launch = some l) :
    (s.failLaunch r).launches = s.launches.map (fun x => if x.id = l then x.failedBy r.cause else x) := by
  unfold State.failLaunch
  rw [h]
  dsimp only
  split <;> rfl

/-- What the end of a launch by a fault changes. -/
theorem State.failLaunch_shape (s : State) (r : FaultRec) :
    ∃ fs ls cs, s.failLaunch r = { s with faults := fs, launches := ls, commands := cs } := by
  unfold State.failLaunch
  cases r.launch <;> dsimp only <;> split <;> exact ⟨_, _, _, rfl⟩

/-- The record of a replay that diverges (R490). -/
def State.divergeRec (s : State) (c : Copybook) (detail va : Nat) : FaultRec :=
  let l := c.launch.bind s.launchOf
  { part := c.part, kind := 3, cause := 0x89, req := 258 + c.part, thr := 0, cls := 15, slot := 0, chan := 0,
    addr := BitVec.ofNat 64 va, bundle := 0, status := detailStatus detail, lwidx := (l.map (fun x => x.lwidx)).getD 0,
    queue := c.queue, gangid := 0, progress := 0, unit := .none, launch := c.launch }

theorem State.diverge_spec {s : State} {c : Copybook} {l : Nat} (detail va : Nat) (hbooks : s.copybooks = [c]) (hl : c.launch = some l) :
    (s.diverge c detail va).now = s.now ∧
      (s.diverge c detail va).launches = s.launches.map (fun x => if x.id = l then x.failedBy 0x89 else x) ∧
      (s.diverge c detail va).copybooks = [{ c with diverged := true, held := [] }] := by
  let r := s.divergeRec c detail va
  have hrl : r.launch = some l := hl
  have hrc : r.cause = 0x89 := rfl
  obtain ⟨fs, ls, cs, hshape⟩ := s.failLaunch_shape r
  refine ⟨(congrArg State.now hshape :), (State.launches_failLaunch hrl).trans (by rw [hrc]), ?_⟩
  show (s.failLaunch r).copybooks.map _ = _
  rw [show (s.failLaunch r).copybooks = s.copybooks from (congrArg State.copybooks hshape :), hbooks, List.map_singleton, if_pos rfl]

theorem replaysTimeOut (s : State) (p : Fin 8) (c : Copybook) (w since va : Nat) (l : Launch) (hbooks : s.copybooks = [c]) (hp : c.part = p.val)
    (hreplay : c.replay = true) (hdiv : c.diverged = false) (hheld : c.held = [(w, (since, va))]) (hl : c.launch = some l.id) :
    ∃ t, exec (.replayTimeout p) s = .next t ∧ t.now = max s.now (8 * (since + 2 ^ 26)) ∧
      t.launches = s.launches.map (fun x => if x.id = l.id then (if x.cause.isSome = true then x else { x with cause := some (0x89, 0) }) else x) ∧
      t.copybooks = [{ c with diverged := true, held := [] }] := by
  have hfirst : c.firstHeld = some (since, va) := by rw [Copybook.firstHeld, hheld]; rfl
  have hstep : s.replayTimeout p = (s.ccTo (since + 2 ^ 26)).diverge c 2 va := by
    unfold State.replayTimeout
    rw [hbooks, List.find?_cons_of_pos (by simp [hp, hreplay, hdiv, hfirst])]
    dsimp only
    rw [hfirst]
    rfl
  obtain ⟨hnow, hlaunches, hbook⟩ := State.diverge_spec (s := s.ccTo (since + 2 ^ 26)) 2 va hbooks hl
  exact ⟨((s.ccTo (since + 2 ^ 26)).diverge c 2 va).unblock, congrArg (fun t : State => Host.Outcome.next t.unblock) hstep, hnow, hlaunches, hbook⟩

/-- Settles O57: flits come in, ports go down and up, keys are bound, measurements answered, and held accesses of a replay time out. -/
theorem linksKeysAndReplays : Obligations.LinksKeysAndReplays := by
  refine ⟨⟨fun s port f p hdown hp hdst hauth hkey hpart hbooks => ?_, accessesTimeOut, fun s port => ⟨rfl, _, rfl, fun q => lookup_portsUp s port q⟩⟩,
    keysAreLoaded, fun _ _ => rfl, fun s p c w since va l hbooks hp hreplay hdiv hheld hl _ _ =>
      replaysTimeOut s p c w since va l hbooks hp hreplay hdiv hheld hl⟩
  have hstep := State.flitReceive_authentic hdown hp hdst hauth hkey hpart hbooks
  exact ⟨requestsComeIn s port f p hstep, responsesEndWaits s port f p hstep⟩

end Sys2Proof.Machine
end


section
/-! PROOFS. Service of the module: power and clocks, islands, failures, soft errors and reset (R8, R23 to R26, R396, R397, R448, R468, R470,
R481). -/

namespace Sys2Proof.Machine

/-! ### Tables and memory -/

theorem State.island_updIsland (s : State) (i j : Nat) (f : Island → Island) :
    (s.updIsland i f).island j = if j = i then f (s.island i) else s.island j := lookup_insertAt _ _ _ _ _

theorem State.island_retime (s : State) (i j : Nat) (f : Island → Island) :
    (s.retime i f).island j = if j = i then f { s.island i with base := (s.island i).cycles s.now, since := s.now } else s.island j :=
  State.island_updIsland s i j _

theorem State.slice_setSlice_self (s : State) (i : Nat) (c : Slice) : (s.setSlice i c).slice i = c := lookup_insertAt_self _ _ _ _

/-- An address that no entry lists reads as nothing has written it. -/
theorem memGet_unlisted {m : List Host.Cell} {a : Nat} (h : ∀ c ∈ m, c.1 ≠ a) : memGet m a = 0 := by
  induction m with
  | nil => rfl
  | cons c m ih =>
    obtain ⟨a', b⟩ := c
    rw [memGet, if_neg (h _ List.mem_cons_self)]
    split
    · rfl
    · exact ih (fun c hc => h c (List.mem_cons_of_mem _ hc))

theorem memGet_filter_out (m : List Host.Cell) (f : Host.Cell → Bool) {a : Nat} (h : ∀ b, f (a, b) = false) : memGet (m.filter f) a = 0 :=
  memGet_unlisted (fun c hc ha => by
    have := (List.mem_filter.mp hc).2
    rw [show c = (a, c.2) from Prod.ext ha rfl, h] at this
    exact Bool.false_ne_true this)

theorem memGet_filter_in {m : List Host.Cell} {lo : Nat} (hm : Memory.wfFrom lo m = true) (f : Host.Cell → Bool) {a : Nat} (h : ∀ b, f (a, b) = true) :
    memGet (m.filter f) a = memGet m a := by
  induction m generalizing lo with
  | nil => rfl
  | cons c m ih =>
    obtain ⟨a', b⟩ := c
    have hm' := hm
    simp only [Memory.wfFrom, Bool.and_eq_true, decide_eq_true_eq] at hm
    obtain ⟨_, hrest⟩ := hm
    by_cases hf : f (a', b) = true
    · rw [List.filter_cons_of_pos hf, memGet, memGet, ih hrest]
    · have hne : a' ≠ a := fun hh => hf (hh ▸ h b)
      rw [List.filter_cons_of_neg hf, ih hrest, memGet, if_neg hne]
      split
      · exact memGet_below (by omega) hrest
      · rfl

/-! ### Faults of the module leave memory and clocks alone -/

theorem State.endWith_shape (s : State) (l : Launch) (cause : Nat) :
    ∃ fs ls cs, s.endWith l cause = { s with faults := fs, launches := ls, commands := cs } := by
  unfold State.endWith
  split
  · exact ⟨s.faults, s.launches, s.commands, rfl⟩
  · exact s.failLaunch_shape _

theorem State.endAll_keeps {β : Type} (g : State → β) (hg : ∀ s fs ls cs, g { s with faults := fs, launches := ls, commands := cs } = g s) (ls : List Launch)
    (cause : Nat) (s : State) : g (ls.foldl (fun s l => State.endWith s l cause) s) = g s :=
  foldl_keeps (f := fun s l => State.endWith s l cause) (fun s l => by
    obtain ⟨fs, ls, cs, h⟩ := s.endWith_shape l cause
    rw [h]
    exact hg s fs ls cs) ls s

theorem State.failTask_keeps {β : Type} (g : State → β) (hs : ∀ s u q, g (State.setSeq s u q) = g s)
    (ht : ∀ s ts rs hs, g { s with tasks := ts, reqs := rs, hgOps := hs } = g s) (s : State) (t cause : Nat) : g (s.failTask t cause) = g s := by
  unfold State.failTask
  split
  · rfl
  · next k _ =>
    refine (ht _ _ _ _).trans (foldl_keeps
      (f := fun s i => State.updThread s (192 + k.quill) i (fun th => { th with status := .idle, owner := .none, traps := [], loop := none, trig := none }))
      (fun _ _ => hs _ _ _) k.threads s)

theorem State.revert_keeps {β : Type} (g : State → β) (hg : ∀ s ls m, g { s with lines := ls, mem := m } = g s) (s : State) (w : Way) :
    g (s.revert w) = g s := by
  unfold State.revert
  split
  · rfl
  · exact hg s _ _

theorem State.discard_keeps {β : Type} (g : State → β) (hg : ∀ s ls m, g { s with lines := ls, mem := m } = g s) (s : State) (i : Nat) :
    g (s.discard i) = g s := foldl_keeps (fun s w => State.revert_keeps g hg s w) _ s

/-! ### RHOTON_SAMPLE (R25, R26, R396, R481) -/

theorem Island.cooled_idle {k : Island} {temp watts : Nat} (ht : temp ≤ 105) (hw : watts ≤ 1800) : k.cooled temp watts = k.mhz := by
  have hw' : decide (powerRating < watts) = false := decide_eq_false (by unfold powerRating; omega)
  unfold Island.cooled
  simp only [hw', Bool.false_and, Bool.or_false, decide_eq_true_eq, Bool.false_eq_true, if_false]
  exact if_neg (by omega)

theorem Island.cooled_past {k : Island} {temp watts : Nat} (ht : temp ≤ 105) (hw : 1800 < watts) (hm : 1800 < k.mhz) : k.cooled temp watts = 1800 := by
  have hw' : decide (powerRating < watts) = true := decide_eq_true (by unfold powerRating; omega)
  unfold Island.cooled
  have hm' : nominalMhz < k.mhz := hm
  simp only [hw', Bool.true_and, if_true]
  rw [if_neg (by simp only [Bool.or_eq_true, decide_eq_true_eq]; omega)]
  exact Nat.min_eq_right (Nat.le_of_lt hm)

theorem Island.cooled_bounds {k : Island} {temp watts : Nat} (h : k.cooled temp watts < k.mhz) :
    900 ≤ k.cooled temp watts ∧ (1800 < watts → k.cooled temp watts ≤ 1800) := by
  unfold Island.cooled powerRating nominalMhz at *
  dsimp only at *
  split_ifs at * with h1 h2 h2 <;> simp only [decide_eq_true_eq] at * <;> omega

/-- What stops an island of cores leaves memory and the islands alone, and its cores are down. -/
theorem State.stopCores_spec (s : State) (i : Nat) :
    (s.stopCores i).islands = s.islands ∧ (s.stopCores i).mem = s.mem ∧ ∀ n ∈ coresOfIsland i, ((s.stopCores i).core n).down = true := by
  let down := fun (s : State) (n : Nat) => s.updCore n (fun k => { k with down := true })
  have hkeep : ∀ {β : Type} (g : State → β), (∀ s n f, g (State.updCore s n f) = g s) →
      (∀ s fs ls cs, g { s with faults := fs, launches := ls, commands := cs } = g s) → g (s.stopCores i) = g s := by
    intro β g hc hg
    unfold State.stopCores
    dsimp only
    refine (foldl_keeps (f := down) (fun s n => hc s n _) (coresOfIsland i) _).trans ((State.endAll_keeps g hg _ _ _).trans ?_)
    exact foldl_keeps (f := fun s n => State.updCore s n (fun k => k.lose n (coresOfIsland i))) (fun s n => hc s n _) _ s
  refine ⟨hkeep State.islands (fun _ _ _ => rfl) (fun _ _ _ _ => rfl), hkeep State.mem (fun _ _ _ => rfl) (fun _ _ _ _ => rfl), fun n hn => ?_⟩
  refine foldl_mem_at (P := fun s : State => (s.core n).down = true) (f := down) hn (fun s => ?_) (fun s m h => ?_) _
  · exact congrArg CoreArr.down (State.core_updCore_self ..)
  · show ((s.updCore m _).core n).down = true
    rw [State.core_updCore]
    split
    · rfl
    · exact h

theorem State.islands_stopQuills (s : State) (b : Nat) : (s.stopQuills b).islands = s.islands := by
  have hlose : ∀ (l : List Nat) (s : State), (l.foldl State.loseSlice s).islands = s.islands :=
    fun l s => foldl_keeps (g := State.islands) (f := State.loseSlice) (fun s i => State.discard_keeps State.islands (fun _ _ _ => rfl) s i) l s
  have hchan : ∀ (l : List Nat) (s : State), (l.foldl (fun s c => State.updChannel s c (fun k => { k with lost := true })) s).islands = s.islands :=
    fun l s => foldl_keeps (g := State.islands) (f := fun s c => State.updChannel s c (fun k => { k with lost := true })) (fun _ _ => rfl) l s
  have htask : ∀ (l : List Task) (s : State), (l.foldl (fun s k => State.failTask s k.id 0x82) s).islands = s.islands :=
    fun l s => foldl_keeps (g := State.islands) (f := fun s (k : Task) => State.failTask s k.id 0x82) 
      (fun s k => State.failTask_keeps State.islands (fun _ _ _ => rfl) (fun _ _ _ _ => rfl) s k.id 0x82) l s
  unfold State.stopQuills
  dsimp only
  rw [htask, State.endAll_keeps State.islands (fun _ _ _ _ => rfl), hchan, hlose]

theorem State.islands_stopLinks (s : State) (b : Nat) : (s.stopLinks b).islands = s.islands :=
  foldl_keeps (g := State.islands) (f := fun s c => State.updChannel s c (fun k => { k with lost := true })) (fun _ _ => rfl) _ _

/-- An island that stops: its clock stands, and an island of cores keeps memory while its cores go down. -/
theorem State.stopIsland_spec (s : State) (i : Nat) :
    ((s.stopIsland i).island i).stopped = true ∧
      (i % 8 < 6 → (s.stopIsland i).mem = s.mem ∧ ∀ n ∈ coresOfIsland i, ((s.stopIsland i).core n).down = true) := by
  let s1 := s.retime i (fun k => { k with stopped := true })
  have hs1 : (s1.island i).stopped = true := by rw [State.island_retime, if_pos rfl]
  have hisl : ∀ t : State, t.islands = s1.islands → (t.island i).stopped = true := fun t ht => by
    rw [State.island, ht]
    exact hs1
  unfold State.stopIsland
  dsimp only
  split
  · obtain ⟨h1, h2, h3⟩ := s1.stopCores_spec i
    exact ⟨hisl _ h1, fun _ => ⟨h2, h3⟩⟩
  · next h =>
    refine ⟨?_, fun h' => absurd h' h⟩
    split
    · exact hisl _ (s1.islands_stopQuills _)
    · exact hisl _ (s1.islands_stopLinks _)

theorem State.rhotonSample_stopped {s : State} {i temp watts : Nat} {low : Bool} (h : (s.island i).stopped = true) :
    s.rhotonSample i low temp watts = { s with power := watts } := if_pos h

theorem State.rhotonSample_stops {s : State} {i temp watts : Nat} {low : Bool} (h : (s.island i).stopped = false) (hs : low = true ∨ 115 < temp) :
    s.rhotonSample i low temp watts = ({ s with power := watts } : State).stopIsland i := by
  unfold State.rhotonSample
  rw [h]
  exact (if_neg Bool.false_ne_true).trans (if_pos (by simpa using hs))

theorem State.rhotonSample_runs {s : State} {i temp watts : Nat} {low : Bool} (h : (s.island i).stopped = false) (hl : low = false) (ht : temp ≤ 115) :
    s.rhotonSample i low temp watts = if (s.island i).cooled temp watts < (s.island i).mhz then
      ({ s with power := watts } : State).updIsland i (fun k => { k with wanted := some (k.cooled temp watts, k.millivolts) })
    else { s with power := watts } := by
  unfold State.rhotonSample
  rw [h, hl]
  exact (if_neg Bool.false_ne_true).trans (if_neg (by simpa using ht))

/-- RHOTON_SAMPLE of an island that runs and goes on. -/
theorem samplesCool (s : State) (i : Fin 64) (temp watts : Nat) (h : (s.island i).stopped = false) (ht : temp ≤ 115) :
    ∃ t, exec (.rhotonSample i false ⟨temp, watts⟩) s = .next t ∧ t.power = watts ∧
      (t.island i).stopped = false ∧ (t.island i).mhz = (s.island i).mhz ∧ t.mem = s.mem ∧
      (((s.island i).mhz ≤ (s.island i).cooled temp watts ∧ (t.island i).wanted = (s.island i).wanted) ∨
        ((s.island i).cooled temp watts < (s.island i).mhz ∧
          (t.island i).wanted = some ((s.island i).cooled temp watts, (s.island i).millivolts))) := by
  have hstep := State.rhotonSample_runs (watts := watts) (low := false) h rfl ht
  by_cases hc : (s.island i).cooled temp watts < (s.island i).mhz
  · let t := ({ s with power := watts } : State).updIsland i (fun k => { k with wanted := some (k.cooled temp watts, k.millivolts) })
    have hi : t.island i = { s.island i with wanted := some ((s.island i).cooled temp watts, (s.island i).millivolts) } :=
      (State.island_updIsland ..).trans (if_pos rfl)
    have hun : t.unblock.island i = { s.island i with wanted := some ((s.island i).cooled temp watts, (s.island i).millivolts) } := hi
    refine ⟨t.unblock, congrArg (fun t : State => Host.Outcome.next t.unblock) (hstep.trans (if_pos hc)), rfl, by rw [hun]; exact h, by rw [hun], rfl,
      Or.inr ⟨hc, by rw [hun]⟩⟩
  · exact ⟨_, congrArg (fun t : State => Host.Outcome.next t.unblock) (hstep.trans (if_neg hc)), rfl, h, rfl, rfl, Or.inl ⟨Nat.not_lt.mp hc, rfl⟩⟩

/-! ### CLOCK_CHANGE (R23, R25, R26) -/

theorem State.mem_joinIslands (s : State) {is : List Nat} {i : Nat} (h : i ∈ is) : i ∈ s.joinIslands is := by
  have hcores : ∀ (l js : List Nat), i ∈ js → i ∈ l.foldl (fun js n => if js.contains (islandOfCore n) then js else js ++ [islandOfCore n]) js := by
    intro l
    induction l with
    | nil => exact fun _ h => h
    | cons n l ih =>
      intro js hj
      refine ih _ ?_
      dsimp only
      split
      · exact hj
      · exact List.mem_append_left _ hj
  have hgangs : ∀ (l : List Gang) (js : List Nat), i ∈ js →
      i ∈ l.foldl (fun js g => g.cores.foldl (fun js n => if js.contains (islandOfCore n) then js else js ++ [islandOfCore n]) js) js := by
    intro l
    induction l with
    | nil => exact fun _ h => h
    | cons g l ih => exact fun js hj => ih _ (hcores g.cores js hj)
  exact hgangs _ _ h

theorem State.mem_clockGroup (s : State) (i : Nat) : i ∈ s.clockGroup i := by
  have hall : ∀ (l js : List Nat), i ∈ js → i ∈ l.foldl (fun is _ => s.joinIslands is) js := by
    intro l
    induction l with
    | nil => exact fun _ h => h
    | cons n l ih => exact fun js hj => ih _ (s.mem_joinIslands hj)
  exact hall _ _ List.mem_cons_self

/-- An island takes a new clock, and the one that is set its voltage too. -/
def Island.clocked (i mhz mv j : Nat) (k : Island) : Island :=
  { k with mhz := mhz, wanted := none, millivolts := if j = i then mv else k.millivolts }

/-- The islands of a group take their clock together. -/
def State.clockAll (s : State) (i mhz mv : Nat) : State := (s.clockGroup i).foldl (fun s j => s.retime j (Island.clocked i mhz mv j)) s

theorem Island.cycles_retimed (k : Island) (t : Nat) (f : Island → Island) (hb : ∀ k, (f k).base = k.base) (hs : ∀ k, (f k).since = k.since)
    : (f { k with base := k.cycles t, since := t }).cycles t = k.cycles t := by
  rw [Island.cycles, hb, hs]
  split
  · rfl
  · show k.cycles t + (t - t) * _ / 9375 = k.cycles t
    rw [Nat.sub_self, Nat.zero_mul, Nat.zero_div, Nat.add_zero]

theorem State.clockAll_spec (s : State) (i mhz mv : Nat) :
    (s.clockAll i mhz mv).now = s.now ∧ (s.clockAll i mhz mv).mem = s.mem ∧
      (∀ j ∈ s.clockGroup i, ((s.clockAll i mhz mv).island j).mhz = mhz ∧ ((s.clockAll i mhz mv).island j).wanted = none) ∧
      ((s.clockAll i mhz mv).island i).millivolts = mv ∧ ∀ j, ((s.clockAll i mhz mv).island j).cycles s.now = (s.island j).cycles s.now := by
  let f := fun (s : State) (j : Nat) => s.retime j (Island.clocked i mhz mv j)
  have hnow : (s.clockAll i mhz mv).now = s.now := foldl_keeps (g := State.now) (f := f) (fun _ _ => rfl) _ s
  refine ⟨hnow, foldl_keeps (g := State.mem) (f := f) (fun _ _ => rfl) _ s, fun j hj => ?_, ?_, fun j => ?_⟩
  · refine foldl_mem_at (P := fun t : State => (t.island j).mhz = mhz ∧ (t.island j).wanted = none) (f := f) hj (fun t => ?_) (fun t b h => ?_) s
    · rw [State.island_retime, if_pos rfl]
      exact ⟨rfl, rfl⟩
    · rw [State.island_retime]
      split
      · exact ⟨rfl, rfl⟩
      · exact h
  · refine foldl_mem_at (P := fun t : State => (t.island i).millivolts = mv) (f := f) (s.mem_clockGroup i) (fun t => ?_) (fun t b h => ?_) s
    · rw [State.island_retime, if_pos rfl]
      exact if_pos rfl
    · rw [State.island_retime]
      split
      · next hb => exact if_pos hb.symm
      · exact h
  · have := foldl_keeps (g := fun t : State => (t.island j).cycles t.now) (f := f) (fun t b => by
      show ((t.retime b _).island j).cycles t.now = _
      rw [State.island_retime]
      split
      · next hb => rw [hb]; exact Island.cycles_retimed _ _ _ (fun _ => rfl) (fun _ => rfl)
      · rfl) (s.clockGroup i) s
    rw [← hnow]
    refine Eq.trans ?_ (this.trans (by rw [hnow]))
    rfl

theorem State.clockChange_eq (s : State) {i mhz mv : Nat} (h1 : 900 ≤ mhz) (h2 : mhz ≤ 2100) : s.clockChange i mhz mv =
    if 1800 < mhz ∧ 1800 < s.power ∧ ∃ j ∈ s.clockGroup i, (s.island j).mhz < mhz then s
    else if ∀ j ∈ s.clockGroup i, ∀ n ∈ coresOfIsland j, s.waveIn n = false then s.clockAll i mhz mv
    else s.updIsland i (fun k => { k with wanted := some (mhz, mv) }) := by
  have hpast : (mhz < 900 || 2100 < mhz || (nominalMhz < mhz && powerRating < s.power && (s.clockGroup i).any (fun j => decide ((s.island j).mhz < mhz)))) = true ↔
      (1800 < mhz ∧ 1800 < s.power ∧ ∃ j ∈ s.clockGroup i, (s.island j).mhz < mhz) := by
    rw [decide_eq_false (Nat.not_lt.mpr h1), decide_eq_false (Nat.not_lt.mpr h2)]
    simp only [Bool.or_self, Bool.false_or, Bool.and_eq_true, decide_eq_true_eq, List.any_eq_true, and_assoc]
    exact Iff.rfl
  have hidle : (s.clockGroup i).all (fun j => (coresOfIsland j).all (fun n => !s.waveIn n)) = true ↔
      ∀ j ∈ s.clockGroup i, ∀ n ∈ coresOfIsland j, s.waveIn n = false := by
    simp only [List.all_eq_true, Bool.not_eq_true']
  exact if_congr hpast rfl (if_congr hidle rfl rfl)

theorem clocksChange (s : State) (i : Fin 64) (mhz mv : Nat) (h1 : 900 ≤ mhz) (h2 : mhz ≤ 2100) :
    (1800 < mhz → 1800 < s.power → (∃ j ∈ s.clockGroup i, (s.island j).mhz < mhz) → exec (.clockChange i ⟨mhz, mv⟩) s = .next s.unblock) ∧
    ((mhz ≤ 1800 ∨ s.power ≤ 1800 ∨ ∀ j ∈ s.clockGroup i, mhz ≤ (s.island j).mhz) → (∀ j ∈ s.clockGroup i, ∀ n ∈ coresOfIsland j, s.waveIn n = false) →
      ∃ t, exec (.clockChange i ⟨mhz, mv⟩) s = .next t ∧ t.now = s.now ∧ t.mem = s.mem ∧
        (∀ j ∈ s.clockGroup i, (t.island j).mhz = mhz ∧ (t.island j).wanted = none) ∧ i.val ∈ s.clockGroup i ∧ (t.island i).millivolts = mv ∧
        ∀ j, (t.island j).cycles s.now = (s.island j).cycles s.now) ∧
    ((mhz ≤ 1800 ∨ s.power ≤ 1800 ∨ ∀ j ∈ s.clockGroup i, mhz ≤ (s.island j).mhz) → (∃ j ∈ s.clockGroup i, ∃ n ∈ coresOfIsland j, s.waveIn n = true) →
      exec (.clockChange i ⟨mhz, mv⟩) s = .next ((s.updIsland i (fun k => { k with wanted := some (mhz, mv) })).unblock)) := by
  have hexec : ∀ t, s.clockChange i mhz mv = t → exec (.clockChange i ⟨mhz, mv⟩) s = .next t.unblock :=
    fun t h => congrArg (fun t : State => Host.Outcome.next t.unblock) h
  have heq := s.clockChange_eq (i := i) (mv := mv) h1 h2
  have hwithin : (mhz ≤ 1800 ∨ s.power ≤ 1800 ∨ ∀ j ∈ s.clockGroup i, mhz ≤ (s.island j).mhz) →
      ¬ (1800 < mhz ∧ 1800 < s.power ∧ ∃ j ∈ s.clockGroup i, (s.island j).mhz < mhz) := by
    rintro h ⟨ha, hb, j, hj, hlt⟩
    rcases h with h | h | h
    · omega
    · omega
    · exact absurd (h j hj) (Nat.not_le.mpr hlt)
  refine ⟨fun ha hb hc => hexec _ (heq.trans (if_pos ⟨ha, hb, hc⟩)), fun hw hidle => ?_, fun hw hbusy => ?_⟩
  · obtain ⟨hnow, hmem, hall, hmv, hcyc⟩ := s.clockAll_spec i mhz mv
    exact ⟨(s.clockAll i mhz mv).unblock, hexec _ (heq.trans ((if_neg (hwithin hw)).trans (if_pos hidle))), hnow, hmem, hall, s.mem_clockGroup i, hmv, hcyc⟩
  · refine hexec _ (heq.trans ((if_neg (hwithin hw)).trans (if_neg (fun h => ?_))))
    obtain ⟨j, hj, n, hn, hwave⟩ := hbusy
    rw [h j hj n hn] at hwave
    exact Bool.false_ne_true hwave

/-! ### ISLAND_RESTART (R481) -/

/-- A core that is zeroised has its reset values, but for whether it is down. -/
theorem lookup_zeroed (ns : List Nat) {n : Nat} (hn : n ∈ ns) (m : SMap CoreArr) :
    ∃ d, lookup CoreArr.reset n (m.map (fun e => if ns.contains e.1 then (e.1, { CoreArr.reset with down := e.2.down }) else e)) =
      { CoreArr.reset with down := d } := by
  induction m with
  | nil => exact ⟨false, rfl⟩
  | cons e m ih =>
    obtain ⟨k, v⟩ := e
    rw [List.map_cons]
    by_cases hk : k = n
    · refine ⟨v.down, ?_⟩
      rw [if_pos (by rw [hk]; exact List.contains_iff_mem.mpr hn), lookup, if_pos hk]
    · obtain ⟨d, hd⟩ := ih
      refine ⟨d, Eq.trans ?_ hd⟩
      split <;> rw [lookup, if_neg hk]

theorem State.core_zeroCores (s : State) {ns : List Nat} {n : Nat} (hn : n ∈ ns) : ∃ d, (s.zeroCores ns).core n = { CoreArr.reset with down := d } :=
  lookup_zeroed ns hn s.cores

theorem scratchPa_not_hbm {n off : Nat} : ¬ scratchPa n off < 8 * stackBytes := by unfold scratchPa scratchBase stackBytes; omega

theorem scratchPa_sub {n off : Nat} : scratchPa n off - scratchBase = n * 0x200000 + off := by rw [scratchPa, Nat.add_assoc, Nat.add_sub_cancel_left]

theorem scratchPa_ge {n off : Nat} : scratchBase ≤ scratchPa n off := by
  rw [scratchPa, Nat.add_assoc]
  exact Nat.le_add_right _ _

theorem scratchPa_lt {n off : Nat} (hn : n < 192) (ho : off < 0x200000) : scratchPa n off < scratchBase + 192 * 0x200000 := by
  rw [scratchPa, Nat.add_assoc]
  exact Nat.add_lt_add_left (by omega) _

theorem locate_scratchPa {n off : Nat} (hn : n < 192) (ho : off < 0x200000) : locate (scratchPa n off) = .scratch n off := by
  have hn' : (n * 0x200000 + off) / 0x200000 = n := by omega
  have ho' : (n * 0x200000 + off) % 0x200000 = off := by omega
  unfold locate
  rw [if_neg scratchPa_not_hbm, if_pos (by rw [decide_eq_true scratchPa_ge, decide_eq_true (scratchPa_lt hn ho)]; rfl), scratchPa_sub, hn', ho']

theorem State.mem_zeroCores (s : State) {ns : List Nat} {n off a : Nat} (hn : n ∈ ns) (ha : locate a = .scratch n off) :
    memGet (s.zeroCores ns).mem a = 0 := by
  refine memGet_filter_out s.mem _ (fun b => ?_)
  dsimp only
  rw [ha]
  simpa using hn

theorem islandsRestart (s : State) (i : Fin 64) (hstop : (s.island i).stopped = true) (hi : i.val % 8 < 6)
    (hfree : ∀ n ∈ coresOfIsland i, (s.core n).gang = none) :
    ∃ t, exec (.islandRestart i) s = .next t ∧ (t.island i).stopped = false ∧
      ∀ n ∈ coresOfIsland i, (t.core n).down = false ∧ (t.core n).full = [] ∧ ∀ off, off < 0x200000 → memGet t.mem (scratchPa n off) = 0 := by
  let ns := coresOfIsland i
  let up := fun (s : State) (n : Nat) => s.updCore n (fun k => { k with down := false })
  let s1 := s.retime i (fun k => { k with stopped := false })
  let s2 := s1.zeroCores ns
  have hstep : s.islandRestart i = ns.foldl up s2 := by
    have hany : (coresOfIsland i).any (fun n => (s.core n).gang.isSome) = false :=
      List.any_eq_false.mpr (fun n hn => by rw [hfree n hn]; exact Bool.false_ne_true)
    unfold State.islandRestart
    rw [hstop, hany]
    dsimp only
    simp only [Bool.not_true, Bool.and_false, Bool.or_self, Bool.false_eq_true, if_false]
    exact if_pos hi
  have hkeep : ∀ {β : Type} (g : State → β), (∀ s n f, g (State.updCore s n f) = g s) → g (ns.foldl up s2) = g s2 :=
    fun g hg => foldl_keeps (f := up) (fun s n => hg s n _) ns s2
  refine ⟨(ns.foldl up s2).unblock, congrArg (fun t : State => Host.Outcome.next t.unblock) hstep, ?_, fun n hn => ⟨?_, ?_, fun off ho => ?_⟩⟩
  · have hisl : (ns.foldl up s2).island i = s1.island i := hkeep (fun s => State.island s i) (fun _ _ _ => rfl)
    refine (congrArg Island.stopped hisl).trans ?_
    rw [State.island_retime, if_pos rfl]
  · refine foldl_mem_at (P := fun s : State => (s.core n).down = false) (f := up) hn (fun s => ?_) (fun s m h => ?_) s2
    · exact congrArg CoreArr.down (State.core_updCore_self ..)
    · show ((s.updCore m _).core n).down = false
      rw [State.core_updCore]
      split
      · rfl
      · exact h
  · have hfull : ((ns.foldl up s2).core n).full = (s2.core n).full :=
      foldl_keeps (g := fun s => (State.core s n).full) (f := up) (fun s m => by
        show ((s.updCore m _).core n).full = _
        rw [State.core_updCore]
        split
        next h => rw [h]
        · rfl) ns s2
    obtain ⟨d, hd⟩ := s1.core_zeroCores (ns := ns) hn
    exact hfull.trans (congrArg CoreArr.full hd)
  · have hmem : (ns.foldl up s2).mem = s2.mem := hkeep State.mem (fun _ _ _ => rfl)
    show memGet (ns.foldl up s2).mem _ = 0
    rw [hmem]
    exact s1.mem_zeroCores hn (locate_scratchPa (List.mem_range.mp (List.mem_filter.mp hn).1) ho)

/-! ### SELF_CHECK_FAILURE (R448, R470) -/

theorem Seq.broken_firmware (q : Seq) (u : Nat) : (q.firmware u).broken = q.broken := by
  unfold Seq.firmware
  dsimp only
  split_ifs <;> rfl

theorem State.broken_firmware (s : State) (u v : Nat) : ((s.firmware u).seq v).broken = (s.seq v).broken := by
  have hset : ((s.setSeq u ((s.seq u).firmware u)).seq v).broken = (s.seq v).broken := by
    rw [State.seq, State.setSeq, lookup_insertAt]
    split
    · next h => rw [Seq.broken_firmware, h]
    · rfl
  have hspare : ∀ (t : State) (n : Nat), (t.spareEntries n).seqs = t.seqs := fun t n => by
    unfold State.spareEntries
    split <;> rfl
  unfold State.firmware
  dsimp only
  split
  · split
    · rw [State.seq, hspare]
      exact hset
    · exact hset
  · rfl

theorem unitsFail (s : State) (u : Fin 224) (c : Fin 8) (k : Fin 2) (g : Fin 4) :
    ∃ t, exec (.selfCheckFailure (.part u c k g)) s = .next t ∧
      (t.seq u).broken = (s.seq u).broken ||| (1#16 <<< (2 * c.val + k.val)) ∧ t.mem = s.mem := by
  let q : Seq := { s.seq u with broken := (s.seq u).broken ||| (1#16 <<< (2 * c.val + k.val)), stages := insertAt (2 * c.val + k.val) g.val (s.seq u).stages }
  refine ⟨((s.setSeq u q).firmware u).unblock, rfl, ?_, ?_⟩
  · have hun : (((s.setSeq u q).firmware u).unblock.seq u).broken = (((s.setSeq u q).firmware u).seq u).broken := by
      rw [State.seq_unblock]
      rfl
    rw [hun, State.broken_firmware, State.seq, State.setSeq, lookup_insertAt_self]
  · exact State.firmware_keeps State.mem (fun _ _ _ => rfl) (fun _ _ _ => rfl) (s.setSeq u q) u

/-! ### MODULE_RESET (R8, R397) -/

/-- Slices lose what they hold one after another. -/
theorem State.discards_eq (s : State) (l : List Nat) (t : State) (h : t.slices = s.slices) :
    l.foldl State.discard t = (l.flatMap (fun i => (s.slice i).held)).foldl State.revert t := by
  induction l generalizing t with
  | nil => rfl
  | cons i l ih =>
    have hheld : t.discard i = (s.slice i).held.foldl State.revert t := by rw [State.discard, State.slice, h]; rfl
    have hsl : (t.discard i).slices = s.slices := (State.discard_keeps State.slices (fun _ _ _ => rfl) t i).trans h
    rw [List.foldl_cons, ih _ hsl, hheld, List.flatMap_cons, List.foldl_append]

theorem State.reverts_clean {ws : List Way} (h : ∀ w ∈ ws, w.old = none) (s : State) : ws.foldl State.revert s = s := by
  induction ws generalizing s with
  | nil => rfl
  | cons w ws ih =>
    have hw : s.revert w = s := by rw [State.revert, h w List.mem_cons_self]
    rw [List.foldl_cons, hw, ih (fun x hx => h x (List.mem_cons_of_mem w hx))]

theorem State.discards_wf {s : State} (h : Memory.wf s.mem = true) (ws : List Way) : Memory.wf (ws.foldl State.revert s).mem = true := by
  induction ws generalizing s with
  | nil => exact h
  | cons w ws ih =>
    refine ih ?_
    unfold State.revert
    split
    · exact h
    · exact memWrite_wf _ _ h

/-- The state that module reset starts from, the spares' turn apart. -/
def State.resetFrom (s : State) : State :=
  { State.reset with
    mem := s.mem.filter (fun c => match locate c.1 with | .hbm _ _ => true | _ => false)
    lines := s.lines.map (fun (e : Nat × LineMeta) => (e.1, { e.2 with srec := none }))
    seqs := s.seqs.map (fun (e : Nat × Seq) => (e.1, bootSeq e.1 e.2))
    islands := s.islands.map (fun (e : Nat × Island) =>
      (e.1, { Island.reset with bankB := e.2.bankB, imageA := e.2.imageA, imageB := e.2.imageB }))
    booted := s.islands.filterMap (fun (e : Nat × Island) =>
      let img := if e.2.bankB then e.2.imageB else e.2.imageA
      if img.isEmpty then none else some (e.1, img))
    keyValues := s.keyValues
    flitTx := s.flitTx
    flitRx := s.flitRx
    sparesUsed := s.sparesUsed
    latent := s.latent
    unfixable := s.unfixable
    nextKey := s.nextKey
    freeCount := s.freeCount
    agenda := s.agenda
    output := s.output }

/-- The state without what the spares' turn may change. -/
def State.spareless (s : State) : State := { s with seqs := [], sparesUsed := 0 }

theorem State.moduleReset_spareless (s : State) : s.moduleReset.spareless = ((List.range 64).foldl State.discard s).resetFrom.spareless :=
  foldl_keeps (g := State.spareless) (f := State.bootSpare) (fun t b => by
    unfold State.bootSpare
    split
    · rfl
    · split <;> rfl) (List.range 8) ((List.range 64).foldl State.discard s).resetFrom

theorem memGet_resetFrom_above (s : State) {a : Nat} (ha : 8 * stackBytes ≤ a) : memGet s.resetFrom.mem a = 0 := by
  refine memGet_filter_out s.mem _ (fun b => ?_)
  dsimp only
  unfold locate
  rw [if_neg (Nat.not_lt.mpr ha)]
  split_ifs <;> rfl

theorem memGet_resetFrom_below {s : State} (hm : Memory.wf s.mem = true) {a : Nat} (ha : a < 8 * stackBytes) : memGet s.resetFrom.mem a = memGet s.mem a := by
  refine memGet_filter_in hm _ (fun b => ?_)
  dsimp only
  unfold locate
  rw [if_pos ha]

theorem lineMeta_resetFrom (s : State) (l : Nat) :
    (s.resetFrom.lineMeta l).tag = (s.lineMeta l).tag ∧ (s.resetFrom.lineMeta l).poison = (s.lineMeta l).poison := by
  have h : s.resetFrom.lineMeta l = { s.lineMeta l with srec := none } :=
    lookup_map (fun e : LineMeta => { e with srec := none }) LineMeta.reset l s.lines rfl
  rw [h]
  exact ⟨rfl, rfl⟩

/-- What HBM holds after reset: what it held, and of the one dirty line its old copy. -/
theorem moduleResetKeeps {s d t : State} (hm : Memory.wf s.mem = true)
    (hdis : d = ((List.range 64).flatMap (fun i => (s.slice i).held)).foldl State.revert s) (ht : t.spareless = d.resetFrom.spareless) :
    (∀ a, 8 * stackBytes ≤ a → memGet t.mem a = 0) ∧
    let held := (List.range 64).flatMap (fun i => (s.slice i).held)
    ((∀ w ∈ held, w.old = none) → (∀ a, a < 8 * stackBytes → memGet t.mem a = memGet s.mem a) ∧
      ∀ line, (t.lineMeta line).tag = (s.lineMeta line).tag ∧ (t.lineMeta line).poison = (s.lineMeta line).poison) ∧
    (∀ w h, held = [w] → w.old = some h → h.bytes.length = 128 → 128 * w.line < 8 * stackBytes →
      memRead t.mem (128 * w.line) 128 = h.bytes ∧ (t.lineMeta w.line).tag = h.tag) := by
  have hmem : t.mem = d.resetFrom.mem := (congrArg State.mem ht :)
  have hline : ∀ l, t.lineMeta l = d.resetFrom.lineMeta l := fun l => by
    rw [State.lineMeta, show t.lines = _ from (congrArg State.lines ht :)]
    rfl
  dsimp only
  refine ⟨fun a ha => by rw [hmem]; exact memGet_resetFrom_above _ ha, fun hclean => ?_, fun w h hheld hold hlen hw => ?_⟩
  · rw [State.reverts_clean hclean] at hdis
    rw [hdis] at hmem hline
    exact ⟨fun a ha => by rw [hmem]; exact memGet_resetFrom_below hm ha, fun l => by rw [hline]; exact lineMeta_resetFrom s l⟩
  · rw [hheld, List.foldl_cons, List.foldl_nil] at hdis
    rw [hdis] at hmem hline
    have hrev : s.revert w = { s.setLine w.line { s.lineMeta w.line with tag := h.tag, poison := h.poison, key := h.key } with
        mem := memWrite s.mem (128 * w.line) h.bytes } := by rw [State.revert, hold]
    have hwf : Memory.wf (s.revert w).mem = true := by rw [hrev]; exact memWrite_wf _ _ hm
    refine ⟨?_, ?_⟩
    · have hself := memRead_memWrite_self hm (128 * w.line) h.bytes
      rw [hlen] at hself
      refine Eq.trans ?_ hself
      refine List.map_congr_left (fun j hj => ?_)
      have hj' := List.mem_range.mp hj
      rw [hmem, memGet_resetFrom_below hwf (by unfold stackBytes at *; omega), hrev]
    · rw [hline, (lineMeta_resetFrom _ _).1, hrev]
      exact congrArg LineMeta.tag (lookup_insertAt_self _ _ _ _)

theorem moduleResets (s : State) (hm : Memory.wf s.mem = true) :
    ∃ t, exec .moduleReset s = .next t ∧ t.launches = [] ∧ t.gangs = [] ∧ t.tasks = [] ∧ t.copies = [] ∧ t.reqs = [] ∧
      t.launchQ = [] ∧ t.copyQ = [] ∧ t.taskQ = [] ∧ t.parts = [] ∧ t.cores = [] ∧ t.slices = [] ∧ t.channels = [] ∧ t.keys = [] ∧
      t.modreg = 0 ∧ t.cmdWidx = 0 ∧ t.cmdRidx = 0 ∧ t.now = 0 ∧
      (∀ a, 8 * stackBytes ≤ a → memGet t.mem a = 0) ∧
      let held := (List.range 64).flatMap (fun i => (s.slice i).held)
      ((∀ w ∈ held, w.old = none) → (∀ a, a < 8 * stackBytes → memGet t.mem a = memGet s.mem a) ∧
        ∀ line, (t.lineMeta line).tag = (s.lineMeta line).tag ∧ (t.lineMeta line).poison = (s.lineMeta line).poison) ∧
      (∀ w h, held = [w] → w.old = some h → h.bytes.length = 128 → 128 * w.line < 8 * stackBytes →
        memRead t.mem (128 * w.line) 128 = h.bytes ∧ (t.lineMeta w.line).tag = h.tag) := by
  have ht := s.moduleReset_spareless
  have hdis := s.discards_eq (List.range 64) s rfl
  have hexec : exec .moduleReset s = .next s.moduleReset := rfl
  generalize (List.range 64).foldl State.discard s = d at ht hdis
  generalize s.moduleReset = t at ht hexec
  exact ⟨t, hexec, (congrArg State.launches ht :), (congrArg State.gangs ht :), (congrArg State.tasks ht :), (congrArg State.copies ht :),
    (congrArg State.reqs ht :), (congrArg State.launchQ ht :), (congrArg State.copyQ ht :), (congrArg State.taskQ ht :), (congrArg State.parts ht :),
    (congrArg State.cores ht :), (congrArg State.slices ht :), (congrArg State.channels ht :), (congrArg State.keys ht :), (congrArg State.modreg ht :),
    (congrArg State.cmdWidx ht :), (congrArg State.cmdRidx ht :), (congrArg State.now ht :), moduleResetKeeps hm hdis ht⟩

/-- SOFT_ERROR of a line of HBM and of a granule (R468). -/
theorem softErrorsMark (s : State) (line core g : Nat) (double : Bool) :
    (double = true ∨ lookup false line s.latent = true →
      ∃ t, exec (.softError (.hbm line) double) s = .next t ∧ lookup false line t.unfixable = true ∧ t.lines = s.lines ∧ t.mem = s.mem) ∧
    (double = false → lookup false line s.latent = false → lookup false line s.unfixable = true →
      exec (.softError (.hbm line) double) s = .next s.unblock) ∧
    (double = false → lookup false line s.latent = false → lookup false line s.unfixable = false →
      exec (.softError (.hbm line) double) s = .next (({ s with latent := insertAt line true s.latent } : State).unblock)) ∧
    (double = false → exec (.softError (.granule core g) double) s = .next (({ s with corrected := s.corrected + 1 } : State).unblock)) ∧
    (double = true → ∃ t, exec (.softError (.granule core g) double) s = .next t ∧ lookup false g (t.core core).gpoison = true ∧
      t.mem = s.mem) := by
  have hexec : ∀ (k : SoftTarget) (t : State), s.softError k double = t → exec (.softError k double) s = .next t.unblock :=
    fun _ _ h => congrArg (fun t : State => Host.Outcome.next t.unblock) h
  refine ⟨fun h => ?_, fun hd hl hu => hexec _ _ ?_, fun hd hl hu => hexec _ _ ?_, fun hd => hexec _ _ ?_, fun hd => ?_⟩
  · refine ⟨_, hexec (.hbm line) { s with latent := eraseAt line s.latent, unfixable := insertAt line true s.unfixable } (if_pos (by simpa using h)),
      lookup_insertAt_self _ _ _ _, rfl, rfl⟩
  · exact (if_neg (by simp [hd, hl])).trans (if_pos hu)
  · exact (if_neg (by simp [hd, hl])).trans (if_neg (by simp [hu]))
  · exact if_neg (by simp [hd])
  · let t := s.updCore core (fun a => { a with gpoison := insertAt g true a.gpoison, full := insertAt g true a.full })
    have hcore : t.core core = { s.core core with gpoison := insertAt g true (s.core core).gpoison, full := insertAt g true (s.core core).full } :=
      State.core_updCore_self ..
    refine ⟨t.unblock, hexec (.granule core g) t (if_pos hd), ?_, rfl⟩
    exact (congrArg (fun k : CoreArr => lookup false g k.gpoison) hcore).trans (lookup_insertAt_self _ _ _ _)

/-- Settles O58: samples cool and stop islands, clocks change together, islands restart, failures and soft errors leave their marks, and
module reset leaves the reset values over HBM. -/
theorem islandsFailuresAndReset : Obligations.IslandsFailuresAndReset := by
  refine ⟨⟨fun s i low temp watts hstop => ⟨fun hl ht hw => ?_, fun hl ht hw hm => ?_, fun hl ht hor => ?_, fun hs => ?_⟩, fun s i low temp watts hstop => ?_,
    clocksChange, islandsRestart⟩, fun s n => ⟨_, rfl, ?_, ?_⟩, fun s ch => ⟨_, rfl, ?_, rfl⟩, unitsFail, softErrorsMark, moduleResets⟩
  · refine congrArg (fun t : State => Host.Outcome.next t.unblock) ((State.rhotonSample_runs (temp := temp) hstop hl (by omega)).trans (if_neg ?_))
    rw [Island.cooled_idle ht hw]
    exact Nat.lt_irrefl _
  · subst hl
    have hcool := Island.cooled_past ht hw hm
    obtain ⟨t, hexec, hpow, _, hmhz, _, hor⟩ := samplesCool s i temp watts hstop (by omega)
    rw [hcool] at hor
    rcases hor with ⟨h, _⟩ | ⟨_, h⟩
    · omega
    · exact ⟨t, hexec, hpow, h, hmhz⟩
  · subst hl
    obtain ⟨t, hexec, hpow, hst, hmhz, hmem, hor'⟩ := samplesCool s i temp watts hstop ht
    refine ⟨t, hexec, hpow, hst, hmhz, hmem, hor'.imp (fun h => h.2) (fun ⟨hlt, hwant⟩ => ⟨_, hwant, ?_⟩)⟩
    obtain ⟨h900, h1800⟩ := Island.cooled_bounds hlt
    exact ⟨h900, hlt, h1800⟩
  · exact ⟨_, congrArg (fun t : State => Host.Outcome.next t.unblock) (State.rhotonSample_stops hstop hs), State.stopIsland_spec _ i⟩
  · exact congrArg (fun t : State => Host.Outcome.next t.unblock) (State.rhotonSample_stopped hstop)
  · exact congrArg Slice.lost (State.slice_setSlice_self (s.discard n) n { Slice.reset with lost := true })
  · exact congrArg Slice.sets (State.slice_setSlice_self (s.discard n) n { Slice.reset with lost := true })
  · exact congrArg Channel.lost (State.channel_updChannel_self s ch (fun k => { k with lost := true }))

end Sys2Proof.Machine
end


section
/-! PROOFS. Commands that take effect at once (R386 to R388, R482). -/

namespace Sys2Proof.Machine

/-! ### The command at the head of the ring (R386, R387) -/

section
variable {s : State} {bs : List Byte} (hc : s.command = some bs) (hcs : s.commands = []) (hres : cmdReserved bs = false)
  (hbad : s.badArguments bs = false)

include hc hcs hres hbad in
theorem State.commandStep_runs {op : Nat} (hop : cmdOp bs = op) (h0 : 0 < op) (h12 : op ≤ 12) (run : State → Nat → List Byte → State) :
    s.commandStep op run = run s (cmdPart bs) bs := by
  unfold State.commandStep
  rw [hc]
  dsimp only
  rw [if_neg (by simp only [hop, Bool.or_eq_true, decide_eq_true_eq]; omega), if_neg (fun h => h hop), hres, hbad, hcs]
  rfl

include hcs in
theorem State.not_started : s.started = false := by rw [State.started, hcs, List.any_nil]

end

/-- The command at the head of the ring is complete with a code. -/
def State.commandDone (s t : State) (code : Nat) : Prop :=
  t.cmdRidx = s.cmdRidx + 1 ∧ t.commands = [] ∧
    memRead t.mem (cmdPa s.cmdRidx.toNat + 8) 8 = leBytes 8 (s.cmdRidx.toNat * 2 ^ 32 + 2 ^ 31 + code * 2 ^ 16)

theorem State.complete_done {s t : State} (hm : Memory.wf t.mem = true) (hi : t.cmdRidx = s.cmdRidx) (hcs : t.commands = []) {code : Nat} (hcode : code < 256) :
    s.commandDone (t.complete code) code := by
  have hword : statusWord t.cmdRidx.toNat code 0 = s.cmdRidx.toNat * 2 ^ 32 + 2 ^ 31 + code * 2 ^ 16 := by
    have := s.cmdRidx.isLt
    rw [hi, statusWord]
    omega
  refine ⟨congrArg (· + 1) hi, ?_, ?_⟩
  · show t.commands.filter _ = []
    rw [hcs, List.filter_nil]
  · rw [← hword, ← hi]
    have := memRead_memWrite_self hm (cmdPa t.cmdRidx.toNat + 8) (leBytes 8 (statusWord t.cmdRidx.toNat code 0))
    rwa [leBytes_length] at this

/-! ### PCREATE (R386) -/

theorem State.zeroCores_wf {s : State} (h : Memory.wf s.mem = true) (ns : List Nat) : Memory.wf (s.zeroCores ns).mem = true := filter_wf _ h

/-- What the slices' turn changes of the blocks of a partition. -/
theorem State.freshSlices_spec (s : State) (b : BitVec 8) :
    (Memory.wf s.mem = true → Memory.wf (s.freshSlices b).mem = true) ∧
      ∃ m ls sl, s.freshSlices b = { s with mem := m, lines := ls, slices := sl } := by
  have hdis := s.discards_eq ((List.range 64).filter (fun i => b.getLsbD (i / 8))) s rfl
  have hshape : ∀ (ws : List Way) (t : State), ∃ m ls, ws.foldl State.revert t = { t with mem := m, lines := ls } := by
    intro ws
    induction ws with
    | nil => exact fun t => ⟨t.mem, t.lines, rfl⟩
    | cons w ws ih =>
      intro t
      obtain ⟨m, ls, h⟩ := ih (t.revert w)
      rw [List.foldl_cons, h]
      unfold State.revert
      split <;> exact ⟨m, ls, rfl⟩
  refine ⟨fun h => ?_, ?_⟩
  · show Memory.wf (((List.range 64).filter _).foldl State.discard s).mem = true
    rw [hdis]
    exact State.discards_wf h _
  · obtain ⟨m, ls, h⟩ := hshape (((List.range 64).filter (fun i => b.getLsbD (i / 8))).flatMap (fun i => (s.slice i).held)) s
    refine ⟨m, ls, (List.range 64).foldl (fun m i => if b.getLsbD (i / 8) then
      insertAt i { Slice.reset with swaps := s.cc / swapPeriod, lost := (s.slice i).lost } m else m) s.slices, ?_⟩
    unfold State.freshSlices
    dsimp only
    rw [hdis, h]

theorem State.setCalendars_keeps {β : Type} (g : State → β) (hg : ∀ s c f, g (State.updChannel s c f) = g s) (s : State) (b : BitVec 8) (new : Calendar) :
    g (s.setCalendars b new) = g s :=
  foldl_keeps (f := fun s c => State.updChannel s c (fun k => { k with cal := new, shadow := new, runs := [], runQueue := [], refreshDue := 0 }))
    (fun s c => hg s c _) _ s

/-- The partition that PCREATE creates. -/
def State.newPart (s : State) (p : Nat) (bs : List Byte) : Partition :=
  { Partition.reset with present := true, blocks := BitVec.ofNat 8 (fieldAt bs 16 1), ptbase := fieldAt bs 24 8,
                         reserve := BitVec.ofNat 48 (fieldAt bs 32 6), fqbase := fieldAt bs 40 8, hwbase := fieldAt bs 48 8, latva := fieldAt bs 56 8,
                         gen := s.nextKey, routes := (s.part p).routes }

/-- A state whose blocks have been zeroised for a new partition. -/
def State.zeroised (s : State) (p : Nat) (b : BitVec 8) (cs : List Nat) (cal : Calendar) : State :=
  ((((s.zeroCores cs).freshLines b).freshSlices b).setCalendars b cal).dropInbox p b

theorem State.zeroised_spec (s : State) (p : Nat) (b : BitVec 8) (cs : List Nat) (cal : Calendar) :
    (Memory.wf s.mem = true → Memory.wf (s.zeroised p b cs cal).mem = true) ∧ (s.zeroised p b cs cal).cmdRidx = s.cmdRidx ∧
      (s.zeroised p b cs cal).commands = s.commands := by
  obtain ⟨hwf, m, ls, sl, hshape⟩ := ((s.zeroCores cs).freshLines b).freshSlices_spec b
  have hkeep : ∀ {β : Type} (g : State → β), (∀ s c f, g (State.updChannel s c f) = g s) → (∀ s i, g { s with inbox := i } = g s) →
      g (s.zeroised p b cs cal) = g (((s.zeroCores cs).freshLines b).freshSlices b) := fun g hg hi => (hi _ _).trans (State.setCalendars_keeps g hg _ b cal)
  refine ⟨fun hm => ?_, ?_, ?_⟩
  · rw [hkeep State.mem (fun _ _ _ => rfl) (fun _ _ => rfl)]
    exact hwf (State.zeroCores_wf hm cs)
  · rw [hkeep State.cmdRidx (fun _ _ _ => rfl) (fun _ _ => rfl), hshape]
    rfl
  · rw [hkeep State.commands (fun _ _ _ => rfl) (fun _ _ => rfl), hshape]
    rfl

theorem State.created_spec {s : State} (hm : Memory.wf s.mem = true) (p : Nat) (bs : List Byte) :
    Memory.wf (s.created p bs).mem = true ∧ (s.created p bs).cmdRidx = s.cmdRidx ∧ (s.created p bs).commands = s.commands ∧
      (s.created p bs).part p = s.newPart p bs := by
  obtain ⟨t, ht, htm, hti, htc⟩ : ∃ t : State, s.created p bs = (t.zeroised p (BitVec.ofNat 8 (fieldAt bs 16 1)) (coresOf (BitVec.ofNat 8 (fieldAt bs 16 1)))
      (Calendar.created (BitVec.ofNat 8 (fieldAt bs 16 1)))).setPart p (s.newPart p bs) ∧ t.mem = s.mem ∧ t.cmdRidx = s.cmdRidx ∧ t.commands = s.commands :=
    ⟨_, rfl, rfl, rfl, rfl⟩
  obtain ⟨hwf, hidx, hcs⟩ := t.zeroised_spec p (BitVec.ofNat 8 (fieldAt bs 16 1)) (coresOf (BitVec.ofNat 8 (fieldAt bs 16 1)))
    (Calendar.created (BitVec.ofNat 8 (fieldAt bs 16 1)))
  rw [ht]
  exact ⟨hwf (htm ▸ hm), hidx.trans hti, hcs.trans htc, lookup_insertAt_self _ _ _ _⟩

/-! ### PDESTROY (R386) -/

/-- A queue of a partition that ends is served no more. -/
def Queue.off (p : Nat) (q : Queue) : Queue := if q.part = p then { q with en := false, origins := [] } else q

theorem lookup_off (p n : Nat) (m : SMap Queue) :
    lookup Queue.reset n (m.map (fun (e : Nat × Queue) => if e.2.part = p then (e.1, { e.2 with en := false, origins := [] }) else e)) =
      (lookup Queue.reset n m).off p := by
  have hreset : Queue.reset.off p = Queue.reset := by unfold Queue.off; split <;> rfl
  rw [← lookup_map (Queue.off p) Queue.reset n m hreset]
  refine congrArg (lookup Queue.reset n) (List.map_congr_left (fun e _ => ?_))
  unfold Queue.off
  split <;> rfl

theorem lookup_destroying {p : Nat} {m : SMap Partition} (h : (lookup Partition.reset p m).present = true) :
    (lookup Partition.reset p (m.map (fun e => if e.1 = p then (e.1, { e.2 with destroying := true }) else e))).destroying = true := by
  induction m with
  | nil => exact absurd h Bool.false_ne_true
  | cons e m ih =>
    obtain ⟨k, v⟩ := e
    rw [List.map_cons]
    by_cases hk : k = p
    · rw [if_pos hk, lookup, if_pos hk]
    · rw [if_neg hk, lookup, if_neg hk]
      rw [lookup, if_neg hk] at h
      exact ih h

theorem State.endPartition_spec {s : State} {p : Nat} (hp : (s.part p).present = true) :
    ((s.endPartition p).part p).destroying = true ∧ (s.endPartition p).cmdRidx = s.cmdRidx ∧
      ∀ q, (s.launchQueue q).part = p → ((s.endPartition p).launchQueue q).en = false := by
  let s1 := (s.launches.filter (fun l => l.part == p)).foldl (fun s l => s.endWith l 5) s
  let s2 := (s1.tasks.filter (fun k => k.part == p && k.launch.isNone)).foldl (fun s k => s.failTask k.id 5) s1
  have hkeep : ∀ {β : Type} (g : State → β), (∀ s u q, g (State.setSeq s u q) = g s) →
      (∀ s ts rs hs, g { s with tasks := ts, reqs := rs, hgOps := hs } = g s) →
      (∀ s fs ls cs, g { s with faults := fs, launches := ls, commands := cs } = g s) → g s2 = g s := fun g hs ht hf =>
    (foldl_keeps (g := g) (f := fun s (k : Task) => State.failTask s k.id 5) (fun s k => State.failTask_keeps g hs ht s k.id 5) _ s1).trans
      (State.endAll_keeps g hf _ 5 s)
  have hparts : s2.parts = s.parts := hkeep State.parts (fun _ _ _ => rfl) (fun _ _ _ _ => rfl) (fun _ _ _ _ => rfl)
  have hqueue : s2.launchQ = s.launchQ := hkeep State.launchQ (fun _ _ _ => rfl) (fun _ _ _ _ => rfl) (fun _ _ _ _ => rfl)
  refine ⟨?_, hkeep State.cmdRidx (fun _ _ _ => rfl) (fun _ _ _ _ => rfl) (fun _ _ _ _ => rfl), fun q hq => ?_⟩
  · exact lookup_destroying (by rw [hparts]; exact hp)
  · refine (congrArg Queue.en (lookup_off p q s2.launchQ)).trans ?_
    rw [hqueue, Queue.off, if_pos (show (lookup Queue.reset q s.launchQ).part = p from hq)]

/-! ### SHOOT (R131, R388) -/

/-- A translation outside a range of a partition. -/
def TlbEntry.outside (p va n : Nat) (t : TlbEntry) : Bool := !(t.part == p && decide (t.vbase < va + n) && decide (va < t.vbase + t.size))

theorem TlbEntry.outside_iff {p va n : Nat} {t : TlbEntry} (h : t.outside p va n = true) (hp : t.part = p) :
    va + n ≤ t.vbase ∨ t.vbase + t.size ≤ va := by
  simp only [TlbEntry.outside, hp, beq_self_eq_true, Bool.true_and, Bool.not_eq_true', Bool.and_eq_false_iff, decide_eq_false_iff_not] at h
  omega

/-- The value that a table lists is the default or one of its entries'. -/
theorem lookup_mem {α : Type} (d : α) (k : Nat) (m : SMap α) : lookup d k m = d ∨ ∃ e ∈ m, e.2 = lookup d k m := by
  induction m with
  | nil => exact Or.inl rfl
  | cons e m ih =>
    obtain ⟨k', v⟩ := e
    rw [lookup]
    split
    · exact Or.inr ⟨_, List.mem_cons_self, rfl⟩
    · exact ih.imp_right (fun ⟨e, he, h⟩ => ⟨e, List.mem_cons_of_mem _ he, h⟩)

/-- The state once no translation of a range is kept. -/
def State.shot (s : State) (p va n : Nat) : State :=
  { s with seqs := s.seqs.map (fun (e : Nat × Seq) => (e.1, { e.2 with tlb := e.2.tlb.filter (TlbEntry.outside p va n) })),
           dieTlb := s.keepCached (TlbEntry.outside p va n),
           launches := s.launches.map (fun l => l.forget p (fun a => decide (a < va + n) && decide (va < a + 4))),
           launchQ := s.launchQ.map (fun e => (e.1, e.2.forget p (fun a => decide (a < va + n) && decide (va < a + 64)))) }

theorem Launch.forget_keeps (l : Launch) (p : Nat) (f : Nat → Bool) :
    (l.forget p f).part = l.part ∧ (l.forget p f).doneAt = l.doneAt ∧ (l.forget p f).doneVa = l.doneVa := by
  unfold Launch.forget
  split <;> exact ⟨rfl, rfl, rfl⟩

theorem State.oldAccesses_shot (s : State) (p va n : Nat) : (s.shot p va n).oldAccesses p va n = s.oldAccesses p va n := by
  have hlaunch : ∀ f : Launch → Bool, (∀ l g, f (l.forget p g) = f l) → (s.shot p va n).launches.any f = s.launches.any f := fun f hf => by
    show (s.launches.map _).any f = _
    rw [List.any_map]
    exact congrArg (s.launches.any ·) (funext fun l => hf l _)
  unfold State.oldAccesses
  dsimp only
  rw [hlaunch _ (fun l g => by obtain ⟨h1, h2, h3⟩ := l.forget_keeps p g; rw [h1, h2, h3])]
  rfl

theorem State.tlb_shot (s : State) (p va n u : Nat) : ∀ e ∈ ((s.shot p va n).seq u).tlb, e.outside p va n = true := by
  intro e he
  have hseq : (s.shot p va n).seq u = { s.seq u with tlb := (s.seq u).tlb.filter (TlbEntry.outside p va n) } :=
    lookup_map (fun q : Seq => { q with tlb := q.tlb.filter (TlbEntry.outside p va n) }) (Seq.reset u) u s.seqs rfl
  rw [hseq] at he
  exact (List.mem_filter.mp he).2

theorem State.cached_shot (s : State) (p va n u : Nat) : ∀ e ∈ (s.shot p va n).cached u, e.outside p va n = true := by
  intro e he
  unfold State.cached at he
  split at he
  · rcases lookup_mem [] (dieOfBlock (blockOfUnit u)) (s.shot p va n).dieTlb with h | ⟨x, hx, h⟩
    · rw [h] at he
      exact absurd he List.not_mem_nil
    · rw [← h] at he
      obtain ⟨y, _, rfl⟩ := List.mem_map.mp (List.mem_filter.mp hx).1
      exact (List.mem_filter.mp he).2
  · exact s.tlb_shot p va n u e he

/-! ### KEYDROP (R388) -/

theorem State.keydrop_shape (s : State) (p : Nat) (bs : List Byte) :
    ∃ t : State, s.keydrop p bs = t.complete 0 ∧ t.mem = s.mem ∧ t.cmdRidx = s.cmdRidx ∧ t.commands = s.commands ∧
      (t.keySlot (fieldAt bs 16 1 % 64)).bound = none := by
  have hdirty : ∀ ws : List Way, (ws.foldl (fun (s : State) w => s.writtenBack w.line) s).still = s.still := fun ws =>
    foldl_keeps (g := State.still) (f := fun s (w : Way) => State.writtenBack s w.line) (fun s w => State.still_writtenBack s w.line) ws s
  unfold State.keydrop
  dsimp only
  refine ⟨_, rfl, ?_⟩
  generalize hws : List.filter _ _ = ws
  have h := hdirty ws
  generalize ws.foldl (fun (s : State) w => s.writtenBack w.line) s = s0 at h
  have hmem : s0.mem = s.mem := State.mem_of_still h
  have hidx : s0.cmdRidx = s.cmdRidx := (congrArg State.cmdRidx h :)
  have hcs : s0.commands = s.commands := (congrArg State.commands h :)
  split
  · exact ⟨hmem, hidx, hcs, congrArg KeySlot.bound (lookup_insertAt_self _ _ _ _)⟩
  · exact ⟨hmem, hidx, hcs, congrArg KeySlot.bound (lookup_insertAt_self _ _ _ _)⟩

/-! ### REPAIR (R482) -/

theorem State.repairCore_spare {s : State} {n : Nat} (hfree : s.sparesUsed.getLsbD (n / 24) = false) :
    (s.repairCore n).mem = (s.zeroCores [n]).mem ∧ (s.repairCore n).cmdRidx = s.cmdRidx ∧ (s.repairCore n).commands = s.commands ∧
      ((s.repairCore n).core n).down = false ∧ ((s.repairCore n).seq n).retired = false ∧
      (s.repairCore n).sparesUsed = s.sparesUsed ||| (1#8 <<< (n / 24)) := by
  have hstep : s.repairCore n = ({ (s.zeroCores [n]).setSeq n (Seq.reset n) with sparesUsed := s.sparesUsed ||| (1#8 <<< (n / 24)) } : State).updCore n
      (fun k => { k with down := false }) := by
    unfold State.repairCore
    dsimp only
    rw [hfree]
    rfl
  rw [hstep]
  exact ⟨rfl, rfl, rfl, congrArg CoreArr.down (State.core_updCore_self ..), congrArg Seq.retired (lookup_insertAt_self _ _ _ _), rfl⟩

/-- Settles O59: partitions are created and destroyed, shadows taken or refused, reservations set, translations cleared, spares brought in
and slots unbound. -/
theorem commandsTakeEffect : Obligations.CommandsTakeEffect := by
  intro s bs hc hcs hres hbad hm p done
  have hrun : ∀ {op : Nat} (run : State → Nat → List Byte → State), cmdOp bs = op → 0 < op → op ≤ 12 → s.commandStep op run = run s p bs :=
    fun run hop h0 h12 => State.commandStep_runs hc hcs hres hbad hop h0 h12 run
  have hns := State.not_started hcs
  have hdone : ∀ {t : State} {code : Nat}, Memory.wf t.mem = true → t.cmdRidx = s.cmdRidx → t.commands = s.commands → code < 256 →
      done (t.complete code).unblock code := fun hm hi hcs' hcode => State.complete_done hm hi (hcs'.trans hcs) hcode
  have hnext : ∀ {t u : State}, t = u → (.next t.unblock : Result) = .next u.unblock := fun h => congrArg (fun t : State => Host.Outcome.next t.unblock) h
  refine ⟨fun hop hlat => ?_, fun hop => ?_, fun hop hgood => ?_, fun hop hwrong => ?_, fun hop => ?_, fun hop hold => ?_, fun hop hgang hspare => ?_,
    fun hop => ?_⟩
  · obtain ⟨hwf, hi, hcs', hpart⟩ := s.created_spec hm p bs
    have hstep : s.commandStep 1 (fun s p bs => s.pcreate p bs) = (s.created p bs).complete 0 := (hrun _ hop (by decide) (by decide)).trans (by
      unfold State.pcreate
      rw [hns, hlat]
      rfl)
    have hun : ((s.created p bs).complete 0).unblock.part p = s.newPart p bs := hpart
    exact ⟨_, hnext hstep, hdone hwf hi hcs' (by decide), by rw [hun]; rfl, by rw [hun]; rfl, by rw [hun]; rfl, by rw [hun]; rfl, by rw [hun]; rfl⟩
  · have hp : (s.part p).present = true := by
      unfold State.badArguments at hbad
      rw [hop] at hbad
      simpa using hbad
    obtain ⟨hd, hi, hq⟩ := State.endPartition_spec hp
    have hstep : s.commandStep 2 (fun s p _ => s.pdestroy p) = (s.endPartition p).start 2 p 0 [] := (hrun _ hop (by decide) (by decide)).trans (by
      unfold State.pdestroy
      rw [hns]
      rfl)
    exact ⟨_, hnext hstep, hd, hi, hq⟩
  · have hany : (chansOf (s.part p).blocks).any (s.badShadow p) = false := List.any_eq_false.mpr (fun ch hch => by rw [hgood ch hch]; exact Bool.false_ne_true)
    have hstep : s.commandStep 3 (fun s p _ => s.setcal p) =
        (s.updPart p (fun k => { k with pendingCal := some ((chansOf k.blocks).map (fun c => (c, (s.channel c).shadow))) })).start 3 p 0 [] :=
      (hrun _ hop (by decide) (by decide)).trans (by
        unfold State.setcal
        rw [hns, hany]
        rfl)
    exact ⟨_, hnext hstep, congrArg Partition.pendingCal (State.part_updPart s p
      (fun k => { k with pendingCal := some ((chansOf k.blocks).map (fun c => (c, (s.channel c).shadow))) })), rfl⟩
  · have hany : (chansOf (s.part p).blocks).any (s.badShadow p) = true := List.any_eq_true.mpr hwrong
    have hstep : s.commandStep 3 (fun s p _ => s.setcal p) = s.complete 0x60 := (hrun _ hop (by decide) (by decide)).trans (by
      unfold State.setcal
      rw [hns, hany]
      rfl)
    exact ⟨_, hnext hstep, hdone hm rfl rfl (by decide), fun _ => rfl⟩
  · exact ⟨_, hnext (hrun _ hop (by decide) (by decide)), hdone hm rfl rfl (by decide), congrArg Partition.reserve (State.part_updPart s p
      (fun k => { k with reserve := BitVec.ofNat 48 (fieldAt bs 16 6) }))⟩
  · have hstep : s.commandStep 5 (fun s p bs => s.shoot p bs) = (s.shot p (fieldAt bs 16 8) (fieldAt bs 24 8)).complete 0 :=
      (hrun _ hop (by decide) (by decide)).trans (if_neg (by
        show ¬ (s.shot p (fieldAt bs 16 8) (fieldAt bs 24 8)).oldAccesses p (fieldAt bs 16 8) (fieldAt bs 24 8) = true
        rw [State.oldAccesses_shot, hold]
        exact Bool.false_ne_true))
    refine ⟨_, hnext hstep, hdone hm rfl rfl (by decide), fun u e he hpe => TlbEntry.outside_iff ?_ hpe⟩
    rcases List.mem_append.mp he with h | h
    · rw [State.seq_unblock] at h
      exact s.tlb_shot p _ _ u e h
    · unfold State.cached at h
      rw [State.seq_unblock] at h
      exact s.cached_shot p _ _ u e h
  · obtain ⟨hmem, hi, hcs', hdown, hret, hsp⟩ := State.repairCore_spare hspare
    have hstep : s.commandStep 8 (fun s p bs => s.repair p bs) = (s.repairCore (fieldAt bs 16 1)).complete 0 := (hrun _ hop (by decide) (by decide)).trans (by
      unfold State.repair
      dsimp only
      rw [hgang]
      rfl)
    refine ⟨_, hnext hstep, hdone (by rw [hmem]; exact State.zeroCores_wf hm _) hi hcs' (by decide), hdown, ?_, hsp⟩
    rw [State.seq_unblock]
    exact hret
  · obtain ⟨t, ht, hmem, hi, hcs', hbound⟩ := s.keydrop_shape p bs
    have h64 : fieldAt bs 16 1 % 64 = fieldAt bs 16 1 := by
      unfold cmdReserved at hres
      rw [hop] at hres
      have hlt : fieldAt bs 16 1 < 256 := fieldAt_lt bs 16 1
      simp [bitsOf] at hres
      omega
    rw [h64] at hbound
    exact ⟨_, hnext ((hrun _ hop (by decide) (by decide)).trans ht), hdone (by rw [hmem]; exact hm) hi hcs' (by decide), hbound⟩

end Sys2Proof.Machine
end


section
/-! PROOFS. Commands that take time begin (R87, R91, R397 to R401, R484). -/

namespace Sys2Proof.Machine

/-! ### Bytes of a part of a list -/

theorem bytesAt_length (bs : List Byte) (o n : Nat) : (bytesAt bs o n).length = n := by
  simp only [bytesAt, List.length_append, List.length_take, List.length_replicate]
  omega

theorem getElem_bytesAt (bs : List Byte) (o n i : Nat) (h : i < (bytesAt bs o n).length) : (bytesAt bs o n)[i] = bs.getD (o + i) 0 := by
  simp only [bytesAt]
  rw [List.getElem_append]
  split
  · next hi =>
    simp only [List.length_take, List.length_drop] at hi
    rw [List.getElem_take, List.getElem_drop, List.getD_eq_getElem _ _ (by omega)]
  · next hi =>
    rw [bytesAt_length] at h
    simp only [List.length_take, List.length_drop] at hi
    rw [List.getElem_replicate, List.getD_eq_default _ _ (by omega)]

theorem bytesAt_bytesAt (bs : List Byte) {o m o' n : Nat} (h : o' + n ≤ m) : bytesAt (bytesAt bs o m) o' n = bytesAt bs (o + o') n := by
  refine List.ext_getElem (by rw [bytesAt_length, bytesAt_length]) (fun i h1 h2 => ?_)
  rw [bytesAt_length] at h1
  rw [getElem_bytesAt, getElem_bytesAt, List.getD_eq_getElem _ _ (by rw [bytesAt_length]; omega), getElem_bytesAt, Nat.add_assoc]

theorem fieldAt_bytesAt (bs : List Byte) {o m o' n : Nat} (h : o' + n ≤ m) : fieldAt (bytesAt bs o m) o' n = fieldAt bs (o + o') n :=
  congrArg leNat (bytesAt_bytesAt bs h)

/-! ### Ranges that a command reads (R388) -/

theorem State.withRanges_ok {s : State} {p : Nat} {rs : List (Nat × Nat)} {bs : List Byte}
    (h : s.readPieces (cmdIssue p) p (rs.flatMap (fun r => pieces r.1 r.2)) = .ok s bs false) (k : State → List Byte → State) : s.withRanges p rs k = k s bs := by
  unfold State.withRanges
  rw [h]
  rfl

theorem State.withRange_ok {s : State} {p va n : Nat} {bs : List Byte} (h : s.readVa (cmdIssue p) p va n = .ok s bs false)
    (k : State → List Byte → State) : s.withRanges p [(va, n)] k = k s bs :=
  State.withRanges_ok (by rw [List.flatMap_cons, List.flatMap_nil, List.append_nil]; exact h) k

/-! ### SWITCH (R87) -/

/-- One gang of one core is switched out. -/
theorem State.switchOut_one {s : State} {p n : Nat} {bs : List Byte} {l : Launch} {g : Gang} (hcs : s.commands = []) (hl : s.namedLaunch p bs = some l)
    (hcause : l.cause = none) (hg : s.gangs.filter (fun x => x.launch == l.id && !x.ending && decide (x.place = .resident)) = [g]) (hcores : g.cores = [n]) :
    s.switchOut p bs = { (s.updGang g.id (fun x => { x with place := .switching (bitsOf (fieldAt bs 24 1) 0 0 == 1) })).updCore n
        (fun a => { a with saving := some (bitsOf (fieldAt bs 24 1) 0 0 == 1, fieldAt bs 32 8) }) with
      commands := [⟨s.cmdRidx, 6, p, l.id, [g.id], false⟩] } := by
  unfold State.switchOut
  rw [hcs, List.find?_nil]
  dsimp only
  rw [hl]
  dsimp only
  rw [hg]
  simp only [hcores, hcause, List.foldl_cons, List.foldl_nil, List.length_singleton, List.range_succ, List.range_zero, List.nil_append, List.getD_cons_zero,
    Nat.mul_zero, Nat.add_zero, Option.isSome_none, Bool.false_and, List.map_cons, List.map_nil]
  show ({ State.updCore _ _ _ with commands := s.commands ++ _ } : State) = _
  rw [hcs]
  rfl

/-! ### RESUME (R91) -/

theorem State.thread_eachRun_ne (n : Nat) (F : Nat → Thread → Thread) {j : Nat} {l : List Nat} (hj : j ∉ l) (s : State) :
    (l.foldl (fun s t => if (State.thread s n t).status = .run then s.updThread n t (F t) else s) s).thread n j = s.thread n j := by
  induction l generalizing s with
  | nil => rfl
  | cons a l ih =>
    rw [List.foldl_cons, ih (fun h => hj (List.mem_cons_of_mem a h))]
    split
    · rw [State.thread_updThread, if_neg (by rintro ⟨-, rfl, -⟩; exact hj List.mem_cons_self)]
    · rfl

/-- Threads that run are changed one after another: each finds its own registers. -/
theorem State.thread_eachRun (n : Nat) (F : Nat → Thread → Thread) {j : Nat} (hj4 : j < 4) {l : List Nat} (hd : l.Nodup) (hj : j ∈ l) (s : State)
    (hrun : (s.thread n j).status = .run) :
    (l.foldl (fun s t => if (State.thread s n t).status = .run then s.updThread n t (F t) else s) s).thread n j = F j (s.thread n j) := by
  induction l generalizing s with
  | nil => exact absurd hj List.not_mem_nil
  | cons a l ih =>
    obtain ⟨hal, hl⟩ := List.nodup_cons.mp hd
    rw [List.foldl_cons]
    rcases List.mem_cons.mp hj with rfl | hm
    · rw [State.thread_eachRun_ne n F hal, if_pos hrun, State.thread_updThread, if_pos ⟨rfl, rfl, hj4⟩]
    · have hkeep : (if (s.thread n a).status = .run then s.updThread n a (F a) else s).thread n j = s.thread n j := by
        split
        · rw [State.thread_updThread, if_neg (by rintro ⟨-, rfl, -⟩; exact hal hm)]
        · rfl
      rw [ih hl hm _ (by rw [hkeep]; exact hrun), hkeep]

theorem State.restoreStroke_keeps {β : Type} (f : State → β) (hc : ∀ s n k, f (State.updCore s n k) = f s)
    (hf : ∀ s fs ls cs, f { s with faults := fs, launches := ls, commands := cs } = f s) (s : State) (g : Gang) (n : Nat) (bs : List Byte) :
    f (s.restoreStroke g n bs) = f s := by
  unfold State.restoreStroke
  split
  · exact hc _ _ _
  · dsimp only
    split
    · next why _ =>
      have hfail : ∀ (t : State) (i : Issue), i.owner = .gang g.id → f (t.fail i 0x29 0 (BitVec.ofNat 32 why)) = f t := fun t i hi => by
        unfold State.fail
        rw [hi]
        obtain ⟨fs, ls, cs, h⟩ := t.failLaunch_shape (t.faultRec i ((t.partOfUnit i.unit).getD 0) 3 0x29 0 (BitVec.ofNat 32 why) .none)
        refine (congrArg f h).trans (hf _ _ _ _)
      rw [hfail _ _ rfl]
      exact hc _ _ _
    · exact hc _ _ _

/-- A thread as RESUME finds it in its core's area. -/
def restoredFrom (area : List Byte) (t : Nat) (th : Thread) : Thread :=
  (th.restored (bytesAt area (512 * t) 512)).loopRestored t (bytesAt area 0x800 2048)

/-- The threads that were saved come back from their core's area. -/
def State.restoreThreads (s : State) (n : Nat) (area : List Byte) : State :=
  (List.range 4).foldl (fun s t => if (State.thread s n t).status = .run then s.updThread n t (restoredFrom area t) else s) s

theorem State.restoreContext_eq (s : State) (g : Gang) (n : Nat) (area : List Byte) :
    ∃ f b, s.restoreContext g n area = ((s.restoreThreads n area).updCore n f).restoreStroke g n b := by
  unfold State.restoreContext
  exact ⟨_, _, rfl⟩

theorem State.restoreContext_keeps {β : Type} (f : State → β) (hs : ∀ s u q, f (State.setSeq s u q) = f s) (hc : ∀ s n k, f (State.updCore s n k) = f s)
    (hf : ∀ s fs ls cs, f { s with faults := fs, launches := ls, commands := cs } = f s) (s : State) (g : Gang) (n : Nat) (area : List Byte) :
    f (s.restoreContext g n area) = f s := by
  obtain ⟨k, b, h⟩ := s.restoreContext_eq g n area
  rw [h, State.restoreStroke_keeps f hc hf, hc]
  exact foldl_keeps (f := fun s t => if (State.thread s n t).status = .run then s.updThread n t (restoredFrom area t) else s) (fun s t => by
    split
    · exact hs _ _ _
    · rfl) (List.range 4) s

theorem State.thread_restoreContext (s : State) (g : Gang) (n : Nat) (area : List Byte) {j : Nat} (hj : j < 4) (hrun : (s.thread n j).status = .run) :
    (s.restoreContext g n area).thread n j = restoredFrom area j (s.thread n j) := by
  obtain ⟨k, b, h⟩ := s.restoreContext_eq g n area
  have hstroke := State.restoreStroke_keeps (fun s => State.thread s n j) (fun _ _ _ => rfl) (fun _ _ _ _ => rfl) ((s.restoreThreads n area).updCore n k) g n b
  rw [h, hstroke, State.thread_updCore]
  exact State.thread_eachRun n (restoredFrom area) hj List.nodup_range (List.mem_range.mpr hj) s hrun

theorem pc_restoredFrom (area : List Byte) {j : Nat} (hj : j < 4) (th : Thread) :
    (restoredFrom (bytesAt area 0 0x99500) j th).pc = BitVec.ofNat 64 (fieldAt area (512 * j + 320) 8) := by
  show BitVec.ofNat 64 (fieldAt (bytesAt (bytesAt area 0 0x99500) (512 * j) 512) 320 8) = _
  rw [fieldAt_bytesAt _ (by omega), fieldAt_bytesAt _ (by omega), Nat.zero_add]

/-- The gang is one that RESUME of a launch brings back. -/
def Launch.resumes (l : Launch) (x : Gang) : Bool := x.launch == l.id && !x.ending && (match x.place with | .saved _ => true | _ => false)

/-- What RESUME does with the saved gangs of its launch. -/
def State.resumeThem (s : State) (p : Nat) (bs : List Byte) (l : Launch) (gs : List Gang) : State :=
  let free := fun (g : Gang) => decide (g.place = .saved false) ||
    (g.cores.all (fun n => (s.core n).gang.isNone && s.coreEnabled p n) && s.oneClock g.cores)
  if l.cause.isSome then s.commandEnds p 0
  else if gs.all free then
    s.withRanges p (gs.flatMap (fun g => g.areas (fieldAt bs 32 8))) (fun s bs =>
      ((gs.foldl (fun (a : State × List Byte) g => (a.1.restoreGang g a.2, a.2.drop (g.areaSize * g.cores.length))) (s, bs)).1).commandEnds p 0)
  else s

theorem State.resumeGangs_eq {s : State} {p : Nat} {bs : List Byte} {l : Launch} (hl : s.namedLaunch p bs = some l) :
    s.resumeGangs p bs = s.resumeThem p bs l (s.gangs.filter l.resumes) := by
  unfold State.resumeGangs
  rw [hl]
  rfl

/-- The state with a gang of one core back. -/
def State.resumed (s : State) (g : Gang) (n : Nat) (area : List Byte) : State :=
  (s.updGang g.id (fun x => { x with place := .resident })).restoreContext g n (bytesAt area 0 0x99500)

theorem State.restoreGang_one {s : State} {n : Nat} {g : Gang} (area : List Byte) (hsize : g.areaSize = 0x99500) (hcores : g.cores = [n])
    (hsaved : s.saved = []) : s.restoreGang g area = s.resumed g n area := by
  have hs : ({ s with saved := [] } : State) = s := by
    cases s
    cases hsaved
    rfl
  unfold State.restoreGang
  dsimp only
  rw [hsaved, List.filter_nil, List.filter_nil, List.foldl_nil, hs, hcores, hsize, List.length_singleton, List.range_succ, List.range_zero, List.nil_append,
    List.foldl_cons, List.foldl_nil, Gang.coreOf, hcores, List.getD_cons_zero, Nat.mul_zero]
  rfl

theorem State.resumeThem_one {s : State} {p n : Nat} {bs : List Byte} {l : Launch} {g : Gang} {area : List Byte} (hcause : l.cause = none)
    (hplace : g.place = .saved false) (hcores : g.cores = [n]) (hsaved : s.saved = [])
    (hread : s.readVa (cmdIssue p) p (fieldAt bs 32 8) 0x99500 = .ok s area false) :
    s.resumeThem p bs l [g] = (s.resumed g n area).commandEnds p 0 := by
  have hsize : g.areaSize = 0x99500 := by
    unfold Gang.areaSize
    rw [hplace]
    exact if_neg (by decide)
  have hareas : [g].flatMap (fun g => g.areas (fieldAt bs 32 8)) = [(fieldAt bs 32 8, 0x99500)] := by
    rw [List.flatMap_cons, List.flatMap_nil, List.append_nil, Gang.areas, hcores, hsize]
    rfl
  unfold State.resumeThem
  rw [hcause, hareas, State.withRange_ok hread, List.foldl_cons, List.foldl_nil, State.restoreGang_one area hsize hcores hsaved]
  refine (if_neg (by simp)).trans (if_pos ?_)
  simp [hplace]

/-! ### RECORD (R398) -/

theorem State.record_arms {s : State} {p : Nat} {bs h es : List Byte} (hbase : fieldAt bs 24 8 % 4096 = 0) (hown : s.inOwnHbm p (fieldAt bs 24 8) = true)
    (hal : fieldAt bs 32 8 % 64 = 0) (hh : s.readVa (cmdIssue p) p (fieldAt bs 32 8) 64 = .ok s h false)
    (hes : s.readVa (cmdIssue p) p (fieldAt bs 32 8 + 64) (16 * listRegions h + 8 * listLines h) = .ok s es false) (hgood : badList h = false)
    (hbooks : s.copybooks = []) :
    s.record p bs = ({ s with copybooks := [s.newBook p (fieldAt bs 16 1 % 64) (fieldAt bs 24 8) h es] } : State).commandEnds p 0 := by
  unfold State.record
  dsimp only
  rw [hbase, hown, hal, State.withRange_ok hh, hgood, State.withRange_ok hes, hbooks]
  rfl

/-! ### REPLAY (R68, R401) -/

/-- The state as REPLAY has claimed a slot, but for its access. -/
def State.replayBegun (s : State) (p : Nat) (c : Copybook) : State :=
  ({ s.clearInbox (cmdIssue p) with copybooks := s.copybooks ++ [c] } : State).start 11 p c.queue []

theorem State.replay_claims {s : State} {p n : Nat} {bs h rs : List Byte} {g : Target} (hn : fieldAt bs 16 1 % 64 = n) (hcs : s.commands = [])
    (hbooks : s.copybooks = []) (hen : (s.launchQueue n).en = true) (hp : (s.launchQueue n).part = p)
    (hh : s.readVa (cmdIssue p) p (fieldAt bs 24 8) 2048 = .ok s h false) (hst : bitsOf (fieldAt h 64 4) 1 0 = 1)
    (hrs : s.readPieces (cmdIssue p) p ((bookRegions (fieldAt bs 24 8) h).flatMap (fun e => pieces e.1 e.2)) = .ok s rs false)
    (ht : s.translate p (258 + p) (s.launchQueue n).widx.toNat .atomic = .ok g) :
    s.replay p bs = (s.replayBegun p (s.replayBook p n (fieldAt bs 24 8) h rs)).submit
      (lineReq (s.replayBegun p (s.replayBook p n (fieldAt bs 24 8) h rs)) (postIssue p) p (s.launchQueue n).widx.toNat 4 g (.amo .add 1 0 0)) := by
  unfold State.replay
  dsimp only
  rw [hn, hbooks, List.find?_nil]
  dsimp only
  rw [State.not_started hcs, hen, hp]
  simp only [ne_eq, not_true_eq_false, decide_false, Bool.not_true, Bool.or_self, Bool.false_eq_true, if_false]
  rw [State.withRange_ok hh, hst, State.withRanges_ok hrs]
  refine (if_neg (fun h => h rfl)).trans ?_
  unfold State.replayClaim
  rw [hp, ht]
  rfl

theorem State.replay_posts {s : State} {p n : Nat} {bs pkt : List Byte} {c : Copybook} (hn : fieldAt bs 16 1 % 64 = n) (hbooks : s.copybooks = [c])
    (hreplay : c.replay = true) (hcmd : c.command = s.cmdRidx) (hlw : c.lwidx = none)
    (hread : s.readVa (cmdIssue p) p (fieldAt bs 24 8) 64 = .ok s pkt false) :
    s.replay p bs = s.replayPost (s.launchQueue n) c pkt := by
  unfold State.replay
  dsimp only
  rw [hn, hbooks, List.find?_cons_of_pos (by rw [hreplay, hcmd]; exact beq_self_eq_true _)]
  dsimp only
  rw [hlw, State.withRange_ok hread]
  rfl

/-- The answer to a claim, while the ring has no room and once it has. -/
theorem State.replayPost_full {s : State} {q : Queue} {c : Copybook} {pkt : List Byte} {m : Inbox}
    (hm : s.inbox.find? (fun x => x.unit == (postIssue q.part).unit && x.thr == (postIssue q.part).thr) = some m) (hcause : m.cause = 0)
    (hfull : 4096 ≤ (BitVec.ofNat 32 (leNat m.bytes) - q.ridx).toNat) : s.replayPost q c pkt = s := by
  unfold State.replayPost
  dsimp only
  rw [hm]
  exact (if_neg (fun h => h hcause)).trans (if_pos hfull)

theorem State.replayPost_posts {s : State} {q : Queue} {c : Copybook} (pkt : List Byte) {m : Inbox}
    (hm : s.inbox.find? (fun x => x.unit == (postIssue q.part).unit && x.thr == (postIssue q.part).thr) = some m) (hcause : m.cause = 0)
    (hroom : (BitVec.ofNat 32 (leNat m.bytes) - q.ridx).toNat < 4096) (hbooks : s.copybooks = [c]) :
    (s.replayPost q c pkt).copybooks = [{ c with lwidx := some (BitVec.ofNat 32 (leNat m.bytes)) }] ∧ (s.replayPost q c pkt).mem = s.mem ∧
      (s.replayPost q c pkt).cmdRidx = s.cmdRidx := by
  let s1 := (s.clearInbox (postIssue q.part)).updCopybook c (fun k => { k with lwidx := some (BitVec.ofNat 32 (leNat m.bytes)) })
  obtain ⟨va, bs, va', bs', hpost⟩ : ∃ va bs va' bs', s.replayPost q c pkt =
      ((s1.post (postIssue q.part) q.part va bs).postLast (postIssue q.part) q.part va' bs').clearInbox (cmdIssue q.part) := by
    unfold State.replayPost
    dsimp only
    rw [hm]
    exact ⟨_, _, _, _, (if_neg (fun h => h hcause)).trans (if_neg (Nat.not_le.mpr hroom))⟩
  have hstill : ((s1.post (postIssue q.part) q.part va bs).postLast (postIssue q.part) q.part va' bs').still = s1.still :=
    (State.still_postLast _ _ _ _ _).trans (State.still_post _ _ _ _ _)
  rw [hpost]
  refine ⟨(congrArg State.copybooks hstill :).trans ?_, (congrArg State.mem hstill :), (congrArg State.cmdRidx hstill :)⟩
  show s.copybooks.map _ = _
  rw [hbooks, List.map_singleton, if_pos rfl]

/-! ### UPDATE (R397, R484) -/

/-- An island with an image in its inactive bank. -/
def Island.loaded (img : List Byte) (k : Island) : Island :=
  { k with updating := k.updating || Config.imageVerifies img, imageA := if k.bankB then img else k.imageA, imageB := if k.bankB then k.imageB else img }

/-- The image is written to the inactive banks of the islands of a mask. -/
def State.load (s : State) (mask : Nat) (img : List Byte) : State := (islandsIn mask).foldl (fun s i => s.updIsland i (Island.loaded img)) s

theorem State.island_load (s : State) (mask : Nat) (img : List Byte) (i : Nat) :
    (s.load mask img).island i = if i ∈ islandsIn mask then (s.island i).loaded img else s.island i := by
  have hne : ∀ (l : List Nat) (t : State), i ∉ l → ((l.foldl (fun s i => State.updIsland s i (Island.loaded img)) t).island i) = t.island i := by
    intro l
    induction l with
    | nil => exact fun _ _ => rfl
    | cons a l ih =>
      intro t hi
      rw [List.foldl_cons, ih _ (fun h => hi (List.mem_cons_of_mem a h)), State.island_updIsland,
        if_neg (by rintro rfl; exact hi List.mem_cons_self)]
  have hin : ∀ (l : List Nat) (t : State), l.Nodup → i ∈ l →
      ((l.foldl (fun s i => State.updIsland s i (Island.loaded img)) t).island i) = (t.island i).loaded img := by
    intro l
    induction l with
    | nil => exact fun _ _ h => absurd h List.not_mem_nil
    | cons a l ih =>
      intro t hd hi
      obtain ⟨hal, hl⟩ := List.nodup_cons.mp hd
      rw [List.foldl_cons]
      rcases List.mem_cons.mp hi with rfl | hm
      · rw [hne l _ hal, State.island_updIsland, if_pos rfl]
      · rw [ih _ hl hm, State.island_updIsland, if_neg (by rintro rfl; exact hal hm)]
  split
  next h => exact hin _ s (List.nodup_range.filter _) h
  next h => exact hne _ s h

theorem State.load_keeps {β : Type} (f : State → β) (hf : ∀ s i g, f (State.updIsland s i g) = f s) (s : State) (mask : Nat) (img : List Byte) :
    f (s.load mask img) = f s := foldl_keeps (f := fun s i => State.updIsland s i (Island.loaded img)) (fun s i => hf s i _) _ s

theorem State.update_loads {s : State} {p : Nat} {bs img : List Byte} (hcs : s.commands = [])
    (hread : s.readVa (cmdIssue p) p (fieldAt bs 24 8) (fieldAt bs 32 4) = .ok s img false) :
    s.update p bs = if Config.imageVerifies img = true then ((s.load (fieldAt bs 16 8) img).clearInbox (cmdIssue p)).start 12 p 0 []
      else (s.load (fieldAt bs 16 8) img).commandEnds p 0x83 := by
  unfold State.update
  dsimp only
  rw [State.not_started hcs, State.withRange_ok hread]
  rfl

theorem updatesLoad {s : State} {bs img : List Byte} (hcs : s.commands = []) {t : State}
    (ht : t = if Config.imageVerifies img = true then ((s.load (fieldAt bs 16 8) img).clearInbox (cmdIssue (cmdPart bs))).start 12 (cmdPart bs) 0 []
      else (s.load (fieldAt bs 16 8) img).commandEnds (cmdPart bs) 0x83) :
    (∀ i < 64, bitsOf (fieldAt bs 16 8) i i = 1 → (t.island i).bankB = (s.island i).bankB ∧
      (if (s.island i).bankB = true then (t.island i).imageA = img ∧ (t.island i).imageB = (s.island i).imageB
        else (t.island i).imageB = img ∧ (t.island i).imageA = (s.island i).imageA)) ∧
    if Config.imageVerifies img = false then t.cmdRidx = s.cmdRidx + 1 ∧ ∀ i, (t.island i).updating = (s.island i).updating
    else (t.commands = [⟨s.cmdRidx, 12, cmdPart bs, 0, [], false⟩] ∧ t.cmdRidx = s.cmdRidx) ∧
      ∀ i < 64, bitsOf (fieldAt bs 16 8) i i = 1 → (t.island i).updating = true := by
  have hisl : ∀ i, t.island i = (s.load (fieldAt bs 16 8) img).island i := fun i => by
    rw [ht]
    split <;> rfl
  have hidx : (s.load (fieldAt bs 16 8) img).cmdRidx = s.cmdRidx := State.load_keeps State.cmdRidx (fun _ _ _ => rfl) s _ _
  have hin : ∀ i < 64, bitsOf (fieldAt bs 16 8) i i = 1 → t.island i = (s.island i).loaded img := fun i hi hbit => by
    have hmem : i ∈ islandsIn (fieldAt bs 16 8) := List.mem_filter.mpr ⟨List.mem_range.mpr hi, beq_iff_eq.mpr hbit⟩
    rw [hisl, State.island_load, if_pos hmem]
  refine ⟨fun i hi hbit => ?_, ?_⟩
  · rw [hin i hi hbit]
    cases hb : (s.island i).bankB with
    | true => exact ⟨hb, by rw [if_pos rfl]; simp [Island.loaded, hb]⟩
    | false => exact ⟨hb, by rw [if_neg Bool.false_ne_true]; simp [Island.loaded, hb]⟩
  · cases hv : Config.imageVerifies img with
    | false =>
      rw [if_pos rfl]
      rw [hv, if_neg Bool.false_ne_true] at ht
      refine ⟨?_, fun i => ?_⟩
      · rw [ht]
        exact congrArg (· + 1) hidx
      · rw [hisl, State.island_load]
        split
        · simp [Island.loaded, hv]
        · rfl
    | true =>
      rw [if_neg (by decide)]
      rw [hv, if_pos rfl] at ht
      refine ⟨⟨?_, by rw [ht]; exact hidx⟩, fun i hi hbit => by rw [hin i hi hbit]; simp [Island.loaded, hv]⟩
      rw [ht]
      show (s.load (fieldAt bs 16 8) img).commands ++ [⟨(s.load (fieldAt bs 16 8) img).cmdRidx, 12, cmdPart bs, 0, [], false⟩] = _
      rw [State.load_keeps State.commands (fun _ _ _ => rfl), hcs, hidx]
      rfl

/-- Settles O60: gangs are marked for their save areas and brought back from them, copybooks armed, recorded packets claimed and posted, and
images loaded. -/
theorem longCommandsBegin : Obligations.LongCommandsBegin := by
  intro s bs hc hcs hres hbad p begun
  have hrun : ∀ {op : Nat} (run : State → Nat → List Byte → State), cmdOp bs = op → 0 < op → op ≤ 12 → s.commandStep op run = run s p bs :=
    fun run hop h0 h12 => State.commandStep_runs hc hcs hres hbad hop h0 h12 run
  have hnext : ∀ {t u : State}, t = u → (.next t.unblock : Result) = .next u.unblock := fun h => congrArg (fun t : State => Host.Outcome.next t.unblock) h
  have h64 : (cmdOp bs = 10 ∨ cmdOp bs = 11) → fieldAt bs 16 1 % 64 = fieldAt bs 16 1 := fun hop => by
    have hlt : fieldAt bs 16 1 < 256 := fieldAt_lt bs 16 1
    unfold cmdReserved at hres
    rcases hop with hop | hop <;>
    · rw [hop] at hres
      simp [bitsOf] at hres
      omega
  refine ⟨fun l g n hop hl hcause hg hcores => ?_, fun l g n hop hl hcause hg hplace hcores hsaved area hread => ?_,
    fun hop h es hh hes hbase hown hal hni hnw h31 h7 h4 h32 hbooks => ?_, fun hop hen hp => ⟨fun h rs g hbooks hh hst hrs ht hloc hr => ?_,
      fun c pkt m hbooks hreplay hcmd hlw hread hm hcause => ?_⟩, fun hop img hread => ?_⟩
  · refine ⟨_, hnext ((hrun _ hop (by decide) (by decide)).trans (State.switchOut_one hcs hl hcause hg hcores)), ⟨by rw [hop]; rfl, rfl⟩, ?_, rfl⟩
    exact congrArg CoreArr.saving (State.core_updCore_self (s.updGang g.id (fun x => { x with place := .switching (bitsOf (fieldAt bs 24 1) 0 0 == 1) })) n
      (fun a => { a with saving := some (bitsOf (fieldAt bs 24 1) 0 0 == 1, fieldAt bs 32 8) }))
  · have hstep := (hrun (fun s p bs => s.resumeGangs p bs) hop (by decide) (by decide)).trans (State.resumeGangs_eq hl)
    rw [show s.gangs.filter l.resumes = [g] from hg, State.resumeThem_one hcause hplace hcores hsaved hread] at hstep
    refine ⟨_, hnext hstep, ?_, ?_, fun j hj hrun' => ?_⟩
    · exact congrArg (· + 1) (State.restoreContext_keeps State.cmdRidx (fun _ _ _ => rfl) (fun _ _ _ => rfl) (fun _ _ _ _ => rfl) _ g n _)
    · exact State.restoreContext_keeps State.gangs (fun _ _ _ => rfl) (fun _ _ _ => rfl) (fun _ _ _ _ => rfl) _ g n _
    · rw [State.thread_unblock]
      show ((s.resumed g n area).thread n j).pc = _
      rw [State.resumed, State.thread_restoreContext (s.updGang g.id _) g n _ hj hrun']
      exact pc_restoredFrom area hj _
  · have hgood : badList h = false := by
      simp [badList, listRegions, listLines, h31, h7, h4, h32]
      exact ⟨decide_eq_false (Nat.not_lt.mpr hni), decide_eq_false (Nat.not_lt.mpr hnw)⟩
    have hq := h64 (Or.inl hop)
    have hstep := (hrun (fun s p bs => s.record p bs) hop (by decide) (by decide)).trans (State.record_arms hbase hown hal hh hes hgood hbooks)
    rw [hq] at hstep
    exact ⟨_, s.newBook p (fieldAt bs 16 1) (fieldAt bs 24 8) h es, hnext hstep, rfl, rfl, rfl, rfl, rfl, rfl, rfl, rfl, rfl, rfl, rfl, rfl, rfl⟩
  · have hq := h64 (Or.inr hop)
    have hstep := (hrun (fun s p bs => s.replay p bs) hop (by decide) (by decide)).trans (State.replay_claims hq hcs hbooks hen hp hh hst hrs ht)
    obtain ⟨c, hc'⟩ : ∃ c, c = s.replayBook p (fieldAt bs 16 1) (fieldAt bs 24 8) h rs := ⟨_, rfl⟩
    rw [← hc'] at hstep
    let s1 := s.replayBegun p c
    let r := lineReq s1 (postIssue p) p (s.launchQueue (fieldAt bs 16 1)).widx.toNat 4 g (.amo .add 1 0 0)
    have hsub : s1.submit r = _ := State.submit_first (s := s1) (r := r) hr (show moduleOf g.pa = _ from beq_iff_eq.mp hloc) (fun _ => nofun) rfl
    have hst' : (s1.submit r).still = s1.still := State.still_submit s1 r
    refine ⟨_, c, { r with id := s1.nextId }, hnext hstep, ⟨?_, ?_⟩, ?_, by rw [hc']; rfl, by rw [hc']; rfl, by rw [hc']; rfl, by rw [hc']; rfl, by rw [hc']; rfl,
      ?_, rfl, rfl, rfl, rfl⟩
    · refine (congrArg State.commands hst' :).trans ?_
      show s.commands ++ [⟨s.cmdRidx, 11, p, c.queue, [], false⟩] = _
      rw [hcs, hop, hc']
      rfl
    · exact (congrArg State.cmdRidx hst' :)
    · refine (congrArg State.copybooks hst' :).trans ?_
      show s.copybooks ++ [c] = _
      rw [hbooks]
      rfl
    · exact (congrArg State.reqs hsub :)
  · intro wi
    have hq := h64 (Or.inr hop)
    have hstep := (hrun (fun s p bs => s.replay p bs) hop (by decide) (by decide)).trans (State.replay_posts hq hbooks hreplay hcmd hlw hread)
    have hm' : s.inbox.find? (fun x => x.unit == (postIssue (s.launchQueue (fieldAt bs 16 1)).part).unit &&
        x.thr == (postIssue (s.launchQueue (fieldAt bs 16 1)).part).thr) = some m := by rw [hp]; exact hm
    refine ⟨fun hfull => hnext (hstep.trans (State.replayPost_full hm' hcause hfull)), fun hroom => ?_⟩
    exact ⟨_, hnext hstep, State.replayPost_posts pkt hm' hcause hroom hbooks⟩
  · have hstep := (hrun (fun s p bs => s.update p bs) hop (by decide) (by decide)).trans (State.update_loads hcs hread)
    obtain ⟨t, ht⟩ : ∃ t, t = if Config.imageVerifies img = true then ((s.load (fieldAt bs 16 8) img).clearInbox (cmdIssue p)).start 12 p 0 []
      else (s.load (fieldAt bs 16 8) img).commandEnds p 0x83 := ⟨_, rfl⟩
    obtain ⟨h1, h2⟩ := updatesLoad hcs ht
    rw [← ht] at hstep
    refine ⟨t.unblock, hnext hstep, h1, ?_⟩
    show if Config.imageVerifies img = false then _ else ((t.commands = [⟨s.cmdRidx, cmdOp bs, p, 0, [], false⟩] ∧ _) ∧ _)
    rw [hop]
    exact h2

end Sys2Proof.Machine
end


section
/-! PROOFS. What a slot of a bundle leaves alone: the frame of an issue, and that the shared operations of a commit and of a stop keep
within it (R16, R55, R189, R210, R218). -/

namespace Sys2Proof.Machine

/-! ### Threads -/

/-- The registers of a thread that no trap writes. -/
def Thread.file (th : Thread) : Thread :=
  { Thread.reset with x := th.x, xfull := th.xfull, p := th.p, g := th.g, v := th.v, vfull := th.vfull, m := th.m, flags := th.flags,
                      stag := th.stag, tvec := th.tvec }

/-- The registers of a thread, its exception registers among them. -/
def Thread.regs (th : Thread) : Thread :=
  { th.file with tepc := th.tepc, tcause := th.tcause, taddr := th.taddr, tstat := th.tstat, intrap := th.intrap }

theorem Thread.file_of_regs {a b : Thread} (h : b.regs = a.regs) : b.file = a.file := (congrArg Thread.file h :)

theorem Thread.same_of_regs {a b : Thread} (h : b.regs = a.regs) : b.sameFile a ∧ b.sameTrap a :=
  ⟨⟨(congrArg Thread.x h :), (congrArg Thread.xfull h :), (congrArg Thread.p h :), (congrArg Thread.g h :), (congrArg Thread.v h :),
    (congrArg Thread.vfull h :), (congrArg Thread.m h :), (congrArg Thread.flags h :), (congrArg Thread.stag h :)⟩,
   (congrArg Thread.tvec h :), (congrArg Thread.tepc h :), (congrArg Thread.tcause h :), (congrArg Thread.taddr h :),
   (congrArg Thread.tstat h :), (congrArg Thread.intrap h :)⟩

/-- A thread after an instruction of its own: what the instruction does not name as a destination is as it was, and its flags are
sticky. -/
structure Thread.Spares (i : Instr) (a b : Thread) : Prop where
  x : ∀ r, Dest.x r ∉ instrDests i → b.getX r = a.getX r ∧ b.fullX r = a.fullX r
  p : ∀ r, Dest.p r ∉ instrDests i → b.getP r = a.getP r
  m : ∀ r, Dest.m r ∉ instrDests i → b.getM r = a.getM r
  v : ∀ r : BitVec 5, Dest.v r ∉ instrDests i → b.getV r.toNat = a.getV r.toNat ∧ b.fullV r.toNat = a.fullV r.toNat
  g : (∀ o xs, i ≠ .seli o xs) → (∀ o, i ≠ .selx o) → b.g = a.g
  stag : b.stag = a.stag
  tvec : (∀ o, i ≠ .mts o) → b.tvec = a.tvec
  raised : (∀ o, i ≠ .mts o) → b.flags &&& a.flags = a.flags
  enables : (∀ o, i ≠ .mts o) → b.flags.extractLsb' 8 7 = a.flags.extractLsb' 8 7
  quiet : instrClass i = 0 → b.flags = a.flags

section
variable {i : Instr} {a b c : Thread}

theorem Thread.Spares.of_file (h : b.file = a.file) : Thread.Spares i a b := by
  have hx : b.x = a.x := (congrArg Thread.x h :)
  have hxf : b.xfull = a.xfull := (congrArg Thread.xfull h :)
  have hp : b.p = a.p := (congrArg Thread.p h :)
  have hm : b.m = a.m := (congrArg Thread.m h :)
  have hv : b.v = a.v := (congrArg Thread.v h :)
  have hvf : b.vfull = a.vfull := (congrArg Thread.vfull h :)
  have hf : b.flags = a.flags := (congrArg Thread.flags h :)
  exact
    { x := fun r _ => by simp only [Thread.getX, Thread.fullX, hx, hxf, and_self]
      p := fun r _ => by simp only [Thread.getP, hp]
      m := fun r _ => by simp only [Thread.getM, hm]
      v := fun r _ => by simp only [Thread.getV, Thread.fullV, hv, hvf, and_self]
      g := fun _ _ => (congrArg Thread.g h :)
      stag := (congrArg Thread.stag h :)
      tvec := fun _ => (congrArg Thread.tvec h :)
      raised := fun _ => by rw [hf, BitVec.and_self]
      enables := fun _ => by rw [hf]
      quiet := fun _ => hf }

theorem Thread.Spares.refl (i : Instr) (a : Thread) : Thread.Spares i a a := .of_file rfl

theorem Thread.Spares.trans (h : Thread.Spares i a b) (k : Thread.Spares i b c) : Thread.Spares i a c where
  x r hr := ⟨(k.x r hr).1.trans (h.x r hr).1, (k.x r hr).2.trans (h.x r hr).2⟩
  p r hr := (k.p r hr).trans (h.p r hr)
  m r hr := (k.m r hr).trans (h.m r hr)
  v r hr := ⟨(k.v r hr).1.trans (h.v r hr).1, (k.v r hr).2.trans (h.v r hr).2⟩
  g h1 h2 := (k.g h1 h2).trans (h.g h1 h2)
  stag := k.stag.trans h.stag
  tvec hn := (k.tvec hn).trans (h.tvec hn)
  raised hn := by rw [← h.raised hn, ← BitVec.and_assoc, k.raised hn]
  enables hn := (k.enables hn).trans (h.enables hn)
  quiet hc := (k.quiet hc).trans (h.quiet hc)

end

/-! ### Writes of registers -/

/-- The bit of one register among the full bits is not that of another. -/
theorem getLsbD_oneBit_ne {w d r : Nat} (h : d ≠ r) : (1#w <<< d).getLsbD r = false := by
  have hsub : d < r → r - d ≠ 0 := by omega
  simp only [BitVec.getLsbD_shiftLeft, BitVec.getLsbD_one]
  rcases Nat.lt_or_gt_of_ne h with h1 | h1
  · simp [hsub h1]
  · simp [h1]

section
variable {i : Instr} (th : Thread)

theorem Thread.spares_setX {d : BitVec 5} (h : Dest.x d ∈ instrDests i) (v : Word) : Thread.Spares i th (th.setX d v) := by
  unfold Thread.setX
  split
  · exact .refl i th
  · refine { Thread.Spares.refl i th with x := fun r hr => ⟨?_, ?_⟩ }
    all_goals have hne : d.toNat ≠ r.toNat := fun e => hr (BitVec.eq_of_toNat_eq e ▸ h)
    · simp only [Thread.getX, Vector.getD_of_lt _ r.isLt, Vector.getElem_setIfInBounds_ne _ hne]
    · simp only [Thread.fullX, BitVec.getLsbD_or, getLsbD_oneBit_ne hne, Bool.or_false]

theorem Thread.spares_emptyX {d : BitVec 5} (h : Dest.x d ∈ instrDests i) : Thread.Spares i th (th.emptyX d) := by
  unfold Thread.emptyX
  split
  · exact .refl i th
  · refine { Thread.Spares.refl i th with x := fun r hr => ⟨rfl, ?_⟩ }
    have hne : d.toNat ≠ r.toNat := fun e => hr (BitVec.eq_of_toNat_eq e ▸ h)
    have hlt : r.toNat < 32 := r.isLt
    simp only [Thread.fullX, BitVec.getLsbD_and, BitVec.getLsbD_not, getLsbD_oneBit_ne hne, hlt, decide_true, Bool.not_false, Bool.and_true]

theorem Thread.spares_setP {d : BitVec 3} (h : Dest.p d ∈ instrDests i) (b : Bool) : Thread.Spares i th (th.setP d b) := by
  unfold Thread.setP
  split
  · exact .refl i th
  · refine { Thread.Spares.refl i th with p := fun r hr => ?_ }
    have hne : d.toNat ≠ r.toNat := fun e => hr (BitVec.eq_of_toNat_eq e ▸ h)
    have hlt : r.toNat < 8 := r.isLt
    cases b <;>
      simp only [Thread.getP, Bool.false_eq_true, ↓reduceIte, BitVec.getLsbD_or, BitVec.getLsbD_and, BitVec.getLsbD_not, getLsbD_oneBit_ne hne,
        hlt, decide_true, Bool.not_false, Bool.and_true, Bool.or_false]

theorem Thread.spares_setM {d : BitVec 3} (h : Dest.m d ∈ instrDests i) (v : BitVec 32) : Thread.Spares i th (th.setM d v) := by
  unfold Thread.setM
  split
  · exact .refl i th
  · refine { Thread.Spares.refl i th with m := fun r hr => ?_ }
    have hne : d.toNat ≠ r.toNat := fun e => hr (BitVec.eq_of_toNat_eq e ▸ h)
    simp only [Thread.getM, Vector.getD_of_lt _ r.isLt, Vector.getElem_setIfInBounds_ne _ hne]

/-- A write of the v register of a number, which no field names as a destination only where it names none. -/
theorem Thread.spares_setV {d : Nat} (h : ∀ r : BitVec 5, r.toNat = d → Dest.v r ∈ instrDests i) (v : BitVec 1024) :
    Thread.Spares i th (th.setV d v) := by
  refine { Thread.Spares.refl i th with v := fun r hr => ⟨?_, ?_⟩ }
  all_goals have hne : d ≠ r.toNat := fun e => hr (h r e.symm)
  · simp only [Thread.getV, Thread.setV, Vector.getD_of_lt _ r.isLt, Vector.getElem_setIfInBounds_ne _ hne]
  · simp only [Thread.fullV, Thread.setV, BitVec.getLsbD_or, getLsbD_oneBit_ne hne, Bool.or_false]

theorem Thread.spares_emptyV {d : Nat} (h : ∀ r : BitVec 5, r.toNat = d → Dest.v r ∈ instrDests i) : Thread.Spares i th (th.emptyV d) := by
  refine { Thread.Spares.refl i th with v := fun r hr => ⟨rfl, ?_⟩ }
  have hne : d ≠ r.toNat := fun e => hr (h r e.symm)
  have hlt : r.toNat < 32 := r.isLt
  simp only [Thread.fullV, Thread.emptyV, BitVec.getLsbD_and, BitVec.getLsbD_not, getLsbD_oneBit_ne hne, hlt, decide_true, Bool.not_false,
    Bool.and_true]

/-- Flags that are set stay set, and the enable bits are as they were (R55, R57). -/
theorem Thread.spares_orFlags (h : instrClass i ≠ 0) (c : Nat) (f : BitVec 8) : Thread.Spares i th (th.orFlags c f) := by
  unfold Thread.orFlags
  split
  · exact .refl i th
  · refine { Thread.Spares.refl i th with raised := fun _ => ?_, enables := fun _ => ?_, quiet := fun hc => absurd hc h }
    · exact BitVec.eq_of_getLsbD_eq (fun j _ => by simp; intro hj; exact Or.inl hj)
    · refine BitVec.eq_of_getLsbD_eq (fun j _ => ?_)
      simp

theorem Thread.spares_raiseOwn (h : instrClass i ≠ 0) (c : Nat) (f : BitVec 8) (cls slot : Nat) :
    Thread.Spares i th (th.raiseOwn c f cls slot) := by
  unfold Thread.raiseOwn
  dsimp only
  split
  · exact th.spares_orFlags h c f
  · exact (th.spares_orFlags h c f).trans (.of_file rfl)

theorem Thread.spares_raiseAgent (h : instrClass i ≠ 0) (c : Nat) (f : BitVec 8) : Thread.Spares i th (th.raiseAgent c f) := by
  unfold Thread.raiseAgent
  dsimp only
  split
  · exact th.spares_orFlags h c f
  · exact (th.spares_orFlags h c f).trans (.of_file rfl)

theorem Thread.file_pairDone (g : Target) : (th.pairDone g).file = th.file := by
  unfold Thread.pairDone; split <;> rfl

end

end Sys2Proof.Machine
end


section
/-! PROOFS. The frame of an issue at the state: memory, keys, islands and other threads stay, lines too unless a walk meets an error that
cannot be corrected, and the issuing thread keeps what no field names (R16, R131, R189, R218, R468). -/

namespace Sys2Proof.Machine

/-- What an issue of an instruction by a thread leaves alone. -/
structure State.Spares (i : Instr) (u t : Nat) (s s' : State) : Prop where
  mem : s'.mem = s.mem
  agenda : s'.agenda = s.agenda
  keys : s'.keys = s.keys
  islands : s'.islands = s.islands
  lines : s.unfixable = [] → s'.lines = s.lines ∧ s'.unfixable = []
  own : Thread.Spares i (s.thread u t) (s'.thread u t)
  others : ∀ v m, (v ≠ u ∨ m ≠ t) → (s'.thread v m).regs = (s.thread v m).regs

/-- The parts of the state that a frame speaks of. -/
def State.framed (s : State) : List Host.Cell × List Instr × SMap KeySlot × SMap Island × SMap LineMeta × SMap Bool × SMap Seq :=
  (s.mem, s.agenda, s.keys, s.islands, s.lines, s.unfixable, s.seqs)

section
variable {i : Instr} {u t : Nat} {a b c : State}

/-- A state that keeps what a frame speaks of, sequencers as far as their threads' registers go. -/
theorem State.Spares.of_threads (h : ({ b with seqs := [] } : State).framed = ({ a with seqs := [] } : State).framed)
    (ht : ∀ v m, (b.thread v m).regs = (a.thread v m).regs) : State.Spares i u t a b where
  mem := (congrArg Prod.fst h :)
  agenda := (congrArg (fun x => x.2.1) h :)
  keys := (congrArg (fun x => x.2.2.1) h :)
  islands := (congrArg (fun x => x.2.2.2.1) h :)
  lines he := ⟨(congrArg (fun x => x.2.2.2.2.1) h :), ((congrArg (fun x => x.2.2.2.2.2.1) h :) : b.unfixable = a.unfixable).trans he⟩
  own := .of_file (Thread.file_of_regs (ht u t))
  others v m _ := ht v m

theorem State.Spares.of_framed (h : b.framed = a.framed) : State.Spares i u t a b := by
  have hq : b.seqs = a.seqs := (congrArg (fun x => x.2.2.2.2.2.2) h :)
  refine .of_threads ?_ (fun v m => by rw [State.thread_of_seqs hq])
  simp only [State.framed, Prod.mk.injEq, and_true] at h ⊢
  obtain ⟨h1, h2, h3, h4, h5, h6, _⟩ := h
  exact ⟨h1, h2, h3, h4, h5, h6⟩

theorem State.Spares.refl (i : Instr) (u t : Nat) (a : State) : State.Spares i u t a a := .of_framed rfl

theorem State.Spares.trans (h : State.Spares i u t a b) (k : State.Spares i u t b c) : State.Spares i u t a c where
  mem := k.mem.trans h.mem
  agenda := k.agenda.trans h.agenda
  keys := k.keys.trans h.keys
  islands := k.islands.trans h.islands
  lines he := ⟨(k.lines (h.lines he).2).1.trans (h.lines he).1, (k.lines (h.lines he).2).2⟩
  own := h.own.trans k.own
  others v m hvm := (k.others v m hvm).trans (h.others v m hvm)

/-- An update of the issuing thread that spares it. -/
theorem State.Spares.updThread (a : State) {f : Thread → Thread} (hf : ∀ th, Thread.Spares i th (f th)) :
    State.Spares i u t a (a.updThread u t f) where
  mem := rfl
  agenda := rfl
  keys := rfl
  islands := rfl
  lines he := ⟨rfl, he⟩
  own := by
    rw [State.thread_updThread]
    split
    · exact hf _
    · exact .refl i _
  others v m hvm := by
    rw [State.thread_updThread, if_neg]
    exact fun h => hvm.elim (fun hv => hv h.1) (fun hm => hm h.2.1)

/-- An update of the issuing thread outside its registers. -/
theorem State.Spares.updThread_file (a : State) {f : Thread → Thread} (hf : ∀ th, (f th).file = th.file) :
    State.Spares i u t a (a.updThread u t f) := .updThread a (fun th => .of_file (hf th))

/-- A fold of steps that each keep within the frame. -/
theorem State.Spares.foldl {α : Type} {f : State → α → State} (hf : ∀ s x, State.Spares i u t s (f s x)) (l : List α) (a : State) :
    State.Spares i u t a (l.foldl f a) := by
  induction l generalizing a with
  | nil => exact .refl i u t a
  | cons x l ih => exact (hf a x).trans (ih _)

end

/-! ### Walks and requests -/

section
variable {i : Instr} {u t : Nat}

theorem State.Spares.filled (s : State) (l : Nat) : State.Spares i u t s (s.filled l) := by
  have hpoison : ∀ s1 : State, s1.framed = s.framed → State.Spares i u t s
      (if lookup false l s1.unfixable then s1.setLine l { s1.lineMeta l with poison := true } else s1) := by
    intro s1 h1
    have hk : State.Spares i u t s s1 := .of_framed h1
    split
    · next hl =>
      refine ⟨hk.mem, hk.agenda, hk.keys, hk.islands, fun he => ?_, hk.own, hk.others⟩
      rw [(hk.lines he).2] at hl
      cases hl
    · exact hk
  unfold State.filled
  dsimp only
  split
  · exact hpoison _ rfl
  · exact hpoison _ rfl

theorem State.Spares.writtenBack (s : State) (l : Nat) : State.Spares i u t s (s.writtenBack l) := by
  unfold State.writtenBack
  split
  · exact
      { mem := rfl, agenda := rfl, keys := rfl, islands := rfl, own := .refl i _, others := fun _ _ _ => rfl
        lines := fun he => ⟨rfl, (congrArg (eraseAt l) he).trans rfl⟩ }
  · exact .refl i u t s

theorem State.Spares.setSlice (s : State) (n : Nat) (c : Slice) : State.Spares i u t s (s.setSlice n c) := .of_framed rfl

theorem State.Spares.updCore (s : State) (n : Nat) (f : CoreArr → CoreArr) : State.Spares i u t s (s.updCore n f) := .of_framed rfl

/-- An access to a line is made of fillings, write-backs and changes of a slice. -/
theorem State.touch_steps {R : State → State → Prop} (htrans : ∀ {a b c}, R a b → R b c → R a c)
    (hs : ∀ s n c, R s (State.setSlice s n c)) (hw : ∀ s l, R s (State.writtenBack s l)) (hf : ∀ s l, R s (State.filled s l)) (s : State)
    (k : Key) (cls : Nat) (always write : Bool) (pa : Nat) : R s (s.touch k cls always write pa).2 := by
  unfold State.touch
  dsimp only
  split
  · exact hs _ _ _
  · split
    · refine htrans ?_ (hs _ _ _)
      split
      · split
        · exact htrans (hf _ _) (hw _ _)
        · exact hf _ _
      · exact hf _ _
    · have h2 : R s (if write = true then (s.filled (lineOf pa)).writtenBack (lineOf pa) else s.filled (lineOf pa)) := by
        split
        · exact htrans (hf _ _) (hw _ _)
        · exact hf _ _
      split
      · exact h2
      · exact htrans h2 (hs _ _ _)

theorem State.Spares.touch (s : State) (k : Key) (cls : Nat) (always write : Bool) (pa : Nat) :
    State.Spares i u t s (s.touch k cls always write pa).2 :=
  State.touch_steps (R := State.Spares i u t) State.Spares.trans State.Spares.setSlice State.Spares.writtenBack State.Spares.filled
    s k cls always write pa

theorem State.Spares.holdPage (s : State) (n : Nat) (e : TlbEntry) : State.Spares i u t s (s.holdPage n e) := by
  refine .of_threads ?_ (fun v m => by rw [State.thread_holdPage])
  unfold State.holdPage
  dsimp only
  split
  · rfl
  · split <;> rfl

theorem State.Spares.walked (s : State) (n p va : Nat) : State.Spares i u t s (s.walked n p va) := by
  have htable : State.Spares i u t s
      ((s.walkPath p va 3 (s.part p).ptbase).foldl (fun s pa => (State.touch s (s.keyFor p 0 0) 0 true false pa).2) s) :=
    .foldl (f := fun s pa => (State.touch s (s.keyFor p 0 0) 0 true false pa).2) (fun s _ => State.Spares.touch s _ _ _ _ _) _ s
  unfold State.walked
  split
  · exact .refl i u t s
  · unfold State.walkInto
    dsimp only
    split
    · exact htable
    · exact htable.trans (.holdPage _ _ _)

theorem State.framed_evicted (s : State) (core slot id : Nat) : (s.evicted core slot id).framed = s.framed := by
  unfold State.evicted; dsimp only
  exact foldl_keeps (g := State.framed) (f := fun s (r : Req) => s.updCore core fun k => k.startFill slot (r.va / 128)) (fun _ _ => rfl) _ _

theorem State.framed_sendFlit (s : State) (p : Nat) (f : Flit) : (s.sendFlit p f).framed = s.framed := by
  unfold State.sendFlit; split <;> rfl

theorem State.framed_notePosts (s : State) (r : Req) (ps : List (Nat × Nat)) : (s.notePosts r ps).framed = s.framed := by
  unfold State.notePosts; dsimp only; split <;> rfl

theorem State.framed_sendOne (s : State) (r : Req) : (s.sendOne r).framed = s.framed :=
  State.sendOne_keeps State.framed State.framed_evicted (fun _ _ => rfl) (fun _ _ _ => rfl) State.framed_sendFlit State.framed_notePosts s r

theorem State.framed_sendReady (s : State) : s.sendReady.framed = s.framed := foldl_keeps State.framed_sendOne s.reqs s

theorem State.Spares.submit (s : State) (r : Req) : State.Spares i u t s (s.submit r) :=
  (State.Spares.walked s _ _ _).trans (.of_framed (State.framed_sendReady _))

/-! ### Faults, traps and stops -/

theorem State.framed_failLaunch (s : State) (r : FaultRec) : (s.failLaunch r).framed = s.framed := by
  obtain ⟨fs, ls, cs, h⟩ := s.failLaunch_shape r
  rw [h]; rfl

/-- The end of a task clears what its threads run, and no register of theirs. -/
theorem State.Spares.failTask (s : State) (k cause : Nat) : State.Spares i u t s (s.failTask k cause) := by
  unfold State.failTask
  split
  · exact .refl i u t s
  · next x _ =>
    refine State.Spares.trans (b := x.threads.foldl (fun s n => State.updThread s (192 + x.quill) n
      (fun th => { th with status := .idle, owner := .none, traps := [], loop := none, trig := none })) s) ?_ (.of_framed rfl)
    have hstep : ∀ (s : State) (n v m : Nat), ((s.updThread (192 + x.quill) n
        (fun th => { th with status := .idle, owner := .none, traps := [], loop := none, trig := none })).thread v m).regs =
        (s.thread v m).regs := by
      intro s n v m
      rw [State.thread_updThread]
      split
      · next h => obtain ⟨rfl, rfl, _⟩ := h; rfl
      · rfl
    exact .foldl (f := fun s n => State.updThread s (192 + x.quill) n
      (fun th => { th with status := .idle, owner := .none, traps := [], loop := none, trig := none }))
      (fun s n => .of_threads rfl (hstep s n)) _ s

theorem State.Spares.fail (s : State) (by_ : Issue) (cause addr : Nat) (status : BitVec 32) :
    State.Spares i u t s (s.fail by_ cause addr status) := by
  unfold State.fail
  dsimp only
  split
  · exact .refl i u t s
  · exact .of_framed (State.framed_failLaunch _ _)
  · split
    · exact .of_framed (State.framed_failLaunch _ _)
    · exact .failTask s _ _

theorem State.Spares.park (s : State) (by_ : Issue) (addr : Nat) (status : BitVec 32) : State.Spares i u t s (s.park by_ addr status) := by
  unfold State.park
  dsimp only
  split
  · exact .fail s _ _ _ _
  · split
    · exact .refl i u t s
    · exact .of_framed rfl
    · exact .of_framed rfl

/-- A trap of the issuing thread writes its exception registers but TVEC. -/
theorem State.Spares.takeTrap (s : State) (tr : PendingTrap) (tepc bundle : Word) : State.Spares i u t s (s.takeTrap u t tr tepc bundle) := by
  unfold State.takeTrap
  dsimp only
  split
  · exact .fail s _ _ _ _
  · split
    · exact .fail s _ _ _ _
    · refine State.Spares.updThread_file s (f := fun th => { th with
        tepc := tepc, tcause := tcauseWord tr, taddr := tr.addr, tstat := tr.stat, intrap := true, pc := th.tvec, traps := [],
        waitUntil := max th.waitUntil (s.cycles u + 1), loop := th.loop.map (fun l => { l with susp := some (l.susp.getD tepc) }) })
        (fun _ => rfl)

theorem State.Spares.boundary (s : State) (bundle : Word) : State.Spares i u t s (s.boundary u t bundle) := by
  unfold State.boundary
  split
  · exact .refl i u t s
  · exact .takeTrap s _ _ _

/-- A sequencer whose threads are as they were may change otherwise. -/
theorem State.Spares.setSeq (s : State) (n : Nat) {q : Seq} (h : ∀ m, (q.threads.getD m Thread.reset).regs = (s.thread n m).regs) :
    State.Spares i u t s (s.setSeq n q) := by
  refine .of_threads rfl (fun v m => ?_)
  rw [State.thread_setSeq]
  split
  · next hv => rw [h, hv]
  · rfl

theorem State.Spares.blockThread (s : State) : State.Spares i u t s (s.blockThread u t) :=
  (State.Spares.updThread_file s (f := fun th => { th with blocked := true }) (fun _ => rfl)).trans (.setSeq _ _ (fun _ => rfl))

theorem State.Spares.bundleIssued (s : State) (n g : Nat) : State.Spares i u t s (s.bundleIssued u t n g) := by
  refine .of_threads rfl (fun v m => ?_)
  obtain ⟨ys, w, h⟩ := s.thread_bundleIssued u t n g v m
  rw [h]; rfl

theorem Thread.file_advance (th : Thread) (next : Word) : (th.advance next).file = th.file := by
  unfold Thread.advance
  split
  · rfl
  · split
    · rfl
    · split
      · rfl
      · split <;> rfl

/-- A bundle that stops, whatever stopped it. -/
theorem State.Spares.stopAt (s : State) (pc : Word) (slot cls : Nat) (e : Stop) : State.Spares i u t s (s.stopAt u t pc slot cls e) := by
  cases e with
  | checkTrap cause info stat => exact .takeTrap s _ _ _
  | readTrap cause info stat => exact .takeTrap s _ _ _
  | checkFault cause status => exact .fail s _ _ _ _
  | readFault cause addr status => exact .fail s _ _ _ _
  | block => exact .blockThread s
  | drain m => exact (State.Spares.updCore s _ _).trans (.blockThread _)
  | wellBlock pa ph =>
    refine State.Spares.trans (State.Spares.updThread_file s ?_) (State.Spares.blockThread _)
    exact fun _ => rfl
  | xlate cause addr status =>
    refine State.Spares.trans (State.Spares.walked s u ((s.partOfUnit u).getD 0) addr) (b := s.walked u ((s.partOfUnit u).getD 0) addr) ?_
    unfold State.stopAt
    dsimp only
    split
    · exact .park _ _ _ _
    · exact .fail _ _ _ _ _

end

end Sys2Proof.Machine
end


section
/-! PROOFS. Every slot of a bundle commits within its frame: one lemma for each form of commit, and one for each family of slots
(R16, R189, R210, R218). -/

namespace Sys2Proof.Machine

/-- A commit of an issuer keeps within the frame of an instruction. -/
def Commit.Spares (i : Instr) (c : Issuer) (k : Commit) : Prop := ∀ s, State.Spares i c.unit c.thr s (k s)

/-- So does every commit of a slot. -/
def Slot.Spares (i : Instr) (f : Slot) : Prop := ∀ c s k, f c s = .ok k → Commit.Spares i c k

section
variable {i : Instr} {c : Issuer}

/-! ### Forms of commits -/

theorem Commit.spares_id : Commit.Spares i c (fun s => s) := fun s => .refl i _ _ s

theorem Commit.Spares.comp {k l : Commit} (hk : Commit.Spares i c k) (hl : Commit.Spares i c l) : Commit.Spares i c (fun s => l (k s)) :=
  fun s => (hk s).trans (hl _)

theorem Issuer.spares_commit {f : Thread → Thread} (hf : ∀ th, Thread.Spares i th (f th)) : Commit.Spares i c (c.commit f) :=
  fun s => .updThread s hf

theorem Issuer.spares_commit_file {f : Thread → Thread} (hf : ∀ th, (f th).file = th.file) : Commit.Spares i c (c.commit f) :=
  fun s => .updThread_file s hf

theorem Issuer.spares_writeX {d : BitVec 5} (hd : Dest.x d ∈ instrDests i) (v : Word) : Commit.Spares i c (c.writeX d v) :=
  Issuer.spares_commit (fun th => th.spares_setX hd v)

theorem Issuer.spares_raise (h : instrClass i ≠ 0) (cls : Nat) (f : BitVec 8) : Commit.Spares i c (c.raise cls f) :=
  fun s => .updThread s (fun th => th.spares_raiseOwn h _ f cls c.slot)

theorem Issuer.spares_fpResult (h : instrClass i ≠ 0) {d : BitVec 5} (hd : Dest.x d ∈ instrDests i) (r : Rounded) :
    Commit.Spares i c (c.fpResult d r) := (Issuer.spares_writeX hd _).comp (Issuer.spares_raise h 1 r.2)

theorem Issuer.spares_writeV (h : instrClass i ≠ 0) {d : BitVec 5} (hd : Dest.v d ∈ instrDests i) (v : BitVec 1024) (f : BitVec 8) :
    Commit.Spares i c (c.writeV d.toNat v f) :=
  (Issuer.spares_commit (fun th => th.spares_setV (fun _ hr => BitVec.eq_of_toNat_eq hr ▸ hd) v)).comp (Issuer.spares_raise h 7 f)

/-- A request, after what its commit does to the thread. -/
theorem Issuer.spares_submit {f : Thread → Thread} (hf : ∀ th, Thread.Spares i th (f th)) (r : State → Req) :
    Commit.Spares i c (fun s => (s.updThread c.unit c.thr f).submit (r s)) :=
  fun s => (State.Spares.updThread s hf).trans (.submit _ _)

theorem Issuer.spares_access {f : Thread → Thread} (hf : ∀ th, Thread.Spares i th (f th)) (g : Target) (own : Option Nat) (r : Req) :
    Commit.Spares i c (c.access f g own r) :=
  Issuer.spares_submit (f := fun th => (f th).pairDone g) (fun th => (hf th).trans (.of_file (Thread.file_pairDone _ g))) _

theorem Issuer.spares_loadCommit {d : BitVec 5} (hd : Dest.x d ∈ instrDests i) (g : Target) (own : Option Nat) (r : Req) :
    Commit.Spares i c (c.loadCommit d g own r) := Issuer.spares_access (fun th => th.spares_emptyX hd) g own r

theorem Issuer.spares_storeCommit (g : Target) (own : Option Nat) (r : Req) : Commit.Spares i c (c.storeCommit g own r) :=
  Issuer.spares_access (fun th => .refl i th) g own r

theorem Issuer.spares_appendCommit {d : BitVec 5} (hd : Dest.x d ∈ instrDests i) (by_ : Issue) (p : Nat) (l : Option Nat) (k : AppendKind)
    (a b : Word) : Commit.Spares i c (c.appendCommit by_ p l k a b d) :=
  fun s => (State.Spares.updThread s (fun th => th.spares_emptyX hd)).trans (.of_framed rfl)

theorem Issuer.spares_laneCommit (s0 : State) (gs : List LaneGroup) (op : LaneGroup → MemOp) : Commit.Spares i c (c.laneCommit s0 gs op) :=
  have hstep : ∀ (s : State) (x : LaneGroup),
      State.Spares i c.unit c.thr s (c.access id x.target none (c.request s0 7 x.va 128 x.target (op x)) s) :=
    fun s x => Issuer.spares_access (fun th => .refl i th) x.target none _ s
  fun s => .foldl hstep gs s

theorem Issuer.spares_laneLoad (s0 : State) {d : BitVec 5} (hd : Dest.v d ∈ instrDests i) (fmt : BitVec 4) (ts : List (Nat × Nat × Target)) :
    Commit.Spares i c (c.laneLoad s0 d.toNat fmt ts) := by
  intro s
  unfold Issuer.laneLoad
  split
  · exact .refl i _ _ s
  · exact (State.Spares.updThread s (fun th => th.spares_emptyV (fun _ hr => BitVec.eq_of_toNat_eq hr ▸ hd))).trans
      (Issuer.spares_laneCommit s0 _ _ _)

/-! ### The A and F classes -/

theorem slotRrr_spares {o : Rrr} {f : Word → Word → Word} (hd : Dest.x o.dst ∈ instrDests i) : (slotRrr o f).Spares i := by
  intro c s k h
  simp only [slotRrr] at h
  split at h
  · cases h
  · cases h; exact Issuer.spares_writeX hd _

theorem slotRr_spares {o : Rr} {f : Word → Nat} (hd : Dest.x o.dst ∈ instrDests i) : (slotRr o f).Spares i := by
  intro c s k h
  simp only [slotRr] at h
  split at h
  · cases h
  · cases h; exact Issuer.spares_writeX hd _

theorem slotSel_spares (o : RrrPred) : (slotSel o).Spares (.sel o) := by
  intro c s k h
  simp only [slotSel] at h
  split at h
  · cases h
  · cases h; exact Issuer.spares_writeX (.head _) _

theorem slotAddi_spares (o : Ri) (xs : List XPay) : (slotAddi o xs).Spares (.addi o xs) := by
  intro c s k h
  simp only [slotAddi] at h
  split at h
  · cases h
  · cases h; exact Issuer.spares_writeX (.head _) _

theorem slotLi_spares (o : Imm15) (xs : List XPay) : (slotLi o xs).Spares (.li o xs) := by
  intro c s k h
  simp only [slotLi] at h
  split at h
  · cases h
  · cases h; exact Issuer.spares_writeX (.head _) _

theorem slotCmp_spares (o : RrrCond) : (slotCmp o).Spares (.cmp o) := by
  intro c s k h
  simp only [slotCmp] at h
  split at h
  · cases h
  · cases h; exact Issuer.spares_commit (fun th => th.spares_setP (.head _) _)

theorem slotCmpi_spares (o : RiCond) (xs : List XPay) : (slotCmpi o xs).Spares (.cmpi o xs) := by
  intro c s k h
  simp only [slotCmpi] at h
  split at h
  · cases h
  · cases h; exact Issuer.spares_commit (fun th => th.spares_setP (.head _) _)

theorem slotPlog_spares (o : PredOps) : (slotPlog o).Spares (.plog o) := by
  intro c s k h
  cases h; exact Issuer.spares_commit (fun th => th.spares_setP (.head _) _)

theorem slotFp_spares {dst srcA srcB : BitVec 5} {ta tb : Bool} {f : Nat → Nat → Rounded} (hc : instrClass i ≠ 0)
    (hd : Dest.x dst ∈ instrDests i) : (slotFp dst srcA srcB ta tb f).Spares i := by
  intro c s k h
  simp only [slotFp] at h
  split at h
  · cases h
  · split at h
    · cases h
    · cases h; exact Issuer.spares_fpResult hc hd _

theorem slotFma_spares (o : RrrRound) : (slotFma o).Spares (.fma o) := by
  intro c s k h
  simp only [slotFma] at h
  split at h
  · cases h
  · split at h
    · cases h
    · cases h; exact Issuer.spares_fpResult (i := .fma o) Nat.one_ne_zero (.head _) _

theorem slotFcmp_spares (o : RrrCond) : (slotFcmp o).Spares (.fcmp o) := by
  intro c s k h
  simp only [slotFcmp] at h
  split at h
  · cases h
  · split at h
    · cases h
    · cases h
      exact (Issuer.spares_commit (fun th => th.spares_setP (.head _) _)).comp (Issuer.spares_raise (i := .fcmp o) Nat.one_ne_zero 1 _)

theorem slotFcvt_spares (o : RrRound) (xs : List XPay) : (slotFcvt o xs).Spares (.fcvt o xs) := by
  intro c s k h
  simp only [slotFcvt] at h
  split at h
  · cases h
  · split at h
    · cases h
    · cases h
      exact (Issuer.spares_writeX (.head _) _).comp (Issuer.spares_raise (i := .fcvt o xs) Nat.one_ne_zero 1 _)

/-! ### The M class -/

theorem slotLd_spares (o : LoadOps) (xs : List XPay) : (slotLd o xs).Spares (.ld o xs) := by
  intro c s k h
  simp only [slotLd] at h
  split at h
  · cases h
  · split at h
    · cases h
    · cases h; exact Issuer.spares_loadCommit (.head _) _ _ _

theorem slotLda_spares (o : AcqOps) (xs : List XPay) : (slotLda o xs).Spares (.lda o xs) := by
  intro c s k h
  simp only [slotLda] at h
  split at h
  · cases h
  · split at h
    · cases h
    · cases h; exact Issuer.spares_loadCommit (.head _) _ _ _

theorem slotLdeBase_spares {o : LoadOps} {xs : List XPay} {clear : Bool} (hd : Dest.x o.reg ∈ instrDests i) :
    (slotLdeBase o xs clear).Spares i := by
  intro c s k h
  simp only [slotLdeBase] at h
  split at h
  · cases h
  · split at h
    · cases h
    · split at h
      · cases h
      · cases h; exact Issuer.spares_loadCommit hd _ _ _

theorem slotSt_spares (o : StoreOps) (xs : List XPay) : (slotSt o xs).Spares i := by
  intro c s k h
  simp only [slotSt] at h
  split at h
  · cases h
  · split at h
    · cases h
    · cases h; exact Issuer.spares_storeCommit _ _ _

theorem slotStr_spares (o : RelOps) (xs : List XPay) : (slotStr o xs).Spares i := by
  intro c s k h
  simp only [slotStr] at h
  split at h
  · cases h
  · split at h
    · cases h
    · cases h; exact Issuer.spares_storeCommit _ _ _

theorem slotStf_spares (o : StoreOps) (xs : List XPay) : (slotStf o xs).Spares i := by
  intro c s k h
  simp only [slotStf] at h
  split at h
  · cases h
  · split at h
    · cases h
    · cases h; exact Issuer.spares_storeCommit _ _ _

theorem slotGranules_spares (o : TwoSrc) (val : Bool) : (slotGranules o val).Spares i := by
  intro c s k h
  simp only [slotGranules] at h
  split at h
  · cases h
  · split at h
    · cases h
    · split at h
      · cases h
      · split at h
        · cases h; exact Commit.spares_id
        · cases h; exact Issuer.spares_storeCommit _ _ _

theorem slotPref_spares (o : PrefOps) (xs : List XPay) : (slotPref o xs).Spares i := by
  intro c s k h
  simp only [slotPref] at h
  split at h
  · cases h
  · split at h
    · cases h; exact Commit.spares_id
    · split at h
      · split at h
        · cases h; exact Commit.spares_id
        · cases h; exact fun s => .submit s _
      · cases h; exact Commit.spares_id

theorem slotFence_spares (o : ScopeOps) : (slotFence o).Spares i := by
  intro c s k h
  simp only [slotFence] at h
  split at h
  · cases h; exact Issuer.spares_commit_file (fun _ => rfl)
  · cases h

theorem slotTlook_spares (o : DstSrc) : (slotTlook o).Spares (.tlook o) := by
  intro c s k h
  simp only [slotTlook] at h
  split at h
  · cases h
  · split at h
    · cases h
    · cases h; exact Issuer.spares_submit (fun th => th.spares_emptyX (.head _)) _

theorem slotTfill_spares (o : TwoSrc) : (slotTfill o).Spares i := by
  intro c s k h
  simp only [slotTfill] at h
  split at h
  · cases h
  · split at h
    · cases h
    · split at h
      · cases h
      · split at h
        · cases h
        · split at h
          · cases h
          · cases h
            intro s'
            dsimp only
            split
            · exact (State.Spares.updCore s' _ _).trans (.submit _ _)
            · exact .submit s' _

theorem slotTevict_spares (o : OneSrc) : (slotTevict o).Spares i := by
  intro c s k h
  simp only [slotTevict] at h
  split at h
  · cases h
  · split at h
    · cases h
    · split at h
      · cases h; exact Commit.spares_id
      · split at h
        · cases h
        · cases h; exact fun s => .submit s _

theorem slotMfs_spares (o : SpecGet) : (slotMfs o).Spares (.mfs o) := by
  intro c s k h
  simp only [slotMfs] at h
  split at h
  · cases h
  · split at h
    · cases h
    · split at h
      · cases h; exact Issuer.spares_submit (fun th => th.spares_emptyX (.head _)) _
      · cases h; exact Issuer.spares_writeX (.head _) _

/-- MTS alone may write FLAGS and TVEC. -/
theorem State.spares_putSpec (o : SpecPut) (s : State) (u t n : Nat) (v : Word) : State.Spares (.mts o) u t s (s.putSpec u t n v) := by
  unfold State.putSpec
  split
  · exact .updThread s (fun th => { Thread.Spares.refl (.mts o) th with
      raised := fun h => absurd rfl (h o), enables := fun h => absurd rfl (h o), quiet := fun h => nomatch h })
  · split
    · exact .updCore s _ _
    · split
      · exact .updCore s _ _
      · split
        · exact .updCore s _ _
        · split
          · exact .updThread s (fun th => { Thread.Spares.refl (.mts o) th with tvec := fun h => absurd rfl (h o) })
          · exact .updThread_file s (fun _ => rfl)

theorem slotMts_spares (o : SpecPut) : (slotMts o).Spares (.mts o) := by
  intro c s k h
  simp only [slotMts] at h
  split at h
  · cases h
  · split at h
    · cases h
    · split at h
      · cases h
      · cases h; exact fun s => State.spares_putSpec o s _ _ _ _

theorem slotAmo_spares {o : AmoOps} {a : AmoKind} {n : Nat} (hd : Dest.x o.dst ∈ instrDests i) : (slotAmo o a n).Spares i := by
  intro c s k h
  simp only [slotAmo] at h
  split at h
  · cases h
  · split at h
    · cases h
    · split at h
      · cases h
      · cases h; exact Issuer.spares_submit (fun th => th.spares_emptyX hd) _

end

end Sys2Proof.Machine
end


section
/-! PROOFS. The slots of the B, C, E, W and V classes commit within their frames (R218, R263, R267, R302 to R307, R345 to R371). -/

namespace Sys2Proof.Machine

section
variable {i : Instr}

/-! ### The B class -/

theorem slotBr_spares (o : Jump) (xs : List XPay) : (slotBr o xs).Spares i := by
  intro c s k h
  cases h; exact Issuer.spares_commit_file (fun _ => rfl)

theorem slotBc_spares (o : BranchOps) (xs : List XPay) : (slotBc o xs).Spares i := by
  intro c s k h
  simp only [slotBc] at h
  split at h
  · cases h; exact Issuer.spares_commit_file (fun _ => rfl)
  · cases h; exact Commit.spares_id

theorem slotBcall_spares (o : Jump) (xs : List XPay) : (slotBcall o xs).Spares (.bcall o xs) := by
  intro c s k h
  simp only [slotBcall] at h
  split at h
  · cases h
  · cases h; exact Issuer.spares_commit (fun th => (th.spares_setX (.head _) _).trans (.of_file rfl))

theorem slotRet_spares (o : RetOps) : (slotRet o).Spares i := by
  intro c s k h
  simp only [slotRet] at h
  split at h
  · cases h
  · cases h; exact Issuer.spares_commit_file (fun _ => rfl)

theorem slotLoopBase_spares (nm1 : BitVec 5) (srcs : List (BitVec 5 × Bool)) (count : Thread → Nat) : (slotLoopBase nm1 srcs count).Spares i := by
  intro c s k h
  simp only [slotLoopBase] at h
  split at h
  · cases h
  · split at h
    · cases h
    · cases h; exact Issuer.spares_commit_file (fun _ => rfl)

theorem slotExit_spares : slotExit.Spares i := by
  intro c s k h
  cases h
  intro s'
  refine State.Spares.trans (State.Spares.updThread_file s' (f := fun th => { th with status := .exiting, loop := none, traps := [] }) (fun _ => rfl))
    (.of_framed ?_)
  dsimp only
  split <;> rfl

theorem State.spares_firstTrig {u t : Nat} (s : State) : State.Spares i u t s (s.firstTrig u t) := by
  unfold State.firstTrig
  split
  · split
    · exact .refl i u t s
    · exact State.Spares.trans (b := s.updGang _ _) (.of_framed rfl) (.updThread_file _ (fun _ => rfl))
  · exact .refl i u t s

theorem slotTrig_spares : slotTrig.Spares i := by
  intro c s k h
  simp only [slotTrig] at h
  split at h
  · cases h; exact Commit.spares_id
  · cases h
    exact State.spares_firstTrig

theorem slotYield_spares : slotYield.Spares i := by
  intro c s k h
  cases h; exact Issuer.spares_commit_file (fun _ => rfl)

theorem slotSleep_spares (o : Count16) : (slotSleep o).Spares i := by
  intro c s k h
  cases h
  refine fun s => .updThread_file s (fun th => ?_)
  split <;> rfl

theorem slotTrap_spares (o : Code8) : (slotTrap o).Spares i := by
  intro c s k h
  cases h; exact Issuer.spares_commit_file (fun _ => rfl)

theorem slotEret_spares : slotEret.Spares i := by
  intro c s k h
  simp only [slotEret] at h
  split at h
  · cases h; exact Issuer.spares_commit_file (fun _ => rfl)
  · cases h

theorem slotNop_spares : slotNop.Spares i := by
  intro c s k h
  cases h; exact Commit.spares_id

/-! ### The C class -/

theorem slotCpy_spares (o : CpyOps) : (slotCpy o).Spares (.cpy o) := by
  intro c s k h
  simp only [slotCpy] at h
  split at h
  · cases h
  · split at h
    · cases h
    · cases h; exact Issuer.spares_appendCommit (.head _) _ _ _ _ _ _

theorem slotCpyx_spares (o : CpyxOps) : (slotCpyx o).Spares (.cpyx o) := by
  intro c s k h
  simp only [slotCpyx] at h
  split at h
  · cases h
  · split at h
    · cases h
    · split at h
      · cases h
      · cases h; exact Issuer.spares_appendCommit (.head _) _ _ _ _ _ _

theorem slotQpost_spares (o : RrrPlain) : (slotQpost o).Spares (.qpost o) := by
  intro c s k h
  simp only [slotQpost] at h
  split at h
  · cases h
  · split at h
    · cases h
    · split at h
      · cases h
      · cases h; exact Issuer.spares_appendCommit (.head _) _ _ _ _ _ _

theorem slotWaitid_spares (o : WaitOps) : (slotWaitid o).Spares i := by
  intro c s k h
  simp only [slotWaitid] at h
  split at h
  · cases h
  · split at h
    · cases h
    · split at h
      · cases h; exact Commit.spares_id
      · cases h

theorem slotWinit_spares (o : RrrPred) : (slotWinit o).Spares i := by
  intro c s k h
  simp only [slotWinit] at h
  split at h
  · cases h
  · split at h
    · cases h
    · split at h
      · cases h
      · split at h
        · cases h
        · split at h
          · cases h; exact fun s => .submit s _
          · split at h
            · cases h
            · cases h; exact fun s => .submit s _

theorem slotWarr_spares (o : WellTwo) : (slotWarr o).Spares i := by
  intro c s k h
  simp only [slotWarr] at h
  split at h
  · cases h
  · split at h
    · cases h
    · split at h
      · cases h
      · cases h; exact fun s => .submit s _

theorem slotWdrop_spares (o : WellOne) : (slotWdrop o).Spares i := by
  intro c s k h
  simp only [slotWdrop] at h
  split at h
  · cases h
  · split at h
    · cases h
    · split at h
      · cases h
      · cases h; exact fun s => .submit s _

theorem slotWwait_spares (o : WellTwo) : (slotWwait o).Spares i := by
  intro c s k h
  simp only [slotWwait] at h
  split at h
  · cases h
  · split at h
    · cases h
    · split at h
      · cases h
      · split at h
        · cases h
        · split at h
          · split at h
            · cases h
            · cases h; exact Commit.spares_id
          · split at h
            · cases h; exact Issuer.spares_commit_file (fun _ => rfl)
            · cases h

theorem slotWtest_spares (o : WellTest) : (slotWtest o).Spares (.wtest o) := by
  intro c s k h
  simp only [slotWtest] at h
  split at h
  · cases h
  · split at h
    · cases h
    · split at h
      · cases h
      · cases h; exact Issuer.spares_submit (fun th => th.spares_emptyX (.head _)) _

theorem slotBopen_spares (o : BulkOps) : (slotBopen o).Spares i := by
  intro c s k h
  simp only [slotBopen] at h
  split at h
  · cases h
  · split at h
    · cases h
    · split at h
      · cases h
      · cases h; exact fun s => .of_framed rfl

theorem slotBclose_spares (o : BulkOps) : (slotBclose o).Spares i := by
  intro c s k h
  simp only [slotBclose] at h
  split at h
  · cases h
  · split at h
    · cases h
    · split at h
      · cases h
      · cases h; exact fun s => .of_framed rfl

/-! ### The E and W classes -/

theorem slotStream_spares (e : EdgeId) (srcs : List (BitVec 5)) (panel : Bool) (prune : Nat) (bitmap stash : Bool) :
    (slotStream e srcs panel prune bitmap stash).Spares i := by
  intro c s k h
  simp only [slotStream] at h
  split at h
  · cases h
  · split at h
    · cases h
    · split at h
      · cases h
      · cases h; exact fun s => .updCore s _ _

theorem slotEdrain_spares (o : Mask4) : (slotEdrain o).Spares i := by
  intro c s k h
  simp only [slotEdrain] at h
  split at h
  · cases h
  · split at h
    · cases h
    · cases h
      exact fun s => .foldl (f := fun s e => s.updEdge c.unit e (fun u => { u with streams := [] })) (fun s _ => .updCore s _ _) _ s

theorem slotWave_spares (j : Instr) (srcs : List (BitVec 5)) (check : Thread → Except Stop Unit) (also : Word → Word → CoreArr → CoreArr) :
    (slotWave j srcs check also).Spares i := by
  intro c s k h
  simp only [slotWave] at h
  split at h
  · cases h
  · split at h
    · cases h
    · split at h
      · cases h
      · split at h
        · cases h
        · cases h; exact fun s => .updCore s _ _

theorem slotVbeg_spares (o : WVbeg) (xs : List XPay) : (slotVbeg o xs).Spares i := by
  intro c s k h
  unfold slotVbeg at h
  split at h
  · cases h
  · exact slotWave_spares _ _ _ _ c s k h

theorem slotStroke_spares (j : Instr) : (slotStroke j).Spares i := by
  intro c s k h
  simp only [slotStroke] at h
  split at h
  · cases h
  · split at h
    · cases h
    · cases h; exact fun s => .updCore s _ _

/-- A write of a g register spares what SELI and SELX spare. -/
theorem slotSelect_spares {dst : BitVec 3} {srcs : List (BitVec 5)} {f : Thread → Word}
    (hg : ¬ ((∀ o xs, i ≠ .seli o xs) ∧ ∀ o, i ≠ .selx o)) : (slotSelect dst srcs f).Spares i := by
  intro c s k h
  simp only [slotSelect] at h
  split at h
  · cases h
  · split at h
    · cases h
    · split at h
      · cases h
      · cases h
        exact Issuer.spares_commit (fun th => { Thread.Spares.refl i th with g := fun h1 h2 => absurd ⟨h1, h2⟩ hg })

theorem slotWflg_spares (o : FlagOps) : (slotWflg o).Spares (.wflg o) := by
  have hpend : ∀ (c : Issuer) (w : Nat), Commit.Spares (.wflg o) c (slotWflg.pending o c w) := by
    intro c w s
    unfold slotWflg.pending
    split
    · exact .refl _ _ _ s
    · exact (State.Spares.updThread s (fun th => th.spares_emptyX (.head _))).trans (.updCore _ _ _)
  intro c s k h
  simp only [slotWflg] at h
  split at h
  · cases h
  · split at h
    · cases h
    · split at h
      · cases h
      · split at h
        · cases h; exact Issuer.spares_writeX (.head _) _
        · split at h
          · split at h
            · cases h; exact Issuer.spares_writeX (.head _) _
            · cases h; exact hpend c _
          · cases h; exact hpend c _

theorem slotWdrain_spares : slotWdrain.Spares i := by
  intro c s k h
  simp only [slotWdrain] at h
  split at h
  · cases h
  · split at h
    · cases h; exact Commit.spares_id
    · cases h

theorem slotPvst_spares (o : AddrSrc) : (slotPvst o).Spares i := by
  intro c s k h
  simp only [slotPvst] at h
  split at h
  · cases h
  · split at h
    · cases h
    · split at h
      · cases h
      · split at h
        · cases h
        · cases h
          intro s'
          refine State.Spares.foldl (fun s e => ?_) _ s'
          exact Issuer.spares_storeCommit _ _ _ s

/-! ### The V class -/

theorem slotVld_spares (o : VTriMod) (xs : List XPay) : (slotVld o xs).Spares (.vld o xs) := by
  intro c s k h
  simp only [slotVld] at h
  split at h
  · cases h
  · split at h
    · cases h
    · cases h; exact Issuer.spares_laneLoad s (.head _) _ _

theorem slotVgth_spares (o : VTriMod) (xs : List XPay) : (slotVgth o xs).Spares (.vgth o xs) := by
  intro c s k h
  simp only [slotVgth] at h
  split at h
  · cases h
  · split at h
    · cases h
    · cases h; exact Issuer.spares_laneLoad s (.head _) _ _

theorem slotVst_spares (o : VTriMod) (xs : List XPay) : (slotVst o xs).Spares i := by
  intro c s k h
  simp only [slotVst] at h
  split at h
  · cases h
  · split at h
    · cases h
    · cases h; exact Issuer.spares_laneCommit s _ _

theorem slotVsct_spares (o : VTri) (xs : List XPay) : (slotVsct o xs).Spares i := by
  intro c s k h
  simp only [slotVsct] at h
  split at h
  · cases h
  · split at h
    · cases h
    · cases h; exact Issuer.spares_laneCommit s _ _

theorem slotLanes_spares {o : VTriMod} {xs : List XPay} {acc : Bool} {f : FloatFmt → Nat → Nat → Nat → Nat → Rounded}
    {g : Int → Int → Int → Nat → Nat → Nat} (hc : instrClass i ≠ 0) (hd : Dest.v o.dst ∈ instrDests i) : (slotLanes o xs acc f g).Spares i := by
  intro c s k h
  simp only [slotLanes] at h
  split at h
  · cases h
  · split at h
    · cases h
    · cases h; exact Issuer.spares_writeV hc hd _ _

theorem slotVcmp_spares (o : VTriMod) (xs : List XPay) : (slotVcmp o xs).Spares (.vcmp o xs) := by
  intro c s k h
  simp only [slotVcmp] at h
  split at h
  · cases h
  · split at h
    · cases h
    · cases h
      exact (Issuer.spares_commit (fun th => th.spares_setM (.head _) _)).comp (Issuer.spares_raise (i := .vcmp o xs) (Nat.succ_ne_zero 6) 7 _)

theorem slotVcvt_spares (o : VUnary) (xs : List XPay) : (slotVcvt o xs).Spares (.vcvt o xs) := by
  intro c s k h
  simp only [slotVcvt] at h
  split at h
  · cases h
  · split at h
    · cases h
    · cases h; exact Issuer.spares_writeV (i := .vcvt o xs) (Nat.succ_ne_zero 6) (.head _) _ _

theorem slotVred_spares (o : VTriMod) (xs : List XPay) : (slotVred o xs).Spares (.vred o xs) := by
  intro c s k h
  simp only [slotVred] at h
  split at h
  · cases h
  · split at h
    · cases h
    · cases h; exact Issuer.spares_writeV (i := .vred o xs) (Nat.succ_ne_zero 6) (.head _) _ _

theorem slotVpool_spares (o : VTriMod) (xs : List XPay) : (slotVpool o xs).Spares (.vpool o xs) := by
  intro c s k h
  simp only [slotVpool] at h
  split at h
  · cases h
  · split at h
    · cases h
    · split at h
      · cases h
      · cases h; exact Issuer.spares_writeV (i := .vpool o xs) (Nat.succ_ne_zero 6) (.head _) _ _

theorem slotVsel_spares (o : VTri) (xs : List XPay) : (slotVsel o xs).Spares (.vsel o xs) := by
  intro c s k h
  simp only [slotVsel] at h
  split at h
  · cases h
  · cases h; exact Issuer.spares_writeV (i := .vsel o xs) (Nat.succ_ne_zero 6) (.head _) _ _

theorem slotViota_spares (o : VTri) (xs : List XPay) : (slotViota o xs).Spares (.viota o xs) := by
  intro c s k h
  simp only [slotViota] at h
  split at h
  · cases h
  · cases h; exact Issuer.spares_writeV (i := .viota o xs) (Nat.succ_ne_zero 6) (.head _) _ _

theorem slotVdedup_spares (o : VTri) (xs : List XPay) : (slotVdedup o xs).Spares (.vdedup o xs) := by
  have hsecond : ∀ r : BitVec 5, r.toNat = o.dst.toNat + 1 → Dest.v r ∈ instrDests (.vdedup o xs) := by
    intro r hr
    have he : r = o.dst + 1 := BitVec.eq_of_toNat_eq (by rw [BitVec.toNat_add, hr]; have := r.isLt; simp; omega)
    exact he ▸ .tail _ (.head _)
  intro c s k h
  simp only [slotVdedup] at h
  split at h
  · cases h
  · cases h
    refine Issuer.spares_commit (fun th => ?_)
    exact ((th.spares_setV (fun _ hr => BitVec.eq_of_toNat_eq hr ▸ .head _) _).trans (Thread.spares_setV _ hsecond _)).trans
      (Thread.spares_setM _ (.tail _ (.tail _ (.head _))) _)

end

end Sys2Proof.Machine
end


section
/-! PROOFS. Every slot instruction, alone or in a bundle, keeps within its frame (R16, R55, R189, R210, R218, R427). -/

namespace Sys2Proof.Machine

section
variable {i : Instr}

/-! ### Moves of lanes, stores to a bank and hashed grids -/

/-- VMOV's destination by its MOD (R361). -/
theorem instrDests_vmov_lanes {o : VTriMod} {xs : List XPay} (h : o.md.toNat < 2) : instrDests (.vmov o xs) = [.v o.dst] :=
  (if_neg (fun e : o.md = 2 => by rw [e] at h; exact absurd h (by decide))).trans
    (if_neg (fun e : o.md = 3 => by rw [e] at h; exact absurd h (by decide)))

theorem instrDests_vmov_lane {o : VTriMod} {xs : List XPay} (h : o.md = 2) : instrDests (.vmov o xs) = [.x o.dst] := if_pos h

theorem instrDests_vmov_mask {o : VTriMod} {xs : List XPay} (h : o.md = 3) : instrDests (.vmov o xs) =
    if (XFields.of xs).spec = 0 then [.m (o.dst.setWidth 3)] else [.x o.dst] :=
  (if_neg (fun e : o.md = 2 => by rw [e] at h; cases h)).trans (if_pos h)

theorem slotVmov_spares (o : VTriMod) (xs : List XPay) : (slotVmov o xs).Spares (.vmov o xs) := by
  intro c s k h
  simp only [slotVmov] at h
  split at h
  case h_1 hmd =>
    have hd : Dest.v o.dst ∈ instrDests (.vmov o xs) := instrDests_vmov_lanes (o := o) (by omega) ▸ .head _
    split at h
    · cases h
    · cases h; exact Issuer.spares_writeV (i := .vmov o xs) (Nat.succ_ne_zero 6) hd _ _
  case h_2 hmd =>
    have hd : Dest.v o.dst ∈ instrDests (.vmov o xs) := instrDests_vmov_lanes (o := o) (by omega) ▸ .head _
    split at h
    · cases h
    · cases h; exact Issuer.spares_writeV (i := .vmov o xs) (Nat.succ_ne_zero 6) hd _ _
  case h_3 hmd =>
    have hd : Dest.x o.dst ∈ instrDests (.vmov o xs) := instrDests_vmov_lane (BitVec.eq_of_toNat_eq hmd) ▸ .head _
    split at h
    · cases h
    · cases h; exact Issuer.spares_writeX hd _
  case h_4 h0 h1 h2 =>
    have hlt : o.md.toNat < 4 := o.md.isLt
    have hmd : o.md.toNat = 3 := Nat.le_antisymm (Nat.le_of_lt_succ hlt) (by
      have e0 : o.md.toNat ≠ 0 := h0
      have e1 : o.md.toNat ≠ 1 := h1
      have e2 : o.md.toNat ≠ 2 := h2
      omega)
    have hdests := instrDests_vmov_mask (o := o) (xs := xs) (BitVec.eq_of_toNat_eq hmd)
    split at h
    · next hspec =>
      have hd : Dest.x o.dst ∈ instrDests (.vmov o xs) := by
        rw [hdests, if_neg (bne_iff_ne.mp hspec)]; exact .head _
      split at h
      · cases h
      · cases h; exact Issuer.spares_writeX hd _
    · next hspec =>
      have hd : Dest.m (o.dst.setWidth 3) ∈ instrDests (.vmov o xs) := by
        rw [hdests, if_pos (not_not.mp (fun hn => hspec (bne_iff_ne.mpr hn)))]; exact .head _
      split at h
      · cases h
      · cases h; exact Issuer.spares_commit (fun th => th.spares_setM hd _)

theorem slotTstr_spares (o : VTstr) (xs : List XPay) : (slotTstr o xs).Spares (.tstr o xs) := by
  intro c s k h
  simp only [slotTstr] at h
  split at h
  · cases h
  · split at h
    · cases h
    · split at h
      · cases h
      · split at h
        · cases h
        · split at h
          · cases h
          · cases h
            intro s'
            exact (State.Spares.updThread s' (fun th => th.spares_raiseAgent (i := .tstr o xs) (Nat.succ_ne_zero 6) _ _)).trans (.submit _ _)

theorem State.Spares.hgFault {u t : Nat} (s : State) (h : HgOp) (cause addr : Nat) (status : BitVec 32) :
    State.Spares i u t s (s.hgFault h cause addr status) := by
  unfold State.hgFault State.walkedFor
  split
  · refine State.Spares.trans ?_ (State.Spares.fail _ _ _ _ _)
    exact (State.Spares.walked s h.by_.unit h.part addr).trans (.of_framed rfl)
  · exact State.Spares.trans (b := s.dropHg h.id) (.of_framed rfl) (.fail _ _ _ _ _)

theorem State.Spares.hgRead {u t : Nat} (s : State) (h : HgOp) (index va n : Nat) : State.Spares i u t s (s.hgRead h index va n) := by
  unfold State.hgRead
  split
  · exact .hgFault s _ _ _ _
  · split
    · exact .hgFault s _ _ _ _
    · exact (State.Spares.walked s h.by_.unit h.part va).trans (.of_framed (State.framed_sendReady _))

/-- The commit of HGLD names its destinations, HGSC's has none. -/
theorem Issuer.spares_hgCommit {c : Issuer} {s0 : State} {o : VTri} {scatter : Bool}
    (hd : scatter = false → ∀ r : BitVec 5, r.toNat ∈ upToEight o.dst.toNat → Dest.v r ∈ instrDests i) :
    Commit.Spares i c (c.hgCommit s0 o scatter) := by
  have hempty : scatter = false → ∀ (l : List Nat), (∀ n ∈ l, n ∈ upToEight o.dst.toNat) → ∀ th : Thread,
      Thread.Spares i th (l.foldl (fun t r => t.emptyV r) th) := by
    intro hs l
    induction l with
    | nil => exact fun _ th => .refl i th
    | cons n l ih =>
      intro hl th
      exact (th.spares_emptyV (fun r hr => hd hs r (hr ▸ hl n (.head _)))).trans (ih (fun m hm => hl m (.tail _ hm)) _)
  intro s
  unfold Issuer.hgCommit
  dsimp only
  cases scatter with
  | true =>
    refine State.Spares.trans ?_ (State.Spares.hgRead _ _ _ _ _)
    exact .of_framed rfl
  | false =>
    refine State.Spares.trans ?_ (State.Spares.hgRead _ _ _ _ _)
    exact (State.Spares.updThread s (hempty rfl (upToEight o.dst.toNat) (fun _ h => h))).trans (.of_framed rfl)

theorem mem_instrDests_hgld {o : VTri} {r : BitVec 5} (h : r.toNat ∈ upToEight o.dst.toNat) : Dest.v r ∈ instrDests (.hgld o) := by
  simp only [upToEight, List.mem_filterMap, List.mem_range] at h
  obtain ⟨j, hj, hr⟩ := h
  split at hr
  · next hlt =>
    have hr' : o.dst.toNat + j = r.toNat := Option.some.inj hr
    refine List.mem_map.mpr ⟨j, List.mem_range.mpr (by omega), congrArg Dest.v (BitVec.eq_of_toNat_eq ?_)⟩
    rw [BitVec.toNat_add, BitVec.toNat_ofNat]
    omega
  · cases hr

theorem slotHgld_spares (o : VTri) : (slotHgld o).Spares (.hgld o) := by
  intro c s k h
  simp only [slotHgld] at h
  split at h
  · cases h
  · cases h; exact Issuer.spares_hgCommit (fun _ _ hr => mem_instrDests_hgld hr)

theorem slotHgsc_spares (o : VTri) : (slotHgsc o).Spares i := by
  intro c s k h
  simp only [slotHgsc] at h
  split at h
  · cases h
  · cases h; exact Issuer.spares_hgCommit (fun h => nomatch h)

end

/-! ### Every slot -/

/-- Whatever a slot of an instruction commits spares what the instruction does not name. -/
theorem slotOf_spares (i : Instr) : (slotOf i).Spares i := by
  by_cases hp : plainWave i = true
  · rw [(slotOf_plainWave hp).2.1]
    exact slotWave_spares _ _ _ _
  cases i with
  | add o | sub o | mul o | mulh o | mulhu o | div o | divu o | rem o | remu o | and o | or o | xor o | andn o | shl o | shr o | sra o | rol o
  | min o | max o | minu o | maxu o =>
    dsimp only [slotOf, slotAdd, slotSub, slotMul, slotMulh, slotMulhu, slotDiv, slotDivu, slotRem, slotRemu, slotAnd, slotOr, slotXor,
      slotAndn, slotShl, slotShr, slotSra, slotRol, slotMin, slotMax, slotMinu, slotMaxu]
    exact slotRrr_spares (.head _)
  | clz o | ctz o | popc o =>
    dsimp only [slotOf, slotClz, slotCtz, slotPopc]
    exact slotRr_spares (.head _)
  | sel o => exact slotSel_spares o
  | addi o xs => exact slotAddi_spares o xs
  | li o xs => exact slotLi_spares o xs
  | cmp o => exact slotCmp_spares o
  | cmpi o xs => exact slotCmpi_spares o xs
  | plog o => exact slotPlog_spares o
  | fadd o | fsub o | fmul o | fmin o | fmax o =>
    dsimp only [slotOf, slotFadd, slotFsub, slotFmul, slotFmin, slotFmax]
    exact slotFp_spares Nat.one_ne_zero (.head _)
  | fma o => exact slotFma_spares o
  | fcmp o => exact slotFcmp_spares o
  | fcvt o xs => exact slotFcvt_spares o xs
  | ld o xs => exact slotLd_spares o xs
  | lda o xs => exact slotLda_spares o xs
  | lde o xs | ldeC o xs =>
    dsimp only [slotOf, slotLde, slotLdeC]
    exact slotLdeBase_spares (.head _)
  | st o xs => exact slotSt_spares o xs
  | str o xs => exact slotStr_spares o xs
  | stf o xs => exact slotStf_spares o xs
  | grset o => exact slotGranules_spares o true
  | grclr o => exact slotGranules_spares o false
  | pref o xs => exact slotPref_spares o xs
  | fence o => exact slotFence_spares o
  | tlook o => exact slotTlook_spares o
  | tfill o => exact slotTfill_spares o
  | tevict o => exact slotTevict_spares o
  | mfs o => exact slotMfs_spares o
  | mts o => exact slotMts_spares o
  | amoAdd o | amoAnd o | amoOr o | amoXor o | amoMin o | amoMax o | amoMinu o | amoMaxu o | amoSwp o | amoCas o | amoFadd o | amoFmax o
  | amoAddD o | amoAndD o | amoOrD o | amoXorD o | amoMinD o | amoMaxD o | amoMinuD o | amoMaxuD o | amoSwpD o | amoCasD o =>
    dsimp only [slotOf, slotAmoAdd, slotAmoAnd, slotAmoOr, slotAmoXor, slotAmoMin, slotAmoMax, slotAmoMinu, slotAmoMaxu, slotAmoSwp, slotAmoCas,
      slotAmoFadd, slotAmoFmax, slotAmoAddD, slotAmoAndD, slotAmoOrD, slotAmoXorD, slotAmoMinD, slotAmoMaxD, slotAmoMinuD, slotAmoMaxuD,
      slotAmoSwpD, slotAmoCasD]
    exact slotAmo_spares (.head _)
  | br o xs => exact slotBr_spares o xs
  | bc o xs => exact slotBc_spares o xs
  | bcall o xs => exact slotBcall_spares o xs
  | ret o => exact slotRet_spares o
  | loop o =>
    dsimp only [slotOf, slotLoop]
    exact slotLoopBase_spares _ _ _
  | loopImm o xs =>
    dsimp only [slotOf, slotLoopImm]
    exact slotLoopBase_spares _ _ _
  | exit => exact slotExit_spares
  | trig => exact slotTrig_spares
  | yield => exact slotYield_spares
  | trap o => exact slotTrap_spares o
  | eret => exact slotEret_spares
  | sleep o => exact slotSleep_spares o
  | cpy o => exact slotCpy_spares o
  | cpyx o => exact slotCpyx_spares o
  | waitid o => exact slotWaitid_spares o
  | winit o => exact slotWinit_spares o
  | warr o => exact slotWarr_spares o
  | wdrop o => exact slotWdrop_spares o
  | wwait o => exact slotWwait_spares o
  | wtest o => exact slotWtest_spares o
  | qpost o => exact slotQpost_spares o
  | bopen o => exact slotBopen_spares o
  | bclose o => exact slotBclose_spares o
  | elw o | eln o | ewe o | ews o =>
    dsimp only [slotOf, slotElw, slotEln, slotEwe, slotEws]
    exact slotStream_spares _ _ _ _ _ _
  | edrain o => exact slotEdrain_spares o
  | mov o xs | movh o xs | unpk o xs | fsum o xs | vtest o xs | lds o xs | sts o xs | imm o xs | rowcol o xs | perm o xs | pack o xs
  | fsgn o xs | cellFcmp o xs | fsel o xs | iadd o xs | isub o xs | imul o xs | imin o xs | imax o xs | icmp o xs | cellVsel o xs | cvt o xs
  | qlog o xs | qset o xs | cellFadd o xs | cellFsub o xs | cellFmul o xs | cellFma o xs | cellFmin o xs | cellFmax o xs | fdiv o xs | iand o xs
  | ior o xs | ixor o xs | ishl o xs | ishr o xs | isra o xs | frcp o xs | frsq o xs | fsqrt o xs | fexp2 o xs | flog2 o xs | mac o xs
  | macs o xs | macv o xs | accwr o xs | amax o xs => exact absurd rfl hp
  | scl o | accz o => exact absurd rfl hp
  | accrd o xs =>
    dsimp only [slotOf, slotAccrd]
    exact slotWave_spares _ _ _ _
  | vthr o =>
    dsimp only [slotOf, slotVthr]
    exact slotWave_spares _ _ _ _
  | vbeg o xs => exact slotVbeg_spares o xs
  | lup o | chol o | qrh o | trsm o =>
    dsimp only [slotOf, slotLup, slotChol, slotQrh, slotTrsm]
    exact slotStroke_spares _
  | seli o xs =>
    dsimp only [slotOf, slotSeli]
    exact slotSelect_spares (fun h => h.1 o xs rfl)
  | selx o =>
    dsimp only [slotOf, slotSelx]
    exact slotSelect_spares (fun h => h.2 o rfl)
  | wflg o => exact slotWflg_spares o
  | wdrain => exact slotWdrain_spares
  | pvst o => exact slotPvst_spares o
  | vld o xs => exact slotVld_spares o xs
  | vst o xs => exact slotVst_spares o xs
  | vgth o xs => exact slotVgth_spares o xs
  | vsct o xs => exact slotVsct_spares o xs
  | tstr o xs => exact slotTstr_spares o xs
  | vadd o xs | vsub o xs | vmul o xs | vfma o xs | vmin o xs | vmax o xs =>
    dsimp only [slotOf, slotVadd, slotVsub, slotVmul, slotVfma, slotVmin, slotVmax]
    exact slotLanes_spares (Nat.succ_ne_zero 6) (.head _)
  | vcmp o xs => exact slotVcmp_spares o xs
  | vsel o xs => exact slotVsel_spares o xs
  | vcvt o xs => exact slotVcvt_spares o xs
  | vred o xs => exact slotVred_spares o xs
  | viota o xs => exact slotViota_spares o xs
  | vmov o xs => exact slotVmov_spares o xs
  | vdedup o xs => exact slotVdedup_spares o xs
  | vpool o xs => exact slotVpool_spares o xs
  | hgld o => exact slotHgld_spares o
  | hgsc o => exact slotHgsc_spares o
  | _ => exact slotNop_spares

end Sys2Proof.Machine
end


section
/-! PROOFS. Bundles keep within the frames of their slots, and what follows for every slot instruction: memory and other threads, the
registers that no field names, and flags (R16, R55, R57, R189, R210, R218, R236, R427, R448). -/

namespace Sys2Proof.Machine

/-! ### A bundle -/

/-- A slot that still commits beside a failed physical unit commits what it would, and may then fault (R448). -/
theorem Seq.selfCheck_ok {q : Seq} {by_ : Issue} {cls earlier : Nat} {r : Except Stop Commit} {k : Commit}
    (h : q.selfCheck by_ cls earlier r = .ok k) : ∃ f, r = .ok f ∧ (k = f ∨ ∃ st, k = fun s => (f s).fail by_ 0x38 0 st) := by
  unfold Seq.selfCheck at h
  dsimp only at h
  split at h
  · exact ⟨k, h, .inl rfl⟩
  · split at h
    case h_12 f _ _ _ => cases h; exact ⟨f, rfl, .inr ⟨_, rfl⟩⟩
    all_goals first | cases h | (split at h <;> cases h)

/-- What commits of the slots of a bundle is what some slot of it commits. -/
theorem runSlots_ok {q : Seq} {run : SlotRun → Except Stop Commit} {by_ : Nat → Nat → Issue} {cs : List Nat} {slots : List SlotRun} {p : Nat}
    {k : Commit} (h : (p, Except.ok k) ∈ runSlots q run by_ cs slots) :
    ∃ x ∈ slots, ∃ f, run x = .ok f ∧ (k = f ∨ ∃ i st, k = fun s => (f s).fail i 0x38 0 st) := by
  induction slots generalizing cs with
  | nil => cases h
  | cons x xs ih =>
    rcases List.mem_cons.mp h with h | h
    · obtain ⟨f, hf, hk⟩ := Seq.selfCheck_ok (Prod.mk.inj h).2.symm
      exact ⟨x, .head _, f, hf, hk.imp id (fun ⟨st, hst⟩ => ⟨_, st, hst⟩)⟩
    · obtain ⟨y, hy, hrest⟩ := ih h
      exact ⟨y, .tail _ hy, hrest⟩

theorem mem_commitOrder {slots : List SlotRun} {rs : List (Nat × Except Stop Commit)} {r : Nat × Except Stop Commit}
    (h : r ∈ commitOrder slots rs) : r ∈ rs := by
  simp only [commitOrder, List.mem_append, List.mem_filter] at h
  rcases h with (h | h) | h <;> exact h.1

section
variable {i : Instr} {u t : Nat}

theorem State.Spares.applyCommits {rs : List (Nat × Except Stop Commit)} (h : ∀ p k, (p, Except.ok k) ∈ rs → ∀ s, State.Spares i u t s (k s))
    (s : State) : State.Spares i u t s (applyCommits rs s) := by
  induction rs generalizing s with
  | nil => exact .refl i u t s
  | cons r rs ih =>
    obtain ⟨p, r⟩ := r
    cases r with
    | error e => exact ih (fun p k hk => h p k (.tail _ hk)) s
    | ok k => exact (h p k (.head _) s).trans (ih (fun p k hk => h p k (.tail _ hk)) _)

/-- A bundle, however it ends, keeps within a frame that each of its slots keeps within. -/
theorem State.Spares.runBundle {s : State} {pc next : Word} {slots : List SlotRun} (h : ∀ k ∈ slots, Slot.Spares i k.run) :
    State.Spares i u t s (s.runBundle u t pc next slots) := by
  unfold State.runBundle
  dsimp only
  split
  · exact .stopAt s _ _ _ _
  · refine State.Spares.trans ?_ (State.Spares.boundary _ pc)
    refine State.Spares.trans ((State.Spares.bundleIssued s _ _).trans
      (State.Spares.updThread_file _ (fun th => th.file_advance next))) (State.Spares.applyCommits ?_ _)
    intro p k hk s'
    obtain ⟨x, hx, f, hf, hcase⟩ := runSlots_ok (mem_commitOrder hk)
    have hx' : State.Spares i u t s' (f s') := h x hx _ s f hf s'
    rcases hcase with rfl | ⟨by_, st, rfl⟩
    · exact hx'
    · exact hx'.trans (.fail _ _ _ _ _)

end

/-- Whatever becomes of a slot instruction, its frame holds. -/
theorem State.Spares.issueOne (s : State) (i : Instr) : State.Spares i s.curUnit s.turnThread s (s.issueOne i (slotOf i)) := by
  unfold State.issueOne
  dsimp only
  split
  · exact .stopAt s _ _ _ _
  · split
    · exact .stopAt s _ _ _ _
    · refine State.Spares.runBundle (fun k hk => ?_)
      rw [List.mem_singleton.mp hk]
      exact slotOf_spares i

theorem State.Spares.exec {s t : State} {i : Instr} (hi : i.isStep = false) (h : exec i s = .next t) :
    State.Spares i s.curUnit s.turnThread s t := by
  rw [exec_slot hi] at h
  cases h
  exact .issueOne s i

/-! ### The obligations -/

/-- Settles O7. -/
theorem issueChangesNoMemoryAndNoOtherThread : Obligations.IssueChangesNoMemoryAndNoOtherThread := by
  unfold Obligations.IssueChangesNoMemoryAndNoOtherThread
  intro s t i g hi _ h
  have hs := State.Spares.exec hi h
  exact ⟨hs.mem, fun he => (hs.lines he).1, hs.keys, hs.islands, fun v m hvm => Thread.same_of_regs (hs.others v m hvm)⟩

/-- Settles O8. -/
theorem registersOutsideDestinationsStay : Obligations.RegistersOutsideDestinationsStay := by
  unfold Obligations.RegistersOutsideDestinationsStay
  intro s t i g hi _ h
  have hs := (State.Spares.exec hi h).own
  exact ⟨hs.x, hs.p, hs.m, hs.v, hs.g, hs.stag, hs.tvec, Thread.getX_zero _, Thread.fullX_zero _, Thread.getP_zero _, Thread.getM_zero _⟩

/-- Settles O9. -/
theorem flagsAreSticky : Obligations.FlagsAreSticky := by
  unfold Obligations.FlagsAreSticky
  intro s t i hi hmts h
  have hs := (State.Spares.exec hi h).own
  exact ⟨hs.raised hmts, hs.enables hmts, hs.quiet⟩

end Sys2Proof.Machine
end


section
/-! PROOFS. Quiet steps and kept memory: the state's operations, requests, wells, rings and appends. -/

namespace Sys2Proof.Machine

/-- Two states have the same agenda and the same memory. -/
@[simp, reducible] def State.Quiet (t s : State) : Prop := t.agenda = s.agenda ∧ t.mem = s.mem

/-- Two states have the same agenda, and the memory of the one is in canonical form if that of the other is. -/
@[simp, reducible] def State.Kept (t s : State) : Prop := t.agenda = s.agenda ∧ (Memory.wf s.mem = true → Memory.wf t.mem = true)

section
variable {a b c : State}

theorem State.Quiet.kept (h : b.Quiet a) : b.Kept a := ⟨h.1, fun hm => h.2 ▸ hm⟩
theorem State.Quiet.trans (h : b.Quiet a) (k : c.Quiet b) : c.Quiet a := ⟨k.1.trans h.1, k.2.trans h.2⟩
theorem State.Kept.trans (h : b.Kept a) (k : c.Kept b) : c.Kept a := ⟨k.1.trans h.1, fun hm => k.2 (h.2 hm)⟩
theorem State.Spares.quiet {i : Instr} {u t : Nat} (h : State.Spares i u t a b) : b.Quiet a := ⟨h.agenda, h.mem⟩

end

/-- Bytes written to memory leave it in canonical form. -/
theorem State.kept_memWrite (s : State) (a : Nat) (bs : List Byte) : ({ s with mem := memWrite s.mem a bs } : State).Kept s :=
  ⟨rfl, fun h => memWrite_wf bs a h⟩

@[simp] theorem foldl_quiet {α : Type} {f : State → α → State} (h : ∀ s x, (f s x).Quiet s) (l : List α) (s : State) : (l.foldl f s).Quiet s := by
  induction l generalizing s with
  | nil => exact ⟨rfl, rfl⟩
  | cons x l ih => exact (h s x).trans (ih _)

theorem foldl_kept {α : Type} {f : State → α → State} (h : ∀ s x, (f s x).Kept s) (l : List α) (s : State) : (l.foldl f s).Kept s := by
  induction l generalizing s with
  | nil => exact ⟨rfl, id⟩
  | cons x l ih => exact (h s x).trans (ih _)

@[simp] theorem State.kept_writeUnder (s : State) (k : Key) (pa : Nat) (bs : List Byte) : (s.writeUnder k pa bs).Kept s := by
  unfold State.writeUnder
  split
  · refine ⟨rfl, fun h => memWrite_wf _ _ ?_⟩
    split
    · exact h
    · split
      · exact h
      · exact memWrite_wf _ _ h
  · exact State.kept_memWrite s pa bs

@[simp] theorem State.quiet_writtenBack (s : State) (l : Nat) : (s.writtenBack l).Quiet s :=
  (State.Spares.writtenBack (i := .nop) (u := 0) (t := 0) s l).quiet

@[simp] theorem State.quiet_filled (s : State) (l : Nat) : (s.filled l).Quiet s :=
  (State.Spares.filled (i := .nop) (u := 0) (t := 0) s l).quiet

@[simp] theorem State.kept_revert (s : State) (w : Way) : (s.revert w).Kept s := by
  unfold State.revert
  split
  · exact ⟨rfl, id⟩
  · exact ⟨rfl, fun h => memWrite_wf _ _ h⟩

@[simp] theorem State.kept_discard (s : State) (i : Nat) : (s.discard i).Kept s := foldl_kept State.kept_revert _ s

@[simp] theorem State.quiet_touch (s : State) (k : Key) (cls : Nat) (always write : Bool) (pa : Nat) : (s.touch k cls always write pa).2.Quiet s :=
  (State.Spares.touch (i := .nop) (u := 0) (t := 0) s k cls always write pa).quiet

@[simp] theorem State.quiet_bumpTag (s : State) (l : Nat) : (s.bumpTag l).Quiet s := ⟨rfl, rfl⟩

@[simp] theorem State.quiet_sendFlit (s : State) (p : Nat) (f : Flit) : (s.sendFlit p f).Quiet s := by
  unfold State.sendFlit; split <;> simp

@[simp] theorem State.quiet_ccTo (s : State) (c : Nat) : (s.ccTo c).Quiet s := ⟨rfl, rfl⟩

@[simp] theorem State.quiet_retime (s : State) (i : Nat) (f : Island → Island) : (s.retime i f).Quiet s := ⟨rfl, rfl⟩

@[simp] theorem State.quiet_agentFlags (s : State) (u t : Nat) (f : BitVec 8) : (s.agentFlags u t f).Quiet s := ⟨rfl, rfl⟩

@[simp] theorem State.quiet_pushReq (s : State) (r : Req) : (s.pushReq r).Quiet s := ⟨rfl, rfl⟩

@[simp] theorem State.quiet_failLaunch (s : State) (r : FaultRec) : (s.failLaunch r).Quiet s := by
  obtain ⟨fs, ls, cs, h⟩ := s.failLaunch_shape r
  rw [h]
  exact ⟨rfl, rfl⟩

@[simp] theorem State.quiet_failTask (s : State) (t cause : Nat) : (s.failTask t cause).Quiet s :=
  (State.Spares.failTask (i := .nop) (u := 0) (t := 0) s t cause).quiet

@[simp] theorem State.quiet_fail (s : State) (i : Issue) (cause addr : Nat) (status : BitVec 32) : (s.fail i cause addr status).Quiet s :=
  (State.Spares.fail (i := .nop) (u := 0) (t := 0) s i cause addr status).quiet

@[simp] theorem State.quiet_park (s : State) (i : Issue) (addr : Nat) (status : BitVec 32) : (s.park i addr status).Quiet s :=
  (State.Spares.park (i := .nop) (u := 0) (t := 0) s i addr status).quiet

@[simp] theorem State.quiet_takeTrap (s : State) (u t : Nat) (tr : PendingTrap) (tepc bundle : Word) : (s.takeTrap u t tr tepc bundle).Quiet s :=
  (State.Spares.takeTrap (i := .nop) s tr tepc bundle).quiet

@[simp] theorem State.quiet_boundary (s : State) (u t : Nat) (bundle : Word) : (s.boundary u t bundle).Quiet s :=
  (State.Spares.boundary (i := .nop) s bundle).quiet

@[simp] theorem State.quiet_holdPage (s : State) (u : Nat) (e : TlbEntry) : (s.holdPage u e).Quiet s :=
  (State.Spares.holdPage (i := .nop) (u := 0) (t := 0) s u e).quiet

@[simp] theorem State.quiet_walked (s : State) (u p va : Nat) : (s.walked u p va).Quiet s :=
  (State.Spares.walked (i := .nop) (u := 0) (t := 0) s u p va).quiet

@[simp] theorem State.quiet_walkedFor (s : State) (u p cause va : Nat) : (s.walkedFor u p cause va).Quiet s := by
  unfold State.walkedFor; split <;> simp

@[simp] theorem State.quiet_blockThread (s : State) (u t : Nat) : (s.blockThread u t).Quiet s := ⟨rfl, rfl⟩

@[simp] theorem State.quiet_stopAt (s : State) (u t : Nat) (pc : Word) (slot cls : Nat) (e : Stop) : (s.stopAt u t pc slot cls e).Quiet s :=
  (State.Spares.stopAt (i := .nop) s pc slot cls e).quiet

@[simp] theorem State.quiet_evicted (s : State) (core slot id : Nat) : (s.evicted core slot id).Quiet s := by
  have h := s.framed_evicted core slot id
  exact ⟨(congrArg (fun x => x.2.1) h :), (congrArg Prod.fst h :)⟩

@[simp] theorem State.quiet_notePosts (s : State) (r : Req) (places : List (Nat × Nat)) : (s.notePosts r places).Quiet s := by
  unfold State.notePosts; dsimp only; split <;> simp

@[simp] theorem State.quiet_sendOne (s : State) (r : Req) : (s.sendOne r).Quiet s := by
  have h := s.framed_sendOne r
  exact ⟨(congrArg (fun x => x.2.1) h :), (congrArg Prod.fst h :)⟩

@[simp] theorem State.quiet_sendReady (s : State) : s.sendReady.Quiet s := by
  unfold State.sendReady; simp

@[simp] theorem State.quiet_submit (s : State) (r : Req) : (s.submit r).Quiet s :=
  (State.Spares.submit (i := .nop) (u := 0) (t := 0) s r).quiet

@[simp] theorem State.quiet_spareEntries (s : State) (n : Nat) : (s.spareEntries n).Quiet s := by
  unfold State.spareEntries; split <;> simp

@[simp] theorem State.quiet_askLine (s : State) (i : Issue) (p va : Nat) (g : Target) (n : Nat) : (s.askLine i p va g n).Quiet s := by
  unfold State.askLine; split <;> simp

@[simp] theorem State.quiet_clearInbox (s : State) (i : Issue) : (s.clearInbox i).Quiet s := ⟨rfl, rfl⟩

@[simp] theorem State.quiet_putPieces (i : Issue) (p : Nat) (full : Bool) (gs : List (Nat × Nat × Target)) (s : State) (bs : List Byte) :
    (s.putPieces i p full gs bs).Quiet s := by
  induction gs generalizing s bs with
  | nil => exact ⟨rfl, rfl⟩
  | cons x gs ih =>
    rw [State.putPieces]
    exact (State.quiet_submit s _).trans (ih _ _)

theorem State.quiet_writeAs {s s1 : State} {full : Bool} {i : Issue} {p va : Nat} {bs : List Byte} (h : s.writeAs full i p va bs = .ok s1) :
    s1.Quiet s := by
  unfold State.writeAs at h
  split at h
  · cases h
  · cases h; exact State.quiet_putPieces _ _ _ _ _ _

theorem State.quiet_writeVa {s s1 : State} {i : Issue} {p va : Nat} {bs : List Byte} (h : s.writeVa i p va bs = .ok s1) : s1.Quiet s :=
  State.quiet_writeAs h

theorem State.quiet_readVa_wait {s s1 : State} {i : Issue} {p va n : Nat} (h : s.readVa i p va n = .wait s1) : s1.Quiet s := by
  have hk := State.readVa_keeps (g := fun s => (s.agenda, s.mem))
    (fun s i p va t n => Prod.ext (State.quiet_askLine s i p va t n).1 (State.quiet_askLine s i p va t n).2) s i p va n
  rw [h] at hk
  exact ⟨congrArg Prod.fst hk, congrArg Prod.snd hk⟩

@[simp] theorem State.quiet_postPieces (i : Issue) (p : Nat) (k : Access) (release : Bool) (ps : List (Nat × Nat)) (s : State) (bs : List Byte) :
    (s.postPieces i p k release ps bs).Quiet s := by
  induction ps generalizing s bs with
  | nil => exact ⟨rfl, rfl⟩
  | cons x ps ih =>
    rw [State.postPieces]
    split
    · exact (State.quiet_submit s _).trans (ih _ _)
    · exact (State.quiet_walked s _ _ _).trans (ih _ _)

@[simp] theorem State.quiet_post (s : State) (i : Issue) (p va : Nat) (bs : List Byte) : (s.post i p va bs).Quiet s := by
  unfold State.post; simp

@[simp] theorem State.quiet_postLast (s : State) (i : Issue) (p va : Nat) (bs : List Byte) : (s.postLast i p va bs).Quiet s := by
  unfold State.postLast; simp

@[simp] theorem State.kept_finishCommand (s : State) (idx : BitVec 32) (ecode : Nat) : (s.finishCommand idx ecode).Kept s :=
  ⟨rfl, fun h => memWrite_wf _ _ h⟩

@[simp] theorem State.quiet_updQueue (s : State) (k : QueueKind) (n : Nat) (f : Queue → Queue) : (s.updQueue k n f).Quiet s := by
  unfold State.updQueue; split <;> simp

@[simp] theorem State.quiet_watchRings (s : State) : s.watchRings.Quiet s := ⟨rfl, rfl⟩

@[simp] theorem State.quiet_mirror (s : State) (p widx : Nat) (ridx : BitVec 32) : (s.mirror p widx ridx).Quiet s := by
  unfold State.mirror; simp

@[simp] theorem State.quiet_passSlotOf (s : State) (k : QueueKind) (n : Nat) : (s.passSlotOf k n).Quiet s := by
  unfold State.passSlotOf; simp

@[simp] theorem State.quiet_ringRise (s : State) (k : QueueKind) (n : Nat) : (s.ringRise k n).Quiet s := by
  unfold State.ringRise
  dsimp only
  split
  · next h => exact State.quiet_readVa_wait h
  · exact ⟨rfl, rfl⟩
  · next h => cases State.readVa_ok h; simp

@[simp] theorem State.quiet_takePacket (s : State) (k : QueueKind) (n : Nat) : (s.takePacket k n).Quiet s := by
  unfold State.takePacket; simp

@[simp] theorem State.quiet_closeRuns (s : State) (ch : Nat) : (s.closeRuns ch).Quiet s := ⟨rfl, rfl⟩

@[simp] theorem State.quiet_runBoundary (s : State) (ch : Nat) : (s.runBoundary ch).Quiet s := ⟨rfl, rfl⟩

@[simp] theorem State.quiet_boundaries (s : State) : s.boundaries.Quiet s := by
  unfold State.boundaries; simp

@[simp] theorem State.kept_putWell (s : State) (pa : Nat) (w : WellWord) : (s.putWell pa w).Kept s :=
  ⟨rfl, fun h => memWrite_wf _ _ (memWrite_wf _ _ h)⟩

@[simp] theorem State.kept_clearPart (s : State) (pa me : Nat) : (s.clearPart pa me).Kept s :=
  ⟨rfl, fun h => memPut_wf _ _ h⟩

theorem State.kept_wellLand {s s1 : State} {pa k : Nat} (h : s.wellLand pa k = .ok s1) : s1.Kept s := by
  unfold State.wellLand at h
  split at h
  · cases h
  · cases h; exact State.kept_putWell s pa _

theorem State.quiet_register {s s1 : State} {g pa : Nat} (h : s.register g pa = some s1) : s1.Quiet s := by
  unfold State.register at h
  split at h
  · cases h; exact ⟨rfl, rfl⟩
  · split at h
    · cases h; exact ⟨rfl, rfl⟩
    · split at h
      · cases h
      · cases h; exact ⟨rfl, rfl⟩

theorem State.kept_wellDrop {s s1 : State} {pa me : Nat} (h : s.wellDrop pa me = .ok s1) : s1.Kept s := by
  unfold State.wellDrop at h
  split at h
  · cases h
  · cases h; exact (State.kept_putWell s pa _).trans (State.kept_clearPart _ pa me)

@[simp] theorem State.kept_applyWell (s : State) (r : Req) (k : WellKind) (me : Nat) : (s.applyWell r k me).Kept s := by
  cases k with
  | init n partic =>
    unfold State.applyWell
    dsimp only
    split
    · exact (State.quiet_fail s _ _ _ _).kept
    · next s1 h =>
      exact ((State.quiet_register h).kept.trans (State.kept_putWell s1 _ _)).trans (State.kept_memWrite _ _ _)
  | arrive b =>
    unfold State.applyWell
    dsimp only
    split
    · exact (State.quiet_fail s _ _ _ _).kept
    · exact State.kept_putWell s _ _
  | drop implicit =>
    unfold State.applyWell
    dsimp only
    split
    · exact ⟨rfl, id⟩
    · split
      · exact (State.quiet_fail s _ _ _ _).kept
      · next h => exact State.kept_wellDrop h

@[simp] theorem State.quiet_pushWell (s : State) (i : Issue) (p va : Nat) (g : Target) (k : WellKind) (me : Nat) :
    (s.pushWell i p va g k me).Quiet s := by
  unfold State.pushWell; simp

@[simp] theorem State.quiet_copyFault (s0 : State) (c : Copy) (cause addr : Nat) (status : BitVec 32) :
    (s0.copyFault c cause addr status).Quiet s0 := by
  unfold State.copyFault
  dsimp only
  repeat' split
  all_goals simp

@[simp] theorem State.kept_wellCount (s : State) (i k : Nat) : (s.wellCount i k).Kept s := by
  unfold State.wellCount
  split
  · exact ⟨rfl, id⟩
  · split
    · exact ⟨rfl, id⟩
    · split
      · exact ⟨rfl, id⟩
      · split
        · next h => exact State.kept_wellLand h
        · exact (State.quiet_copyFault s _ _ _ _).kept

@[simp] theorem State.kept_tellWell (s : State) (i k : Nat) : (s.tellWell i k).Kept s := by
  unfold State.tellWell
  repeat' split
  all_goals exact ⟨by simp, fun h => by simp [h]⟩

@[simp] theorem State.quiet_appendFails (s : State) (j : Nat) (a : Append) (cause addr : Nat) (status : BitVec 32) :
    (s.appendFails j a cause addr status).Quiet s := by
  unfold State.appendFails; simp

@[simp] theorem State.quiet_setAppend (s : State) (j : Nat) (a : Append) : (s.setAppend j a).Quiet s := ⟨rfl, rfl⟩

@[simp] theorem State.quiet_claim (s : State) (j : Nat) (a : Append) : (s.claim j a).Quiet s := by
  unfold State.claim
  dsimp only
  repeat' split
  all_goals simp

@[simp] theorem State.quiet_appendImage (s : State) (j : Nat) (a : Append) : (s.appendImage j a).Quiet s := by
  unfold State.appendImage
  dsimp only
  split
  · split <;> simp
  · split
    · exact ⟨rfl, rfl⟩
    · split
      · simp
      · split
        · simp
        · next h => exact State.quiet_readVa_wait h
        · next h =>
          cases State.readVa_ok h
          split
          · simp
          · split <;> simp

@[simp] theorem State.quiet_appendFill (s : State) (j : Nat) (a : Append) : (s.appendFill j a).Quiet s := by
  unfold State.appendFill
  split
  · split
    · simp
    · next h => exact (State.quiet_writeVa h).trans (State.quiet_setAppend _ _ _)
  · exact ⟨rfl, rfl⟩

@[simp] theorem State.quiet_noteOrigin (s : State) (a : Append) : (s.noteOrigin a).Quiet s := by
  unfold State.noteOrigin; dsimp only; split <;> simp

@[simp] theorem State.quiet_appendPost (s : State) (j : Nat) (a : Append) : (s.appendPost j a).Quiet s := by
  unfold State.appendPost
  split
  · split
    · simp
    · next h => exact (State.quiet_writeVa h).trans (by simp)
  · exact ⟨rfl, rfl⟩

@[simp] theorem State.quiet_appendEnd (s : State) (j : Nat) (a : Append) : (s.appendEnd j a).Quiet s := by
  unfold State.appendEnd; split <;> simp

@[simp] theorem State.quiet_appendStep (s : State) (u t : Nat) : (s.appendStep u t).Quiet s := by
  unfold State.appendStep
  repeat' split
  all_goals simp

end Sys2Proof.Machine
end


section
/-! PROOFS. What the calendar, the bank units and the slices keep of memory and the agenda. -/

namespace Sys2Proof.Machine

@[simp] theorem State.quiet_updCopybook (s : State) (c : Copybook) (f : Copybook → Copybook) : (s.updCopybook c f).Quiet s := ⟨rfl, rfl⟩

@[simp] theorem State.quiet_putBook (s : State) (c : Copybook) (at_ : Nat) (bs : List Byte) : (s.putBook c at_ bs).Quiet s := by
  unfold State.putBook; simp

@[simp] theorem State.quiet_overflowBook (s : State) (c : Copybook) : (s.overflowBook c).Quiet s := by
  unfold State.overflowBook; split <;> simp

@[simp] theorem State.quiet_recordAccess (s : State) (c : Copybook) (unit thr line : Nat) : (s.recordAccess c unit thr line).Quiet s := by
  unfold State.recordAccess; split <;> simp

@[simp] theorem State.kept_diverge (s : State) (c : Copybook) (detail va : Nat) : (s.diverge c detail va).Kept s := by
  unfold State.diverge; exact ⟨by simp, fun h => by simp [h]⟩

@[simp] theorem State.kept_witnessWait (s : State) (unit thr line : Nat) : (s.witnessWait unit thr line).Kept s := by
  unfold State.witnessWait
  refine foldl_kept (fun s c => ?_) _ s
  dsimp only
  split
  · exact ⟨rfl, id⟩
  · exact ⟨rfl, id⟩
  · exact State.kept_diverge s c _ _

@[simp] theorem State.quiet_witnessDone (s : State) (unit thr line : Nat) : (s.witnessDone unit thr line).Quiet s := by
  unfold State.witnessDone
  refine foldl_quiet (fun s c => ?_) _ s
  split <;> simp

@[simp] theorem State.kept_replayTimeout (s : State) (p : Nat) : (s.replayTimeout p).Kept s := by
  unfold State.replayTimeout; split <;> exact ⟨by simp, fun h => by simp [h]⟩

@[simp] theorem State.kept_patch (base : Nat) (k : Key) (ps : List (Nat × List Byte)) (s : State) : (patch base k s ps).Kept s := by
  induction ps generalizing s with
  | nil => exact ⟨rfl, id⟩
  | cons p ps ih => exact (State.kept_writeUnder s k _ _).trans (ih _)

@[simp] theorem State.quiet_answer (s : State) (i : Nat) (n : Nat) (r : Reply) : (s.answer i n r).Quiet s := ⟨rfl, rfl⟩

@[simp] theorem State.quiet_bankAnswer (s : State) (core i : Nat) (r : Reply) : (s.bankAnswer core i r).Quiet s := ⟨rfl, rfl⟩

@[simp] theorem State.kept_applyGlobal (s : State) (r : Req) : (s.applyGlobal r).Kept s := by
  unfold State.applyGlobal
  extract_lets g pa l k src s1 e parts fails poison
  split
  · exact (State.quiet_answer s _ _ _).kept
  · split
    · exact (State.quiet_answer s _ _ _).kept
    · have hs1 : s1.Quiet s := by
        unfold s1
        split <;> exact ⟨rfl, rfl⟩
      have ht := State.quiet_touch s1 k r.cls r.op.allocates (r.op.changes && !fails) pa
      rcases htouch : s1.touch k r.cls r.op.allocates (r.op.changes && !fails) pa with ⟨hit, s2⟩
      rw [htouch] at ht
      have hs2 : s2.Kept s := (hs1.trans ht).kept
      clear_value s1 parts
      clear ht htouch
      dsimp only
      split
      · exact hs2.trans (State.quiet_answer _ _ _ _).kept
      · split
        · exact hs2.trans (State.quiet_answer _ _ _ _).kept
        · split
          · exact hs2.trans (State.quiet_answer _ _ _ _).kept
          · refine hs2.trans (State.Kept.trans ?_ ((State.quiet_notePosts _ r _).trans (State.quiet_answer _ _ _ _)).kept)
            refine State.Kept.trans ?_ ((State.quiet_bumpTag _ l).trans (State.quiet_witnessDone _ _ _ _)).kept
            split
            · exact ⟨rfl, id⟩
            · exact (State.kept_patch pa k parts s2).trans ⟨rfl, id⟩

@[simp] theorem State.kept_serveGlobal (s : State) (r : Req) : (s.serveGlobal r).Kept s := by
  unfold State.serveGlobal
  repeat' split
  all_goals exact ⟨by simp, fun h => by simp [h]⟩

@[simp] theorem State.kept_serveSlot (s : State) (ch : Nat) : (s.serveSlot ch).Kept s := by
  unfold State.serveSlot
  dsimp only
  repeat' split
  all_goals exact ⟨by simp, fun h => by simp [h]⟩

@[simp] theorem State.kept_calendarSlot (s : State) (ch slot : Nat) : (s.calendarSlot ch slot).Kept s := by
  have hearlier : ∀ (l : List Nat) (s : State), (l.foldl State.serveSlot s).Kept s := foldl_kept State.kept_serveSlot
  exact (((State.quiet_ccTo s _).trans (State.quiet_boundaries _)).kept.trans (hearlier _ _)).trans (State.kept_serveSlot _ ch)

@[simp] theorem State.kept_bankWrite (s : State) (core off : Nat) (bs : List Byte) : (s.bankWrite core off bs).Kept s := by
  refine ⟨rfl, fun h => ?_⟩
  have hput : ∀ (l : List Nat) (m : List Host.Cell), Memory.wf m = true →
      Memory.wf (l.foldl (fun m i => memPut (scratchPa core (off + i)) (bs.getD i 0) m) m) = true := by
    intro l
    induction l with
    | nil => exact fun m hm => hm
    | cons i l ih => exact fun m hm => ih _ (memPut_wf _ _ hm)
  exact hput _ s.mem h

@[simp] theorem State.kept_bankPatch (core off : Nat) (ps : List (Nat × List Byte)) (s : State) : (s.bankPatch core off ps).Kept s := by
  induction ps generalizing s with
  | nil => exact ⟨rfl, id⟩
  | cons p ps ih => exact (State.kept_bankWrite s core _ _).trans (ih _)

theorem State.kept_landCount {s s1 : State} {r : Req} {c : Option Nat} {k : Nat} (h : s.landCount r c k = .ok s1) : s1.Kept s := by
  unfold State.landCount at h
  split at h
  · cases h; exact State.kept_wellCount s _ k
  · exact State.kept_wellLand h
  · cases h; exact ⟨rfl, id⟩

@[simp] theorem State.kept_applyBank (s : State) (r : Req) (core off : Nat) : (s.applyBank r core off).Kept s := by
  unfold State.applyBank
  dsimp only
  split
  · split
    · exact ⟨rfl, id⟩
    · split
      · exact (State.quiet_bankAnswer s _ _ _).kept
      · split <;> exact ⟨rfl, id⟩
  · split <;> exact ⟨rfl, id⟩
  · split
    · exact (State.quiet_bankAnswer s _ _ _).kept
    · exact (State.kept_bankPatch core off _ s).trans ⟨rfl, id⟩
  · split
    · next h => exact ((State.kept_bankPatch core off _ s).trans ⟨rfl, id⟩).trans ((State.kept_landCount h).trans ⟨rfl, id⟩)
    · exact (State.kept_bankPatch core off _ s).trans ⟨rfl, id⟩
  · exact (State.kept_applyWell s r _ _).trans ⟨rfl, id⟩
  · split
    · next h => exact (State.kept_wellLand h).trans ⟨rfl, id⟩
    · exact ⟨rfl, id⟩
  · exact ⟨rfl, id⟩
  · exact (State.kept_bankWrite s core off _).trans (by split <;> exact ⟨rfl, id⟩)
  · split
    · exact ⟨rfl, id⟩
    · exact (State.kept_bankPatch core off _ s).trans ⟨rfl, id⟩

@[simp] theorem State.kept_bankOne (s : State) (core : Nat) (i : Nat) : (s.bankOne core i).Kept s := by
  unfold State.bankOne
  repeat' split
  all_goals exact ⟨by simp, fun h => by simp [h]⟩

@[simp] theorem State.kept_bankCycle (s : State) (core : Nat) : (s.bankCycle core).Kept s := by
  have hall : ∀ (l : List Nat) (s : State), (l.foldl (fun s i => s.bankOne core i) s).Kept s := foldl_kept (fun s i => State.kept_bankOne s core i)
  unfold State.bankCycle
  dsimp only
  exact State.Kept.trans (b := (s.passTo _).updCore core _) ⟨rfl, id⟩ (hall _ _)

@[simp] theorem State.kept_bankNow (s : State) (core : Nat) : (s.bankNow core).Kept s := by
  unfold State.bankNow; split <;> exact ⟨by simp, fun h => by simp [h]⟩

@[simp] theorem State.kept_bankAccess (s : State) (core : Nat) : (s.bankAccess core).Kept s := by
  have hwells : ∀ (l : List Nat) (s : State), (l.foldl State.bankNow s).Kept s := foldl_kept State.kept_bankNow
  unfold State.bankAccess
  dsimp only
  exact (State.Kept.trans (b := s.passTo _) ⟨rfl, id⟩ (hwells _ _)).trans (State.kept_bankCycle _ core)

@[simp] theorem State.kept_wellOperation (s : State) (i : Nat) : (s.wellOperation i).Kept s := by
  unfold State.wellOperation
  repeat' split
  all_goals exact ⟨by simp, fun h => by simp [h]⟩

end Sys2Proof.Machine
end


section
/-! PROOFS. What edge streams, the nib and the cells keep of memory and the agenda. -/

namespace Sys2Proof.Machine

@[simp] theorem State.quiet_updEdge (s : State) (n : Nat) (e : EdgeId) (f : EdgeUnit → EdgeUnit) : (s.updEdge n e f).Quiet s := ⟨rfl, rfl⟩

@[simp] theorem State.quiet_flagStream (s : State) (x : Stream) (f : BitVec 8) : (s.flagStream x f).Quiet s := by
  unfold State.flagStream; split <;> simp

@[simp] theorem State.quiet_failStream (s : State) (n : Nat) (e : EdgeId) (x : Stream) (f : Nat × Nat × BitVec 32) :
    (s.failStream n e x f).Quiet s := by
  unfold State.failStream; simp

@[simp] theorem State.quiet_recount (s : State) (n : Nat) (e : EdgeId) (sid : Nat) : (s.recount n e sid).Quiet s := ⟨rfl, rfl⟩

@[simp] theorem State.quiet_headerRead (s : State) (n : Nat) (e : EdgeId) : (s.headerRead n e).Quiet s := by
  unfold State.headerRead
  split
  · exact ⟨rfl, rfl⟩
  · next x _ =>
    extract_lets second y p i
    clear_value second y
    split
    · simp
    · split
      · next h => exact State.quiet_readVa_wait h
      · simp
      · next h =>
        cases State.readVa_ok h
        extract_lets header
        generalize (if second = true then x.fst.hdr else none) = first
        split
        · simp
        · split
          · simp
          · split
            · simp
            · extract_lets total s2
              have hs2 : s2.Quiet s := ⟨rfl, rfl⟩
              clear_value s2
              split
              · exact hs2.trans (State.quiet_recount s2 n e _)
              · exact hs2

@[simp] theorem State.quiet_streamActivate (s : State) (n : Nat) (e : EdgeId) : (s.streamActivate n e).Quiet s := by
  unfold State.streamActivate
  repeat' split
  all_goals simp

@[simp] theorem State.quiet_waveFails (s : State) (n : Nat) (i : Issue) (cause detail pos row col age : Nat) :
    (s.waveFails n i cause detail pos row col age).Quiet s := by
  unfold State.waveFails; split <;> simp

@[simp] theorem State.quiet_pull (s : State) (n : Nat) (e : EdgeId) : (s.pull n e).1.Quiet s := by
  unfold State.pull
  dsimp only
  split <;> exact ⟨rfl, rfl⟩

@[simp] theorem State.quiet_pullAll (e : EdgeId) (ns : List Nat) (s : State) : (s.pullAll e ns).1.Quiet s := by
  induction ns generalizing s with
  | nil => exact ⟨rfl, rfl⟩
  | cons n ns ih => exact (State.quiet_pull s n e).trans (ih _)

@[simp] theorem State.quiet_assign (s : State) (n : Nat) (e : EdgeId) : (s.assign n e).1.Quiet s := by
  unfold State.assign
  split <;> exact ⟨rfl, rfl⟩

@[simp] theorem State.quiet_assignAll (e : EdgeId) (ns : List Nat) (s : State) (a : Nat) : (s.assignAll e a ns).1.Quiet s := by
  induction ns generalizing s a with
  | nil => exact ⟨rfl, rfl⟩
  | cons n ns ih => exact (State.quiet_assign s n e).trans (ih _ _)

@[simp] theorem State.quiet_leaveNib (s : State) (n : Nat) (e : NibEntry) : (s.leaveNib n e).Quiet s := by
  have hpull : ∀ (b : Bool) (s : State) (d : EdgeId) (ns : List Nat), (if b then s.pullAll d ns else (s, [])).1.Quiet s := by
    intro b s d ns
    cases b
    · exact ⟨rfl, rfl⟩
    · exact State.quiet_pullAll d ns s
  have hassign : ∀ (b : Bool) (s : State) (d : EdgeId) (ns : List Nat), (if b then s.assignAll d 0 ns else (s, [])).1.Quiet s := by
    intro b s d ns
    cases b
    · exact ⟨rfl, rfl⟩
    · exact State.quiet_assignAll d ns s 0
  unfold State.leaveNib
  extract_lets g s1 bias beta sel pw pn ce cs
  have hs1 : s1.Quiet s := ⟨rfl, rfl⟩
  split
  · exact hs1.trans (by simp)
  · have hpw : pw.1.Quiet s1 := hpull _ s1 _ _
    have hpn : pn.1.Quiet pw.1 := hpull _ pw.1 _ _
    have hce : ce.1.Quiet pn.1 := hassign _ pn.1 _ _
    have hcs : cs.1.Quiet ce.1 := hassign _ ce.1 _ _
    exact (((hs1.trans hpw).trans hpn).trans hce).trans (hcs.trans ⟨rfl, rfl⟩)

@[simp] theorem State.quiet_nibDeparture (s : State) (n : Nat) : (s.nibDeparture n).Quiet s := by
  unfold State.nibDeparture
  dsimp only
  repeat' split
  all_goals simp

@[simp] theorem State.quiet_setGridCell (s : State) (g : Grid) (r c : Nat) (v : Cell) : (s.setGridCell g r c v).Quiet s := ⟨rfl, rfl⟩

@[simp] theorem State.quiet_capture (s : State) (n : Nat) (e : EdgeId) (cap : Option (Nat × Nat)) (line : Nat) (v : BitVec 256) :
    (s.capture n e cap line v).Quiet s := by
  unfold State.capture; split <;> simp

@[simp] theorem State.quiet_cellStep (s : State) (g : Grid) (w : WaveEntry) (r c : Nat) : (s.cellStep g w r c).1.Quiet s := by
  unfold State.cellStep
  extract_lets pw pn flag s0 cell cause alive run res cap
  have hflag : ∀ (s : State) (west : Bool) (l : Nat) (f : BitVec 8), (flag s west l f).Quiet s := by
    intro s west l f
    unfold flag
    split <;> simp
  have hs0 : s0.Quiet s := (hflag s true r _).trans (hflag _ false c _)
  clear_value s0 res
  split
  extract_lets s1 s2 s3 w'
  have hs1 : s1.Quiet s0 := by
    unfold s1
    split <;> exact ⟨rfl, rfl⟩
  have hs2 : s2.Quiet s1 := by
    unfold s2
    split <;> simp
  have hs3 : s3.Quiet s2 := by
    unfold s3
    split <;> simp
  exact ((hs0.trans hs1).trans hs2).trans hs3

@[simp] theorem State.quiet_cellsStep (g : Grid) (ps : List (Nat × Nat)) (s : State) (w : WaveEntry) : (s.cellsStep g w ps).1.Quiet s := by
  induction ps generalizing s w with
  | nil => exact ⟨rfl, rfl⟩
  | cons p ps ih => exact (State.quiet_cellStep s g w p.1 p.2).trans (ih _ _)

@[simp] theorem State.quiet_entriesStep (g : Grid) (ws : List WaveEntry) (s : State) : (s.entriesStep g ws).1.Quiet s := by
  induction ws generalizing s with
  | nil => exact ⟨rfl, rfl⟩
  | cons w ws ih => exact (State.quiet_cellsStep g _ s w).trans (ih _)

@[simp] theorem State.quiet_waveCycle (s : State) (n : Nat) : (s.waveCycle n).Quiet s := by
  unfold State.waveCycle
  extract_lets g a past s1
  have hs1 : s1.Quiet s := (State.quiet_entriesStep g _ s).trans ⟨rfl, rfl⟩
  split
  · exact hs1
  · exact hs1.trans (State.quiet_waveFails s1 _ _ _ _ _ _ _ _)

@[simp] theorem State.quiet_cellExecute (s : State) (n : Nat) : (s.cellExecute n).Quiet s := by
  unfold State.cellExecute
  repeat' split
  all_goals simp

@[simp] theorem State.quiet_holdDrop (s : State) (n : Nat) : (s.holdDrop n).Quiet s := by
  unfold State.holdDrop; split <;> simp

@[simp] theorem State.quiet_watchHolds (s : State) : s.watchHolds.Quiet s := ⟨rfl, rfl⟩

@[simp] theorem State.quiet_holdLimit (s : State) (n : Nat) : (s.holdLimit n).Quiet s := by
  unfold State.holdLimit
  repeat' split
  all_goals simp

@[simp] theorem State.quiet_aggregateValid (s : State) (n : Nat) : (s.aggregateValid n).Quiet s := by
  unfold State.aggregateValid
  repeat' split
  all_goals simp

end Sys2Proof.Machine
end


section
/-! PROOFS. What copies, the device control space and the host's accesses keep of memory and the agenda. -/

namespace Sys2Proof.Machine

theorem State.quiet_readPieces_wait {s s1 : State} {i : Issue} {p : Nat} {ps : List (Nat × Nat)} (h : s.readPieces i p ps = .wait s1) :
    s1.Quiet s := by
  have hk := State.readPieces_keeps (g := fun s => (s.agenda, s.mem))
    (fun s i p va t n => Prod.ext (State.quiet_askLine s i p va t n).1 (State.quiet_askLine s i p va t n).2) i p ps s
  rw [h] at hk
  exact ⟨congrArg Prod.fst hk, congrArg Prod.snd hk⟩

theorem State.quiet_ringPacket_wait {s s1 : State} {k : QueueKind} {n : Nat} (h : s.ringPacket k n = .wait s1) : s1.Quiet s := by
  unfold State.ringPacket at h
  dsimp only at h
  split at h
  · cases h
  · split at h
    · cases h; simp
    · split at h
      · next hr => cases h; exact State.quiet_readVa_wait hr
      · split at h <;> cases h
        simp
      · next hr =>
        cases State.readVa_ok hr
        split at h
        · split at h <;> cases h
          simp
        · split at h <;> cases h
          simp

theorem State.quiet_bulkLines (c : Copy) (ls : List (Nat × Target)) (s s1 : State) (h : s.bulkLines c ls = .ok s1) : s1.Quiet s := by
  induction ls generalizing s with
  | nil => cases h; exact ⟨rfl, rfl⟩
  | cons x ls ih =>
    rw [State.bulkLines] at h
    dsimp only at h
    split at h
    · cases h
    · split at h
      · split at h <;> cases h
      · split at h
        · exact ih s h
        · split at h
          · exact (ih _ h).trans ⟨rfl, rfl⟩
          · cases h

@[simp] theorem State.quiet_engineRead (s : State) (e : Nat) : (s.engineRead e).Quiet s := by
  unfold State.engineRead
  dsimp only
  repeat' split
  all_goals simp

theorem State.quiet_copyHeader_wait {s s1 : State} {c : Copy} {va : Nat} {b : Bool} (h : s.copyHeader c va b = .wait s1) : s1.Quiet s := by
  unfold State.copyHeader at h
  dsimp only at h
  split at h
  · cases h
  · split at h
    · cases h; exact ⟨rfl, rfl⟩
    · split at h
      · cases h; simp
      · split at h
        · cases h; simp
        · split at h
          · next hr => cases h; exact State.quiet_readVa_wait hr
          · cases h
          · repeat' split at h
            all_goals cases h

theorem State.copyHeader_ok {s s1 : State} {c : Copy} {va : Nat} {b : Bool} {hd : Header} (h : s.copyHeader c va b = .ok s1 hd) : s1 = s := by
  unfold State.copyHeader at h
  dsimp only at h
  split at h
  · cases h
  · split at h
    · cases h
    · split at h
      · cases h
      · split at h
        · cases h
        · split at h
          · cases h
          · cases h
          · next hr =>
            cases State.readVa_ok hr
            repeat' split at h
            all_goals cases h
            all_goals rfl

@[simp] theorem State.quiet_copyPrepare (s : State) (c : Copy) : (s.copyPrepare c).Quiet s := by
  unfold State.copyPrepare
  dsimp only
  split
  · split <;> simp
  · split
    · split <;> simp
    · split
      · split
        · next h => exact State.quiet_copyHeader_wait h
        · simp
        · next h => cases State.copyHeader_ok h; simp
      · split
        · split
          · next h => exact State.quiet_copyHeader_wait h
          · simp
          · next h => cases State.copyHeader_ok h; simp
        · split
          · repeat' split
            all_goals simp
          · repeat' split
            all_goals simp

@[simp] theorem State.quiet_copyPrepareAll (s : State) (i n : Nat) : (s.copyPrepareAll i n).Quiet s := by
  induction n generalizing s with
  | zero => exact ⟨rfl, rfl⟩
  | succ n ih =>
    rw [State.copyPrepareAll]
    split
    · exact ⟨rfl, rfl⟩
    · split
      · exact ⟨rfl, rfl⟩
      · exact (State.quiet_copyPrepare s _).trans (ih _)

@[simp] theorem State.quiet_updCopyQ (s : State) (ch : Nat) (f : Queue → Queue) : (s.updCopyQ ch f).Quiet s := ⟨rfl, rfl⟩

@[simp] theorem State.quiet_copyStart (s : State) (ch : Nat) : (s.copyStart ch).Quiet s := by
  unfold State.copyStart
  dsimp only
  split
  · exact ⟨rfl, rfl⟩
  · split
    · exact ⟨rfl, rfl⟩
    · next h => exact State.quiet_ringPacket_wait h
    · simp
    · next h =>
      cases State.ringPacket_state h
      split <;> simp

@[simp] theorem State.quiet_savedFlags (s : State) (u t : Nat) (o : Owner) (f : BitVec 8) : (s.savedFlags u t o f).Quiet s := by
  unfold State.savedFlags; split <;> simp

@[simp] theorem State.quiet_copyFlags (s : State) (c : Copy) (f : BitVec 8) : (s.copyFlags c f).Quiet s := by
  unfold State.copyFlags
  dsimp only
  repeat' split
  all_goals simp

@[simp] theorem State.quiet_issueUnit (s : State) (c after : Copy) (src dst : Tensor) (m : Snap) (poison : Bool) :
    (s.issueUnit c after src dst m poison).Quiet s := by
  unfold State.issueUnit; simp

@[simp] theorem State.quiet_nextUnit_ (s : State) (c : Copy) : (s.nextUnit_ c).Quiet s := by
  unfold State.nextUnit_
  extract_lets t pl ps begin m h
  have hbegin : ∀ s : State, (begin s).Quiet s := fun s => ⟨rfl, rfl⟩
  split
  · simp
  · split
    · split
      · simp
      · split
        · simp
        · split
          · split
            · exact ⟨rfl, rfl⟩
            · simp
            · next h => exact (State.quiet_bulkLines _ _ _ _ h).trans (hbegin _)
          · exact hbegin s
    · split
      · next h => exact State.quiet_readPieces_wait h
      · simp
      · next h =>
        cases State.readPieces_ok _ _ _ _ _ _ _ h
        dsimp only
        split <;> simp

@[simp] theorem State.quiet_copyUnit (s : State) (ch i : Nat) : (s.copyUnit ch i).Quiet s := by
  unfold State.copyUnit
  split
  · exact ⟨rfl, rfl⟩
  · extract_lets c1 s1
    repeat' split
    all_goals simp [s1]

@[simp] theorem State.quiet_landPiece (s : State) (c : Copy) (l : Landing) (rest : List Landing) : (s.landPiece c l rest).Quiet s := by
  unfold State.landPiece
  dsimp only
  repeat' split
  all_goals simp

@[simp] theorem State.quiet_copyLanding (s : State) (ch i : Nat) : (s.copyLanding ch i).Quiet s := by
  unfold State.copyLanding
  dsimp only
  repeat' split
  all_goals simp

@[simp] theorem State.quiet_copyComplete (s : State) (ch i : Nat) : (s.copyComplete ch i).Quiet s := by
  unfold State.copyComplete
  repeat' split
  all_goals simp

@[simp] theorem State.quiet_routeTableWrite (s : State) (p m : Nat) (v : BitVec 16) : (s.routeTableWrite p m v).Quiet s := by
  unfold State.routeTableWrite; split <;> simp

@[simp] theorem State.kept_registerWrite (s : State) (off : Nat) (v : Word) : (s.registerWrite off v).Kept s := by
  unfold State.registerWrite
  dsimp only
  split
  · exact ⟨rfl, id⟩
  · split
    · exact ⟨rfl, id⟩
    · split
      · exact ⟨rfl, id⟩
      · split
        · exact State.kept_memWrite _ _ _
        · split
          · exact (State.quiet_routeTableWrite s _ _ _).kept
          · exact ⟨rfl, id⟩

@[simp] theorem State.quiet_queueWritten (s : State) (k : QueueKind) (n : Nat) : (s.queueWritten k n).Quiet s := by
  unfold State.queueWritten; split <;> simp

@[simp] theorem State.quiet_queueDescriptorWrite (s : State) (k : QueueKind) (n p : Nat) (v : BitVec 128) :
    (s.queueDescriptorWrite k n p v).Quiet s := by
  unfold State.queueDescriptorWrite
  dsimp only
  repeat' split
  all_goals simp

@[simp] theorem State.kept_controlWrite (s : State) (off : Nat) (bs : List Byte) : (s.controlWrite off bs).Kept s := by
  unfold State.controlWrite
  split
  · split
    · exact (State.quiet_queueDescriptorWrite s _ _ _ _).kept
    · exact ⟨rfl, id⟩
  · exact foldl_kept (fun s i => State.kept_registerWrite s _ _) _ _

@[simp] theorem State.kept_hostPiece (s : State) (k place : Nat) (x : HostPiece) : (s.hostPiece k place x).Kept s := by
  unfold State.hostPiece
  dsimp only
  repeat' split
  all_goals exact ⟨by simp, fun h => by simp [h]⟩

@[simp] theorem State.kept_hostSend (s : State) (k : Nat) : (s.hostSend k).Kept s := by
  unfold State.hostSend
  split
  · exact ⟨rfl, id⟩
  · split
    · exact State.Kept.trans ⟨rfl, id⟩ (foldl_kept (fun s (e : Nat × HostPiece) => State.kept_hostPiece s k e.1 e.2) _ _)
    · exact ⟨rfl, id⟩

@[simp] theorem State.kept_hostPump (s : State) : s.hostPump.Kept s :=
  (foldl_kept State.kept_hostSend _ s).trans ⟨rfl, id⟩

@[simp] theorem State.kept_hostArrive (s : State) (k : HostKind) (ps : List HostPiece) : (s.hostArrive k ps).Kept s := by
  unfold State.hostArrive; exact ⟨by simp, fun h => by simp [h]⟩

@[simp] theorem State.kept_hostAnswer (s : State) (id : Nat) (a : Reply) : (s.hostAnswer id a).Kept s := by
  unfold State.hostAnswer; exact ⟨by simp, fun h => by simp [h]⟩

end Sys2Proof.Machine
end


section
/-! PROOFS. What hashed grids, landings and the reading of launches keep of memory and the agenda. -/

namespace Sys2Proof.Machine

@[simp] theorem State.quiet_updHg (s : State) (i : Nat) (f : HgOp → HgOp) : (s.updHg i f).Quiet s := ⟨rfl, rfl⟩

@[simp] theorem State.quiet_dropHg (s : State) (i : Nat) : (s.dropHg i).Quiet s := ⟨rfl, rfl⟩

@[simp] theorem State.quiet_refillV (s : State) (u t : Nat) (rs : List Nat) : (s.refillV u t rs).Quiet s := ⟨rfl, rfl⟩

@[simp] theorem State.quiet_hgFault (s : State) (h : HgOp) (cause addr : Nat) (status : BitVec 32) :
    (s.hgFault h cause addr status).Quiet s := by
  unfold State.hgFault; simp

@[simp] theorem State.quiet_hgRead (s : State) (h : HgOp) (index va n : Nat) : (s.hgRead h index va n).Quiet s := by
  unfold State.hgRead
  repeat' split
  all_goals simp

@[simp] theorem State.quiet_hgAddOne (s : State) (h : HgOp) (n : Nat) : (s.hgAddOne h n).Quiet s := by
  unfold State.hgAddOne
  dsimp only
  repeat' split
  all_goals simp

@[simp] theorem State.quiet_hgFinishLoad (s : State) (h : HgOp) : (s.hgFinishLoad h).Quiet s := by
  unfold State.hgFinishLoad; split <;> simp

@[simp] theorem State.quiet_hgTables (s : State) (h : HgOp) : (s.hgTables h).Quiet s := by
  unfold State.hgTables
  dsimp only
  split
  · simp
  · split
    · simp
    · split
      · simp
      · split
        · simp
        · split
          · split
            · simp
            · split
              · simp
              · split
                · simp
                · split
                  · simp
                  · exact State.Quiet.trans (State.quiet_updHg s _ _) (foldl_quiet (fun s n => State.quiet_hgAddOne s h n) h.slots _)
          · split
            · simp
            · split
              · simp
              · refine State.Quiet.trans (State.quiet_updHg s _ _) (foldl_quiet (fun s i => ?_) _ _)
                split <;> simp

@[simp] theorem State.quiet_hgLanded (s : State) (op index : Nat) (bs : List Byte) : (s.hgLanded op index bs).Quiet s := by
  unfold State.hgLanded
  dsimp only
  repeat' split
  all_goals simp

@[simp] theorem State.quiet_hgAcked (s : State) (op : Nat) : (s.hgAcked op).Quiet s := by
  unfold State.hgAcked
  repeat' split
  all_goals simp

@[simp] theorem State.quiet_landX (s : State) (i : Issue) (dst : Nat) (v : Word) : (s.landX i dst v).Quiet s := ⟨rfl, rfl⟩

@[simp] theorem State.quiet_landLanes (s : State) (i : Issue) (dst : Nat) (fmt : BitVec 4) (lanes : List (Nat × Nat)) (bs : List Byte) :
    (s.landLanes i dst fmt lanes bs).Quiet s := ⟨rfl, rfl⟩

@[simp] theorem State.quiet_settleV (s : State) (i : Issue) (dst : Nat) : (s.settleV i dst).Quiet s := by
  unfold State.settleV; split <;> simp

@[simp] theorem State.kept_landFill (s : State) (core slot : Nat) (bs : List Byte) : (s.landFill core slot bs).Kept s :=
  ((State.kept_bankNow s core).trans (State.kept_memWrite _ _ _)).trans ⟨rfl, id⟩

@[simp] theorem State.quiet_refill (s : State) (i : Issue) (op : MemOp) : (s.refill i op).Quiet s := by
  unfold State.refill; split <;> simp

@[simp] theorem State.quiet_keep (s : State) (r : Req) (cause : Nat) (status : BitVec 32) (bs : List Byte) (poison : Bool) :
    (s.keep r cause status bs poison).Quiet s := ⟨rfl, rfl⟩

@[simp] theorem State.quiet_updThread (s : State) (u t : Nat) (f : Thread → Thread) : (s.updThread u t f).Quiet s := ⟨rfl, rfl⟩

@[simp] theorem State.kept_landOk (s : State) (r : Req) (a : Reply) : (s.landOk r a).Kept s := by
  unfold State.landOk
  extract_lets i flags
  have hflags : ∀ (s : State) (f : BitVec 8), (flags s f).Kept s := by
    intro s f
    unfold flags
    split
    · exact ⟨rfl, id⟩
    · exact (State.quiet_agentFlags s _ _ _).kept
  clear_value flags
  generalize r.op = op
  cases op <;> cases a
  case amo.old =>
    dsimp only
    split
    · exact (State.quiet_keep s _ _ _ _ _).kept
    · exact State.Kept.trans (State.quiet_updThread s _ _ _).kept (hflags _ _)
  case fill.data => exact State.kept_landFill s _ _ _
  case hgAdd.ack => exact State.Kept.trans ((State.quiet_updThread s _ _ _).trans (State.quiet_hgAcked _ _)).kept (hflags _ _)
  case engine.data | engine.poisoned | engine.old | engine.ack | engine.fail =>
    cases ‹Option Nat› with
    | none => exact ⟨rfl, id⟩
    | some c =>
      dsimp only
      split
      · exact ⟨rfl, id⟩
      · exact State.kept_tellWell s _ _
  all_goals first
    | exact ⟨rfl, id⟩
    | exact State.Kept.trans (State.quiet_updThread s _ _ _).kept (hflags _ _)
    | exact State.Quiet.kept (by simp)

@[simp] theorem State.quiet_writeFails (s : State) (r : Req) (cause : Nat) (status : BitVec 32) : (s.writeFails r cause status).Quiet s := by
  unfold State.writeFails
  dsimp only
  repeat' split
  all_goals simp

@[simp] theorem State.kept_landFail (s : State) (r : Req) (cause : Nat) (status : BitVec 32) : (s.landFail r cause status).Kept s := by
  unfold State.landFail
  dsimp only
  repeat' split
  all_goals exact ⟨by simp, fun h => by simp [h]⟩

@[simp] theorem State.quiet_respond (s : State) (r : Req) (m : Remote) (a : Reply) : (s.respond r m a).Quiet s := by
  unfold State.respond; split <;> simp

@[simp] theorem State.kept_landReq (s : State) (r : Req) (due : Nat) (a : Reply) : (s.landReq r due a).Kept s := by
  unfold State.landReq
  repeat' split
  all_goals exact ⟨by simp, fun h => by simp [h]⟩

@[simp] theorem State.kept_arrive (s : State) (data : Bool) (i : Nat) : (s.arrive data i).Kept s := by
  unfold State.arrive
  repeat' split
  all_goals exact ⟨by simp, fun h => by simp [h]⟩

theorem State.quiet_withBytes {s : State} {p va n : Nat} {bad : Nat → Nat → BitVec 32 → State} {k : State → List Byte → State}
    (hbad : ∀ c a w, (bad c a w).Quiet s) (hk : ∀ bs, (k s bs).Quiet s) : (s.withBytes p va n bad k).Quiet s := by
  unfold State.withBytes
  split
  · next h => exact State.quiet_readVa_wait h
  · exact hbad _ _ _
  · next h =>
    cases State.readVa_ok h
    split
    · exact hbad _ _ _
    · exact hk _

@[simp] theorem State.quiet_updLaunchQ (s : State) (q : Nat) (f : Queue → Queue) : (s.updLaunchQ q f).Quiet s := ⟨rfl, rfl⟩

@[simp] theorem State.quiet_follow (s : State) (l : Launch) : (s.follow l).Quiet s := ⟨rfl, rfl⟩

@[simp] theorem State.quiet_beginBook (s : State) (l : Launch) : (s.beginBook l).Quiet s := by
  unfold State.beginBook; split <;> simp

@[simp] theorem State.quiet_beginReplay (s : State) (l : Launch) : (s.beginReplay l).Quiet s := by
  unfold State.beginReplay; split <;> simp

@[simp] theorem State.quiet_recordDispatch (s : State) (l n : Nat) (cores : List Nat) : (s.recordDispatch l n cores).Quiet s := by
  unfold State.recordDispatch
  repeat' split
  all_goals simp

@[simp] theorem State.quiet_regionBytes (i : Issue) (p : Nat) (rs : List (Nat × Nat)) (s : State) : (s.regionBytes i p rs).1.Quiet s := by
  induction rs generalizing s with
  | nil => exact ⟨rfl, rfl⟩
  | cons x rs ih =>
    rw [State.regionBytes]
    refine State.Quiet.trans ?_ (ih _)
    split
    · next h => exact State.quiet_readVa_wait h
    · exact ⟨rfl, rfl⟩
    · next h => cases State.readVa_ok h; exact ⟨rfl, rfl⟩

@[simp] theorem State.quiet_takeDigests (s : State) (c : Copybook) : (s.takeDigests c).Quiet s := by
  have hr := State.quiet_regionBytes (devIssue c.part 806) c.part c.regions s
  unfold State.takeDigests
  dsimp only
  split
  · next h => rw [h] at hr; exact hr
  · next h => rw [h] at hr; exact hr.trans (by simp)

@[simp] theorem State.quiet_recordDigests (s : State) (l : Nat) : (s.recordDigests l).Quiet s := by
  unfold State.recordDigests; split <;> simp

@[simp] theorem State.quiet_readEnds (s : State) (l : Launch) : (s.readEnds l).Quiet s := by
  unfold State.readEnds; simp

@[simp] theorem State.quiet_endUnbegun (s : State) (l : Launch) (cause addr : Nat) (status : BitVec 32) :
    (s.endUnbegun l cause addr status).Quiet s := by
  unfold State.endUnbegun; split <;> simp

@[simp] theorem State.quiet_noteTriggered (s : State) (l : Nat) : (s.noteTriggered l).Quiet s := ⟨rfl, rfl⟩

@[simp] theorem State.quiet_eligibleNow (s : State) (i : Nat) : (s.eligibleNow i).Quiet s := by
  unfold State.eligibleNow
  repeat' split
  all_goals simp

@[simp] theorem State.quiet_watchDeps (s : State) : s.watchDeps.Quiet s := ⟨rfl, rfl⟩

@[simp] theorem State.quiet_lookEntry (s : State) (i which : Nat) : (s.lookEntry i which).Quiet s := by
  unfold State.lookEntry
  split
  · exact ⟨rfl, rfl⟩
  · extract_lets e met
    split
    · exact ⟨rfl, rfl⟩
    · exact State.quiet_withBytes (fun c a w => State.quiet_endUnbegun s _ _ _ _) (fun bs => by simp)

@[simp] theorem State.quiet_dependencyWrite (s : State) (q : Nat) : (s.dependencyWrite q).Quiet s := by
  unfold State.dependencyWrite; split <;> simp

@[simp] theorem State.quiet_askAhead (s : State) (i : Issue) (p va n : Nat) : (s.askAhead i p va n).Quiet s := by
  unfold State.askAhead
  split
  · next h => exact State.quiet_readVa_wait h
  · exact ⟨rfl, rfl⟩

@[simp] theorem State.quiet_askRecords (s : State) (l : Launch) : (s.askRecords l).Quiet s := by
  unfold State.askRecords
  repeat' split
  all_goals simp

theorem State.quiet_readLoops {s : State} {l : Launch} {k : State → Launch → State} (hk : ∀ l, (k s l).Quiet s) : (s.readLoops l k).Quiet s := by
  unfold State.readLoops
  split
  · exact hk l
  · refine State.quiet_withBytes (fun c a w => State.quiet_endUnbegun s _ _ _ _) (fun bs => ?_)
    split
    · simp
    · exact hk _

theorem State.quiet_readPlace {s : State} {l : Launch} {k : State → Launch → State} (hk : ∀ l, (k s l).Quiet s) : (s.readPlace l k).Quiet s := by
  unfold State.readPlace
  dsimp only
  split
  · exact hk l
  · refine State.quiet_withBytes (fun c a w => State.quiet_endUnbegun s _ _ _ _) (fun hd => ?_)
    split
    · simp
    · refine State.quiet_withBytes (fun c a w => State.quiet_endUnbegun s _ _ _ _) (fun bs => ?_)
      split
      · simp
      · exact hk _

theorem State.quiet_checkDone {s : State} {l : Launch} {k : State → Launch → State} (hk : (k s l).Quiet s) : (s.checkDone l k).Quiet s := by
  unfold State.checkDone
  split
  · exact hk
  · simp

theorem State.quiet_readCode {s : State} {l : Launch} {k : State → Launch → State} (hk : (k s l).Quiet s) : (s.readCode l k).Quiet s := by
  unfold State.readCode
  split
  · next h => exact State.quiet_readVa_wait h
  · exact hk

@[simp] theorem State.quiet_launchPosted (s : State) (q : Nat) : (s.launchPosted q).Quiet s := by
  unfold State.launchPosted
  dsimp only
  split
  · exact ⟨rfl, rfl⟩
  · split
    · exact ⟨rfl, rfl⟩
    · next h => exact State.quiet_ringPacket_wait h
    · simp
    · next h =>
      cases State.ringPacket_state h
      split
      · simp
      · refine State.Quiet.trans (State.quiet_askRecords s _) (State.quiet_readLoops (fun l1 => ?_))
        refine State.quiet_readPlace (fun l2 => ?_)
        refine State.quiet_readCode (State.quiet_checkDone ?_)
        simp

end Sys2Proof.Machine
end


section
/-! PROOFS. What dispatch, the ends of launches and tasks, faults and links keep of memory and the agenda. -/

namespace Sys2Proof.Machine

@[simp] theorem State.quiet_movePointers (s : State) (p : Nat) (can : List (Launch × List Nat)) : (s.movePointers p can).Quiet s := ⟨rfl, rfl⟩

@[simp] theorem State.quiet_watchPointers (s : State) : s.watchPointers.Quiet s := by
  unfold State.watchPointers; simp

@[simp] theorem State.quiet_startCore (s : State) (l : Launch) (g n rank : Nat) (grid : Grid) : (s.startCore l g n rank grid).Quiet s := by
  unfold State.startCore; simp

@[simp] theorem State.quiet_dispatchOn (s : State) (l : Launch) (cores : List Nat) : (s.dispatchOn l cores).Quiet s := by
  unfold State.dispatchOn; split <;> simp

@[simp] theorem State.kept_withdraw (s : State) (l : Launch) (c : Copybook) : (s.withdraw l c).Kept s := by
  unfold State.withdraw; exact ⟨by simp, fun h => by simp [h]⟩

@[simp] theorem State.quiet_trigger (s : State) (u t : Nat) : (s.trigger u t).Quiet s := by
  unfold State.trigger
  repeat' split
  all_goals simp

@[simp] theorem State.quiet_firmware (s : State) (u : Nat) : (s.firmware u).Quiet s := by
  unfold State.firmware
  dsimp only
  repeat' split
  all_goals simp

@[simp] theorem State.quiet_dropFetches (s : State) (u : Nat) (ts : List Nat) : (s.dropFetches u ts).Quiet s := ⟨rfl, rfl⟩

@[simp] theorem State.quiet_clearThreads (s : State) (u : Nat) (ts : List Nat) : (s.clearThreads u ts).Quiet s := by
  unfold State.clearThreads; simp

@[simp] theorem State.quiet_gangEnd (s : State) (g : Gang) : (s.gangEnd g).Quiet s := by
  unfold State.gangEnd; split <;> simp

@[simp] theorem State.quiet_gangMayEnd (s : State) (i : Nat) : (s.gangMayEnd i).Quiet s := by
  unfold State.gangMayEnd
  repeat' split
  all_goals simp

@[simp] theorem State.quiet_taskEnds (s : State) (i ecode : Nat) (flags : BitVec 8) : (s.taskEnds i ecode flags).Quiet s := ⟨rfl, rfl⟩

@[simp] theorem State.quiet_reportTask (s : State) (k : Task) : (s.reportTask k).Quiet s := by
  unfold State.reportTask
  repeat' split
  all_goals simp

@[simp] theorem State.quiet_reportTasks (s : State) : s.reportTasks.Quiet s := by
  unfold State.reportTasks; simp

@[simp] theorem State.quiet_taskMayEnd (s : State) (i : Nat) : (s.taskMayEnd i).Quiet s := by
  unfold State.taskMayEnd
  repeat' split
  all_goals simp

@[simp] theorem State.quiet_implicitDrops (s : State) (u t : Nat) (g : Gang) : (s.implicitDrops u t g).Quiet s := by
  have hfold : ∀ (i : Issue) (me : Nat) (ws : List Nat) (a : State × List Nat),
      (ws.foldl (fun (a : State × List Nat) w =>
        (a.1.submit { lineReq a.1 i g.part w 128 ⟨a.1.home + w, 0, 0⟩ (.well (.drop true) me) with after := a.2 }, [a.1.nextId])) a).1.Quiet a.1 := by
    intro i me ws
    induction ws with
    | nil => exact fun a => ⟨rfl, rfl⟩
    | cons w ws ih => exact fun a => (State.quiet_submit a.1 _).trans (ih _)
  exact hfold _ _ _ _

@[simp] theorem State.quiet_threadEnded (s : State) (u t : Nat) : (s.threadEnded u t).Quiet s := by
  unfold State.threadEnded
  repeat' split
  all_goals simp

@[simp] theorem State.quiet_threadEnd (s : State) (u t : Nat) : (s.threadEnd u t).Quiet s := by
  unfold State.threadEnd
  dsimp only
  repeat' split
  all_goals simp

@[simp] theorem State.quiet_settleCycle (s : State) (p : Nat) : (s.settleCycle p).Quiet s := by
  unfold State.settleCycle
  extract_lets us s1 s2
  have h1 : s1.Quiet s := foldl_quiet (fun s u => foldl_quiet (fun s t => State.quiet_trigger s u t) _ s) _ _
  have h2 : s2.Quiet s1 := foldl_quiet (fun s u => foldl_quiet (fun s t => State.quiet_threadEnd s u t) _ s) _ _
  have h3 : s2.watchDeps.Quiet s2 := State.quiet_watchDeps s2
  refine ((h1.trans h2).trans h3).trans (foldl_quiet (fun s q => ?_) _ _)
  split <;> simp

theorem State.kept_dispatchChoice {s s1 : State} {p : Nat} (h : s.dispatchChoice p = some s1) : s1.Kept s := by
  unfold State.dispatchChoice at h
  dsimp only at h
  split at h
  · cases h
  · split at h
    · cases h
    · split at h
      · cases h
        exact State.Kept.trans (State.quiet_movePointers s _ _).kept (State.kept_withdraw _ _ _)
      · cases h
        exact State.Quiet.kept (by simp)

@[simp] theorem State.kept_dispatch (s0 : State) (p : Nat) : (s0.dispatch p).Kept s0 := by
  unfold State.dispatch
  extract_lets s s1
  have hs : s.Quiet s0 := foldl_quiet State.quiet_takeDigests _ _
  have h1 : s1.Quiet s := by
    unfold s1
    split <;> simp
  cases hc : (s1.settleCycle p).dispatchChoice p with
  | none => exact hs.kept
  | some t => exact ((hs.trans h1).trans (State.quiet_settleCycle s1 p)).kept.trans (State.kept_dispatchChoice hc)

@[simp] theorem State.quiet_writeRecord (s : State) (l : Launch) : (s.writeRecord l).Quiet s := by
  unfold State.writeRecord; split <;> simp

@[simp] theorem State.kept_closeBooks (s : State) (l : Launch) : (s.closeBooks l).Kept s := by
  unfold State.closeBooks
  dsimp only
  repeat' split
  all_goals exact ⟨by simp, fun h => by simp [h]⟩

@[simp] theorem State.kept_launchDone (s : State) (l : Launch) : (s.launchDone l).Kept s := by
  unfold State.launchDone; split <;> exact ⟨by simp, fun h => by simp [h]⟩

@[simp] theorem State.kept_completionRecord (s : State) (i : Nat) : (s.completionRecord i).Kept s := by
  unfold State.completionRecord
  dsimp only
  repeat' split
  all_goals exact ⟨by simp, fun h => by simp [h]⟩

@[simp] theorem State.quiet_eventTrap (s : State) (n : Nat) (t : Stroke) (j : Nat) (p : BitVec 32) : (s.eventTrap n t j p).Quiet s := ⟨rfl, rfl⟩

@[simp] theorem State.quiet_strokeStep (s : State) (n : Nat) : (s.strokeStep n).Quiet s := by
  unfold State.strokeStep
  dsimp only
  repeat' split
  all_goals simp

@[simp] theorem State.quiet_updTaskQ (s : State) (q : Nat) (f : Queue → Queue) : (s.updTaskQ q f).Quiet s := ⟨rfl, rfl⟩

@[simp] theorem State.quiet_taskStat (s : State) (i : Nat) : (s.taskStat i).Quiet s := by
  unfold State.taskStat
  repeat' split
  all_goals simp

@[simp] theorem State.quiet_beginTask (s : State) (q : Nat) (k : Queue) (o : Option Origin) (pkt : List Byte) (ts : List Nat) :
    (s.beginTask q k o pkt ts).Quiet s := by
  unfold State.beginTask; simp

@[simp] theorem State.quiet_taskRefused (s : State) (q : Nat) (k : Queue) (o : Option Origin) (pkt : List Byte) (cause detail : Nat) :
    (s.taskRefused q k o pkt cause detail).Quiet s := by
  unfold State.taskRefused
  dsimp only
  repeat' split
  all_goals simp

@[simp] theorem State.quiet_taskStart (s : State) (q : Nat) : (s.taskStart q).Quiet s := by
  unfold State.taskStart
  dsimp only
  split
  · exact ⟨rfl, rfl⟩
  · split
    · exact ⟨rfl, rfl⟩
    · next h => exact State.quiet_ringPacket_wait h
    · simp
    · next h =>
      cases State.ringPacket_state h
      split
      · simp
      · split
        · simp
        · split <;> simp

@[simp] theorem State.quiet_faultQueueWrite (s : State) (p : Nat) : (s.faultQueueWrite p).Quiet s := by
  unfold State.faultQueueWrite
  dsimp only
  repeat' split
  all_goals simp

@[simp] theorem State.quiet_freeEntry (s : State) (e : QueueEntry) : (s.freeEntry e).Quiet s := by
  unfold State.freeEntry; simp

@[simp] theorem State.quiet_abort (s : State) (e : QueueEntry) : (s.abort e).Quiet s := by
  unfold State.abort
  repeat' split
  all_goals simp

@[simp] theorem State.quiet_watchActs (s : State) : s.watchActs.Quiet s := ⟨rfl, rfl⟩

@[simp] theorem State.quiet_actWrite (s : State) (p i : Nat) : (s.actWrite p i).Quiet s := by
  unfold State.actWrite
  dsimp only
  repeat' split
  all_goals simp

@[simp] theorem State.quiet_resumeUnit (s : State) (e : QueueEntry) : (s.resumeUnit e).Quiet s := by
  unfold State.resumeUnit
  dsimp only
  repeat' split
  all_goals simp

@[simp] theorem State.quiet_resumeEntry (s : State) (p : Nat) : (s.resumeEntry p).Quiet s := by
  unfold State.resumeEntry
  dsimp only
  repeat' split
  all_goals simp

@[simp] theorem State.quiet_stopThread (s : State) (u t : Nat) : (s.stopThread u t).Quiet s := by
  unfold State.stopThread; simp

@[simp] theorem State.quiet_dropRuns (s : State) (u t : Nat) : (s.dropRuns u t).Quiet s := ⟨rfl, rfl⟩

@[simp] theorem State.quiet_cutGang (s : State) (g : Gang) : (s.cutGang g).Quiet s := by
  unfold State.cutGang; simp

@[simp] theorem State.quiet_closeGang (s : State) (g : Gang) : (s.closeGang g).Quiet s := by
  refine foldl_quiet (fun s n => ?_) _ _
  split <;> simp

@[simp] theorem State.quiet_freeCores (s : State) (g : Gang) : (s.freeCores g).Quiet s := by
  unfold State.freeCores; simp

@[simp] theorem State.quiet_endGang (s : State) (g : Gang) : (s.endGang g).Quiet s := by
  unfold State.endGang; dsimp only; split <;> simp

@[simp] theorem State.quiet_endTask (s : State) (k : Task) : (s.endTask k).Quiet s := by
  unfold State.endTask; simp

@[simp] theorem State.quiet_endCopies (s : State) (l : Nat) : (s.endCopies l).Quiet s := ⟨rfl, rfl⟩

@[simp] theorem State.quiet_endLaunch (s : State) (l : Launch) : (s.endLaunch l).Quiet s := by
  unfold State.endLaunch; simp

@[simp] theorem State.quiet_launchEnd (s : State) (p : Nat) : (s.launchEnd p).Quiet s := by
  unfold State.launchEnd; simp

@[simp] theorem State.quiet_sleepExpiry (s : State) (u t : Nat) : (s.sleepExpiry u t).Quiet s := by
  unfold State.sleepExpiry; split <;> simp

@[simp] theorem State.quiet_hostAbort (s : State) : s.hostAbort.Quiet s := ⟨rfl, rfl⟩

@[simp] theorem State.kept_hostWindowAccess (s : State) (o : HostAddr) (a : HostOp) : (s.hostWindowAccess o a).Kept s := by
  unfold State.hostWindowAccess
  repeat' split
  all_goals exact ⟨by simp, fun h => by simp [h]⟩

@[simp] theorem State.kept_hostAtomicop (s : State) (o : HostAddr) (k : HostAtomic) (wide : Bool) (v cmp : Word) :
    (s.hostAtomicop o k wide v cmp).Kept s := by
  unfold State.hostAtomicop
  dsimp only
  repeat' split
  all_goals exact ⟨by simp, fun h => by simp [h]⟩

@[simp] theorem State.quiet_refuse (s : State) (port : Nat) (p : Option Nat) (f : Flit) : (s.refuse port p f).Quiet s := ⟨rfl, rfl⟩

@[simp] theorem State.quiet_enterFlit (s : State) (port p : Nat) (f : Flit) : (s.enterFlit port p f).Quiet s := ⟨rfl, rfl⟩

@[simp] theorem State.quiet_takeResponse (s : State) (f : Flit) : (s.takeResponse f).Quiet s := by
  unfold State.takeResponse; split <;> simp

@[simp] theorem State.quiet_acceptFlit (s : State) (port p : Nat) (f : Flit) : (s.acceptFlit port p f).Quiet s := by
  unfold State.acceptFlit
  repeat' split
  all_goals simp

@[simp] theorem State.quiet_recordFlit (s : State) (port p : Nat) (f : Flit) : (s.recordFlit port p f).Quiet s := by
  refine foldl_quiet (fun s c => ?_) _ _
  split <;> simp

@[simp] theorem State.quiet_countFlit (s : State) (port : Nat) : (s.countFlit port).Quiet s := ⟨rfl, rfl⟩

@[simp] theorem State.quiet_localFlit (s : State) (port p : Nat) (f : Flit) : (s.localFlit port p f).Quiet s := by
  unfold State.localFlit; split <;> simp

@[simp] theorem State.quiet_flitReceive (s : State) (port : Nat) (f : Flit) : (s.flitReceive port f).Quiet s := by
  unfold State.flitReceive
  dsimp only
  repeat' split
  all_goals simp

@[simp] theorem State.quiet_portDown (s : State) (port : Nat) : (s.portDown port).Quiet s := ⟨rfl, rfl⟩

@[simp] theorem State.quiet_phyReset (s : State) (port : Nat) : (s.phyReset port).Quiet s := ⟨rfl, rfl⟩

@[simp] theorem State.quiet_responseTimeout (s : State) (i : Nat) : (s.responseTimeout i).Quiet s := by
  unfold State.responseTimeout
  repeat' split
  all_goals simp

@[simp] theorem State.quiet_measurementRequest (s : State) (i : Nat) : (s.measurementRequest i).Quiet s := ⟨rfl, rfl⟩

@[simp] theorem State.quiet_keyDelivery (s : State) (k : KeyMsg) : (s.keyDelivery k).Quiet s := by
  unfold State.keyDelivery
  repeat' split
  all_goals simp

theorem State.kept_commandStep {s : State} {op : Nat} {run : State → Nat → List Byte → State} (h : ∀ p bs, (run s p bs).Kept s) :
    (s.commandStep op run).Kept s := by
  unfold State.commandStep
  split
  · exact ⟨rfl, id⟩
  · split
    · exact State.kept_finishCommand s _ _
    · split
      · exact ⟨rfl, id⟩
      · split
        · exact State.kept_finishCommand s _ _
        · exact h _ _

@[simp] theorem State.quiet_start (s : State) (op p arg : Nat) (gangs : List Nat) : (s.start op p arg gangs).Quiet s := ⟨rfl, rfl⟩

@[simp] theorem State.kept_complete (s : State) (ecode : Nat) : (s.complete ecode).Kept s := by
  unfold State.complete; exact ⟨by simp, fun h => by simp [h]⟩

end Sys2Proof.Machine
end


section
/-! PROOFS. What commands, contexts, islands and reset keep of memory and the agenda. -/

namespace Sys2Proof.Machine

@[simp] theorem State.kept_commandEnds (s : State) (p ecode : Nat) : (s.commandEnds p ecode).Kept s := by
  unfold State.commandEnds; exact ⟨by simp, fun h => by simp [h]⟩

theorem State.kept_withRanges {s : State} {p : Nat} {rs : List (Nat × Nat)} {k : State → List Byte → State} (h : ∀ bs, (k s bs).Kept s) :
    (s.withRanges p rs k).Kept s := by
  unfold State.withRanges
  split
  · next hr => exact (State.quiet_readPieces_wait hr).kept
  · exact State.kept_commandEnds s _ _
  · next hr =>
    cases State.readPieces_ok _ _ _ _ _ _ _ hr
    split
    · exact State.kept_commandEnds s _ _
    · exact h _

@[simp] theorem State.kept_zeroCores (s : State) (ns : List Nat) : (s.zeroCores ns).Kept s := ⟨rfl, fun h => s.zeroCores_wf h ns⟩

@[simp] theorem State.quiet_freshLines (s : State) (blocks : BitVec 8) : (s.freshLines blocks).Quiet s := ⟨rfl, rfl⟩

@[simp] theorem State.quiet_dropInbox (s : State) (p : Nat) (blocks : BitVec 8) : (s.dropInbox p blocks).Quiet s := ⟨rfl, rfl⟩

@[simp] theorem State.kept_freshSlices (s : State) (blocks : BitVec 8) : (s.freshSlices blocks).Kept s :=
  State.Kept.trans (foldl_kept State.kept_discard _ s) ⟨rfl, id⟩

@[simp] theorem State.quiet_setCalendars (s : State) (blocks : BitVec 8) (new : Calendar) : (s.setCalendars blocks new).Quiet s := by
  unfold State.setCalendars; simp

@[simp] theorem State.quiet_writeLatmap (s : State) (p latva : Nat) : (s.writeLatmap p latva).Quiet s := by
  unfold State.writeLatmap
  split
  · exact ⟨rfl, rfl⟩
  · exact foldl_quiet (fun s u => State.quiet_postPieces _ _ _ _ _ _ _) _ _

@[simp] theorem State.kept_created (s : State) (p : Nat) (bs : List Byte) : (s.created p bs).Kept s := by
  unfold State.created; exact ⟨by simp, fun h => by simp [h]⟩

@[simp] theorem State.kept_pcreate (s : State) (p : Nat) (bs : List Byte) : (s.pcreate p bs).Kept s := by
  unfold State.pcreate
  dsimp only
  repeat' split
  all_goals exact ⟨by simp, fun h => by simp [h]⟩

@[simp] theorem State.quiet_endWith (s : State) (l : Launch) (cause : Nat) : (s.endWith l cause).Quiet s := by
  unfold State.endWith; split <;> simp

@[simp] theorem State.quiet_endPartition (s : State) (p : Nat) : (s.endPartition p).Quiet s := by
  unfold State.endPartition; simp

@[simp] theorem State.kept_clearPartition (s : State) (p : Nat) : (s.clearPartition p).Kept s := by
  unfold State.clearPartition; exact ⟨by simp, fun h => by simp [h]⟩

@[simp] theorem State.kept_pdestroy (s : State) (p : Nat) : (s.pdestroy p).Kept s := by
  unfold State.pdestroy
  repeat' split
  all_goals exact ⟨by simp, fun h => by simp [h]⟩

@[simp] theorem State.kept_setcal (s : State) (p : Nat) : (s.setcal p).Kept s := by
  unfold State.setcal
  repeat' split
  all_goals exact ⟨by simp, fun h => by simp [h]⟩

@[simp] theorem State.kept_layoutTakesEffect (s : State) (p : Nat) : (s.layoutTakesEffect p).Kept s := by
  unfold State.layoutTakesEffect
  dsimp only
  repeat' split
  all_goals exact ⟨by simp, fun h => by simp [h]⟩

@[simp] theorem State.kept_setres (s : State) (p : Nat) (bs : List Byte) : (s.setres p bs).Kept s := by
  unfold State.setres; exact ⟨by simp, fun h => by simp [h]⟩

@[simp] theorem State.kept_shoot (s : State) (p : Nat) (bs : List Byte) : (s.shoot p bs).Kept s := by
  unfold State.shoot; dsimp only; split <;> exact ⟨by simp, fun h => by simp [h]⟩

@[simp] theorem State.kept_switchOut (s : State) (p : Nat) (bs : List Byte) : (s.switchOut p bs).Kept s := by
  unfold State.switchOut
  repeat' split
  all_goals exact ⟨by simp, fun h => by simp [h]⟩

@[simp] theorem State.quiet_saveMemory (s : State) (p n base : Nat) : (s.saveMemory p n base).Quiet s := by
  unfold State.saveMemory; simp

@[simp] theorem State.quiet_saveContext (s : State) (p n base : Nat) : (s.saveContext p n base).Quiet s := by
  unfold State.saveContext; simp

@[simp] theorem State.quiet_flagsSaved (s : State) (n : Nat) : (s.flagsSaved n).Quiet s := by
  unfold State.flagsSaved; simp

@[simp] theorem State.quiet_evictCore (s : State) (g : Gang) (n base : Nat) : (s.evictCore g n base).Quiet s := by
  unfold State.evictCore; simp

@[simp] theorem State.quiet_gangSaved (s : State) (g : Gang) (evict : Bool) : (s.gangSaved g evict).Quiet s := by
  unfold State.gangSaved; split <;> simp

@[simp] theorem State.quiet_contextSave (s : State) (n : Nat) : (s.contextSave n).Quiet s := by
  unfold State.contextSave
  repeat' split
  all_goals simp

@[simp] theorem State.quiet_restoreStroke (s : State) (g : Gang) (n : Nat) (bs : List Byte) : (s.restoreStroke g n bs).Quiet s := by
  unfold State.restoreStroke
  dsimp only
  repeat' split
  all_goals simp

@[simp] theorem State.quiet_restoreContext (s : State) (g : Gang) (n : Nat) (area : List Byte) : (s.restoreContext g n area).Quiet s := by
  unfold State.restoreContext
  extract_lets seq cs s1
  have h1 : s1.Quiet s := by
    refine foldl_quiet (fun s t => ?_) _ _
    split <;> simp
  refine h1.trans (State.Quiet.trans ?_ (State.quiet_restoreStroke _ _ _ _))
  simp

@[simp] theorem State.kept_restoreCore (s : State) (g : Gang) (c : SavedCore) (area : List Byte) : (s.restoreCore g c area).Kept s :=
  ⟨rfl, fun h => memWrite_wf _ _ (memClear_wf _ _ h)⟩

@[simp] theorem State.kept_restoreGang (s : State) (g : Gang) (bs : List Byte) : (s.restoreGang g bs).Kept s := by
  unfold State.restoreGang
  extract_lets area cs s1 s2
  have h1 : s1.Kept s := State.Kept.trans ⟨rfl, id⟩ (foldl_kept (fun s (c : SavedCore) => State.kept_restoreCore s g c _) _ _)
  have h2 : s2.Kept s1 := State.Quiet.kept (by simp [s2])
  exact (h1.trans h2).trans (State.Quiet.kept (foldl_quiet (fun s k => State.quiet_restoreContext s g _ _) _ _))

theorem foldl_fst_kept {α β : Type} {f : State × β → α → State × β} (h : ∀ a x, (f a x).1.Kept a.1) (l : List α) (a : State × β) :
    (l.foldl f a).1.Kept a.1 := by
  induction l generalizing a with
  | nil => exact ⟨rfl, id⟩
  | cons x l ih => exact (h a x).trans (ih _)

@[simp] theorem State.kept_resumeGangs (s : State) (p : Nat) (bs : List Byte) : (s.resumeGangs p bs).Kept s := by
  unfold State.resumeGangs
  split
  · exact State.kept_commandEnds s _ _
  · dsimp only
    split
    · exact State.kept_commandEnds s _ _
    · split
      · refine State.kept_withRanges (fun bs => State.Kept.trans ?_ (State.kept_commandEnds _ _ _))
        exact foldl_fst_kept (fun a (g : Gang) => State.kept_restoreGang a.1 g a.2) _ (s, bs)
      · exact ⟨rfl, id⟩

@[simp] theorem State.kept_repairCore (s : State) (n : Nat) : (s.repairCore n).Kept s := by
  unfold State.repairCore; dsimp only; split <;> exact ⟨by simp, fun h => by simp [h]⟩

@[simp] theorem State.kept_repair (s : State) (p : Nat) (bs : List Byte) : (s.repair p bs).Kept s := by
  unfold State.repair
  dsimp only
  repeat' split
  all_goals exact ⟨by simp, fun h => by simp [h]⟩

@[simp] theorem State.kept_keydrop (s : State) (p : Nat) (bs : List Byte) : (s.keydrop p bs).Kept s := by
  unfold State.keydrop; dsimp only; split <;> exact ⟨by simp, fun h => by simp [h]⟩

@[simp] theorem State.kept_record (s : State) (p : Nat) (bs : List Byte) : (s.record p bs).Kept s := by
  unfold State.record
  dsimp only
  split
  · exact State.kept_commandEnds s _ _
  · refine State.kept_withRanges (fun h => ?_)
    split
    · exact State.kept_commandEnds s _ _
    · exact State.kept_withRanges (fun es => State.Kept.trans ⟨rfl, id⟩ (State.kept_commandEnds _ _ _))

@[simp] theorem State.kept_replayClaim (s : State) (q : Queue) (c : Copybook) : (s.replayClaim q c).Kept s := by
  unfold State.replayClaim; split <;> exact ⟨by simp, fun h => by simp [h]⟩

@[simp] theorem State.kept_replayPost (s : State) (q : Queue) (c : Copybook) (pkt : List Byte) : (s.replayPost q c pkt).Kept s := by
  unfold State.replayPost
  dsimp only
  repeat' split
  all_goals exact ⟨by simp, fun h => by simp [h]⟩

@[simp] theorem State.kept_replay (s : State) (p : Nat) (bs : List Byte) : (s.replay p bs).Kept s := by
  unfold State.replay
  extract_lets n base q
  split
  · split
    · exact ⟨rfl, id⟩
    · exact State.kept_withRanges (fun pkt => State.kept_replayPost s _ _ _)
  · split
    · exact ⟨rfl, id⟩
    · split
      · exact State.kept_commandEnds s _ _
      · refine State.kept_withRanges (fun h => ?_)
        split
        · exact State.kept_commandEnds s _ _
        · exact State.kept_withRanges (fun rs => State.kept_replayClaim s _ _)

@[simp] theorem State.quiet_switchBank (s : State) (img : List Byte) (i : Nat) : (s.switchBank img i).Quiet s := by
  unfold State.switchBank
  repeat' split
  all_goals simp

@[simp] theorem State.kept_update (s : State) (p : Nat) (bs : List Byte) : (s.update p bs).Kept s := by
  unfold State.update
  dsimp only
  split
  · refine State.kept_withRanges (fun img => ?_)
    have hload : ∀ (f : Nat → Island → Island) (is : List Nat), (is.foldl (fun s i => s.updIsland i (f i)) s).Quiet s :=
      fun f is => foldl_quiet (fun s i => by simp) is s
    split
    · exact State.Quiet.kept (by simp)
    · exact (hload _ _).kept.trans (State.kept_commandEnds _ _ _)
  · split
    · exact State.Kept.trans (State.Quiet.kept (foldl_quiet (fun s i => State.quiet_switchBank s _ i) _ _)) (State.kept_complete _ _)
    · exact ⟨rfl, id⟩

@[simp] theorem State.quiet_bootSpare (s : State) (b : Nat) : (s.bootSpare b).Quiet s := by
  unfold State.bootSpare
  repeat' split
  all_goals simp

theorem State.kept_resetFrom (s : State) : s.resetFrom.Kept s := ⟨rfl, fun h => filter_wf _ h⟩

theorem State.quiet_of_spareless {t d : State} (h : t.spareless = d.spareless) : t.Quiet d :=
  ⟨(congrArg State.agenda h :), (congrArg State.mem h :)⟩

@[simp] theorem State.kept_moduleReset (s : State) : s.moduleReset.Kept s := by
  have hd : ((List.range 64).foldl State.discard s).Kept s := foldl_kept State.kept_discard _ s
  exact (hd.trans (State.kept_resetFrom _)).trans (State.quiet_of_spareless s.moduleReset_spareless).kept

@[simp] theorem State.quiet_blotterSwap (s : State) (i : Nat) : (s.blotterSwap i).Quiet s := ⟨rfl, rfl⟩

@[simp] theorem State.quiet_bulkReservation (s : State) (ch : Nat) : (s.bulkReservation ch).Quiet s := ⟨rfl, rfl⟩

@[simp] theorem State.quiet_openBankRefresh (s : State) (ch : Nat) : (s.openBankRefresh ch).Quiet s := ⟨rfl, rfl⟩

@[simp] theorem State.quiet_scrub (s : State) (line : Nat) : (s.scrub line).Quiet s := by
  unfold State.scrub; split <;> simp

@[simp] theorem State.quiet_phyRecalibration (s : State) (ch : Nat) (ok : Bool) : (s.phyRecalibration ch ok).Quiet s := ⟨rfl, rfl⟩

@[simp] theorem State.kept_loseSlice (s : State) (i : Nat) : (s.loseSlice i).Kept s := by
  unfold State.loseSlice; exact ⟨by simp, fun h => by simp [h]⟩

@[simp] theorem State.kept_selfCheckFailure (s : State) (u : LostUnit) : (s.selfCheckFailure u).Kept s := by
  unfold State.selfCheckFailure; split <;> exact ⟨by simp, fun h => by simp [h]⟩

@[simp] theorem State.quiet_count (s : State) : s.count.Quiet s := ⟨rfl, rfl⟩

@[simp] theorem State.quiet_softError (s : State) (k : SoftTarget) (double : Bool) : (s.softError k double).Quiet s := by
  unfold State.softError
  dsimp only
  repeat' split
  all_goals simp

@[simp] theorem State.quiet_pageWalk (s : State) (u va : Nat) : (s.pageWalk u va).Quiet s := by
  unfold State.pageWalk
  split
  · exact ⟨rfl, rfl⟩
  · unfold State.walkInto
    dsimp only
    split
    · simp
    · exact State.Quiet.trans (foldl_quiet (fun s pa => State.quiet_touch s _ _ _ _ _) _ _) (State.quiet_holdPage _ _ _)

@[simp] theorem State.quiet_dropWaves (s : State) (ns : List Nat) : (s.dropWaves ns).Quiet s := by
  unfold State.dropWaves; simp

@[simp] theorem State.quiet_stopCores (s : State) (i : Nat) : (s.stopCores i).Quiet s := by
  unfold State.stopCores; simp

@[simp] theorem State.kept_stopQuills (s : State) (b : Nat) : (s.stopQuills b).Kept s := by
  unfold State.stopQuills
  extract_lets s1 s2 ends s3 s4
  have h1 : s1.Kept s := foldl_kept State.kept_loseSlice _ s
  have h2 : s2.Quiet s1 := foldl_quiet (fun s c => by simp) _ _
  have h3 : s3.Quiet s2 := foldl_quiet (fun s l => State.quiet_endWith s l _) _ _
  have h4 : s4.Quiet s3 := foldl_quiet (fun s (k : Task) => State.quiet_failTask s k.id _) _ _
  clear_value s1 s2 ends s3 s4
  exact (h1.trans ((h2.trans h3).trans h4).kept).trans ⟨rfl, id⟩

@[simp] theorem State.quiet_stopLinks (s : State) (b : Nat) : (s.stopLinks b).Quiet s := by
  unfold State.stopLinks; simp

@[simp] theorem State.kept_stopIsland (s : State) (i : Nat) : (s.stopIsland i).Kept s := by
  unfold State.stopIsland
  repeat' split
  all_goals exact ⟨by simp, fun h => by simp [h]⟩

@[simp] theorem State.kept_rhotonSample (s : State) (i : Nat) (low : Bool) (temp watts : Nat) : (s.rhotonSample i low temp watts).Kept s := by
  unfold State.rhotonSample
  repeat' split
  all_goals exact ⟨by simp, fun h => by simp [h]⟩

@[simp] theorem State.quiet_clockChange (s : State) (i mhz millivolts : Nat) : (s.clockChange i mhz millivolts).Quiet s := by
  unfold State.clockChange
  dsimp only
  repeat' split
  all_goals simp

@[simp] theorem State.kept_islandRestart (s : State) (i : Nat) : (s.islandRestart i).Kept s := by
  unfold State.islandRestart
  repeat' split
  all_goals exact ⟨by simp, fun h => by simp [h]⟩

@[simp] theorem State.quiet_fillGranule (s : State) (i : Issue) (after : List Nat) (f : Fill) : (s.fillGranule i after f).Quiet s := by
  unfold State.fillGranule; simp

@[simp] theorem State.quiet_fillAll (s : State) (i : Issue) (stash : Bool) (fs : List Fill) : (s.fillAll i stash fs).Quiet s := by
  unfold State.fillAll; split <;> simp

end Sys2Proof.Machine
end


section
/-! PROOFS. What edge writers and fetches keep of memory and the agenda. -/

namespace Sys2Proof.Machine

@[simp] theorem State.quiet_writeGroup (s : State) (n : Nat) (e : EdgeId) (x : Stream) (h : Header) (vs : List (BitVec 256)) :
    (s.writeGroup n e x h vs).Quiet s := by
  unfold State.writeGroup; simp

@[simp] theorem State.quiet_freeBlocks (bs : List (Nat × Nat)) (s : State) (y : StreamEnd) : (s.freeBlocks y bs).1.Quiet s := by
  induction bs generalizing s y with
  | nil => exact ⟨rfl, rfl⟩
  | cons b bs ih =>
    rw [State.freeBlocks]
    exact State.Quiet.trans ⟨rfl, rfl⟩ (ih _ _)

@[simp] theorem State.quiet_writeCompressed (s : State) (n : Nat) (e : EdgeId) (x : Stream) (pfmt : BitVec 4) (y : StreamEnd) :
    (s.writeCompressed n e x pfmt y).1.Quiet s := by
  unfold State.writeCompressed
  split
  · exact ⟨rfl, rfl⟩
  · dsimp only
    split
    · next h => exact State.Quiet.trans (State.quiet_fillAll s _ _ _) (State.quiet_writeAs h)
    · simp

@[simp] theorem State.quiet_closeStream (s : State) (n : Nat) (e : EdgeId) (x : Stream) (h : Header) : (s.closeStream n e x h).Quiet s := by
  have hblocks : ∀ (b : Bool) (s : State) (y : StreamEnd) (l : List (Nat × Nat)), (if b then s.freeBlocks y l else (s, y)).1.Quiet s := by
    intro b s y l
    cases b
    · exact ⟨rfl, rfl⟩
    · exact State.quiet_freeBlocks l s y
  have hsecond : ∀ (b : Bool) (s : State) (y : StreamEnd), (if b then s.writeCompressed n e x h.pfmt y else (s, 0, [])).1.Quiet s := by
    intro b s y
    cases b
    · exact ⟨rfl, rfl⟩
    · exact State.quiet_writeCompressed s n e x h.pfmt y
  unfold State.closeStream
  extract_lets phase a b f g a' b'
  split
  · have hb : b.1.Quiet a.1 := hsecond _ _ _
    exact ((State.quiet_writeCompressed s n e x h.pfmt x.fst).trans hb).trans (by simp)
  · have hg : g.1.Quiet f.1 := hblocks _ _ _ _
    exact ((State.quiet_freeBlocks _ s x.fst).trans hg).trans (by simp)

theorem State.quiet_writeTurn {s s1 : State} {n : Nat} {e : EdgeId} {x : Stream} (h : s.writeTurn n e x = some s1) : s1.Quiet s := by
  unfold State.writeTurn at h
  split at h
  · cases h
  · split at h
    · cases h; exact State.quiet_writeGroup s _ _ _ _ _
    · split at h
      · cases h; exact State.quiet_closeStream s _ _ _ _
      · split at h
        · cases h; exact ⟨rfl, rfl⟩
        · cases h

@[simp] theorem State.quiet_writerWrite (s : State) (n : Nat) (e : EdgeId) : (s.writerWrite n e).Quiet s := by
  unfold State.writerWrite
  split
  · cases hx : ((s.core n).edge e).streams.findSome? (fun x => s.writeTurn n e x) with
    | none => exact ⟨rfl, rfl⟩
    | some t =>
      obtain ⟨x, -, ht⟩ := List.exists_of_findSome?_eq_some hx
      exact State.quiet_writeTurn ht
  · exact ⟨rfl, rfl⟩

@[simp] theorem State.quiet_amaxSend (s : State) (n : Nat) (e : EdgeId) : (s.amaxSend n e).Quiet s := by
  unfold State.amaxSend
  dsimp only
  repeat' split
  all_goals simp

@[simp] theorem State.quiet_nextUnit (s : State) : s.nextUnit.Quiet s := ⟨rfl, rfl⟩

@[simp] theorem State.quiet_tick (s : State) : s.tick.Quiet s := ⟨rfl, rfl⟩

@[simp] theorem State.quiet_fetchTouch (s : State) (p u va : Nat) : (s.fetchTouch p u va).Quiet s := by
  unfold State.fetchTouch
  repeat' split
  all_goals simp

@[simp] theorem State.quiet_fetched (s : State) (u t n : Nat) : (s.fetched u t n).Quiet s := by
  unfold State.fetched
  dsimp only
  repeat' split
  all_goals simp

@[simp] theorem State.quiet_askWord (s : State) (u t va : Nat) (g : Target) : (s.askWord u t va g).Quiet s := by
  unfold State.askWord; split <;> simp

@[simp] theorem State.quiet_watchWells (s : State) : s.watchWells.Quiet s := ⟨rfl, rfl⟩

@[simp] theorem State.quiet_settled (s : State) : s.settled.Quiet s := by
  unfold State.settled; simp

end Sys2Proof.Machine
end


section
/-! PROOFS. Bundles, turns and device steps: every step keeps safety (assumptions 2 and 4). -/

namespace Sys2Proof.Machine

/-! ### A bundle -/

theorem State.quiet_applyCommits {rs : List (Nat × Except Stop Commit)} (h : ∀ p k, (p, Except.ok k) ∈ rs → ∀ s, (k s).Quiet s) (s : State) :
    (applyCommits rs s).Quiet s := by
  induction rs generalizing s with
  | nil => exact ⟨rfl, rfl⟩
  | cons r rs ih =>
    obtain ⟨p, r⟩ := r
    cases r with
    | error e => exact ih (fun p k hk => h p k (.tail _ hk)) s
    | ok k => exact (h p k (.head _) s).trans (ih (fun p k hk => h p k (.tail _ hk)) _)

/-- A bundle whose slots each keep within the frame of some instruction. -/
theorem State.quiet_runBundle {s : State} {u t : Nat} {pc next : Word} {slots : List SlotRun} (h : ∀ k ∈ slots, ∃ i, Slot.Spares i k.run) :
    (s.runBundle u t pc next slots).Quiet s := by
  unfold State.runBundle
  dsimp only
  split
  · exact State.quiet_stopAt s _ _ _ _ _ _
  · have hissue : ∀ n l, ((s.bundleIssued u t n l).updThread u t (fun th => th.advance next)).Quiet s :=
      fun n l => (State.Spares.bundleIssued (i := .nop) s n l).quiet.trans (State.quiet_updThread _ _ _ _)
    refine State.Quiet.trans ((hissue _ _).trans (State.quiet_applyCommits ?_ _)) (State.Spares.boundary (i := .nop) _ pc).quiet
    intro p k hk s'
    obtain ⟨x, hx, f, hf, hcase⟩ := runSlots_ok (mem_commitOrder hk)
    obtain ⟨i, hi⟩ := h x hx
    have hx' : (f s').Quiet s' := (hi _ s f hf s').quiet
    rcases hcase with rfl | ⟨by_, st, rfl⟩
    · exact hx'
    · exact hx'.trans (State.quiet_fail _ _ _ _ _)

theorem slotRuns_spares {is : List (Instr × RawSlot)} {k : SlotRun} (h : k ∈ slotRuns is) : ∃ i, Slot.Spares i k.run := by
  obtain ⟨x, -, rfl⟩ := List.mem_map.mp h
  exact ⟨x.1, slotOf_spares x.1⟩

/-! ### The turn of a thread -/

/-- The state that a turn leaves, or issues its one slot from. -/
def Turn.state : Turn → State
  | .one _ s => s
  | .done s => s

theorem State.quiet_issueWords (s : State) (u t : Nat) (pc : Word) (ws : List SlotWord) : (s.issueWords u t pc ws).state.Quiet s := by
  unfold State.issueWords
  extract_lets next s0 s1
  have h1 : s1.Quiet s := ⟨rfl, rfl⟩
  split
  · exact ⟨rfl, rfl⟩
  · split
    · split
      · exact h1.trans (by simp [Turn.state])
      · exact h1.trans (by simp [Turn.state])
    · exact h1
    · exact h1.trans (State.quiet_runBundle (fun k hk => slotRuns_spares hk))

theorem State.quiet_turnOf (s : State) (u t : Nat) : (s.turnOf u t).state.Quiet s := by
  unfold State.turnOf
  extract_lets q s0 s1 th
  have h1 : s1.Quiet s := ⟨rfl, rfl⟩
  clear_value s1
  split
  · exact h1.trans (State.Spares.boundary (i := .nop) s1 th.bundleAt).quiet
  · split
    · next ws _ => exact h1.trans ((State.quiet_fetched s1 u t ws.length).trans (State.quiet_issueWords _ u t th.bundleAt ws))
    · exact h1.trans (by simp [Turn.state])
    · exact h1.trans (by simp [Turn.state])

/-! ### Device steps -/

theorem State.Kept.unblock {s t : State} (h : t.Kept s) : t.unblock.Kept s := h.trans ⟨rfl, id⟩

/-- A device step answers a next state and keeps the canonical form of memory and the agenda. -/
theorem exec_step_kept {i : Instr} (hi : i.isStep = true) (s : State) : ∃ t, exec i s = .next t ∧ t.Kept s := by
  cases i
  case moduleReset => exact ⟨_, rfl, State.kept_moduleReset s⟩
  case pcreate => exact ⟨_, rfl, (State.kept_commandStep (fun p bs => State.kept_pcreate s p bs)).unblock⟩
  case pdestroy => exact ⟨_, rfl, (State.kept_commandStep (fun p _ => State.kept_pdestroy s p)).unblock⟩
  case setcal => exact ⟨_, rfl, (State.kept_commandStep (fun p _ => State.kept_setcal s p)).unblock⟩
  case setres => exact ⟨_, rfl, (State.kept_commandStep (fun p bs => State.kept_setres s p bs)).unblock⟩
  case shoot => exact ⟨_, rfl, (State.kept_commandStep (fun p bs => State.kept_shoot s p bs)).unblock⟩
  case switch => exact ⟨_, rfl, (State.kept_commandStep (fun p bs => State.kept_switchOut s p bs)).unblock⟩
  case resume => exact ⟨_, rfl, (State.kept_commandStep (fun p bs => State.kept_resumeGangs s p bs)).unblock⟩
  case repair => exact ⟨_, rfl, (State.kept_commandStep (fun p bs => State.kept_repair s p bs)).unblock⟩
  case keydrop => exact ⟨_, rfl, (State.kept_commandStep (fun p bs => State.kept_keydrop s p bs)).unblock⟩
  case record => exact ⟨_, rfl, (State.kept_commandStep (fun p bs => State.kept_record s p bs)).unblock⟩
  case replay => exact ⟨_, rfl, (State.kept_commandStep (fun p bs => State.kept_replay s p bs)).unblock⟩
  case update => exact ⟨_, rfl, (State.kept_commandStep (fun p bs => State.kept_update s p bs)).unblock⟩
  all_goals first
    | exact absurd hi Bool.false_ne_true
    | exact ⟨_, rfl, State.Kept.unblock ⟨by simp, fun h => by simp [h]⟩⟩

/-! ### A step -/

theorem exec_kept {i : Instr} {s t : State} (h : exec i s = .next t) : t.Kept s := by
  cases hi : i.isStep with
  | true =>
    obtain ⟨t', ht', hk⟩ := exec_step_kept hi s
    cases h.symm.trans ht'
    exact hk
  | false => exact (State.Spares.exec hi h).quiet.kept

/-- The outcome is a next state, with what it keeps of another. -/
def Keeps (o : Host.Outcome State Fault Refusal) (s : State) : Prop := ∃ t, o = .next t ∧ t.Kept s

theorem Keeps.of_exec {i : Instr} {a s : State} (h : a.Kept s) : Keeps (exec i a) s := by
  obtain ⟨t, ht⟩ := exec_next i a
  exact ⟨t, ht, h.trans (exec_kept ht)⟩

theorem State.chosen_kept {a s : State} (h : a.Kept s) (e : Instr) (again : Bool) : Keeps (a.chosen e again) s :=
  Keeps.of_exec (h.trans ⟨rfl, id⟩)

theorem State.issueStep_kept {a s : State} (h : a.Kept s) : Keeps a.issueStep s := by
  unfold State.issueStep
  split
  · next u t _ =>
    have hturn := State.quiet_turnOf a u t
    split
    · next hone => rw [hone] at hturn; exact Keeps.of_exec (h.trans (hturn.trans ⟨rfl, rfl⟩).kept)
    · next hdone => rw [hdone] at hturn; exact ⟨_, rfl, h.trans (hturn.trans ⟨rfl, rfl⟩).kept⟩
  · split
    · exact State.chosen_kept h _ _
    · refine ⟨_, rfl, h.trans ?_⟩
      split
      · exact ⟨rfl, id⟩
      · exact (State.quiet_tick a).kept

/-- With no device step given, the next step is one of a thread or of the model's choice. -/
theorem State.nextStep_kept {s : State} (h : s.agenda = []) : Keeps s.nextStep s := by
  unfold State.nextStep
  rw [h]
  dsimp only
  split
  · split
    · exact State.chosen_kept (State.quiet_nextUnit s).kept _ _
    · exact State.issueStep_kept (State.quiet_nextUnit s).kept
  · exact State.issueStep_kept ⟨rfl, id⟩

theorem step_of_next {s t : State} (h : s.nextStep = .next t) : step s = .next t.settled := by
  unfold step
  rw [h]

theorem State.Safe.settled {s : State} (h : s.Safe) : s.settled.Safe := by
  obtain ⟨hwf, hag⟩ := h
  obtain ⟨ha, hm⟩ := State.quiet_settled s
  exact ⟨hm ▸ hwf, ha ▸ hag⟩

theorem State.Safe.of_kept {s t : State} (hs : s.Safe) (h : t.Kept s) : t.Safe := ⟨h.2 hs.1, h.1 ▸ hs.2⟩

theorem State.Safe.step {s : State} (hs : s.Safe) : ∃ t, step s = .next t ∧ t.Safe := by
  cases hag : s.agenda with
  | nil =>
    obtain ⟨t, ht, hk⟩ := State.nextStep_kept hag
    exact ⟨_, step_of_next ht, (hs.of_kept hk).settled⟩
  | cons e rest =>
    obtain ⟨hwf, hsteps⟩ := hs
    rw [hag] at hsteps
    obtain ⟨t, ht, hk⟩ := Keeps.of_exec (i := e) (State.Quiet.kept (a := { s with agenda := rest }) ⟨rfl, rfl⟩)
    have hnext : s.nextStep = .next t := by
      unfold State.nextStep
      rw [hag]
      dsimp only
      rw [if_pos (hsteps e (.head _)), ht]
    have hrest : State.Safe { s with agenda := rest } := ⟨hwf, fun i hi => hsteps i (.tail _ hi)⟩
    exact ⟨_, step_of_next hnext, (hrest.of_kept hk).settled⟩

theorem run_succ {M : Host.Core} {s t : M.State} (h : M.step s = .next t) (n : Nat) : M.run (n + 1) s = M.run n t := by
  simp only [Host.Core.run, h]

theorem State.Safe.run {s : State} (hs : s.Safe) (n : Nat) : ∃ t, Sys2Proof.core.run n s = .next t ∧ t.Safe := by
  induction n generalizing s with
  | zero => exact ⟨s, rfl, hs⟩
  | succ n ih =>
    obtain ⟨t, ht, hsafe⟩ := hs.step
    obtain ⟨t', ht', hsafe'⟩ := ih hsafe
    exact ⟨t', (run_succ (M := Sys2Proof.core) ht n).trans ht', hsafe'⟩

/-- Settles O6, by what every step keeps of memory and the agenda. -/
theorem everyStepKeepsSafety : Obligations.EveryStepKeepsSafety := by
  unfold Obligations.EveryStepKeepsSafety
  exact ⟨fun s hs => hs.step, fun s n hs => hs.run n, exec_next⟩

end Sys2Proof.Machine
end


section
/-! PROOFS. A step runs the bundle at the program counter, and what follows a step at once (R92, R129, R206, R209, R218). -/

namespace Sys2Proof.Machine

/-! ### One encoded instruction is a bundle of one (R206 to R209) -/

/-- What the words of an instruction's X slots make of the slot before them. -/
theorem rawSlots_xWords (xs : List XPay) : ∀ (pos : Nat) (r : RawSlot),
    rawSlots pos (xWords xs) [r] = [{ r with xs := r.xs ++ xs, xws := r.xws ++ xWords xs }] := by
  induction xs with
  | nil => intro pos r; simp [xWords, rawSlots]
  | cons x xs ih =>
    intro pos r
    have hx : isXSlot (BitVec.ofBool xs.isEmpty ++ 8#4 ++ x) = true := by
      simp -index only [isXSlot, slotClass, BitVec.extractLsb'_append_eq_ite]; simp
    have hpay : (BitVec.ofBool xs.isEmpty ++ 8#4 ++ x : SlotWord).extractLsb' 0 27 = x := by
      simp -index only [BitVec.extractLsb'_append_eq_ite]; simp
    rw [xWords, rawSlots, hpay, ih]
    · simp
    · exact hx

/-- The stop bit stands on the last word of an instruction (R207). -/
theorem slotStop_getLast_xWords (xs : List XPay) (w : SlotWord) (hw : slotStop w = xs.isEmpty) :
    ∃ l, (w :: xWords xs).getLast? = some l ∧ slotStop l = true := by
  induction xs generalizing w with
  | nil => exact ⟨w, rfl, hw⟩
  | cons x xs ih =>
    have hstop : slotStop (BitVec.ofBool xs.isEmpty ++ 8#4 ++ x) = xs.isEmpty := by
      simp -index only [slotStop, BitVec.getLsbD_append]; simp
    obtain ⟨l, hl, hs⟩ := ih _ hstop
    exact ⟨l, by rw [xWords, List.getLast?_cons_cons]; exact hl, hs⟩

theorem length_xWords (xs : List XPay) : (xWords xs).length = xs.length := by
  induction xs with
  | nil => rfl
  | cons x xs ih => rw [xWords, List.length_cons, ih, List.length_cons]

/-- A class that a sequencer has takes a first slot (R235). -/
theorem classLimit_pos {quill : Bool} {c : Nat} (hc : c ≤ 7) (h : classAbsent quill c = false) : 0 < classLimit quill c := by
  have hall : ∀ q : Bool, ∀ c < 8, classAbsent q c = false → 0 < classLimit q c := by decide
  exact hall quill c (by omega) h

theorem instrKinds_nil_class {quill : Bool} {i : Instr} (h : instrKinds quill i = []) : classAbsent quill (instrClass i) = false := by
  unfold instrKinds at h
  cases hc : classAbsent quill (instrClass i) with
  | false => rfl
  | true => rw [hc] at h; cases h

/-- An instruction without a reserved kind, encoded, is accepted as a bundle of its own. -/
theorem checkBundle_encode {quill : Bool} {i : Instr} (hi : i.isStep = false) (hx : i.xpays.length ≤ i.maxX) (hk : instrKinds quill i = [])
    (hd : coincide (instrDests i) = false) : ∃ r, checkBundle quill (encode i) = .ok [(i, r)] := by
  obtain ⟨c, op, b, hop⟩ := opBody_isSome hi
  have hdec := decodeSlot_slotWord i.xpays.isEmpty hop
  have henc : encode i = slotWord i.xpays.isEmpty c op b :: xWords i.xpays := by rw [encode, hop]
  generalize hw : slotWord i.xpays.isEmpty c op b = w at hdec henc
  have hcls : slotClass w = c := by rw [← hw, slotClass_slotWord]
  have hnx : isXSlot w = false := by
    rw [isXSlot, beq_eq_false_iff_ne]
    intro h8
    rw [decodeSlot, show w.extractLsb' 27 4 = 8 from h8] at hdec
    cases hdec
  have hraw : rawSlots 0 (encode i) [] = [⟨w, 0, i.xpays, xWords i.xpays, 0⟩] := by
    rw [henc, rawSlots.eq_def]
    dsimp only
    rw [hnx]
    exact rawSlots_xWords _ _ _
  have hkinds : slotKinds quill ⟨w, 0, i.xpays, xWords i.xpays, 0⟩ = [] := by
    have habs : classAbsent quill c.toNat = false := by
      have := instrKinds_nil_class hk
      rwa [instrClass, hop] at this
    have hlim : c.toNat ≤ 7 → ¬ classLimit quill c.toNat ≤ 0 := fun h => Nat.not_le.mpr (classLimit_pos h habs)
    unfold slotKinds
    dsimp only
    rw [hdec, hcls]
    dsimp only
    rw [hk, habs]
    by_cases h7 : c.toNat ≤ 7
    · simp [hlim h7]
    · simp [h7]
  have hexcess : excessX i 0 (xWords i.xpays) = none := by
    rw [excessX, List.getElem?_eq_none (by rw [length_xWords]; exact hx)]
    rfl
  obtain ⟨l, hl, hstop⟩ := slotStop_getLast_xWords i.xpays w (by rw [← hw, slotStop_slotWord])
  refine ⟨⟨w, 0, i.xpays, xWords i.xpays, 0⟩, ?_⟩
  have hslots : checkSlots quill [] [⟨w, 0, i.xpays, xWords i.xpays, 0⟩] = .ok [(i, ⟨w, 0, i.xpays, xWords i.xpays, 0⟩)] := by
    simp only [checkSlots, hkinds, hdec, List.append_nil, hd, hexcess]
    rfl
  rw [checkBundle, hraw, hslots, henc]
  dsimp only
  rw [hl]
  simp [hstop]

end Sys2Proof.Machine
end


section
/-! PROOFS. A step runs the bundle at the program counter, and what follows a step at once (R92, R129, R206, R218, R221). -/

namespace Sys2Proof.Machine

/-! ### The turn of a thread (R92, R206, R221) -/

@[simp] theorem State.thread_fetchTouch (s : State) (p u va v m : Nat) : (s.fetchTouch p u va).thread v m = s.thread v m := by
  unfold State.fetchTouch
  split
  · rfl
  · dsimp only
    split
    · exact (State.thread_of_seqs (State.seqs_touch _ _ _ _ _ _) v m).trans (State.thread_walked s u p va v m)
    · exact State.thread_walked s u p va v m

/-- The access of a bundle's lines changes no thread. -/
@[simp] theorem State.thread_fetched (s : State) (u t n v m : Nat) : (s.fetched u t n).thread v m = s.thread v m := by
  unfold State.fetched
  dsimp only
  split
  · rfl
  · split
    · simp
    · simp

theorem Thread.skipping_of_loop {th : Thread} (h : th.loop = none) : th.skipping = false := by
  rw [Thread.skipping, h]

theorem Thread.bundleAt_of_loop {th : Thread} (h : th.loop = none) : th.bundleAt = th.pc := by
  rw [Thread.bundleAt, h]
  rfl

/-- The state in which a thread's turn begins. -/
def State.atTurn (s : State) (u t : Nat) : State := { s.setSeq u { s.seq u with cur := t } with curUnit := u }

/-- The state from which the words of a bundle issue: its lines accessed, the answers used up, the loop buffer filled. -/
def State.atIssue (s : State) (u t : Nat) (pc : Word) (ws : List SlotWord) : State :=
  let s2 := s.fetched u t ws.length
  ({ s2 with inbox := s2.inbox.filter (fun m => !(m.unit == u && m.thr == t)) } : State).updThread u t (fun h => h.record pc ws)

section
variable {s : State} {u t : Nat} {ws : List SlotWord}

/-- Without a trap and outside a loop, the words fetched issue at the program counter. -/
theorem State.turnOf_words (htraps : ((s.atTurn u t).thread u t).traps = []) (hloop : ((s.atTurn u t).thread u t).loop = none)
    (hws : (s.atTurn u t).fetchBundle u t = .words ws) :
    s.turnOf u t = ((s.atTurn u t).fetched u t ws.length).issueWords u t ((s.atTurn u t).thread u t).pc ws := by
  have hturn : s.turnOf u t =
      (if !((s.atTurn u t).thread u t).traps.isEmpty && !((s.atTurn u t).thread u t).skipping then
        .done ((s.atTurn u t).boundary u t ((s.atTurn u t).thread u t).bundleAt)
      else match (s.atTurn u t).fetchBundle u t with
        | .words ws => ((s.atTurn u t).fetched u t ws.length).issueWords u t ((s.atTurn u t).thread u t).bundleAt ws
        | .wait va g => .done ((s.atTurn u t).askWord u t va g)
        | .fault cause addr status => .done ((s.atTurn u t).stopAt u t ((s.atTurn u t).thread u t).pc 0 15 (.xlate cause addr status))) := rfl
  rw [hturn, htraps, hws, Thread.bundleAt_of_loop hloop]
  rfl

theorem State.issueWords_one {i : Instr} {r : RawSlot} {pc : Word} (hloop : (s.thread u t).loop = none)
    (hc : checkBundle (isQuill u) ws = .ok [(i, r)]) :
    (s.fetched u t ws.length).issueWords u t pc ws = .one i (s.atIssue u t pc ws) := by
  unfold State.issueWords
  dsimp only
  rw [State.thread_fetched, Thread.skipping_of_loop hloop, hc]
  rfl

theorem State.issueWords_several {is : List (Instr × RawSlot)} {pc : Word} (hloop : (s.thread u t).loop = none)
    (hc : checkBundle (isQuill u) ws = .ok is) (hlen : 1 < is.length) :
    (s.fetched u t ws.length).issueWords u t pc ws =
      .done ((s.atIssue u t pc ws).runBundle u t pc (pc + BitVec.ofNat 64 (4 * ws.length)) (slotRuns is)) := by
  unfold State.issueWords
  dsimp only
  rw [State.thread_fetched, Thread.skipping_of_loop hloop, hc]
  obtain _ | ⟨x, _ | ⟨y, is⟩⟩ := is
  · cases hlen
  · exact absurd hlen (Nat.lt_irrefl 1)
  · rfl

/-- A step at the turn of the threads is what the turn of the next one makes of it. -/
theorem step_of_turn (hag : s.agenda = []) (hdev : s.devTurn = false) (hnext : s.nextIssuer = some (u, t)) {x : State}
    (h : (∃ i s', s.turnOf u t = .one i s' ∧ exec i { s' with devTurn := true } = .next x) ∨
      ∃ s', s.turnOf u t = .done s' ∧ x = { s' with devTurn := true }) : step s = .next x.settled := by
  refine step_of_next ?_
  unfold State.nextStep
  rw [hag, hdev]
  dsimp only
  rw [if_neg Bool.false_ne_true]
  unfold State.issueStep
  rw [hnext]
  dsimp only
  rcases h with ⟨i, s', hturn, hexec⟩ | ⟨s', hturn, rfl⟩
  · rw [hturn]
    exact hexec
  · rw [hturn]

end

/-! ### A device step that is given -/

theorem step_of_agenda {s : State} {i : Instr} {rest : List Instr} (hag : s.agenda = i :: rest) (hi : i.isStep = true) :
    ∃ x, exec i { s with agenda := rest } = .next x ∧ step s = .next x.settled := by
  obtain ⟨x, hx⟩ := exec_next i { s with agenda := rest }
  refine ⟨x, hx, step_of_next ?_⟩
  unfold State.nextStep
  rw [hag]
  dsimp only
  rw [if_pos hi, hx]

end Sys2Proof.Machine
end


section
/-! PROOFS. What follows a step at once, the fetch of a bundle, and a step as a whole (R92, R129, R206, R218). -/

namespace Sys2Proof.Machine

/-! ### What follows a step at once -/

/-- What the looking again after a step leaves as it is, tasks, threads' watches and the counts of holds apart. -/
def State.lasting (s : State) : List Host.Cell × List Req × SMap Seq × SMap CoreArr × List Task := (s.mem, s.reqs, s.seqs, s.cores, s.tasks)

theorem State.lasting_boundaries (s : State) : s.boundaries.lasting = s.lasting := by
  unfold State.boundaries
  exact foldl_keeps (g := State.lasting) (f := State.runBoundary) (fun _ _ => rfl) _ s

theorem State.lasting_watchPointers (s : State) : s.watchPointers.lasting = s.lasting := by
  unfold State.watchPointers
  exact foldl_keeps (g := State.lasting) (f := fun s p => s.movePointers p (s.dispatchable p)) (fun _ _ => rfl) _ s

/-- Tasks that have not ended report nothing. -/
theorem State.reportTasks_of_running {s : State} (h : ∀ k ∈ s.tasks, k.done = none) : s.reportTasks = s := by
  have hfold : ∀ (ks : List Task), (∀ k ∈ ks, k.done = none) → ks.foldl State.reportTask s = s := by
    intro ks
    induction ks with
    | nil => exact fun _ => rfl
    | cons k ks ih =>
      intro hk
      have hone : s.reportTask k = s := by
        unfold State.reportTask
        rw [hk k (.head _)]
      rw [List.foldl_cons, hone]
      exact ih (fun k' hk' => hk k' (.tail _ hk'))
  exact hfold _ h

/-- The state that is looked at for waits on wells, once nothing is left to report. -/
theorem State.settled_of_running {s : State} (h : ∀ k ∈ s.tasks, k.done = none) :
    ∃ a : State, a.lasting = s.lasting ∧ s.settled = a.watchWells.watchHolds.watchActs := by
  have hb := s.lasting_boundaries
  have hrep : s.boundaries.reportTasks = s.boundaries :=
    State.reportTasks_of_running (by rw [show s.boundaries.tasks = s.tasks from (congrArg (fun x => x.2.2.2.2) hb :)]; exact h)
  refine ⟨s.boundaries.watchRings.watchDeps.watchPointers, ?_, ?_⟩
  · rw [State.lasting_watchPointers]
    exact hb
  · rw [State.settled, hrep]

/-- A part that a change of the entries, each by its place, leaves alone reads as before. -/
theorem lookup_mapAt {α β : Type} (f : Nat → α → α) (g : α → β) (d : α) (k : Nat) (m : SMap α)
    (hf : ∀ i x, g (f i x) = g x) : g (lookup d k (m.map (fun e => (e.1, f e.1 e.2)))) = g (lookup d k m) := by
  induction m with
  | nil => rfl
  | cons e m ih =>
    simp only [List.map_cons, lookup]
    split
    · exact hf _ _
    · exact ih

theorem State.cells_watchHolds (s : State) (n : Nat) : (s.watchHolds.core n).cells = (s.core n).cells := by
  have hmap : s.watchHolds.cores = s.cores.map (fun e => (e.1, if e.2.hold.isSome && !s.holdCounts e.1 then { e.2 with holdFrom := s.cycles e.1 } else e.2)) := by
    refine List.map_congr_left (fun e _ => ?_)
    split <;> rfl
  have hcells : ∀ i (x : CoreArr), (if x.hold.isSome && !s.holdCounts i then { x with holdFrom := s.cycles i } else x).cells = x.cells := by
    intro i x
    split <;> rfl
  rw [State.core, hmap]
  exact lookup_mapAt (fun i (x : CoreArr) => if x.hold.isSome && !s.holdCounts i then { x with holdFrom := s.cycles i } else x)
    CoreArr.cells _ n _ hcells

theorem State.thread_watchWells (s : State) (u t : Nat) : s.watchWells.thread u t = (s.thread u t).watchWell s := by
  have hseq : s.watchWells.seq u = { s.seq u with threads := (s.seq u).threads.map (fun th => th.watchWell s) } :=
    lookup_map (fun q : Seq => { q with threads := q.threads.map (fun th => th.watchWell s) }) (Seq.reset u) u s.seqs (by
      simp only [Seq.reset, Vector.map_replicate]
      rfl)
  rw [State.thread, hseq]
  by_cases ht : t < 4
  · simp [State.thread, Vector.getD, ht]
  · simp [State.thread, Vector.getD, ht]
    rfl

/-- A wait on a well that is reported changes no register of its thread. -/
theorem Thread.watchWell_same (th : Thread) (s : State) : (th.watchWell s).sameFile th ∧ (th.watchWell s).sameTrap th ∧ (th.watchWell s).pc = th.pc := by
  have hsame : ∀ a : Thread, a.sameFile a ∧ a.sameTrap a ∧ a.pc = a.pc :=
    fun a => ⟨⟨rfl, rfl, rfl, rfl, rfl, rfl, rfl, rfl, rfl⟩, ⟨rfl, rfl, rfl, rfl, rfl, rfl⟩, rfl⟩
  unfold Thread.watchWell
  split
  · split
    · exact hsame th
    · exact hsame th
  · exact hsame th

theorem settled_same {s : State} (h : ∀ k ∈ s.tasks, k.done = none) :
    s.settled.mem = s.mem ∧ s.settled.reqs = s.reqs ∧ (∀ n, (s.settled.core n).cells = (s.core n).cells) ∧
    ∀ u t, (s.settled.thread u t).sameFile (s.thread u t) ∧ (s.settled.thread u t).sameTrap (s.thread u t) ∧
      (s.settled.thread u t).pc = (s.thread u t).pc := by
  obtain ⟨a, ha, hset⟩ := State.settled_of_running h
  obtain ⟨hmem, hreqs, hseqs, hcores, -⟩ : a.mem = s.mem ∧ a.reqs = s.reqs ∧ a.seqs = s.seqs ∧ a.cores = s.cores ∧ a.tasks = s.tasks := by
    simpa only [State.lasting, Prod.mk.injEq] using ha
  rw [hset]
  refine ⟨hmem, hreqs, fun n => ?_, fun u t => ?_⟩
  · have hcell := a.watchWells.cells_watchHolds n
    rw [show a.watchWells.core n = s.core n from congrArg (lookup CoreArr.reset n) hcores] at hcell
    exact hcell
  · have hth : a.thread u t = s.thread u t := State.thread_of_seqs hseqs u t
    have hw := a.thread_watchWells u t
    rw [hth] at hw
    rw [show a.watchWells.watchHolds.watchActs.thread u t = a.watchWells.thread u t from rfl, hw]
    exact Thread.watchWell_same _ _

/-! ### The fetch of a bundle (R129, R206) -/

/-- The number of a word in its bytes. -/
theorem leNat_bytesOfWord (w : SlotWord) : BitVec.ofNat 32 (leNat (bytesOfWord w)) = w := by
  refine BitVec.eq_of_toNat_eq ?_
  simp only [bytesOfWord, leNat, BitVec.toNat_ofNat, BitVec.extractLsb'_toNat, Nat.shiftRight_eq_div_pow]
  have := w.isLt
  omega

theorem fetchBundle_word {s : State} {u t core off : Nat} {g : Target} {w : SlotWord} (hloop : (s.thread u t).loop = none)
    (hpc : (s.thread u t).pc.toNat % 4 = 0)
    (hg : s.translate ((s.partOfUnit u).getD 0) u (s.thread u t).pc.toNat .fetch = .ok g) (hlocal : s.isLocal g = true)
    (hloc : locate (localOf g.pa) = .scratch core off) (hpoison : s.poisonedAt g = false)
    (hmem : memRead s.mem (localOf g.pa) 4 = bytesOfWord w) (hstop : slotStop w = true) : s.fetchBundle u t = .words [w] := by
  have hhome : s.homeCause ((s.partOfUnit u).getD 0) g = none := by
    unfold State.homeCause
    dsimp only
    rw [hloc]
  have hread : s.readAt ((s.partOfUnit u).getD 0) g 4 = bytesOfWord w := by
    unfold State.readAt State.bytesUnder
    rw [hloc]
    exact hmem
  have hword : s.fetchWord ((s.partOfUnit u).getD 0) u t (s.thread u t).pc.toNat = .words [w] := by
    unfold State.fetchWord
    rw [hg]
    dsimp only
    rw [hlocal, hhome, hpoison, hread, leNat_bytesOfWord]
    rfl
  unfold State.fetchBundle
  dsimp only
  rw [hloop]
  simp only [Option.bind_none, hpc]
  rw [if_neg (by decide), State.fetchWords, hword]
  simp [hstop]

/-! ### A step -/

/-- Settles O3. -/
theorem stepRunsTheBundleAtThePc : Obligations.StepRunsTheBundleAtThePc := by
  unfold Obligations.StepRunsTheBundleAtThePc
  refine ⟨fun s u t ws hag hdev hnext => ?_, fun s i rest => step_of_agenda, fun s => settled_same,
    fun s u t core off g w => fetchBundle_word⟩
  intro s0 th s2 s1 htraps hloop hws
  have hturn := State.turnOf_words (s := s) htraps hloop hws
  refine ⟨fun i hi hx hk hd hwi => ?_, fun is hc hlen => ?_⟩
  · obtain ⟨r, hr⟩ := checkBundle_encode hi hx hk hd
    rw [← hwi] at hr
    obtain ⟨x, hexec⟩ := exec_next i { s1 with devTurn := true }
    exact ⟨x, hexec, step_of_turn hag hdev hnext (.inl ⟨i, s1, hturn.trans (State.issueWords_one hloop hr), hexec⟩)⟩
  · exact step_of_turn hag hdev hnext (.inr ⟨_, hturn.trans (State.issueWords_several hloop hc hlen), rfl⟩)

end Sys2Proof.Machine
end
